-- ==== Sys2Proof/Word.lean ====
section
/-! DEFINITION. The words of the block: bytes, byte strings and the fixed names of its functions, halves and
senders. Widths follow the spec's conventions (00_scope, R510, R12). -/

namespace Sys2Proof

/-- One byte. -/
abbrev Byte := BitVec 8

/-- A byte string, lowest address first. -/
abbrev Bytes := List (BitVec 8)

/-- A half of the device (R11, R12). -/
inductive Half where
  | h0 | h1
  deriving DecidableEq, Repr

/-- A PCIe function (R460). -/
inductive Fn where
  | pf0 | pf1 | vf (n : Nat)
  deriving DecidableEq, Repr

/-- One of the two I3C targets (R510, R720). -/
inductive I3cTarget where
  | bmc | fm
  deriving DecidableEq, Repr

/-- Where a desk command came from: the carrel that posted it, or a forwarded message by its arrival
number (R531, R538). -/
inductive DeskSrc where
  | carrel (n : Nat)
  | forward (id : Nat)
  deriving DecidableEq, Repr

/-- A device read of host memory as it ends: its bytes, or one of the failures of R475, or a completion that
R486 dropped. -/
inductive HostRead where
  | data (bytes : Bytes)
  | timeout
  | unsupported
  | aborted
  | dropped
  deriving DecidableEq, Repr

end Sys2Proof
end

