-- ==== Sys2Proof/Syntax.lean ====
section
/-! DEFINITION. The commands of the block: one constructor for each row of spec/opcode_table.json, in the
table's order, with the operands that the row's rule gives the step. Host memory lies outside the device, so a
row whose step reads it carries what the read brought (log 10); a row for something a sensor, a partner or the
board does carries what it did. -/

namespace Sys2Proof

/-- A folio or a key/value page, as the fetch engine names it (R102, R186). -/
inductive FolioId where
  | tile (tensor : Nat) (tile : Nat)
  | page (obj : Nat) (head : Nat) (run : Nat) (entry : Nat)
  deriving DecidableEq, Repr

/-- What another module or tray answered to a read the step needed (R413, R456, R395). -/
inductive RemoteRead where
  | none
  | data (bytes : Bytes) (poison : Bool)
  | refused (status : Nat)
  | unanswered
  deriving DecidableEq, Repr

/-- What the first reads of a recovery bring (R255): that of the tier where the folio lies, and that of a mirror extent. -/
structure FirstReads where
  tier : RemoteRead
  mirror : RemoteRead
  deriving DecidableEq, Repr

/-- A place in the BARs of a function (R460): BAR0, or BAR2, and an offset in it. -/
structure BarPlace where
  bar2 : Bool
  off : Nat
  deriving DecidableEq, Repr

/-- How a plain-face access reached the device (R468, R313). -/
inductive PlainPath where
  | cxl | link
  deriving DecidableEq, Repr

/-- A read or a write on the runtime face (R743). -/
inductive AccessOp where
  | read (len : Nat)
  | write (bytes : Bytes)
  deriving DecidableEq, Repr

/-- The half-open unit names of UNIT_REMAP and MU faults (R280, R283). -/
inductive UnitRef where
  | mu (n : Nat)
  | vu (n : Nat)
  deriving DecidableEq, Repr

/-- What strikes in a MODULE_FAULT (R23). -/
inductive ModuleUnit where
  | hostEndpoint | controlProcessor | alwaysOn
  deriving DecidableEq, Repr

/-- A component of a mirrored extent (R374). -/
inductive MirrorPart where
  | primary | secondary
  deriving DecidableEq, Repr

/-- The outcome of lane equalisation, lanes 0 to 7 with 1 for a lane that converged (R402, R403). -/
abbrev LaneMask := BitVec 8

/-- One command of the block. -/
inductive Instr where
  | carrelDoorbell (carrel : Nat) (full : Bool) (value : BitVec 64)
  | carrelMessageWrite (carrel : Nat) (off : Nat) (bytes : Bytes)
  | messageTake
  | deviceInfo (src : DeskSrc)
  | attestReport (src : DeskSrc)
  | certChain (src : DeskSrc)
  | tenantCreate (src : DeskSrc)
  | tenantSet (src : DeskSrc)
  | tenantDestroy (src : DeskSrc)
  | masterBind (src : DeskSrc)
  | volumeKey (src : DeskSrc)
  | tenantStatus (src : DeskSrc)
  | regionAlloc (src : DeskSrc)
  | regionFree (src : DeskSrc)
  | regionCopy (src : DeskSrc) (host : HostRead) (remote : RemoteRead)
  | workingCopy (src : DeskSrc) (remote : RemoteRead)
  | kvCreate (src : DeskSrc)
  | kvPages (src : DeskSrc)
  | kvMove (src : DeskSrc) (remote : RemoteRead)
  | kvFree (src : DeskSrc)
  | plainGranule (src : DeskSrc)
  | plainCache (src : DeskSrc)
  | plainFlush (src : DeskSrc)
  | kvGuards (src : DeskSrc)
  | tensorAccession (src : DeskSrc)
  | tensorStatus (src : DeskSrc)
  | tensorUnload (src : DeskSrc)
  | windowDeclare (src : DeskSrc)
  | windowSeal (src : DeskSrc)
  | windowReopen (src : DeskSrc)
  | windowClose (src : DeskSrc)
  | tensorGuards (src : DeskSrc)
  | tensorOrigin (src : DeskSrc)
  | volumeLoad (src : DeskSrc) (remote : RemoteRead)
  | volumeUnload (src : DeskSrc)
  | queueCreate (src : DeskSrc)
  | queueDestroy (src : DeskSrc)
  | volumeStatus (src : DeskSrc)
  | poolOffer (src : DeskSrc)
  | extentRequest (src : DeskSrc)
  | extentGrant (src : DeskSrc)
  | leaseRenew (src : DeskSrc) (buf : HostRead)
  | extentRecall (src : DeskSrc)
  | extentReturn (src : DeskSrc)
  | extentFlush (src : DeskSrc) (buf : HostRead)
  | shareCreate (src : DeskSrc) (buf : HostRead)
  | editionOpen (src : DeskSrc)
  | editionPublish (src : DeskSrc)
  | editionClose (src : DeskSrc)
  | nearOp (src : DeskSrc)
  | mirrorResolve (src : DeskSrc)
  | poolLimit (src : DeskSrc)
  | poolStatus (src : DeskSrc)
  | depotGrant (src : DeskSrc)
  | depotRevoke (src : DeskSrc)
  | linkStatus (src : DeskSrc)
  | linkConfig (src : DeskSrc)
  | linkAnchor (src : DeskSrc) (buf : HostRead)
  | sessionBind (src : DeskSrc)
  | sessionClose (src : DeskSrc)
  | windowSet (src : DeskSrc)
  | routeSet (src : DeskSrc)
  | portReset (src : DeskSrc)
  | bwSet (src : DeskSrc) (buf : HostRead)
  | bwStatus (src : DeskSrc)
  | bwUrgency (src : DeskSrc)
  | errataRead (src : DeskSrc)
  | rasStatus (src : DeskSrc)
  | unitService (src : DeskSrc)
  | scrubSet (src : DeskSrc)
  | powerFloor (src : DeskSrc)
  | powerLimit (src : DeskSrc)
  | powerStatus (src : DeskSrc)
  | configWrite (src : DeskSrc) (buf : HostRead)
  | configStatus (src : DeskSrc)
  | fwInfo (src : DeskSrc)
  | fwStage (src : DeskSrc) (buf : HostRead)
  | fwCommit (src : DeskSrc)
  | fwCommitWriteEnd (ok : Bool)
  | diagMode (src : DeskSrc)
  | cpRestart (src : DeskSrc)
  | glbLockRead (fn : Fn) (n : Nat) (coversLow : Bool)
  | glbRelease (fn : Fn) (full : Bool) (value : BitVec 64)
  | queDoorbell (queue : Nat) (full : Bool) (value : BitVec 64) (consumed : HostRead) (input : RemoteRead)
  | queueSlotWrite (queue : Nat) (slot : Nat) (off : Nat) (bytes : Bytes)
  | readRaw (target : BitVec 4)
  | readCorrected (target : BitVec 4)
  | writeRaw (target : BitVec 4)
  | writeEncoded (target : BitVec 4)
  | writePoison (target : BitVec 4)
  | registerWrite (fn : Fn) (off : Nat) (bytes : Bytes) (consumed : HostRead) (input : RemoteRead)
  | callSlipAdmit
  | callSlipEnd (ctx : Nat)
  | deadlinePass (ctx : Nat)
  | fetchIssue (half : Half)
  | folioDataArrive (slice : Nat) (folio : FolioId)
  | folioArriveComplete (slice : Nat) (folio : FolioId) (remote : RemoteRead)
  | folioRecovery (slice : Nat) (folio : FolioId) (reads : FirstReads) (replica origin : RemoteRead)
  | recoveryBudgetExpiry (slice : Nat) (folio : FolioId)
  | matvec (ctx : Nat) (remote : RemoteRead)
  | attnScore (ctx : Nat) (remote : RemoteRead)
  | attnValue (ctx : Nat) (remote : RemoteRead)
  | kvAppend (ctx : Nat)
  | elemwise (ctx : Nat)
  | rmsnorm (ctx : Nat)
  | layernorm (ctx : Nat)
  | softmax (ctx : Nat)
  | rope (ctx : Nat)
  | act (ctx : Nat)
  | embed (ctx : Nat) (remote : RemoteRead)
  | merge (ctx : Nat)
  | topk (ctx : Nat)
  | sample (ctx : Nat) (remote : RemoteRead)
  | relayReduce (ctx : Nat)
  | loop (ctx : Nat)
  | route (ctx : Nat)
  | conditionalSkip (ctx : Nat)
  | consumedRead (ctx : Nat)
  | consumedReadReturn (ctx : Nat) (answer : HostRead)
  | probeRun (mu : Nat)
  | probeForce (tensor : Nat)
  | investigationRerun (tensor : Nat)
  | investigationRefetch (tensor : Nat) (remote : RemoteRead)
  | investigationOtherMu (tensor : Nat) (remote : RemoteRead)
  | investigationTimeout (tensor : Nat)
  | accessionStart (remote : RemoteRead)
  | accessionEnd
  | weightWindowRead (mid : Nat) (path : PlainPath) (off : Nat) (len : Nat)
  | plainRead (mid : Nat) (path : PlainPath) (off : Nat) (len : Nat)
  | plainWrite (mid : Nat) (path : PlainPath) (off : Nat) (bytes : Bytes)
  | cacheLineFill (half : Half) (set way line : Nat)
  | cacheEvictComplete (half : Half) (set way : Nat)
  | weedingSweep
  | binderyTimeout (half : Half) (line : Nat)
  | granuleZeroingEnd (addr : Nat)
  | runtimeAccess (mid : Nat) (addr : Nat) (op : AccessOp) (remote : RemoteRead)
  | grantMessage
  | grantAccept
  | grantRefuse
  | grantTimeout (half : Half) (ext : Nat)
  | requestTimeout (request : Nat)
  | dueDateExpiry (half : Half) (ext : Nat)
  | graceEnd (half : Half) (ext : Nat)
  | drainEnd (half : Half) (ext : Nat)
  | eraseEnd (half : Half) (ext : Nat)
  | noticeReceive
  | handleFreeTimeout (handle : Nat)
  | nearOpStart (half : Half)
  | nearOpEnd (half : Half)
  | mirrorComponentLoss (handle : Nat) (part : MirrorPart)
  | mirrorResyncEnd (half : Half) (ext : Nat)
  | mirrorVerify (half : Half) (ext : Nat) (block : Nat) (secondary : RemoteRead) (stamp : BitVec 64)
  | parityComponentLoss (set : Nat) (index : Nat)
  | parityRebuildEnd (set : Nat) (index : Nat)
  | parityVerify (half : Half) (ext : Nat) (line : Nat) (dataLines : List RemoteRead)
  | poolWindowAdjust (lender : Nat)
  | trayTimeout (grant : Nat)
  | trayProbe (grant : Nat) (answered : Bool)
  | portEnable (port : Nat)
  | equalisationDone (port : Nat) (lanes : LaneMask)
  | flitLock (port : Nat)
  | hello (port : Nat)
  | authCert (port : Nat)
  | keyxA (port : Nat)
  | keyxB (port : Nat)
  | confA (port : Nat)
  | authDone (port : Nat)
  | trainingTimeout (port : Nat)
  | portRetryTimer (port : Nat)
  | flitReceive (port : Nat) (raw : Bytes) (uncorrectable : Bool)
  | linkNak (port : Nat)
  | replayTimeout (port : Nat)
  | portRetrain (port : Nat)
  | creditWithheldTimeout (port : Nat) (channel : Nat)
  | pairCert (port : Nat)
  | pairXA (port : Nat)
  | pairXB (port : Nat)
  | pairConf (port : Nat)
  | sessionOpen (port : Nat)
  | sessionAccept (port : Nat)
  | sessionRefuse (port : Nat)
  | sack (port : Nat)
  | sessionResendTimeout (node sid : Nat)
  | sessionSilencePing (node sid : Nat)
  | ping (port : Nat)
  | pong (port : Nat)
  | sessionLossTimeout (node sid : Nat)
  | close (port : Nat)
  | masterIdFreeTimeout (mid : Nat)
  | rekeyDue (node sid : Nat)
  | rekey (port : Nat)
  | portLeaveService (port : Nat)
  | pathReturnTimer (port : Nat)
  | rdReq (port : Nat) (remotes : List RemoteRead)
  | wr (port : Nat) (consumed : HostRead) (input : RemoteRead)
  | rdRsp (port : Nat)
  | cmpl (port : Nat)
  | red (port : Nat)
  | msgStart (remote : RemoteRead)
  | msgToken
  | msgStop
  | desk
  | deskReply
  | timeFlitSend (port : Nat)
  | timeFlitReceive (port : Nat) (rx : Nat)
  | syncPulse
  | syncInEdge
  | syncErrTimeout
  | masterElection
  | lpIdleTimer (port : Nat)
  | lpReq (port : Nat)
  | lpAck (port : Nat)
  | lpNak (port : Nat)
  | wake (port : Nat)
  | pcieMemoryRequest (fn : Fn) (write : Bool) (place : BarPlace) (len : Nat) (bytes : Bytes) (consumed : HostRead) (input : RemoteRead)
  | configRequest (fn : Fn) (write : Bool) (off : Nat) (value : BitVec 32)
  | initiateFlr (fn : Fn)
  | flrComplete (fn : Fn)
  | vfEnable (enable : Bool) (count : Nat)
  | hostReadCompletion (fn : Fn) (tag : Nat) (answer : HostRead)
  | hostReadTimeout (fn : Fn) (tag : Nat)
  | tagQuarantineEnd (fn : Fn) (tag : Nat)
  | l0pRequest (link : Nat) (demand : Bool)
  | aspmL1Entry (link : Nat)
  | addDynamicCapacityResponse (granule : Nat) (accepted : Bool)
  | releaseDynamicCapacity (granule : Nat)
  | dynamicCapacityTimeout (granule : Nat)
  | identifyMemoryDevice
  | getEventRecords
  | clearEventRecords (handles : List Nat)
  | getPoisonList (start len : Nat)
  | getHealthInfo
  | getDynamicCapacityConfiguration
  | getDynamicCapacityExtentList (start count : Nat)
  | mailboxUnsupported (opcode : Nat)
  | ledgerWindow
  | urgLevelChange (port : Nat) (level : BitVec 2)
  | idleToReady
  | readyToDoze
  | dozeToSleep
  | wakeComplete
  | sleepToDoze
  | sleepScrubVisit
  | thermalSample (c0 t0 c1 t1 : Nat)
  | throttleUpdate (watts : Nat)
  | thermtrip
  | auxPowerOn (slot : BitVec 3) (pufOk : Bool)
  | auxPowerOff
  | mainInputInRange
  | mainInputDeparture
  | mainInputReturn (pufOk : Bool)
  | perstFall
  | perstRise (slot : BitVec 3)
  | bootRomStart
  | cpWatchdogExpiry
  | cpRestartEnd
  | muLocalReset (mu : Nat)
  | unitRemap (unit : UnitRef)
  | rowSpareEnd (half : Half) (tier : Nat)
  | patrolScrub (addr : Nat) (replica origin : RemoteRead)
  | stackFailure (stack : Nat)
  | packageFailure (pkg : Nat)
  | packageRemap (half : Half)
  | halfFence (half : Half)
  | moduleFault (unit : ModuleUnit)
  | trngFail (half : Half)
  | debugChallenge
  | debugResponse (sig : Bytes)
  | debugIdentityRead
  | i3cTargetReset (target : I3cTarget)
  | auxStatusRead (target : I3cTarget) (addr : Nat) (len : Nat)
  | linkReadTimeout (node sid tag : Nat)
  | hostLinkTraining (link : Nat) (rate10 : Nat) (width : Nat)
  | portFailureTimeout (port : Nat)
  | tilePresenceSet (tensor tile : Nat) (remote : RemoteRead)
  deriving DecidableEq, Repr

end Sys2Proof
end

