-- ==== Sys2Proof/Config.lean ====
section
/-! DEFINITION. What the spec leaves to an implementation or leaves open: uninterpreted constants. None has a
body, so nothing can be proved of the value of any of them; a statement that names one holds for every value. -/

namespace Sys2Proof.Config

/-- The n-th byte that a TRNG of the device draws (R555, R598, R602, R216; log 4). -/
opaque trng : Nat → Byte

/-- The SM3 digest of a byte string, 32 bytes (R145, R224, R608; GB/T 32905 is named by the spec, not given;
log 5). -/
opaque sm3 : Bytes → Vector Byte 32

/-- Whether a 64-byte SM2 signature over a message verifies under a 64-byte public key with an identifier
(R616, R618, R624; log 5). -/
opaque sm2Verify : (identifier key message signature : Bytes) → Bool

/-- The SM2 signature over a message that a private key makes, with an identifier (R609; log 5). -/
opaque sm2Sign : (key identifier message : Bytes) → Vector Byte 64

/-- The root key that the PUF and its helper data reconstruct (R596; log 13). -/
opaque rootKey : Bytes

/-- The order of the base point of the SM2 curve (R598; GB/T 32918 is named by the spec, not given; log 5). -/
opaque sm2Order : Nat

/-- SM4 of one block under a key (R216; log 5). -/
opaque sm4 : (key block : BitVec 128) → BitVec 128

/-- The leftmost 64 bits of the SM4-GCM tag (R424, R613; log 5). -/
opaque gcmTag : (key iv aad plain : Bytes) → Vector Byte 8

/-- The key stream that SM4-GCM adds to a flit payload of 224 bytes (R424; log 5). -/
opaque gcmStream : (key iv : Bytes) → Vector Byte 224

/-- The key derivation function of GB/T 32918: 32 bytes of output (R598, R423; log 5). -/
opaque kdf : Bytes → Vector Byte 32

/-- The key derivation function of GB/T 32918 with 40 bytes of output (R598; log 5). -/
opaque kdf40 : Bytes → Vector Byte 40

/-- The key derivation function of GB/T 32918 with 48 bytes of output (R423; log 5). -/
opaque kdf48 : Bytes → Vector Byte 48

/-- The public point of an ephemeral secret on the SM2 curve (R420, R422; log 5). -/
opaque ecPoint : Bytes → Vector Byte 64

/-- The 32-byte confirmation of an SM2 key exchange (R420, R422; log 5). -/
opaque confirmMake : (own peer ephemeral : Bytes) → (second : Bool) → Vector Byte 32

/-- The 48 bytes of key material that a KDF or an SM2 key exchange yields (R420, R422, R423; log 5). -/
opaque keyExchange : (own peer ephemeral : Bytes) → Vector Byte 48

/-- Ciphertext of one line under XTS keys and a tweak (R611; log 11). -/
opaque xtsEncrypt : (key : Bytes) → (tweak : Nat) → (plain : Bytes) → Vector Byte 64

/-- Plaintext of one line of ciphertext (R611; log 11). -/
opaque xtsDecrypt : (key : Bytes) → (tweak : Nat) → (cipher : Bytes) → Vector Byte 64

/-- Whether a certificate chain ends in the Malvatha device root or one of the given anchors, its signatures
verifying, and which link kinds (0 MESH, 1 ACCEL, 2 FAR or TRAY) its leaf names (R421, R606; log 13). -/
opaque chainTrusted : (anchors : List Bytes) → (chain : Bytes) → (kind : Nat) → Bool

/-- Whether a key confirmation of the SM2 key exchange verifies (R420, R422; log 13). -/
opaque confirmOk : (own peer ephemeral confirmation : Bytes) → Bool

/-- Whether a DER certificate in a LINK_ANCHOR buffer is well signed (R421, LINK_ANCHOR; log 13). -/
opaque anchorOk : Bytes → Bool

/-- The device's alias certificate, made at start-up: the device identity key signs it, for the alias key, over the device
identity, M1, VERSION and SVN (R604 to R606, R625; log 13). -/
opaque aliasCert : (idKey aliasKey identity m1 : Bytes) → (version svn : Nat) → (noKinds : Bool) → Bytes

/-- What a vector operation returns among the words that its bound admits (R206, R207, R208; log 6). The first argument
numbers the operation, the last the result. -/
opaque vuOpen : Nat → List (BitVec 32) → Nat → BitVec 32

/-- Counts the spec leaves to the implementation: EXP_STALL of a step (R165), stall time, spare rows of a bank
or array (R639) (log 19). -/
opaque count : (what : Nat) → (seed : Nat) → Nat

/-- Whether a bank or array still has an unused spare row (R639; log 19). -/
opaque spareLeft : (location : Nat) → (used : Nat) → Bool

/-- The public keys held in the boot ROM: 0 the firmware key, 1 the debug key (R618, R624). -/
opaque romKey : Nat → Bytes

/-- The boot ROM's bytes, for measurement 0 (R608). -/
opaque romImage : Bytes

/-- Whether another module has loaded a volume for a master, as the lead finds it when it takes a call slip (R248; log 135). -/
opaque memberLoaded : (node volumeId master : Nat) → (at_ : Nat) → Bool

/-- A value the spec leaves open, drawn by a number and the model's counter. -/
opaque freeWord : (what : Nat) → (seed : Nat) → BitVec 64

end Sys2Proof.Config
end

