-- ==== Sys2Proof/Machine/State.lean ====
section
/-! DEFINITION. The state of the block: every register, table, buffer, queue, mode and pin that the spec gives
the device, as plain data, with the reasons a step can stop and the state right after reset. Times are in units
of 1/16 ns (R445), device time in ns being `now / 16` (R663). -/

namespace Sys2Proof.Machine

/-- A sparse table: keys with their values. -/
abbrev Tbl (κ α : Type) := List (κ × α)

/-- One value for each half (R12). -/
structure PerHalf (α : Type) where
  h0 : α
  h1 : α
  deriving DecidableEq, Repr

/-- An RW1C bit with the time at which the device last set it, so that a software clear in the same cycle
leaves it set (R6). -/
structure Sticky where
  val : Bool := false
  setAt : Option Nat := none
  deriving DecidableEq, Repr

/-! ### Identity, pins, start-up, power -/

/-- What ID_DEVICE, the straps and the manufacturing record give (R687, R721, R603, R398, R596). -/
structure Ident where
  stepping : BitVec 8 := 0x10
  option : BitVec 8 := 0
  serial : BitVec 64 := 0
  slot : BitVec 3 := 0
  board : Nat := 0
  ifaceMajor : BitVec 8 := 0
  ifaceMinor : BitVec 8 := 0
  deriving DecidableEq, Repr

/-- The 48 V input (R728, R731). -/
inductive MainInput where
  | outOfRange | inRange
  deriving DecidableEq, Repr

/-- Sideband pins (R719): `true` is the high or released level. -/
structure Pins where
  aux : Bool := true
  main : MainInput := .outOfRange
  perstN : Bool := false
  pwrOk : Bool := false
  faultN : Bool := true
  alertN : Bool := true
  thermtripN : Bool := true
  syncOutLowUntil : Option Nat := none
  deriving DecidableEq, Repr

/-- How far start-up has come (R685). -/
inductive BootStage where
  | off          -- no 3.3 V AUX
  | auxOnly      -- steps 1 and 2
  | railsGood    -- step 3: the main rails are good
  | romWaiting   -- step 4: the boot ROM waits for PERST_N
  | served       -- step 8: desk commands are served
  | recovery     -- the recovery path of R691
  deriving DecidableEq, Repr

/-- Start-up and configuration status (R677, R685): whether the manufacturing record has been read since AUX came (steps 1 and
2), whether the start in progress is a cold one, and since when the 48 V input is back in range after a departure (R731). -/
structure Boot where
  stage : BootStage := .auxOnly
  present : BitVec 8 := 0
  blocksOk : BitVec 8 := 0
  defaultsUsed : Bool := false
  perstRoseAt : Option Nat := none
  recordRead : Bool := false
  coldStart : Bool := true
  departed : Bool := false
  inRangeSince : Nat := 0
  deriving DecidableEq, Repr

/-- The power states of R664. -/
inductive PowerState where
  | active | ready | doze | sleep | auxOnly
  deriving DecidableEq, Repr

/-- A wake to ACTIVE under way (R668). -/
structure Wake where
  source : PowerState
  startedAt : Nat
  deriving DecidableEq, Repr

/-- Power, temperature and throttle state (R664 to R677). -/
structure Power where
  state : PowerState := .auxOnly
  floor : PowerState := .doze
  limit : Nat := 950
  watts : Nat := 0
  tjC0 : Nat := 0
  tjT0 : Nat := 0
  tjC1 : Nat := 0
  tjT1 : Nat := 0
  throttle : PerHalf Nat := ⟨1024, 1024⟩
  causeThermal : PerHalf Bool := ⟨false, false⟩
  causePower : PerHalf Bool := ⟨false, false⟩
  wakes : Nat := 0
  lastWakeNs : Nat := 0
  wake : Option Wake := none
  idleSince : Nat := 0
  noSlipSince : Nat := 0
  quietSince : Nat := 0
  lastScrubVisit : Nat := 0
  hotSince : PerHalf (Option Nat) := ⟨none, none⟩
  lossCause : Nat := 0
  deriving DecidableEq, Repr

/-! ### Flash and security -/

/-- One errata log record (R656). SEQ, TIME and the fields as laid out there. -/
structure ErrRec where
  seq : Nat := 0
  time : Nat := 0
  kind : Nat := 0
  severity : Nat := 0
  diag : Bool := false
  lasting : Bool := false
  flash : Bool := false
  tenant : Option Nat := none
  mid : Nat := 0
  unit : Nat := 0
  rc : Nat := 0
  dropped : Nat := 0
  location : Nat := 0
  detail0 : Nat := 0
  detail1 : Nat := 0
  deriving DecidableEq, Repr

/-- Module flash (R684). -/
structure Flash where
  image : Bytes := []
  blocks : Tbl Nat Bytes := []
  minSvn : Nat := 0
  minSvnTagOk : Bool := true
  commitFailed : Bool := false
  repairs : List Nat := []
  retiredGranules : List Nat := []
  retiredUnits : List UnitRef := []
  errRing : List (ErrRec × Bool) := []
  deviceCert : Bytes := []
  intermediateCert : Bytes := []
  deriving DecidableEq, Repr

/-- A measurement and how often it has changed since start-up (R608, R610). -/
structure Meas where
  digest : Bytes := List.replicate 32 0
  events : Nat := 0
  deriving DecidableEq, Repr

/-- Key slots, measurements, anchors and the debug port (R596 to R626). -/
structure Sec where
  krOk : Bool := false
  aliasM1 : Option Bytes := none
  tenantKeys : Tbl Nat Bytes := []
  kCp : Option Bytes := none
  kFree : Option Bytes := none
  trngOk : PerHalf Bool := ⟨true, true⟩
  meas : Tbl Nat Meas := []
  sealFailed : Bool := false
  anchors : Tbl Nat Bytes := []
  debugUnlocked : Bool := false
  debugChallenge : Option Bytes := none
  debugFails : Nat := 0
  deriving DecidableEq, Repr

/-- The running firmware image, the staging area, and the image that a commit writes (R589, R590, R617). -/
structure Firmware where
  version : Nat := 0
  svn : Nat := 0
  digest : Bytes := List.replicate 32 0
  staged : Bytes := []
  stagedLen : Nat := 0
  commit : Nat := 0
  writing : Bytes := []
  deriving DecidableEq, Repr

/-! ### Carrels -/

/-- CARREL_ACK.STATE (R523). -/
inductive CarrelState where
  | idle | posted | running | lost | restarting
  deriving DecidableEq, Repr

/-- One carrel window and what the device keeps for it (R517 to R524, R553). Areas shorter than 256 bytes read
as zeros beyond their end. -/
structure Carrel where
  taken : Nat := 0
  rc : Nat := 0
  completed : Nat := 0
  state : CarrelState := .idle
  before : CarrelState := .idle
  restarts : Nat := 0
  ignored : Nat := 0
  lost : Sticky := {}
  badDoorbell : Sticky := {}
  msg : Bytes := []
  reply : Bytes := []
  report : Option Bytes := none
  deriving DecidableEq, Repr

/-- A valid binding-table entry (R511, R512). -/
structure BindEntry where
  path : Nat
  window : Nat
  sender : Nat
  deriving DecidableEq, Repr

/-- A taken desk command that has not completed (R531). `acc` and `rcs` gather what the lenders answer to a command that
was forwarded to several (R339). -/
structure RunCmd where
  src : DeskSrc
  mid : Nat
  node : Nat
  seq : Nat
  msg : Bytes
  suppressed : Bool := false
  waiting : Bool := false
  begun : Bool := false
  acc : Bytes := []
  rcs : Nat := 0
  deriving DecidableEq, Repr

/-- A forwarded command that waits in the forward queue (R538). -/
structure FwdMsg where
  id : Nat
  node : Nat
  mid : Nat
  msg : Bytes
  deriving DecidableEq, Repr

/-- A part of a command that this module has forwarded to another and that is not answered: `idx` names the items of the
command that it covers (R339, R538). -/
structure FwdOut where
  src : DeskSrc
  node : Nat
  op : Nat
  idx : List Nat := []
  deriving DecidableEq, Repr

/-- The control processor and its carrels (R510 to R544). -/
structure Cp where
  ready : Bool := false
  restarting : Option Nat := none
  binding : Tbl Nat BindEntry := []
  bindingLocked : Bool := false
  carrels : Tbl Nat Carrel := []
  pointer : Nat := 0
  running : List RunCmd := []
  fwdQueue : List FwdMsg := []
  nextFwd : Nat := 0
  fwdOut : List FwdOut := []
  locks : Tbl Nat Nat := []
  lockPointer : Nat := 0
  lockWon : Option (Nat × Nat × Nat) := none
  deriving DecidableEq, Repr

/-! ### Tenants and runtime memory -/

/-- A tenant (R554 to R558). Quotas are in GiB. -/
structure Tenant where
  depository : Bool := false
  pool : Nat := 0
  t1 : Nat := 0
  t2 : Nat := 0
  vkey : Option Bytes := none
  vkeyEvents : Nat := 0
  deriving DecidableEq, Repr

/-- Tier-1 and tier-2 contents (R284): plaintext bytes by device address, the error pattern XORed on each
stored line-code word (R631 to R633), sectors marked poisoned by a failed tag (R310), and stored tags that are not
the tags of their sectors' contents (R613). -/
structure Mem where
  cells : List Host.Cell := []
  lineErr : Tbl Nat Bytes := []
  badSectors : List Nat := []
  tags : Tbl Nat Bytes := []
  deriving DecidableEq, Repr

/-- A runtime-face region (R289, R308, R329). Lengths are in 2 MiB granules. -/
structure Region where
  base : Nat
  granules : Nat
  dataGranules : Nat
  tier : Nat
  half : Half
  master : Nat
  tenant : Nat
  protect : Bool
  lost : Bool := false
  deriving DecidableEq, Repr

/-- What is in service in a half (R20, R329, R654): stacks and packages by their number in the half, usable
capacities in GiB. -/
structure HalfState where
  inService : Bool := false
  fenced : Bool := false
  hbm : List Nat := [0, 1, 2, 3]
  packages : List Nat := List.range 16
  t1Cap : Nat := 180
  t2Cap : Nat := 960
  t1Remapped : Bool := false
  t2Failing : Bool := false
  t2Remapped : Bool := false
  deriving DecidableEq, Repr

/-! ### Tensors, accession, weight windows -/

/-- A tensor's coding parameters (R105, R136). -/
structure TParams where
  method : Nat
  alphabet : Nat
  rank : Nat
  q : Nat
  ntab : Nat
  nm : Nat
  rows : Nat
  cols : Nat
  tag : Nat
  deriving DecidableEq, Repr

/-- The fields of a guard record (R83). -/
structure GuardRec where
  wsat : Nat := 0
  wsatPos : Nat := 0
  wflush : Nat := 0
  osat : Nat := 0
  ononfin : Nat := 0
  split : Nat := 0
  unsplit : Nat := 0
  bandpass : Nat := 0
  sentRuns : Nat := 0
  sentFails : Nat := 0
  lastProbe : Nat := 0
  lastOutcome : Nat := 0
  sentState : Nat := 0
  expStall : Nat := 0
  lastFailTime : Nat := 0
  deriving DecidableEq, Repr

/-- A guard record, with the time of its last event and the record as it stood before that cycle's first one (R85, log 12). -/
structure Guard extends GuardRec where
  before : Option (Nat × GuardRec) := none
  deriving DecidableEq, Repr

/-- A working copy's mode (R298). -/
inductive WcMode where
  | full | staged
  deriving DecidableEq, Repr

/-- A tensor's working copy in tier 1 (R296 to R302): the tiles present, and those under way with the class they travel in. -/
structure WorkCopy where
  mode : WcMode
  half : Half
  hs : Nat
  w0 : Nat
  w1 : Nat
  present : List Nat := []
  copying : Tbl Nat Nat := []
  src : Option DeskSrc := none
  deriving DecidableEq, Repr

/-- A probe record (R87). -/
structure Probe where
  tile : Nat
  probe : Nat
  tol : Nat
  e5m2 : Bool
  code : Bool
  act : Bytes
  ascale : Bytes
  ref : List (BitVec 32)
  deriving DecidableEq, Repr

/-- An open sentinel investigation (R95): its stage, the probe, the unit that failed, the device time of the first
failure, when the stage began, and the folio that the stage has fetched, with the unit whose slice it is in. -/
structure Investigation where
  stage : Nat
  probe : Probe
  mu : Nat
  firstFail : Nat
  stageAt : Nat
  fetched : Option (Nat × Bytes) := none
  deriving DecidableEq, Repr

/-- Declared copies for recovery (R569); zero pairs declare none. -/
structure Origin where
  repP : Nat := 0
  repC : Nat := 0
  orgP : Nat := 0
  orgC : Nat := 0
  deriving DecidableEq, Repr

/-- A loaded tensor (R105, R229, R96). -/
structure Tensor where
  id : Nat
  master : Nat
  params : TParams
  pbase : Nat
  cbase : Nat
  tbase : Nat
  digest : Bytes
  damaged : Bool := false
  guard : Guard := {}
  origin : Origin := {}
  wc : Option WorkCopy := none
  investigation : Option Investigation := none
  lastFetch : Option Nat := none
  lastProbe : Option Nat := none
  window : Option Nat := none
  deriving DecidableEq, Repr

/-- An accession request or window encoding (R135, R141, R564). -/
structure AccReq where
  master : Nat
  params : TParams
  paramBytes : Bytes
  coded : Bool
  signed : Bool
  expect : Option Bytes
  sig : Bytes
  src : Nat
  pbase : Nat
  cbase : Nat
  tbase : Nat
  window : Option Nat := none
  deriving DecidableEq, Repr

/-- The report of an accession (R151, R157, R565). -/
structure AccReport where
  master : Nat
  tag : Nat
  rc : Nat := 1
  tilesDone : Nat := 0
  nt : Nat := 0
  ingestRound : Nat := 0
  ingestClamp : Nat := 0
  failTile : Nat := 0xFFFFFFFF
  steps : List Nat := List.replicate 8 0
  digest : Bytes := List.replicate 32 0
  wsatPos : Nat := 0
  deriving DecidableEq, Repr

/-- The accession engine (R141): the running request with its report, those waiting in accepted order, and
the FAILED entries (R566). `held` is the coded form of a window encoding, written as it ends (R171). -/
structure Accession where
  running : Option (AccReq × AccReport) := none
  held : List (Nat × Bytes) := []
  queue : List AccReq := []
  failed : List AccReport := []
  done : List AccReport := []
  deriving DecidableEq, Repr

/-- A weight window's kind and state (R167, R169). -/
inductive WinKind where
  | ingest | view
  deriving DecidableEq, Repr
inductive WinState where
  | filling | encoding | ready | failed
  deriving DecidableEq, Repr

/-- A weight window (R167 to R171, R568). Its staging lies in the homes of its granules (R315). -/
structure WeightWin where
  kind : WinKind
  state : WinState
  master : Nat
  half : Half
  g : Nat
  count : Nat
  params : TParams
  paramBytes : Bytes
  pbase : Nat
  cbase : Nat
  tbase : Nat
  autoseal : Bool
  covered : List Nat := []
  part : Tbl Nat (BitVec 64) := []
  discarded : Nat := 0
  discardLogged : Bool := false
  current : Option Nat := none
  before : Option (Nat × Tensor × List Host.Cell) := none
  deriving DecidableEq, Repr

/-- A folio that an edge expander found malformed: when, and whether its recovery has failed (R162, R255). -/
structure EdgePoison where
  foundAt : Nat
  failed : Bool := false
  deriving DecidableEq, Repr

/-- An edge expander: its 64 kept tiles, oldest first, each as tensor and tile with the folio it was reconstructed from, the
folios that it found malformed, and its recent datapath errors (R162, R172, R652). -/
structure Edge where
  inService : Bool := true
  kept : List ((Nat × Nat) × Bytes) := []
  poisoned : Tbl (Nat × Nat) EdgePoison := []
  errTimes : List Nat := []
  deriving DecidableEq, Repr

/-! ### Key/value objects -/

/-- A page-table entry (R186); `tau` is absent for 0x8000. `before` is what FILL and TAU_MAX were before the appends of the
cycle named first, by the context named second (R200). -/
structure PageEntry where
  pda : Nat := 0
  valid : Bool := false
  fill : Nat := 0
  tau : Option Int := none
  before : Option (Nat × Nat × Nat × Option Int) := none
  deriving DecidableEq, Repr

/-- A key/value object (R185 to R189, R303). `pages` is keyed by head, run (0 keys, 1 values) and entry. -/
structure KvObj where
  idx : Nat
  gen : Nat
  master : Nat
  tenant : Nat
  nh : Nat
  d : Nat
  format : Nat
  maxPages : Nat
  half : Half
  tableBase : Nat
  tableGranules : Nat
  lost : Bool := false
  pages : Tbl (Nat × Nat × Nat) PageEntry := []
  guard : Guard := {}
  deriving DecidableEq, Repr

/-! ### Volumes, queues, contexts -/

/-- A tensor slot with the tensor it is bound to (R228, R229). -/
structure VSlot where
  params : TParams
  nprobe : Nat
  probeFirst : Nat
  satLimit : Nat
  digest : Bytes
  tensor : Nat
  deriving DecidableEq, Repr

/-- An operand descriptor (R231). -/
structure Oper where
  kind : Nat
  format : Nat
  splitIn : Bool
  half : Half
  length : Nat
  addr : Nat
  deriving DecidableEq, Repr

/-- A step-list entry (R233). -/
structure VStep where
  opcode : Nat
  flags : BitVec 8
  mode : BitVec 8
  batch : Nat
  opa : Nat
  opb : Nat
  opc : Nat
  opd : Nat
  param : Nat
  unitFirst : Nat
  unitCount : Nat
  cond : BitVec 16
  set : BitVec 8
  wait : BitVec 64
  deriving DecidableEq, Repr

/-- A catalogue entry (R240). -/
structure CatEntry where
  slot : Nat
  cond : BitVec 16
  first : Nat
  count : Nat
  dest : Nat
  need : Nat
  cls : Nat
  pin : Bool
  deriving DecidableEq, Repr

/-- A loaded volume (R222 to R242, R258, R570). -/
structure Volume where
  key : Nat
  master : Nat
  volumeId : Nat
  group : BitVec 8
  haltPolicy : Bool
  nkv : Nat
  slots : List VSlot
  opers : List Oper
  steps : List VStep
  cats : List CatEntry
  probes : List Probe
  aux : Bytes
  reserve : List Nat
  pinGranules : List Nat
  vuAlloc : PerHalf Nat
  tokens : Nat := 0
  split : Nat := 0
  unsplit : Nat := 0
  deriving DecidableEq, Repr

/-- The fields of an input block that the device reads at take (R244, R278). -/
structure InputBlock where
  sampler : Bytes
  startToken : Nat
  position : Nat
  maxTokens : Nat
  tokenPeriod : Nat
  stops : List Nat
  kv : List Nat
  members : List Nat
  deriving DecidableEq, Repr

/-- A call slip as taken (R243). -/
structure Slip where
  volumeId : Nat
  entry : Nat
  seq : Nat
  deadline : Nat
  input : Nat
  result : Nat
  ring : Nat
  mid : Nat
  halt : Bool
  ringLen : Nat
  targetSeq : Nat
  deriving DecidableEq, Repr

/-- A taken call slip with what the device read for it (R248, R249). -/
structure Taken where
  slip : Slip
  block : InputBlock
  volume : Nat
  queue : Nat
  poster : Nat
  takenAt : Nat
  consumed : Nat
  reserve : List Nat
  late : Bool := false
  deriving DecidableEq, Repr

/-- A hardware queue (R246, R708 to R711). Slots shorter than 64 bytes read as zeros beyond their end. -/
structure Queue where
  master : Nat
  poster : Nat
  window : Option Nat
  taken : Nat := 0
  ignored : Nat := 0
  full : Sticky := {}
  bad : Sticky := {}
  slots : Tbl Nat Bytes := []
  waiting : List Taken := []
  deriving DecidableEq, Repr

/-- END of a completion record (R272). -/
inductive EndCode where
  | listEnd | stopToken | count | halted | deadline | fault | refused | haltCall
  deriving DecidableEq, Repr

/-- An activation in the activation stores (R257): its operand, bytes and elements, and the store halves that hold
it, as matrix unit and half. -/
structure ActBuf where
  oper : Nat
  bytes : Bytes
  count : Nat
  homes : List (Nat × Bool)
  poison : Bool := false
  wiped : List Nat := []
  deriving DecidableEq, Repr

/-- A step that is released and not complete: a RELAY_REDUCE that waits for flits, or a SAMPLE that holds its
token (R219, R275). `due` counts the ranges still to come, `homes` are the store halves that it is FILLING (R257). -/
structure Pend where
  step : Nat
  iter : Nat
  due : Nat
  at_ : Nat
  data : Bytes := []
  own : Option Bytes := none
  homes : List (Nat × Bool) := []
  deriving DecidableEq, Repr

/-- Whom split counts are charged to (R80). -/
inductive Blame where
  | tensor (id : Nat)
  | kv (idx : Nat)
  | volume
  deriving DecidableEq, Repr

/-- Split counts of an output that no step has read yet: its descriptor, and whom they are charged to when no matrix step is
the first to read it (R80). -/
structure SplitDue where
  oper : Nat
  split : Nat
  unsplit : Nat
  own : Blame
  deriving DecidableEq, Repr

/-- A context that runs a call slip, or a member run (R249, R277). Catalogue entries set aside are entry and
iteration (R264); `lens` holds the element count of each operand last written short of its LENGTH, `tokIn` the
tokens that a member has received by iteration. -/
structure Ctx where
  job : Taken
  lead : Option Nat := none
  leadCtx : Nat := 0
  iter : Nat := 0
  pc : Nat := 0
  token : Nat := 0
  tokens : BitVec 64 := 0
  routers : Tbl Nat (List Nat) := []
  acts : List ActBuf := []
  vuBase : PerHalf Nat := ⟨0, 0⟩
  vu : PerHalf (List Host.Cell) := ⟨[], []⟩
  vuPoison : PerHalf (List (Nat × Nat)) := ⟨[], []⟩
  reduceIn : PerHalf Bytes := ⟨[], []⟩
  reduceBad : PerHalf Bool := ⟨false, false⟩
  lens : Tbl Nat Nat := []
  splits : List SplitDue := []
  pending : List Pend := []
  catPos : Nat := 0
  catIter : Nat := 0
  setAside : List (Nat × Nat) := []
  usedTensors : List Nat := []
  satSums : Tbl Nat Nat := []
  satLogged : List Nat := []
  saturated : Bool := false
  late : Bool := false
  lateLogged : Bool := false
  emitted : Nat := 0
  lateTokens : Nat := 0
  stop : Option EndCode := none
  stopAt : Nat := 0
  halter : List Slip := []
  rc : Nat := 0
  failStep : Option Nat := none
  consumed : Nat := 0
  consumedReadAt : Option Nat := none
  readOutstanding : Bool := false
  held : Option Nat := none
  lastToken : Option Nat := none
  embedTok : Option Nat := none
  tokIn : Tbl Nat Nat := []
  silenced : Bool := false
  deriving DecidableEq, Repr

/-- State of a folio copy (R254). -/
inductive CopyState where
  | requested | arriving | resident | poisoned
  deriving DecidableEq, Repr

/-- Who a copy's granules are charged to (R256). -/
inductive Charge where
  | ctx (n : Nat)
  | pool
  | pin
  deriving DecidableEq, Repr

/-- A step that needs a copy: its context, step and iteration (R242, R256); `doomed` when it is to complete POISONED
for this copy (R112, R255). -/
structure FolioUse where
  ctx : Nat
  step : Nat
  iter : Nat
  doomed : Bool := false
  deriving DecidableEq, Repr

/-- A copy of a folio or page in a reading-room slice (R254 to R256), with the address it is fetched from. ABSENT copies are
not listed. -/
structure FolioCopy where
  state : CopyState
  granule : Nat
  granules : Nat
  bytes : Bytes := []
  bad : Bool := false
  fromWc : Bool := false
  users : List FolioUse
  charge : Charge
  pin : Bool
  cls : Nat
  addr : Nat := 0
  requestedAt : Nat
  poisonedAt : Nat := 0
  failed : Bool := false
  deriving DecidableEq, Repr

/-- State of an activation-store half (R257). -/
inductive ActHalf where
  | free | filling | full | inUse
  deriving DecidableEq, Repr

/-- One accumulator entry (R48); `val` is the two's complement integer of [79:0]. -/
structure AccEntry where
  used : Bool := false
  nan : Bool := false
  pinf : Bool := false
  ninf : Bool := false
  band : BitVec 4 := 0
  val : BitVec 80 := 0
  deriving DecidableEq, Repr

/-- A probe that runs in an idle slot of a matrix unit (R90, R91): when its last cycle ends, whether its outputs agree with
REF, and what its expansions count (R79). -/
structure ProbeRun where
  tensor : Nat
  probe : Probe
  ends : Nat
  pass : Bool
  clamps : Nat
  flushes : Nat
  deriving DecidableEq, Repr

/-- A matrix unit (R48, R90, R91, R178, R257, R586). Accumulator entries not listed are all zero; `resetAt` is the cycle of
its last local reset (R683). -/
structure Mu where
  inService : Bool := true
  retired : Bool := false
  remapDue : Bool := false
  acc : Tbl Nat AccEntry := []
  probeAcc : Tbl Nat AccEntry := []
  act0 : ActHalf := .free
  act1 : ActHalf := .free
  actNext : Bool := false
  errTimes : List Nat := []
  probePointer : Nat := 0
  probe : Option ProbeRun := none
  cause : Nat := 0
  resetAt : Option Nat := none
  deriving DecidableEq, Repr

/-- A vector unit (R586, R652). -/
structure Vu where
  inService : Bool := true
  retired : Bool := false
  remapDue : Bool := false
  errTimes : List Nat := []
  cause : Nat := 0
  deriving DecidableEq, Repr

/-- The engines, scheduler tables and arbiter pointers (R249, R265). A unit not listed is in its reset state. -/
structure Engines where
  mus : Tbl Nat Mu := []
  vus : Tbl Nat Vu := []
  copies : Tbl (Nat × FolioId) FolioCopy := []
  ctxs : Tbl Nat Ctx := []
  admitPointer : Nat := 0
  releasePointer : Nat := 0
  fetchPointer : PerHalf Nat := ⟨0, 0⟩
  storePointer : PerHalf Nat := ⟨0, 0⟩
  reducePointer : PerHalf Nat := ⟨0, 0⟩
  sram : Tbl (Nat × Nat × Nat) (BitVec 32 × BitVec 7) := []
  deriving DecidableEq, Repr

/-! ### Plain face -/

/-- Where a plain granule stands (R312 to R314, R466). -/
inductive GranState where
  | adding (src : DeskSrc) (since : Nat)
  | inService
  | removing (src : DeskSrc) (since : Nat)
  | leaving (src : DeskSrc) (tick : Nat)
  deriving DecidableEq, Repr

/-- A plain granule (R312, R562), with the cycle of the switch tick by which it entered service (R28) and of its last plain
access (R26). -/
structure PlainGran where
  half : Half
  home : Nat
  owner : Nat
  tenant : Nat
  access : List (Nat × Bool × Bool)
  protect : Bool
  state : GranState
  lost : Bool := false
  tick : Option Nat := none
  accessedAt : Option Nat := none
  deriving DecidableEq, Repr

/-- State of a cache block (R320). -/
inductive WayState where
  | invalid | filling | valid | evicting
  deriving DecidableEq, Repr

/-- A way of a cache set (R317). `data` is keyed by the byte's offset in the block; `demand` is the line whose read miss
allocated the way (R320). -/
structure Way where
  block : Nat := 0
  demand : Option Nat := none
  age : Nat := 0
  state : WayState := .invalid
  valid : BitVec 64 := 0
  dirty : BitVec 64 := 0
  poison : BitVec 64 := 0
  data : List Host.Cell := []
  deriving DecidableEq, Repr

/-- Where the answer to a plain-face request goes: to the host over CXL.mem, to a link partner, or to a session as the
data of a tag or the completion of a write. -/
inductive ReplyTo where
  | cxl
  | link (mid : Nat)
  | read (node sid tag : Nat)
  | write (node sid sseq : Nat)
  deriving DecidableEq, Repr

/-- Where a requester or a reply stands: on the compute die or the tier die of a half. -/
inductive Die where
  | compute (h : Half)
  | tier (h : Half)
  deriving DecidableEq, Repr

/-- A plain-face request that waits: on a cache block, on a class's cap, or behind an older request for one of its lines
(R321, R322, R327, R501). `forms` is what it had matched of weight windows, as offset, bytes and poison (R171); `stalled` says
that its wait has been counted (R322). -/
structure CacheWait where
  mid : Nat
  dest : ReplyTo
  die : Die := .tier .h0
  off : Nat
  len : Nat
  write : Option Bytes
  forms : List (Nat × Bytes × Bool) := []
  stalled : Bool := false
  deriving DecidableEq, Repr

/-- The tier-1 cache of a half (R316 to R325). Ways are keyed by set and way number. -/
structure Cache where
  share : Nat := 0
  ways : Tbl (Nat × Nat) Way := []
  deriving DecidableEq, Repr

/-- A bindery entry (R331): its line address on the face it was written through, its data, byte mask and time
of allocation. -/
structure BinderyEntry where
  line : Nat
  data : Bytes
  mask : BitVec 64
  since : Nat
  mid : Nat
  deriving DecidableEq, Repr

/-- The plain face and the binderies (R312 to R336); `waits` are the requests that wait, oldest first. -/
structure Plain where
  granules : Tbl Nat PlainGran := []
  cache : PerHalf Cache := ⟨{}, {}⟩
  waits : List CacheWait := []
  bindery : PerHalf (List BinderyEntry) := ⟨[], []⟩
  period : Nat := 4
  lastSweep : Nat := 0
  windows : Tbl Nat WeightWin := []
  edge : PerHalf Edge := ⟨{}, {}⟩
  deriving DecidableEq, Repr

/-! ### Pool and depository -/

/-- State of a lender extent (R350). -/
inductive ExtState where
  | idle | granting | leased | grace | draining | erasing
  deriving DecidableEq, Repr

/-- A lender extent (R340 to R376). `duration` is in ms, `code` the draining code, `due` and `since` device times in 1/16
ns, `diverged` the blocks found divergent, `marks` the blocks written while SINGLE, `region` the shared region that holds
it, `sent` and `taken` how many writes have gone to the other copy or the parity extent and how many that has taken, `ahead` the blocks of
those it has not. -/
structure Extent where
  base : Nat
  state : ExtState := .idle
  code : Nat := 0
  withdraw : Bool := false
  borrower : Nat := 0
  holder : Nat := 0
  request : Nat := 0
  role : Nat := 0
  index : Nat := 0
  set : Nat := 0
  duration : Nat := 0
  due : Nat := 0
  since : Nat := 0
  src : Option DeskSrc := none
  key : Bytes := []
  stamps : Tbl Nat (BitVec 64) := []
  diverged : List Nat := []
  single : Bool := false
  marks : List Nat := []
  region : Option Nat := none
  sent : Nat := 0
  taken : Nat := 0
  ahead : List Nat := []
  deriving DecidableEq, Repr

/-- A component that a lender granted to a request (R344). -/
structure Comp where
  unitIdx : Nat
  role : Nat
  index : Nat
  node : Nat
  half : Half
  ext : Nat
  handle : Nat
  deriving DecidableEq, Repr

/-- A borrower's request (R343 to R346). `state`: 0 PENDING, 1 DONE, 2 NO_SPACE. -/
structure PoolReq where
  master : Nat
  count : Nat
  protect : Nat
  duration : Nat
  timeoutAt : Nat
  state : Nat := 0
  comps : List Comp := []
  doneAt : Nat := 0
  deriving DecidableEq, Repr

/-- State of a held handle (R577). -/
inductive HandleState where
  | live | single | degraded | diverged | recalled | expired | failed
  deriving DecidableEq, Repr

/-- A held extent handle, or one of a view or draft (R347, R355, R356, R365). For a mirrored extent `secondary` is the
other copy; for a data extent of a parity set it is the parity extent, and `lost` marks a data extent that is lost
(R379). -/
structure Handle where
  master : Nat
  request : Nat
  protect : Nat
  state : HandleState := .live
  node : Nat
  half : Half
  ext : Nat
  secondary : Option (Nat × Half × Nat) := none
  set : Option Nat := none
  due : Nat := 0
  refused : Option Nat := none
  refusedCount : Nat := 0
  refusedAt : Nat := 0
  noticeAt : Option Nat := none
  view : Option (Nat × Nat × Bool) := none
  shared : Bool := false
  lost : Bool := false
  deriving DecidableEq, Repr

/-- An edition or draft of a shared region (R364 to R369): its number (of a draft, its base's), its owner, how many views
are open on it, its block map from (data extent, block) to store block where that is not the block itself, the store
blocks that the map occupies, and the blocks that a draft has copied. -/
structure Edition where
  number : Nat
  draft : Bool
  owner : Nat × Nat
  opens : Nat
  map : Tbl (Nat × Nat) Nat := []
  mapBlocks : List Nat := []
  own : List (Nat × Nat) := []
  deriving DecidableEq, Repr

/-- A shared region at its lender (R363 to R370). Members are node, master and whether WRITE; editions have keys, and
`current` is the key of the current one; `before` is the key of the edition that was current until the switch tick of the last
publish, with that tick. -/
structure Shared where
  dataExts : List (Half × Nat)
  shadowExts : List (Half × Nat)
  members : List (Nat × Nat × Bool)
  current : Nat
  editions : Tbl Nat Edition
  nextKey : Nat
  before : Option (Nat × Nat) := none
  deriving DecidableEq, Repr

/-- What an extent index given at EDITION_OPEN names (R410): a region, an edition or draft by key, a data extent, and the
opener. -/
structure ViewExt where
  region : Nat
  key : Nat
  index : Nat
  node : Nat
  mid : Nat
  deriving DecidableEq, Repr

/-- State of a parity set (R379). -/
inductive ParityState where
  | normal | degraded (lost : Nat) | failed
  deriving DecidableEq, Repr

/-- A near-memory operation at its lender (R381 to R386): `dst` and `srcs` are an extent index, its half, and an offset in
it. -/
structure NearJob where
  src : DeskSrc
  node : Nat
  mid : Nat
  op : Nat
  ty : Nat
  rop : Nat
  bytes : Nat
  pattern : BitVec 64
  dst : Half × Nat × Nat
  srcs : List (Half × Nat × Nat)
  outcome : Nat := 0
  diffAt : Nat := 0
  rc : Nat := 0
  at_ : Nat := 0
  deriving DecidableEq, Repr

/-- The completion of a pool-form write that a lender still owes (R362, R372, R378): of which session and half, its SSEQ, and how many
forwarded writes the other copies, or the parity extent, must have taken first, by extent. -/
structure PeerWait where
  to_ : Nat × Nat
  half : Half
  sseq : Nat
  on : List ((Half × Nat) × Nat)
  deriving DecidableEq, Repr

/-- A bandwidth cap at the lender for a borrower's master (R387). -/
structure Cap where
  gbps : Nat
  used : Nat := 0
  deriving DecidableEq, Repr

/-- A depository grant (R390 to R395). `state`: 0 in service, 1 UNREACHABLE, 2 draining or RECALLED. -/
structure Grant where
  holder : Nat
  tray : Nat
  far : BitVec 8
  base : Nat
  gib : Nat
  protect : Bool
  nonce : Bytes
  state : Nat := 0
  unanswered : Nat := 0
  refusedCount : Nat := 0
  lastProbe : Nat := 0
  endedAt : Option Nat := none
  deriving DecidableEq, Repr

/-- The lending pool and the depository at this module (R337 to R396). For each lender, `window` is W, `load` the latest LOAD,
`adjusted` the ledger window at whose end W was last adjusted, and `turn` the pointer over the sessions that share W (R389). -/
structure Pool where
  extents : Tbl (Half × Nat) Extent := []
  requests : Tbl Nat PoolReq := []
  nextRequest : Nat := 1
  handles : Tbl Nat Handle := []
  freedAt : Tbl Nat Nat := []
  shared : Tbl Nat Shared := []
  nextShared : Nat := 1
  parity : Tbl Nat ParityState := []
  nextSet : Nat := 1
  engine : PerHalf (Option NearJob × List NearJob) := ⟨(none, []), (none, [])⟩
  caps : Tbl (Nat × Nat) Cap := []
  window : Tbl Nat Nat := []
  load : Tbl Nat Nat := []
  adjusted : Tbl Nat Nat := []
  turn : Tbl Nat Nat := []
  views : Tbl (Half × Nat) ViewExt := []
  shareParts : Tbl (Nat × Nat) (List Nat) := []
  grants : Tbl Nat Grant := []
  waits : List PeerWait := []
  deriving DecidableEq, Repr

/-! ### Xogor Link -/

/-- Kind of a port (R397). -/
inductive PortKind where
  | mesh | accel | far | off
  deriving DecidableEq, Repr

/-- State of a port (R579) with the step of R405 that start-up has reached. -/
inductive PortState where
  | down | training | authenticating | inService | held | off
  deriving DecidableEq, Repr

/-- Low-power state of a port (R453). -/
inductive LpState where
  | l0 | l0h | ls
  deriving DecidableEq, Repr

/-- A flit that a port keeps until it is acknowledged (R417). -/
structure Sent where
  lseq : Nat
  raw : Bytes
  resends : Nat := 0
  deriving DecidableEq, Repr

/-- A flit in the clear: header fields of R408 and payload. In this module it also has when it arrived, and its class where its session's
kind does not give it. -/
structure Flit where
  type : Nat
  ch : Nat
  urg : Nat
  dst : Nat
  src : Nat
  sid : Nat
  hops : Nat
  len : Nat
  pool : Bool
  arg : Nat
  sseq : Nat
  payload : Bytes
  arrived : Nat := 0
  cls : Option Nat := none
  deriving DecidableEq, Repr

/-- Counters that the XL_ block mirrors (19, R707). -/
structure PortCounters where
  corrected : Nat := 0
  uncorr : Nat := 0
  naks : Nat := 0
  retrains : Nat := 0
  tagFail : Nat := 0
  malformed : Nat := 0
  lanes : Tbl Nat Nat := []
  deriving DecidableEq, Repr

/-- TIME state of a port (R445): the partner's last TX, when it was received, and the last offset in 1/16 ns. -/
structure PortTime where
  echoTx : Nat := 0
  echoRx : Nat := 0
  theta : Int := 0
  heard : Bool := false
  lastSent : Nat := 0
  deriving DecidableEq, Repr

/-- Replay and credits of a port (R416 to R419, R426): `rxLseq` is the next LSEQ expected, `lack` the last one that the
partner has acknowledged, `owed` the credits to return, `egress` the sealed flits that wait for a credit or for room in
the replay buffer, with their channels, and `inbox` the accepted flits not yet handled, `stale` of which came before the port last
started and owe no credit. -/
structure PortFlow where
  txLseq : Nat := 0
  rxLseq : Nat := 0
  lack : Nat := 0
  lackAt : Nat := 0
  nakSent : Bool := false
  replay : List Sent := []
  credits : List Nat := [128, 256, 256, 32]
  txSseq : Nat := 1
  rxSseq : Nat := 1
  owed : List Nat := [0, 0, 0, 0]
  egress : List (Option Nat × Bytes) := []
  withheldSince : Tbl Nat Nat := []
  withheldLogged : List Nat := []
  inbox : List Flit := []
  stale : Nat := 0
  deriving DecidableEq, Repr

/-- A peer port (R397 to R456). `returned` is clear from the time the port leaves service until it has been back in
service for 1 s (R441); `began` is set once it has entered service or been held DOWN since start-up (R508), `failed` when it
is declared failed (R652). -/
structure Port where
  kind : PortKind := .mesh
  lpPermit : BitVec 2 := 0
  partnerCfg : Nat := 0
  state : PortState := .down
  step : Nat := 0
  lanes : BitVec 8 := 0
  partner : Nat := 0xFFF
  lp : LpState := .l0
  lpAsked : Option LpState := none
  lpIdleSince : Nat := 0
  egressTimes : List Nat := []
  untrusted : Bool := false
  mismatch : Sticky := {}
  refusal : Nat := 0
  key : Option (Bytes × Bytes) := none
  keySince : Nat := 0
  certIn : Bytes := []
  pointIn : Bytes := []
  eph : Bytes := []
  retryAt : Option Nat := none
  stepSince : Nat := 0
  retrainTimes : List Nat := []
  malformedTimes : List Nat := []
  tagFailTimes : List Nat := []
  inServiceSince : Option Nat := none
  returned : Bool := true
  began : Bool := false
  failed : Bool := false
  downSince : Nat := 0
  counters : PortCounters := {}
  time : PortTime := {}
  flow : PortFlow := {}
  relays : List Bytes := []
  deriving DecidableEq, Repr

/-- Urgency settings and pin sampling of a port (R502 to R504). -/
structure PortUrg where
  pins : Bool := false
  inBand : Bool := false
  boost : Nat := 0
  mask : BitVec 32 := 0
  level : BitVec 2 := 0
  sample : BitVec 2 := 0
  deriving DecidableEq, Repr

/-- Kind of a session (R428). -/
inductive SessKind where
  | system | pool | bound
  deriving DecidableEq, Repr

/-- A request this module has outstanding on a session (R433, R456). -/
structure Outst where
  tag : Nat
  write : Bool
  addr : Nat
  mid : Nat
  lines : Nat
  sentAt : Nat
  data : Bytes := []
  cls : Nat := 1
  poison : Bool := false
  status : Nat := 0
  deriving DecidableEq, Repr

/-- Where a session stands (R430, R433, R434). -/
inductive SessState where
  | opening | opened | closing
  deriving DecidableEq, Repr

/-- A session (R427 to R434). `unacked` holds the SSEQ of each kept flit, whether it is a SACK, and its sealed bytes. -/
structure Session where
  kind : SessKind
  state : SessState
  initiator : Bool
  remoteMid : Nat
  localMid : Nat
  port : Nat
  nonceI : Bytes := []
  nonceT : Bytes := []
  epochTx : Nat := 0
  epochRx : Nat := 0
  keyTx : Bytes := []
  keyRx : Bytes := []
  keySince : Nat := 0
  txSseq : Nat := 1
  rxSseq : Nat := 1
  unacked : List (Nat × Bool × Bytes) := []
  unsent : List Flit := []
  lastSack : Nat := 0
  resentAt : Nat := 0
  acceptedSince : Nat := 0
  heardAt : Nat := 0
  pingAt : Option Nat := none
  noPathSince : Option Nat := none
  tagFailTimes : List Nat := []
  outstanding : List Outst := []
  appliedSseq : Nat := 0
  outside : Nat := 0
  deriving DecidableEq, Repr

/-- A SESSION_BIND binding (R429, R581). -/
structure Binding where
  tenant : Nat
  port : Nat
  node : Nat
  mid : Nat
  deriving DecidableEq, Repr

/-- An inbound window (R435, R438, R581). -/
structure InWin where
  enable : Bool := false
  queue : Bool := false
  rights : BitVec 2 := 0
  base : Nat := 0
  size : Nat := 0
  sessions : BitVec 64 := 0
  tenant : Nat := 0
  deriving DecidableEq, Repr

/-- A message received on a system session, body assembled (R450). -/
structure Message where
  node : Nat
  code : Nat
  body : Bytes
  deriving DecidableEq, Repr

/-- A message whose body continues in following flits (R450). -/
structure PartMsg where
  node : Nat
  sid : Nat
  code : Nat
  total : Nat
  body : Bytes
  deriving DecidableEq, Repr

/-- Board time (R444 to R448): `phase` is what device time has still to gain, or to lose, by slewing; `offset` is the last
measured distance from the master's time; `stepped` is set once the module has stepped or begun to slew. -/
structure SyncState where
  master : Bool := false
  masterSince : Nat := 0
  locked : Bool := false
  stepped : Bool := false
  syncErr : Sticky := {}
  heardMasterAt : Nat := 0
  lastPulse : Option Nat := none
  pulseAt : Option Nat := none
  phase : Int := 0
  offset : Int := 0
  awaySince : Option Nat := none
  withinSince : Option Nat := none
  heardSlots : Tbl Nat (Nat × Bool) := []
  skew : List Int := List.replicate 8 0
  deriving DecidableEq, Repr

/-- A block of a relay-reduce that this module holds (R452): the first of its number from a node, or, of ALLSUM, the second,
which is a result (log 37). -/
structure RedBlock where
  node : Nat
  ctx : Nat
  step : Nat
  iter : Nat
  blk : Nat
  nth : Nat
  half : Half
  data : Bytes
  deriving DecidableEq, Repr

/-- A pair exchange under way with a node (R422): its step, this module's ephemeral secret, the partner's chain as far as
received, and its ephemeral point. -/
structure PairExch where
  step : Nat
  eph : Bytes
  certIn : Bytes := []
  pointIn : Bytes := []
  deriving DecidableEq, Repr

/-- The peer links (R397 to R456). `windowsBefore` holds the window that each WINDOW_SET replaced, with the cycle of its switch tick
(R28, R438). -/
structure Link where
  ports : Tbl Nat Port := []
  urg : Tbl Nat PortUrg := []
  sessions : Tbl (Nat × Nat) Session := []
  pairKeys : Tbl Nat Bytes := []
  pairStage : Tbl Nat PairExch := []
  pairSseq : Tbl Nat (Nat × Nat) := []
  bindings : List Binding := []
  mids : Tbl Nat (Nat × Nat) := []
  midFreeing : Tbl Nat Nat := []
  openTimes : Tbl Nat (List Nat) := []
  windows : Tbl (Nat × Nat) InWin := []
  windowsBefore : Tbl (Nat × Nat) (Nat × InWin) := []
  routes : Tbl Nat (BitVec 8) := []
  msgs : List Message := []
  parts : List PartMsg := []
  reduce : List RedBlock := []
  redSeen : List (Nat × Nat × Nat × Nat × Nat) := []
  sync : SyncState := {}
  deriving DecidableEq, Repr

/-! ### Host endpoint -/

/-- A host link (R457, R458, R470, R471). Rates are in units of 0.1 GT/s; `lowWidth` is the width last asked for, 0 the full
one; `recent` lists what the link has carried: time, whether sent, bytes. -/
structure HostLink where
  rate : Nat := 0
  width : Nat := 0
  lowWidth : Nat := 0
  l0pEnable : Bool := false
  l1Enable : Bool := false
  inL1 : Bool := false
  lowSince : Nat := 0
  idleSince : Nat := 0
  recent : List (Nat × Bool × Nat) := []
  deriving DecidableEq, Repr

/-- A read tag's use (R476). -/
inductive TagUse where
  | outstanding (since : Nat) (addr : Nat) (preFlr : Bool)
  | quarantined (until_ : Nat)
  deriving DecidableEq, Repr

/-- The host endpoint (R457 to R488). -/
structure HostEp where
  x8x8 : Bool := false
  link0 : HostLink := {}
  link1 : HostLink := {}
  vfEnable : Bool := false
  numVfs : Nat := 0
  cfgRegs : Tbl (Fn × Nat) (BitVec 32) := []
  flr : Tbl Fn Nat := []
  timeoutNs : Tbl Fn Nat := []
  tags : Tbl (Fn × Nat) TagUse := []
  lateCpl : Nat := 0
  aerTimeout : List Fn := []
  aerAdvisory : List Fn := []
  dcExtents : List Nat := []
  events : List (Nat × Nat) := []
  nextEvent : Nat := 1
  deriving DecidableEq, Repr

/-! ### Bandwidth -/

/-- The ledger record of a resource and class with its running counts (R494, R505, R506). -/
structure BwCell where
  total : Nat := 0
  demandLast : Nat := 0
  delivLast : Nat := 0
  demand : Nat := 0
  deliv : Nat := 0
  cap : Nat := 0
  guar : Nat := 0
  effGuar : Nat := 0
  scaled : Bool := false
  degraded : Sticky := {}
  shortWin : Nat := 0
  deriving DecidableEq, Repr

/-- Bandwidth regulation (R489 to R509), with the cache stalls that the ledger counts in each half (R322). -/
structure Bw where
  cells : Tbl (Nat × Nat) BwCell := []
  pending : List (Nat × Nat × Nat × Nat) := []
  pendingUrg : Tbl Nat PortUrg := []
  lastWindow : Nat := 0
  scaledRes : List Nat := []
  cacheStalls : PerHalf Nat := ⟨0, 0⟩
  deriving DecidableEq, Repr

/-! ### RAS -/

/-- A tracked fault location (R636, R637). -/
structure FaultLoc where
  loc : Nat
  t1 : Option Nat
  t2 : Nat
  deriving DecidableEq, Repr

/-- The errata log, counters, location tables and scrub (R627 to R661). -/
structure Ras where
  log : List ErrRec := []
  pending : List Nat := []
  nextSeq : Nat := 1
  copyOk : PerHalf Bool := ⟨true, true⟩
  cpBuffer : List ErrRec := []
  corrTimes : PerHalf (List Nat) := ⟨[], []⟩
  dropped : PerHalf Nat := ⟨0, 0⟩
  pointer : Nat := 0
  cycle : Option Nat := none
  cycleSeq : Nat := 1
  cyclePointer : Nat := 0
  rowTimes : List (Nat × Nat) := []
  lineTimes : List (Nat × Nat) := []
  select : BitVec 64 := 0
  ce : Nat := 0
  ue : Nat := 0
  spared : Nat := 0
  retired : Nat := 0
  locs : PerHalf (List FaultLoc) := ⟨[], []⟩
  sparesUsed : Tbl Nat Nat := []
  rowHolds : List (Half × Nat × Nat) := []
  scrubSram : Nat := 1
  scrubT1 : Nat := 24
  scrubT2 : Nat := 24
  moduleFault : Bool := false
  deriving DecidableEq, Repr

/-- The check-bit bench (R645 to R648). -/
structure Diag where
  mode : Bool := false
  busy : Bool := false
  result : BitVec 4 := 0xF
  position : BitVec 8 := 0
  syndrome : BitVec 7 := 0
  addr : BitVec 64 := 0
  check : BitVec 64 := 0
  data : List (BitVec 64) := List.replicate 8 0
  deriving DecidableEq, Repr

/-! ### What the device has sent -/

/-- Something the device put out (log 9). `ordered` marks a host write that carries Relaxed Ordering and ID-Based Ordering clear (R34,
R473); of other writes the spec states no attribute. -/
inductive Emission where
  | hostWrite (fn : Nat) (addr : Nat) (bytes : Bytes) (poisoned : Bool) (ordered : Bool)
  | hostRead (fn : Nat) (addr : Nat) (len : Nat)
  | completion (fn : Fn) (bytes : Option Bytes)
  | retryStatus (fn : Fn)
  | cxlData (off : Nat) (bytes : Bytes) (poison : Bool)
  | linkData (mid : Nat) (bytes : Bytes) (poison : Bool) (status : Nat)
  | runtimeData (mid : Nat) (addr : Nat) (bytes : Bytes) (poison : Bool) (rc : Nat)
  | remoteWrite (mid : Nat) (addr : Nat) (bytes : Bytes)
  | remoteRead (mid : Nat) (addr : Nat) (len : Nat)
  | trayRead (tray : Nat) (far : BitVec 8) (addr : Nat) (len : Nat)
  | trayWrite (tray : Nat) (far : BitVec 8) (addr : Nat) (bytes : Bytes)
  | peerWrite (set : Nat) (role : Nat) (off : Nat) (bytes : Bytes) (stamp : BitVec 64)
  | peerRead (set : Nat) (role : Nat) (off : Nat) (len : Nat)
  | flit (port : Nat) (raw : Bytes)
  | message (node : Nat) (code : Nat) (body : Bytes)
  | dcEvent (granule : Nat) (add : Bool)
  | mailbox (code : Nat) (bytes : Bytes)
  | i3c (target : I3cTarget) (bytes : Bytes)
  | debugPort (bytes : Bytes)
  | linkPower (link : Nat) (what : Nat)
  | trainingFrames (port : Nat)
  deriving DecidableEq, Repr

/-! ### The whole state -/

/-- The state of the block. -/
structure State where
  pending : List Instr
  free : Nat := 0
  out : List Emission := []
  now : Nat := 0
  ident : Ident := {}
  pins : Pins := {}
  boot : Boot := {}
  power : Power := {}
  flash : Flash := {}
  sec : Sec := {}
  fw : Firmware := {}
  cp : Cp := {}
  tenants : Tbl Nat Tenant := []
  masters : Tbl Nat Nat := []
  mem : Mem := {}
  regions : List Region := []
  zeroing : List Nat := []
  halves : PerHalf HalfState := ⟨{}, {}⟩
  tensors : Tbl Nat Tensor := []
  nextTensor : Nat := 0
  acc : Accession := {}
  kvs : Tbl Nat KvObj := []
  kvGen : Tbl Nat Nat := []
  volumes : Tbl Nat Volume := []
  nextVolume : Nat := 0
  queues : Tbl Nat Queue := []
  eng : Engines := {}
  plain : Plain := {}
  pool : Pool := {}
  link : Link := {}
  host : HostEp := {}
  bw : Bw := {}
  ras : Ras := {}
  diag : Diag := {}
  deriving DecidableEq, Repr

/-- Why a command can end without a next state because of the machine's own condition. The block records its
errors in its state; none of the spec's errors stops it, so a step never faults. -/
inductive Fault where
  /-- Raised by no step: kept so that the three outcomes of a step stay distinct. Safe. -/
  | unreachable
  deriving DecidableEq, Repr

/-- Why a command has no next state in this model. -/
inductive Refusal where
  /-- The command has no meaning yet: raised only by the arms of exec. Safe. -/
  | notModelled (mnemonic : String)
  deriving DecidableEq, Repr

/-- The memory of a device whose 3.3 V AUX has just been applied: the cold reset of R678, at step 1 of R685
(log 2). Device time is 0 (R663), the state is AUX_ONLY, tenant 0 exists with PF0 bound to it (R545), with the
quotas of log 17, and every register holds the value of its Reset column. -/
def State.reset : State where
  pending := []
  tenants := [(0, { t1 := 360, t2 := 1920 })]
  masters := [(1, 0)]
  link := { ports := [(0, { kind := .off, state := .off }), (1, {}), (2, {}), (3, {}), (4, {}), (5, {}),
                      (6, {}), (7, {})] }

end Sys2Proof.Machine
end

