-- ==== Sys2Proof/Machine/Table.lean ====
section
/-! DEFINITION. Reading and changing sparse tables and per-half pairs. -/

namespace Sys2Proof.Machine

/-- The outcome type of every meaning. -/
abbrev Out := Host.Outcome State Fault Refusal

/-- The value a table lists for a key. -/
def tget {κ α : Type} [DecidableEq κ] (t : Tbl κ α) (k : κ) : Option α :=
  match t with
  | [] => none
  | (k', v) :: r => if k' = k then some v else tget r k

/-- A table with a key's value set: in place where the key is listed, else at the end. -/
def tset {κ α : Type} [DecidableEq κ] (t : Tbl κ α) (k : κ) (v : α) : Tbl κ α :=
  match t with
  | [] => [(k, v)]
  | (k', v') :: r => if k' = k then (k, v) :: r else (k', v') :: tset r k v

/-- A table without a key. -/
def tdel {κ α : Type} [DecidableEq κ] (t : Tbl κ α) (k : κ) : Tbl κ α :=
  match t with
  | [] => []
  | (k', v') :: r => if k' = k then tdel r k else (k', v') :: tdel r k

/-- A key's value, or a default. -/
def tgetD {κ α : Type} [DecidableEq κ] (t : Tbl κ α) (k : κ) (d : α) : α :=
  (tget t k).getD d

/-- Whether a key is listed. -/
def thas {κ α : Type} [DecidableEq κ] (t : Tbl κ α) (k : κ) : Bool :=
  (tget t k).isSome

/-- A listed key's value changed; a table that does not list the key stays. -/
def tmod {κ α : Type} [DecidableEq κ] (t : Tbl κ α) (k : κ) (f : α → α) : Tbl κ α :=
  match tget t k with
  | none => t
  | some v => tset t k (f v)

/-- Every listed value changed. -/
def tmap {κ α : Type} (t : Tbl κ α) (f : κ → α → α) : Tbl κ α :=
  t.map fun p => (p.1, f p.1 p.2)

/-- The entries whose key and value pass a test. -/
def tfilter {κ α : Type} (t : Tbl κ α) (p : κ → α → Bool) : Tbl κ α :=
  t.filter fun e => p e.1 e.2

/-- The least natural number from `n` on, within `fuel` of it, that a test accepts. -/
def leastFrom (p : Nat → Bool) : (fuel n : Nat) → Option Nat
  | 0, _ => none
  | f + 1, n => if p n then some n else leastFrom p f (n + 1)

/-- The value of a half. -/
def PerHalf.get {α : Type} (p : PerHalf α) (h : Half) : α :=
  match h with
  | .h0 => p.h0
  | .h1 => p.h1

/-- A pair with the value of a half set. -/
def PerHalf.set {α : Type} (p : PerHalf α) (h : Half) (v : α) : PerHalf α :=
  match h with
  | .h0 => { p with h0 := v }
  | .h1 => { p with h1 := v }

/-- A pair with the value of a half changed. -/
def PerHalf.mod {α : Type} (p : PerHalf α) (h : Half) (f : α → α) : PerHalf α :=
  p.set h (f (p.get h))

/-- A half by its number (0 for H0, anything else for H1). -/
def halfOf (n : Nat) : Half := if n = 0 then .h0 else .h1

/-- A half's number. -/
def halfNum (h : Half) : Nat :=
  match h with
  | .h0 => 0
  | .h1 => 1

/-- The other half. -/
def otherHalf (h : Half) : Half :=
  match h with
  | .h0 => .h1
  | .h1 => .h0

/-- The master ID of a function (R460). -/
def fnMid (f : Fn) : Nat :=
  match f with
  | .pf0 => 1
  | .pf1 => 2
  | .vf n => 0x40 + n

/-- The function of a master ID, when it is a function's (R510). -/
def midFn (m : Nat) : Option Fn :=
  if m = 1 then some .pf0 else if m = 2 then some .pf1
  else if 0x41 ≤ m ∧ m ≤ 0x7F then some (.vf (m - 0x40)) else none

/-- Whether a master ID is a link-session master, and then its port (R510). -/
def midPort (m : Nat) : Option Nat :=
  if 0x80 ≤ m ∧ m ≤ 0x27F then some ((m - 0x80) / 64) else none

/-- A count held at a limit. -/
def satTo (limit n : Nat) : Nat := if limit < n then limit else n

/-- A 32-bit counter that stops at its top (R83, R707). -/
def sat32 (n : Nat) : Nat := satTo 0xFFFFFFFF n

/-- A 16-bit counter that stops at its top (R519). -/
def sat16 (n : Nat) : Nat := satTo 0xFFFF n

/-- Bit `i` of a natural number. -/
def natBit (n i : Nat) : Bool := n / 2 ^ i % 2 = 1

/-- Bits `lo` up, `w` of them. -/
def natField (n lo w : Nat) : Nat := n / 2 ^ lo % 2 ^ w

/-- `⌈a / b⌉`. -/
def ceilDiv (a b : Nat) : Nat := (a + b - 1) / b

/-- A number rounded up to a multiple. -/
def roundUp (a b : Nat) : Nat := ceilDiv a b * b

end Sys2Proof.Machine
end

