-- ==== Sys2Proof/Machine/Bytes.lean ====
section
/-! DEFINITION. Byte strings: little-endian and big-endian fields, slices, CRC-32C (R109). -/

namespace Sys2Proof.Machine

/-- Byte `i` of a string, zero beyond its end. -/
def byteAt (b : Bytes) (i : Nat) : Byte := b.getD i 0

/-- A slice, with zeros where the string has ended. -/
def slice (b : Bytes) (off : Nat) : (n : Nat) → Bytes
  | 0 => []
  | n + 1 => byteAt b off :: slice b (off + 1) n

/-- The little-endian value of a string. -/
def leVal : Bytes → Nat
  | [] => 0
  | x :: r => x.toNat + 256 * leVal r

/-- `n` little-endian bytes of a value. -/
def leBytes (n : Nat) (v : Nat) : Bytes :=
  match n with
  | 0 => []
  | k + 1 => BitVec.ofNat 8 v :: leBytes k (v / 256)

/-- `n` big-endian bytes of a value. -/
def beBytes (n v : Nat) : Bytes := (leBytes n v).reverse

/-- The number that bytes write, the highest first. -/
def beVal (b : Bytes) : Nat := leVal b.reverse

/-- A little-endian field of `n` bytes at an offset. -/
def leAt (b : Bytes) (off n : Nat) : Nat := leVal (slice b off n)

/-- `n` zero bytes. -/
def zeros (n : Nat) : Bytes := List.replicate n 0

/-- Whether the bytes from `off`, `n` of them, are all zero. -/
def zeroAt (b : Bytes) (off n : Nat) : Bool := (slice b off n).all (· == 0)

/-- A string with bytes placed at an offset, extended with zeros as needed. -/
def place (b : Bytes) (off : Nat) (v : Bytes) : Bytes :=
  slice b 0 off ++ v ++ b.drop (off + v.length)

/-- A string cut or padded with zeros to a length. -/
def fit (n : Nat) (b : Bytes) : Bytes := slice b 0 n

/-- A vector of bytes as a string. -/
def vbytes {n : Nat} (v : Vector Byte n) : Bytes := v.toList

/-- ASCII bytes of a string. -/
def ascii (t : String) : Bytes := t.toList.map fun c => BitVec.ofNat 8 c.toNat

/-- Exclusive-or of two strings, as long as the first. -/
def xorBytes : Bytes → Bytes → Bytes
  | [], _ => []
  | x :: r, [] => x :: r
  | x :: r, y :: q => (x ^^^ y) :: xorBytes r q

/-- One bit of CRC-32C, reflected form of the polynomial 0x1EDC6F41 (R109). -/
def crcBit (c : BitVec 32) : BitVec 32 :=
  if c.getLsbD 0 then (c >>> 1) ^^^ 0x82F63B78#32 else c >>> 1

/-- CRC-32C over one byte. -/
def crcByte (c : BitVec 32) (x : Byte) : BitVec 32 :=
  let c := c ^^^ x.setWidth 32
  crcBit (crcBit (crcBit (crcBit (crcBit (crcBit (crcBit (crcBit c)))))))

/-- CRC-32C with its initial value and final exclusive-or (R109). -/
def crc32c (b : Bytes) : BitVec 32 := (b.foldl crcByte 0xFFFFFFFF#32) ^^^ 0xFFFFFFFF#32

end Sys2Proof.Machine
end

