-- ==== Sys2Proof/Machine/LineCode.lean ====
section
/-! DEFINITION. The stored codes: the Reed-Solomon line code of DRAM (R630 to R633) and the Hsiao (39,32)
code of on-chip SRAM (R628, R629). -/

namespace Sys2Proof.Machine

/-- Multiplication by α = 2 in GF(2^8) with x^8 + x^4 + x^3 + x^2 + 1 (R631). -/
def gfDouble (a : Byte) : Byte :=
  if a.getLsbD 7 then (a <<< 1) ^^^ 0x1D#8 else a <<< 1

/-- Multiplication in GF(2^8), by the bits of the second factor from the highest. -/
def gfMulFrom (a b : Byte) : (bits : Nat) → Byte → Byte
  | 0, acc => acc
  | n + 1, acc =>
    let acc := gfDouble acc
    gfMulFrom a b n (if b.getLsbD n then acc ^^^ a else acc)

/-- Multiplication in GF(2^8) (R631). -/
def gfMul (a b : Byte) : Byte := gfMulFrom a b 8 0

/-- α^n. -/
def gfPow : Nat → Byte
  | 0 => 1
  | n + 1 => gfDouble (gfPow n)

/-- Value at x of the polynomial whose coefficients are listed from the highest power. -/
def gfEval (x : Byte) (coeffs : Bytes) : Byte :=
  coeffs.foldl (fun acc c => gfMul acc x ^^^ c) 0

/-- Syndrome S_j of a word of 68 symbols in the order m_0 … m_63, p_0 … p_3 (R631, R632). -/
def rsSyndrome (word : Bytes) (j : Nat) : Byte := gfEval (gfPow j) word

/-- Remainder of division by the generator: one step of the shift register. -/
def rsStep (r : Byte × Byte × Byte × Byte) (m : Byte) : Byte × Byte × Byte × Byte :=
  let (p0, p1, p2, p3) := r
  let f := m ^^^ p0
  (p1 ^^^ gfMul f 0x0F, p2 ^^^ gfMul f 0x36, p3 ^^^ gfMul f 0x78, gfMul f 0x40)

/-- The check bytes p_0 to p_3 of 64 data bytes (R631). -/
def rsCheck (data : Bytes) : Bytes :=
  let (p0, p1, p2, p3) := data.foldl rsStep (0, 0, 0, 0)
  [p0, p1, p2, p3]

/-- The error pattern of a poisoned line: its four check bytes inverted (R633). -/
def poisonPattern : Bytes := zeros 64 ++ [0xFF, 0xFF, 0xFF, 0xFF]

/-- What decoding a stored line finds (R632). -/
inductive LineResult where
  | clean
  | poisoned
  | corrected (position : Nat) (value : Byte)
  | uncorrectable
  deriving DecidableEq, Repr

/-- The position k for which the four syndromes are those of a single symbol error (R632, order 3). -/
def rsPosition (s0 s1 s2 s3 : Byte) : Option Nat :=
  leastFrom (fun k => s1 == gfMul s0 (gfPow k) && s2 == gfMul s0 (gfPow (2 * k)) && s3 == gfMul s0 (gfPow (3 * k)))
    68 0

/-- Decoding by syndromes (R632). The code is linear, so the syndromes of a stored word are those of its error
pattern (log 11). -/
def rsDecode (word : Bytes) : LineResult :=
  let s0 := rsSyndrome word 0
  let s1 := rsSyndrome word 1
  let s2 := rsSyndrome word 2
  let s3 := rsSyndrome word 3
  if s0 == 0 && s1 == 0 && s2 == 0 && s3 == 0 then .clean
  else if s0 == rsSyndrome poisonPattern 0 && s1 == rsSyndrome poisonPattern 1
      && s2 == rsSyndrome poisonPattern 2 && s3 == rsSyndrome poisonPattern 3 then .poisoned
  else if s0 == 0 then .uncorrectable
  else match rsPosition s0 s1 s2 s3 with
    | some k => .corrected k s0
    | none => .uncorrectable

/-- The columns of the Hsiao code, data bit 0 first (R628). -/
def hsiaoColumns : List (BitVec 7) :=
  [0x07, 0x0B, 0x13, 0x23, 0x0D, 0x15, 0x25, 0x45, 0x19, 0x29, 0x49, 0x31, 0x51, 0x0E, 0x16, 0x26]
  ++ [0x46, 0x1A, 0x2A, 0x4A, 0x32, 0x52, 0x62, 0x2C, 0x4C, 0x34, 0x54, 0x64, 0x38, 0x58, 0x68, 0x70]

/-- The exclusive-or of the columns of the set data bits from bit `i` on. -/
def hsiaoFrom (d : BitVec 32) : List (BitVec 7) → Nat → BitVec 7 → BitVec 7
  | [], _, acc => acc
  | c :: r, i, acc => hsiaoFrom d r (i + 1) (if d.getLsbD i then acc ^^^ c else acc)

/-- The check bits of a data word (R628). -/
def hsiaoCheck (d : BitVec 32) : BitVec 7 := hsiaoFrom d hsiaoColumns 0 0

/-- What decoding an SRAM word finds (R629): a corrected data bit 0 to 31 or check bit 32 to 38. -/
inductive WordResult where
  | clean
  | corrected (bit : Nat)
  | uncorrectable
  deriving DecidableEq, Repr

/-- Decoding by the syndrome (R629). -/
def hsiaoDecode (syndrome : BitVec 7) : WordResult :=
  if syndrome == 0 then .clean
  else match leastFrom (fun i => hsiaoColumns.getD i 0 == syndrome) 32 0 with
    | some i => .corrected i
    | none =>
      match leastFrom (fun k => (1#7 <<< k) == syndrome) 7 0 with
      | some k => .corrected (32 + k)
      | none => .uncorrectable

end Sys2Proof.Machine
end

