-- ==== Sys2Proof/Machine/Ops.lean ====
section
/-! DEFINITION. Operations that every family uses: time, RW1C bits, what the device sends, free values, the errata
log, device addresses, and reading and writing the DRAM of tiers 1 and 2 through the line code. -/

namespace Sys2Proof.Machine

/-! ### Time and RW1C bits -/

/-- Sixteenths of a nanosecond in a time of n nanoseconds. -/
def nsT (n : Nat) : Nat := 16 * n

/-- Sixteenths of a nanosecond in n microseconds. -/
def usT (n : Nat) : Nat := 16000 * n

/-- Sixteenths of a nanosecond in n milliseconds. -/
def msT (n : Nat) : Nat := 16000000 * n

/-- Sixteenths of a nanosecond in n seconds. -/
def secT (n : Nat) : Nat := 16000000000 * n

/-- Device time in ns (R663). -/
def devNs (s : State) : Nat := s.now / 16

/-- An RW1C bit that the device sets (R6). -/
def stickySet (now : Nat) : Sticky := { val := true, setAt := some now }

/-- An RW1C bit to which software has written 1: cleared, unless the device sets it in the same cycle (R6, log
12). -/
def stickyClear (b : Sticky) (now : Nat) : Sticky :=
  if b.setAt = some now then b else { b with val := false }

/-! ### What the device sends, and free values -/

/-- The device sends something (log 9). -/
def emit (s : State) (e : Emission) : State := { s with out := s.out ++ [e] }

/-- The next free number, which selects a free value (log 4). -/
def bump (s : State) : State := { s with free := s.free + 1 }

/-- n bytes drawn from the TRNG from draw number `at_` on (log 4). -/
def trngBytes (at_ : Nat) : (n : Nat) → Bytes
  | 0 => []
  | n + 1 => Config.trng at_ :: trngBytes (at_ + 1) n

/-- The state after n bytes have been drawn. -/
def drew (n : Nat) (s : State) : State := { s with free := s.free + n }

/-! ### The errata log (R655 to R661) -/

/-- The UNIT field: a kind and an index (R656). -/
def errUnit (kind index : Nat) : Nat := kind * 2 ^ 28 + index

/-- How many sources each UNIT kind has, kinds 0 to 11 (R656, R12). -/
def sourceCounts : List Nat := [1, 128, 32, 8, 32, 8, 2, 2, 2, 1, 1, 1]

/-- The number of a UNIT field's source, kind first and then index (R660). -/
def errSource (unit : Nat) : Nat := ((sourceCounts.take (unit / 2 ^ 28)).foldl (· + ·) 0) + unit % 2 ^ 28

/-- ALERT_N is low while a record is pending, and on the recovery path (R661, R691). -/
def alertEval (s : State) : State :=
  { s with pins := { s.pins with alertN := s.ras.pending.isEmpty && s.boot.stage != .recovery } }

/-- Appends to a list that keeps its last n. -/
def keepLast {α : Type} (n : Nat) (l : List α) (x : α) : List α :=
  let l := l ++ [x]
  l.drop (l.length - n)

/-- Cyclic distance of a record's source from the pointer (R660). -/
def sourceDist (ptr : Nat) (r : ErrRec) : Nat := (errSource r.unit + 218 - ptr % 218) % 218

/-- The record of a list whose source comes first from the pointer on (R660). -/
def firstSource (ptr : Nat) (l : List ErrRec) : Option ErrRec :=
  l.foldl (fun best r =>
    match best with
    | none => some r
    | some b => if sourceDist ptr r < sourceDist ptr b then some r else some b) none

/-- A record put into a list in order of KIND, after those of its own. -/
def byKind (r : ErrRec) : List ErrRec → List ErrRec
  | [] => [r]
  | x :: l => if r.kind < x.kind then r :: x :: l else x :: byKind r l

/-- The records of one cycle in the order of the rotating pointer, which advances one place after each: those of one source follow
one another in order of KIND (R660). -/
def cycleOrder : (fuel : Nat) → (ptr : Nat) → List ErrRec → List ErrRec
  | 0, _, _ => []
  | n + 1, ptr, l =>
    match firstSource ptr l with
    | none => []
    | some r =>
      let same := (l.filter (fun x => errSource x.unit == errSource r.unit)).foldl (fun a x => byKind x a) []
      same ++ cycleOrder n (ptr + same.length) (l.filter (fun x => errSource x.unit != errSource r.unit))

/-- The SEQ of a record after those from `base` on have been put in an order. -/
def reseq (base : Nat) (order : List ErrRec) (seq : Nat) : Nat :=
  if seq < base then seq else base + order.findIdx (fun r => r.seq == seq)

/-- A list by SEQ, whose entries from `base` on follow in an order, with their new SEQ. -/
def reorder {α : Type} (get : α → Nat) (set : Nat → α → α) (base : Nat) (order : List ErrRec) (l : List α) : List α :=
  l.filter (fun x => decide (get x < base))
    ++ order.zipIdx.filterMap (fun q => (l.find? (fun x => get x == q.1.seq)).map (set (base + q.2)))

/-- The records of the present cycle take consecutive SEQ values in the order of the rotating pointer (R660). -/
def cycleSort (s : State) : State :=
  let x := s.ras
  let order := cycleOrder 218 x.cyclePointer (x.log.filter (fun r => decide (x.cycleSeq ≤ r.seq)))
  let put (n : Nat) (r : ErrRec) : ErrRec := { r with seq := n }
  { s with
    ras := { x with log := reorder (·.seq) put x.cycleSeq order x.log
                    cpBuffer := reorder (·.seq) put x.cycleSeq order x.cpBuffer
                    pending := reorder id (fun n _ => n) x.cycleSeq order x.pending }
    flash := { s.flash with errRing := reorder (·.1.seq) (fun n p => (put n p.1, p.2)) x.cycleSeq order s.flash.errRing } }

/-- A record joins the log, its copies and what is pending (R655, R661). -/
def logAppend (s : State) (r : ErrRec) : State :=
  let log := keepLast 16384 s.ras.log r
  let oldest := (log.head?.map (·.seq)).getD 0
  let pending := (if 2 ≤ r.severity then s.ras.pending ++ [r.seq] else s.ras.pending).filter (oldest ≤ ·)
  { s with
    ras := { s.ras with log := log, pending := pending, nextSeq := s.ras.nextSeq + 1,
                        cpBuffer := keepLast 64 s.ras.cpBuffer r, pointer := (s.ras.pointer + 1) % 218 }
    flash := if 3 ≤ r.severity then { s.flash with errRing := keepLast 256 s.flash.errRing (r, false) }
             else s.flash }

/-- The device writes one record with the next SEQ (R655, R656, R660, R661): the first of a cycle, or one more of the same cycle, whose
records are then put in order. -/
def logWrite (s : State) (r : ErrRec) : State :=
  let r := { r with seq := s.ras.nextSeq }
  if s.ras.cycle = some s.now then alertEval (cycleSort (logAppend s r))
  else
    let s := { s with ras := { s.ras with cycle := some s.now, cycleSeq := s.ras.nextSeq, cyclePointer := s.ras.pointer } }
    alertEval (logAppend s r)

/-- A record of severity CORRECTED in half h: at most 64 in any 1 s, others only counted in DROPPED (R659). -/
def logCorrected (s : State) (h : Half) (r : ErrRec) : State :=
  let recent := (s.ras.corrTimes.get h).filter (fun t => s.now < t + secT 1)
  if 64 ≤ recent.length then
    { s with ras := { s.ras with corrTimes := s.ras.corrTimes.set h recent, dropped := s.ras.dropped.mod h (· + 1) } }
  else
    let n := sat16 (s.ras.dropped.get h)
    logWrite { s with ras := { s.ras with corrTimes := s.ras.corrTimes.set h (recent ++ [s.now]),
                                          dropped := s.ras.dropped.set h 0 } } { r with dropped := n }

/-- A record of any severity, with the event's half. -/
def logRec (s : State) (h : Half) (r : ErrRec) : State :=
  if r.severity = 1 then logCorrected s h r else logWrite s r

/-- A record with its time stamped (R656). -/
def stamped (s : State) (r : ErrRec) : ErrRec := { r with time := devNs s }

/-- Writes one record of severity other than CORRECTED, stamped now. -/
def logNow (s : State) (r : ErrRec) : State := logWrite s (stamped s r)

/-! ### Device addresses (R15 to R19, R284 to R286) -/

/-- 2^30. -/
def gib : Nat := 2 ^ 30

/-- 2 MiB, the size of a runtime granule (R289). -/
def mib2 : Nat := 2 ^ 21

/-- DA[55:52]. -/
def daRange (da : Nat) : Nat := da / 2 ^ 52 % 16

/-- DA[51:0]. -/
def daOff (da : Nat) : Nat := da % 2 ^ 52

/-- A device address from its range and offset. -/
def daMk (range off : Nat) : Nat := range * 2 ^ 52 + off

/-- Where half h's share of tier 1 or 2 begins (R15, R16). -/
def halfBase (tier : Nat) (h : Half) : Nat :=
  match h with
  | .h0 => 0
  | .h1 => (if tier = 1 then 180 else 960) * gib

/-- The half in which a tier-1 or tier-2 offset lies (R15, R16). -/
def offHalf (tier off : Nat) : Half := if off < halfBase tier .h1 then .h0 else .h1

/-- The half of a tier-1 or tier-2 device address. -/
def daHalf (da : Nat) : Half := offHalf (daRange da) (daOff da)

/-- Usable capacity of tier 1 or 2 in a half, in bytes (R284, R329, R654). -/
def halfCap (s : State) (tier : Nat) (h : Half) : Nat :=
  (if tier = 1 then (s.halves.get h).t1Cap else (s.halves.get h).t2Cap) * gib

/-- Whether an offset is within the usable capacity of tier 1 or 2 (R17). -/
def offUsable (s : State) (tier off : Nat) : Bool :=
  let h := offHalf tier off
  decide (off - halfBase tier h < halfCap s tier h)

/-- Whether n bytes from an address lie in one half's usable part of tier 1 or 2. -/
def spanUsable (s : State) (da n : Nat) : Bool :=
  let t := daRange da
  let h := daHalf da
  (t == 1 || t == 2) && decide (daOff da - halfBase t h + n ≤ halfCap s t h)

/-- Masters that may issue internal addresses (R19). -/
def internalMid (mid : Nat) : Bool := mid == 0xFFE || (decide (0xF00 ≤ mid) && decide (mid ≤ 0xFFD))

/-- Why an address is refused whatever it names (R17): a reserved range, an internal address from an outside
master, or an offset beyond the usable capacity. Tier 3 and tier 4 offsets are bounded by what is held (R18). -/
def daRefused (s : State) (mid da : Nat) : Bool :=
  let r := daRange da
  r == 0 || (decide (5 ≤ r) && decide (r ≤ 7)) || (decide (9 ≤ r) && decide (r ≤ 0xE))
    || (r == 0xF && !internalMid mid)
    || ((r == 1 || r == 2) && !offUsable s r (daOff da))
    || (r == 8 && decide (1920 * gib ≤ daOff da))
    || decide (2 ^ 56 ≤ da)

/-- The stack (0 to 7) or package (0 to 31) of a tier-1 or tier-2 address, on all units of the half by R285 and
R286, or re-mapped onto the remaining ones by R329 and R654. -/
def daDevice (s : State) (da : Nat) : Nat :=
  let t := daRange da
  let h := daHalf da
  let o := daOff da - halfBase t h
  let hs := s.halves.get h
  if t = 1 then
    4 * halfNum h + (if hs.t1Remapped then hs.hbm.getD (o / 2 ^ 9 % 3) 0
      else (o / 2 ^ 9 % 4) ^^^ (o / 2 ^ 15 % 4) ^^^ (o / 2 ^ 21 % 4))
  else
    16 * halfNum h + (if hs.t2Remapped then hs.packages.getD (o / 2 ^ 9 % 15) 0
      else (o / 2 ^ 9 % 16) ^^^ (o / 2 ^ 17 % 16))

/-- The pseudo-channel or channel of an address (R285, R286). -/
def daChannel (da : Nat) : Nat :=
  let t := daRange da
  let o := daOff da - halfBase t (daHalf da)
  if t = 1 then o / 2 ^ 11 % 32 else o / 2 ^ 13 % 4

/-- Bank and row of a line: the placement within raw DRAM is internal to the device (R630), so both are free
values of the address (log 20). -/
def daBankRow (da : Nat) : Nat × Nat :=
  ((Config.freeWord 1 (da / 64)).toNat % 256, (Config.freeWord 2 (da / 64)).toNat % 2 ^ 24)

/-! ### Where a tensor lies (R102, R104, R128, R297) -/

/-- TR: tile rows of a matrix. -/
def tileRows (p : TParams) : Nat := ceilDiv p.rows 128

/-- TC: tile columns of a matrix. -/
def tileCols (p : TParams) : Nat := ceilDiv p.cols 128

/-- NT: tiles of a tensor. -/
def nTiles (p : TParams) : Nat := p.nm * tileRows p * tileCols p

/-- Bytes of a payload slot. -/
def slotBytes (p : TParams) : Nat := 512 * p.q

/-- The address ranges of a master copy, as base and length: payloads, colophons and table images. -/
def masterSpans (p : TParams) (pb cb tb : Nat) : List (Nat × Nat) :=
  [(pb, nTiles p * slotBytes p), (cb, 32 * nTiles p)] ++ (if p.ntab = 0 then [] else [(tb, 16 * p.ntab)])

/-- The half to which a working copy sends a tile (R297). -/
def wcHalf (w : WorkCopy) (t : Nat) : Half :=
  if w.hs = 0 then w.half else if t / w.hs % 2 = 0 then .h0 else .h1

/-- The index of a tile within its half's part of a working copy (R297). -/
def wcIndex (w : WorkCopy) (t : Nat) : Nat := if w.hs = 0 then t else t / (2 * w.hs) * w.hs + t % w.hs

/-- n_h: the tiles of a working copy in a half (R297). -/
def wcCount (w : WorkCopy) (nt : Nat) (h : Half) : Nat :=
  if w.hs = 0 then (if w.half = h then nt else 0)
  else
    let full := nt / (2 * w.hs)
    let rest := nt % (2 * w.hs)
    match h with
    | .h0 => full * w.hs + min rest w.hs
    | .h1 => full * w.hs + (rest - w.hs)

/-- WBASE of a half. -/
def wcBase (w : WorkCopy) (h : Half) : Nat :=
  match h with
  | .h0 => w.w0
  | .h1 => w.w1

/-- CB_h: the colophons of a half (R297). -/
def wcColBase (p : TParams) (w : WorkCopy) (h : Half) : Nat :=
  roundUp (wcBase w h + wcCount w (nTiles p) h * slotBytes p) 64

/-- The table images of a half (R297). -/
def wcTabBase (p : TParams) (w : WorkCopy) (h : Half) : Nat :=
  roundUp (wcColBase p w h + 32 * wcCount w (nTiles p) h) 64

/-- The address range of a working copy in a half: its tiles, and the table images, which lie in each half (R297). -/
def wcSpan (p : TParams) (w : WorkCopy) (h : Half) : Nat × Nat :=
  (wcBase w h, if wcCount w (nTiles p) h = 0 ∧ p.ntab = 0 then 0 else wcTabBase p w h + 16 * p.ntab - wcBase w h)

/-- Payload and colophon addresses of a tile of the working copy. -/
def wcTile (p : TParams) (w : WorkCopy) (t : Nat) : Nat × Nat :=
  let h := wcHalf w t
  (wcBase w h + wcIndex w t * slotBytes p, wcColBase p w h + 32 * wcIndex w t)

/-- Payload and colophon addresses of a tile of the master copy (R104). -/
def masterTile (t : Tensor) (i : Nat) : Nat × Nat := (t.pbase + i * slotBytes t.params, t.cbase + 32 * i)

/-- Whether two ranges of base and length meet. -/
def spansMeet (a b : Nat × Nat) : Bool :=
  decide (0 < a.2) && decide (0 < b.2) && decide (a.1 < b.1 + b.2) && decide (b.1 < a.1 + a.2)

/-! ### Cells of tiers 1 and 2 -/

/-- The bytes from an address, with the number of each, none of them zero. -/
def cellsOf : (a : Nat) → Bytes → List Host.Cell
  | _, [] => []
  | a, x :: r => if x = 0 then cellsOf (a + 1) r else (a, x) :: cellsOf (a + 1) r

/-- A byte of memory: what is listed, or zero (log 3). -/
def cellAt (c : List Host.Cell) (a : Nat) : Byte := ((c.find? (fun p => p.1 == a)).map (·.2)).getD 0

/-- The listed cells from `lo` up to, not including, `hi`. -/
def cellsIn (c : List Host.Cell) (lo hi : Nat) : List Host.Cell :=
  c.filter (fun p => decide (lo ≤ p.1) && decide (p.1 < hi))

/-- Memory with the cells from `lo` up to, not including, `hi` replaced. -/
def cellsSet (c : List Host.Cell) (lo hi : Nat) (new : List Host.Cell) : List Host.Cell :=
  c.filter (fun p => decide (p.1 < lo)) ++ new ++ c.filter (fun p => decide (hi ≤ p.1))

/-- Memory with bytes stored from an address on. -/
def cellsPut (c : List Host.Cell) (a : Nat) (b : Bytes) : List Host.Cell :=
  cellsSet c a (a + b.length) (cellsOf a b)

/-- n bytes of memory from an address on. -/
def cellsRead (c : List Host.Cell) (a : Nat) : (n : Nat) → Bytes
  | 0 => []
  | n + 1 => cellAt c a :: cellsRead c (a + 1) n

/-- The canonical form of a list by address: addresses strictly rising, and no entry whose value an unlisted address has
anyway. -/
def canonical {α : Type} (unlisted : α → Bool) : List (Nat × α) → Bool
  | [] => true
  | [(_, x)] => !unlisted x
  | (a, x) :: (b, y) :: r => !unlisted x && decide (a < b) && canonical unlisted ((b, y) :: r)

/-- The canonical form of cells: no cell is listed for a zero. -/
def cellsWf (c : List Host.Cell) : Bool := canonical (· == 0) c

/-- The canonical form of error patterns: no line is listed for a zero pattern. -/
def errsWf (t : Tbl Nat Bytes) : Bool := canonical (fun e => e.all (· == 0)) t

/-- The memory of tiers 1 and 2 is in canonical form. -/
def Mem.wf (m : Mem) : Bool := cellsWf m.cells && errsWf m.lineErr

/-! ### Who owns an address -/

/-- First byte past a region. -/
def regionEnd (r : Region) : Nat := r.base + r.granules * mib2

/-- First byte past the part of a region that a master reaches (R308, R614). -/
def regionDataEnd (r : Region) : Nat := r.base + r.dataGranules * mib2

/-- The runtime-face region that holds an address, tags included. -/
def regionAt (s : State) (da : Nat) : Option Region :=
  s.regions.find? (fun r => decide (r.base ≤ da) && decide (da < regionEnd r))

/-- The plain granule whose home holds a tier-2 address. -/
def granuleHomeAt (s : State) (da : Nat) : Option (Nat × PlainGran) :=
  s.plain.granules.find? (fun p => decide (p.2.home ≤ da) && decide (da < p.2.home + gib))

/-- The lender extent that holds an address. -/
def extentAt (s : State) (da : Nat) : Option ((Half × Nat) × Extent) :=
  s.pool.extents.find? (fun p => decide (p.2.base ≤ da) && decide (da < p.2.base + gib))

/-- The key/value page table that holds an address (R303). -/
def pageTableAt (s : State) (da : Nat) : Option KvObj :=
  (s.kvs.find? (fun p => decide (p.2.tableBase ≤ da) && decide (da < p.2.tableBase + p.2.tableGranules * mib2))).map (·.2)

/-- The tenant and master that an event at an address names, where it names one (R656). -/
def ownerAt (s : State) (da : Nat) : Option (Nat × Nat) :=
  match regionAt s da with
  | some r => some (r.tenant, r.master)
  | none =>
    match granuleHomeAt s da with
    | some p => some (p.2.tenant, p.2.owner)
    | none => (pageTableAt s da).map (fun k => (k.tenant, k.master))

/-- The secret in the key slot that covers a line of tiers 1 and 2: of its tenant, or of its extent; none where it is free (R599,
R611). The inner option is absent when the slot has been erased. -/
def lineSecret (s : State) (da : Nat) : Option (Option Bytes) :=
  match ownerAt s da with
  | some (t, _) => some (tget s.sec.tenantKeys t)
  | none => (extentAt s da).bind (fun p => if p.2.key.isEmpty then none else some (some p.2.key))

/-- The XTS keys under which a line of tiers 1 and 2 is encrypted (R598, R611): derived from the secret, or K_FREE; absent when the
slot has been erased. -/
def lineKey (s : State) (da : Nat) : Option Bytes :=
  match lineSecret s da with
  | some x => x.map (fun k => vbytes (Config.kdf (k ++ ascii "XTS")))
  | none => s.sec.kFree

/-- The tag key of a protected line's owner (R598). -/
def lineTagKey (s : State) (da : Nat) : Bytes :=
  (vbytes (Config.kdf ((((lineSecret s da).getD none).getD []) ++ ascii "TAG"))).take 16

/-- The tweak address of a line (R611): the plain-face address for a plain granule's home. -/
def lineTweak (s : State) (da : Nat) : Nat :=
  match granuleHomeAt s da with
  | some (g, p) => (daMk 8 (g * gib) + (da - p.home)) / 64
  | none => da / 64

/-! ### Lines and their stored words -/

/-- The address of the line that holds an address. -/
def lineOf (da : Nat) : Nat := da / 64 * 64

/-- Error pattern of a line's stored word (R631, log 11). -/
def lineErrOf (m : Mem) (line : Nat) : Bytes := tgetD m.lineErr line (zeros 68)

/-- The table of error patterns with a line's pattern set, in address order; a zero pattern is not listed. -/
def errPut (t : Tbl Nat Bytes) (line : Nat) (e : Bytes) : Tbl Nat Bytes :=
  let below := t.filter (fun p => decide (p.1 < line))
  let above := t.filter (fun p => decide (line < p.1))
  if e.all (· == 0) then below ++ above else below ++ (line, e) :: above

/-- Memory with one line's pattern set. -/
def Mem.setErr (m : Mem) (line : Nat) (e : Bytes) : Mem := { m with lineErr := errPut m.lineErr line e }

/-- A line is stored with the poison pattern (R633). -/
def Mem.poisonLine (m : Mem) (line : Nat) : Mem := m.setErr line poisonPattern

/-- The lines from `lo` up to, not including, `hi` that have an error pattern, in address order. -/
def errLines (m : Mem) (lo hi : Nat) : List Nat :=
  (m.lineErr.filter (fun p => decide (lo ≤ p.1) && decide (p.1 < hi))).map (·.1)

/-- A line of bytes encrypted as it is stored at an address (R611). -/
def lineSeal (s : State) (line : Nat) (b : Bytes) : Bytes :=
  vbytes (Config.xtsEncrypt ((lineKey s line).getD []) (lineTweak s line) b)

/-- The tag of a sector's present content (R613). -/
def sectorTag (s : State) (sec : Nat) : Bytes :=
  let cipher := ((List.range 8).map (fun i => xorBytes (lineSeal s (sec + 64 * i) (cellsRead s.mem.cells (sec + 64 * i) 64))
    ((lineErrOf s.mem (sec + 64 * i)).take 64))).flatten
  let a := leBytes 8 (lineTweak s sec * 64)
  vbytes (Config.gcmTag (lineTagKey s sec) ((vbytes (Config.sm3 (cipher ++ a))).take 12) (cipher ++ a) [])

/-- A protected range of tier 1 or 2 at an address: where it begins, and how many bytes its sectors take before their tags (R614). -/
def tagRange (s : State) (da : Nat) : Option (Nat × Nat) :=
  match regionAt s da with
  | some r => if r.protect then some (r.base, r.dataGranules * mib2) else none
  | none => (granuleHomeAt s da).bind (fun p => if p.2.protect then some (p.2.home, 1056964608) else none)

/-- Where the tag of a sector lies (R614). -/
def tagAt (s : State) (sec : Nat) : Nat :=
  match tagRange s sec with
  | none => 0
  | some (b, n) => b + n + (sec - b) / 512 * 8

/-- The sectors whose tags a line holds, where it holds tags (R614). -/
def tagSectors (s : State) (line : Nat) : List Nat :=
  match tagRange s line with
  | none => []
  | some (b, n) =>
    if line < b + n then []
    else ((List.range 8).map (fun i => b + ((line - b - n) / 8 + i) * 512)).filter (fun x => decide (x < b + n))

/-- What a line holds before it is encrypted: bytes, or the tags of sectors (R611, R614). -/
def linePlain (s : State) (line : Nat) : Bytes :=
  match tagSectors s line with
  | [] => cellsRead s.mem.cells line 64
  | x :: r => fit 64 (((x :: r).map (fun sec => (tget s.mem.tags sec).getD (sectorTag s sec))).flatten)

/-- Stored ciphertext of a line without its error pattern (R611). -/
def lineCipher (s : State) (line : Nat) : Bytes := lineSeal s line (linePlain s line)

/-- A line's plaintext replaced: bytes, or the tags that it holds (R614). -/
def linePlainPut (s : State) (line : Nat) (p : Bytes) : State :=
  match tagSectors s line with
  | [] => { s with mem := { s.mem with cells := cellsPut s.mem.cells line p } }
  | x :: r =>
    { s with mem := { s.mem with tags := ((x :: r).zipIdx).foldl (fun t q => tset t q.1 (slice p (8 * q.2) 8)) s.mem.tags } }

/-- The stored word of a line: 64 bytes of ciphertext, then p_0 to p_3 (R631). -/
def lineWord (s : State) (line : Nat) : Bytes :=
  let c := lineCipher s line
  xorBytes (c ++ rsCheck c) (lineErrOf s.mem line)

/-- A pattern with one symbol changed: symbol at position k is byte 67 − k (R631). -/
def patFix (e : Bytes) (k : Nat) (v : Byte) : Bytes :=
  e.zipIdx.map (fun p => if p.2 + k = 67 then p.1 ^^^ v else p.1)

/-- What a line holds once a pattern that is a codeword has been left on it: the line's own plaintext where the
pattern is zero, else what the changed ciphertext decrypts to (log 11). -/
def lineSettle (s : State) (line : Nat) (e : Bytes) : State :=
  if e.all (· == 0) then { s with mem := s.mem.setErr line e }
  else
    let c := xorBytes (lineCipher s line) (e.take 64)
    let p := vbytes (Config.xtsDecrypt ((lineKey s line).getD []) (lineTweak s line) c)
    linePlainPut { s with mem := s.mem.setErr line (zeros 68) } line p

/-! ### Charging (R489, R494, R500) -/

/-- The ledger record of a resource and class. -/
def bwCell (s : State) (r c : Nat) : BwCell := tgetD s.bw.cells (r, c) {}

/-- A ledger record changed. -/
def bwMod (s : State) (r c : Nat) (f : BwCell → BwCell) : State :=
  { s with bw := { s.bw with cells := tset s.bw.cells (r, c) (f (bwCell s r c)) } }

/-- Bytes requested and granted on a resource in a class (R494). -/
def charge (s : State) (r c n : Nat) : State :=
  if n = 0 then s
  else bwMod s r c (fun x => { x with total := (x.total + n) % 2 ^ 64, demand := x.demand + n, deliv := x.deliv + n })

/-- The resource of the DRAM that holds an address of tier 1 or 2 (R489). -/
def homeRes (da : Nat) : Nat := (if daRange da = 1 then 0 else 2) + halfNum (daHalf da)

/-! ### Errors found in DRAM (R634 to R641, R652, R657) -/

/-- The half, device kind and detail of a DRAM event (R657). `pos` is 0xFF where nothing was corrected. -/
def dramRec (s : State) (da kind sev pos source : Nat) : ErrRec :=
  let (bank, row) := daBankRow da
  let own := ownerAt s da
  stamped s { kind := kind, severity := sev, diag := source == 2,
              tenant := own.map (·.1), mid := (own.map (·.2)).getD 0,
              unit := errUnit (if daRange da = 1 then 3 else 4) (daDevice s da), location := da,
              detail0 := daDevice s da + daChannel da * 2 ^ 8 + bank * 2 ^ 16 + row * 2 ^ 24 + pos * 2 ^ 48
                + source * 2 ^ 56 }

/-- The name of a DRAM row as a location (R636). -/
def rowLoc (s : State) (da : Nat) : Nat :=
  let (bank, row) := daBankRow da
  ((daRange da * 64 + daDevice s da) * 32 + daChannel da) * 2 ^ 32 + bank * 2 ^ 24 + row

/-- 72 hours. -/
def hours72 : Nat := secT (72 * 3600)

/-- A table of locations without the entry of the oldest T2, where it is full (R637). -/
def dropOldest (l : List FaultLoc) : List FaultLoc :=
  if l.length < 8192 then l
  else
    match l.foldl (fun b e => match b with | none => some e | some x => if e.t2 < x.t2 then some e else some x) none with
    | none => l
    | some x => l.erase x

/-- An error of a location at the present time: the table after it, and whether the location is lasting (R636,
R637). -/
def countLoc (l : List FaultLoc) (loc now : Nat) : List FaultLoc × Bool :=
  let l := l.filter (fun e => decide (now ≤ e.t2 + hours72))
  match l.find? (fun e => e.loc == loc) with
  | none => (dropOldest l ++ [{ loc := loc, t1 := none, t2 := now }], false)
  | some e =>
    if now < e.t2 + msT 10 then (l, false)
    else
      let lasting := match e.t1 with
        | some t1 => decide (now - t1 ≤ hours72)
        | none => false
      (l.map (fun x => if x.loc = loc then { x with t1 := some e.t2, t2 := now } else x), lasting)

/-- Retirement by R641 of the granules that hold a row's lines: the granule of the line at hand and those that the
internal placement adds (log 20). -/
def retireRow (s : State) (da : Nat) : State :=
  let gs := [da / mib2, (Config.freeWord 3 (rowLoc s da)).toNat % 2 ^ 35]
  let gs := gs.eraseDups.filter (fun g => !s.flash.retiredGranules.contains g)
  { s with flash := { s.flash with retiredGranules := s.flash.retiredGranules ++ gs }
           ras := { s.ras with retired := s.ras.retired + gs.length } }

/-- A lasting DRAM row is spared, or retired where its bank has no repair row left (R639). A spare holds accesses
to the row's lines until its repair ends (R640). -/
def lastingRow (s : State) (da : Nat) (r : ErrRec) : State :=
  let loc := rowLoc s da
  let bank := loc / 2 ^ 24
  let used := tgetD s.ras.sparesUsed bank 0
  if Config.spareLeft bank used then
    let s := { s with ras := { s.ras with rowHolds := s.ras.rowHolds ++ [(daHalf da, daRange da, loc)],
                                          sparesUsed := tset s.ras.sparesUsed bank (used + 1) } }
    logNow s { r with kind := 0x0105, severity := 2, lasting := true, dropped := 0, detail1 := 0 }
  else
    logNow (retireRow s da) { r with kind := 0x0105, severity := 2, lasting := true, dropped := 0, detail1 := 1 }

/-- Times of a stack or package kept for the span in which they count, with one more (R652). -/
def timesAdd (s : State) (l : List (Nat × Nat)) (span unit : Nat) : List (Nat × Nat) :=
  l.filter (fun p => decide (s.now < p.2 + span)) ++ [(unit, s.now)]

/-- A row of a stack or package becomes lasting, or a line of it is found uncorrectable: both count toward its failure (R652). -/
def unitCount (s : State) (da : Nat) (row : Bool) : State :=
  let unit := daRange da * 64 + daDevice s da
  { s with ras := if row then { s.ras with rowTimes := timesAdd s s.ras.rowTimes hours72 unit }
                  else { s.ras with lineTimes := timesAdd s s.ras.lineTimes (secT 1) unit } }

/-- An error counts at its row, which may be lasting by it (R637). -/
def rowCount (s : State) (da : Nat) : State × Bool :=
  let r := countLoc (s.ras.locs.get (daHalf da)) (rowLoc s da) s.now
  ({ s with ras := { s.ras with locs := s.ras.locs.set (daHalf da) r.1 } }, r.2)

/-- The counters of corrected and uncorrectable errors. -/
def errCount (s : State) (corrected : Bool) : State :=
  { s with ras := { s.ras with ce := if corrected then s.ras.ce + 1 else s.ras.ce, ue := if corrected then s.ras.ue else s.ras.ue + 1 } }

/-- Counting and logging of an error at a line, bench errors only logged (R635, R638, R652, R657). -/
def dramEvent (s : State) (da : Nat) (corrected : Bool) (pos source : Nat) : State :=
  let r := dramRec s da (if corrected then 0x0101 else 0x0102) (if corrected then 1 else 3) pos source
  let h := daHalf da
  let s := logRec s h r
  if source = 2 then s
  else
    let c := rowCount s da
    let s := errCount c.1 corrected
    let s := if corrected then s else unitCount s da false
    if c.2 then lastingRow (unitCount s da true) da r else s

/-- One line read through the line code: corrected and written back in class 6, or found poisoned or uncorrectable (R632,
R634). Answers whether the line is poison. -/
def lineCheck (s : State) (line source : Nat) : State × Bool :=
  let e := lineErrOf s.mem line
  match rsDecode e with
  | .clean => (lineSettle s line e, false)
  | .poisoned => (s, true)
  | .corrected k v => (lineSettle (charge (dramEvent s line true k source) (homeRes line) 6 64) line (patFix e k v), false)
  | .uncorrectable => (dramEvent s line false 0xFF source, true)

/-- The lines of a list checked in order, with those that are poison. -/
def linesCheck (s : State) (source : Nat) : List Nat → State × List Nat
  | [] => (s, [])
  | l :: r =>
    let (s, p) := lineCheck s l source
    let (s, ps) := linesCheck s source r
    (s, if p then l :: ps else ps)

/-- Whether an address of tier 1 lies in a working copy: its tiles are restaged into re-mapped space where its region is LOST
(R330). -/
def inWorkCopy (s : State) (da : Nat) : Bool :=
  daRange da == 1 && s.tensors.any (fun p => match p.2.wc with
    | none => false
    | some w => spansMeet (da, 1) (wcSpan p.2.params w (daHalf da)))

/-- Whether a line's reads are poison whatever is stored: its unit or its tier has failed, or its key slot has been
erased (R601, R654, R21, R330). -/
def lineDead (s : State) (da : Nat) : Bool :=
  let h := daHalf da
  (s.halves.get h).fenced
    || (match regionAt s da with | some r => r.lost && !inWorkCopy s da | none => false)
    || (match granuleHomeAt s da with | some p => p.2.lost | none => false)
    || (daRange da == 2 && (s.halves.get h).t2Failing)
    || (lineKey s da).isNone

/-- A read of n bytes of tier 1 or 2: the state after corrections, the bytes, and the addresses of the poisoned
lines in it. -/
def dramRead (s : State) (da n source : Nat) : State × Bytes × List Nat :=
  let lo := lineOf da
  let hi := lineOf (da + n + 63)
  let (s', bad) := linesCheck s source (errLines s.mem lo hi)
  (s', cellsRead s'.mem.cells da n, if lineDead s da then [lo] else bad)

/-- Bytes stored without regard to lines: the error patterns of the lines they cover in full end, and those of
lines they cover in part stay (R633, R650). -/
def dramPut (s : State) (da : Nat) (b : Bytes) : State :=
  let covered := s.mem.lineErr.filter (fun p => !(decide (da ≤ p.1) && decide (p.1 + 64 ≤ da + b.length)))
  { s with mem := { s.mem with cells := cellsPut s.mem.cells da b, lineErr := covered } }

/-- Whole lines stored as poison: bytes from `da`, which is a line's address. -/
def dramPoison (s : State) (da : Nat) : (lines : Nat) → State
  | 0 => s
  | n + 1 => dramPoison { s with mem := s.mem.poisonLine da } (da + 64) n

/-- A range of tier 1 or 2 overwritten with zeros (R293). -/
def dramZero (s : State) (da n : Nat) : State :=
  { s with mem := { s.mem with
      cells := cellsSet s.mem.cells da (da + n) []
      lineErr := s.mem.lineErr.filter (fun p => !(decide (da ≤ p.1) && decide (p.1 < da + n)))
      badSectors := s.mem.badSectors.filter (fun a => !(decide (da ≤ a) && decide (a < da + n)))
      tags := s.mem.tags.filter (fun p => !(decide (da ≤ p.1) && decide (p.1 < da + n))) } }

/-- A range copied, as if the whole source had been read first; the poison of its lines goes with it (R295). Source
and destination lie on line boundaries. -/
def dramMove (s : State) (src dst n : Nat) : State :=
  let cells := (cellsIn s.mem.cells src (src + n)).map (fun p => (p.1 - src + dst, p.2))
  let errs := (errLines s.mem src (src + n)).map (fun l => l - src + dst)
  let m := { s.mem with
    cells := cellsSet s.mem.cells dst (dst + n) cells
    lineErr := s.mem.lineErr.filter (fun p => !(decide (dst ≤ p.1) && decide (p.1 < dst + n))) }
  { s with mem := errs.foldl Mem.poisonLine m }

end Sys2Proof.Machine
end

