-- ==== Sys2Proof/Machine/Operands.lean ====
section
/-! DEFINITION. How the operands of desk commands lie in a message, and their results in a reply (R525, R526,
R548). -/

namespace Sys2Proof.Machine

/-- The shape of a field: an integer of w bytes, a byte string of n bytes, or an array of n integers of w bytes
(R548). -/
inductive Shape where
  | u (w : Nat)
  | b (n : Nat)
  | a (w n : Nat)
  deriving DecidableEq, Repr

/-- Alignment of a field (R548). -/
def shapeAlign (x : Shape) : Nat :=
  match x with
  | .u w => w
  | .b _ => 8
  | .a _ _ => 8

/-- Length of a field. -/
def shapeLen (x : Shape) : Nat :=
  match x with
  | .u w => w
  | .b n => n
  | .a w n => w * n

/-- Offset and length of each field, from an offset on (R548). -/
def layoutFrom (off : Nat) : List Shape → List (Nat × Nat)
  | [] => []
  | x :: r =>
    let o := roundUp off (shapeAlign x)
    (o, shapeLen x) :: layoutFrom (o + shapeLen x) r

/-- LENGTH of a list of fields: the end of the last, rounded up to 8 (R548). -/
def layoutLen (l : List Shape) : Nat :=
  match (layoutFrom 0 l).getLast? with
  | none => 0
  | some (o, n) => roundUp (o + n) 8

/-- Whether every byte of the first `len` that lies in no field is zero (R548). -/
def gapsZero (l : List Shape) (p : Bytes) : Bool :=
  let fs := layoutFrom 0 l
  (List.range (layoutLen l)).all (fun i => byteAt p i == 0 || fs.any (fun f => decide (f.1 ≤ i) && decide (i < f.1 + f.2)))

/-- The i-th field as an integer. -/
def fld (l : List Shape) (p : Bytes) (i : Nat) : Nat :=
  let f := (layoutFrom 0 l).getD i (0, 0)
  leAt p f.1 f.2

/-- The i-th field as bytes. -/
def fldBytes (l : List Shape) (p : Bytes) (i : Nat) : Bytes :=
  let f := (layoutFrom 0 l).getD i (0, 0)
  slice p f.1 f.2

/-- Element j of the i-th field, an array of integers of w bytes. -/
def fldElem (l : List Shape) (p : Bytes) (i w j : Nat) : Nat :=
  let f := (layoutFrom 0 l).getD i (0, 0)
  leAt p (f.1 + w * j) w

/-- A reply field with its value. -/
inductive Val where
  | u (w v : Nat)
  | b (x : Bytes)
  | a (w : Nat) (vs : List Nat)
  deriving DecidableEq, Repr

/-- The shape of a reply field. -/
def valShape (v : Val) : Shape :=
  match v with
  | .u w _ => .u w
  | .b x => .b x.length
  | .a w vs => .a w vs.length

/-- The bytes of a reply field. -/
def valBytes (v : Val) : Bytes :=
  match v with
  | .u w v => leBytes w v
  | .b x => x
  | .a w vs => (vs.map (leBytes w)).flatten

/-- Fields packed from an offset on (R548). -/
def packFrom (off : Nat) : List Val → Bytes
  | [] => zeros (roundUp off 8 - off)
  | v :: r =>
    let o := roundUp off (shapeAlign (valShape v))
    zeros (o - off) ++ valBytes v ++ packFrom (o + (valBytes v).length) r

/-- RESULT of a reply (R526, R548). -/
def packVals (l : List Val) : Bytes := packFrom 0 l

/-! ### Fields of a message (R525) -/

/-- OPCODE. -/
def msgOp (m : Bytes) : Nat := leAt m 0 2

/-- LENGTH. -/
def msgLen (m : Bytes) : Nat := leAt m 2 2

/-- FLAGS. -/
def msgFlags (m : Bytes) : Nat := leAt m 4 2

/-- BUF_IN valid. -/
def msgHasIn (m : Bytes) : Bool := natBit (msgFlags m) 0

/-- BUF_OUT valid. -/
def msgHasOut (m : Bytes) : Bool := natBit (msgFlags m) 1

/-- BUF_IN. -/
def msgIn (m : Bytes) : Nat := leAt m 8 8

/-- BUF_IN_LEN. -/
def msgInLen (m : Bytes) : Nat := leAt m 0x10 4

/-- BUF_OUT_LEN. -/
def msgOutLen (m : Bytes) : Nat := leAt m 0x14 4

/-- BUF_OUT. -/
def msgOut (m : Bytes) : Nat := leAt m 0x18 8

/-- PARAMS. -/
def msgParams (m : Bytes) : Bytes := slice m 0x20 224

/-! ### The commands (R552 to R589) -/

/-- Who may send a command (R545). -/
inductive Sender where
  | any | op | t | h | bmc | fm
  deriving DecidableEq, Repr

/-- Request fields of a command by its opcode. KV_PAGES and LEASE_RENEW carry an array whose length a field
gives; their fields here are those before it. -/
def cmdFixed (op : Nat) : Option (List Shape) :=
  match op with
  | 0x0101 => some []
  | 0x0102 => some [.b 32, .u 4]
  | 0x0103 => some [.u 4]
  | 0x0201 => some [.u 2, .u 2, .u 2, .u 2]
  | 0x0202 => some [.u 2, .u 2, .u 2, .u 2, .u 2]
  | 0x0203 => some [.u 2]
  | 0x0204 => some [.u 1, .u 2, .u 2]
  | 0x0205 => some [.u 1, .b 64, .b 64]
  | 0x0206 => some [.u 2]
  | 0x0301 => some [.u 1, .u 1, .u 2, .u 4]
  | 0x0302 => some [.u 8]
  | 0x0303 => some [.u 1, .u 4, .u 8, .u 8, .u 8]
  | 0x0304 => some [.u 4, .u 1, .u 1, .u 4, .u 8, .u 8]
  | 0x0305 => some [.u 1, .u 1, .u 2, .u 2, .u 1]
  | 0x0306 => some [.u 8, .u 1, .u 1, .u 1, .u 2, .u 2]
  | 0x0307 => some [.u 8, .u 1, .u 1, .u 2, .u 8]
  | 0x0308 => some [.u 8]
  | 0x0309 => some [.u 1, .u 1, .u 2, .u 2, .u 2, .u 1, .a 2 8]
  | 0x030A => some [.u 2, .u 2, .u 1]
  | 0x030B => some [.u 2, .u 2]
  | 0x030C => some [.u 8, .u 1]
  | 0x0401 => some [.b 32, .u 1, .u 1, .u 8, .u 8, .u 8, .u 8, .u 8, .b 32, .b 64]
  | 0x0402 => some [.u 4]
  | 0x0403 => some [.u 4]
  | 0x0404 => some [.u 1, .u 1, .u 2, .u 2, .u 2, .u 4, .b 32, .u 8, .u 8, .u 8]
  | 0x0405 => some [.u 2]
  | 0x0406 => some [.u 2]
  | 0x0407 => some [.u 2]
  | 0x0408 => some [.u 4, .u 1]
  | 0x0409 => some [.u 4, .u 8, .u 8, .u 8, .u 8]
  | 0x0501 => some [.u 8, .u 4]
  | 0x0502 => some [.u 4]
  | 0x0503 => some [.u 2]
  | 0x0504 => some [.u 2]
  | 0x0505 => some [.u 4]
  | 0x0601 => some [.u 1, .u 1, .u 2]
  | 0x0602 => some [.u 2, .u 1, .u 4, .u 4]
  | 0x0603 => some [.u 1, .u 1, .u 1, .u 1, .u 2, .u 4]
  | 0x0604 => some [.u 1, .u 4]
  | 0x0605 => some [.u 2]
  | 0x0606 => some [.u 4]
  | 0x0607 => some [.u 1]
  | 0x0608 => some [.u 2, .u 2, .u 1]
  | 0x0609 => some [.u 4, .u 1, .u 4]
  | 0x060A => some [.u 4, .u 4]
  | 0x060B => some [.u 4]
  | 0x060C => some [.u 1, .u 1, .u 1, .u 1, .u 4, .u 8, .u 8, .a 8 7]
  | 0x060D => some [.u 2, .u 1]
  | 0x060E => some [.u 1, .u 2, .u 2]
  | 0x060F => some [.u 1, .u 4, .u 4]
  | 0x0610 => some [.u 2, .u 2, .u 1, .u 1, .u 2, .u 8]
  | 0x0611 => some [.u 2]
  | 0x0701 => some [.u 1]
  | 0x0702 => some [.u 1, .u 1, .u 1, .u 1, .u 2, .u 2]
  | 0x0703 => some [.u 1, .u 1]
  | 0x0704 => some [.u 1, .u 1, .u 2, .u 2]
  | 0x0705 => some [.u 2, .u 1]
  | 0x0706 => some [.u 1, .u 1, .u 1, .u 1, .u 1, .u 8, .u 8, .u 8]
  | 0x0707 => some [.u 2, .u 1]
  | 0x0708 => some [.u 1]
  | 0x0801 => some [.u 1]
  | 0x0802 => some [.u 1, .u 1]
  | 0x0803 => some [.u 1, .u 1, .u 2, .u 4]
  | 0x0901 => some [.u 8]
  | 0x0902 => some []
  | 0x0903 => some [.u 1, .u 1, .u 1]
  | 0x0904 => some [.u 1, .u 2]
  | 0x0A01 => some [.u 1]
  | 0x0A02 => some [.u 2]
  | 0x0A03 => some []
  | 0x0A04 => some [.u 1, .u 4]
  | 0x0A05 => some []
  | 0x0B01 => some []
  | 0x0B02 => some [.u 4, .u 4]
  | 0x0B03 => some [.u 4]
  | 0x0B04 => some [.u 1]
  | 0x0B05 => some []
  | _ => none

/-- Words of a SHARE_CREATE list that one forwarded message carries from a position on (R576; log 33). -/
def shareWords (total first : Nat) : Nat := min 48 (total - first)

/-- Request fields of a command, with the arrays that a count gives: PDA of KV_PAGES for SET (R561), and EXT of LEASE_RENEW
from the fabric manager or a holder's module (R572). A forwarded SHARE_CREATE carries part of its lists (R576; log 33). -/
def cmdShapes (op mid : Nat) (fwd : Bool) (p : Bytes) : List Shape :=
  let l := (cmdFixed op).getD []
  if op = 0x0306 then (if fld l p 3 = 0 then l ++ [.a 8 (fld l p 5)] else l)
  else if op = 0x0604 then (if mid = 4 ∨ fwd then l ++ [.a 2 (fld l p 0)] else l)
  else if op = 0x0608 ∧ fwd then
    let l := l ++ [.u 2]
    l ++ [.a 4 (shareWords (fld l p 0 + fld l p 1 + fld l p 2) (fld l p 3))]
  else l

/-- The senders of a command (R552 to R589). -/
def cmdSenders (op : Nat) : List Sender :=
  let hi := op / 256
  if hi = 1 then [.any]
  else if hi = 2 then (if op = 0x0205 then [.t] else if op = 0x0206 then [.op, .t] else [.op])
  else if hi = 3 then (if op = 0x0309 ∨ op = 0x030A then [.op] else if op = 0x030B then [.op, .t] else [.t])
  else if hi = 4 ∨ hi = 5 then [.t]
  else if hi = 6 then
    (if op = 0x0601 then [.op]
     else if op = 0x0602 then [.t]
     else if op = 0x0604 then [.fm, .h]
     else if op = 0x060F then [.fm, .op, .h]
     else if op = 0x0603 ∨ op = 0x0605 ∨ op = 0x060D ∨ op = 0x060E ∨ op = 0x0610 ∨ op = 0x0611 then [.fm]
     else [.h])
  else if hi = 7 then
    (if op = 0x0701 then [.op, .bmc, .fm]
     else if op = 0x0704 then [.t]
     else if op = 0x0705 ∨ op = 0x0706 then [.op, .t]
     else if op = 0x0708 then [.op, .bmc]
     else [.op])
  else if hi = 8 then [.op]
  else if hi = 9 then (if op = 0x0901 then [.op, .bmc, .t] else if op = 0x0902 then [.op, .bmc] else [.op])
  else if hi = 0xA then (if op = 0x0A04 then [.op] else [.op, .bmc])
  else if hi = 0xB then (if op = 0x0B01 then [.any] else if op = 0x0B05 then [.op, .bmc] else [.op])
  else []

/-- Whether a command needs BUF_IN: LINK_ANCHOR when it enrols, LEASE_RENEW when a holder sends it. -/
def cmdNeedsIn (op mid : Nat) (p : Bytes) : Bool :=
  op == 0x0607 || op == 0x0608 || op == 0x0801 || op == 0x0A04 || op == 0x0B02
    || (op == 0x0604 && mid != 4) || (op == 0x0703 && byteAt p 0 == 0)

/-- Whether a command needs BUF_OUT. -/
def cmdNeedsOut (op : Nat) : Bool := op == 0x0802

/-- Whether a command may name BUF_OUT. -/
def cmdMayOut (op : Nat) : Bool := op == 0x0102 || op == 0x0802 || op == 0x0901

/-- Whether NEAR_OP's fields are those of R381, R382 and R574. -/
def nearValues (l : List Shape) (p : Bytes) : Bool :=
  let f := fld l p
  let n := f 3
  ((List.range 7).drop n).all (fun i => fldElem l p 7 8 i == 0)
    && (f 0 == 3 || (f 1 == 0 && f 2 == 0)) && (f 0 == 0 || (f 0 == 2 && n == 1) || f 5 == 0) && (f 0 != 2 || f 6 == 0)
    && (match f 0 with
        | 0 => n == 0
        | 1 => n == 1
        | 2 => n == 1 || n == 2
        | _ => decide (1 ≤ n) && decide (n ≤ 7))
    && decide (0 < f 4) && decide (f 4 ≤ 2 ^ 30) && f 4 % 64 == 0

/-- Whether the coded and reserved values of a command's fields are ones its row defines (R10, R527 check 3). -/
def cmdValues (op mid : Nat) (fwd : Bool) (p : Bytes) : Bool :=
  let l := cmdShapes op mid fwd p
  let f := fld l p
  match op with
  | 0x0201 => decide (f 0 < 2) && decide (f 1 ≤ 1024)
  | 0x0202 => decide (f 1 < 2) && decide (f 2 ≤ 1024)
  | 0x0204 => decide (f 0 ≤ 2)
  | 0x0205 => decide (f 0 < 2)
  | 0x0301 => (f 0 == 1 || f 0 == 2) && decide (f 1 < 2) && decide (f 2 < 2) && decide (1 ≤ f 3)
  | 0x0303 => decide (f 0 ≤ 2) && decide (1 ≤ f 1) && decide (f 1 ≤ 2 ^ 30)
      && (if f 0 = 0 then f 3 == 0 else if f 0 = 1 then f 4 == 0 else f 2 == 0)
  | 0x0304 => decide (f 1 ≤ 2) && decide (f 2 < 2)
  | 0x0305 => decide (1 ≤ f 0) && decide (f 0 ≤ 128) && decide (f 1 ≤ 2) && (f 2 == 64 || f 2 == 128 || f 2 == 256)
      && decide (1 ≤ f 3) && decide (f 4 < 2)
  | 0x0306 => decide (f 2 < 2) && decide (f 3 < 2) && decide (1 ≤ f 5) && decide (f 5 ≤ 24)
  | 0x0307 => decide (f 2 < 2)
  | 0x0309 => decide (f 0 < 2) && (f 0 == 1 || (decide (f 1 < 2) && decide (f 2 < 2) && decide (f 3 < 1920) && decide (f 5 ≤ 8)
      && (List.range 8).all (fun i => if i < f 5 then decide (fldElem l p 6 2 i < 2 ^ 14) else fldElem l p 6 2 i == 0)))
  | 0x030A => decide (f 0 ≤ 180) && decide (f 1 ≤ 180) && decide (f 2 ≤ 8)
  | 0x030B => decide (1 ≤ f 1) && decide (f 0 + f 1 ≤ 1920)
  | 0x030C => decide (f 1 < 2)
  | 0x0401 => decide (f 1 < 2) && decide (f 2 < 4)
  | 0x0404 => decide (f 0 < 2) && decide (f 1 < 2) && decide (f 2 < 2) && decide (1 ≤ f 4) && decide (f 3 + f 4 ≤ 1920)
      && (f 0 == 0 || (f 2 == 0 && (fldBytes l p 6).all (· == 0) && f 7 == 0 && f 8 == 0 && f 9 == 0))
  | 0x0408 => decide (f 1 < 2)
  | 0x0601 => decide (f 0 < 2) && decide (f 1 < 2)
  | 0x0602 => decide (1 ≤ f 0) && decide (f 0 ≤ 1024) && decide (f 1 ≤ 2) && (f 1 != 2 || f 0 % 4 == 0)
      && decide (1 ≤ f 2) && decide (f 2 ≤ 60000) && decide (1 ≤ f 3) && decide (f 3 ≤ 10000)
  | 0x0603 => decide (f 0 < 8) && decide (f 1 ≤ 4) && (if f 1 = 3 then decide (f 2 < 4) else f 2 == 0) && decide (f 3 < 2)
  | 0x0604 => decide (1 ≤ f 0) && decide (f 0 ≤ 64) && decide (f 1 ≤ 60000)
      && (l.length < 3 || (List.range (f 0)).all (fun i => decide (fldElem l p 2 2 i < 2048)))
  | 0x0605 => decide (f 0 < 2048)
  | 0x0606 => !fwd || decide (f 0 < 2048)
  | 0x0607 => decide (1 ≤ f 0) && decide (f 0 ≤ 64)
  | 0x0608 => decide (1 ≤ f 0) && decide (f 0 ≤ 256) && decide (1 ≤ f 1) && decide (f 1 ≤ 256) && decide (f 2 ≤ 63)
  | 0x0609 => decide (f 1 ≤ 2)
  | 0x060A => !fwd || decide (f 0 < 2048)
  | 0x060B => !fwd || decide (f 0 < 2048)
  | 0x060C => decide (f 0 ≤ 3) && decide (f 1 ≤ 2) && decide (f 2 ≤ 2) && nearValues l p
  | 0x060D => decide (f 0 < 2048) && decide (f 1 < 2)
  | 0x060F => decide (f 0 ≤ 2)
  | 0x060E => decide (f 0 < 8) && decide (f 1 < 4096) && decide (f 2 ≤ 1480)
  | 0x0610 => decide (f 0 < 4096) && decide (f 1 < 4096) && decide (f 3 < 2) && decide (1 ≤ f 2) && decide (1 ≤ f 4) && decide (f 4 ≤ 1024)
  | 0x0701 => decide (f 0 < 8)
  | 0x0702 => decide (f 1 ≤ 3) && decide (f 2 < 4) && decide (f 3 < 2) && (decide (f 0 < 8) || (f 0 == 0xFF && f 3 == 1))
      && (f 3 == 0 || decide (f 4 < 512)) && (f 0 == 0xFF || f 1 != 1 || decide (f 5 < 0xFFF))
  | 0x0703 => decide (f 0 < 2) && decide (f 1 ≤ 15)
  | 0x0704 => decide (f 0 < 2) && decide (f 1 < 8) && decide (f 2 < 0xFFF) && decide (f 3 < 4096)
  | 0x0706 => decide (f 0 < 8) && decide (f 1 < 16) && decide (f 2 < 2) && decide (f 3 < 2) && decide (f 4 < 4)
  | 0x0707 => decide (f 0 < 512)
  | 0x0708 => decide (f 0 < 8)
  | 0x0801 => decide (1 ≤ f 0) && decide (f 0 ≤ 64)
  | 0x0802 => decide (1 ≤ f 1) && decide (f 0 + f 1 ≤ 26)
  | 0x0803 => decide (f 0 < 8) && decide (f 1 < 4) && decide (f 3 < 2 ^ 26)
  | 0x0903 => decide (f 0 < 2) && decide (f 1 < if f 0 = 0 then 128 else 32) && decide (f 2 < 2)
  | 0x0904 => decide (f 0 ≤ 2) && decide (1 ≤ f 1) && decide (f 1 ≤ 168)
  | 0x0A01 => decide (f 0 ≤ 3)
  | 0x0A02 => f 0 == 0 || (decide (200 ≤ f 0) && decide (f 0 ≤ 950))
  | 0x0A04 => decide (f 0 < 6) && decide (f 1 ≤ 8192)
  | 0x0B04 => decide (f 0 < 2)
  | _ => true

end Sys2Proof.Machine
end

