-- ==== Sys2Proof/Machine/LinkOps.lean ====
section
/-! DEFINITION. Sending on the peer links: flits and their sealing, ports with replay and credits, the path of a session,
session flits, messages and pool accesses (R398, R407 to R426, R431, R432, R439 to R443, R450). -/

namespace Sys2Proof.Machine

/-! ### Host links (R457, R470, R471) -/

/-- The host link that carries a function (R457): 0, or 1 in X8X8 for PF1 and the VFs. -/
def fnLink (s : State) (fn : Fn) : Nat := if s.host.x8x8 ∧ fn ≠ .pf0 then 1 else 0

/-- A host link. -/
def hostLinkOf (s : State) (l : Nat) : HostLink := if l = 0 then s.host.link0 else s.host.link1

/-- A host link changed. -/
def hostLinkMod (s : State) (l : Nat) (f : HostLink → HostLink) : State :=
  { s with host := if l = 0 then { s.host with link0 := f s.host.link0 } else { s.host with link1 := f s.host.link1 } }

/-- A link carries bytes for a function: it is out of L1, and not idle. -/
def hostTouch (s : State) (fn : Fn) (tx : Bool) (n : Nat) : State :=
  hostLinkMod s (fnLink s fn) (fun l => { l with
    inL1 := false, idleSince := s.now
    recent := l.recent.filter (fun x => decide (s.now < x.1 + usT 16)) ++ [(s.now, tx, n)] })

/-! ### Nodes, ports and sessions -/

/-- The node ID of this module: board number and slot (R398). -/
def nodeId (s : State) : Nat := s.ident.board * 8 + s.ident.slot.toNat

/-- A port. -/
def portOf (s : State) (p : Nat) : Port := tgetD s.link.ports p {}

/-- A port changed. -/
def portMod (s : State) (p : Nat) (f : Port → Port) : State :=
  { s with link := { s.link with ports := tset s.link.ports p (f (portOf s p)) } }

/-- The link of a port changed. -/
def flowMod (s : State) (p : Nat) (f : PortFlow → PortFlow) : State := portMod s p (fun q => { q with flow := f q.flow })

/-- Counters of a port changed. -/
def countPort (s : State) (p : Nat) (f : PortCounters → PortCounters) : State :=
  portMod s p (fun q => { q with counters := f q.counters })

/-- The half of a port (R29). -/
def portHalf (p : Nat) : Half := halfOf (p / 4)

/-- A session by node and SID. -/
def sessOf (s : State) (k : Nat × Nat) : Option Session := tget s.link.sessions k

/-- A session changed. -/
def sessMod (s : State) (k : Nat × Nat) (f : Session → Session) : State :=
  { s with link := { s.link with sessions := tmod s.link.sessions k f } }

/-! ### Flits (R407, R408, R412, R424) -/

/-- A header as its 16 bytes (R408). -/
def headerBytes (f : Flit) : Bytes :=
  leBytes 16 (f.type % 16 + f.ch % 4 * 2 ^ 4 + f.urg % 4 * 2 ^ 6 + f.dst % 4096 * 2 ^ 8 + f.src % 4096 * 2 ^ 20
    + f.sid % 64 * 2 ^ 32 + f.hops % 4 * 2 ^ 38 + f.len % 256 * 2 ^ 40 + (if f.pool then 2 ^ 48 else 0)
    + f.arg % 2 ^ 44 * 2 ^ 52 + f.sseq % 2 ^ 32 * 2 ^ 96)

/-- The fields of a header with a payload. -/
def parseFlit (h payload : Bytes) : Flit :=
  let n := leAt h 0 16
  { type := natField n 0 4, ch := natField n 4 2, urg := natField n 6 2, dst := natField n 8 12, src := natField n 20 12,
    sid := natField n 32 6, hops := natField n 38 2, len := natField n 40 8, pool := natBit n 48, arg := natField n 52 44,
    sseq := natField n 96 32, payload := payload }

/-- The tag of a flit under a key and salt, 16 and 8 bytes (R424): HOPS counts as zero. -/
def flitTag (key : Bytes) (f : Flit) : Bytes :=
  vbytes (Config.gcmTag (key.take 16) (slice key 16 8 ++ leBytes 4 f.sseq) (headerBytes { f with hops := 0 }) (fit 224 f.payload))

/-- The payload of a flit enciphered, or deciphered, under a key (R424). -/
def flitCrypt (key : Bytes) (sseq : Nat) (payload : Bytes) : Bytes :=
  xorBytes (fit 224 payload) (vbytes (Config.gcmStream (key.take 16) (slice key 16 8 ++ leBytes 4 sseq)))

/-- Bytes 0x00 to 0xF7 of a flit: header, payload and tag, sealed under a key where it has one. -/
def sealFlit (key : Option Bytes) (f : Flit) : Bytes :=
  match key with
  | none => headerBytes f ++ fit 224 f.payload ++ zeros 8
  | some k => headerBytes f ++ flitCrypt k f.sseq f.payload ++ flitTag k f

/-- The sequence word (R412). -/
def seqWord (lseq lack ch count : Nat) : Nat := lseq % 4096 + lack % 4096 * 2 ^ 12 + ch % 4 * 2 ^ 24 + count % 64 * 2 ^ 26

/-- A flit as it crosses the lanes: sealed bytes, sequence word and link check (R407). -/
def rawFlit (sealed : Bytes) (word : Nat) : Bytes :=
  let b := sealed ++ leBytes 4 word
  b ++ leBytes 4 (crc32c b).toNat

/-! ### Ports: credits, replay, low power (R416 to R419, R454) -/

/-- A list with element i changed. -/
def listMod (l : List Nat) (i : Nat) (f : Nat → Nat) : List Nat := l.set i (f (l.getD i 0))

/-- Whether a port carries flits at all: from flit lock on. -/
def portUp (q : Port) : Bool :=
  q.state == .authenticating || q.state == .inService || (q.state == .training && decide (4 ≤ q.step))

/-- The last LSEQ received in order (R412). -/
def lastLseq (q : Port) : Nat := (q.flow.rxLseq + 4095) % 4096

/-- The channel whose credits a flit returns, with their number: the lowest that owes any (R412). -/
def creditReturn (q : Port) : Nat × Nat :=
  match leastFrom (fun c => decide (0 < q.flow.owed.getD c 0)) 4 0 with
  | none => (0, 0)
  | some c => (c, min 63 (q.flow.owed.getD c 0))

/-- A flit leaves a port with the next LSEQ, and stays in the replay buffer (R417). -/
def portEmit (s : State) (p : Nat) (ch : Option Nat) (sealed : Bytes) : State :=
  let q := portOf s p
  let (c, n) := creditReturn q
  let raw := rawFlit sealed (seqWord q.flow.txLseq (lastLseq q) c n)
  let s := flowMod s p (fun f => { f with
    txLseq := (f.txLseq + 1) % 4096
    replay := f.replay ++ [{ lseq := f.txLseq, raw := raw }]
    lackAt := if f.replay.isEmpty then s.now else f.lackAt
    owed := listMod f.owed c (· - n)
    credits := match ch with
      | none => f.credits
      | some k => listMod f.credits k (· - 1) })
  let s := portMod s p (fun q => { q with
    lpIdleSince := if leAt sealed 0 1 % 16 = 2 then q.lpIdleSince else s.now
    egressTimes := q.egressTimes.filter (fun t => decide (s.now < t + usT 4)) ++ [s.now] })
  emit s (.flit p raw)

/-- An IDLE flit, which carries LACK and credits and the LSEQ that the next flit will have (log 30). -/
def portIdle (s : State) (p : Nat) : State :=
  let q := portOf s p
  if portUp q then
    let (c, n) := creditReturn q
    emit (flowMod s p (fun f => { f with owed := listMod f.owed c (· - n) }))
      (.flit p (rawFlit (zeros 248) (seqWord q.flow.txLseq (lastLseq q) c n)))
  else s

/-- Whether a port may send a flit on a channel now: it is up, its replay buffer has room, and it holds a credit (R417,
R419). -/
def portMay (q : Port) (ch : Option Nat) : Bool :=
  portUp q && decide (q.flow.replay.length < 1024)
    && (match ch with
        | none => true
        | some k => decide (0 < q.flow.credits.getD k 0))

/-- A sealed flit goes out on a port, or waits there. -/
def portPut (s : State) (p : Nat) (ch : Option Nat) (sealed : Bytes) : State :=
  let q := portOf s p
  if portMay q ch ∧ q.flow.egress.all (fun e => e.1 != ch) then portEmit s p ch sealed
  else flowMod s p (fun f => { f with
    egress := f.egress ++ [(ch, sealed)]
    withheldSince := match ch with
      | none => f.withheldSince
      | some k => if thas f.withheldSince k then f.withheldSince else tset f.withheldSince k s.now })

/-- The waiting flits of a port that may now go, oldest first. -/
def portDrain : (fuel : Nat) → State → Nat → State
  | 0, s, _ => s
  | n + 1, s, p =>
    let q := portOf s p
    match q.flow.egress.find? (fun e => portMay q e.1) with
    | none => s
    | some e => portDrain n (portEmit (flowMod s p (fun f => { f with egress := f.egress.erase e })) p e.1 e.2) p

/-- Flits that wait on a channel no longer do: its waiting time ends. -/
def portSettle (s : State) (p : Nat) : State :=
  let s := portDrain (portOf s p).flow.egress.length s p
  flowMod s p (fun f => { f with
    withheldSince := tfilter f.withheldSince (fun k _ => f.egress.any (fun e => e.1 == some k))
    withheldLogged := f.withheldLogged.filter (fun k => f.egress.any (fun e => e.1 == some k)) })

/-! ### Link control (R409, R420, R454) -/

/-- A control payload: subtype, part number, whole length, then up to 216 bytes of the body (log 31). -/
def ctlPayload (sub part total : Nat) (body : Bytes) : Bytes :=
  leBytes 1 sub ++ leBytes 1 part ++ leBytes 2 total ++ zeros 4 ++ fit 216 body

/-- A body cut into parts of 216 bytes; an empty body makes one. -/
def ctlParts (sub : Nat) (body : Bytes) : List (Nat × Bytes) :=
  (List.range (max 1 (ceilDiv body.length 216))).map (fun i =>
    (8 + min 216 (body.length - 216 * i), ctlPayload sub i body.length (body.drop (216 * i))))

/-- A flit of the port itself sealed: under the port key, where it has one, with the next SSEQ of the port (R409, R426). -/
def portSeal (s : State) (p : Nat) (keyed : Bool) (f : Flit) : State × Bytes :=
  let q := portOf s p
  let key := if keyed then q.key else none
  let f := { f with dst := q.partner, src := nodeId s, sseq := if key.isSome then q.flow.txSseq else 0 }
  (if key.isSome then flowMod s p (fun f => { f with txSseq := f.txSseq + 1 }) else s, sealFlit (key.map (·.1)) f)

/-- A flit of the port itself, with no session. -/
def ownFlit (type ch len : Nat) (payload : Bytes) : Flit :=
  { type := type, ch := ch, urg := 0, dst := 0, src := 0, sid := 0, hops := 0, len := len, pool := false, arg := 0, sseq := 0,
    payload := payload }

/-- A side with a flit to send wakes its port (R454): LCTL WAKE leaves L0H, and a wake pattern LS. -/
def portWake (s : State) (p : Nat) : State :=
  match (portOf s p).lp with
  | .l0 => s
  | .l0h =>
    let (s, b) := portSeal (portMod s p (fun q => { q with lp := .l0, lpAsked := none })) p true (ownFlit 1 0 8 (ctlPayload 11 0 0 []))
    portPut s p none b
  | .ls => emit (portMod s p (fun q => { q with lp := .l0, lpAsked := none })) (.trainingFrames p)

/-- A sealed flit goes out on a port that it wakes, or waits there. -/
def portTx (s : State) (p : Nat) (ch : Option Nat) (sealed : Bytes) : State := portPut (portWake s p) p ch sealed

/-- An LCTL flit: under the port key after authentication (R409), but for the authentication itself (R420). -/
def lctlPart (s : State) (p : Nat) (part : Nat × Bytes) : State :=
  let sub := leAt part.2 0 1
  let (s, b) := portSeal (portWake s p) p (!(decide (2 ≤ sub) && decide (sub ≤ 5))) (ownFlit 1 0 part.1 part.2)
  portPut s p none b

/-- Link control sent with a body. -/
def lctlSend (s : State) (p sub : Nat) (body : Bytes) : State := (ctlParts sub body).foldl (fun s x => lctlPart s p x) s

/-! ### Paths (R439 to R443) -/

/-- Whether a port is in service. -/
def inService (s : State) (p : Nat) : Bool := (portOf s p).state == .inService

/-- The in-service ports that join this module to a node. -/
def pairPorts (s : State) (node : Nat) : List Nat :=
  (List.range 8).filter (fun p => inService s p && (portOf s p).partner == node && (portOf s p).kind != .far)

/-- The relay's first port: to the lowest slot other than the two ends that this module reaches (R440; log 32). -/
def relayPort (s : State) (node : Nat) : Option Nat :=
  (List.range 8).findSome? (fun r =>
    let n := s.ident.board * 8 + r
    if n = nodeId s ∨ n = node then none else (pairPorts s n).head?)

/-- One of a list of ports, by a number (R439, R443). -/
def pickPort (l : List Nat) (n : Nat) : Option Nat := if l.isEmpty then none else l[n % l.length]?

/-- Those of a list of ports to which sessions have returned (R441), or all where none has. -/
def returnedOr (s : State) (l : List Nat) : List Nat :=
  let r := l.filter (fun p => (portOf s p).returned)
  if r.isEmpty then l else r

/-- The far ports that ROUTE_SET names for a node's board and that are in service (R443). -/
def farPorts (s : State) (node : Nat) : List Nat :=
  (List.range 8).filter (fun p => (tgetD s.link.routes (node / 8) 0).getLsbD p && inService s p && (portOf s p).kind == .far)

/-- The direct port of a session (R439): a system session's own, else the one at index SID mod k. -/
def directPort (l : List Nat) (sid home : Nat) (system : Bool) : Option Nat :=
  if system then (if l.contains home then some home else none) else pickPort l sid

/-- The port that a session runs on now (R439, R440, R441, R443): a direct port to which sessions have returned, else a
relay, else a direct port that has just come back. -/
def pathPort (s : State) (node sid : Nat) (home : Nat) (system : Bool) : Option Nat :=
  let ps := pairPorts s node
  if node / 8 ≠ s.ident.board ∧ ps.isEmpty then pickPort (returnedOr s (farPorts s node)) (node + sid)
  else
    let rs := ps.filter (fun p => (portOf s p).returned)
    if rs.isEmpty then
      match relayPort s node with
      | some r => some r
      | none => directPort ps sid home system
    else (directPort rs sid home system).or (if system then directPort ps sid home system else none)

/-- The port that a session runs on now. -/
def sessPort (s : State) (k : Nat × Nat) (x : Session) : Option Nat := pathPort s k.1 k.2 x.port (x.kind == .system)

/-! ### Charging (R489, R494, R500) -/

/-- Bytes requested on a resource in a class (R494). -/
def demandAdd (s : State) (r c n : Nat) : State := bwMod s r c (fun x => { x with demand := x.demand + n })

/-- Bytes granted on a resource in a class whose request has been counted before (R494). -/
def grantAdd (s : State) (r c n : Nat) : State := bwMod s r c (fun x => { x with total := (x.total + n) % 2 ^ 64, deliv := x.deliv + n })

/-- The class in which a session flit's payload leaves a port (R348, R491, R492): messages and reduce flits, data that a lender or a
window returns, or a write in the class that it has here. Requests for data, completions and session control carry no data. -/
def flitClass (k : SessKind) (f : Flit) : Option Nat :=
  if f.type = 3 ∨ f.type = 4 ∨ f.type = 7 then none
  else match f.cls, k with
    | some c, _ => some c
    | none, .system => some 1
    | none, .pool => some 3
    | none, .bound => some 2

/-! ### Session flits (R424, R426, R431, R432) -/

/-- Flits that one session may hold unacknowledged (R432). -/
def sessLimit (s : State) (k : Nat × Nat) (x : Session) : Nat :=
  match sessPort s k x with
  | some p => if (portOf s p).kind = .far then 4096 else 1024
  | none => 1024

/-- Lines that a flit requests (R411). -/
def reqLines (f : Flit) : Nat :=
  if f.type = 4 then ((List.range (f.len / 8)).map (fun i => natField (leAt f.payload (8 * i) 8) 46 6 + 1)).foldl (· + ·) 0
  else if f.type = 5 then ceilDiv f.len 64
  else 0

/-- Lines of a request that a session awaits. -/
def outLines (o : Outst) : Nat := if o.write then ceilDiv o.data.length 64 else o.lines

/-- Lines requested of a lender and not answered, those of flits that still wait apart (R389). -/
def inFlight (s : State) (node : Nat) : Nat :=
  let xs := s.link.sessions.filter (fun e => e.1.1 == node && e.2.kind == .pool && e.2.initiator)
  ((xs.map (fun e => (e.2.outstanding.map outLines).foldl (· + ·) 0)).foldl (· + ·) 0)
    - ((xs.map (fun e => (e.2.unsent.map reqLines).foldl (· + ·) 0)).foldl (· + ·) 0)

/-- Whether a lender's window takes a flit's requests (R389). -/
def windowRoom (s : State) (k : Nat × Nat) (x : Session) (f : Flit) : Bool :=
  x.kind != .pool || !x.initiator || reqLines f == 0 || inFlight s k.1 == 0
    || decide (inFlight s k.1 + reqLines f ≤ tgetD s.pool.window k.1 1024)

/-- Whether a class is below its cap on a resource in this window (R501). -/
def capFree (s : State) (r c : Nat) : Bool := let x := bwCell s r c; x.cap == 0 || decide (x.deliv < x.cap)

/-- Whether a session may send a flit: within its limit (R432), its lender's window (R389) and the cap of its class at its port
(R501). -/
def sessMay (s : State) (k : Nat × Nat) (x : Session) (f : Flit) : Bool :=
  x.state != .opening && decide (x.unacked.length < sessLimit s k x)
    && decide (((s.link.sessions.map (fun y => y.2.unacked.length)).foldl (· + ·) 0) < 16384)
    && windowRoom s k x f
    && (match sessPort s k x, flitClass x.kind f with
      | some p, some c => capFree s (10 + p) c
      | _, _ => true)

/-- Whether a flit is a SACK (R432). -/
def isSack (f : Flit) : Bool := f.type == 3 && byteAt f.payload 0 == 8

/-- A session's flit goes out on its path with the next SSEQ, and is kept until acknowledged. -/
def sessEmit (s : State) (k : Nat × Nat) (x : Session) (f : Flit) : State :=
  let f := { f with dst := k.1, src := nodeId s, sid := k.2, hops := 0, sseq := x.txSseq }
  let sealed := sealFlit (some x.keyTx) f
  let s := sessMod s k (fun x => { x with txSseq := x.txSseq + 1, unacked := x.unacked ++ [(f.sseq, isSack f, sealed)],
                                          lastSack := if x.unacked.all (·.2.1) then s.now else x.lastSack })
  match sessPort s k x with
  | none => sessMod s k (fun x => { x with noPathSince := some (x.noPathSince.getD s.now) })
  | some p =>
    let s := match flitClass x.kind f with
      | none => s
      | some c => grantAdd s (10 + p) c 224
    portTx s p (some f.ch) sealed

/-- A flit sent on a session, or kept unsent while the session is at its limit or still being opened (R430, R432). Its request at the
port counts now, and its grant when it goes (R494). -/
def sessSend (s : State) (k : Nat × Nat) (f : Flit) : State :=
  match sessOf s k with
  | none => s
  | some x =>
    let s := match sessPort s k x, flitClass x.kind f with
      | some p, some c => demandAdd s (10 + p) c 224
      | _, _ => s
    if x.state ≠ .opening ∧ x.unsent.isEmpty ∧ sessMay s k x f then sessEmit s k x f
    else sessMod s k (fun x => { x with unsent := x.unsent ++ [f] })

/-- Unsent flits of a session that may now go. -/
def sessDrain : (fuel : Nat) → State → Nat × Nat → State
  | 0, s, _ => s
  | n + 1, s, k =>
    match sessOf s k with
    | none => s
    | some x =>
      match x.unsent with
      | [] => s
      | f :: r => if sessMay s k x f then sessDrain n (sessEmit (sessMod s k (fun x => { x with unsent := r })) k x f) k else s

/-- Whether a pool session to a lender has a flit that may go now. -/
def turnReady (s : State) (k : Nat × Nat) : Bool :=
  match sessOf s k with
  | none => false
  | some x => x.kind == .pool && x.initiator && (match x.unsent with
    | [] => false
    | f :: _ => sessMay s k x f)

/-- The waiting requests to a lender that its window takes, one from each of its sessions in turn: masters share the window through
a rotating pointer (R389). -/
def lenderDrain : (fuel : Nat) → State → Nat → State
  | 0, s, _ => s
  | n + 1, s, node =>
    let p := tgetD s.pool.turn node 0
    match leastFrom (fun i => turnReady s (node, (p + i) % 64)) 64 0 with
    | none => s
    | some i =>
      let k := (node, (p + i) % 64)
      lenderDrain n { sessDrain 1 s k with pool := { s.pool with turn := tset s.pool.turn node ((p + 1) % 64) } } node

/-- The waiting requests to a lender go as far as they may. -/
def lenderGo (s : State) (node : Nat) : State :=
  lenderDrain (((s.link.sessions.filter (fun e => e.1.1 == node)).map (fun e => e.2.unsent.length)).foldl (· + ·) 0) s node

/-- A flit of a type on a channel. -/
def mkFlit (type ch len arg : Nat) (pool : Bool) (payload : Bytes) : Flit :=
  { type := type, ch := ch, urg := 0, dst := 0, src := 0, sid := 0, hops := 0, len := len, pool := pool, arg := arg, sseq := 0,
    payload := payload }

/-- Session control under the session key (R409). -/
def sctlSend (s : State) (k : Nat × Nat) (sub : Nat) (body : Bytes) : State :=
  (ctlParts sub body).foldl (fun s x => sessSend s k (mkFlit 3 3 x.1 0 false x.2)) s

/-! ### Keys (R422, R423) -/

/-- Key material of 48 bytes split for one end: what it sends under, and what it receives under, key and salt each
(R420). -/
def splitKeys (b : Bytes) (first : Bool) : Bytes × Bytes :=
  let ab := slice b 0 16 ++ slice b 32 8
  let ba := slice b 16 16 ++ slice b 40 8
  if first then (ab, ba) else (ba, ab)

/-- The pair control keys of a node (R423). -/
def pairCtl (s : State) (node : Nat) : Option (Bytes × Bytes) :=
  (tget s.link.pairKeys node).map (fun sec => splitKeys (vbytes (Config.kdf48 (sec ++ ascii "PAIR"))) (nodeId s < node))

/-- The keys of a session in an epoch (R423). -/
def sessKeys (s : State) (node sid : Nat) (x : Session) (epoch : Nat) : Bytes × Bytes :=
  let sec := tgetD s.link.pairKeys node []
  let (mi, mt) := if x.initiator then (x.localMid, x.remoteMid) else (x.remoteMid, x.localMid)
  let (mi, mt) := if x.kind = .system then (0, 0) else (mi, mt)
  splitKeys (vbytes (Config.kdf48 (sec ++ leBytes 1 sid ++ leBytes 2 mi ++ leBytes 2 mt ++ x.nonceI ++ x.nonceT
    ++ leBytes 4 epoch))) x.initiator

/-- Session control outside a session: in the clear for the pair exchange, under the pair control keys for OPEN, ACCEPT and
REFUSE (R409, R422, R423). -/
def pairSend (s : State) (node sid home : Nat) (system sealed : Bool) (sub : Nat) (body : Bytes) : State :=
  (ctlParts sub body).foldl (fun s x =>
    let (tx, rx) := tgetD s.link.pairSseq node (1, 1)
    let key := if sealed then (pairCtl s node).map (·.1) else none
    let f : Flit := { mkFlit 3 3 x.1 0 false x.2 with dst := node, src := nodeId s, sid := sid, sseq := if sealed then tx else 0 }
    let s := if sealed then { s with link := { s.link with pairSseq := tset s.link.pairSseq node (tx + 1, rx) } } else s
    match pathPort s node sid home system with
    | none => s
    | some p => portTx s p (some 3) (sealFlit key f)) s

/-! ### Messages (R428, R450) -/

/-- Open system sessions to a node, in port order (R427). -/
def systemSessions (s : State) (node : Nat) : List (Nat × Nat) :=
  (List.range 8).filterMap (fun p => match sessOf s (node, p) with
    | some x => if x.kind == .system && x.state == .opened then some (node, p) else none
    | none => none)

/-- The MSG payloads of a message: code and length, then the body over as many flits as it takes (R450). -/
def msgPayloads (code : Nat) (body : Bytes) : List (Nat × Bytes) :=
  let all := leBytes 1 code ++ zeros 1 ++ leBytes 2 body.length ++ body
  (List.range (ceilDiv all.length 224)).map (fun i => (min 224 (all.length - 224 * i), fit 224 (all.drop (224 * i))))

/-- A message to a node on its lowest open system session. The record of what was sent lists it, and the flits follow. -/
def msgSend (s : State) (node code : Nat) (body : Bytes) : State :=
  let s := emit s (.message node code body)
  match (systemSessions s node).head? with
  | none => s
  | some k => (msgPayloads code body).foldl (fun s x => sessSend s k (mkFlit 9 3 x.1 0 false x.2)) s

/-! ### Pool-form accesses (R348, R410, R411) -/

/-- The POOL session to a node for a master, open or being opened (R428). -/
def poolSession (s : State) (node mid : Nat) : Option (Nat × Nat) :=
  (s.link.sessions.find? (fun x => x.1.1 == node && x.2.kind == .pool && x.2.state != .closing && x.2.initiator
    && x.2.localMid == mid)).map (·.1)

/-- A pool-form LOC (R410). -/
def poolLoc (half : Half) (ext off : Nat) : Nat := halfNum half + ext % 1024 * 2 + off % 2 ^ 30 * 2 ^ 11

/-- Tags of a session that are free, n of them. -/
def freeTags (x : Session) (n : Nat) : List Nat :=
  ((List.range 4096).filter (fun t => x.outstanding.all (fun o => o.write || o.tag != t))).take n

/-- Read descriptors of lines, 64 at most in each (R411). -/
def readDescs (half : Half) (ext off lines : Nat) (tags : List Nat) : List (Nat × Nat × Nat) :=
  (List.range (ceilDiv lines 64)).map (fun i =>
    let n := min 64 (lines - 64 * i)
    (tags.getD i 0, n, tags.getD i 0 * 2 ^ 52 + (n - 1) * 2 ^ 46 + poolLoc half ext (off + 4096 * i)))

/-- RD_REQ flits of a run of descriptors, 28 in each. -/
def readFlits (ds : List Nat) : List Flit :=
  (List.range (ceilDiv ds.length 28)).map (fun i =>
    let l := (ds.drop (28 * i)).take 28
    mkFlit 4 0 (8 * l.length) 0 true ((l.map (leBytes 8)).flatten))

/-- A read that awaits its answer. -/
def outRead (tag addr mid lines now : Nat) : Outst :=
  { tag := tag, write := false, addr := addr, mid := mid, lines := lines, sentAt := now }

/-- A write that awaits its completion. -/
def outWrite (sseq addr mid now cls : Nat) (b : Bytes) : Outst :=
  { tag := sseq, write := true, addr := addr, mid := mid, lines := 0, sentAt := now, data := b, cls := cls }

/-- A read of bytes of an extent sent to its lender; where `wait` is set, its answer is awaited on the session. -/
def poolRead (s : State) (mid node : Nat) (half : Half) (ext off n : Nat) (wait : Bool) (addr : Nat) : State :=
  match poolSession s node mid with
  | none => s
  | some k =>
    match sessOf s k with
    | none => s
    | some x =>
      let lo := off / 64 * 64
      let lines := ceilDiv (off + n - lo) 64
      let ds := (readDescs half ext lo lines (freeTags x (ceilDiv lines 64))).zipIdx
      (List.range (ceilDiv ds.length 28)).foldl (fun s i =>
        let part := (ds.drop (28 * i)).take 28
        let s := (readFlits (part.map (·.1.2.2))).foldl (fun s f => sessSend s k f) s
        if wait then sessMod s k (fun x => { x with
          outstanding := x.outstanding ++ part.map (fun d => outRead d.1.1 (addr / 64 * 64 + 4096 * d.2) mid d.1.2.1 s.now) })
        else s) s

/-- A write of bytes of an extent sent to its lender in WR flits of a class of this module, each awaited until it is reported applied
(R348, R414). -/
def poolWrite (s : State) (cls mid node : Nat) (half : Half) (ext off : Nat) (b : Bytes) (addr : Nat) : State :=
  match poolSession s node mid with
  | none => s
  | some k =>
    (List.range (ceilDiv b.length 224)).foldl (fun s i =>
      let part := (b.drop (224 * i)).take 224
      let sseq := ((sessOf s k).map (fun x => x.txSseq + x.unsent.length)).getD 0
      let s := sessSend s k { mkFlit 5 0 part.length (poolLoc half ext (off + 224 * i)) true (fit 224 part) with cls := some cls }
      sessMod s k (fun x => { x with outstanding := x.outstanding ++ [outWrite sseq (addr + 224 * i) mid s.now cls part] })) s

end Sys2Proof.Machine
end

