-- ==== Sys2Proof/Machine/Ledger.lean ====
section
/-! DEFINITION. Charging of bytes to the regulated resources (R489, R492, R494, R500). -/

namespace Sys2Proof.Machine

/-! ### Capacity (R489, R490) -/

/-- Full-capacity derated bandwidth of a resource in GB/s, for a host link by the mode of the card edge (R489). -/
def fullBw (x8x8 : Bool) (r : Nat) : Nat :=
  if r < 2 then 4423
  else if r < 4 then 1044
  else if r < 8 then 3104
  else if r < 10 then 3880
  else if r < 18 then 185
  else if r < 20 then (if x8x8 then 55 else 110)
  else if r < 22 then (if x8x8 then 55 else 0)
  else if r < 24 then 320
  else if r < 26 then 128
  else 0

/-- The admission limit of a derated figure: 85 %, rounded down (R489). -/
def limitOf (d : Nat) : Nat := d * 85 / 100

/-- The half of a resource; a bridge direction is its source's (R490). Host links have none. -/
def resHalf (r : Nat) : Option Half :=
  if r < 10 then some (halfOf (r % 2))
  else if r < 18 then some (halfOf ((r - 10) / 4))
  else if r < 22 then none
  else some (halfOf (r % 2))

/-- A factor of R490 as a fraction. -/
abbrev Frac := Nat × Nat

/-- The product of two fractions. -/
def fracMul (a b : Frac) : Frac := (a.1 * b.1, a.2 * b.2)

/-- The factor of a port (R490, R508). -/
def portFactor (q : Port) : Frac :=
  if q.state = .inService then (if q.lanes = 0xFF then (1, 1) else (1, 2))
  else if q.kind = .off ∨ q.began then (0, 1)
  else (1, 1)

/-- The factor of a host link: trained rate and width against the full ones (R490). -/
def linkFactor (x8x8 : Bool) (l : HostLink) : Frac :=
  let w := if x8x8 then 8 else 16
  (min (640 * w) (l.rate * l.width), 640 * w)

/-- The factors of a half: fenced, or throttled by T_h / 1,024 (R490, R674). -/
def halfFactor (s : State) (h : Half) : Frac :=
  if (s.halves.get h).fenced then (0, 1)
  else (s.power.throttle.get h, 1024)

/-- The product of the factors that apply to a resource (R490). -/
def resFactor (s : State) (r : Nat) : Frac :=
  let h := match resHalf r with
    | none => (1, 1)
    | some h => halfFactor s h
  let own : Frac :=
    if r < 2 then (if (s.halves.get (halfOf r)).t1Remapped then (3, 4) else (1, 1))
    else if r < 4 then
      let n := 16 - (s.halves.get (halfOf (r % 2))).packages.length
      (15 ^ n, 16 ^ n)
    else if 10 ≤ r ∧ r < 18 then portFactor (tgetD s.link.ports (r - 10) {})
    else if r = 18 ∨ r = 19 then linkFactor s.host.x8x8 s.host.link0
    else if r = 20 ∨ r = 21 then linkFactor s.host.x8x8 s.host.link1
    else (1, 1)
  fracMul h own

/-- Derated bandwidth of a resource now, in GB/s (R490). -/
def derated (s : State) (r : Nat) : Nat :=
  let f := resFactor s r
  fullBw s.host.x8x8 r * f.1 / f.2

/-- Class-2 guarantee that the boosts of peer ports add on a resource, in bytes per window (R503). -/
def boostOn (urg : Tbl Nat PortUrg) (r : Nat) : Nat :=
  ((urg.filter (fun u => u.2.mask.getLsbD r)).map (fun u => 1000 * u.2.boost)).foldl (· + ·) 0

/-- GUAR of a resource and class: the admitted guarantee with the boosts of R503. -/
def guarOf (s : State) (r c : Nat) : Nat := (bwCell s r c).guar + (if c = 2 then boostOn s.link.urg r else 0)

/-- Bytes charged on a list of resources. -/
def charges (s : State) (rs : List Nat) (c n : Nat) : State := rs.foldl (fun s r => charge s r c n) s

/-- The bridge in a direction, where two halves differ. -/
def bridgeRes (a b : Half) : List Nat := if a = b then [] else [8 + halfNum a]

/-- The resources that the data of a read of tier 1 or 2 crosses (R492). -/
def readPath (da : Nat) (d : Die) : List Nat :=
  let a := daHalf da
  if daRange da = 1 then
    match d with
    | .compute h => halfNum a :: bridgeRes a h
    | .tier h => halfNum a :: bridgeRes a h ++ [6 + halfNum h]
  else
    match d with
    | .compute h => [2 + halfNum a, 4 + halfNum a] ++ bridgeRes a h
    | .tier h => if a = h then [2 + halfNum a] else [2 + halfNum a, 4 + halfNum a] ++ bridgeRes a h ++ [6 + halfNum h]

/-- The resources that the data of a write to tier 1 or 2 crosses (R492). -/
def writePath (da : Nat) (d : Die) : List Nat :=
  let a := daHalf da
  if daRange da = 1 then
    match d with
    | .compute h => bridgeRes h a ++ [halfNum a]
    | .tier h => (4 + halfNum h) :: bridgeRes h a ++ [halfNum a]
  else
    match d with
    | .compute h => bridgeRes h a ++ [6 + halfNum a, 2 + halfNum a]
    | .tier h => if a = h then [2 + halfNum a] else (4 + halfNum h) :: bridgeRes h a ++ [6 + halfNum a, 2 + halfNum a]

/-- Bytes of the lines that n bytes from an address touch (R500). -/
def lineSpan (da n : Nat) : Nat := if n = 0 then 0 else lineOf (da + n + 63) - lineOf da

/-- Payload sent to the host memory of a function, in units of 64 bytes (R500). -/
def chargeHostTx (s : State) (c mid n : Nat) : State :=
  match midFn mid with
  | none => s
  | some fn => charge (hostTouch s fn true n) (18 + 2 * fnLink s fn) c (roundUp n 64)

/-- Payload received from the host memory of a function. -/
def chargeHostRx (s : State) (c mid n : Nat) : State :=
  match midFn mid with
  | none => s
  | some fn => charge (hostTouch s fn false n) (19 + 2 * fnLink s fn) c (roundUp n 64)

/-- Whether a class may be granted bytes now on every resource of a list: none is at its cap in this window (R501; a request is
granted whole once it may begin, log 127). -/
def capOpen (s : State) (c : Nat) (rs : List Nat) : Bool :=
  rs.all (fun r => let x := bwCell s r c; x.cap == 0 || decide (x.deliv < x.cap))

/-- The resources of a host link toward a function's host, or from it. -/
def hostRes (s : State) (mid : Nat) (toHost : Bool) : List Nat :=
  match midFn mid with
  | none => []
  | some fn => [(if toHost then 18 else 19) + 2 * fnLink s fn]

/-- The die whose controllers hold an address of tier 1 or 2 (R12). -/
def homeDie (da : Nat) : Die := if daRange da = 1 then .compute (daHalf da) else .tier (daHalf da)

/-- A read of tier 1 or 2 charged in a class; other tiers are charged at the ports that carry their flits. -/
def chargeRead (s : State) (c da n : Nat) (d : Die) : State :=
  if daRange da = 1 ∨ daRange da = 2 then charges s (readPath da d) c (lineSpan da n) else s

/-- A write to tier 1 or 2 charged in a class. -/
def chargeWrite (s : State) (c da n : Nat) (d : Die) : State :=
  if daRange da = 1 ∨ daRange da = 2 then charges s (writePath da d) c (lineSpan da n) else s

/-- Whether zeroing may move on at an address now: it travels in class 5 (R293, R501). -/
def zeroOpen (s : State) (da : Nat) : Bool := capOpen s 5 (writePath da (homeDie da))

/-- The zeros written over a range, charged in class 5 (R293, R491). -/
def chargeZero (s : State) (da n : Nat) : State := chargeWrite s 5 da n (homeDie da)

end Sys2Proof.Machine
end

