-- ==== Sys2Proof/Machine/Carrel.lean ====
section
/-! DEFINITION. Carrels, desk messages and their completion, forwarded commands, and the lock registers (chapter
13). -/

namespace Sys2Proof.Machine

/-! ### Return codes (R593) -/

/-- DONE. -/
def rcDone : Nat := 0x0000
/-- ACCEPTED. -/
def rcAccepted : Nat := 0x0001
/-- BAD_COMMAND. -/
def rcBadCommand : Nat := 0x0010
/-- BAD_LENGTH. -/
def rcBadLength : Nat := 0x0011
/-- BAD_FIELD. -/
def rcBadField : Nat := 0x0012
/-- NOT_PERMITTED. -/
def rcNotPermitted : Nat := 0x0020
/-- NOT_BOUND. -/
def rcNotBound : Nat := 0x0021
/-- NO_SPACE. -/
def rcNoSpace : Nat := 0x0030
/-- OVER_GUARANTEE. -/
def rcOverGuarantee : Nat := 0x0031
/-- CONFLICT. -/
def rcConflict : Nat := 0x0040
/-- STALE_EDITION. -/
def rcStaleEdition : Nat := 0x0041
/-- SIGNATURE_FAIL. -/
def rcSignatureFail : Nat := 0x0050
/-- HASH_MISMATCH. -/
def rcHashMismatch : Nat := 0x0051
/-- PARTNER_ABSENT. -/
def rcPartnerAbsent : Nat := 0x0060
/-- PARTNER_UNTRUSTED. -/
def rcPartnerUntrusted : Nat := 0x0061
/-- POISONED. -/
def rcPoisoned : Nat := 0x0070
/-- DIVERGED. -/
def rcDiverged : Nat := 0x0071
/-- LEASE_EXPIRED. -/
def rcLeaseExpired : Nat := 0x0080
/-- RECALLED. -/
def rcRecalled : Nat := 0x0081
/-- RESET_LOST. -/
def rcResetLost : Nat := 0x00F0
/-- INTERNAL_FAULT. -/
def rcInternalFault : Nat := 0x00FF

/-! ### Carrels -/

/-- A carrel's registers; those of a carrel never used are at their reset values. -/
def carrelOf (s : State) (n : Nat) : Carrel := tgetD s.cp.carrels n {}

/-- A carrel changed. -/
def carrelMod (s : State) (n : Nat) (f : Carrel → Carrel) : State :=
  { s with cp := { s.cp with carrels := tset s.cp.carrels n (f (carrelOf s n)) } }

/-- The sequence after a sequence (R521). -/
def seqSucc (n : Nat) : Nat := if n = 0xFFFF then 1 else n + 1

/-- A doorbell or a message-area write is ignored: IGNORED counts it (R521, R524). -/
def carrelIgnore (c : Carrel) : Carrel := { c with ignored := sat16 (c.ignored + 1) }

/-- Whether a doorbell of a carrel is accepted (R521). -/
def doorbellOk (s : State) (c : Carrel) (full : Bool) (value : BitVec 64) : Bool :=
  full && s.cp.ready && (c.state == .idle || c.state == .lost) && value.toNat == seqSucc c.completed

/-- Whether a doorbell comes in the cycle in which a control-processor restart began and would have been accepted before it: its
message counts as POSTED, and the restart discards it (R534). -/
def doorbellLost (s : State) (c : Carrel) (full : Bool) (value : BitVec 64) : Bool :=
  full && s.cp.restarting == some s.now && c.state == .restarting && (c.before == .idle || c.before == .lost)
    && value.toNat == seqSucc c.completed

/-- CARREL_DOORBELL (R521, R534, R700): the message area is posted, or the doorbell is ignored. A window with no valid
entry is reserved (R516). -/
def execCarrelDoorbell (carrel : Nat) (full : Bool) (value : BitVec 64) (s : State) : Out :=
  match tget s.cp.binding carrel with
  | none => .next s
  | some _ =>
    let c := carrelOf s carrel
    if doorbellLost s c full value then .next (carrelMod s carrel (fun c => { c with before := .posted }))
    else if doorbellOk s c full value then .next (carrelMod s carrel (fun c => { c with state := .posted }))
    else .next (carrelMod s carrel (fun c => { carrelIgnore c with badDoorbell := stickySet s.now }))

/-- CARREL_MESSAGE_WRITE (R524, R702): a write wholly inside the message area is taken when STATE is IDLE, RUNNING
or LOST. -/
def execCarrelMessageWrite (carrel off : Nat) (bytes : Bytes) (s : State) : Out :=
  match tget s.cp.binding carrel with
  | none => .next s
  | some _ =>
    if off + bytes.length ≤ 256 ∧ bytes ≠ [] then
      let c := carrelOf s carrel
      if c.state = .posted ∨ c.state = .restarting then .next (carrelMod s carrel carrelIgnore)
      else .next (carrelMod s carrel (fun c => { c with msg := place c.msg off bytes }))
    else .next s

/-- CARREL_ID (R518). -/
def carrelId (s : State) (n : Nat) : Nat :=
  match tget s.cp.binding n with
  | none => 0
  | some b => 2 ^ 63 + 0xFFE * 2 ^ 32 + b.sender * 2 ^ 16 + n

/-- A bit as a number. -/
def bitN (b : Bool) : Nat := if b then 1 else 0

/-- CARREL_STATUS (R519). -/
def carrelStatus (s : State) (n : Nat) : Nat :=
  let c := carrelOf s n
  c.restarts * 2 ^ 48 + c.ignored * 2 ^ 32 + bitN c.lost.val * 8 + bitN c.badDoorbell.val * 4 + bitN s.cp.ready

/-- Code of a carrel's STATE (R523). -/
def carrelCode (c : CarrelState) : Nat :=
  match c with
  | .idle => 0
  | .posted => 1
  | .running => 2
  | .lost => 3
  | .restarting => 4

/-- CARREL_ACK (R522). -/
def carrelAck (s : State) (n : Nat) : Nat :=
  let c := carrelOf s n
  c.taken * 2 ^ 48 + c.rc * 2 ^ 32 + c.completed * 2 ^ 16 + carrelCode c.state

/-! ### Masters and tenants -/

/-- The tenant to which a master is bound: functions by MASTER_BIND, link-session masters by the binding under which their
session opened (R429, R510, R557). -/
def tenantOf (s : State) (mid : Nat) : Option Nat := tget s.masters mid

/-- Whether a MID is a host function (R510). -/
def isHostMid (mid : Nat) : Bool := (midFn mid).isSome

/-! ### Activity and power states (R666 to R669) -/

/-- Desk commands served in SLEEP (R667). -/
def sleepOps : List Nat := [0x0101, 0x0B01, 0x0103, 0x0701, 0x0902, 0x0A01, 0x0A02, 0x0A03, 0x0A05]

/-- Something is served that keeps the device from SLEEP (R669). -/
def quietNow (s : State) : State := { s with power := { s.power with quietSince := s.now } }

/-- A request that needs tier memory is served: in SLEEP it moves the device to DOZE first (R666). -/
def leaveSleep (s : State) : State :=
  { s with power := { s.power with
      quietSince := s.now
      state := if s.power.state = .sleep then .doze else s.power.state } }

/-! ### Reads of host memory (R474 to R476) -/

/-- A function's completion timeout in ns (R474). -/
def fnTimeout (s : State) (fn : Fn) : Nat := tgetD s.host.timeoutNs fn 10000000

/-- Whether Flit Mode, which 64.0 GT/s brings, or 10-Bit Tag Requester Enable is in force for a function (R458, R476). -/
def wideTags (s : State) (fn : Fn) : Bool :=
  (hostLinkOf s (fnLink s fn)).rate == 640 || (tgetD s.host.cfgRegs (fn, 0x68) 0).getLsbD 12

/-- Read tags of a function (R476). -/
def tagLimit (s : State) (fn : Fn) : Nat :=
  match fn with
  | .vf _ => 256
  | .pf0 => if wideTags s fn then 1024 else 256
  | .pf1 => if wideTags s fn then 1024 else 256

/-- Quarantined tags of a function (R476). -/
def tagsQuarantined (s : State) (fn : Fn) : Nat :=
  s.host.tags.countP (fun p => p.1.1 == fn && (match p.2 with
    | .quarantined _ => true
    | .outstanding _ _ _ => false))

/-- Whether a function may issue a read: at most half of its tags are quarantined and one is free (R476). -/
def readMay (s : State) (mid : Nat) : Bool :=
  match midFn mid with
  | none => true
  | some fn => decide (2 * tagsQuarantined s fn ≤ tagLimit s fn)
      && decide (s.host.tags.countP (fun p => p.1.1 == fn) < tagLimit s fn)

/-- A read takes a tag and goes out (R476). -/
def readStart (s : State) (mid addr len : Nat) : State :=
  let s := emit s (.hostRead mid addr len)
  match midFn mid with
  | none => s
  | some fn =>
    match leastFrom (fun t => !thas s.host.tags (fn, t)) (tagLimit s fn) 0 with
    | none => s
    | some t => { s with host := { s.host with tags := tset s.host.tags (fn, t) (.outstanding s.now addr false) } }

/-- A function's outstanding read of an address. -/
def readTag (s : State) (fn : Fn) (addr : Nat) : Option Nat :=
  (s.host.tags.find? (fun p => p.1.1 == fn && (match p.2 with
    | .quarantined _ => false
    | .outstanding _ a _ => a == addr))).map (·.1.2)

/-- The HOST_READ record of a failed read (R475, R658). -/
def hostReadFail (s : State) (mid addr why : Nat) : State :=
  logNow s { kind := 0x0601, severity := 0, tenant := tenantOf s mid, mid := mid, rc := rcPartnerAbsent, location := addr, detail0 := why }

/-- Functions with a status bit set in AER, and one more; a VF has no AER (R462, R475). -/
def aerSet (l : List Fn) (fn : Fn) : List Fn :=
  match fn with
  | .vf _ => l
  | .pf0 => if l.contains .pf0 then l else l ++ [.pf0]
  | .pf1 => if l.contains .pf1 then l else l ++ [.pf1]

/-- A read's timeout is reported: its tag is quarantined for twice the timeout, and AER shows Completion Timeout, as an advisory
non-fatal error (R475, R476). -/
def readTimeout (s : State) (fn : Fn) (t addr : Nat) : State :=
  hostReadFail { s with host := { s.host with
    aerTimeout := aerSet s.host.aerTimeout fn
    aerAdvisory := aerSet s.host.aerAdvisory fn
    tags := tset s.host.tags (fn, t) (.quarantined (s.now + nsT (2 * fnTimeout s fn))) } } (fnMid fn) addr 0

/-- A read ends: its tag is free, or quarantined after a timeout, and a failure is logged (R475, R476). -/
def readEnd (s : State) (mid addr : Nat) (answer : HostRead) : State :=
  match midFn mid with
  | none => match answer with
    | .data _ => s
    | .dropped => s
    | .timeout => hostReadFail s mid addr 0
    | .unsupported => hostReadFail s mid addr 1
    | .aborted => hostReadFail s mid addr 2
  | some fn =>
    match readTag s fn addr with
    | none => s
    | some t =>
      let free : State := { s with host := { s.host with tags := tdel s.host.tags (fn, t) } }
      match answer with
      | .data _ => free
      | .dropped => free
      | .timeout => readTimeout s fn t addr
      | .unsupported => hostReadFail free mid addr 1
      | .aborted => hostReadFail free mid addr 2

/-- A read that starts and ends within one step. -/
def readWhole (s : State) (mid addr len : Nat) (answer : HostRead) : State :=
  readEnd (readStart s mid addr len) mid addr answer

/-! ### Completion (R526, R529, R538) -/

/-- Message code of DESK (R450). -/
def msgDesk : Nat := 0x20

/-- Message code of DESK_REPLY (R450). -/
def msgDeskReply : Nat := 0x21

/-- A reply of R526. -/
def replyBytes (op rc seq outWritten tDone : Nat) (result : Bytes) : Bytes :=
  leBytes 2 op ++ leBytes 2 result.length ++ leBytes 2 rc ++ leBytes 2 seq ++ leBytes 4 outWritten ++ zeros 4
    ++ leBytes 8 tDone ++ zeros 8 ++ fit 224 result

/-- Whether a reset of the function of a master begins in this cycle: its command still waits (R535, log 134). PF1's resets the
virtual functions too (R487). -/
def flrComes (s : State) (mid : Nat) : Bool :=
  let hits (fn : Fn) : Bool := midFn mid == some fn || (fn == .pf1 && (match midFn mid with
    | some (.vf _) => true
    | _ => false))
  s.pending.any (fun i => match i with
    | .initiateFlr fn => hits fn
    | .configRequest fn true 0x48 v => v.getLsbD 15 && hits fn
    | _ => false)

/-- The running list without a command. -/
def cmdDrop (s : State) (src : DeskSrc) : State :=
  { s with cp := { s.cp with running := s.cp.running.filter (fun c => c.src != src)
                             fwdOut := s.cp.fwdOut.filter (fun p => p.src != src) } }

/-- A command completes: BUF_OUT, in class 1, then the reply area, then CARREL_ACK; a forwarded command answers with
DESK_REPLY (R450, R528). A suppressed completion writes nothing, nor does one in the cycle in which a reset of its function begins
(R535, R539). -/
def completeOut (s : State) (c : RunCmd) (rc : Nat) (result out : Bytes) : State :=
  let s := cmdDrop s c.src
  if c.suppressed then s
  else
    let reply := replyBytes (msgOp c.msg) rc c.seq out.length (devNs s) result
    match c.src with
    | .carrel n =>
      if flrComes s c.mid then s
      else
      let s := if out.isEmpty then s else chargeHostTx (emit s (.hostWrite c.mid (msgOut c.msg) out false false)) 1 c.mid out.length
      carrelMod s n (fun k => { k with reply := reply, completed := k.taken, rc := rc, state := .idle })
    | .forward _ => msgSend s c.node msgDeskReply reply

/-- A command completes without BUF_OUT. -/
def complete (s : State) (c : RunCmd) (rc : Nat) (vals : List Val) : State :=
  completeOut s c rc (packVals vals) []

/-- A command completes with a code and no reply fields. -/
def failWith (s : State) (c : RunCmd) (rc : Nat) : State := completeOut s c rc [] []

/-! ### Taking a message (R527, R531) -/

/-- Whether a master is a sender that a code names; a holder is checked with the object it names (R545). -/
def senderIs (s : State) (mid : Nat) (forwarded : Bool) (c : Sender) : Bool :=
  match c with
  | .any => !forwarded
  | .op => !forwarded && mid == 1
  | .t => !forwarded && isHostMid mid && (tenantOf s mid).isSome
  | .h => forwarded || (isHostMid mid && (tenantOf s mid).isSome)
  | .bmc => !forwarded && mid == 3
  | .fm => !forwarded && mid == 4

/-- Check 4 of R527 for the sender, with NOT_BOUND by R546. -/
def senderCheck (s : State) (op mid : Nat) (forwarded : Bool) : Nat :=
  let codes := cmdSenders op
  if codes.any (senderIs s mid forwarded) then rcDone
  else if !forwarded && isHostMid mid && mid != 1 && (tenantOf s mid).isNone
      && codes.all (fun c => c == .t || c == .h) then rcNotBound
  else rcNotPermitted

/-- Whether a buffer of a message passes check 3 of R527: where valid, aligned, at most 1 MiB and not an I3C
carrel's; where not valid, address and length zero (log 21). -/
def bufferOk (valid : Bool) (addr len mid : Nat) : Bool :=
  if valid then addr % 64 == 0 && decide (len ≤ 2 ^ 20) && mid != 3 && mid != 4
  else addr == 0 && len == 0

/-- The opcodes that the recovery path serves (R691). -/
def recoveryOps : List Nat := [0x0101, 0x0B01, 0x0B02, 0x0B03]

/-- The checks of R527 in order; 0 when all pass. -/
def messageCheck (s : State) (m : Bytes) (mid : Nat) (forwarded : Bool) : Nat :=
  let op := msgOp m
  let p := msgParams m
  match cmdFixed op with
  | none => rcBadCommand
  | some _ =>
    let l := cmdShapes op mid forwarded p
    if s.boot.stage = .recovery ∧ !recoveryOps.contains op then rcBadCommand
    else if 224 < msgLen m ∨ msgLen m ≠ layoutLen l then rcBadLength
    else if msgFlags m ≥ 4 ∨ leAt m 6 2 ≠ 0 ∨ !gapsZero l p ∨ !cmdValues op mid forwarded p
        ∨ !bufferOk (msgHasIn m) (msgIn m) (msgInLen m) mid ∨ !bufferOk (msgHasOut m) (msgOut m) (msgOutLen m) mid
        ∨ (forwarded ∧ msgFlags m ≠ 0)
        ∨ (!forwarded ∧ cmdNeedsIn op mid p ≠ msgHasIn m)
        ∨ (cmdNeedsOut op ∧ !msgHasOut m) ∨ (msgHasOut m ∧ !cmdMayOut op) then rcBadField
    else senderCheck s op mid forwarded

/-- A taken command runs, or completes at once with the code of the check that fails. -/
def takeCmd (s : State) (c : RunCmd) (forwarded : Bool) : State :=
  let s := { s with cp := { s.cp with running := s.cp.running ++ [c] } }
  let rc := messageCheck s c.msg c.mid forwarded
  if rc = rcDone then s else failWith s c rc

/-- The posted message, or the head of the forward queue, at a position of the arbiter (R531). -/
def postedAt (s : State) (pos : Nat) : Bool :=
  if pos = 1024 then !s.cp.fwdQueue.isEmpty else (carrelOf s pos).state == .posted && thas s.cp.binding pos

/-- The first position at or after the pointer that has a message (R531). -/
def nextPosted (s : State) : Option Nat :=
  match leastFrom (fun k => postedAt s ((s.cp.pointer + k) % 1025)) 1025 0 with
  | none => none
  | some k => some ((s.cp.pointer + k) % 1025)

/-- MESSAGE_TAKE (R527, R531): the message at the pointer's turn is copied and checked. -/
def messageTake (s : State) : State :=
  if !s.cp.ready || decide (64 ≤ s.cp.running.length) then s
  else
    match nextPosted s with
    | none => s
    | some pos =>
      let s := { s with cp := { s.cp with pointer := (s.cp.pointer + 1) % 1025 } }
      if pos = 1024 then
        match s.cp.fwdQueue with
        | [] => s
        | f :: r =>
          let s := { s with cp := { s.cp with fwdQueue := r } }
          takeCmd s { src := .forward f.id, mid := f.mid, node := f.node, seq := 0, msg := f.msg } true
      else
        match tget s.cp.binding pos with
        | none => s
        | some b =>
          let c := carrelOf s pos
          let seq := seqSucc c.completed
          let s := carrelMod s pos (fun c => { c with state := .running, taken := seq })
          takeCmd s { src := .carrel pos, mid := b.sender, node := nodeId s, seq := seq, msg := fit 256 c.msg } false

/-- MESSAGE_TAKE. -/
def execMessageTake (s : State) : Out := .next (messageTake s)

/-- Whether a command waits, for an answer from outside the control processor or for what its row names: it delays no other
(R531). -/
def cmdWaits (c : RunCmd) : Bool := c.waiting || c.begun || !c.acc.isEmpty

/-- The running command of a sender with an opcode, when it does not wait for an answer. A command acts on the tables as every
command taken before it has left them: those run first, unless they wait (R531, R550). -/
def runningCmd (s : State) (src : DeskSrc) (op : Nat) : Option RunCmd :=
  if !s.cp.ready then none
  else (s.cp.running.find? (fun c => c.src == src || !cmdWaits c)).filter
    (fun c => c.src == src && msgOp c.msg == op && !c.waiting)

/-- A desk command's row: the effect on the running message of that opcode, or none (log 8). -/
def deskRun (op : Nat) (f : State → RunCmd → State) (s : State) (src : DeskSrc) : State :=
  match runningCmd s src op with
  | none => s
  | some c => f (if sleepOps.contains op then quietNow s else leaveSleep s) c

/-- A command waits for an answer from outside the control processor (R531). -/
def cmdWait (s : State) (src : DeskSrc) : State :=
  { s with cp := { s.cp with running := s.cp.running.map (fun c => if c.src = src then { c with waiting := true } else c) } }

/-- The running record of a command changed. -/
def runningSet (s : State) (c : RunCmd) (f : RunCmd → RunCmd) : State :=
  { s with cp := { s.cp with running := s.cp.running.map (fun r => if r.src = c.src then f r else r) } }

/-- A command that can go no further now delays no other, and runs on at its next row (R531). -/
def cmdHold (s : State) (c : RunCmd) : State := runningSet s c (fun r => { r with begun := true })

/-- The command of a sender, whether or not it waits; none runs during a control-processor restart (R532). -/
def cmdOf (s : State) (src : DeskSrc) : Option RunCmd := if !s.cp.ready then none else s.cp.running.find? (fun c => c.src == src)

/-- A waiting command completes. -/
def completeSrc (s : State) (src : DeskSrc) (rc : Nat) (vals : List Val) : State :=
  match cmdOf s src with
  | none => s
  | some c => complete s c rc vals

/-- Whether a command was forwarded by another module (R538). -/
def isForward (src : DeskSrc) : Bool :=
  match src with
  | .carrel _ => false
  | .forward _ => true

/-- The request fields of a command. -/
def argShapes (c : RunCmd) : List Shape := cmdShapes (msgOp c.msg) c.mid (isForward c.src) (msgParams c.msg)

/-- The i-th request field of a command. -/
def arg (c : RunCmd) (i : Nat) : Nat :=
  fld (argShapes c) (msgParams c.msg) i

/-- The i-th request field of a command as bytes. -/
def argBytes (c : RunCmd) (i : Nat) : Bytes :=
  fldBytes (argShapes c) (msgParams c.msg) i

/-- An element of an array field. -/
def argElem (c : RunCmd) (i w j : Nat) : Nat :=
  fldElem (argShapes c) (msgParams c.msg) i w j

/-- The tenant for which a command's sender acts. -/
def cmdTenant (s : State) (c : RunCmd) : Nat := (tenantOf s c.mid).getD 0xFFFF

/-- BUF_IN as it came, in class 1: the bytes, or a failed read that ends the command PARTNER_ABSENT (R528, R475). It waits
while the function may issue no read, or class 1 is at its cap (R476, R501). -/
def withBuf (s : State) (c : RunCmd) (buf : HostRead) (f : State → Bytes → State) : State :=
  if !readMay s c.mid || !capOpen s 1 (hostRes s c.mid false) then cmdHold s c
  else
    let s := readWhole s c.mid (msgIn c.msg) (msgInLen c.msg) buf
    match buf with
    | .data b => f (chargeHostRx s 1 c.mid (msgInLen c.msg)) (fit (msgInLen c.msg) b)
    | .timeout => failWith s c rcPartnerAbsent
    | .unsupported => failWith s c rcPartnerAbsent
    | .aborted => failWith s c rcPartnerAbsent
    | .dropped => failWith s c rcPartnerAbsent

/-! ### Receiver and sender resets (R532 to R539) -/

/-- What the start of a control-processor restart does to a carrel (R532). -/
def carrelRestart (c : Carrel) : Carrel := { c with before := c.state, state := .restarting }

/-- What the end of a restart does to a carrel; `op` is the opcode of its stopped message (R532). One whose sender has been
reset meanwhile is at its reset values (R679). -/
def carrelRestartEnd (now tDone op : Nat) (c : Carrel) : Carrel :=
  if c.state != .restarting then c
  else
  let c := { c with restarts := sat16 (c.restarts + 1) }
  match c.before with
  | .posted => { c with rc := rcResetLost, state := .lost, lost := stickySet now }
  | .running =>
    { c with reply := replyBytes op rcResetLost c.taken 0 tDone [], completed := c.taken, rc := rcResetLost,
             state := .lost, lost := stickySet now }
  | .idle => { c with state := .idle }
  | .lost => { c with state := .lost }
  | .restarting => { c with state := .idle }

/-- Every bound carrel changed. -/
def carrelsAll (s : State) (f : Nat → Carrel → Carrel) : State :=
  { s with cp := { s.cp with carrels := s.cp.binding.map (fun p => (p.1, f p.1 (carrelOf s p.1))) } }

/-- The opcode of the message that a carrel runs. -/
def carrelRunOp (s : State) (n : Nat) : Nat :=
  ((s.cp.running.find? (fun c => c.src == .carrel n)).map (fun c => msgOp c.msg)).getD 0

/-- A control-processor restart begins: carrels restart, no command runs (R532, R27). -/
def restartBegin (s : State) : State :=
  let s := carrelsAll s (fun _ c => carrelRestart c)
  { s with cp := { s.cp with ready := false, restarting := some s.now } }

/-- DESK_REPLY with RESET_LOST to each forwarded message that was queued or running (R539). -/
def forwardsLost (s : State) : State :=
  let lost (s : State) (node op : Nat) := msgSend s node msgDeskReply (replyBytes op rcResetLost 0 0 (devNs s) [])
  let s := s.cp.fwdQueue.foldl (fun s f => lost s f.node (msgOp f.msg)) s
  s.cp.running.foldl (fun s c =>
    match c.src with
    | .forward _ => if c.suppressed then s else lost s c.node (msgOp c.msg)
    | .carrel _ => s) s

/-- A control-processor restart ends: stopped and discarded messages report RESET_LOST, and desk commands are served
again (R532, R539). -/
def restartEnd (s : State) : State :=
  let s := forwardsLost s
  let s := carrelsAll s (fun n c => carrelRestartEnd s.now (devNs s) (carrelRunOp s n) c)
  { s with cp := { s.cp with ready := true, restarting := none, running := [], fwdQueue := [], fwdOut := [] } }

/-- A sender's carrels return to their reset values; what they run goes on without its writes (R535, R536). -/
def resetSender (s : State) (mid : Nat) : State :=
  let mine := (s.cp.binding.filter (fun p => p.2.sender == mid)).map (·.1)
  let step (acc : List RunCmd × Nat) (c : RunCmd) : List RunCmd × Nat :=
    match c.src with
    | .carrel n =>
      if mine.contains n then (acc.1 ++ [{ c with src := .forward acc.2, suppressed := true }], acc.2 + 1)
      else (acc.1 ++ [c], acc.2)
    | .forward _ => (acc.1 ++ [c], acc.2)
  let (running, nf) := s.cp.running.foldl step ([], s.cp.nextFwd)
  { s with cp := { s.cp with running := running, nextFwd := nf, carrels := mine.foldl tdel s.cp.carrels } }

/-- I3C_TARGET_RESET (R536). -/
def execI3cTargetReset (target : I3cTarget) (s : State) : Out :=
  .next (resetSender s (match target with | .bmc => 3 | .fm => 4))

/-! ### Lock registers (R540 to R544) -/

/-- The value a read of GLB_LOCKn returns (R541, R543). -/
def lockValue (s : State) (n : Nat) : Nat :=
  match tget s.cp.locks n with
  | none => 0
  | some mid => 2 ^ 31 + mid

/-- Whether a function's read of the low half of a lock arrives in this cycle too: it waits in the queue (log 134). -/
def lockReadComes (s : State) (fn : Fn) (n : Nat) : Bool :=
  s.pending.any (fun i => match i with
    | .glbLockRead f m low => f == fn && m == n && low
    | .pcieMemoryRequest f false ⟨false, off⟩ len _ _ _ =>
      f == fn && off == 0x1800 + 8 * n && (len == 4 || len == 8) && !thas s.host.flr f
    | _ => false)

/-- A free lock gets its owner, and the rotating pointer passes that function (R543). -/
def lockGive (s : State) (fn : Fn) (n : Nat) : State :=
  { s with cp := { s.cp with locks := tset s.cp.locks n (fnMid fn), lockPointer := if fn = .pf0 then 1 else 0 } }

/-- A physical function reads the low half of a lock (R7, R541, R543): the value it gets. Of two functions that read a free
lock in one cycle, the first at or after the rotating pointer is the owner, whichever of them is served first here. -/
def lockRead (s : State) (fn : Fn) (n : Nat) : State × Nat :=
  match tget s.cp.locks n with
  | some mid =>
    if s.cp.lockWon = some (n, fnMid fn, s.now) ∧ mid = fnMid fn then ({ s with cp := { s.cp with lockWon := none } }, 0)
    else (s, 2 ^ 31 + mid)
  | none =>
    let first := if s.cp.lockPointer = 0 then Fn.pf0 else .pf1
    if first ≠ fn ∧ lockReadComes s first n then
      let s := lockGive s first n
      ({ s with cp := { s.cp with lockWon := some (n, fnMid first, s.now) } }, 2 ^ 31 + fnMid first)
    else (lockGive s fn n, 0)

/-- GLB_LOCK_READ: a read that covers bits [31:0] of a free lock makes the reader its owner (R541, R701). After a fault of the
endpoint nothing is answered (R23). -/
def execGlbLockRead (fn : Fn) (n : Nat) (coversLow : Bool) (s : State) : Out :=
  if (fn = .pf0 ∨ fn = .pf1) ∧ n < 64 ∧ !s.ras.moduleFault then
    if coversLow then
      let r := lockRead s fn n
      .next (emit r.1 (.completion fn (some (leBytes 8 r.2))))
    else .next (emit s (.completion fn (some (zeros 4))))
  else .next s

/-- GLB_RELEASE: released by its owner or by PF0; only an 8-byte write acts (R542, R700), and none
after a fault of the endpoint (R23). -/
def execGlbRelease (fn : Fn) (full : Bool) (value : BitVec 64) (s : State) : Out :=
  let n := value.toNat % 64
  if full ∧ (fn = .pf0 ∨ fn = .pf1) ∧ (fn = .pf0 ∨ tget s.cp.locks n = some (fnMid fn)) ∧ !s.ras.moduleFault then
    .next { s with cp := { s.cp with locks := tdel s.cp.locks n, lockWon := none } }
  else .next s

end Sys2Proof.Machine
end

