-- ==== Sys2Proof/Machine/DeskInfo.lean ====
section
/-! DEFINITION. Desk commands of group 0x01: information and attestation (R552, R553, R603 to R610). -/

namespace Sys2Proof.Machine

/-- ID_DEVICE (chapter 19, Identity). -/
def idDevice (s : State) : Nat :=
  0x1F3E * 2 ^ 48 + 0x8400 * 2 ^ 32 + s.ident.stepping.toNat * 2 ^ 24 + s.ident.ifaceMajor.toNat * 2 ^ 16
    + s.ident.ifaceMinor.toNat * 2 ^ 8 + s.ident.option.toNat

/-- The device identity, 16 bytes (R603). -/
def deviceIdentity (s : State) : Bytes := [0x1F, 0x3E, 0x84, 0x00] ++ beBytes 8 s.ident.serial.toNat ++ zeros 4

/-- A private key derived from the root key and a label (R598). -/
def derivedKey (label : Bytes) : Bytes :=
  beBytes 32 (1 + beVal (vbytes (Config.kdf40 (Config.rootKey ++ label))) % (Config.sm2Order - 1))

/-- d_ID, the device identity key (R598). -/
def identKey : Bytes := derivedKey (ascii "IDENT")

/-- d_AL, the alias key: it changes with the firmware image (R598). -/
def aliasKey (s : State) : Bytes := derivedKey (ascii "ALIAS" ++ s.sec.aliasM1.getD [])

/-- Code of a power state (R552); AUX_ONLY, which the field has no value for, reads as SLEEP (log 22). -/
def powerCode (p : PowerState) : Nat :=
  match p with
  | .active => 0
  | .ready => 1
  | .doze => 2
  | .sleep => 3
  | .auxOnly => 3

/-- A matrix unit; one not listed is in its reset state. -/
def muOf (s : State) (n : Nat) : Mu := tgetD s.eng.mus n {}

/-- A vector unit; one not listed is in its reset state. -/
def vuOf (s : State) (n : Nat) : Vu := tgetD s.eng.vus n {}

/-- Matrix units in service in a half: in service themselves, their half neither fenced nor out. -/
def musIn (s : State) (h : Half) : List Nat :=
  (List.range 64).map (· + 64 * halfNum h) |>.filter (fun n => (muOf s n).inService)

/-- Vector units in service in a half. -/
def vusIn (s : State) (h : Half) : List Nat :=
  (List.range 16).map (· + 16 * halfNum h) |>.filter (fun n => (vuOf s n).inService)

/-- Whether a half is in service. -/
def halfUp (s : State) (h : Half) : Bool := (s.halves.get h).inService && !(s.halves.get h).fenced

/-- The numbers of the halves in service, as a mask. -/
def halvesMask (s : State) : Nat := bitN (halfUp s .h0) + 2 * bitN (halfUp s .h1)

/-- A sum over the halves in service. -/
def sumHalves (s : State) (f : Half → Nat) : Nat :=
  (if halfUp s .h0 then f .h0 else 0) + (if halfUp s .h1 then f .h1 else 0)

/-- The command finds its tables inconsistent, or has no identity to answer with: INTERNAL_FAULT and a record
(R594, R597). -/
def internalFault (s : State) (c : RunCmd) : State :=
  let carrel := match c.src with
    | .carrel n => n
    | .forward _ => 0
  failWith (logNow s { kind := 0x0901, severity := 3, tenant := tenantOf s c.mid, mid := c.mid, rc := rcInternalFault, location := msgOp c.msg,
                       detail0 := carrel }) c rcInternalFault

/-- DEVICE_INFO (R552). -/
def deviceInfoBody (s : State) (c : RunCmd) : State :=
  complete s c rcDone
    [.u 8 (idDevice s), .u 2 (nodeId s), .u 1 s.ident.slot.toNat, .u 1 (halvesMask s),
     .u 1 (sumHalves s (fun h => (musIn s h).length)), .u 1 (sumHalves s (fun h => (vusIn s h).length)),
     .u 1 (powerCode s.power.state), .u 1 (bitN s.boot.defaultsUsed),
     .u 2 (sumHalves s (fun h => (s.halves.get h).t1Cap)), .u 2 (sumHalves s (fun h => (s.halves.get h).t2Cap)),
     .u 2 s.tenants.length, .u 8 (devNs s)]

/-- DEVICE_INFO. -/
def execDeviceInfo (src : DeskSrc) (s : State) : Out := .next (deskRun 0x0101 deviceInfoBody s src)

/-- The digest and the count of changes of a measurement for a caller's tenant (R608, R610). -/
def measOf (s : State) (tenant : Option Nat) (i : Nat) : Meas :=
  if i = 5 then
    let t := tenant.bind (tget s.tenants)
    { digest := vbytes (Config.sm3 ((t.bind (·.vkey)).getD (zeros 64))), events := (t.map (·.vkeyEvents)).getD 0 }
  else tgetD s.sec.meas i {}

/-- A measurement taken again: EVENTS counts its changes since start-up (R608, R610). -/
def measTake (s : State) (i : Nat) (b : Bytes) : State :=
  let m := tgetD s.sec.meas i {}
  let d := vbytes (Config.sm3 b)
  if m.digest = d then s
  else { s with sec := { s.sec with meas := tset s.sec.meas i { digest := d, events := m.events + 1 } } }

/-- The bytes that measurement 4 covers: each enrolled anchor, in index order (R608). -/
def anchorBytes (s : State) : Bytes := ((List.range 16).map (fun i => tgetD s.sec.anchors i [])).flatten

/-- A measurement record (R610). -/
def measRecord (s : State) (tenant : Option Nat) (i : Nat) : Bytes :=
  let m := measOf s tenant i
  leBytes 2 i ++ zeros 2 ++ leBytes 4 m.events ++ m.digest
    ++ leBytes 8 (if i = 1 then s.fw.version + s.fw.svn * 2 ^ 32 else 0)

/-- FLAGS of an attestation report (R609). -/
def reportFlags (s : State) : Nat :=
  bitN s.boot.defaultsUsed + 2 * bitN s.diag.mode + 4 * bitN s.sec.debugUnlocked + 8 * bitN s.sec.sealFailed
    + 16 * bitN (s.halves.h0.fenced || s.halves.h1.fenced)

/-- An attestation report without its signature (R609). -/
def reportBody (s : State) (c : RunCmd) (carrel : Nat) (nonce : Bytes) : Bytes :=
  let tenant := tenantOf s c.mid
  leBytes 2 1 ++ leBytes 2 432 ++ leBytes 2 6 ++ leBytes 2 (reportFlags s) ++ leBytes 8 (idDevice s)
    ++ leBytes 8 s.ident.serial.toNat ++ leBytes 8 (devNs s) ++ nonce ++ leBytes 2 c.mid
    ++ leBytes 2 (tenant.getD 0xFFFF) ++ leBytes 2 carrel ++ leBytes 2 (nodeId s) ++ zeros 8
    ++ ((List.range 6).map (measRecord s tenant)).flatten

/-- An attestation report: signed by the alias key over the SM3 digest of its body, with the device identity (R603, R609). -/
def reportOf (s : State) (c : RunCmd) (carrel : Nat) (nonce : Bytes) : Bytes :=
  let b := reportBody s c carrel nonce
  b ++ vbytes (Config.sm2Sign (aliasKey s) (deviceIdentity s) (vbytes (Config.sm3 b)))

/-- A piece of a byte string for a reply: TOTAL, PIECE and 192 bytes of DATA (R552). -/
def pieceVals (b : Bytes) (off : Nat) : List Val :=
  let n := min 192 (b.length - off)
  [.u 4 b.length, .u 4 n, .b (fit 192 ((b.drop off).take n))]

/-- ATTEST_REPORT (R553). -/
def attestReportBody (s : State) (c : RunCmd) : State :=
  let carrel := match c.src with
    | .carrel n => n
    | .forward _ => 0
  let nonce := argBytes c 0
  let off := arg c 1
  if !s.sec.krOk then internalFault s c
  else if off = 0 then
    let r := reportOf s c carrel nonce
    let s' := carrelMod s carrel (fun k => { k with report := some r })
    if msgHasOut c.msg then
      if msgOutLen c.msg < r.length then failWith s c rcBadField
      else completeOut s' c rcDone (packVals [.u 4 r.length, .u 4 0, .b (zeros 192)]) r
    else complete s' c rcDone (pieceVals r 0)
  else
    match (carrelOf s carrel).report with
    | none => failWith s c rcConflict
    | some r =>
      if slice r 0x20 32 ≠ nonce then failWith s c rcConflict
      else if r.length ≤ off then failWith s c rcBadField
      else complete s c rcDone (pieceVals r off)

/-- ATTEST_REPORT. -/
def execAttestReport (src : DeskSrc) (s : State) : Out := .next (deskRun 0x0102 attestReportBody s src)

/-- The certificate chain: alias, device and intermediate (R607); none of the link kinds after a debug unlock
(R625). -/
def certChain (s : State) : Bytes :=
  (Config.aliasCert identKey (aliasKey s) (deviceIdentity s) (s.sec.aliasM1.getD []) s.fw.version s.fw.svn s.sec.debugUnlocked ++ s.flash.deviceCert ++ s.flash.intermediateCert).take 4096

/-- CERT_CHAIN (R552, R607). -/
def certChainBody (s : State) (c : RunCmd) : State :=
  let b := certChain s
  if !s.sec.krOk then internalFault s c
  else if b.length ≤ arg c 0 then failWith s c rcBadField
  else complete s c rcDone (pieceVals b (arg c 0))

/-- CERT_CHAIN. -/
def execCertChain (src : DeskSrc) (s : State) : Out := .next (deskRun 0x0103 certChainBody s src)

end Sys2Proof.Machine
end

