-- ==== Sys2Proof/Machine/Access.lean ====
section
/-! DEFINITION. Addresses that a master reaches, protected sectors, the binderies, and reads and writes on the
runtime face of tiers 1 and 2 (chapter 8). -/

namespace Sys2Proof.Machine

/-! ### What a master reaches (R289, R290, R294) -/

/-- Whether a region covers n bytes from an address, tags excluded. -/
def regionCovers (r : Region) (da n : Nat) : Bool := decide (r.base ≤ da) && decide (da + n ≤ regionDataEnd r)

/-- A master's region that covers n bytes from an address. -/
def masterRegion (s : State) (mid da n : Nat) : Option Region :=
  s.regions.find? (fun r => r.master == mid && regionCovers r da n)

/-- DA[51:30], the extent handle of a tier-3 address (R287). -/
def daHandle (da : Nat) : Nat := da / gib % 2 ^ 22

/-- A handle's length in bytes: a view or a draft covers its region's data extents (R290, R365). -/
def handleLen (h : Handle) : Nat :=
  match h.view with
  | some (_, n, _) => n * gib
  | none => gib

/-- The handle of a master that covers n bytes of tier 3, with its number. A view's handles follow its base. -/
def masterHandle (s : State) (mid da n : Nat) : Option (Nat × Handle) :=
  s.pool.handles.find? (fun p => p.2.master == mid && !p.2.shared
    && decide (p.1 * gib ≤ daOff da) && decide (daOff da + n ≤ p.1 * gib + handleLen p.2))

/-- Usable length of a depository grant: the top sixty-fourth of a protected grant holds tags (R393). -/
def grantLen (g : Grant) : Nat :=
  if g.protect then g.gib * gib / 64 * 63 else g.gib * gib

/-- The grant number in a tier-4 address, DA[51:40] (R391). -/
def daGrant (da : Nat) : Nat := da / 2 ^ 40 % 4096

/-- The depository grant of a master that covers n bytes of tier 4 (R290, R391): one that was revoked names it for 65 s more (R355,
R394). -/
def masterGrant (s : State) (mid da n : Nat) : Option (Nat × Grant) :=
  match tget s.pool.grants (daGrant da) with
  | none => none
  | some g =>
    let free := match g.endedAt with
      | none => false
      | some t => decide (t + secT 65 ≤ s.now)
    if g.holder = mid ∧ da % 2 ^ 40 + n ≤ grantLen g ∧ !free then some (daGrant da, g) else none

/-- Whether every one of n bytes from an address lies in a region of a master that the access may use (R290,
R294): a view is writable only where it is a draft (R365). -/
def reaches (s : State) (mid da n : Nat) (write : Bool) : Bool :=
  match daRange da with
  | 1 => (masterRegion s mid da n).isSome
  | 2 => (masterRegion s mid da n).isSome
  | 3 =>
    match masterHandle s mid da n with
    | none => false
    | some (_, h) =>
      match h.view with
      | some (_, _, w) => w || !write
      | none => true
  | 4 => (masterGrant s mid da n).isSome
  | _ => false

/-! ### What software may not write (R106) -/

/-- Whether n bytes from an address touch a folio payload or a colophon of a loaded tensor, in its master copy or its working
copy; only the device writes those (R106). -/
def touchesFolios (s : State) (da n : Nat) : Bool :=
  s.tensors.any (fun p =>
    let t := p.2
    let wc := match t.wc with
      | none => []
      | some w => [Half.h0, Half.h1].map (fun h =>
          (wcBase w h, wcColBase t.params w h + 32 * wcCount w (nTiles t.params) h - wcBase w h))
    ((masterSpans t.params t.pbase t.cbase t.tbase).take 2 ++ wc).any (fun x => spansMeet (da, n) x))

/-! ### What an access may do (R17, R106, R294) -/

/-- How a desk command's address ends: DONE, BAD_FIELD where R17 refuses it, else NOT_PERMITTED (R17, R106, R294, R547). -/
def addrCode (s : State) (mid da n : Nat) (write : Bool) : Nat :=
  if daRefused s mid da then rcBadField
  else if reaches s mid da n write && !(write && touchesFolios s da n) then rcDone
  else rcNotPermitted

/-- The ACCESS_REFUSED record of an access that R17 refuses (R17, R658). -/
def logRefused (s : State) (mid addr path rc : Nat) : State :=
  logNow s { kind := 0x0602, severity := 0, tenant := tenantOf s mid, mid := mid, rc := rc, location := addr,
             detail0 := path }

/-- Whether n bytes from an address meet a LOST region, which accepts only REGION_FREE (R330). -/
def touchesLost (s : State) (da n : Nat) : Bool := s.regions.any (fun r => r.lost && spansMeet (da, n) (r.base, r.granules * mib2))

/-- How an address that a desk command is to use ends: as addrCode has it, or CONFLICT in a LOST region (R330; DESIGN CHOICE of the
code, log 129). -/
def deskCode (s : State) (mid da n : Nat) (write : Bool) : Nat :=
  let rc := addrCode s mid da n write
  if rc = rcDone ∧ touchesLost s da n then rcConflict else rc

/-- A desk command refused for one of its addresses, with the record of one that R17 refuses (R17, R19, R658). -/
def failAddrs (s : State) (c : RunCmd) (das : List Nat) (rc : Nat) : State :=
  match if rc = rcBadField then das.find? (daRefused s c.mid) else none with
  | some da => failWith (logRefused s c.mid da 2 rc) c rc
  | none => failWith s c rc

/-- A desk command refused for an address (R17, R547). -/
def failAddr (s : State) (c : RunCmd) (da rc : Nat) : State :=
  failWith (if rc = rcBadField then logRefused s c.mid da 2 rcBadField else s) c rc

/-- Whether any part of n bytes from an address lies in a protected region (R309, R290). -/
def touchesProtected (s : State) (da n : Nat) : Bool :=
  s.regions.any (fun r => r.protect && decide (r.base < da + n) && decide (da < regionEnd r))
    || (daRange da == 4 && (match tget s.pool.grants (daGrant da) with | some g => g.protect | none => false))

/-- A WORKING_COPY FULL that is still copying a tensor ends with its copy, with CONFLICT (R298, R567; DESIGN CHOICE of the code, log
128). -/
def wcStop (s : State) (t : Tensor) : State :=
  match t.wc.bind (·.src) with
  | some src => completeSrc s src rcConflict []
  | none => s

/-! ### Protected sectors (R310, R311, R613) -/

/-- Whether an address of tier 1 or 2 lies in a protected region or the home of a protected granule. -/
def isProtected (s : State) (da : Nat) : Bool :=
  match regionAt s da with
  | some r => r.protect
  | none => match granuleHomeAt s da with
    | some p => p.2.protect
    | none => false

/-- The sector of an address. -/
def sectorOf (da : Nat) : Nat := da / 512 * 512

/-- A sector's tag has failed: the sector is marked poisoned, with a record, once (R310). -/
def sectorFails (s : State) (sec : Nat) : State :=
  if s.mem.badSectors.contains sec then s
  else
    let own := ownerAt s sec
    logNow { s with mem := { s.mem with badSectors := s.mem.badSectors ++ [sec] } }
      { kind := 0x0106, severity := 3, tenant := own.map (·.1), mid := (own.map (·.2)).getD 0, location := sec }

/-- A protected sector is checked: a stored tag that is not the content's fails (R310). -/
def sectorCheck (s : State) (sec : Nat) : State :=
  match tget s.mem.tags sec with
  | none => s
  | some t => if t = sectorTag s sec then s else sectorFails s sec

/-- The tags of the sectors from `lo` up to `hi` read through the line code: a sector whose tag cannot be read fails its check (R310,
R614, R632). -/
def tagsRead (s : State) (lo hi source : Nat) : State :=
  let (s, bad) := linesCheck s source (errLines s.mem (lineOf (tagAt s lo)) (tagAt s lo + (hi - lo) / 512 * 8))
  ((List.range ((hi - lo) / 512)).map (fun i => lo + 512 * i)).foldl
    (fun s x => if bad.contains (lineOf (tagAt s x)) then sectorFails s x else s) s

/-- The sectors of a range with a stored tag to check. -/
def taggedSectors (s : State) (da n : Nat) : List Nat :=
  (s.mem.tags.filter (fun p => decide (sectorOf da ≤ p.1) && decide (p.1 < da + n))).map (·.1)

/-- A read of n bytes of tier 1 or 2 with every check below the bindery: the state, the bytes and the poisoned
lines. A protected sector is read whole, so an error in any of its lines is met (R310). -/
def physRead (s : State) (da n source : Nat) : State × Bytes × List Nat :=
  if isProtected s da then
    let lo := sectorOf da
    let hi := sectorOf (da + n + 511)
    let (s, _, bad) := dramRead s lo (hi - lo) source
    let s := tagsRead s lo hi source
    let s := (taggedSectors s da n).foldl sectorCheck s
    let badSec := s.mem.badSectors.filter (fun x => decide (lo ≤ x) && decide (x < hi))
    (s, cellsRead s.mem.cells da n,
      bad ++ (badSec.map (fun x => (List.range 8).map (fun i => x + 64 * i))).flatten)
  else dramRead s da n source

/-- Whether a sector overlaps a range only in part. -/
def partSector (sec da n : Nat) : Bool := decide (sec < da) || decide (da + n < sec + 512)

/-- The sectors at the two ends of a range. -/
def endSectors (da n : Nat) : List Nat := [sectorOf da, sectorOf (da + n - 1)].eraseDups

/-- A sector covered in part is read whole for its merge; where a line of it is uncorrectable or its tag fails, the whole sector
is marked poisoned, with a record (R310, R311, R335). -/
def sectorMerge (s : State) (x line : Nat) : State :=
  let (s, _, bad) := physRead s x 512 3
  if bad.isEmpty then s
  else
    let m := s.mem.badSectors
    logNow { s with mem := { s.mem with badSectors := if m.contains x then m else m ++ [x] } }
      { kind := 0x0107, severity := 3, tenant := (ownerAt s x).map (·.1), mid := ((ownerAt s x).map (·.2)).getD 0,
        location := line }

/-- Whole lines written to tier 1 or 2. In protected memory a sector covered in full is good again; one covered in
part is read, merged and rewritten, and is poisoned, with a record, where its read was (R310, R311, R335). -/
def physWrite (s : State) (da : Nat) (b : Bytes) : State :=
  if lineDead s da then s
  else if isProtected s da then
    let parts := (endSectors da b.length).filter (fun x => partSector x da b.length)
    let s := parts.foldl (fun s x => sectorMerge s x (lineOf da)) s
    let s := dramPut s da b
    let full (x : Nat) : Bool := decide (da ≤ x) && decide (x + 512 ≤ da + b.length)
    let touched (x : Nat) : Bool := decide (x < da + b.length) && decide (da < x + 512)
    { s with mem := { s.mem with badSectors := s.mem.badSectors.filter (fun x => !full x)
                                 tags := s.mem.tags.filter (fun p => !touched p.1) } }
  else dramPut s da b

/-! ### The plain range and the cache (R312 to R325) -/

/-- The plain granule of a plain offset that matches requests: after the cycle of the switch tick by which it entered service,
and up to and in the cycle of its removal's (R28, R314, R466). -/
def granAt (s : State) (off : Nat) : Option PlainGran :=
  match tget s.plain.granules (off / gib) with
  | none => none
  | some g => match g.state with
    | .inService => if g.tick = some s.now then none else some g
    | .adding _ _ => none
    | .removing _ _ => some g
    | .leaving _ tick => if tick = s.now then some g else none

/-- The home address of a plain offset. -/
def homeOf (s : State) (off : Nat) : Nat :=
  match tget s.plain.granules (off / gib) with
  | none => 0
  | some g => g.home + off % gib

/-- Sets of a half's cache (R317). -/
def nsets (s : State) (h : Half) : Nat := 16256 * (s.plain.cache.get h).share

/-- The set of a plain offset in its half's cache (R317). -/
def setOf (s : State) (h : Half) (off : Nat) : Nat := off / 4096 % nsets s h

/-- The listed ways of a half. -/
def waysOf (s : State) (h : Half) : Tbl (Nat × Nat) Way := (s.plain.cache.get h).ways

/-- The way of a half's cache that holds the block of a plain offset. -/
def wayOf (s : State) (h : Half) (off : Nat) : Option ((Nat × Nat) × Way) :=
  (s.plain.cache.get h).ways.find? (fun p => p.1.1 == setOf s h off && p.2.block == off / 4096 && p.2.state != .invalid)

/-- A way set. -/
def putWay (s : State) (h : Half) (k : Nat × Nat) (w : Way) : State :=
  { s with plain := { s.plain with cache := s.plain.cache.mod h (fun c => { c with ways := tset c.ways k w }) } }

/-- A half's cache changed. -/
def cacheMod (s : State) (h : Half) (f : Cache → Cache) : State :=
  { s with plain := { s.plain with cache := s.plain.cache.mod h f } }

/-- Whether a weight window takes a granule. -/
def granInWindow (s : State) (g : Nat) : Bool :=
  s.plain.windows.any (fun p => decide (p.2.g ≤ g) && decide (g < p.2.g + p.2.count))

/-- Whether a plain line may be cached: its half has a cache, and it lies neither in a protected granule nor in a weight window
(R315, R316, R319). -/
def cacheable (s : State) (g : PlainGran) (off : Nat) : Bool :=
  decide (0 < (s.plain.cache.get g.half).share) && !g.protect && !granInWindow s (off / gib)

/-- A way of a set; one not listed is INVALID. -/
def wayAt (s : State) (h : Half) (k : Nat × Nat) : Way := tgetD (s.plain.cache.get h).ways k {}

/-- An address that stands for tier 1 of a half in charges for a cached line. -/
def t1Of (h : Half) : Nat := daMk 1 (halfBase 1 h)

/-- The line of a block in which a plain offset lies. -/
def lineIx (off : Nat) : Nat := off / 64 % 64

/-- A bit of a 64-bit mask set to a value. -/
def bitSet (m : BitVec 64) (i : Nat) (v : Bool) : BitVec 64 :=
  if v then m ||| (1#64 <<< i) else m &&& ~~~(1#64 <<< i)

/-- A block whose lines are all valid is VALID once it has been FILLING (R320). -/
def waySettle (w : Way) : Way :=
  if w.state = .filling ∧ w.valid = BitVec.allOnes 64 then { w with state := .valid } else w

/-- A whole line of a block held by a way replaced: valid, dirty and no longer poisoned (R320, R325). -/
def wayPut (w : Way) (off : Nat) (b : Bytes) : Way :=
  let i := lineIx off
  waySettle { w with data := cellsPut w.data (64 * i) b, valid := bitSet w.valid i true, dirty := bitSet w.dirty i true,
                     poison := bitSet w.poison i false, age := 0 }

/-- One line of a way written back to its home in class 5 (R320, R324, R325): as poison where it is marked poisoned. -/
def writeBackLine (s : State) (h : Half) (k : Nat × Nat) (i : Nat) : State :=
  match tget (s.plain.cache.get h).ways k with
  | none => s
  | some w =>
    if w.dirty.getLsbD i then
      let home := homeOf s (w.block * 4096 + 64 * i)
      let s := putWay s h k { w with dirty := bitSet w.dirty i false }
      let s := chargeWrite (chargeRead s 5 (t1Of h) 64 (.compute h)) 5 home 64 (.compute h)
      if w.poison.getLsbD i then { s with mem := s.mem.poisonLine home }
      else physWrite s home (cellsRead w.data (64 * i) 64)
    else s

/-- Every dirty line of a way written back. -/
def writeBackWay (s : State) (h : Half) (k : Nat × Nat) : State :=
  (List.range 64).foldl (fun s i => writeBackLine s h k i) s

/-- A way invalidated. -/
def dropWay (s : State) (h : Half) (k : Nat × Nat) : State :=
  { s with plain := { s.plain with cache := s.plain.cache.mod h (fun c => { c with ways := tdel c.ways k }) } }

/-- Whether a victim is taken before another: higher AGE, then clean before dirty, then the lower way number (R322). -/
def victimBefore (a b : Way) : Bool :=
  decide (b.age < a.age) || (a.age == b.age && a.dirty == 0 && b.dirty != 0)

/-- The way that a miss takes in a set (R322). -/
def pickWay (s : State) (h : Half) (set : Nat) : Option Nat :=
  match leastFrom (fun i => (wayAt s h (set, i)).state == .invalid) 16 0 with
  | some i => some i
  | none =>
    ((List.range 16).filter (fun i => (wayAt s h (set, i)).state == .valid)).foldl (fun b i =>
      match b with
      | none => some i
      | some j => if victimBefore (wayAt s h (set, i)) (wayAt s h (set, j)) then some i else some j) none

/-- A cache stall of a half counted in the ledger (R322). -/
def countStall (s : State) (h : Half) : State := { s with bw := { s.bw with cacheStalls := s.bw.cacheStalls.mod h (· + 1) } }

/-- A miss takes a way for the block of a plain offset: the way FILLING, or none while its victim is written back or no way
can be taken, which counts a stall unless this request's has been counted (R320, R322). `read` is a read miss, whose line is
demanded. -/
def allocWay (s : State) (h : Half) (off : Nat) (read counted : Bool) : State × Option (Nat × Nat) :=
  let set := setOf s h off
  match pickWay s h set with
  | none => (if counted then s else countStall s h, none)
  | some i =>
    let w := wayAt s h (set, i)
    if w.state = .valid ∧ w.dirty ≠ 0 then (putWay s h (set, i) { w with state := .evicting }, none)
    else (putWay s h (set, i) { block := off / 4096, demand := if read then some (lineIx off) else none, state := .filling },
      some (set, i))

/-- The way that a retirement's line is read from or written to: the one that holds its block, or one allocated for it, whose
victim is written back within the retirement; none where every way of the set is FILLING or EVICTING (R320, R322, R333). -/
def wayNow (s : State) (h : Half) (off : Nat) (read : Bool) : State × Option (Nat × Nat) :=
  let alloc (s : State) : State × Option (Nat × Nat) :=
    match allocWay s h off read false with
    | (s, some k) => (s, some k)
    | (s, none) =>
      match (waysOf s h).find? (fun p => p.1.1 == setOf s h off && p.2.state == .evicting) with
      | none => (s, none)
      | some (k, _) => allocWay (dropWay (writeBackWay s h k) h k) h off read true
  match wayOf s h off with
  | some (k, w) => if w.state = .evicting then alloc (dropWay (writeBackWay s h k) h k) else (s, some k)
  | none => alloc s

/-- A line of a FILLING block arrives from its home, in class 2 where it was demanded and else in class 5: valid, and poisoned
where it came marked uncorrectable (R315, R320). -/
def fillLine (s : State) (h : Half) (k : Nat × Nat) (line : Nat) : State :=
  let w := wayAt s h k
  let home := homeOf s (w.block * 4096 + 64 * line)
  let c := if w.demand = some line then 2 else 5
  let s := chargeWrite (chargeRead s c home 64 (.tier h)) c (t1Of h) 64 (.tier h)
  let (s, b, bad) := physRead s home 64 0
  putWay s h k (waySettle { w with data := cellsPut w.data (64 * line) b, valid := bitSet w.valid line true,
                                   poison := bitSet w.poison line (!bad.isEmpty) })

/-- A plain line as stored: from its way where the line is valid there, else from its home; with its poison. -/
def plainLine (s : State) (g : PlainGran) (off : Nat) : State × Bytes × Bool :=
  let l := lineOf off
  match wayOf s g.half l with
  | some (_, w) =>
    if w.valid.getLsbD (lineIx l) then
      (s, cellsRead w.data (64 * lineIx l) 64, w.poison.getLsbD (lineIx l) || g.lost)
    else
      let (s, b, bad) := physRead s (homeOf s l) 64 0
      (s, b, !bad.isEmpty)
  | none =>
    let (s, b, bad) := physRead s (homeOf s l) 64 0
    (s, b, !bad.isEmpty)

/-- A whole plain line stored below the bindery, in class 2: into a way of the cache, held or allocated for it, else in its home
(R315, R320, R333). -/
def plainPut (s : State) (g : PlainGran) (off : Nat) (b : Bytes) : State :=
  let home (s : State) : State := physWrite (chargeWrite s 2 (homeOf s off) 64 (.tier g.half)) (homeOf s off) b
  if cacheable s g off then
    match wayNow s g.half off false with
    | (s, some k) => putWay (chargeWrite s 2 (t1Of g.half) 64 (.tier g.half)) g.half k (wayPut (wayAt s g.half k) off b)
    | (s, none) => home s
  else home s

/-- A plain line read by a retirement through the normal read path (R333): from a way, where a miss allocates one and its line
arrives within the retirement, else from its home, in class 2. -/
def plainLoad (s : State) (g : PlainGran) (off : Nat) : State × Bytes × Bool :=
  let home (s : State) : State × Bytes × Bool := plainLine (chargeRead s 2 (homeOf s off) 64 (.tier g.half)) g off
  if cacheable s g off then
    match wayNow s g.half off true with
    | (s, some k) =>
      if (wayAt s g.half k).valid.getLsbD (lineIx off) then plainLine (chargeRead s 2 (t1Of g.half) 64 (.tier g.half)) g off
      else plainLine (fillLine s g.half k (lineIx off)) g off
    | (s, none) => home s
  else home s

/-- A plain line marked poisoned below the bindery. -/
def plainPoison (s : State) (g : PlainGran) (off : Nat) : State :=
  match wayOf s g.half off with
  | some (k, w) => putWay s g.half k { w with poison := bitSet w.poison (lineIx off) true }
  | none => { s with mem := s.mem.poisonLine (lineOf (homeOf s off)) }

/-! ### The bindery (R331 to R336) -/

/-- The half whose bindery holds a line: its own on the runtime face, its granule's home half on the plain face. -/
def binderyHalf (s : State) (line : Nat) : Half :=
  if daRange line = 8 then
    match tget s.plain.granules (daOff line / gib) with
    | some g => g.half
    | none => .h0
  else daHalf line

/-- The entry of a line. -/
def entryOf (s : State) (h : Half) (line : Nat) : Option BinderyEntry :=
  (s.plain.bindery.get h).find? (fun e => e.line == line)

/-- A half's bindery changed. -/
def binderyMod (s : State) (h : Half) (f : List BinderyEntry → List BinderyEntry) : State :=
  { s with plain := { s.plain with bindery := s.plain.bindery.mod h f } }

/-- The bindery without a line's entry. -/
def entryDrop (s : State) (h : Half) (line : Nat) : State :=
  binderyMod s h (fun l => l.filter (fun e => e.line != line))

/-- The bytes whose mask bits are set, over others. -/
def maskOver (mask : BitVec 64) (new old : Bytes) : Bytes :=
  (List.range 64).map (fun i => if mask.getLsbD i then byteAt new i else byteAt old i)

/-- A whole line written below the bindery, on the face of its address. -/
def lineStore (s : State) (line : Nat) (b : Bytes) : State :=
  if daRange line = 8 then
    match tget s.plain.granules (daOff line / gib) with
    | some g => plainPut s g (daOff line) b
    | none => s
  else physWrite s line b

/-- A whole line read below the bindery, on the face of its address, by a retirement. -/
def lineLoad (s : State) (line : Nat) : State × Bytes × Bool :=
  if daRange line = 8 then
    match tget s.plain.granules (daOff line / gib) with
    | some g => plainLoad s g (daOff line)
    | none => (s, zeros 64, true)
  else
    let (s, b, bad) := physRead s line 64 3
    (s, b, !bad.isEmpty)

/-- A line marked poisoned on the face of its address. -/
def linePoison (s : State) (line : Nat) : State :=
  if daRange line = 8 then
    match tget s.plain.granules (daOff line / gib) with
    | some g => plainPoison s g (daOff line)
    | none => s
  else { s with mem := s.mem.poisonLine line }

/-- Whether a line, on the face of its address, lies in protected memory. -/
def lineProtected (s : State) (line : Nat) : Bool :=
  if daRange line = 8 then ((tget s.plain.granules (daOff line / gib)).map (·.protect)).getD false else isProtected s line

/-- An entry retires (R333): with a full mask its line is written; else the line is read, merged and written, and marked poisoned,
with a record, where its read was poison. In protected memory the write itself merges, marks and records the whole sector
(R311, R335). -/
def retireEntry (s : State) (h : Half) (e : BinderyEntry) : State :=
  let s := entryDrop s h e.line
  if e.mask = BitVec.allOnes 64 then lineStore s e.line e.data
  else
    let (s, old, bad) := lineLoad s e.line
    let s := lineStore s e.line (maskOver e.mask e.data old)
    if bad && !lineProtected s e.line then
      let s := linePoison s e.line
      logNow s { kind := 0x0107, severity := 3, tenant := tenantOf s e.mid, mid := e.mid, location := e.line }
    else s

/-- Every entry of a half that passes a test retires, oldest first. -/
def retireWhere (s : State) (h : Half) (p : BinderyEntry → Bool) : State :=
  ((s.plain.bindery.get h).filter p).foldl (fun s e => retireEntry s h e) s

/-- Every entry of both binderies retires (R336). -/
def retireAll (s : State) : State := retireWhere (retireWhere s .h0 (fun _ => true)) .h1 (fun _ => true)

/-- A mask of n bytes from an offset. -/
def byteMask (off n : Nat) : BitVec 64 := BitVec.ofNat 64 ((2 ^ n - 1) * 2 ^ off)

/-- A narrow write merges into the entry of its line, or allocates one; a mask that becomes full retires it, and
beyond 1,792 entries the oldest retires (R332, R333). -/
def binderyWrite (s : State) (mid line off : Nat) (b : Bytes) : State :=
  let h := binderyHalf s line
  let mask := byteMask off b.length
  let data := place (zeros 64) off b
  let e : BinderyEntry := match entryOf s h line with
    | some e => { e with data := maskOver mask data e.data, mask := e.mask ||| mask }
    | none => { line := line, data := data, mask := mask, since := s.now, mid := mid }
  let s := match entryOf s h line with
    | some _ => binderyMod s h (fun l => l.map (fun x => if x.line = line then e else x))
    | none => binderyMod s h (fun l => l ++ [e])
  if e.mask = BitVec.allOnes 64 then retireEntry s h e
  else if 1792 < (s.plain.bindery.get h).length then
    match (s.plain.bindery.get h).head? with
    | some o => retireEntry s h o
    | none => s
  else s

/-- A full-line write: it drops the line's entry and goes on below the bindery (R332). -/
def fullWrite (s : State) (line : Nat) (b : Bytes) : State :=
  lineStore (entryDrop s (binderyHalf s line) line) line b

/-- Lines that a run of whole-line writes covers lose their entries. -/
def entriesDrop (s : State) (h : Half) (lo hi : Nat) : State :=
  binderyMod s h (fun l => l.filter (fun e => !(decide (lo ≤ e.line) && decide (e.line < hi))))

/-- Bytes written on the runtime face of tier 1 or 2 (R331, R332): whole lines directly, the parts of lines at the
ends through the bindery. -/
def rtWrite (s : State) (mid da : Nat) (b : Bytes) : State :=
  let head := min b.length ((64 - da % 64) % 64)
  let body := (b.length - head) / 64 * 64
  let tail := b.length - head - body
  let s := if head = 0 then s else binderyWrite s mid (lineOf da) (da % 64) (b.take head)
  let s := if body = 0 then s
    else physWrite (entriesDrop s (daHalf da) (da + head) (da + head + body)) (da + head) ((b.drop head).take body)
  if tail = 0 then s else binderyWrite s mid (da + head + body) 0 (b.drop (head + body))

/-- The bytes of a read with the masked bytes of a bindery entry over them (R334). -/
def overlay (da : Nat) (b : Bytes) (e : BinderyEntry) : Bytes :=
  b.zipIdx.map (fun p =>
    let a := da + p.2
    if e.line ≤ a ∧ a < e.line + 64 ∧ e.mask.getLsbD (a - e.line) then byteAt e.data (a - e.line) else p.1)

/-- A read on the runtime face of tier 1 or 2: stored bytes under the bindery's (R334), with the poisoned lines. A
line with a full entry is not read. -/
def rtRead (s : State) (da n source : Nat) : State × Bytes × List Nat :=
  let entries := (s.plain.bindery.get (daHalf da)).filter
    (fun e => decide (e.line < da + n) && decide (da < e.line + 64))
  let (s, b, bad) := physRead s da n source
  let full := (entries.filter (fun e => e.mask == BitVec.allOnes 64)).map (·.line)
  (s, entries.foldl (overlay da) b, bad.filter (fun l => !full.contains l))

/-- Whether any line of a read is poison. -/
def rtPoison (bad : List Nat) (da n : Nat) : Bool :=
  bad.any (fun l => decide (l < da + n) && decide (da < l + 64))

/-! ### All tiers of the runtime face -/

/-- What another module or tray answered, as bytes and poison; a read that it refused or did not answer is poison
(R356, R395, log 10). -/
def remoteBytes (n : Nat) (r : RemoteRead) : Bytes × Bool :=
  match r with
  | .none => (zeros n, true)
  | .data b p => (fit n b, p)
  | .refused _ => (zeros n, true)
  | .unanswered => (zeros n, true)

/-- The code with which the borrowing module refuses an access to a handle without sending it (R355, R379). -/
def handleRefuses (h : Handle) (write : Bool) : Option Nat :=
  if h.state = .recalled then some rcRecalled
  else if h.state = .expired then some rcLeaseExpired
  else if h.lost && (write || h.state == .failed) then some rcPoisoned
  else none

/-- Where the bytes at an address of tier 3 lie at the lender: its node, half, extent index and offset (R287, R365, R410).
A parity data extent that is lost is read at its parity lender (R379). -/
def poolAt (num : Nat) (h : Handle) (da : Nat) : Nat × Half × Nat × Nat :=
  let d := daOff da - num * gib
  if h.lost then
    match h.secondary with
    | some (n, f, e) => (n, f, e, d % gib)
    | none => (h.node, h.half, h.ext, d % gib)
  else (h.node, h.half, h.ext + d / gib, d % gib)

/-- A refused write is dropped and counted against its handle; the first of each handle is logged (R356, R658). -/
def poolRefused (s : State) (num : Nat) (h : Handle) (rc : Nat) : State :=
  let h' : Handle := { h with refused := some (h.refused.getD rc), refusedCount := h.refusedCount + 1,
                              refusedAt := if h.refused.isSome then h.refusedAt else s.free }
  let s := bump { s with pool := { s.pool with handles := tset s.pool.handles num h' } }
  if 0 < h.refusedCount then s
  else logNow s { kind := 0x0402, severity := 0, tenant := tenantOf s h.master, mid := h.master, rc := rc, location := num }

/-- A depository grant changed. -/
def grantMod (s : State) (g : Nat) (f : Grant → Grant) : State :=
  { s with pool := { s.pool with grants := tmod s.pool.grants g f } }

/-- A request that a tray has not answered is logged, and 16 in a row make the grant UNREACHABLE (R395, R658). -/
def trayUnanswered (s : State) (g : Nat) : State :=
  match tget s.pool.grants g with
  | none => s
  | some x =>
    let n := x.unanswered + 1
    let s := grantMod s g (fun x => { x with unanswered := n, state := if x.state = 0 ∧ 16 ≤ n then 1 else x.state,
                                             lastProbe := if x.state = 0 ∧ 16 ≤ n then s.now else x.lastProbe })
    logNow s { kind := 0x0405, severity := 2, tenant := tenantOf s x.holder, mid := x.holder, rc := rcPartnerAbsent, location := g,
               detail0 := x.tray }

/-- The code with which this module refuses an access to a grant without sending it: RECALLED once it is revoked, PARTNER_ABSENT while
its tray is UNREACHABLE (R355, R394, R395). -/
def grantRefuses (g : Grant) : Option Nat := if g.state = 2 then some rcRecalled else if g.state = 1 then some rcPartnerAbsent else none

/-- A refused write to a grant is dropped and counted; the first after its end is logged (R356, R394, R658). -/
def grantRefused (s : State) (n : Nat) (g : Grant) : State :=
  let s' := grantMod s n (fun g => { g with refusedCount := g.refusedCount + 1 })
  if g.state ≠ 2 ∨ 0 < g.refusedCount then s'
  else logNow s' { kind := 0x0402, severity := 0, tenant := tenantOf s g.holder, mid := g.holder, rc := rcRecalled, location := n }

/-- What a tray's answer does to its grant's count (R395). -/
def trayHeard (s : State) (g : Nat) (remote : RemoteRead) : State :=
  match remote with
  | .unanswered => trayUnanswered s g
  | .data _ _ => grantMod s g (fun x => { x with unanswered := 0 })
  | .refused _ => grantMod s g (fun x => { x with unanswered := 0 })
  | .none => s

/-- n bytes that another module or a tray holds and the model does not (log 35). -/
def farBytes (s : State) (n : Nat) : State × Bytes :=
  (drew n s, (List.range n).map (fun i => (Config.freeWord 6 (s.free + i)).setWidth 8))

/-- A key of a depository grant, for lines or for tags (R392, R393, R599): none once the tenant's slot has been erased. -/
def grantKey (s : State) (g : Grant) (use : String) : Option Bytes :=
  ((tenantOf s g.holder).bind (tget s.sec.tenantKeys)).map (fun k => vbytes (Config.kdf (k ++ ascii use ++ g.nonce)))

/-- Bytes of the unit in which a grant's contents travel: a line, or a sector that carries a tag (R392, R393). -/
def grantUnit (g : Grant) : Nat := if g.protect then 512 else 64

/-- Whole lines of tier 4 encrypted under a grant's key, with their device addresses as tweaks (R392, R611). -/
def farSeal (key : Bytes) (da : Nat) (b : Bytes) : Bytes :=
  (List.range (b.length / 64)).flatMap (fun i => vbytes (Config.xtsEncrypt key (da / 64 + i) (slice b (64 * i) 64)))

/-- Whole lines of tier 4 decrypted. -/
def farOpen (key : Bytes) (da : Nat) (b : Bytes) : Bytes :=
  (List.range (b.length / 64)).flatMap (fun i => vbytes (Config.xtsDecrypt key (da / 64 + i) (slice b (64 * i) 64)))

/-- The tag of a ciphertext sector of a protected grant (R393, R613). -/
def farTag (key : Bytes) (sec : Nat) (cipher : Bytes) : Bytes :=
  let a := leBytes 8 sec
  vbytes (Config.gcmTag (key.take 16) ((vbytes (Config.sm3 (cipher ++ a))).take 12) (cipher ++ a) [])

/-- Where a protected grant holds the tag of a sector: in its top sixty-fourth, in the order of the sectors (R393). -/
def farTagAt (g : Grant) (sec : Nat) : Nat := sec / 2 ^ 40 * 2 ^ 40 + grantLen g + sec % 2 ^ 40 / 512 * 8

/-- The sectors of a protected grant in what a tray has answered: the ciphertext and then the tags, that fail their check (R310,
R393). -/
def farBadTags (s : State) (g : Grant) (lo n : Nat) (b : Bytes) : List Nat :=
  if !g.protect then []
  else
    let key := (grantKey s g "DTAG").getD []
    ((List.range (n / 512)).filter (fun i => farTag key (lo + 512 * i) (slice b (512 * i) 512) != slice b (n + 8 * i) 8)).map
      (fun i => lo + 512 * i)

/-- A sector of a protected grant marked poisoned, with a record, once (R310, R658). -/
def farSectorBad (s : State) (g : Grant) (sec : Nat) : State :=
  if s.mem.badSectors.contains sec then s
  else
    logNow { s with mem := { s.mem with badSectors := s.mem.badSectors ++ [sec] } }
      { kind := 0x0106, severity := 3, tenant := tenantOf s g.holder, mid := g.holder, location := sec }

/-- The address at its tray of a tier-4 address: the offset within the grant above the tray base (R391). -/
def trayAddr (g : Grant) (da : Nat) : Nat := g.base + da % 2 ^ 40

/-- A read of tier 4 at its tray (R392, R393, R395): whole lines, or whole sectors with their tags, as `remote` brings them, are
decrypted here. -/
def readTray (s : State) (num : Nat) (g : Grant) (da n : Nat) (remote : RemoteRead) : State × Bytes × Bool :=
  let u := grantUnit g
  let lo := da / u * u
  let len := roundUp (da + n) u - lo
  let s := trayHeard (emit s (.trayRead g.tray g.far (trayAddr g lo) len)) num remote
  let (b, p) := remoteBytes (len + (if g.protect then len / 64 else 0)) remote
  match grantKey s g "DEPOT" with
  | none => (s, zeros n, true)
  | some key =>
    let s := if p then s else (farBadTags s g lo len b).foldl (fun s x => farSectorBad s g x) s
    let bad := s.mem.badSectors.any (fun x => decide (x < da + n) && decide (da < x + 512))
    (s, slice (farOpen key lo (b.take len)) (da - lo) n, p || bad)

/-- A write of tier 4 at its tray: whole lines, or whole sectors with their tags, encrypted here; what a unit at either end held
besides is read from the tray first (R311, R392, R393; log 35). -/
def writeTray (s : State) (g : Grant) (da : Nat) (b : Bytes) : State :=
  let u := grantUnit g
  let lo := da / u * u
  let len := roundUp (da + b.length) u - lo
  match grantKey s g "DEPOT" with
  | none => s
  | some key =>
    let (s, old) := if len = b.length then (s, []) else farBytes (emit s (.trayRead g.tray g.far (trayAddr g lo) len)) len
    let c := farSeal key lo (place (fit len old) (da - lo) b)
    let s := emit s (.trayWrite g.tray g.far (trayAddr g lo) c)
    if g.protect then
      let s := (List.range (len / 512)).foldl (fun s i => emit s (.trayWrite g.tray g.far (trayAddr g (farTagAt g (lo + 512 * i)))
        (farTag ((grantKey s g "DTAG").getD []) (lo + 512 * i) (slice c (512 * i) 512)))) s
      let full (x : Nat) : Bool := decide (da ≤ x) && decide (x + 512 ≤ da + b.length)
      { s with mem := { s.mem with badSectors := s.mem.badSectors.filter (fun x => !full x) } }
    else s

/-- A write to a tray charged on the port to it (R492). -/
def chargeTray (s : State) (g : Grant) (cls n : Nat) : State :=
  match poolSession s g.tray g.holder with
  | none => s
  | some k => match (sessOf s k).bind (sessPort s k) with
    | none => s
    | some p => charge s (10 + p) cls n

/-- Whether the lender of a handle cannot be reached: no session of the master leads there (R359). -/
def lenderGone (s : State) (mid num : Nat) (h : Handle) (da : Nat) : Bool := (poolSession s (poolAt num h da).1 mid).isNone

/-- A read of tier 3 at its lender, or of tier 4 at its tray. Where `wait` is set the answer of a lender is awaited on the
session. -/
def readFar (s : State) (mid da n : Nat) (wait : Bool) (remote : RemoteRead) : State × Bytes × Bool :=
  let (b, p) := remoteBytes n remote
  if daRange da = 3 then
    match masterHandle s mid da n with
    | none => (s, zeros n, true)
    | some (num, h) =>
      if (handleRefuses h false).isSome || lenderGone s mid num h da then (s, zeros n, true)
      else
        let (node, half, ext, off) := poolAt num h da
        (poolRead (emit s (.remoteRead mid da n)) mid node half ext off n wait da, b, p)
  else
    match masterGrant s mid da n with
    | none => (s, zeros n, true)
    | some (g, x) => if (grantRefuses x).isSome then (s, zeros n, true) else readTray s g x da n remote

/-- Whether this module refuses a read of tier 3 or 4 without sending it: its handle or grant does not serve it, or no session leads
to the lender (R355, R359, R395). -/
def farRefused (s : State) (mid da n : Nat) : Bool :=
  if daRange da = 3 then
    match masterHandle s mid da n with
    | none => true
    | some (num, h) => (handleRefuses h false).isSome || lenderGone s mid num h da
  else
    match masterGrant s mid da n with
    | none => true
    | some (_, x) => (grantRefuses x).isSome

/-- Bytes that came for an address on their own: whole lines of tier 4 are decrypted, those of tier 3 are as the lender sent them
(R392, R611). -/
def farPlain (s : State) (mid da n : Nat) (b : Bytes) : Bytes :=
  if daRange da = 4 then
    match (masterGrant s mid da n).bind (fun x => grantKey s x.2 "DEPOT") with
    | none => zeros n
    | some key => slice (farOpen key (lineOf da) (fit (lineSpan da n) b)) (da % 64) n
  else fit n b

/-- The length of what comes for n bytes at an address of tier 3 or 4: whole lines of tier 4 (R392). -/
def farLen (da n : Nat) : Nat := if daRange da = 4 then lineSpan da n else n

/-- A read for a master of any tier. -/
def readAny (s : State) (mid da n : Nat) (remote : RemoteRead) : State × Bytes × List Nat :=
  if daRange da ≤ 2 then rtRead s da n 0
  else
    let (s, b, p) := readFar s mid da n false remote
    (s, b, if p then (List.range (ceilDiv n 64)).map (fun i => lineOf da + 64 * i) else [])

/-- A write for a master of tier 3 or 4, in a class of this module (R348, R491). -/
def writeFar (s : State) (cls mid da : Nat) (b : Bytes) : State :=
  if daRange da = 3 then
    match masterHandle s mid da b.length with
    | none => s
    | some (num, h) =>
      match handleRefuses h true with
      | some rc => poolRefused s num h rc
      | none =>
        if lenderGone s mid num h da then poolRefused s num h rcPartnerAbsent
        else
        let (node, half, ext, off) := poolAt num h da
        poolWrite (emit s (.remoteWrite mid da b)) cls mid node half ext off b da
  else
    match masterGrant s mid da b.length with
    | none => s
    | some (n, x) => if (grantRefuses x).isSome then grantRefused s n x else writeTray (chargeTray s x cls b.length) x da b

/-- A write for a master of any tier; the class is that in which a far one leaves this module. -/
def writeAny (s : State) (cls mid da : Nat) (b : Bytes) : State :=
  if b.isEmpty then s
  else if daRange da ≤ 2 then rtWrite s mid da b
  else writeFar s cls mid da b

/-- A range of any tier filled with zeros (R144, R348, R355). -/
def zeroAny (s : State) (cls mid da n : Nat) : State :=
  if n = 0 then s
  else if daRange da ≤ 2 then dramZero (entriesDrop s (daHalf da) (lineOf da) (da + n)) da n
  else writeFar s cls mid da (zeros n)

/-! ### Free granules (R291 to R293, R303, R312, R316) -/

/-- The intervals of 2 MiB granules of a tier that are taken, as first and past-last granule numbers: regions,
page tables, plain homes, lent extents, the caches, retired granules, and those in ZEROING when `zeroing` is set. -/
def takenGranules (s : State) (tier : Nat) (h : Half) (zeroing : Bool) : List (Nat × Nat) :=
  let inTier (da : Nat) : Bool := daRange da == tier && daHalf da == h
  let g (da : Nat) : Nat := da / mib2
  ((s.regions.filter (fun r => inTier r.base)).map (fun r => (g r.base, g r.base + r.granules)))
  ++ ((s.kvs.filter (fun p => inTier p.2.tableBase)).map (fun p => (g p.2.tableBase, g p.2.tableBase + p.2.tableGranules)))
  ++ ((s.plain.granules.filter (fun p => inTier p.2.home)).map (fun p => (g p.2.home, g p.2.home + 512)))
  ++ ((s.pool.extents.filter (fun p => inTier p.2.base)).map (fun p => (g p.2.base, g p.2.base + 512)))
  ++ (if tier = 1 then
        let top := g (daMk 1 (halfBase 1 h + halfCap s 1 h))
        [(top - 512 * (s.plain.cache.get h).share, top)]
      else [])
  ++ ((s.flash.retiredGranules.filter (fun x => inTier (x * mib2))).map (fun x => (x, x + 1)))
  ++ (if zeroing then (s.zeroing.filter (fun x => inTier (x * mib2))).map (fun x => (x, x + 1)) else [])

/-- Whether a run of n granules from one meets none of a list of intervals. -/
def runFree (taken : List (Nat × Nat)) (lo n : Nat) : Bool :=
  taken.all (fun i => decide (i.2 ≤ lo) || decide (lo + n ≤ i.1))

/-- The lowest run of n granules in a half of a tier that no interval meets (R291). -/
def findRun (s : State) (tier : Nat) (h : Half) (n : Nat) (zeroing : Bool) : Option Nat :=
  let taken := takenGranules s tier h zeroing
  let lo := daMk tier (halfBase tier h) / mib2
  let hi := lo + halfCap s tier h / mib2
  let starts := (lo :: taken.map (·.2)).filter (fun x => decide (lo ≤ x) && decide (x + n ≤ hi) && runFree taken x n)
  starts.foldl (fun b x => match b with | none => some x | some y => some (min x y)) none

/-- Granules of a tenant in a tier: regions with their tags, and page tables in tier 1 (R560, R303). -/
def tenantUsed (s : State) (tenant tier : Nat) : Nat :=
  ((s.regions.filter (fun r => r.tenant == tenant && r.tier == tier)).map (·.granules)).foldl (· + ·) 0
    + (if tier = 1 then ((s.kvs.filter (fun p => p.2.tenant == tenant)).map (fun p => p.2.tableGranules)).foldl (· + ·) 0
       else 0)

/-- A tenant's quota for a tier, in granules (R554). -/
def tenantQuota (s : State) (tenant tier : Nat) : Nat :=
  match tget s.tenants tenant with
  | none => 0
  | some t => 512 * (if tier = 1 then t.t1 else t.t2)

/-- Granules that become free enter ZEROING: their bytes are overwritten, and narrow writes to them that still wait in the bindery
go with them (R293). -/
def startZeroing (s : State) (base n : Nat) : State :=
  let s := dramZero (entriesDrop s (daHalf base) base (base + n * mib2)) base (n * mib2)
  { s with zeroing := s.zeroing ++ ((List.range n).map (· + base / mib2)).filter (fun g => !s.zeroing.contains g) }

end Sys2Proof.Machine
end

