-- ==== Sys2Proof/Machine/DeskRegion.lean ====
section
/-! DEFINITION. Desk commands of group 0x03 but REGION_COPY: regions, working copies, key/value objects, plain
granules, the cache and its flush (R288 to R316, R559 to R562). -/

namespace Sys2Proof.Machine

/-! ### Regions -/

/-- A free run of granules taken for a new region, with its memory holding zeros under the owner's keys (R291,
R293). -/
def takeRegion (s : State) (r : Region) : State :=
  chargeZero (dramZero { s with regions := s.regions ++ [r] } r.base (r.granules * mib2)) r.base (r.granules * mib2)

/-- Whether tier 1 of a half waits for its LOST regions to be freed, or tier 2 for its package (R330, R654). -/
def tierClosed (s : State) (tier : Nat) (h : Half) : Bool :=
  !halfUp s h
    || (tier == 1 && s.regions.any (fun r => r.lost && r.tier == 1 && r.half == h))
    || (tier == 2 && (s.halves.get h).t2Failing)

/-- REGION_ALLOC (R289, R291, R293, R308, R560). It waits where its run still has granules in ZEROING, and for class 5 to have
room in the window (R501). -/
def regionAllocBody (s : State) (c : RunCmd) : State :=
  let tier := arg c 0
  let h := halfOf (arg c 1)
  let protect := natBit (arg c 2) 0
  let n := arg c 3
  let taken := if protect then n + ceilDiv n 64 else n
  let tenant := cmdTenant s c
  if tierClosed s tier h then failWith s c rcNoSpace
  else if tenantQuota s tenant tier < tenantUsed s tenant tier + taken then failWith s c rcNoSpace
  else
    match findRun s tier h taken true with
    | some g =>
      if !zeroOpen s (g * mib2) then s else
      let r : Region := { base := g * mib2, granules := taken, dataGranules := n, tier := tier, half := h, master := c.mid,
                          tenant := tenant, protect := protect }
      complete (takeRegion s r) c rcDone [.u 8 (g * mib2), .u 4 taken]
    | none => if (findRun s tier h taken false).isSome then s else failWith s c rcNoSpace

/-- REGION_ALLOC. -/
def execRegionAlloc (src : DeskSrc) (s : State) : Out := .next (deskRun 0x0301 regionAllocBody s src)

/-- What keeps a range from being freed (R292): payloads, colophons and tables of loaded tensors, working copies,
VALID pages, and coded forms of weight windows. -/
def rangeHolds (s : State) (span : Nat × Nat) : Bool :=
  s.tensors.any (fun p =>
    (masterSpans p.2.params p.2.pbase p.2.cbase p.2.tbase).any (spansMeet span)
      || (match p.2.wc with
          | some w => spansMeet span (wcSpan p.2.params w .h0) || spansMeet span (wcSpan p.2.params w .h1)
          | none => false))
  || s.kvs.any (fun p => p.2.pages.any (fun e => e.2.valid
      && spansMeet span (e.2.pda, 128 * (if p.2.format = 2 then 2 * p.2.d else p.2.d + p.2.d / 32))))
  || s.plain.windows.any (fun p => p.2.kind == .ingest
      && (masterSpans p.2.params p.2.pbase p.2.cbase p.2.tbase).any (spansMeet span))

/-- A region ends: its granules enter ZEROING (R293). -/
def dropRegion (s : State) (r : Region) : State :=
  startZeroing { s with regions := s.regions.filter (fun x => x.base != r.base) } r.base r.granules

/-- REGION_FREE (R290, R292). -/
def regionFreeBody (s : State) (c : RunCmd) : State :=
  let base := arg c 0
  if daRefused s c.mid base then failAddr s c base rcBadField
  else if daRange base = 3 ∨ daRange base = 4 then
    failWith s c (if reaches s c.mid base 1 false then rcBadField else rcNotPermitted)
  else
    match s.regions.find? (fun r => r.base == base && r.master == c.mid) with
    | none => failWith s c rcNotPermitted
    | some r =>
      if rangeHolds s (r.base, r.granules * mib2) then failWith s c rcConflict
      else complete (dropRegion s r) c rcDone []

/-- REGION_FREE. -/
def execRegionFree (src : DeskSrc) (s : State) : Out := .next (deskRun 0x0302 regionFreeBody s src)

/-! ### Working copies (R296 to R302) -/

/-- The loaded tensor of a master with a TAG. -/
def tensorByTag (s : State) (mid tag : Nat) : Option Tensor :=
  (s.tensors.find? (fun p => p.2.master == mid && p.2.params.tag == tag)).map (·.2)

/-- A tensor changed. -/
def tensorMod (s : State) (id : Nat) (f : Tensor → Tensor) : State := { s with tensors := tmod s.tensors id f }

/-- Whether a folio's fetch is outstanding: requested or arriving (R254). -/
def copyPending (c : FolioCopy) : Bool := c.state == .requested || c.state == .arriving

/-- Whether a copy keeps its granules: a step uses it, PIN holds it and it is not POISONED, or its data is still on the way (R254,
R259). -/
def copyHeld (c : FolioCopy) : Bool := !c.users.isEmpty || copyPending c || (c.pin && c.state != .poisoned)

/-- A part of a working copy lies in an unprotected region of the master in its half (R296, R309). -/
def wcPartCode (s : State) (mid : Nat) (p : TParams) (w : WorkCopy) (h : Half) : Nat :=
  let span := wcSpan p w h
  if span.2 = 0 then rcDone
  else if daRange span.1 ≠ 1 ∨ daHalf span.1 ≠ h ∨ span.1 % 512 ≠ 0 ∨ daRefused s mid span.1 then rcBadField
  else
    match masterRegion s mid span.1 1 with
    | none => rcNotPermitted
    | some r =>
      if touchesProtected s span.1 span.2 then rcBadField
      else if touchesLost s span.1 span.2 then rcConflict
      else if regionCovers r span.1 span.2 then rcDone
      else rcNoSpace

/-- The table images of a tensor written to a half of its working copy, in a class (R297, R491); `remote` brings those of a master
copy in tier 3 or 4. -/
def wcTables (s : State) (remote : RemoteRead) (t : Tensor) (w : WorkCopy) (cls : Nat) (h : Half) : State :=
  if t.params.ntab = 0 then s
  else
    let n := 16 * t.params.ntab
    let a := wcTabBase t.params w h
    let (s, b, _) := readAny (chargeRead s cls t.tbase n (.tier h)) t.master t.tbase n remote
    rtWrite (chargeWrite s cls a n (.tier h)) t.master a b

/-- Whether a fetch from a tensor's working copy is outstanding (R298). -/
def wcFetching (s : State) (id : Nat) : Bool :=
  s.eng.copies.any (fun p => copyPending p.2 && p.2.fromWc && (match p.1.2 with | .tile t _ => t == id | .page _ _ _ _ => false))

/-- A tensor's working copy ends; a FULL that is still copying ends with it, with CONFLICT (R298; DESIGN CHOICE of the code,
log 128). -/
def wcEnd (s : State) (t : Tensor) : State :=
  let s := wcStop s t
  tensorMod s t.id (fun t => { t with wc := none })

/-- WORKING_COPY NONE (R298): the copy is dropped at once, and the command completes when no fetch from it is outstanding. -/
def wcDropBody (s : State) (c : RunCmd) (t : Tensor) : State :=
  let s := wcEnd s t
  if wcFetching s t.id then runningSet s c (fun r => { r with acc := leBytes 8 t.id }) else complete s c rcDone []

/-- WORKING_COPY (R296 to R298). FULL holds its carrel until TILE_PRESENCE_SET has set every tile's bit. -/
def workingCopyBody (remote : RemoteRead) (s : State) (c : RunCmd) : State :=
  if !c.acc.isEmpty then (if wcFetching s (leVal c.acc) then s else complete s c rcDone [])
  else
    match tensorByTag s c.mid (arg c 0) with
    | none => failWith s c rcNotPermitted
    | some t =>
      if daRange t.pbase = 1 then failWith s c rcBadField
      else if arg c 1 = 0 then wcDropBody s c t
      else if t.wc.isSome then failWith s c rcConflict
      else
        let full := arg c 1 = 1
        let w : WorkCopy := { mode := if full then .full else .staged, half := halfOf (arg c 2), hs := arg c 3,
                              w0 := arg c 4, w1 := arg c 5, src := if full then some c.src else none }
        let rc0 := wcPartCode s c.mid t.params w .h0
        let rc1 := wcPartCode s c.mid t.params w .h1
        let bases := ([Half.h0, Half.h1].filter (fun h => (wcSpan t.params w h).2 != 0)).map (wcBase w)
        if rc0 ≠ rcDone then failAddrs s c bases rc0
        else if rc1 ≠ rcDone then failAddrs s c bases rc1
        else
          let s := wcTables (wcTables s remote t w 5 .h0) remote t w 5 .h1
          let s := tensorMod s t.id (fun t => { t with wc := some w })
          if full then cmdWait s c.src else complete s c rcDone []

/-- WORKING_COPY. -/
def execWorkingCopy (src : DeskSrc) (remote : RemoteRead) (s : State) : Out :=
  .next (deskRun 0x0304 (workingCopyBody remote) s src)

/-! ### Key/value objects (R185 to R189, R303 to R307) -/

/-- Bytes of a page (R189). -/
def pageBytes (k : KvObj) : Nat := 128 * (if k.format = 2 then 2 * k.d else k.d + k.d / 32)

/-- The key/value object that a handle names (R303). -/
def kvByHandle (s : State) (handle : Nat) : Option KvObj :=
  match tget s.kvs (handle % 2 ^ 32) with
  | none => none
  | some k => if k.gen = handle / 2 ^ 32 then some k else none

/-- A master's object by handle (R547). -/
def kvOf (s : State) (mid handle : Nat) : Option KvObj :=
  (kvByHandle s handle).bind (fun k => if k.master = mid then some k else none)

/-- The handle of an object. -/
def kvHandle (k : KvObj) : Nat := k.gen * 2 ^ 32 + k.idx

/-- Whether a call slip that waits or runs names an object (R305, R307). -/
def kvInUse (s : State) (handle : Nat) : Bool :=
  s.queues.any (fun q => q.2.waiting.any (fun t => t.block.kv.contains handle))
    || s.eng.ctxs.any (fun x => x.2.job.block.kv.contains handle)

/-- An object changed. -/
def kvMod (s : State) (idx : Nat) (f : KvObj → KvObj) : State := { s with kvs := tmod s.kvs idx f }

/-- An entry of a page table. -/
def pageOf (k : KvObj) (head run entry : Nat) : PageEntry := tgetD k.pages (head, run, entry) {}

/-- The 16 bytes of a page-table entry (R186). -/
def entryBytes (e : PageEntry) : Bytes :=
  leBytes 8 (e.pda + bitN e.valid * 2 ^ 63) ++ leBytes 2 e.fill
    ++ leBytes 2 (match e.tau with
      | some t => (BitVec.ofInt 16 t).toNat
      | none => 0x8000) ++ zeros 4

/-- Where an entry lies: heads in order, of each the key run and then the value run (R186, R303; DEDUCED, log 118). -/
def entryAt (k : KvObj) (head run i : Nat) : Nat := k.tableBase + 16 * ((2 * head + run) * k.maxPages + i)

/-- A page-table entry changed, in the object and in its table in tier 1 (R186, R187). -/
def kvPageSet (s : State) (idx head run i : Nat) (f : PageEntry → PageEntry) : State :=
  match tget s.kvs idx with
  | none => s
  | some k =>
    let p := f (pageOf k head run i)
    dramPut (kvMod s idx (fun k => { k with pages := tset k.pages (head, run, i) p })) (entryAt k head run i) (entryBytes p)

/-- The page table of a new object: every entry VALID 0, FILL 0, TAU_MAX 0x8000 (R303). -/
def emptyTable (entries : Nat) : Bytes := (List.replicate entries (entryBytes {})).flatten

/-- KV_CREATE (R303, R560). -/
def kvCreateBody (s : State) (c : RunCmd) : State :=
  let nh := arg c 0
  let d := arg c 2
  let mx := arg c 3
  let h := halfOf (arg c 4)
  let tenant := cmdTenant s c
  let n := ceilDiv (nh * 2 * mx * 16) mib2
  if tierClosed s 1 h ∨ tenantQuota s tenant 1 < tenantUsed s tenant 1 + n then failWith s c rcNoSpace
  else
    match findRun s 1 h n true with
    | none => if (findRun s 1 h n false).isSome then s else failWith s c rcNoSpace
    | some g =>
      if !zeroOpen s (g * mib2) then s else
      let idx := (leastFrom (fun i => !thas s.kvs i) (s.kvs.length + 1) 0).getD 0
      let gen := tgetD s.kvGen idx 0 + 1
      let k : KvObj := { idx := idx, gen := gen, master := c.mid, tenant := tenant, nh := nh, d := d, format := arg c 1,
                         maxPages := mx, half := h, tableBase := g * mib2, tableGranules := n }
      let s := { dramPut (chargeZero (dramZero s (g * mib2) (n * mib2)) (g * mib2) (n * mib2)) (g * mib2) (emptyTable (nh * 2 * mx)) with kvs := tset s.kvs idx k, kvGen := tset s.kvGen idx gen }
      complete s c rcDone [.u 8 (kvHandle k)]

/-- KV_CREATE. -/
def execKvCreate (src : DeskSrc) (s : State) : Out := .next (deskRun 0x0305 kvCreateBody s src)

/-- Whether a range meets a VALID page of a master's objects, entries of a list apart. -/
def pageClash (s : State) (mid : Nat) (idx : Nat) (skip : List (Nat × Nat × Nat)) (span : Nat × Nat) : Bool :=
  s.kvs.any (fun p => p.2.master == mid && p.2.pages.any (fun e =>
    e.2.valid && !(p.1 == idx && skip.contains e.1) && spansMeet span (e.2.pda, pageBytes p.2)))

/-- Whether any two ranges of a list meet. -/
def anyMeet : List (Nat × Nat) → Bool
  | [] => false
  | a :: r => r.any (spansMeet a) || anyMeet r

/-- The codes of R304 for a list of pages that are to replace the named entries. -/
def pagesCode (s : State) (mid : Nat) (k : KvObj) (keys : List (Nat × Nat × Nat)) (pdas : List Nat) : Nat :=
  let n := pageBytes k
  let tierBad (a : Nat) : Bool := decide (a % 512 ≠ 0) || !(daRange a == 1 || daRange a == 2 || daRange a == 3)
    || daRefused s mid a
  if pdas.any tierBad then rcBadField
  else if pdas.any (fun a => !reaches s mid a n false) then rcNotPermitted
  else if pdas.any (fun a => touchesLost s a n) then rcConflict
  else if pdas.any (fun a => pageClash s mid k.idx keys (a, n)) || anyMeet (pdas.map (fun a => (a, n))) then rcConflict
  else rcDone

/-- Page-table entries set (R304). -/
def setPages (s : State) (idx : Nat) (sets : List ((Nat × Nat × Nat) × Nat)) : State :=
  sets.foldl (fun s e => kvPageSet s idx e.1.1 e.1.2.1 e.1.2.2 (fun p => { p with pda := e.2, valid := true })) s

/-- Page-table entries cleared (R305). -/
def clearPages (s : State) (idx : Nat) (keys : List (Nat × Nat × Nat)) : State :=
  keys.foldl (fun s e => kvPageSet s idx e.1 e.2.1 e.2.2 (fun _ => {})) s

/-- KV_PAGES (R304, R305, R561). -/
def kvPagesBody (s : State) (c : RunCmd) : State :=
  match kvOf s c.mid (arg c 0) with
  | none => failWith s c rcNotPermitted
  | some k =>
    let head := arg c 1
    let run := arg c 2
    let first := arg c 4
    let count := arg c 5
    let keys := (List.range count).map (fun i => (head, run, first + i))
    if k.nh ≤ head ∨ k.maxPages < first + count then failWith s c rcBadField
    else if arg c 3 = 0 then
      let pdas := (List.range count).map (fun i => argElem c 6 8 i)
      let rc := pagesCode s c.mid k keys pdas
      if rc ≠ rcDone then failAddrs s c pdas rc
      else complete (setPages s k.idx (keys.zip pdas)) c rcDone []
    else if kvInUse s (kvHandle k) ∧ keys.any (fun e => decide (0 < (pageOf k e.1 e.2.1 e.2.2).fill)) then
      failWith s c rcConflict
    else complete (clearPages s k.idx keys) c rcDone []

/-- KV_PAGES. -/
def execKvPages (src : DeskSrc) (s : State) : Out := .next (deskRun 0x0306 kvPagesBody s src)

/-- Whether a fetch of a page from an address is outstanding. -/
def pageFetching (s : State) (f : FolioId) (addr : Nat) : Bool :=
  s.eng.copies.any (fun p => copyPending p.2 && p.1.2 == f && p.2.addr == addr)

/-- KV_MOVE (R304, R306): the page is copied in class 5 and its PDA written; the command completes once no fetch of the old
location, which it keeps meanwhile, is outstanding. `remote` brings a page that lies in tier 3. -/
def kvMoveBody (remote : RemoteRead) (s : State) (c : RunCmd) : State :=
  match kvOf s c.mid (arg c 0) with
  | none => failWith s c rcNotPermitted
  | some k =>
    let key := (arg c 1, arg c 2, arg c 3)
    let f := FolioId.page k.idx key.1 key.2.1 key.2.2
    let e := pageOf k key.1 key.2.1 key.2.2
    let pda := arg c 4
    if !c.acc.isEmpty then (if pageFetching s f (leVal c.acc) then s else complete s c rcDone [])
    else if k.nh ≤ key.1 ∨ k.maxPages ≤ key.2.2 then failWith s c rcBadField
    else
      let rc := pagesCode s c.mid k [] [pda]
      if rc ≠ rcDone then failAddrs s c [pda] rc
      else if e.fill ≠ 128 then failWith s c rcConflict
      else
        let n := pageBytes k
        let (s, b, bad) := readAny s c.mid e.pda n remote
        let s := writeAny (chargeRead s 5 e.pda n (.tier k.half)) 5 c.mid pda b
        let s := if daRange pda ≤ 2 then (bad.map (fun l => l - lineOf e.pda + pda)).foldl linePoison s else s
        let s := setPages (chargeWrite s 5 pda n (.tier k.half)) k.idx [(key, pda)]
        if pageFetching s f e.pda then runningSet s c (fun r => { r with acc := leBytes 8 e.pda }) else complete s c rcDone []

/-- KV_MOVE. -/
def execKvMove (src : DeskSrc) (remote : RemoteRead) (s : State) : Out := .next (deskRun 0x0307 (kvMoveBody remote) s src)

/-- An object ends: its page table's granules enter ZEROING, and its guard record ends with it (R307, R86). -/
def dropKv (s : State) (k : KvObj) : State :=
  let keep (f : FolioId) : Bool := match f with
    | .page o _ _ _ => o != k.idx
    | .tile _ _ => true
  startZeroing { s with kvs := tdel s.kvs k.idx,
                        eng := { s.eng with copies := s.eng.copies.filter (fun p => keep p.1.2) } }
    k.tableBase k.tableGranules

/-- KV_FREE (R307). -/
def kvFreeBody (s : State) (c : RunCmd) : State :=
  match kvOf s c.mid (arg c 0) with
  | none => failWith s c rcNotPermitted
  | some k =>
    if kvInUse s (kvHandle k) then failWith s c rcConflict
    else complete (dropKv s k) c rcDone []

/-- KV_FREE. -/
def execKvFree (src : DeskSrc) (s : State) : Out := .next (deskRun 0x0308 kvFreeBody s src)

/-- A guard record's 64 bytes (R83). -/
def guardBytes (g : GuardRec) : Bytes :=
  leBytes 4 g.wsat ++ leBytes 4 g.wsatPos ++ leBytes 4 g.wflush ++ leBytes 4 g.osat ++ leBytes 4 g.ononfin
    ++ leBytes 4 g.split ++ leBytes 4 g.unsplit ++ leBytes 4 g.bandpass ++ leBytes 4 g.sentRuns ++ leBytes 4 g.sentFails
    ++ leBytes 2 g.lastProbe ++ leBytes 1 g.lastOutcome ++ leBytes 1 g.sentState ++ zeros 4 ++ leBytes 8 g.expStall
    ++ leBytes 8 g.lastFailTime

/-- A guard record as a command of a cycle returns it with CLEAR: without the events of that cycle (R85, log 12). -/
def guardShown (now : Nat) (g : Guard) : GuardRec :=
  match g.before with
  | some (t, r) => if t = now then r else g.toGuardRec
  | none => g.toGuardRec

/-- A guard record cleared: every counter is zero but for the events of this cycle, which are added after the clear (R85, log
12). -/
def guardClear (now : Nat) (g : Guard) : Guard :=
  let r := guardShown now g
  { g with
    wsat := g.wsat - r.wsat, wflush := g.wflush - r.wflush, osat := g.osat - r.osat, ononfin := g.ononfin - r.ononfin
    split := g.split - r.split, unsplit := g.unsplit - r.unsplit, bandpass := g.bandpass - r.bandpass
    sentRuns := g.sentRuns - r.sentRuns, sentFails := g.sentFails - r.sentFails, expStall := g.expStall - r.expStall
    before := some (now, { wsatPos := r.wsatPos, lastProbe := r.lastProbe, lastOutcome := r.lastOutcome,
                           sentState := r.sentState, lastFailTime := r.lastFailTime }) }

/-- KV_GUARDS (R86). -/
def kvGuardsBody (s : State) (c : RunCmd) : State :=
  match kvOf s c.mid (arg c 0) with
  | none => failWith s c rcNotPermitted
  | some k =>
    if arg c 1 = 1 then
      completeOut (kvMod s k.idx (fun k => { k with guard := guardClear s.now k.guard })) c rcDone
        (guardBytes (guardShown s.now k.guard)) []
    else completeOut s c rcDone (guardBytes k.guard.toGuardRec) []

/-- KV_GUARDS. -/
def execKvGuards (src : DeskSrc) (s : State) : Out := .next (deskRun 0x030C kvGuardsBody s src)

/-! ### Plain granules, the cache and its flush (R312 to R328, R466, R562) -/

/-- The access a master has to a granule: read and write (R312). -/
def granAccess (g : PlainGran) (mid : Nat) : Bool × Bool :=
  if g.owner = mid then (true, true)
  else match g.access.find? (fun a => a.1 == mid) with
    | some (_, r, w) => (r, w)
    | none => (false, false)

/-- The ways of a half whose block passes a test. -/
def waysWhere (s : State) (h : Half) (p : Way → Bool) : List (Nat × Nat) :=
  ((s.plain.cache.get h).ways.filter (fun e => p e.2)).map (·.1)

/-- Whether a way holds a block of a granule. -/
def wayInGran (g : Nat) (w : Way) : Bool := w.block / 2 ^ 18 == g

/-- Dirty lines of the granules from `first`, `count` of them, written back, their bindery entries first (R328,
R333). -/
def flushGranules (s : State) (first count : Nat) : State :=
  let inGran (e : BinderyEntry) : Bool := daRange e.line == 8 && decide (first ≤ daOff e.line / gib)
    && decide (daOff e.line / gib < first + count)
  let p (w : Way) : Bool := decide (first ≤ w.block / 2 ^ 18) && decide (w.block / 2 ^ 18 < first + count)
  let s := retireWhere (retireWhere s .h0 inGran) .h1 inGran
  let s := (waysWhere s .h0 p).foldl (fun s k => writeBackWay s .h0 k) s
  (waysWhere s .h1 p).foldl (fun s k => writeBackWay s .h1 k) s

/-- The granules from `first`, `count` of them, flushed, and their blocks invalidated (R314, R315). -/
def dropGranules (s : State) (first count : Nat) : State :=
  let p (w : Way) : Bool := decide (first ≤ w.block / 2 ^ 18) && decide (w.block / 2 ^ 18 < first + count)
  let s := flushGranules s first count
  let s := (waysWhere s .h0 p).foldl (fun s k => dropWay s .h0 k) s
  (waysWhere s .h1 p).foldl (fun s k => dropWay s .h1 k) s

/-- A half's cache written back and emptied. -/
def emptyCache (s : State) (h : Half) : State :=
  let ks := waysWhere s h (fun _ => true)
  ks.foldl (fun s k => dropWay (writeBackWay s h k) h k) s

/-- A Dynamic Capacity event posted to the host: granule and whether it adds (R466, R467). -/
def postDcEvent (s : State) (g : Nat) (add : Bool) : State :=
  emit { s with host := { s.host with events := s.host.events ++ [(s.host.nextEvent, 2 * g + bitN add)]
                                      nextEvent := s.host.nextEvent + 1 } } (.dcEvent g add)

/-- ACC entries of PLAIN_GRANULE (R562). -/
def accEntries (c : RunCmd) : List Nat := (List.range 8).map (fun i => argElem c 6 2 i)

/-- Whether OWNER and ACC name masters of one tenant (R562). -/
def granFieldsOk (s : State) (c : RunCmd) : Bool :=
  let n := arg c 5
  let es := accEntries c
  match tenantOf s (arg c 4) with
  | none => false
  | some t =>
    (es.take n).all (fun e => tenantOf s (e % 4096) == some t)

/-- A granule leaves the plain face: its home enters ZEROING (R314). -/
def granuleGone (s : State) (g : Nat) (p : PlainGran) : State :=
  startZeroing { s with plain := { s.plain with granules := tdel s.plain.granules g }
                        host := { s.host with dcExtents := s.host.dcExtents.filter (· != g) } } p.home 512

/-- Whether a removal that a command asked for is past its switch tick. -/
def leavingFor (p : PlainGran) (src : DeskSrc) : Bool :=
  match p.state with
  | .leaving x _ => x == src
  | .removing _ _ => false
  | .adding _ _ => false
  | .inService => false

/-- What follows the switch tick of a removal (R314): once requests already matched have finished, the granule's blocks are
written back and invalidated, and its home enters ZEROING. -/
def granuleLeave (s : State) (c : RunCmd) (g : Nat) (p : PlainGran) : State :=
  if p.state = .leaving c.src s.now
      ∨ s.plain.waits.any (fun w => decide (w.off / gib ≤ g) && decide (g ≤ (w.off + w.len - 1) / gib)) then s
  else complete (granuleGone (dropGranules s g 1) g p) c rcDone []

/-- PLAIN_GRANULE (R26, R312, R314, R466, R562): it takes a home and asks the host; the host's answer, or 10 s, ends it, and a
removal goes on once its switch tick has passed. A plain access to the granule in the command's cycle makes it CONFLICT. -/
def plainGranuleBody (s : State) (c : RunCmd) : State :=
  let g := arg c 3
  if arg c 0 = 0 then
    let h := halfOf (arg c 1)
    if !granFieldsOk s c then failWith s c rcBadField
    else if thas s.plain.granules g then failWith s c rcConflict
    else if tierClosed s 2 h then failWith s c rcNoSpace
    else
      match findRun s 2 h 512 true with
      | none => if (findRun s 2 h 512 false).isSome then s else failWith s c rcNoSpace
      | some b =>
        if !zeroOpen s (b * mib2) then s else
        let p : PlainGran := { half := h, home := b * mib2, owner := arg c 4, tenant := (tenantOf s (arg c 4)).getD 0,
                               access := ((accEntries c).take (arg c 5)).map (fun e => (e % 4096, natBit e 12, natBit e 13)),
                               protect := natBit (arg c 2) 0, state := .adding c.src s.now }
        let s := chargeZero (dramZero s (b * mib2) gib) (b * mib2) gib
        let s := { s with plain := { s.plain with granules := tset s.plain.granules g p } }
        cmdWait (postDcEvent s g true) c.src
  else
    match tget s.plain.granules g with
    | none => failWith s c rcConflict
    | some p =>
      if leavingFor p c.src then granuleLeave s c g p
      else if p.state ≠ .inService ∨ granInWindow s g ∨ p.accessedAt = some s.now then failWith s c rcConflict
      else
        let s := { s with plain := { s.plain with
          granules := tset s.plain.granules g { p with state := .removing c.src s.now } } }
        cmdWait (postDcEvent s g false) c.src

/-- PLAIN_GRANULE. -/
def execPlainGranule (src : DeskSrc) (s : State) : Out := .next (deskRun 0x0309 plainGranuleBody s src)

/-- Whether the top `share` GiB of a half's tier 1 are free of regions and page tables (R316). -/
def topFree (s : State) (h : Half) (share : Nat) : Bool :=
  let top := daMk 1 (halfBase 1 h + halfCap s 1 h)
  let lo := top - share * gib
  decide (share * gib ≤ halfCap s 1 h)
    && s.regions.all (fun r => !(r.tier == 1 && r.half == h) || decide (regionEnd r ≤ lo))
    && s.kvs.all (fun p => p.2.half != h || decide (p.2.tableBase + p.2.tableGranules * mib2 ≤ lo))

/-- PLAIN_FLUSH (R328). -/
def plainFlushBody (s : State) (c : RunCmd) : State :=
  let first := arg c 0
  let count := arg c 1
  let mayNot (g : Nat) : Bool := match granAt s (g * gib) with
    | none => true
    | some p => let a := granAccess p c.mid; !(a.1 || a.2)
  if c.mid ≠ 1 ∧ (List.range count).any (fun i => mayNot (first + i)) then failWith s c rcNotPermitted
  else complete (flushGranules s first count) c rcDone []

/-- PLAIN_FLUSH. -/
def execPlainFlush (src : DeskSrc) (s : State) : Out := .next (deskRun 0x030B plainFlushBody s src)

/-- GRANULE_ZEROING_END (R293): a granule's overwriting in class 5 ends, and it is free. It waits while class 5 is at its cap
(R501). -/
def execGranuleZeroingEnd (addr : Nat) (s : State) : Out :=
  let g := addr / mib2
  if s.zeroing.contains g ∧ zeroOpen s (g * mib2) then
    .next (chargeZero { s with zeroing := s.zeroing.filter (fun x => x != g) } (g * mib2) mib2)
  else .next s

end Sys2Proof.Machine
end

