-- ==== Sys2Proof/Machine/Num.lean ====
section
/-! DEFINITION. Numbers: element encodings, exact dyadic values and the one rounding into an output format (chapter
2). -/

namespace Sys2Proof.Machine

/-! ### Exact values -/

/-- The exact value sig × 2^exp. -/
structure Dy where
  sig : Int
  exp : Int
  deriving DecidableEq, Repr

/-- Zero. -/
def dyZero : Dy := ⟨0, 0⟩

/-- A significand moved to a lower exponent, which is exact. -/
def dyAlign (x : Dy) (e : Int) : Int := x.sig * (2 ^ (x.exp - e).toNat : Nat)

/-- Exact sum. -/
def dyAdd (x y : Dy) : Dy :=
  if x.sig = 0 then y
  else if y.sig = 0 then x
  else
    let e := min x.exp y.exp
    ⟨dyAlign x e + dyAlign y e, e⟩

/-- Exact negation. -/
def dyNeg (x : Dy) : Dy := ⟨-x.sig, x.exp⟩

/-- Exact difference. -/
def dySub (x y : Dy) : Dy := dyAdd x (dyNeg y)

/-- Exact product. -/
def dyMul (x y : Dy) : Dy := ⟨x.sig * y.sig, x.exp + y.exp⟩

/-- Multiplication by a power of two. -/
def dyScale (x : Dy) (k : Int) : Dy := ⟨x.sig, x.exp + k⟩

/-- Magnitude. -/
def dyAbs (x : Dy) : Dy := ⟨x.sig.natAbs, x.exp⟩

/-- Whether x is less than y. -/
def dyLt (x y : Dy) : Bool := decide ((dySub x y).sig < 0)

/-- Bits of a number's binary form. -/
def bitLen (n : Nat) : Nat := if n = 0 then 0 else n.log2 + 1

/-- ⌊log₂ |x|⌋ of a nonzero value. -/
def dyLog2 (x : Dy) : Int := (bitLen x.sig.natAbs : Int) + x.exp - 1

/-- A value that may be special. -/
inductive XVal where
  | nan
  | inf (neg : Bool)
  | fin (d : Dy)
  deriving DecidableEq, Repr

/-! ### Operands (R36 to R45) -/

/-- An operand: NaN, an infinity, or a sign, a significand and an LSB exponent (R41). -/
inductive Opnd where
  | nan
  | inf (neg : Bool)
  | fin (neg : Bool) (s : Nat) (l : Int)
  deriving DecidableEq, Repr

/-- An E4M3 element (R36). -/
def e4m3 (b : Byte) : Opnd :=
  let e := b.toNat / 8 % 16
  let m := b.toNat % 8
  let neg := b.getLsbD 7
  if e = 15 ∧ m = 7 then .nan
  else if e = 0 then .fin neg m (-9)
  else .fin neg (8 + m) ((e : Int) - 10)

/-- An E5M2 element (R36). -/
def e5m2 (b : Byte) : Opnd :=
  let e := b.toNat / 4 % 32
  let m := b.toNat % 4
  let neg := b.getLsbD 7
  if e = 31 then (if m = 0 then .inf neg else .nan)
  else if e = 0 then .fin neg m (-16)
  else .fin neg (4 + m) ((e : Int) - 17)

/-- An FP8 element of either format. -/
def fp8 (e5 : Bool) (b : Byte) : Opnd := if e5 then e5m2 b else e4m3 b

/-- An FP8 element under its block's scale; a scale of 0xFF makes it NaN (R37, R41, R59). -/
def scaled (x : Opnd) (scale : Byte) : Opnd :=
  if scale = 0xFF then .nan
  else match x with
    | .fin neg s l => .fin neg s (l + (scale.toNat : Int) - 127)
    | .nan => .nan
    | .inf neg => .inf neg

/-- A BF16 element as its high and low digits (R40, R41). A special element travels as both. -/
def bf16Digits (w : Nat) : Opnd × Opnd :=
  let neg := natBit w 15
  let e : Nat := w / 128 % 256
  let f : Nat := w % 128
  if e = 255 then (if f = 0 then (.inf neg, .inf neg) else (.nan, .nan))
  else
    let m : Nat := if e = 0 then f else 128 + f
    let e' : Int := if e = 0 then 1 else (e : Int)
    (.fin neg (m / 16 : Nat) (e' - 130), .fin neg (m % 16 : Nat) (e' - 134))

/-- An EWF word under a tile bias (R42, R43). -/
def ewfOpnd (w : Nat) (tb : Int) : Opnd :=
  let e := w / 64 % 32
  if e = 0 then .fin false 0 0 else .fin (natBit w 11) (64 + w % 64) ((e : Int) - 21 + tb)

/-- The exact value of a finite operand. -/
def opndVal (x : Opnd) : XVal :=
  match x with
  | .nan => .nan
  | .inf neg => .inf neg
  | .fin neg s l => .fin ⟨if neg then -(s : Int) else s, l⟩

/-- An FP32 element. -/
def fp32 (w : Nat) : XVal :=
  let neg := natBit w 31
  let e : Nat := w / 2 ^ 23 % 256
  let f : Nat := w % 2 ^ 23
  if e = 255 then (if f = 0 then .inf neg else .nan)
  else
    let m : Nat := if e = 0 then f else 2 ^ 23 + f
    let l : Int := if e = 0 then -149 else (e : Int) - 150
    .fin ⟨if neg then -(m : Int) else m, l⟩

/-- A BF16 element's exact value. -/
def bf16 (w : Nat) : XVal := fp32 (w * 65536)

/-! ### The final rounding (R60 to R64) -/

/-- An output format: precision with the hidden bit, exponent of the subnormal step, largest biased exponent code and
fraction of the largest finite value, and width in bytes. -/
structure Fmt where
  prec : Nat
  step : Int
  maxE : Nat
  maxF : Nat
  bytes : Nat
  deriving DecidableEq, Repr

/-- FP32 (R61). -/
def fmtFp32 : Fmt := { prec := 24, step := -149, maxE := 254, maxF := 2 ^ 23 - 1, bytes := 4 }
/-- BF16 (R61). -/
def fmtBf16 : Fmt := { prec := 8, step := -133, maxE := 254, maxF := 127, bytes := 2 }
/-- E4M3 (R61). -/
def fmtE4m3 : Fmt := { prec := 4, step := -9, maxE := 15, maxF := 6, bytes := 1 }
/-- E5M2 (R61). -/
def fmtE5m2 : Fmt := { prec := 3, step := -16, maxE := 30, maxF := 3, bytes := 1 }

/-- m / 2^k to the nearest integer, ties to even. -/
def rneShift (m k : Nat) : Nat :=
  let q := m / 2 ^ k
  let r := m % 2 ^ k
  if 2 * r > 2 ^ k ∨ (2 * r = 2 ^ k ∧ q % 2 = 1) then q + 1 else q

/-- m × 2^e rounded onto the grid of step 2^g. -/
def onGrid (m : Nat) (e g : Int) : Nat :=
  if g ≤ e then m * 2 ^ (e - g).toNat else rneShift m (g - e).toNat

/-- A magnitude rounded to a format's precision, onto its subnormal grid below the smallest normal, with an unbounded
exponent above (R61): significand and its exponent. -/
def roundMag (f : Fmt) (m : Nat) (e : Int) : Nat × Int :=
  if m = 0 then (0, f.step)
  else
    let g := max ((bitLen m : Int) + e - f.prec) f.step
    let q := onGrid m e g
    if q = 2 ^ f.prec then (2 ^ (f.prec - 1), g + 1) else (q, g)

/-- Biased exponent code and fraction of a rounded magnitude. -/
def encMag (f : Fmt) (r : Nat × Int) : Nat × Nat :=
  let hid := 2 ^ (f.prec - 1)
  if r.1 < hid then (0, r.1) else ((r.2 - f.step).toNat + 1, r.1 - hid)

/-- Sign, exponent code and fraction as a word. -/
def packWord (f : Fmt) (neg : Bool) (e m : Nat) : Nat :=
  let hid := 2 ^ (f.prec - 1)
  e * hid + m + (if neg then 2 ^ (8 * f.bytes - 1) else 0)

/-- Whether an exponent code and fraction are above a format's largest finite value. -/
def aboveMax (f : Fmt) (e m : Nat) : Bool := decide (f.maxE < e) || (e == f.maxE && decide (f.maxF < m))

/-- The canonical NaN of a format (R61). -/
def canonNan (f : Fmt) : Nat :=
  if f.bytes = 4 then 0x7FC00000 else if f.bytes = 2 then 0x7FC0 else if f.prec = 4 then 0x7F else 0x7E

/-- What an output above the largest finite value becomes: an infinity, or in FP8 the largest finite (R61). -/
def satWord (f : Fmt) (neg : Bool) : Nat :=
  if f.bytes = 1 then packWord f neg f.maxE f.maxF else packWord f neg 255 0

/-- The word of an infinity: NaN in E4M3 (R60). -/
def infWord (f : Fmt) (neg : Bool) : Nat :=
  if f.bytes = 1 then (if f.prec = 4 then canonNan f else packWord f neg 31 0) else packWord f neg 255 0

/-- A rounded output with the guard events it raises (R79). -/
structure Rnd where
  word : Nat
  sat : Bool := false
  nonfin : Bool := false
  deriving DecidableEq, Repr

/-- The one rounding of an output (R60 to R62). -/
def roundOut (f : Fmt) (x : XVal) : Rnd :=
  match x with
  | .nan => { word := canonNan f, nonfin := true }
  | .inf neg => { word := infWord f neg, nonfin := true }
  | .fin d =>
    let neg := decide (d.sig < 0)
    let (e, m) := encMag f (roundMag f d.sig.natAbs d.exp)
    if aboveMax f e m then { word := satWord f neg, sat := true } else { word := packWord f neg e m }

/-! ### MXFP8 blocks and splitting (R63, R64, R72, R73) -/

/-- The FP8 format of an activation. -/
def fmtFp8 (e5 : Bool) : Fmt := if e5 then fmtE5m2 else fmtE4m3

/-- The largest magnitude among the finite values of a block. -/
def blockMax (xs : List XVal) : Dy :=
  xs.foldl (fun b x => match x with
    | .fin d => if dyLt b (dyAbs d) then dyAbs d else b
    | .nan => b
    | .inf _ => b) dyZero

/-- Whether a value is finite. -/
def isFin (x : XVal) : Bool :=
  match x with
  | .fin _ => true
  | .nan => false
  | .inf _ => false

/-- The exponent X of a block of MXFP8 output (R63). -/
def blockX (e5 : Bool) (ymax : Dy) : Int :=
  let x := dyLog2 ymax - (if e5 then 15 else 8)
  let y := dyScale ymax (-x)
  let (e, m) := encMag (fmtFp8 e5) (roundMag (fmtFp8 e5) y.sig.natAbs y.exp)
  let x := if aboveMax (fmtFp8 e5) e m then x + 1 else x
  max (-127) (min 127 x)

/-- A rounded block: its scale byte and its elements (R63, R64). -/
structure Blk where
  scale : Byte
  elems : List Rnd
  deriving DecidableEq, Repr

/-- A value times a power of two. -/
def xScale (x : XVal) (k : Int) : XVal :=
  match x with
  | .fin d => .fin (dyScale d k)
  | .nan => .nan
  | .inf n => .inf n

/-- A block of 32 values rounded to MXFP8 (R63, R64). -/
def encBlock (e5 : Bool) (xs : List XVal) : Blk :=
  if xs.all (fun x => !isFin x) then { scale := 0x7F, elems := xs.map (roundOut (fmtFp8 e5)) }
  else
    let ymax := blockMax xs
    if ymax.sig = 0 then
      { scale := 0, elems := xs.map (fun x => if isFin x then { word := 0 } else roundOut (fmtFp8 e5) x) }
    else
      let x := blockX e5 ymax
      { scale := BitVec.ofInt 8 (x + 127), elems := xs.map (fun v => roundOut (fmtFp8 e5) (xScale v (-x))) }

/-- The exponent field of an FP8 byte. -/
def fp8Exp (e5 : Bool) (w : Nat) : Nat := if e5 then w / 4 % 32 else w / 8 % 16

/-- Whether a block meets the split criterion, with its hi image at hand (R72). -/
def splitCrit (e5 : Bool) (xs : List XVal) (b : Blk) : Bool :=
  xs.all isFin && (xs.zip b.elems).any (fun p => match p.1 with
    | .fin d => d.sig != 0 && fp8Exp e5 p.2.word == 0
    | .nan => false
    | .inf _ => false)

/-- The residuals of a block (R73). -/
def residuals (e5 : Bool) (xs : List XVal) (b : Blk) : List XVal :=
  (xs.zip b.elems).map (fun p => match p.1, opndVal (scaled (fp8 e5 (BitVec.ofNat 8 p.2.word)) b.scale) with
    | .fin x, .fin h => .fin (dySub x h)
    | _, _ => .fin dyZero)

/-- Bytes of a block's elements. -/
def blkBytes (b : Blk) : Bytes := b.elems.map (fun r => BitVec.ofNat 8 r.word)

end Sys2Proof.Machine
end

