-- ==== Sys2Proof/Machine/Folio.lean ====
section
/-! DEFINITION. Folios: the colophon, the checks of a folio, and reconstruction to EWF words by the LRS, PLAIN and ENT
methods (chapter 4). -/

namespace Sys2Proof.Machine

/-! ### Conversion to EWF (R114) -/

/-- A reconstructed word with its guard events. -/
structure Ewf where
  word : Nat
  clamp : Bool := false
  flush : Bool := false
  deriving DecidableEq, Repr

/-- to_ewf (R114). -/
def toEwf (neg : Bool) (m : Nat) (l : Int) : Ewf :=
  if m = 0 then { word := 0 }
  else
    let n := bitLen m
    let q := if n ≤ 7 then m * 2 ^ (7 - n) else rneShift m (n - 7)
    let (sig, n) := if q = 128 then (64, n + 1) else (q, n)
    let x : Int := (n : Int) + l + 14
    if x < 1 then { word := 0, flush := true }
    else if 31 < x then { word := (if neg then 2048 else 0) + 0x7FF, clamp := true }
    else { word := (if neg then 2048 else 0) + x.toNat * 64 + (sig - 64) }

/-! ### Parameters (R105, R113, R116, R118, R121) -/

/-- CB: length of the code region of an LRS alphabet (R116). -/
def codeRegion (alph : Nat) : Nat :=
  if alph = 0 then 2048 else if alph = 1 then 3277 else if alph = 2 ∨ alph = 3 then 4096 else 6144

/-- Element bytes of a PLAIN alphabet (R121). -/
def plainBytes (alph : Nat) : Nat := if alph = 8 then 8192 else if alph = 9 ∨ alph = 0xA then 12288 else 16384

/-- Whether a tensor's parameters are ones R105 lists. -/
def paramsOk (p : TParams) : Bool :=
  let nt := nTiles p
  decide (1 ≤ nt) && decide (nt ≤ 0xFFFFFFFF) &&
  (match p.method with
   | 0 => p.rank == 0 && p.ntab == 0 && decide (8 ≤ p.alphabet) && decide (p.alphabet ≤ 0xD)
     && p.q == (plainBytes p.alphabet + 512) / 512
   | 1 => decide (1 ≤ p.rank) && decide (p.rank ≤ 4) && p.ntab == 0 && decide (p.alphabet ≤ 5)
     && decide (ceilDiv (codeRegion p.alphabet + 256 * p.rank) 512 ≤ p.q) && decide (p.q ≤ 40)
   | 2 => p.rank == 0 && decide (1 ≤ p.ntab) && decide (p.ntab ≤ 16) && (p.alphabet == 8 || p.alphabet == 0xE)
     && decide (5 ≤ p.q) && decide (p.q ≤ 40)
   | _ => false)

/-- The parameter record P (R136). -/
def parseP (b : Bytes) : TParams :=
  { method := leAt b 0 1, alphabet := leAt b 1 1, rank := leAt b 2 1, q := leAt b 3 1, ntab := leAt b 4 1,
    nm := leAt b 8 4, rows := leAt b 0xC 4, cols := leAt b 0x10 4, tag := leAt b 0x14 4 }

/-- Whether the reserved fields of a parameter record are zero. -/
def parseOk (b : Bytes) : Bool := zeroAt b 5 3 && zeroAt b 0x18 8

/-! ### The colophon (R108, R109) -/

/-- A signed value of w bits. -/
def signOf (w n : Nat) : Int := if n < 2 ^ (w - 1) then n else (n : Int) - (2 ^ w : Nat)

/-- The fields of a colophon (R108). -/
structure Colophon where
  method : Nat
  alphabet : Nat
  rank : Nat
  tb : Int
  step : Nat
  etab : Nat
  zero : Bool
  clamps : Bool
  flushes : Bool
  q : Nat
  tile : Nat
  tag : Nat
  check : Nat
  reservedOk : Bool
  deriving DecidableEq, Repr

/-- A colophon read from its 32 bytes (R108). -/
def parseColophon (b : Bytes) : Colophon :=
  let v := leAt b 0 8
  { method := natField v 0 4, alphabet := natField v 4 4, rank := natField v 8 3, tb := signOf 7 (natField v 12 7),
    step := natField v 20 3, etab := natField v 24 4, zero := natBit v 28, clamps := natBit v 29,
    flushes := natBit v 30, q := natField v 32 6, tile := leAt b 8 4, tag := leAt b 12 4, check := leAt b 28 4,
    reservedOk := !natBit v 11 && !natBit v 19 && !natBit v 23 && !natBit v 31 && natField v 38 26 == 0 && zeroAt b 16 12 }

/-- The bytes of a colophon before its CHECK. -/
def colophonBytes (c : Colophon) : Bytes :=
  let v := c.method + c.alphabet * 2 ^ 4 + c.rank * 2 ^ 8 + (BitVec.ofInt 7 c.tb).toNat * 2 ^ 12 + c.step * 2 ^ 20
    + c.etab * 2 ^ 24 + bitN c.zero * 2 ^ 28 + bitN c.clamps * 2 ^ 29 + bitN c.flushes * 2 ^ 30 + c.q * 2 ^ 32
  leBytes 8 v ++ leBytes 4 c.tile ++ leBytes 4 c.tag ++ zeros 12

/-- CHECK of a colophon's first 28 bytes with its payload (R109). -/
def folioCheck (col28 payload : Bytes) : Nat := (crc32c (col28 ++ zeros 4 ++ payload)).toNat

/-- A colophon with its CHECK. -/
def sealColophon (c : Colophon) (payload : Bytes) : Bytes :=
  let b := colophonBytes c
  b ++ leBytes 4 (folioCheck b payload)

/-! ### LRS (R115 to R119) -/

/-- A payload for random access. -/
abbrev Payload := Array (BitVec 8)

/-- A byte of a payload as a number. -/
def plAt (pl : Payload) (i : Nat) : Nat := (pl.getD i 0).toNat

/-- The 24-bit little-endian word at a byte of a payload. -/
def plWord3 (pl : Payload) (i : Nat) : Nat := plAt pl i + 256 * plAt pl (i + 1) + 65536 * plAt pl (i + 2)

/-- The value of a position's code (R113, R116). -/
def lrsCode (alph : Nat) (pl : Payload) (k : Nat) : Int :=
  if alph = 0 then (if natBit (plAt pl (k / 8)) (k % 8) then -1 else 1)
  else if alph = 1 then
    let t := plAt pl (k / 5) / 3 ^ (k % 5) % 3
    if t = 0 then 0 else if t = 1 then 1 else -1
  else if alph = 2 then 2 * (natField (plAt pl (k / 4)) (2 * (k % 4)) 2 : Int) - 3
  else if alph = 3 then signOf 2 (natField (plAt pl (k / 4)) (2 * (k % 4)) 2)
  else
    let c := natField (plWord3 pl (3 * (k / 8))) (3 * (k % 8)) 3
    if alph = 4 then 2 * (c : Int) - 7 else signOf 3 c

/-- e4m3_factor (R119): sign, significand and exponent of a factor byte. -/
def e4m3Factor (b : Nat) : Bool × Nat × Int :=
  let e := b / 8 % 16
  let m := b % 8
  if e = 0 then (natBit b 7, m, -9) else (natBit b 7, 8 + m, (e : Int) - 10)

/-- The scale field at row i, column j, in units of 2^-18, over the factors from n on (R119). -/
def lrsScale (pl : Payload) (cb r i j : Nat) : (n : Nat) → Int
  | 0 => 0
  | n + 1 =>
    let (nu, su, lu) := e4m3Factor (plAt pl (cb + 128 * n + i))
    let (nv, sv, lv) := e4m3Factor (plAt pl (cb + 128 * r + 128 * n + j))
    let t : Int := (su * sv * 2 ^ (lu + lv + 18).toNat : Nat)
    lrsScale pl cb r i j n + (if nu != nv then -t else t)

/-- One position of an LRS tile (R119). -/
def lrsEwf (alph r : Nat) (pl : Payload) (k : Nat) : Ewf :=
  let p := lrsCode alph pl k * lrsScale pl (codeRegion alph) r (k / 128) (k % 128) r
  toEwf (decide (p < 0)) p.natAbs (-18)

/-- Whether an LRS payload is malformed (R117). -/
def lrsBad (alph r q : Nat) (pl : Payload) : Bool :=
  let cb := codeRegion alph
  let hi := cb + 256 * r
  (List.range (256 * r)).any (fun i => let b := plAt pl (cb + i); b == 0x7F || b == 0xFF)
    || (alph == 1 && ((List.range 3277).any (fun i => decide (242 < plAt pl i)) || decide (80 < plAt pl 3276)))
    || (List.range (512 * q - hi)).any (fun i => plAt pl (hi + i) != 0)

/-! ### PLAIN (R121 to R124) -/

/-- The code of a position of a PLAIN tile (R121). -/
def plainCode (alph : Nat) (pl : Payload) (k : Nat) : Nat :=
  if alph = 8 then natField (plAt pl (k / 2)) (4 * (k % 2)) 4
  else if alph = 9 ∨ alph = 0xA then natField (plWord3 pl (3 * (k / 4))) (6 * (k % 4)) 6
  else plAt pl k

/-- Sign, significand and LSB exponent of an element, or none for a non-finite one (R122). -/
def elemDec (alph c : Nat) : Option (Bool × Nat × Int) :=
  match alph with
  | 8 => let e := c / 2 % 4; let m := c % 2
    some (if e = 0 then (natBit c 3, m, -1) else (natBit c 3, 2 + m, (e : Int) - 2))
  | 9 => let e := c / 8 % 4; let m := c % 8
    some (if e = 0 then (natBit c 5, m, -3) else (natBit c 5, 8 + m, (e : Int) - 4))
  | 0xA => let e := c / 4 % 8; let m := c % 4
    some (if e = 0 then (natBit c 5, m, -4) else (natBit c 5, 4 + m, (e : Int) - 5))
  | 0xB => if c % 128 = 127 then none else
    let e := c / 8 % 16; let m := c % 8
    some (if e = 0 then (natBit c 7, m, -9) else (natBit c 7, 8 + m, (e : Int) - 10))
  | 0xC => if c / 4 % 32 = 31 then none else
    let e := c / 4 % 32; let m := c % 4
    some (if e = 0 then (natBit c 7, m, -16) else (natBit c 7, 4 + m, (e : Int) - 17))
  | 0xD => let k := signOf 8 c; some (decide (k < 0), k.natAbs, -6)
  | _ => let k := signOf 4 c; some (decide (k < 0), k.natAbs, 0)

/-- One position of a PLAIN tile (R124). -/
def plainEwf (alph : Nat) (tb : Int) (pl : Payload) (k : Nat) : Ewf :=
  match elemDec alph (plainCode alph pl k) with
  | none => { word := 0 }
  | some (neg, m, l) => toEwf neg m (l + (plAt pl (plainBytes alph + k / 32) : Int) - 127 - tb)

/-- Whether a PLAIN payload is malformed (R123). -/
def plainBad (alph : Nat) (pl : Payload) : Bool :=
  (List.range 16384).any (fun k => (elemDec alph (plainCode alph pl k)).isNone)
    || (List.range 512).any (fun b => plAt pl (plainBytes alph + b) == 0xFF)

/-! ### ENT (R125 to R133) -/

/-- LEN of a symbol in a table image (R128). -/
def tabLen (img : Bytes) (s : Nat) : Nat := natField (byteAt img (s / 2)).toNat (4 * (s % 2)) 4

/-- The code lengths of a table image, symbols 0 to 16. -/
def tabLens (img : Bytes) : List Nat := (List.range 17).map (tabLen img)

/-- Whether a table image is valid (R129). R128 lays the high half of byte 8 out as zero and R129 does not name it: an image in
which it is not zero is taken as invalid (DESIGN CHOICE, log 120). -/
def tableOk (img : Bytes) : Bool :=
  let ls := tabLens img
  let present := ls.filter (· != 0)
  let kraft := (present.map (fun l => 2 ^ (12 - l))).foldl (· + ·) 0
  ls.all (fun l => decide (l ≤ 12)) && leAt img 9 1 == present.length && decide (1 ≤ present.length)
    && decide (present.length ≤ 16) && natField (byteAt img 8).toNat 4 4 == 0 && zeroAt img 10 2
    && leAt img 12 4 == (crc32c (img.take 12)).toNat && (kraft == 4096 || present == [1])

/-- Present symbols in canonical order (R130). -/
def canonList (ls : List Nat) : List Nat :=
  ((List.range 12).map (fun l => (List.range 17).filter (fun s => ls.getD s 0 == l + 1))).flatten

/-- For each length L from 1 on: first code, first index and count (R130). -/
def canonFrom (ls : List Nat) (prevCount code idx L : Nat) : (fuel : Nat) → List (Nat × Nat × Nat)
  | 0 => []
  | n + 1 =>
    let code := (code + prevCount) * 2
    let cnt := ls.countP (· == L)
    (code, idx, cnt) :: canonFrom ls cnt code (idx + cnt) (L + 1) n

/-- A decoder of a table: rows of R130 for lengths 1 to 12, and the symbols in order. -/
structure Canon where
  rows : List (Nat × Nat × Nat)
  syms : List Nat
  deriving DecidableEq, Repr

/-- The decoder of a table image. -/
def canonOf (img : Bytes) : Canon :=
  let ls := tabLens img
  { rows := canonFrom ls 0 0 0 1 12, syms := canonList ls }

/-- A bit of a payload, most significant bit of each byte first (R131). -/
def plBit (pl : Payload) (pos : Nat) : Nat := natField (plAt pl (pos / 8)) (7 - pos % 8) 1

/-- decode_symbol (R132): the symbol and the position after it, or none for a malformed lane. -/
def entSymbol (pl : Payload) (stop : Nat) (syms : List Nat) : (rows : List (Nat × Nat × Nat)) → (code pos : Nat) → Option (Nat × Nat)
  | [], _, _ => none
  | (first, idx, cnt) :: r, code, pos =>
    if stop ≤ pos then none
    else
      let code := 2 * code + plBit pl pos
      if cnt ≠ 0 ∧ first ≤ code ∧ code - first < cnt then some (syms.getD (idx + code - first) 0, pos + 1)
      else entSymbol pl stop syms r code (pos + 1)

/-- Four raw bits at a position (R131). -/
def rawBits (pl : Payload) (pos : Nat) : Nat :=
  8 * plBit pl pos + 4 * plBit pl (pos + 1) + 2 * plBit pl (pos + 2) + plBit pl (pos + 3)

/-- n values of a lane from a position on, with the slots each took (R132, R163): none when it is malformed. -/
def entValues (pl : Payload) (stop : Nat) (c : Canon) : (n pos : Nat) → Option (List (Nat × Nat) × Nat)
  | 0, pos => some ([], pos)
  | n + 1, pos =>
    match entSymbol pl stop c.syms c.rows 0 pos with
    | none => none
    | some (sym, p) =>
      if sym = 16 then
        if stop < p + 4 then none
        else
          match entValues pl stop c n (p + 4) with
          | none => none
          | some (vs, e) => some ((rawBits pl p, 4) :: vs, e)
      else
        match entValues pl stop c n p with
        | none => none
        | some (vs, e) => some ((sym, 1) :: vs, e)

/-- LEND of a lane (R125). -/
def lend (pl : Payload) (l : Nat) : Nat := plAt pl (0x100 + 2 * l) + 256 * plAt pl (0x101 + 2 * l)

/-- The values of a lane, with slots, or none when it is malformed (R132). -/
def entLane (pl : Payload) (c : Canon) (l : Nat) : Option (List (Nat × Nat)) :=
  let start := 8 * (0x140 + (if l = 0 then 0 else lend pl (l - 1)))
  let stop := 8 * (0x140 + lend pl l)
  match entValues pl stop c 512 start with
  | none => none
  | some (vs, pos) =>
    if stop < pos ∨ 8 ≤ stop - pos ∨ (List.range (stop - pos)).any (fun i => plBit pl (pos + i) == 1) then none else some vs

/-- The scale offset of a block (R125). -/
def entD (pl : Payload) (b : Nat) : Nat := natField (plAt pl (b / 2)) (4 * (b % 2)) 4

/-- One position of an ENT tile whose value is known (R127). -/
def entEwf (alph : Nat) (pl : Payload) (k v : Nat) : Ewf :=
  match elemDec alph v with
  | none => { word := 0 }
  | some (neg, m, l) => toEwf neg m (l + (entD pl (4 * (k / 128) + k % 128 / 32) : Int) - 8)

/-- The directory and fill of an ENT payload pass R133. -/
def entDirOk (q : Nat) (pl : Payload) : Bool :=
  (List.range 31).all (fun l => decide (lend pl l ≤ lend pl (l + 1))) && decide (lend pl 31 ≤ 512 * q - 320)
    && (List.range (512 * q - 320 - lend pl 31)).all (fun i => plAt pl (320 + lend pl 31 + i) == 0)

/-- The values of an ENT tile, in position order with slots, or none when the folio is malformed (R132, R133). -/
def entTile (q : Nat) (img : Bytes) (pl : Payload) : Option (List (Nat × Nat)) :=
  if entDirOk q pl then
    let c := canonOf img
    ((List.range 32).mapM (entLane pl c)).map List.flatten
  else none

/-! ### Whole folios (R110, R111) -/

/-- Whether a colophon's fields agree with its tensor (R111). -/
def colophonOk (p : TParams) (tile : Nat) (c : Colophon) : Bool :=
  c.reservedOk && c.method == p.method && c.alphabet == p.alphabet && c.rank == p.rank && c.q == p.q && c.tag == p.tag
    && c.tile == tile && (if p.method = 2 then decide (c.etab < p.ntab) else c.step == 0 && c.etab == 0)

/-- The words of a tile, position 0 first (R110, R119, R124, R127), or none when a payload check of an expander fails: a ZERO
tile's payload is not decoded (R110, R160). -/
def expandWords (p : TParams) (c : Colophon) (tables : List Bytes) (payload : Bytes) : Option (List Ewf) :=
  let pl := payload.toArray
  if c.zero then some (List.replicate 16384 { word := 0 })
  else
    match p.method with
    | 0 => if plainBad p.alphabet pl then none else some ((List.range 16384).map (plainEwf p.alphabet c.tb pl))
    | 1 => if lrsBad p.alphabet p.rank p.q pl then none else some ((List.range 16384).map (lrsEwf p.alphabet p.rank pl))
    | _ =>
      match entTile p.q (tables.getD c.etab []) pl with
      | none => none
      | some vs => some (vs.zipIdx.map (fun x => entEwf p.alphabet pl x.2 x.1.1))

/-- The words of a tile whose payload passes every check of R111, a ZERO tile's payload being zero. -/
def expand (p : TParams) (c : Colophon) (tables : List Bytes) (payload : Bytes) : Option (List Ewf) :=
  if c.zero && !payload.all (· == 0) then none else expandWords p c tables payload

/-- A folio as it is stored: its colophon's 32 bytes and its payload. It passes every check of R111, or not. -/
def folioOk (p : TParams) (tile : Nat) (tables : List Bytes) (col payload : Bytes) : Bool :=
  let c := parseColophon col
  c.check == folioCheck (col.take 28) payload && colophonOk p tile c && (expand p c tables payload).isSome

/-- Positions of a tile that clamp and positions that flush (R79, R114). -/
def ewfCounts (ws : List Ewf) : Nat × Nat := (ws.countP (·.clamp), ws.countP (·.flush))

end Sys2Proof.Machine
end

