-- ==== Sys2Proof/Machine/Flags.lean ====
section
/-! DEFINITION. Guard counters, the flags of call slips that saturation and sentinels set, investigations' ends, and
errors of on-chip words (R79 to R86, R95 to R101, R629, R636 to R639). -/

namespace Sys2Proof.Machine

/-! ### Guard counters (R79, R83) -/

/-- Counts that a run adds to a guard record. -/
structure Events where
  wsat : Nat := 0
  wflush : Nat := 0
  osat : Nat := 0
  ononfin : Nat := 0
  split : Nat := 0
  unsplit : Nat := 0
  bandpass : Nat := 0
  expStall : Nat := 0
  deriving DecidableEq, Repr

/-- A guard record before an event of a cycle: the record as it stood before the cycle's first event is kept (R85). -/
def guardMark (now : Nat) (g : Guard) : Guard :=
  { g with before := match g.before with
    | some (t, r) => if t = now then some (t, r) else some (now, g.toGuardRec)
    | none => some (now, g.toGuardRec) }

/-- A guard record with events counted, each counter held at its top (R83). -/
def guardAdd (now : Nat) (g0 : Guard) (e : Events) : Guard :=
  let g := guardMark now g0
  { g with wsat := sat32 (g.wsat + e.wsat), wflush := sat32 (g.wflush + e.wflush), osat := sat32 (g.osat + e.osat),
           ononfin := sat32 (g.ononfin + e.ononfin), split := sat32 (g.split + e.split),
           unsplit := sat32 (g.unsplit + e.unsplit), bandpass := sat32 (g.bandpass + e.bandpass),
           expStall := satTo (2 ^ 64 - 1) (g.expStall + e.expStall) }

/-- Events counted against a tensor. -/
def tensorEvents (s : State) (id : Nat) (e : Events) : State :=
  tensorMod s id (fun t => { t with guard := guardAdd s.now t.guard e })

/-- Events counted against a key/value object: output saturation, non-finite outputs, splits and band passes (R86). -/
def kvEvents (s : State) (idx : Nat) (e : Events) : State :=
  kvMod s idx (fun k => { k with guard := guardAdd s.now k.guard { e with wsat := 0, wflush := 0, expStall := 0 } })

/-- A context changed. -/
def ctxMod (s : State) (n : Nat) (f : Ctx → Ctx) : State :=
  { s with eng := { s.eng with ctxs := tmod s.eng.ctxs n f } }

/-- A call slip's saturation sum of a tensor grows, event by event; the first sum above SAT_LIMIT, which is SAT_LIMIT + 1, is
logged and sets SATURATED (R81, R82). -/
def satAdd (s : State) (ctx tensor limit n : Nat) : State :=
  match tget s.eng.ctxs ctx with
  | none => s
  | some x =>
    let sum := sat32 (tgetD x.satSums tensor 0 + n)
    let s := ctxMod s ctx (fun x => { x with satSums := tset x.satSums tensor sum })
    if limit ≠ 0xFFFFFFFF ∧ limit < sum ∧ !x.satLogged.contains tensor then
      let s := ctxMod s ctx (fun x => { x with satLogged := x.satLogged ++ [tensor], saturated := true })
      logNow s { kind := 0x0302, severity := 0, tenant := tenantOf s x.job.slip.mid, mid := x.job.slip.mid,
                 location := ((tget s.tensors tensor).map (·.params.tag)).getD 0, detail0 := x.job.slip.seq, detail1 := limit + 1 }
    else s

/-! ### On-chip words (R628, R629, R636 to R639, R657) -/

/-- LOCATION of an on-chip word (R657). -/
def sramLoc (array index word : Nat) : Nat := array * 2 ^ 56 + index * 2 ^ 48 + word

/-- The half of an array's unit (R12, R655). -/
def sramHalf (array index : Nat) : Half :=
  if array ≤ 4 then halfOf (index / 64)
  else if array = 5 then halfOf (index / 16)
  else if array = 9 then halfOf (index / 4)
  else if array = 0xC then .h0
  else halfOf index

/-- The UNIT field of an array's events (R656). -/
def sramUnit (array index : Nat) : Nat :=
  if array ≤ 4 then errUnit 1 index
  else if array = 5 then errUnit 2 index
  else if array = 9 then errUnit 5 index
  else if array = 0xB then errUnit 7 index
  else if array = 0xC then errUnit 0xA 0
  else errUnit 6 index

/-- A matrix unit changed. -/
def muMod (s : State) (n : Nat) (f : Mu → Mu) : State :=
  { s with eng := { s.eng with mus := tset s.eng.mus n (f (muOf s n)) } }

/-- A vector unit changed. -/
def vuMod (s : State) (n : Nat) (f : Vu → Vu) : State :=
  { s with eng := { s.eng with vus := tset s.eng.vus n (f (vuOf s n)) } }

/-- A unit without a spare row is to be taken out of service for good (R639, R586). -/
def sramUnitOut (s : State) (array index : Nat) : State :=
  if array ≤ 4 then
    muMod { s with flash := { s.flash with retiredUnits := s.flash.retiredUnits ++ [.mu index] } } index
      (fun m => { m with remapDue := true, retired := true, cause := 2 })
  else if array = 5 then
    vuMod { s with flash := { s.flash with retiredUnits := s.flash.retiredUnits ++ [.vu index] } } index
      (fun v => { v with remapDue := true, retired := true, cause := 2 })
  else s

/-- A lasting on-chip word: its row is spared, or its unit goes out, or the word is retired (R639). The record names the word
(R657). -/
def lastingWord (s : State) (array index word : Nat) (r : ErrRec) : State :=
  let key := 2 ^ 60 + array * 256 + index
  let used := tgetD s.ras.sparesUsed key 0
  if Config.spareLeft key used then
    let s := { s with ras := { s.ras with sparesUsed := tset s.ras.sparesUsed key (used + 1), spared := s.ras.spared + 1 } }
    logNow s { r with kind := 0x0105, severity := 2, lasting := true, dropped := 0, detail1 := 0,
                      location := sramLoc array index word }
  else
    logNow (sramUnitOut s array index)
      { r with kind := 0x0105, severity := 2, lasting := true, dropped := 0, detail1 := if array ≤ 5 then 2 else 1,
               location := sramLoc array index word }

/-- An error of an on-chip word counts toward its location (R636). -/
def countWord (s : State) (array index word : Nat) (r : ErrRec) : State :=
  let h := sramHalf array index
  let (locs, lasting) := countLoc (s.ras.locs.get h) (2 ^ 64 + sramLoc array index word) s.now
  let s := { s with ras := { s.ras with locs := s.ras.locs.set h locs } }
  if lasting then lastingWord s array index word r else s

/-- Logging and counting of an on-chip error (R635, R638, R657). -/
def sramEvent (s : State) (array index word : Nat) (corrected : Bool) (syndrome bit source : Nat) : State :=
  let r := stamped s { kind := if corrected then 0x0103 else 0x0104, severity := if corrected then 1 else 3,
                       diag := source == 2, unit := sramUnit array index, location := sramLoc array index word,
                       detail0 := syndrome + bit * 256 + source * 2 ^ 56 }
  let s := logRec s (sramHalf array index) r
  if source = 2 then s
  else
    let s := { s with ras := { s.ras with ce := s.ras.ce + bitN corrected, ue := s.ras.ue + bitN (!corrected) } }
    countWord s array index word r

/-! ### Tensors marked DAMAGED, and investigations (R95 to R101, R172, R302) -/

/-- Probes that run of a tensor end uncounted as it is loaded again or dropped (R91). -/
def probesEnd (s : State) (id : Nat) : State :=
  { s with eng := { s.eng with mus := tmap s.eng.mus (fun _ u =>
      if (u.probe.map (·.tensor)) = some id then { u with probe := none } else u) } }

/-- The edge expanders forget what they found malformed of a tensor that is loaded again or dropped (R254). -/
def edgeFresh (s : State) (id : Nat) : State :=
  let f (e : Edge) : Edge := { e with poisoned := tfilter e.poisoned (fun p _ => p.1 != id) }
  { s with plain := { s.plain with edge := ⟨f s.plain.edge.h0, f s.plain.edge.h1⟩ } }

/-- The edge expanders drop the kept tiles of a tensor (R172). -/
def dropKept (s : State) (id : Nat) : State :=
  let f (e : Edge) : Edge := { e with kept := e.kept.filter (fun p => p.1.1 != id) }
  { s with plain := { s.plain with edge := ⟨f s.plain.edge.h0, f s.plain.edge.h1⟩ } }

/-- A working copy with every presence bit clear (R302). -/
def wcClear (w : Option WorkCopy) : Option WorkCopy := w.map (fun w => { w with present := [], copying := [] })

/-- A tensor is marked DAMAGED (R96, R302, R654). -/
def damageTensor (s : State) (id : Nat) : State :=
  dropKept (tensorMod s id (fun t => { t with damaged := true, wc := wcClear t.wc })) id

/-- Severity of a SENTINEL record (R658). -/
def sentSeverity (outcome : Nat) : Nat := if outcome = 1 ∨ outcome = 5 then 0 else if outcome = 4 then 3 else 2

/-- The word of a slice at which a slice error counts: the first one of the tile's copy there. The spec names no word
(DESIGN CHOICE, log 119). -/
def sliceFaultWord (s : State) (mu id tile : Nat) : Nat := 128 * ((tget s.eng.copies (mu, .tile id tile)).map (·.granule)).getD 0

/-- An investigation ends with an outcome, which is logged and acted on (R96, R97). -/
def closeInvest (s : State) (id outcome : Nat) : State :=
  match tget s.tensors id with
  | none => s
  | some t =>
    match t.investigation with
    | none => s
    | some v =>
      let g := { t.guard with lastOutcome := outcome, sentState := if outcome = 4 then 2 else 0 }
      let s := tensorMod s id (fun t => { t with investigation := none, guard := g })
      let r : ErrRec := {
        kind := 0x0301, severity := sentSeverity outcome, tenant := tenantOf s t.master, mid := t.master,
        location := t.params.tag + v.probe.probe * 2 ^ 32 + outcome * 2 ^ 48 + v.mu * 2 ^ 56, detail0 := v.firstFail }
      let s := logNow s r
      match outcome with
      | 2 =>
        let w := sliceFaultWord s v.mu id v.probe.tile
        countWord s 1 v.mu w (stamped s { unit := errUnit 1 v.mu, location := sramLoc 1 v.mu w, detail0 := 0xFF * 2 ^ 8 })
      | 3 => muMod s v.mu (fun m => { m with remapDue := true, cause := 1 })
      | 4 => damageTensor s id
      | _ => s

/-- Investigations of other tensors on a unit are abandoned when it goes out (R99, R100). -/
def abandonOn (s : State) (mu : Nat) : State :=
  (s.tensors.filter (fun p => (p.2.investigation.map (·.mu)) == some mu)).foldl (fun s p => closeInvest s p.1 5) s

end Sys2Proof.Machine
end

