-- ==== Sys2Proof/Machine/Encode.lean ====
section
/-! DEFINITION. Encoding of tensors at accession: scale mapping, requantization, entropy tables and rate control
(R137 to R139, R147 to R158). -/

namespace Sys2Proof.Machine

/-! ### The source image (R137) -/

/-- Element width in bits of an alphabet. -/
def elemBits (alph : Nat) : Nat := if alph = 8 ∨ alph = 0xE then 4 else if alph = 9 ∨ alph = 0xA then 6 else 8

/-- RB: bytes of a row of an ENCODE source image. -/
def rowBytes (p : TParams) : Nat := p.cols * elemBits p.alphabet / 8 + p.cols / 32

/-- Bytes of an ENCODE source image. -/
def encodeImageLen (p : TParams) : Nat := p.nm * p.rows * rowBytes p

/-- C0 of a CODED image (R138). -/
def codedColOff (p : TParams) : Nat := 64 * ceilDiv (16 * p.ntab) 64

/-- Where the payloads of a CODED image begin (R138). -/
def codedPayOff (p : TParams) : Nat := 512 * ceilDiv (codedColOff p + 32 * nTiles p) 512

/-- Bytes of a CODED image. -/
def codedImageLen (p : TParams) : Nat := codedPayOff p + nTiles p * slotBytes p

/-- Element j of a row that begins at an offset of the source, packed as R121 packs element k. -/
def srcElem (alph : Nat) (img : Payload) (row j : Nat) : Nat :=
  if elemBits alph = 4 then natField (plAt img (row + j / 2)) (4 * (j % 2)) 4
  else if elemBits alph = 6 then natField (plWord3 img (row + 3 * (j / 4))) (6 * (j % 4)) 6
  else plAt img (row + j)

/-- A tile of the source: its 16,384 codes and 512 block scales, pad positions as zeros (R103, R148). -/
structure SrcTile where
  codes : Payload
  scales : Payload
  deriving DecidableEq, Repr

/-- Offset of a tile row's source row. -/
def srcRow (p : TParams) (tile i : Nat) : Nat :=
  let x := tile / tileCols p / tileRows p
  (x * p.rows + tile / tileCols p % tileRows p * 128 + i) * rowBytes p

/-- Whether a position of a tile is real (R103). -/
def realRow (p : TParams) (tile i : Nat) : Bool := decide (tile / tileCols p % tileRows p * 128 + i < p.rows)

/-- Whether a column of a tile is real. -/
def realCol (p : TParams) (tile j : Nat) : Bool := decide (tile % tileCols p * 128 + j < p.cols)

/-- A tile read from the source image. -/
def srcTile (p : TParams) (img : Payload) (tile : Nat) : SrcTile :=
  let c0 := tile % tileCols p * 128
  let eb := p.cols * elemBits p.alphabet / 8
  { codes := ((List.range 16384).map (fun k =>
      if realRow p tile (k / 128) && realCol p tile (k % 128) then
        BitVec.ofNat 8 (srcElem p.alphabet img (srcRow p tile (k / 128)) (c0 + k % 128)) else 0)).toArray
    scales := ((List.range 512).map (fun b =>
      if realRow p tile (b / 4) && realCol p tile (32 * (b % 4)) then
        img.getD (srcRow p tile (b / 4) + eb + (c0 / 32 + b % 4)) 0 else 0)).toArray }

/-- Whether a source tile holds a non-finite element or a scale byte of 0xFF in a real position (R139). -/
def srcTileBad (p : TParams) (tile : Nat) (t : SrcTile) : Bool :=
  (List.range 16384).any (fun k => (elemDec p.alphabet (plAt t.codes k)).isNone)
    || (List.range 512).any (fun b => realRow p tile (b / 4) && realCol p tile (32 * (b % 4)) && plAt t.scales b == 0xFF)

/-- The byte ranges of the source that a tile uses: its rows' elements and scales. -/
def srcTileSpans (p : TParams) (tile : Nat) : List (Nat × Nat) :=
  let c0 := tile % tileCols p * 128
  let n := min 128 (p.cols - c0)
  let w := elemBits p.alphabet
  ((List.range 128).filter (realRow p tile)).flatMap (fun i =>
    [(srcRow p tile i + c0 * w / 8, n * w / 8), (srcRow p tile i + p.cols * w / 8 + c0 / 32, n / 32)])

/-! ### Scale mapping (R147 to R151) -/

/-- Significand of a code (R122). -/
def codeSig (alph c : Nat) : Nat := match elemDec alph c with | none => 0 | some (_, m, _) => m

/-- Whether a block of a tile holds a nonzero element. -/
def blockLive (alph : Nat) (codes : Payload) (b : Nat) : Bool :=
  (List.range 32).any (fun i => codeSig alph (plAt codes (32 * b + i)) != 0)

/-- Xmax of a tile, or none where no block holds a nonzero element. -/
def tileXmax (alph : Nat) (t : SrcTile) : Option Nat :=
  let live := (List.range 512).filter (blockLive alph t.codes)
  live.foldl (fun m b => let x := plAt t.scales b; match m with | none => some x | some y => some (max x y)) none

/-- TOPB of a PLAIN alphabet (R148). -/
def topB (alph : Nat) : Int :=
  match alph with
  | 8 => 3
  | 9 => 3
  | 0xA => 5
  | 0xB => 9
  | 0xC => 16
  | _ => 2

/-- A value held within a tile bias's range. -/
def clampTb (x : Int) : Int := max (-64) (min 63 x)

/-- Exact value of a 4-bit code. -/
def codeVal (alph c : Nat) : Dy :=
  match elemDec alph c with
  | none => dyZero
  | some (neg, m, l) => ⟨if neg then -(m : Int) else m, l⟩

/-- The code of an alphabet nearest to a value, ties to the code with bit 0 clear, zero as 0x0 (R150). -/
def requant (alph : Nat) (v : Dy) : Nat :=
  let best := (List.range 16).foldl (fun b c =>
    let d := dyAbs (dySub v (codeVal alph c))
    let e := dyAbs (dySub v (codeVal alph b))
    if dyLt d e || (!dyLt e d && c % 2 == 0 && b % 2 == 1) then c else b) 0
  if codeSig alph best = 0 then 0 else best

/-- The largest magnitude of the alphabet with a value's sign (R149). -/
def topCode (alph : Nat) (neg : Bool) : Nat := if alph = 8 then (if neg then 0xF else 7) else (if neg then 8 else 7)

/-- An element mapped with its block's δ: the written code, and whether it was rounded or held (R149, R151). -/
def mapElem (alph c : Nat) (d : Int) : Nat × Bool × Bool :=
  let v := codeVal alph c
  if v.sig = 0 then (0, false, false)
  else if 0 ≤ d ∧ d ≤ 15 then (c, false, false)
  else if d < 0 then
    let x := dyScale v d
    let q := requant alph x
    (q, (dySub x (codeVal alph q)).sig != 0, false)
  else
    let x := dyScale v (d - 15)
    let top := topCode alph (decide (v.sig < 0))
    if dyLt (dyAbs (codeVal alph top)) (dyAbs x) then (top, false, true) else (requant alph x, false, false)

/-- A mapped tile of ENT: its bias, scale offsets, codes and ingest counts. -/
structure Mapped where
  tb : Int
  offs : List Nat
  codes : List Nat
  rounded : Nat
  clamped : Nat
  deriving DecidableEq, Repr

/-- δ of a block (R149). -/
def blockDelta (tb : Int) (x : Nat) : Int := (x : Int) - 127 - tb + 8

/-- The ENT mapping of a tile (R149). -/
def mapTile (alph : Nat) (t : SrcTile) : Mapped :=
  let tb := clampTb (((tileXmax alph t).getD 134 : Int) - 134)
  let delta (b : Nat) : Int := blockDelta tb (plAt t.scales b)
  let live := ((List.range 512).map (blockLive alph t.codes)).toArray
  let ms := (List.range 16384).map (fun k =>
    if live.getD (k / 32) false then mapElem alph (plAt t.codes k) (delta (k / 32)) else (0, false, false))
  { tb := tb
    offs := (List.range 512).map (fun b => if live.getD b false then (max 0 (min 15 (delta b))).toNat else 0)
    codes := ms.map (·.1), rounded := ms.countP (·.2.1), clamped := ms.countP (·.2.2) }

/-! ### Entropy tables (R152 to R154) -/

/-- ETAB of a tile (R152). -/
def etabOf (p : TParams) (tile : Nat) : Nat := tile * p.ntab / nTiles p

/-- The weights of a table from the counts of the 16 values (R153). -/
def tableWeights (f : List Nat) : List Nat :=
  let g (v : Nat) := f.getD v 0
  let cand := (List.range 16).filter (fun v => decide (0 < g v) || v == 0)
  let ranked := cand.mergeSort (fun a b => decide (g b < g a) || (g a == g b && decide (a ≤ b)))
  let drop := if cand.length ≤ 15 then none else ((ranked.filter (· != 0)).getLast?)
  let kept (v : Nat) : Bool := cand.contains v && drop != some v
  (List.range 16).map (fun v => if v = 0 then max (g 0) 1 else if kept v then g v else 0)
    ++ [1 + (match drop with | some v => g v | none => 0)]

/-- A node of the code builder: weight, key and the symbols under it with their depths. -/
abbrev CodeNode := Nat × Nat × List (Nat × Nat)

/-- Whether one node comes before another: weight first, then key (R154). -/
def nodeLe (a b : CodeNode) : Bool := decide (a.1 < b.1) || (a.1 == b.1 && decide (a.2.1 ≤ b.2.1))

/-- Nodes joined two at a time, least first, until one is left (R154). -/
def joinNodes : (fuel key : Nat) → List CodeNode → List (Nat × Nat)
  | 0, _, _ => []
  | n + 1, key, l =>
    match l.mergeSort nodeLe with
    | [] => []
    | [a] => a.2.2
    | a :: b :: r => joinNodes n (key + 1) ((a.1 + b.1, key, (a.2.2 ++ b.2.2).map (fun p => (p.1, p.2 + 1))) :: r)

/-- The depths of the leaves for weights, symbol by symbol (R154). -/
def codeDepths (w : List Nat) : List Nat :=
  let leaves : List CodeNode := ((List.range 17).filter (fun i => w.getD i 0 != 0)).map (fun i => (w.getD i 0, i, [(i, 0)]))
  let d := joinNodes 18 17 leaves
  (List.range 17).map (fun i => ((d.find? (fun p => p.1 == i)).map (·.2)).getD 0)

/-- code_lengths (R154): the weights halved until no length is above 12. -/
def codeLengths : (fuel : Nat) → List Nat → List Nat
  | 0, w => codeDepths w
  | n + 1, w =>
    let d := codeDepths w
    if d.all (fun x => decide (x ≤ 12)) then d else codeLengths n (w.map (fun x => if x = 0 then 0 else (x + 1) / 2))

/-- A table image from its code lengths (R128). -/
def tableImage (ls : List Nat) : Bytes :=
  let b := (List.range 9).map (fun m => BitVec.ofNat 8 (ls.getD (2 * m) 0 + 16 * (if m = 8 then 0 else ls.getD (2 * m + 1) 0)))
  let b := b ++ [BitVec.ofNat 8 (ls.countP (· != 0))] ++ zeros 2
  b ++ leBytes 4 (crc32c b).toNat

/-! ### Rate control (R155 to R157) -/

/-- Magnitude index of a value (R155). -/
def magIndex (alph v : Nat) : Nat := if alph = 8 then v % 8 else min (signOf 4 v).natAbs 7

/-- Coarsening at a step (R155). -/
def coarsen (alph step : Nat) (v : List Nat) : List Nat :=
  if step = 0 then v else v.map (fun x => if x ≠ 0 ∧ magIndex alph x ≤ step then 0 else x)

/-- Cost of a value in bits (R156). -/
def valueCost (ls : List Nat) (v : Nat) : Nat := if ls.getD v 0 ≠ 0 then ls.getD v 0 else ls.getD 16 0 + 4

/-- The 32 lanes of a tile's values. -/
def lanesOf (v : List Nat) : List (List Nat) := (List.range 32).map (fun l => (v.drop (512 * l)).take 512)

/-- Bytes of a lane (R156). -/
def laneBytes (ls : List Nat) (lane : List Nat) : Nat := ceilDiv ((lane.map (valueCost ls)).foldl (· + ·) 0) 8

/-- Size of a tile (R156). -/
def tileSize (ls : List Nat) (v : List Nat) : Nat := 320 + ((lanesOf v).map (laneBytes ls)).foldl (· + ·) 0

/-- The codeword of a symbol: length and value (R130). -/
def codeword (c : Canon) (ls : List Nat) (sym : Nat) : Nat × Nat :=
  let l := ls.getD sym 0
  let (first, idx, _) := c.rows.getD (l - 1) (0, 0, 0)
  (l, first + (c.syms.idxOf sym - idx))

/-- The n low bits of a value, most significant first. -/
def bitsOf (v : Nat) : (n : Nat) → List Bool
  | 0 => []
  | n + 1 => natBit v n :: bitsOf v n

/-- The bits of a value (R131). -/
def valueBits (c : Canon) (ls : List Nat) (v : Nat) : List Bool :=
  if ls.getD v 0 ≠ 0 then let w := codeword c ls v; bitsOf w.2 w.1
  else let w := codeword c ls 16; bitsOf w.2 w.1 ++ bitsOf v 4

/-- A byte from up to eight bits, most significant first, zeros beyond. -/
def byteOfBits (b : List Bool) : Byte :=
  BitVec.ofNat 8 ((List.range 8).foldl (fun a i => 2 * a + bitN (b.getD i false)) 0)

/-- Bits packed into n bytes (R131). -/
def packBits (bits : List Bool) : (n : Nat) → Bytes
  | 0 => []
  | n + 1 => byteOfBits (bits.take 8) :: packBits (bits.drop 8) n

/-- A lane's bytes. -/
def laneEncode (c : Canon) (ls : List Nat) (lane : List Nat) : Bytes :=
  packBits (lane.flatMap (valueBits c ls)) (laneBytes ls lane)

/-- Running sums of a list. -/
def runSums (acc : Nat) : List Nat → List Nat
  | [] => []
  | x :: r => (acc + x) :: runSums (acc + x) r

/-- The payload of a tile that fits (R125, R157). -/
def entPayload (q : Nat) (img : Bytes) (offs : List Nat) (v : List Nat) : Bytes :=
  let ls := tabLens img
  let c := canonOf img
  let lanes := (lanesOf v).map (laneEncode c ls)
  let head := (List.range 256).map (fun i => BitVec.ofNat 8 (offs.getD (2 * i) 0 + 16 * offs.getD (2 * i + 1) 0))
  fit (512 * q) (head ++ ((runSums 0 (lanes.map List.length)).map (leBytes 2)).flatten ++ lanes.flatten)

/-- The rate-control step at which a tile is written, from a step on, with its values (R157). -/
def rateStep (alph q : Nat) (ls : List Nat) (v : List Nat) : (fuel step : Nat) → Nat × List Nat
  | 0, step => (step, coarsen alph 7 v)
  | n + 1, step =>
    let c := coarsen alph step v
    if c.all (· == 0) ∨ tileSize ls c ≤ 512 * q then (step, c) else rateStep alph q ls v n (step + 1)

/-! ### A coded tile -/

/-- A tile as accession writes it, with what it counts. -/
structure Coded where
  colophon : Bytes
  payload : Bytes
  clamps : Nat
  step : Nat
  deriving DecidableEq, Repr

/-- Colophon fields of a tensor's tile (R108). -/
def tileColophon (p : TParams) (tile : Nat) : Colophon :=
  { method := p.method, alphabet := p.alphabet, rank := p.rank, tb := 0, step := 0, etab := 0, zero := false,
    clamps := false, flushes := false, q := p.q, tile := tile, tag := p.tag, check := 0, reservedOk := true }

/-- A colophon with CLAMPS and FLUSHES by R158, sealed with its payload. -/
def finishTile (p : TParams) (tables : List Bytes) (c : Colophon) (payload : Bytes) : Coded :=
  let n := ewfCounts ((expand p c tables payload).getD [])
  let c := { c with clamps := decide (0 < n.1), flushes := decide (0 < n.2) }
  { colophon := sealColophon c payload, payload := payload, clamps := n.1, step := c.step }

/-- A ZERO tile (R147). -/
def zeroTile (p : TParams) (tile etab step : Nat) : Coded :=
  finishTile p [] { tileColophon p tile with zero := true, etab := etab, step := step } (zeros (slotBytes p))

/-- Six-bit codes packed four to three bytes (R121). -/
def pack6 : List Nat → Bytes
  | a :: b :: c :: d :: r => leBytes 3 (a + b * 64 + c * 4096 + d * 262144) ++ pack6 r
  | _ => []

/-- Four-bit codes packed two to a byte (R121). -/
def pack4 : List Nat → Bytes
  | a :: b :: r => BitVec.ofNat 8 (a + 16 * b) :: pack4 r
  | _ => []

/-- A PLAIN tile encoded (R147, R148). -/
def encodePlain (p : TParams) (tile : Nat) (t : SrcTile) : Coded :=
  match tileXmax p.alphabet t with
  | none => zeroTile p tile 0 0
  | some x =>
    let codes := t.codes.toList.map BitVec.toNat
    let elems := if elemBits p.alphabet = 4 then pack4 codes else if elemBits p.alphabet = 6 then pack6 codes
      else t.codes.toList
    finishTile p [] { tileColophon p tile with tb := clampTb ((x : Int) - 144 + topB p.alphabet) } (elems ++ t.scales.toList)

/-- An ENT tile encoded with its table (R147, R152, R157). -/
def encodeEnt (p : TParams) (tile : Nat) (tables : List Bytes) (m : Mapped) : Coded :=
  let etab := etabOf p tile
  let img := tables.getD etab []
  let (step, v) := rateStep p.alphabet p.q (tabLens img) m.codes 8 0
  if v.all (· == 0) then zeroTile p tile etab step
  else finishTile p tables { tileColophon p tile with tb := m.tb, etab := etab, step := step } (entPayload p.q img m.offs v)

/-- Counts of the 16 values over the mapped tiles of a table (R153). -/
def valueCounts (ms : List Mapped) : List Nat :=
  (List.range 16).map (fun v => (ms.map (fun m => m.codes.countP (· == v))).foldl (· + ·) 0)

/-- The table images that pass 1 builds for the mapped tiles of an ENT tensor (R152 to R154). -/
def buildTables (p : TParams) (ms : List Mapped) : List Bytes :=
  (List.range p.ntab).map (fun n =>
    let mine := (ms.zipIdx.filter (fun x => etabOf p x.2 == n)).map (·.1)
    tableImage (codeLengths 64 (tableWeights (valueCounts mine))))

/-- Whether a CODED tile passes accession's checks, with its clamping positions (R158, R159). R158 does not say what ZERO is of
a tile whose nonzero positions all flush to 0x000: such a tile is taken as not ZERO (DESIGN CHOICE, log 121). -/
def codedTileOk (p : TParams) (tile : Nat) (tables : List Bytes) (col payload : Bytes) : Option Nat :=
  let c := parseColophon col
  if folioOk p tile tables col payload then
    let ws := (expand p c tables payload).getD []
    let n := ewfCounts ws
    let allZero := ws.all (fun w => w.word == 0 && !w.flush)
    if c.clamps == decide (0 < n.1) && c.flushes == decide (0 < n.2) && c.zero == allZero then some n.1 else none
  else none

end Sys2Proof.Machine
end

