-- ==== Sys2Proof/Machine/Accession.lean ====
section
/-! DEFINITION. Accession: desk commands of group 0x04 and the running of accessions and window encodings (R135 to
R159, R167 to R171, R563 to R569, R741, R742). -/

namespace Sys2Proof.Machine

/-! ### The queue of accessions (R141) -/

/-- Whether a request is for a TAG of a master. -/
def reqIs (mid tag : Nat) (r : AccReq) : Bool := r.master == mid && r.params.tag == tag

/-- The running or waiting accession of a TAG of a master. -/
def accOf (s : State) (mid tag : Nat) : Option AccReq :=
  ((s.acc.running.map (·.1)).toList ++ s.acc.queue).find? (reqIs mid tag)

/-- Whether a TAG of a master is in accession: running or waiting. -/
def inAccession (s : State) (mid tag : Nat) : Bool := (accOf s mid tag).isSome

/-- Whether another request of the queue may not be taken: 16 wait behind the running one, or behind the window encoding that is to
run next (R141). -/
def accFull (s : State) : Bool :=
  let waiting := s.acc.queue.countP (fun r => r.window.isNone)
  let ahead := s.acc.running.isSome || (s.acc.queue.head?.bind (·.window)).isSome
  decide ((if ahead then 16 else 17) ≤ waiting)

/-- The source length that a parameter record and a mode describe. -/
def imageLen (p : TParams) (coded : Bool) : Nat := if coded then codedImageLen p else encodeImageLen p

/-- Whether a mode takes a tensor's method and columns (R135, R136). -/
def modeOk (p : TParams) (coded : Bool) : Bool := coded || (p.method != 1 && p.cols % 32 == 0)

/-- The code of a destination range: unprotected, within regions of the sender (R309, R564). -/
def destCode (s : State) (mid : Nat) (span : Nat × Nat) : Nat :=
  if span.2 = 0 then rcDone
  else if daRefused s mid span.1 then rcBadField
  else if !reaches s mid span.1 span.2 true then rcNotPermitted
  else if touchesProtected s span.1 span.2 then rcBadField
  else if touchesLost s span.1 span.2 then rcConflict
  else rcDone

/-- The first code of a list that is not DONE. -/
def firstCode (l : List Nat) : Nat := (l.find? (· != rcDone)).getD rcDone

/-- Whether the destinations of a tensor are aligned and in one tier, 1 to 4 (R104, R564). -/
def destShape (p : TParams) (pb cb tb : Nat) : Bool :=
  let t := daRange pb
  decide (1 ≤ t) && decide (t ≤ 4) && daRange cb == t && pb % 512 == 0 && cb % 64 == 0
    && (if p.ntab = 0 then tb == 0 else daRange tb == t && tb % 64 == 0)

/-- A request as a TENSOR_ACCESSION message gives it. -/
def accRequest (c : RunCmd) : AccReq :=
  let pb := argBytes c 0
  let flags := arg c 2
  { master := c.mid, params := parseP pb, paramBytes := pb, coded := arg c 1 == 1, signed := natBit flags 0,
    expect := if natBit flags 1 then some (argBytes c 8) else none, sig := argBytes c 9, src := arg c 3,
    pbase := arg c 5, cbase := arg c 6, tbase := arg c 7 }

/-- Whether the fields that FLAGS leaves unused are zero (R564). -/
def accUnusedZero (c : RunCmd) : Bool :=
  (natBit (arg c 2) 1 || (argBytes c 8).all (· == 0)) && (natBit (arg c 2) 0 || (argBytes c 9).all (· == 0))

/-- The checks of TENSOR_ACCESSION in order (R105, R136, R140, R141, R564). -/
def accCode (s : State) (c : RunCmd) : Nat :=
  let r := accRequest c
  let p := r.params
  if !parseOk r.paramBytes || !paramsOk p || !modeOk p r.coded || !accUnusedZero c || !destShape p r.pbase r.cbase r.tbase
      || decide (arg c 4 < imageLen p r.coded) then rcBadField
  else
    let dest := firstCode ((masterSpans p r.pbase r.cbase r.tbase).map (destCode s c.mid))
    let vkey := (tget s.tenants (cmdTenant s c)).bind (·.vkey)
    if deskCode s c.mid r.src (arg c 4) false ≠ rcDone then deskCode s c.mid r.src (arg c 4) false
    else if dest ≠ rcDone then dest
    else if r.signed && vkey.isNone then rcNotPermitted
    else if inAccession s c.mid p.tag then rcConflict
    else if (match tensorByTag s c.mid p.tag with | some t => !t.damaged | none => false) then rcConflict
    else if accFull s then rcNoSpace
    else rcAccepted

/-- A FAILED entry, or an earlier report, of a TAG dropped (R566). -/
def dropReports (s : State) (mid tag : Nat) : State :=
  let keep (r : AccReport) : Bool := !(r.master == mid && r.tag == tag)
  { s with acc := { s.acc with failed := s.acc.failed.filter keep, done := s.acc.done.filter keep } }

/-- Accessions and encodings ahead of a new request (R564). -/
def accAhead (s : State) : Nat := (if s.acc.running.isSome then 1 else 0) + s.acc.queue.length

/-- TENSOR_ACCESSION (R563, R564). -/
def tensorAccessionBody (s : State) (c : RunCmd) : State :=
  let rc := accCode s c
  let r := accRequest c
  if rc ≠ rcAccepted then failAddrs s c ([r.src, r.pbase, r.cbase] ++ (if r.params.ntab = 0 then [] else [r.tbase])) rc
  else
    let ahead := accAhead s
    let s := dropReports s c.mid r.params.tag
    complete { s with acc := { s.acc with queue := s.acc.queue ++ [r] } } c rcAccepted [.u 4 r.params.tag, .u 1 ahead]

/-- TENSOR_ACCESSION. -/
def execTensorAccession (src : DeskSrc) (s : State) : Out := .next (deskRun 0x0401 tensorAccessionBody s src)

/-! ### TENSOR_STATUS, TENSOR_UNLOAD, TENSOR_GUARDS, TENSOR_ORIGIN -/

/-- Loaded volumes that bind a tensor. -/
def boundBy (s : State) (id : Nat) : Nat := s.volumes.countP (fun v => v.2.slots.any (fun x => x.tensor == id))

/-- The reply of TENSOR_STATUS (R565). -/
def statusVals (s : State) (state pass rc : Nat) (r : AccReport) (t : Option Tensor) (digest : Bytes) : List Val :=
  [.u 1 state, .u 1 pass, .u 2 rc, .u 4 r.tilesDone, .u 4 r.nt, .u 4 r.ingestRound, .u 4 r.ingestClamp, .u 4 r.failTile,
   .u 4 ((t.bind (·.wc)).map (·.present.length) |>.getD 0), .u 2 ((t.map (fun t => boundBy s t.id)).getD 0),
   .a 4 r.steps, .b (fit 32 digest)]

/-- TENSOR_STATUS (R565). -/
def tensorStatusBody (s : State) (c : RunCmd) : State :=
  let tag := arg c 0
  let t := tensorByTag s c.mid tag
  let blank : AccReport := { master := c.mid, tag := tag }
  let running := match s.acc.running with
    | some (r, rep) => if reqIs c.mid tag r then some rep else none
    | none => none
  match running with
  | some rep => complete s c rcDone (statusVals s 2 (if rep.tilesDone = 0 then 1 else 2) 1 rep t (zeros 32))
  | none =>
    if s.acc.queue.any (reqIs c.mid tag) then complete s c rcDone (statusVals s 1 0 1 blank t (zeros 32))
    else
      match t with
      | some x =>
        let rep := (s.acc.done.find? (fun r => r.master == c.mid && r.tag == tag)).getD { blank with nt := nTiles x.params }
        complete s c rcDone (statusVals s (if x.damaged then 4 else 3) 0 (if x.damaged then rcPoisoned else 0) rep t x.digest)
      | none =>
        match s.acc.failed.find? (fun r => r.master == c.mid && r.tag == tag) with
        | some rep => complete s c rcDone (statusVals s 5 0 rep.rc rep none rep.digest)
        | none => failWith s c rcNotPermitted

/-- TENSOR_STATUS. -/
def execTensorStatus (src : DeskSrc) (s : State) : Out := .next (deskRun 0x0402 tensorStatusBody s src)

/-- The reading room without the copies of a tensor. -/
def dropCopies (s : State) (id : Nat) : State :=
  let keep (f : FolioId) : Bool := match f with
    | .tile t _ => t != id
    | .page _ _ _ _ => true
  { s with eng := { s.eng with copies := s.eng.copies.filter (fun p => keep p.1.2) } }

/-- A tensor leaves the tensor table (R567, R99). -/
def unloadTensor (s : State) (t : Tensor) : State :=
  let s := wcStop s t
  let s := probesEnd (edgeFresh (dropKept (dropCopies (closeInvest s t.id 5) t.id) t.id) t.id) t.id
  dropReports { s with tensors := tdel s.tensors t.id } t.master t.params.tag

/-- Whether a weight window names a tensor (R567). -/
def windowNames (s : State) (t : Tensor) : Bool :=
  s.plain.windows.any (fun w => w.2.current == some t.id || (w.2.master == t.master && w.2.params.tag == t.params.tag))

/-- TENSOR_UNLOAD (R230, R567). -/
def tensorUnloadBody (s : State) (c : RunCmd) : State :=
  match tensorByTag s c.mid (arg c 0) with
  | none => failWith s c (if inAccession s c.mid (arg c 0) then rcConflict else rcNotPermitted)
  | some t =>
    if 0 < boundBy s t.id ∨ inAccession s c.mid t.params.tag ∨ windowNames s t then failWith s c rcConflict
    else complete (unloadTensor s t) c rcDone []

/-- TENSOR_UNLOAD. -/
def execTensorUnload (src : DeskSrc) (s : State) : Out := .next (deskRun 0x0403 tensorUnloadBody s src)

/-- TENSOR_GUARDS (R85, R742). -/
def tensorGuardsBody (s : State) (c : RunCmd) : State :=
  match tensorByTag s c.mid (arg c 0) with
  | some t =>
    if arg c 1 = 1 then
      completeOut (tensorMod s t.id (fun t => { t with guard := guardClear s.now t.guard })) c rcDone
        (guardBytes (guardShown s.now t.guard)) []
    else completeOut s c rcDone (guardBytes t.guard.toGuardRec) []
  | none =>
    if inAccession s c.mid (arg c 0) || s.acc.failed.any (fun r => r.master == c.mid && r.tag == arg c 0) then
      failWith s c rcConflict
    else failWith s c rcNotPermitted

/-- TENSOR_GUARDS. -/
def execTensorGuards (src : DeskSrc) (s : State) : Out := .next (deskRun 0x0408 tensorGuardsBody s src)

/-- The code of a declared copy: both addresses zero, or both in tiers 2 to 4 within the master's unprotected regions (R309,
R569). -/
def originCode (s : State) (t : Tensor) (p c : Nat) : Nat :=
  if p = 0 ∧ c = 0 then rcDone
  else if p = 0 ∨ c = 0 then rcBadField
  else
    let ok (a : Nat) : Bool := decide (2 ≤ daRange a) && decide (daRange a ≤ 4)
    if !ok p || !ok c || p % 512 != 0 || c % 64 != 0 then rcBadField
    else
      let np := nTiles t.params * slotBytes t.params
      let nc := 32 * nTiles t.params
      firstCode [deskCode s t.master p np false, deskCode s t.master c nc false,
                 if touchesProtected s p np || touchesProtected s c nc then rcBadField else rcDone]

/-- TENSOR_ORIGIN (R569). -/
def tensorOriginBody (s : State) (c : RunCmd) : State :=
  match tensorByTag s c.mid (arg c 0) with
  | none => failWith s c rcNotPermitted
  | some t =>
    let rc := firstCode [originCode s t (arg c 1) (arg c 2), originCode s t (arg c 3) (arg c 4)]
    if rc ≠ rcDone then failAddrs s c (([1, 2, 3, 4].map (arg c)).filter (· != 0)) rc
    else
      let o : Origin := { repP := arg c 1, repC := arg c 2, orgP := arg c 3, orgC := arg c 4 }
      complete (tensorMod s t.id (fun t => { t with origin := o })) c rcDone []

/-- TENSOR_ORIGIN. -/
def execTensorOrigin (src : DeskSrc) (s : State) : Out := .next (deskRun 0x0409 tensorOriginBody s src)

/-! ### Weight windows (R167 to R171, R568) -/

/-- A window changed. -/
def winMod (s : State) (n : Nat) (f : WeightWin → WeightWin) : State :=
  { s with plain := { s.plain with windows := tmod s.plain.windows n f } }

/-- Plain bytes that a window's layout takes (R167). -/
def windowLen (k : WinKind) (p : TParams) : Nat :=
  match k with
  | .ingest => encodeImageLen p
  | .view => p.nm * p.rows * p.cols * 2

/-- Whether a sender may declare a window over granules: each in service with WRITE or READ (R568). -/
def windowAccess (s : State) (mid first count : Nat) (k : WinKind) : Bool :=
  (List.range count).all (fun i =>
    match tget s.plain.granules (first + i) with
    | none => false
    | some g => g.state == .inService && (let a := granAccess g mid; match k with | .ingest => a.2 | .view => a.1))

/-- Whether a master copy lies in tier 2 of a half (R168). -/
def inTier2 (h : Half) (spans : List (Nat × Nat)) : Bool :=
  spans.all (fun x => daRange x.1 == 2 && daHalf x.1 == h && daHalf (x.1 + x.2 - 1) == h)

/-- The window that WINDOW_DECLARE describes, or a code (R568). -/
def windowOf (s : State) (c : RunCmd) : Except Nat WeightWin :=
  let kind : WinKind := if arg c 0 = 0 then .ingest else .view
  let h := halfOf (arg c 1)
  let pb := argBytes c 6
  if kind = .view then
    match tensorByTag s c.mid (arg c 5) with
    | none => .error rcNotPermitted
    | some t =>
      if !inTier2 h (masterSpans t.params t.pbase t.cbase t.tbase) then .error rcBadField
      else .ok { kind := kind, state := .ready, master := c.mid, half := h, g := arg c 3, count := arg c 4, params := t.params,
                 paramBytes := [], pbase := t.pbase, cbase := t.cbase, tbase := t.tbase, autoseal := false,
                 current := some t.id }
  else
    let p := parseP pb
    let spans := masterSpans p (arg c 7) (arg c 8) (arg c 9)
    if !parseOk pb || !paramsOk p || !modeOk p false || p.tag != arg c 5 || !destShape p (arg c 7) (arg c 8) (arg c 9)
        || !inTier2 h spans then .error rcBadField
    else
      let dest := firstCode (spans.map (destCode s c.mid))
      if dest ≠ rcDone then .error dest
      else if (tensorByTag s c.mid p.tag).isSome || inAccession s c.mid p.tag then .error rcConflict
      else .ok { kind := kind, state := .filling, master := c.mid, half := h, g := arg c 3, count := arg c 4, params := p,
                 paramBytes := pb, pbase := arg c 7, cbase := arg c 8, tbase := arg c 9, autoseal := arg c 2 == 1 }

/-- Whether a plain offset lies in a window. -/
def offInWindow (w : WeightWin) (off : Nat) : Bool := decide (w.g * gib ≤ off) && decide (off < (w.g + w.count) * gib)

/-- A window enters ENCODING: its bindery entries retire, and it joins the list of encodings (R141, R169, R333). -/
def sealWindow (s : State) (n : Nat) (w : WeightWin) : State :=
  let p (e : BinderyEntry) : Bool := daRange e.line == 8 && offInWindow w (daOff e.line)
  let s := retireWhere (retireWhere s .h0 p) .h1 p
  let r : AccReq := { master := w.master, params := w.params, paramBytes := w.paramBytes, coded := false, signed := false,
                      expect := none, sig := [], src := daMk 8 (w.g * gib), pbase := w.pbase, cbase := w.cbase,
                      tbase := w.tbase, window := some n }
  winMod { s with acc := { s.acc with queue := s.acc.queue ++ [r] } } n
    (fun w => { w with state := .encoding, discardLogged := false, before := none })

/-- A window of a sender, by number (R547). -/
def windowFor (s : State) (c : RunCmd) : Option WeightWin :=
  (tget s.plain.windows (arg c 0)).bind (fun w => if w.master = c.mid then some w else none)

/-- WINDOW_SEAL (R169, R568). -/
def windowSealBody (s : State) (c : RunCmd) : State :=
  match windowFor s c with
  | none => failWith s c rcNotPermitted
  | some w =>
    if w.kind = .ingest ∧ w.state = .filling then complete (sealWindow s (arg c 0) w) c rcDone []
    else failWith s c rcConflict

/-- WINDOW_SEAL. -/
def execWindowSeal (src : DeskSrc) (s : State) : Out := .next (deskRun 0x0405 windowSealBody s src)

/-- The homes of a window's granules emptied (R169). -/
def emptyStaging (s : State) (w : WeightWin) : State :=
  (List.range w.count).foldl (fun s i => dramZero s (homeOf s ((w.g + i) * gib)) gib) s

/-- WINDOW_REOPEN (R169, R568). -/
def windowReopenBody (s : State) (c : RunCmd) : State :=
  match windowFor s c with
  | none => failWith s c rcNotPermitted
  | some w =>
    if w.kind = .ingest ∧ (w.state = .ready ∨ w.state = .failed) then
      let s := winMod (emptyStaging s w) (arg c 0) (fun w => { w with state := .filling, covered := [], part := [] })
      complete s c rcDone []
    else failWith s c rcConflict

/-- WINDOW_REOPEN. -/
def execWindowReopen (src : DeskSrc) (s : State) : Out := .next (deskRun 0x0406 windowReopenBody s src)

/-- A window closed (R169, R172): its tensor stays loaded (R568). -/
def closeWindow (s : State) (n : Nat) (w : WeightWin) : State :=
  let s := match w.current with
    | some id => dropKept s id
    | none => s
  { s with plain := { s.plain with windows := tdel s.plain.windows n } }

/-- WINDOW_CLOSE (R169, R568). -/
def windowCloseBody (s : State) (c : RunCmd) : State :=
  match windowFor s c with
  | none => failWith s c rcNotPermitted
  | some w => if w.state = .encoding then failWith s c rcConflict else complete (closeWindow s (arg c 0) w) c rcDone []

/-- WINDOW_CLOSE. -/
def execWindowClose (src : DeskSrc) (s : State) : Out := .next (deskRun 0x0407 windowCloseBody s src)

/-! ### Running an accession (R141 to R159) -/

/-- What the passes of an accession find: a failure with its tile, or the coded tensor and its counts. -/
inductive AccRun where
  | failed (rc tile : Nat)
  | coded (tables : List Bytes) (tiles : List Coded) (round clamp : Nat)
  deriving DecidableEq, Repr

/-- Whether a range of the source, by offset, holds a poisoned line. -/
def spanPoisoned (bad : List Nat) (src : Nat) (span : Nat × Nat) : Bool := rtPoison bad (src + span.1) span.2

/-- The first tile that fails a test, in tile order. -/
def firstTile (n : Nat) (p : Nat → Bool) : Option Nat := leastFrom p n 0

/-- ENCODE of a source image (R135, R139, R741). -/
def runEncode (p : TParams) (img : Payload) (bad : List Nat) (src : Nat) : AccRun :=
  let nt := nTiles p
  match firstTile nt (fun i => (srcTileSpans p i).any (spanPoisoned bad src)) with
  | some i => .failed rcPoisoned i
  | none =>
    match firstTile nt (fun i => srcTileBad p i (srcTile p img i)) with
    | some i => .failed rcBadField i
    | none =>
      if p.method = 0 then
        .coded [] ((List.range nt).map (fun i => encodePlain p i (srcTile p img i))) 0 0
      else
        let ms := (List.range nt).map (fun i => mapTile p.alphabet (srcTile p img i))
        let tables := buildTables p ms
        .coded tables (ms.zipIdx.map (fun x => encodeEnt p x.2 tables x.1))
          ((ms.map (·.rounded)).foldl (· + ·) 0) ((ms.map (·.clamped)).foldl (· + ·) 0)

/-- CODED: the image's tables, colophons and payloads checked (R138, R159, R741). -/
def runCoded (p : TParams) (img : Bytes) (bad : List Nat) (src : Nat) : AccRun :=
  let nt := nTiles p
  let tables := (List.range p.ntab).map (fun n => slice img (16 * n) 16)
  let spans (i : Nat) : List (Nat × Nat) :=
    [(codedColOff p + 32 * i, 32), (codedPayOff p + i * slotBytes p, slotBytes p)]
  let col (i : Nat) : Bytes := slice img (codedColOff p + 32 * i) 32
  let pay (i : Nat) : Bytes := slice img (codedPayOff p + i * slotBytes p) (slotBytes p)
  if spanPoisoned bad src (0, 16 * p.ntab) && p.ntab != 0 then
    match firstTile nt (fun i => (spans i).any (spanPoisoned bad src)) with
    | some i => .failed rcPoisoned i
    | none => .failed rcPoisoned 0xFFFFFFFF
  else if !tables.all tableOk then .failed rcBadField 0xFFFFFFFF
  else
    match firstTile nt (fun i => (spans i).any (spanPoisoned bad src)) with
    | some i => .failed rcPoisoned i
    | none =>
      match firstTile nt (fun i => (codedTileOk p i tables (col i) (pay i)).isNone) with
      | some i => .failed rcBadField i
      | none => .coded tables ((List.range nt).map (fun i =>
          { colophon := col i, payload := pay i, clamps := (codedTileOk p i tables (col i) (pay i)).getD 0,
            step := (parseColophon (col i)).step })) 0 0

/-- The tensor digest (R145). -/
def tensorDigest (paramBytes : Bytes) (tables : List Bytes) (tiles : List Coded) : Bytes :=
  let chunk (n : Nat) : Bytes :=
    vbytes (Config.sm3 (((tiles.drop (4096 * n)).take 4096).flatMap (fun t => t.colophon ++ t.payload)))
  let chunks := (List.range (ceilDiv tiles.length 4096)).map chunk
  vbytes (Config.sm3 (paramBytes ++ tables.flatten ++ chunks.flatten))

/-- The writes of a coded tensor in order: table images, then each tile, payload before colophon (R107, R143). -/
def codedWrites (r : AccReq) (tables : List Bytes) (tiles : List Coded) : List (Nat × Bytes) :=
  (tables.zipIdx.map (fun x => (r.tbase + 16 * x.2, x.1)))
    ++ tiles.zipIdx.flatMap (fun x =>
        [(r.pbase + x.2 * slotBytes r.params, x.1.payload), (r.cbase + 32 * x.2, x.1.colophon)])

/-- A list of writes of an accession made for a master, in class 4, by the accession logic of the half that holds them (R141,
R142, R491). -/
def writeAll (s : State) (mid : Nat) (l : List (Nat × Bytes)) : State :=
  l.foldl (fun s w => writeAny (chargeWrite s 4 w.1 w.2.length (.tier (daHalf w.1))) 4 mid w.1 w.2) s

/-- The source of an accession charged in class 4, once for each pass: ENCODE makes two and CODED one (R135, R141, R491). -/
def chargeSource (s : State) (r : AccReq) : State :=
  let n := imageLen r.params r.coded
  let one (s : State) : State := match r.window.bind (tget s.plain.windows) with
    | some w => (List.range w.count).foldl (fun s i =>
        chargeRead s 4 (homeOf s ((w.g + i) * gib)) (min gib (n - i * gib)) (.tier (daHalf (homeOf s ((w.g + i) * gib))))) s
    | none => chargeRead s 4 r.src n (.tier (daHalf r.src))
  if r.coded then one s else one (one s)

/-- Whether an accession's traffic may begin: class 4 is below its cap on the resources of its source and destination (R501). -/
def accOpen (s : State) (r : AccReq) : Bool :=
  let a := match r.window.bind (tget s.plain.windows) with
    | some w => homeOf s (w.g * gib)
    | none => r.src
  let near (da : Nat) : Bool := daRange da == 1 || daRange da == 2
  capOpen s 4 ((if near a then readPath a (.tier (daHalf a)) else [])
    ++ (if near r.pbase then writePath r.pbase (.tier (daHalf r.pbase)) else []))

/-- The bytes of a window's staging, with its poisoned plain lines (R315). Lines never written hold what the homes of the granules
held, WINDOW_DECLARE emptying nothing (R169; DESIGN CHOICE, log 132). -/
def readStaging (s : State) (w : WeightWin) (n : Nat) : State × Bytes × List Nat :=
  (List.range w.count).foldl (fun (acc : State × Bytes × List Nat) i =>
    let home := homeOf acc.1 ((w.g + i) * gib)
    let len := min gib (n - i * gib)
    let (s, b, bad) := physRead acc.1 home len 0
    (s, acc.2.1 ++ b, acc.2.2 ++ bad.map (fun l => l - home + daMk 8 ((w.g + i) * gib)))) (s, [], [])

/-- The source of a request: a window's staging, or bytes in a region of the sender. -/
def readSource (s : State) (r : AccReq) (remote : RemoteRead) : State × Bytes × List Nat :=
  let n := imageLen r.params r.coded
  match r.window with
  | none => readAny s r.master r.src n remote
  | some w =>
    match tget s.plain.windows w with
    | none => (s, zeros n, [])
    | some win => readStaging s win n

/-- A failed accession: destinations zero-filled, in class 4, the report kept, no tensor-table entry (R141, R144, R566). A window
enters FAILED (R169). The tensor-table entry of an earlier encoding of the window stays LOADED over the zero-filled bytes, and the
window is left without a coded form: R144 speaks of no earlier entry (DESIGN CHOICE, log 130). -/
def accFail (s : State) (r : AccReq) (rep : AccReport) (rc : Nat) : State :=
  let s := (masterSpans r.params r.pbase r.cbase r.tbase).foldl (fun s x =>
    zeroAny (chargeWrite s 4 x.1 x.2 (.tier (daHalf x.1))) 4 r.master x.1 x.2) s
  let mine := s.acc.failed.filter (fun x => x.master == r.master)
  let others := s.acc.failed.filter (fun x => x.master != r.master)
  let kept := keepLast 64 mine { rep with rc := rc }
  let s := { s with acc := { s.acc with running := none, held := [], failed := others ++ kept } }
  match r.window with
  | none => s
  | some w => winMod s w (fun w => { w with state := .failed, current := none })

/-- The counts of tiles per rate-control step, every tile by the STEP of its colophon, those that rate control never encoded with the
rest (R157, R565; DESIGN CHOICE, log 131). -/
def stepCounts (tiles : List Coded) : List Nat := (List.range 8).map (fun k => tiles.countP (fun t => t.step == k))

/-- ACCESSION_START (R141): the next request in accepted order runs its passes, in class 4, once the class is below its cap
(R501). -/
def accessionStart (s : State) (remote : RemoteRead) : State :=
  match s.acc.running, s.acc.queue with
  | none, r :: rest =>
    if s.ras.moduleFault || !accOpen s r then s else
    let rep : AccReport := { master := r.master, tag := r.params.tag, nt := nTiles r.params }
    let s := { s with acc := { s.acc with queue := rest } }
    let (s, img, bad) := readSource (chargeSource s r) r remote
    match (if r.coded then runCoded r.params img bad r.src else runEncode r.params img.toArray bad r.src) with
    | .failed rc tile => accFail s r { rep with failTile := tile } rc
    | .coded tables tiles round clamp =>
      let rep := { rep with
        tilesDone := tiles.length, ingestRound := round, ingestClamp := clamp, steps := stepCounts tiles,
        wsatPos := (tiles.map (·.clamps)).foldl (· + ·) 0, digest := tensorDigest r.paramBytes tables tiles }
      let ws := codedWrites r tables tiles
      match r.window with
      | none => let s := writeAll s r.master ws
                { s with acc := { s.acc with running := some (r, rep) } }
      | some _ => { s with acc := { s.acc with running := some (r, rep), held := ws } }
  | _, _ => s

/-- ACCESSION_START. -/
def execAccessionStart (remote : RemoteRead) (s : State) : Out := .next (accessionStart s remote)

/-- A tensor loaded, or loaded again under its number (R84, R99, R146, R302). -/
def loadTensor (s : State) (r : AccReq) (rep : AccReport) : State × Nat :=
  let guard : Guard := { wsatPos := sat32 rep.wsatPos }
  match tensorByTag s r.master r.params.tag with
  | some t =>
    let s := probesEnd (edgeFresh (dropKept (dropCopies (closeInvest s t.id 5) t.id) t.id) t.id) t.id
    (tensorMod s t.id (fun t => { t with params := r.params, pbase := r.pbase, cbase := r.cbase, tbase := r.tbase,
                                         digest := rep.digest, damaged := false, guard := guard, wc := wcClear t.wc,
                                         lastFetch := none, lastProbe := none, window := r.window }), t.id)
  | none =>
    let t : Tensor := { id := s.nextTensor, master := r.master, params := r.params, pbase := r.pbase, cbase := r.cbase,
                        tbase := r.tbase, digest := rep.digest, guard := guard, window := r.window }
    ({ s with tensors := tset s.tensors t.id t, nextTensor := s.nextTensor + 1 }, t.id)

/-- Whether a request's signature over a digest verifies under its tenant's volume key (R146, R616). -/
def accSigned (s : State) (r : AccReq) (digest : Bytes) : Bool :=
  match ((tenantOf s r.master).bind (tget s.tenants)).bind (·.vkey) with
  | none => false
  | some k => Config.sm2Verify (ascii "1234567812345678") k digest r.sig

/-- A window switches to a new coded form: the form before it, with the bytes that held it, serves reads of this cycle (R28,
R171). -/
def windowSwitch (s : State) (w : WeightWin) (id : Nat) : WeightWin :=
  let before := (w.current.bind (tget s.tensors)).map (fun t =>
    let spans := masterSpans t.params t.pbase t.cbase t.tbase
    (s.now, t, s.mem.cells.filter (fun c => spans.any (fun x => decide (x.1 ≤ c.1) && decide (c.1 < x.1 + x.2)))))
  { w with state := .ready, current := some id, before := before }

/-- ACCESSION_END (R146): digest, signature, then LOADED. -/
def accessionEnd (s : State) : State :=
  match s.acc.running with
  | none => s
  | some (r, rep) =>
    if s.ras.moduleFault then s
    else if (match r.expect with | some e => e != rep.digest | none => false) then accFail s r rep rcHashMismatch
    else if r.signed && !accSigned s r rep.digest then accFail s r rep rcSignatureFail
    else
      let old := s
      let s := writeAll s r.master s.acc.held
      let (s, id) := loadTensor s r rep
      let s := { s with acc := { s.acc with running := none, held := [], done := s.acc.done ++ [{ rep with rc := 0 }] } }
      match r.window with
      | none => s
      | some w => winMod s w (fun w => windowSwitch old w id)

/-- ACCESSION_END. -/
def execAccessionEnd (s : State) : Out := .next (accessionEnd s)

end Sys2Proof.Machine
end

