-- ==== Sys2Proof/Machine/Volume.lean ====
section
/-! DEFINITION. Volumes and queues: the volume image, its checks at load, the units a step runs on, and the desk
commands of group 0x05 (R222 to R242, R246, R258 to R263, R570, R571). -/

namespace Sys2Proof.Machine

/-! ### Units of a step (R238, R280, R283) -/

/-- The units of a range that are up, in increasing number; where none is, the next in its half in rotating order
(R238, R280, R283). `per` units make a half. -/
def rangeUnits (up : Nat → Bool) (per first count : Nat) : List Nat :=
  let inside := ((List.range count).map (first + ·)).filter up
  if !inside.isEmpty then inside
  else
    let h0 := first / per * per
    let after := (List.range per).map (fun i => h0 + (first + count - h0 + i) % per)
    match after.find? up with
    | some u => [u]
    | none => []

/-- Whether a matrix unit is in service. -/
def muUp (s : State) (n : Nat) : Bool := (muOf s n).inService && halfUp s (halfOf (n / 64))

/-- Whether a vector unit is in service. -/
def vuUp (s : State) (n : Nat) : Bool := (vuOf s n).inService && halfUp s (halfOf (n / 16))

/-- The matrix units that a step's range gives now. -/
def muRange (s : State) (first count : Nat) : List Nat := rangeUnits (muUp s) 64 first count

/-- The vector units that a step's range gives now. -/
def vuRange (s : State) (first count : Nat) : List Nat := rangeUnits (vuUp s) 16 first count

/-- The matrix units in service, which take the tiles of an EMBED in turn (R217). -/
def embedUnits (s : State) : List Nat := musIn s .h0 ++ musIn s .h1

/-- Items of unit k of U: from and up to, not including (R238). -/
def itemSpan (n u k : Nat) : Nat × Nat := (k * n / u, (k + 1) * n / u)

/-- The position in a unit list of the unit that holds item i (R238). -/
def itemUnit (n u i : Nat) : Nat := ((i + 1) * u - 1) / n

/-! ### Step codes (R175, R236) -/

/-- MATVEC. -/
def opMatvec : Nat := 0x10
/-- ATTN_SCORE. -/
def opScore : Nat := 0x20
/-- ATTN_VALUE. -/
def opValue : Nat := 0x21
/-- KV_APPEND. -/
def opAppend : Nat := 0x22
/-- ELEMWISE. -/
def opElem : Nat := 0x30
/-- RMSNORM. -/
def opRms : Nat := 0x31
/-- LAYERNORM. -/
def opLayer : Nat := 0x32
/-- SOFTMAX. -/
def opSoftmax : Nat := 0x33
/-- ROPE. -/
def opRope : Nat := 0x34
/-- ACT. -/
def opAct : Nat := 0x35
/-- EMBED. -/
def opEmbed : Nat := 0x36
/-- MERGE. -/
def opMerge : Nat := 0x37
/-- TOPK. -/
def opTopk : Nat := 0x38
/-- SAMPLE. -/
def opSample : Nat := 0x39
/-- RELAY_REDUCE. -/
def opRelay : Nat := 0x40
/-- LOOP. -/
def opLoop : Nat := 0x50
/-- ROUTE. -/
def opRoute : Nat := 0x51

/-- Whether an opcode runs on matrix units. -/
def opOnMu (op : Nat) : Bool := op == opMatvec || op == opScore || op == opValue

/-- Whether an opcode runs on vector units. -/
def opOnVu (op : Nat) : Bool := decide (opElem ≤ op) && decide (op ≤ opSample) && op != opEmbed

/-- Whether a step's condition is set. -/
def condOn (c : BitVec 16) : Bool := c.getLsbD 15

/-- Router of a condition. -/
def condRouter (c : BitVec 16) : Nat := c.toNat / 4096 % 8

/-- Expert number of a condition. -/
def condExpert (c : BitVec 16) : Nat := c.toNat % 4096

/-- MODE[2:0]. -/
def stFunc (x : VStep) : Nat := x.mode.toNat % 8

/-- SPLIT (R71). -/
def stSplit (x : VStep) : Nat := x.mode.toNat / 8 % 4

/-- Batch columns of a SHAPE (R233). -/
def shapeBatch (f : Nat) : Nat := 2 ^ f

/-! ### Operand descriptors (R231, R232) -/

/-- VU_BUF. -/
def kVu : Nat := 0
/-- ACT_STORE. -/
def kAct : Nat := 1
/-- DEVICE. -/
def kDev : Nat := 2
/-- INPUT. -/
def kInput : Nat := 3
/-- RESULT. -/
def kResult : Nat := 4
/-- REDUCE. -/
def kReduce : Nat := 5
/-- SLOT. -/
def kSlot : Nat := 6
/-- KV. -/
def kKv : Nat := 7
/-- AUX. -/
def kAux : Nat := 8
/-- TOKEN. -/
def kToken : Nat := 9

/-- Whether a FORMAT is FP8 (R231). -/
def isFp8 (f : Nat) : Bool := f == 2 || f == 3

/-- Bytes of an FP8 vector, hi part (R38). -/
def fp8Len (n : Nat) : Nat := n + n / 32

/-- Bytes of n elements of a format; `split` for the layout of R74 (R38, R74, R231). -/
def elemsLen (format n : Nat) (split : Bool) : Nat :=
  if isFp8 format then (if split then 2 * fp8Len n + ceilDiv n 256 else fp8Len n)
  else if format = 1 then 2 * n
  else if format = 5 then 8 * n
  else 4 * n

/-- Bytes of an operand. -/
def operLen (o : Oper) : Nat := elemsLen o.format o.length (o.splitIn || o.kind == kAct)

/-- Whether an operand's fields are ones R231 and R232 define. -/
def operOk (nslot nkv lenAux : Nat) (raw : Bytes) (o : Oper) : Bool :=
  decide (o.kind ≤ 9) && decide (o.format ≤ 5) && decide (leAt raw 2 1 < 4) && leAt raw 3 1 == 0
    && (!isFp8 o.format || o.length % 32 == 0) && (!o.splitIn || isFp8 o.format)
    && (if o.kind = kAct ∨ o.kind = kReduce ∨ o.kind = kToken then o.addr == 0
        else if o.kind = kSlot then decide (o.addr < nslot)
        else if o.kind = kKv then decide (o.addr < nkv)
        else if o.kind = kAux then decide (o.addr + operLen o ≤ lenAux)
        else true)

/-- An operand descriptor (R231). -/
def parseOper (b : Bytes) : Oper :=
  { kind := leAt b 0 1, format := leAt b 1 1, splitIn := natBit (leAt b 2 1) 0, half := halfOf (leAt b 2 1 / 2 % 2),
    length := leAt b 4 4, addr := leAt b 8 8 }

/-- A step-list entry (R233). -/
def parseStep (b : Bytes) : VStep :=
  { opcode := leAt b 0 1, flags := BitVec.ofNat 8 (leAt b 1 1), mode := BitVec.ofNat 8 (leAt b 2 1), batch := leAt b 3 1,
    opa := leAt b 4 2, opb := leAt b 6 2, opc := leAt b 8 2, opd := leAt b 0xA 2, param := leAt b 0xC 4,
    unitFirst := leAt b 0x10 1, unitCount := leAt b 0x11 1, cond := BitVec.ofNat 16 (leAt b 0x12 2),
    set := BitVec.ofNat 8 (leAt b 0x14 1), wait := BitVec.ofNat 64 (leAt b 0x18 8) }

/-- A catalogue entry (R240). -/
def parseCat (b : Bytes) : CatEntry :=
  { slot := leAt b 0 2, cond := BitVec.ofNat 16 (leAt b 2 2), first := leAt b 4 4, count := leAt b 8 3, dest := leAt b 0xB 1,
    need := leAt b 0xC 3, cls := leAt b 0xF 1 % 8, pin := natBit (leAt b 0xF 1) 3 }

/-- A tensor slot's parameters, as R105 orders them (R228). -/
def parseSlotParams (b : Bytes) : TParams :=
  { method := leAt b 4 1, alphabet := leAt b 5 1, rank := leAt b 6 1, q := leAt b 7 1, ntab := leAt b 8 1, tag := leAt b 0 4,
    nm := leAt b 0x10 4, rows := leAt b 0x14 4, cols := leAt b 0x18 4 }

/-- A tensor slot (R228) bound to a tensor. -/
def parseSlot (b : Bytes) (tensor : Nat) : VSlot :=
  { params := parseSlotParams b, nprobe := leAt b 0xA 2, probeFirst := leAt b 0xC 4, satLimit := leAt b 0x1C 4,
    digest := slice b 0x20 32, tensor := tensor }

/-- A probe record (R87). -/
def parseProbe (b : Bytes) : Probe :=
  { tile := leAt b 0 4, probe := leAt b 4 2, tol := leAt b 6 2, e5m2 := natBit (leAt b 8 1) 0, code := natBit (leAt b 8 1) 1,
    act := slice b 0x10 128, ascale := slice b 0x90 4,
    ref := (List.range 128).map (fun i => BitVec.ofNat 32 (leAt b (0xA0 + 4 * i) 4)) }

/-- Whether a tensor may run in code mode: LRS codes of 1 or 1.6 bits and rank 1 (R46). -/
def codeModeOk (p : TParams) : Bool := p.method == 1 && decide (p.alphabet ≤ 1) && p.rank == 1

/-- Whether a probe record passes R88, its number apart. -/
def probeOk (p : TParams) (raw : Bytes) (r : Probe) : Bool :=
  decide (r.tile < nTiles p) && decide (leAt raw 8 1 < 4) && (!r.code || codeModeOk p) && zeroAt raw 9 7 && zeroAt raw 0x94 12

/-! ### Operand kinds of each opcode (R181, R234, R235, R739) -/

/-- A requirement on an operand field: unused, a number, or a descriptor of given kinds and formats. -/
inductive FieldReq where
  | unused
  | number (lo hi : Nat)
  | oper (kinds formats : List Nat)
  | dest (kinds : List Nat)
  deriving DecidableEq, Repr

/-- Formats that a destination takes (R181). -/
def destFormats (kind : Nat) : List Nat :=
  if kind = kVu then [0, 1] else if kind = kAct then [1, 2, 3] else if kind = kReduce then [0] else [0, 1, 2, 3]

/-- The activation of a matrix step (log 24). -/
def reqAct : FieldReq := .oper [kVu, kAct, kDev, kInput, kAux] [1, 2, 3]
/-- The outputs of a matrix step (R181). -/
def reqMuOut : FieldReq := .dest [kVu, kAct, kDev, kResult, kReduce]
/-- An input of a VU step (R739). -/
def reqVuIn : FieldReq := .oper [kVu, kAux] [0, 1, 2, 3]
/-- An output of a VU step (R739). -/
def reqVuOut : FieldReq := .dest [kVu, kAct, kDev, kResult]
/-- A weight tensor. -/
def reqSlot : FieldReq := .oper [kSlot] [0, 1, 2, 3, 4, 5]
/-- A key/value object. -/
def reqKv : FieldReq := .oper [kKv] [0, 1, 2, 3, 4, 5]
/-- FP32 vectors in the VU buffer. -/
def reqVuF32 : FieldReq := .oper [kVu] [0]
/-- Candidate lists in the VU buffer. -/
def reqCand : FieldReq := .oper [kVu] [5]

/-- OPA, OPB, OPC and OPD of an opcode (R235). -/
def fieldReqs (x : VStep) : Option (FieldReq × FieldReq × FieldReq × FieldReq) :=
  let f := stFunc x
  if x.opcode = opMatvec then some (reqSlot, reqAct, reqMuOut, .unused)
  else if x.opcode = opScore ∨ x.opcode = opValue then some (reqKv, reqAct, reqMuOut, .number 0 127)
  else if x.opcode = opAppend then some (reqKv, reqVuF32, reqVuF32, .unused)
  else if x.opcode = opElem then
    some (reqVuIn, if f ≤ 2 then reqVuIn else .unused, reqVuOut, if f = 2 then reqVuIn else .unused)
  else if x.opcode = opRms ∨ x.opcode = opLayer then some (reqVuIn, .unused, reqVuOut, reqVuIn)
  else if x.opcode = opSoftmax then some (reqVuIn, .unused, reqVuOut, reqVuOut)
  else if x.opcode = opRope then some (reqVuIn, .unused, reqVuOut, .oper [kAux] [0])
  else if x.opcode = opAct then some (reqVuIn, if x.flags.getLsbD 2 then reqVuIn else .unused, reqVuOut, .unused)
  else if x.opcode = opEmbed then some (reqSlot, .oper [kToken, kInput, kVu] [4], reqVuF32, .unused)
  else if x.opcode = opMerge then some (reqVuIn, reqVuIn, reqVuOut, .unused)
  else if x.opcode = opTopk then some (reqVuIn, .unused, .oper [kVu, kDev, kResult] [5], .number 1 256)
  else if x.opcode = opSample then some (reqCand, .oper [kInput] [0, 1, 2, 3, 4, 5], .oper [kToken] [4], .unused)
  else if x.opcode = opRelay then
    some (if natField x.param 8 2 = 2 then reqCand else .oper [kReduce, kVu] [0], .unused,
          if natField x.param 8 2 = 2 then .oper [kVu, kDev, kResult] [5]
          else .dest [kVu, kAct, kDev, kResult, kReduce], .unused)
  else if x.opcode = opLoop then some (.unused, .unused, .unused, .unused)
  else if x.opcode = opRoute then some (reqCand, .unused, .unused, .unused)
  else none

/-- Whether a field meets its requirement. -/
def fieldOk (opers : List Oper) (v : Nat) (r : FieldReq) : Bool :=
  match r with
  | .unused => v == 0xFFFF
  | .number lo hi => decide (lo ≤ v) && decide (v ≤ hi)
  | .oper kinds formats =>
    match opers[v]? with
    | none => false
    | some o => kinds.contains o.kind && formats.contains o.format
  | .dest kinds =>
    match opers[v]? with
    | none => false
    | some o => kinds.contains o.kind && (destFormats o.kind).contains o.format

/-- Whether MODE, FLAGS, BATCH and PARAM are ones R235 gives the opcode; `p` are the parameters of the slot that OPA
names. -/
def stepFields (i : Nat) (x : VStep) (p : TParams) : Bool :=
  let f := stFunc x
  let op := x.opcode
  let fl := x.flags.toNat
  let b := x.batch
  let noSplit := stSplit x == 0
  if op = opMatvec then
    decide (f ≤ 4) && decide (fl ≤ 1) && (fl == 0 || codeModeOk p) && decide (1 ≤ b) && decide (b ≤ shapeBatch f)
      && decide (x.param < p.nm) && decide (p.cols ≤ 65536)
  else if op = opScore ∨ op = opValue then decide (f ≤ 4) && fl == 0 && b == shapeBatch f
  else if op = opAppend then f == 0 && noSplit && fl == 0 && b == 0 && x.param == 0
  else if op = opElem then decide (f ≤ 4) && fl == 0 && b == 0 && (f == 3 || x.param == 0)
  else if op = opRms ∨ op = opLayer ∨ op = opSoftmax then f == 0 && fl == 0 && decide (1 ≤ b)
  else if op = opRope then f == 0 && (fl == 0 || fl == 2) && decide (1 ≤ b) && x.param == 0
  else if op = opAct then decide (f ≤ 6) && (fl == 0 || fl == 4) && b == 0 && x.param == 0
  else if op = opEmbed then f == 0 && noSplit && fl == 0 && b == 0 && decide (x.param < p.nm)
  else if op = opMerge then f == 0 && fl == 0 && decide (1 ≤ b) && x.param == 0
  else if op = opTopk then f == 0 && noSplit && fl == 0 && b == 0
  else if op = opSample then f == 0 && noSplit && fl == 0 && b == 0 && x.param == 0
  else if op = opRelay then
    f == 0 && noSplit && fl == 0 && b == 0 && decide (x.param < 2 ^ 14) && decide (natField x.param 8 2 ≤ 2)
      && (natField x.param 8 2 == 1 || natBit x.param (natField x.param 10 3))
  else if op = opLoop then f == 0 && noSplit && fl == 0 && b == 0 && decide (x.param ≤ i)
  else if op = opRoute then f == 0 && noSplit && fl == 0 && decide (1 ≤ b) && decide (b ≤ 16) && decide (x.param < 8)
  else false

/-- Whether a step's units are ones R235 gives the opcode (R233). -/
def stepUnits (x : VStep) : Bool :=
  if opOnMu x.opcode then decide (1 ≤ x.unitCount) && decide (x.unitFirst + x.unitCount ≤ 128)
  else if opOnVu x.opcode then
    decide (1 ≤ x.unitCount) && decide (x.unitFirst + x.unitCount ≤ 32) && (x.opcode != opSample || x.unitCount == 1)
  else x.unitFirst == 0 && x.unitCount == 0

/-- The descriptors that a step reads, besides its weight and key/value object. -/
def stepInputs (x : VStep) : List Nat :=
  let op := x.opcode
  if op = opMatvec ∨ op = opScore ∨ op = opValue then [x.opb]
  else if op = opAppend then [x.opb, x.opc]
  else if op = opElem then (if stFunc x = 2 then [x.opa, x.opb, x.opd] else if stFunc x ≤ 1 then [x.opa, x.opb] else [x.opa])
  else if op = opRms then [x.opa, x.opd]
  else if op = opLayer then [x.opa, x.opd, x.opd + 1]
  else if op = opRope then [x.opa, x.opd]
  else if op = opAct then (if x.flags.getLsbD 2 then [x.opa, x.opb] else [x.opa])
  else if op = opEmbed then [x.opb]
  else if op = opMerge then
    (List.range x.batch).map (x.opa + ·) ++ (List.range x.batch).map (x.opb + ·)
  else if op = opSample then [x.opa, x.opb]
  else if op = opLoop then []
  else [x.opa]

/-- The slot that a step's weight comes from. -/
def stepSlot (opers : List Oper) (x : VStep) : Option Nat :=
  match opers[x.opa]? with
  | none => none
  | some o => if o.kind = kSlot then some o.addr else none

/-- The key/value slot of a step. -/
def stepKv (opers : List Oper) (x : VStep) : Option Nat :=
  match opers[x.opa]? with
  | none => none
  | some o => if o.kind = kKv then some o.addr else none

/-- Parameters of a step's weight tensor. -/
def stepParams (opers : List Oper) (slots : List VSlot) (x : VStep) : Option TParams :=
  (stepSlot opers x).bind (fun i => (slots[i]?).map (·.params))

/-- A step passes its own checks (R175, R177, R233 to R236, R46, R52, R71). -/
def stepOk (opers : List Oper) (slots : List VSlot) (i : Nat) (raw : Bytes) (x : VStep) : Bool :=
  let p := (stepParams opers slots x).getD (parseP [])
  (match fieldReqs x with
   | none => false
   | some (a, b, c, d) => fieldOk opers x.opa a && fieldOk opers x.opb b && fieldOk opers x.opc c && fieldOk opers x.opd d)
  && (x.opcode != opLayer || fieldOk opers (x.opd + 1) reqVuIn)
  && (x.opcode != opMerge || (List.range x.batch).all (fun k => fieldOk opers (x.opa + k) reqVuIn && fieldOk opers (x.opb + k) reqVuIn))
  && stepFields i x p && stepUnits x && stSplit x != 3 && decide (x.mode.toNat < 32)
  && zeroAt raw 0x15 3 && !x.set.getLsbD 6 && (x.set.getLsbD 7 || x.set == 0) && (condOn x.cond || x.cond == 0)

/-! ### The step list as a whole (R239, R251, R263) -/

/-- The index of LOOP and its target, where the volume has one. -/
def loopOf (steps : List VStep) : Option (Nat × Nat) :=
  match steps.getLast? with
  | none => none
  | some x => if x.opcode = opLoop then some (steps.length - 1, x.param) else none

/-- LOOP stands only last, and its body holds exactly one SAMPLE (R239). -/
def loopOk (steps : List VStep) : Bool :=
  (steps.dropLast).all (fun x => x.opcode != opLoop)
    && (match loopOf steps with
        | none => true
        | some (_, t) => (steps.drop t).countP (fun x => x.opcode == opSample) == 1)

/-- No step waits on a token that no step sets (R251). -/
def waitsOk (steps : List VStep) : Bool :=
  let sets := steps.foldl (fun m x => if x.set.getLsbD 7 then m ||| (1#64 <<< (x.set.toNat % 64)) else m) 0#64
  steps.all (fun x => x.wait &&& ~~~sets == 0)

/-- The last ROUTE on a router before a step in the same pass of the body (R263). -/
def routeBefore (steps : List VStep) (i router : Nat) : Option Nat :=
  let lo := match loopOf steps with
    | none => 0
    | some (_, t) => if t ≤ i then t else 0
  ((List.range i).filter (fun j => decide (lo ≤ j)
    && (match steps[j]? with | some x => x.opcode == opRoute && x.param == router | none => false))).getLast?

/-- Every conditional step has its ROUTE (R263). -/
def routesOk (steps : List VStep) : Bool :=
  (steps.zipIdx).all (fun p => !condOn p.1.cond || (routeBefore steps p.2 (condRouter p.1.cond)).isSome)

/-! ### What a step draws in each slice (R178, R238, R258, R262) -/

/-- Granules that a MATVEC draws on the unit of position k of U. -/
def matvecDraw (p : TParams) (u k : Nat) : Nat :=
  let (a, b) := itemSpan (tileRows p * tileCols p) u k
  (b - a) * p.q

/-- Whether the activation of a MATVEC fits the stores of its units (R178). -/
def actFits (p : TParams) (batch u : Nat) : Bool :=
  (List.range u).all (fun k =>
    let (a, b) := itemSpan (tileRows p * tileCols p) u k
    decide (min (b - a) (tileCols p) * batch * 2 ≤ 1024))

/-- The tiles of a catalogue entry. -/
def catTiles (e : CatEntry) : List Nat := (List.range e.count).map (e.first + ·)

/-- The slot whose tiles a MATVEC or EMBED step brings, its parameters, and the tiles (R258): all those of a MATVEC's matrix, or those
of an EMBED's catalogue entries, or of one of its tile rows. -/
def ownTiles (opers : List Oper) (slots : List VSlot) (cats : List CatEntry) (i : Nat) (x : VStep) : Option (Nat × TParams × List Nat) :=
  match stepSlot opers x, stepParams opers slots x with
  | some sl, some p =>
    let n := tileRows p * tileCols p
    if x.opcode = opMatvec then some (sl, p, (List.range n).map (x.param * n + ·))
    else if x.opcode = opEmbed then
      let es := cats.filter (fun e => e.need == i && e.dest == 0 && e.slot == sl)
      some (sl, p, if es.isEmpty then (List.range (tileCols p)).map (x.param * n + ·) else (es.map catTiles).flatten.eraseDups)
    else none
  | _, _ => none

/-- The tiles of an EMBED step fit its slices with every unit in service; it has no unit range to lose one from (R217, R262). -/
def embedFits (opers : List Oper) (slots : List VSlot) (cats : List CatEntry) (i : Nat) (x : VStep) : Bool :=
  match ownTiles opers slots cats i x with
  | none => true
  | some (_, p, ts) =>
    let n := tileRows p * tileCols p
    (List.range 128).all (fun m => decide ((ts.countP (fun t => t % n % 128 == m)) * p.q ≤ 7168))

/-- R178 and the slice fit of R262 for a step, with every unit of its range and with any one out. -/
def fitOk (opers : List Oper) (slots : List VSlot) (cats : List CatEntry) (i : Nat) (x : VStep) : Bool :=
  if x.opcode = opMatvec then
    match stepParams opers slots x with
    | none => true
    | some p =>
      [x.unitCount, max 1 (x.unitCount - 1)].all (fun u =>
        actFits p (shapeBatch (stFunc x)) u && (List.range u).all (fun k => decide (matvecDraw p u k ≤ 7168)))
  else if x.opcode = opEmbed then embedFits opers slots cats i x
  else true

/-- The slice that takes a tile of a slot for a step: that of the unit to which R238 assigns it, or by R217. -/
def tileSlice (s : State) (p : TParams) (x : VStep) (tile : Nat) : Option Nat :=
  let n := tileRows p * tileCols p
  let us := if x.opcode = opEmbed then embedUnits s else muRange s x.unitFirst x.unitCount
  let i := tile % n
  if us.isEmpty ∨ n = 0 then none
  else if x.opcode = opEmbed then us[i % us.length]? else us[itemUnit n us.length i]?

/-- Whether step NEED uses a tile of a slot (R241). -/
def usesTile (opers : List Oper) (slots : List VSlot) (x : VStep) (slot tile : Nat) : Bool :=
  (x.opcode == opMatvec || x.opcode == opEmbed) && stepSlot opers x == some slot
    && (match stepParams opers slots x with
        | none => false
        | some p => tile / (tileRows p * tileCols p) == x.param)

/-- A catalogue entry passes its own checks (R240, R241). -/
def catOk (opers : List Oper) (slots : List VSlot) (steps : List VStep) (raw : Bytes) (e : CatEntry) : Bool :=
  match slots[e.slot]?, steps[e.need]? with
  | some sl, some x =>
    decide (1 ≤ e.count) && decide (e.first + e.count ≤ nTiles sl.params) && decide (e.dest ≤ 1)
      && decide (leAt raw 0xF 1 < 16) && (condOn e.cond || e.cond == 0) && (!condOn e.cond || e.cond == x.cond)
      && (e.dest == 1 || (usesTile opers slots x e.slot e.first && usesTile opers slots x e.slot (e.first + e.count - 1)))
  | _, _ => false

/-- Whether NEED never falls (R241). -/
def needsRise : List CatEntry → Bool
  | a :: b :: r => decide (a.need ≤ b.need) && needsRise (b :: r)
  | _ => true

/-- The tiles that a volume holds by PIN, as slice, slot and tile (R259). -/
def pinTiles (s : State) (v : Volume) : List (Nat × Nat × Nat) :=
  ((v.cats.filter (fun e => e.pin && e.dest == 0)).map (fun e =>
    match v.slots[e.slot]?, v.steps[e.need]? with
    | some sl, some x => (catTiles e).filterMap (fun t => (tileSlice s sl.params x t).map (fun m => (m, e.slot, t)))
    | _, _ => [])).flatten.eraseDups

/-- Slot size of a volume's tensor, in granules. -/
def slotQ (v : Volume) (slot : Nat) : Nat := ((v.slots[slot]?).map (·.params.q)).getD 0

/-- The tiles that a step brings into each slice, as slice, slot and tile (R258). -/
def stepTiles (s : State) (v : Volume) (i : Nat) (x : VStep) : List (Nat × Nat × Nat) :=
  match ownTiles v.opers v.slots v.cats i x with
  | some (sl, p, ts) => ts.filterMap (fun t => (tileSlice s p x t).map (fun m => (m, sl, t)))
  | none => []

/-- Per-slice granules of a list of tiles. -/
def sliceSums (v : Volume) (l : List (Nat × Nat × Nat)) : List Nat :=
  (List.range 128).map (fun m => ((l.filter (fun e => e.1 == m)).map (fun e => slotQ v e.2.1)).foldl (· + ·) 0)

/-- The larger of two figures in each slice. -/
def maxEach (a b : List Nat) : List Nat := (List.range 128).map (fun m => max (a.getD m 0) (b.getD m 0))

/-- The load-time slice reserve: the most that any step draws in each slice, PIN folios apart (R258). -/
def loadReserve (s : State) (v : Volume) (pins : List (Nat × Nat × Nat)) : List Nat :=
  (v.steps.zipIdx).foldl (fun a p => maxEach a (sliceSums v ((stepTiles s v p.2 p.1).filter (fun e => !pins.contains e))))
    (List.replicate 128 0)

/-- The VU-buffer allocation of a half: the largest VU_BUF offset plus length (R621). -/
def vuAllocOf (opers : List Oper) (h : Half) : Nat :=
  (opers.filter (fun o => o.kind == kVu && o.half == h)).foldl (fun a o => max a (o.addr + operLen o)) 0

/-- PIN granules of all loaded volumes in a slice (R259). -/
def pinGranules (s : State) (m : Nat) : Nat := (s.volumes.map (fun v => v.2.pinGranules.getD m 0)).foldl (· + ·) 0

/-! ### VOLUME_LOAD (R222 to R230, R241, R262) -/

/-- n records of w bytes from an offset. -/
def records (img : Bytes) (off w n : Nat) : List Bytes := (List.range n).map (fun i => slice img (off + w * i) w)

/-- The sections of an image as offset and length: slots, operands, steps, catalogue, probes, auxiliary area. -/
def sectionsOf (b : Bytes) : List (Nat × Nat) :=
  [(leAt b 0x20 4, 64 * leAt b 0xA 2), (leAt b 0x24 4, 16 * leAt b 0xC 2), (leAt b 0x28 4, 32 * leAt b 0x10 4),
   (leAt b 0x2C 4, 16 * leAt b 0x14 4), (leAt b 0x30 4, 672 * leAt b 0x18 4), (leAt b 0x34 4, leAt b 0x1C 4)]

/-- The header passes R222 and R223. -/
def headerOk (s : State) (b : Bytes) (length : Nat) : Bool :=
  let secs := sectionsOf b
  let full := (secs.filter (fun x => x.2 != 0))
  leAt b 0 2 == 1 && leAt b 2 2 == 128 && leAt b 4 4 != 0 && natBit (leAt b 8 1) s.ident.slot.toNat
    && decide (leAt b 9 1 < 2) && decide (leAt b 0xA 2 ≤ 4096) && decide (1 ≤ leAt b 0xC 2) && decide (leAt b 0xC 2 ≤ 16384)
    && decide (leAt b 0xE 2 ≤ 1024) && decide (1 ≤ leAt b 0x10 4) && decide (leAt b 0x10 4 ≤ 1048576)
    && decide (leAt b 0x14 4 ≤ 4194304) && leAt b 0x38 4 == length && length % 64 == 0 && decide (128 ≤ length)
    && zeroAt b 0x3C 4 && zeroAt b 0x40 64
    && secs.all (fun x => x.1 % 64 == 0)
    && full.all (fun x => decide (128 ≤ x.1) && decide (x.1 + x.2 ≤ length)) && !anyMeet full

/-- A slot's tensor by R229: the master's tensor of its TAG with equal parameters. A tensor in its first accession has no entry yet: its
slot passes for the checks that come before the refusal of row 3 (R225, R567), under a number that no tensor has. -/
def bindSlot (s : State) (mid : Nat) (raw : Bytes) : Option VSlot :=
  match tensorByTag s mid (leAt raw 0 4) with
  | none => ((accOf s mid (leAt raw 0 4)).filter (fun r => decide (r.params = parseSlotParams raw) && leAt raw 9 1 == 0)).map
      (fun r => parseSlot raw (s.nextTensor + r.params.tag))
  | some t => if t.params = parseSlotParams raw ∧ leAt raw 9 1 = 0 then some (parseSlot raw t.id) else none

/-- A slot's probe records pass R88, their numbers apart. -/
def slotProbesOk (probes : List (Bytes × Probe)) (sl : VSlot) : Bool :=
  let mine := (probes.drop sl.probeFirst).take sl.nprobe
  decide (sl.nprobe ≤ 1024) && decide (sl.probeFirst + sl.nprobe ≤ probes.length)
    && mine.all (fun r => probeOk sl.params r.1 r.2)

/-- The probe records of a tensor, by index, through every slot that binds it. -/
def tensorProbes (slots : List VSlot) (id : Nat) : List Nat :=
  ((slots.filter (fun sl => sl.tensor == id)).flatMap (fun sl => (List.range sl.nprobe).map (sl.probeFirst + ·))).eraseDups

/-- The probe records of an image pass R88: reserved fields zero in every record, and no number shared by two records of one
tensor. -/
def probesOk (probes : List (Bytes × Probe)) (slots : List VSlot) : Bool :=
  probes.all (fun r => decide (leAt r.1 8 1 < 4) && zeroAt r.1 9 7 && zeroAt r.1 0x94 12)
    && slots.all (slotProbesOk probes)
    && slots.all (fun sl =>
      let ns := (tensorProbes slots sl.tensor).filterMap (fun i => (probes[i]?).map (·.2.probe))
      ns.eraseDups.length == ns.length)

/-- The volume of an image that passes check 2 of R225, its reserves not yet computed. -/
def parseVolume (s : State) (mid : Nat) (b : Bytes) : Option Volume :=
  let length := b.length
  if !headerOk s b length then none
  else
    match (records b (leAt b 0x20 4) 64 (leAt b 0xA 2)).mapM (bindSlot s mid) with
    | none => none
    | some slots =>
      let nkv := leAt b 0xE 2
      let rawOpers := records b (leAt b 0x24 4) 16 (leAt b 0xC 2)
      let opers := rawOpers.map parseOper
      let rawSteps := records b (leAt b 0x28 4) 32 (leAt b 0x10 4)
      let steps := rawSteps.map parseStep
      let rawCats := records b (leAt b 0x2C 4) 16 (leAt b 0x14 4)
      let cats := rawCats.map parseCat
      let probes := (records b (leAt b 0x30 4) 672 (leAt b 0x18 4)).map (fun r => (r, parseProbe r))
      if (rawOpers.zip opers).all (fun p => operOk slots.length nkv (leAt b 0x1C 4) p.1 p.2)
          ∧ ((rawSteps.zip steps).zipIdx).all (fun p => stepOk opers slots p.2 p.1.1 p.1.2)
          ∧ loopOk steps ∧ waitsOk steps ∧ routesOk steps
          ∧ (rawCats.zip cats).all (fun p => catOk opers slots steps p.1 p.2) ∧ needsRise cats
          ∧ probesOk probes slots ∧ (steps.zipIdx).all (fun p => fitOk opers slots cats p.2 p.1) then
        some { key := 0, master := mid, volumeId := leAt b 4 4, group := BitVec.ofNat 8 (leAt b 8 1),
               haltPolicy := leAt b 9 1 == 1, nkv := nkv, slots := slots, opers := opers, steps := steps, cats := cats,
               probes := probes.map (·.2), aux := slice b (leAt b 0x34 4) (leAt b 0x1C 4), reserve := [], pinGranules := [],
               vuAlloc := ⟨vuAllocOf opers .h0, vuAllocOf opers .h1⟩ }
      else none

/-- Whether a volume's signature verifies under its tenant's volume key (R224, R616). -/
def volumeSigned (s : State) (c : RunCmd) (b : Bytes) : Bool :=
  match (tget s.tenants (cmdTenant s c)).bind (·.vkey) with
  | none => false
  | some k =>
    let body := b.take (b.length - 64)
    Config.sm2Verify (ascii "1234567812345678") k (vbytes (Config.sm3 body)) (b.drop (b.length - 64))

/-- A volume of a master by its VOLUME_ID. -/
def volumeOf (s : State) (mid id : Nat) : Option Volume :=
  (s.volumes.find? (fun v => v.2.master == mid && v.2.volumeId == id)).map (·.2)

/-- A volume changed. -/
def volMod (s : State) (key : Nat) (f : Volume → Volume) : State := { s with volumes := tmod s.volumes key f }

/-- A volume takes its place (R226, R258, R259). -/
def placeVolume (s : State) (v : Volume) : State := { s with volumes := tset s.volumes v.key v, nextVolume := v.key + 1 }

/-- Largest element. -/
def listMax (l : List Nat) : Nat := l.foldl max 0

/-- VOLUME_LOAD (R225, R309, R570). `remote` brings an image in tier 3 or 4. A poisoned image ends the load POISONED. -/
def volumeLoadBody (remote : RemoteRead) (s : State) (c : RunCmd) : State :=
  let src := arg c 0
  let n := arg c 1
  let rc := deskCode s c.mid src n false
  if n < 64 + 128 then failWith s c rcBadField
  else if rc ≠ rcDone then failAddr s c src rc
  else if touchesProtected s src n then failWith s c rcBadField
  else
    let (s, b, bad) := readAny s c.mid src n remote
    if rtPoison bad src n then failWith s c rcPoisoned
    else if !volumeSigned s c b then failWith s c rcSignatureFail
    else
      match parseVolume s c.mid (b.take (n - 64)) with
      | none => failWith s c rcBadField
      | some v =>
        if (volumeOf s c.mid v.volumeId).isSome ∨ v.slots.any (fun x => inAccession s c.mid x.params.tag) then
          failWith s c rcConflict
        else if v.slots.any (fun x => ((tget s.tensors x.tensor).map (·.digest)) != some x.digest) then
          failWith s c rcHashMismatch
        else
          let pins := pinTiles s v
          let pinSums := sliceSums v pins
          let reserve := loadReserve s v pins
          let v := { v with key := s.nextVolume, reserve := reserve, pinGranules := pinSums }
          if 256 ≤ s.volumes.length ∨ 2 ^ 25 < v.vuAlloc.h0 ∨ 2 ^ 25 < v.vuAlloc.h1
              ∨ (List.range 128).any (fun m => decide (7168 < pinGranules s m + pinSums.getD m 0 + reserve.getD m 0)) then
            failWith s c rcNoSpace
          else
            complete (placeVolume s v) c rcDone [.u 4 v.volumeId, .u 2 (listMax reserve), .u 2 (listMax pinSums)]

/-- VOLUME_LOAD. -/
def execVolumeLoad (src : DeskSrc) (remote : RemoteRead) (s : State) : Out := .next (deskRun 0x0501 (volumeLoadBody remote) s src)

/-! ### Copies, their granules and their charges (R254, R256, R258 to R260) -/

/-- The copies of a slice. -/
def sliceCopies (s : State) (m : Nat) : List FolioCopy := (s.eng.copies.filter (fun e => e.1.1 == m)).map (·.2)

/-- Granules of a list of copies. -/
def sumGranules (l : List FolioCopy) : Nat := (l.map (·.granules)).foldl (· + ·) 0

/-- Granules of a slice charged to someone (R256). -/
def chargedTo (s : State) (m : Nat) (c : Charge) : Nat := sumGranules ((sliceCopies s m).filter (fun x => x.charge == c))

/-- Granules that contexts hold in reserve in a slice (R258). -/
def reservedIn (s : State) (m : Nat) : Nat := (s.eng.ctxs.map (fun x => x.2.job.reserve.getD m 0)).foldl (· + ·) 0

/-- Granules of copies that were pinned and whose charge has found no other room yet (R256, R259). -/
def unpinnedIn (s : State) (m : Nat) : Nat := sumGranules ((sliceCopies s m).filter (fun x => x.charge == .pin && !x.pin))

/-- Granules free in the common pool of a slice (R258, R260). -/
def poolFree (s : State) (m : Nat) : Nat :=
  7168 - pinGranules s m - reservedIn s m - chargedTo s m .pool - unpinnedIn s m

/-- Granules of a context's reserve unused in a slice. -/
def reserveFree (s : State) (n m : Nat) : Nat :=
  match tget s.eng.ctxs n with
  | none => 0
  | some x => x.job.reserve.getD m 0 - chargedTo s m (.ctx n)

/-- Where a charge that its holder gives up passes (R256): the next attached context's reserve, else the common pool, else it
stays. -/
def newCharge (s : State) (e : (Nat × FolioId) × FolioCopy) : Charge :=
  let own := if e.2.charge = .pin then e.2.granules else 0
  let common : Charge := if e.2.granules ≤ poolFree s e.1.1 + own then .pool else e.2.charge
  match e.2.users.head? with
  | some u => if e.2.granules ≤ reserveFree s u.ctx e.1.1 then .ctx u.ctx else common
  | none => common

/-- A copy's charge once its holder no longer uses it, or its volume no longer pins it (R256, R259). -/
def passCharge (s : State) (e : (Nat × FolioId) × FolioCopy) : Charge :=
  match e.2.charge with
  | .pool => .pool
  | .pin => if e.2.pin then .pin else newCharge s e
  | .ctx n => if e.2.users.any (fun u => u.ctx == n) ∧ thas s.eng.ctxs n then .ctx n else newCharge s e

/-- The charges of every copy after a release, one copy after another (R256). -/
def passCharges (s : State) : State :=
  s.eng.copies.foldl (fun s e =>
    let c := passCharge s e
    if c = e.2.charge then s
    else { s with eng := { s.eng with copies := tset s.eng.copies e.1 { e.2 with charge := c } } }) s

/-- Uses that end: a copy that nothing uses any more becomes ABSENT, unless PIN holds it or its data is still on the
way; PIN holds no POISONED copy (R254, R256, R261). -/
def dropUses (s : State) (p : FolioUse → Bool) : State :=
  let copies := tmap s.eng.copies (fun _ c => { c with users := c.users.filter (fun u => !p u) })
  let copies := tfilter copies (fun _ c => copyHeld c)
  passCharges { s with eng := { s.eng with copies := copies } }

/-! ### VOLUME_UNLOAD, VOLUME_STATUS, QUEUE_CREATE, QUEUE_DESTROY -/

/-- Call slips of a volume that wait, and those that run (R570). -/
def volumeSlips (s : State) (key : Nat) : Nat × Nat :=
  ((s.queues.map (fun q => q.2.waiting.countP (fun t => t.volume == key))).foldl (· + ·) 0,
   s.eng.ctxs.countP (fun x => x.2.job.volume == key))

/-- PIN copies that no other loaded volume pins are freed, or pass their charge on while a step uses them (R256, R259). -/
def dropPins (s : State) (v : Volume) : State :=
  let others := ((s.volumes.filter (fun w => w.1 != v.key)).map (fun w =>
    (pinTiles s w.2).filterMap (fun p => (w.2.slots[p.2.1]?).map (fun sl => (p.1, FolioId.tile sl.tensor p.2.2))))).flatten
  let copies := tmap s.eng.copies (fun k c => { c with pin := c.pin && others.contains k })
  dropUses { s with eng := { s.eng with copies := copies } } (fun _ => false)

/-- VOLUME_UNLOAD (R227, R259, R262). -/
def volumeUnloadBody (s : State) (c : RunCmd) : State :=
  match volumeOf s c.mid (arg c 0) with
  | none => failWith s c rcNotPermitted
  | some v =>
    let (w, r) := volumeSlips s v.key
    if 0 < w ∨ 0 < r then failWith s c rcConflict
    else complete (dropPins { s with volumes := tdel s.volumes v.key } v) c rcDone []

/-- VOLUME_UNLOAD. -/
def execVolumeUnload (src : DeskSrc) (s : State) : Out := .next (deskRun 0x0502 volumeUnloadBody s src)

/-- VOLUME_STATUS (R80, R570). -/
def volumeStatusBody (s : State) (c : RunCmd) : State :=
  match volumeOf s c.mid (arg c 0) with
  | none => failWith s c rcNotPermitted
  | some v =>
    let (w, r) := volumeSlips s v.key
    complete s c rcDone [.u 2 w, .u 2 r, .u 4 v.steps.length, .u 8 v.tokens, .u 4 v.split, .u 4 v.unsplit]

/-- VOLUME_STATUS. -/
def execVolumeStatus (src : DeskSrc) (s : State) : Out := .next (deskRun 0x0505 volumeStatusBody s src)

/-- The queue windows of a VF, in which its queues take the lowest free number (R714). -/
def freeQueueWindow (s : State) (poster : Nat) : Option Nat :=
  leastFrom (fun w => !s.queues.any (fun q => q.2.poster == poster && q.2.window == some w)) 16 0

/-- Whether a master ID can post call slips: a PF, a VF or a link-session master (R571). -/
def canPost (mid : Nat) : Bool := (midFn mid).isSome || (midPort mid).isSome

/-- QUEUE_CREATE (R246, R571, R714). -/
def queueCreateBody (s : State) (c : RunCmd) : State :=
  let poster := arg c 0
  let vf : Bool := match midFn poster with
    | some (.vf _) => true
    | _ => false
  let win := freeQueueWindow s poster
  if !canPost poster ∨ tenantOf s poster ≠ tenantOf s c.mid then failWith s c rcBadField
  else
    match leastFrom (fun n => !thas s.queues n) 256 0 with
    | none => failWith s c rcNoSpace
    | some n =>
      if vf ∧ win.isNone then failWith s c rcNoSpace
      else
        let q : Queue := { master := c.mid, poster := poster, window := if vf then win else none }
        complete { s with queues := tset s.queues n q } c rcDone [.u 2 n]

/-- QUEUE_CREATE. -/
def execQueueCreate (src : DeskSrc) (s : State) : Out := .next (deskRun 0x0503 queueCreateBody s src)

/-- Whether a call slip of a queue waits or runs. -/
def queueBusy (s : State) (n : Nat) (q : Queue) : Bool :=
  !q.waiting.isEmpty || s.eng.ctxs.any (fun x => x.2.lead.isNone && x.2.job.queue == n)

/-- QUEUE_DESTROY (R246, R571). -/
def queueDestroyBody (s : State) (c : RunCmd) : State :=
  match tget s.queues (arg c 0) with
  | none => failWith s c rcNotPermitted
  | some q =>
    if q.master ≠ c.mid then failWith s c rcNotPermitted
    else if queueBusy s (arg c 0) q then failWith s c rcConflict
    else complete { s with queues := tdel s.queues (arg c 0) } c rcDone []

/-- QUEUE_DESTROY. -/
def execQueueDestroy (src : DeskSrc) (s : State) : Out := .next (deskRun 0x0504 queueDestroyBody s src)

end Sys2Proof.Machine
end

