-- ==== Sys2Proof/Machine/Sched.lean ====
section
/-! DEFINITION. Call slips: queues, taking, refusing and admitting a call slip, HALT, lateness, folio charges and the
end of a call slip (R243 to R250, R256, R258, R265 to R279, R477 to R483, R708 to R711). -/

namespace Sys2Proof.Machine

/-! ### Slips and input blocks (R243, R244, R278) -/

/-- A call slip from its slot (R243). -/
def parseSlip (b : Bytes) : Slip :=
  { volumeId := leAt b 0 4, entry := leAt b 4 4, seq := leAt b 8 8, deadline := leAt b 0x10 8, input := leAt b 0x18 8,
    result := leAt b 0x20 8, ring := leAt b 0x28 8, mid := leAt b 0x30 2 % 4096, halt := natBit (leAt b 0x32 2) 0,
    ringLen := leAt b 0x34 4, targetSeq := leAt b 0x38 8 }

/-- Whether the reserved bits of a call slip are zero (R243). -/
def slipReservedOk (b : Bytes) : Bool :=
  decide (leAt b 0x30 2 < 4096) && decide (leAt b 0x32 2 < 2) && (natBit (leAt b 0x32 2) 0 || leAt b 0x38 8 == 0)

/-- The slots other than this module's in a volume's GROUP (R277). -/
def groupOthers (s : State) (v : Volume) : List Nat :=
  (List.range 8).filter (fun k => v.group.getLsbD k && k != s.ident.slot.toNat)

/-- The node of a board slot (R398). -/
def slotNode (s : State) (k : Nat) : Nat := s.ident.board * 8 + k

/-- Bytes of an input block that the device reads when it takes a call slip (R244, R278). -/
def inputLen (s : State) (v : Volume) (member : Bool) : Nat :=
  0x60 + 8 * v.nkv + (if member || (groupOthers s v).isEmpty then 0 else 64)

/-- The fields of an input block (R244). -/
def parseInput (nkv : Nat) (b : Bytes) : InputBlock :=
  { sampler := slice b 0 32, startToken := leAt b 0x20 4, position := leAt b 0x24 4, maxTokens := leAt b 0x28 4,
    tokenPeriod := leAt b 0x2C 4, stops := (List.range (leAt b 0x30 1)).map (fun i => leAt b (0x40 + 4 * i) 4),
    kv := (List.range nkv).map (fun i => leAt b (0x60 + 8 * i) 8),
    members := (List.range 8).map (fun i => leAt b (0x60 + 8 * nkv + 8 * i) 8) }

/-- The fields of an input block that a lead and a member check alike (R244, R248). -/
def inputFieldsOk (v : Volume) (b : Bytes) : Bool :=
  decide (leAt b 0x30 1 ≤ 8) && leAt b 0x31 1 == 0 && leAt b 0x32 2 == v.nkv && leAt b 0x34 4 == 0

/-- The lead's own checks of an input block: MRESULT zero and the MEMBER table of R278. -/
def leadBlockOk (s : State) (v : Volume) (b : Bytes) : Bool :=
  let others := groupOthers s v
  leAt b 0x38 8 == 0 && (others.isEmpty || (List.range 8).all (fun k =>
    (leAt b (0x60 + 8 * v.nkv + 8 * k) 8 != 0) == others.contains k))

/-! ### The reserve of a call slip (R258) -/

/-- Pages that an attention step counts for the reserve (R258). -/
def reservePages (k : KvObj) (window : Nat) : Nat :=
  if window = 0 ∨ 128 * k.maxPages ≤ window then k.maxPages else ceilDiv window 128 + 1

/-- Granules of a page (R189). -/
def pageGranules (k : KvObj) : Nat := ceilDiv (pageBytes k) 512

/-- Granules that an attention step draws in each slice (R258). -/
def attnDraw (s : State) (k : KvObj) (x : VStep) : List Nat :=
  let us := muRange s x.unitFirst x.unitCount
  let spans := (us.zipIdx).map (fun p => (p.1, itemSpan (reservePages k x.param) us.length p.2))
  (List.range 128).map (fun m => ((spans.filter (fun p => p.1 == m)).map
    (fun p => (p.2.2 - p.2.1) * pageGranules k)).foldl (· + ·) 0)

/-- The slice reserve of a call slip: the larger of the load-time figure and those of its attention steps (R258). -/
def slipReserve (s : State) (v : Volume) (kv : List Nat) : List Nat :=
  (v.steps.filter (fun x => x.opcode == opScore || x.opcode == opValue)).foldl (fun a x =>
    match (stepKv v.opers x).bind (fun i => (kv[i]?).bind (kvOf s v.master)) with
    | none => a
    | some k => maxEach a (attnDraw s k x)) v.reserve

/-- Whether a slice reserve can never be granted (R258). -/
def neverFits (s : State) (reserve : List Nat) : Bool :=
  (List.range 128).any (fun m => decide (7168 < pinGranules s m + reserve.getD m 0))

/-! ### Writes to a poster (R248, R477 to R481) -/

/-- Bytes written to a poster's memory: host memory of a function, with Relaxed Ordering and ID-Based Ordering clear (R34, R473), or the
partner's memory through a session. -/
def posterWrite (s : State) (poster addr : Nat) (b : Bytes) : State :=
  if (midFn poster).isSome then emit s (.hostWrite poster addr b false true) else emit s (.remoteWrite poster addr b)

/-- Code of END (R272). -/
def endCode (e : EndCode) : Nat :=
  match e with
  | .listEnd => 0
  | .stopToken => 1
  | .count => 2
  | .halted => 3
  | .deadline => 4
  | .fault => 5
  | .refused => 6
  | .haltCall => 7

/-- What a completion record says besides its sequence (R477). -/
structure Verdict where
  rc : Nat
  ending : EndCode
  late : Bool := false
  saturated : Bool := false
  sentinel : Bool := false
  tokens : Nat := 0
  stall : Nat := 0
  lateTokens : Nat := 0
  failStep : Option Nat := none
  deriving DecidableEq, Repr

/-- Bytes 0x00 to 0x37 of a completion record (R477). -/
def recordBytes (seq taken done : Nat) (v : Verdict) : Bytes :=
  leBytes 8 seq ++ leBytes 2 v.rc ++ leBytes 1 (endCode v.ending)
    ++ leBytes 1 (bitN v.late + 2 * bitN v.saturated + 4 * bitN v.sentinel) ++ leBytes 4 v.tokens ++ leBytes 8 v.stall
    ++ leBytes 8 taken ++ leBytes 8 done ++ leBytes 4 v.lateTokens ++ leBytes 4 (v.failStep.getD 0xFFFFFFFF) ++ zeros 8

/-- A completion record to a poster: bytes 0x00 to 0x37, then COMPLETE in a following write; its two writes are call-slip
data (R478, R491). -/
def recordWrite (s : State) (poster addr seq taken : Nat) (v : Verdict) : State :=
  posterWrite (posterWrite (chargeHostTx (chargeHostTx s 1 poster 56) 1 poster 8) poster addr (recordBytes seq taken (devNs s) v)) poster (addr + 0x38) (leBytes 8 seq)

/-- The LATE record of a call slip's first lateness (R268, R658). -/
def logLate (s : State) (mid volumeId seq deadline : Nat) : State :=
  logNow s { kind := 0x0303, severity := 0, tenant := tenantOf s mid, mid := mid, location := volumeId, detail0 := seq,
             detail1 := deadline }

/-- A call slip that ends without a context is late when device time exceeds its DEADLINE (R268). -/
def lateAtTake (s : State) (sl : Slip) : Bool := decide (sl.deadline < devNs s)

/-- A call slip that runs no step ends: its LATE record, where it is late, and its completion record (R268, R272). -/
def endUnrun (s : State) (q : Queue) (sl : Slip) (taken : Nat) (v : Verdict) : State :=
  let s := if v.late then logLate s sl.mid sl.volumeId sl.seq sl.deadline else s
  recordWrite s q.poster sl.result sl.seq taken v

/-! ### Taking a call slip (R247, R248, R270) -/

/-- A queue changed. -/
def queMod (s : State) (n : Nat) (f : Queue → Queue) : State := { s with queues := tmod s.queues n f }

/-- Whether a system session to a node is in service (R428). -/
def systemOpen (s : State) (node : Nat) : Bool :=
  s.link.sessions.any (fun p => p.1.1 == node && p.2.kind == .system && p.2.state == .opened)

/-- Whether either half is fenced (R21). -/
def anyFenced (s : State) : Bool := s.halves.h0.fenced || s.halves.h1.fenced

/-- Whether a closed loop's token ring breaks R479. -/
def ringBad (v : Volume) (sl : Slip) : Bool :=
  (loopOf v.steps).isSome && (sl.ring == 0 || sl.ring % 64 != 0 || decide (sl.ringLen < 16) || decide (65536 < sl.ringLen))

/-- What the device finds as it takes a call slip that is no HALT: the code of the first row of R248 that holds, or the
volume with the input block. While a half is fenced the device accepts no call slip (R21). Whether a member has loaded the volume is
a free value: no message of the spec asks it (log 135). -/
def takeCode (s : State) (q : Queue) (raw : Bytes) (sl : Slip) (vol : Option Volume) (block : Option (Bytes × Bool)) : Nat :=
  let badSlip := !slipReservedOk raw || sl.result % 64 != 0
  if anyFenced s then rcPoisoned
  else
    match vol, block with
    | some v, some (b, poison) =>
      if poison then rcPoisoned
      else if badSlip || decide (v.steps.length ≤ sl.entry) || !inputFieldsOk v b || !leadBlockOk s v b || ringBad v sl then rcBadField
      else if sl.mid ≠ q.master ∨ (parseInput v.nkv b).kv.any (fun h => (kvOf s q.master h).isNone) then rcNotPermitted
      else if (groupOthers s v).any (fun k => !systemOpen s (slotNode s k)
          || !Config.memberLoaded (slotNode s k) v.volumeId v.master s.now) then rcPartnerAbsent
      else if neverFits s (slipReserve s v (parseInput v.nkv b).kv) then rcNoSpace
      else rcDone
    | some v, none =>
      if badSlip || decide (v.steps.length ≤ sl.entry) || ringBad v sl then rcBadField else rcNotPermitted
    | none, _ => if badSlip then rcBadField else rcNotPermitted

/-- The input block of a call slip as the device reads it at take, in class 1, where INPUT lies in the master's regions; an address
that R17 refuses is logged (R17, R19, R248, R491). -/
def takeBlock (s : State) (mid : Nat) (input : Nat) (v : Volume) (member : Bool) (remote : RemoteRead) :
    State × Option (Bytes × Bool) :=
  let n := inputLen s v member
  if addrCode s mid input n false = rcDone then
    let (s, b, bad) := readAny (chargeRead s 1 input n (.compute (daHalf input))) mid input n remote
    (s, some (b, rtPoison bad input n))
  else (if daRefused s mid input then logRefused s mid input 4 rcNotPermitted else s, none)

/-- A read of CONSUMED goes out, to the host, as call-slip data, or over the session (R483, R491). -/
def ringReadStart (s : State) (poster ring : Nat) : State :=
  if (midFn poster).isSome then readStart (chargeHostRx s 1 poster 8) poster ring 8 else emit s (.remoteRead poster ring 8)

/-- A taken call slip waits for a context, with CONSUMED as it was read (R249, R483). -/
def queueSlip (s : State) (n : Nat) (t : Taken) : State :=
  let s := { s with power := { s.power with idleSince := s.now, noSlipSince := s.now } }
  queMod s n (fun q => { q with waiting := q.waiting ++ [t] })

/-- Taking a call slip that is no HALT (R248, R270, R483). -/
def takeSlip (s : State) (n : Nat) (q : Queue) (raw : Bytes) (sl : Slip) (consumed : HostRead) (input : RemoteRead) : State :=
  let vol := volumeOf s q.master sl.volumeId
  let (s, block) := match vol with
    | none => (s, none)
    | some v => takeBlock s q.master sl.input v false input
  let rc := takeCode s q raw sl vol block
  if rc ≠ rcDone then endUnrun s q sl (devNs s) { rc := rc, ending := .refused }
  else
    match vol, block with
    | some v, some (b, _) =>
      if v.haltPolicy ∧ lateAtTake s sl then endUnrun s q sl (devNs s) { rc := rcDone, ending := .deadline, late := true }
      else
        let block := parseInput v.nkv b
        let t : Taken := { slip := sl, block := block, volume := v.key, queue := n, poster := q.poster, takenAt := devNs s,
                           consumed := 0, reserve := slipReserve s v block.kv }
        if (loopOf v.steps).isSome then
          let s := readEnd (ringReadStart s q.poster sl.ring) q.poster sl.ring consumed
          match consumed with
          | .data b => queueSlip s n { t with consumed := leVal (fit 8 b) }
          | .timeout => endUnrun s q sl (devNs s) { rc := rcPartnerAbsent, ending := .refused }
          | .unsupported => endUnrun s q sl (devNs s) { rc := rcPartnerAbsent, ending := .refused }
          | .aborted => endUnrun s q sl (devNs s) { rc := rcPartnerAbsent, ending := .refused }
          | .dropped => s
        else queueSlip s n t
    | _, _ => s

/-! ### Contexts: deadlines, stops, charges (R256, R267 to R271, R277) -/

/-- The volume that a context runs. -/
def ctxVol (s : State) (x : Ctx) : Option Volume := tget s.volumes x.job.volume

/-- Whether a context runs a closed loop. -/
def ctxLoop (s : State) (x : Ctx) : Option (Nat × Nat) := (ctxVol s x).bind (fun v => loopOf v.steps)

/-- The deadline in force (R267). -/
def deadlineOf (s : State) (x : Ctx) : Nat :=
  satTo (2 ^ 64 - 1) (x.job.slip.deadline + (if (ctxLoop s x).isSome then x.iter * x.job.block.tokenPeriod else 0))

/-- A message to every other member of a volume's group (R277). -/
def toMembers (s : State) (x : Ctx) (code : Nat) (body : List Val) : State :=
  match ctxVol s x with
  | none => s
  | some v =>
    if x.lead.isSome then s
    else (groupOthers s v).foldl (fun s k => msgSend s (slotNode s k) code (packVals body)) s

/-- A context stops with an END: no further step is released, and a lead tells the members (R274, R277). A fault in the
cycle of a lateness stop makes END FAULT (R266). -/
def stopCtx (s : State) (n : Nat) (e : EndCode) : State :=
  match tget s.eng.ctxs n with
  | none => s
  | some x =>
    match x.stop with
    | none =>
      let s := ctxMod s n (fun x => { x with stop := some e, stopAt := s.now })
      if e = .listEnd then s else toMembers s x 0x03 [.u 1 n, .u 4 x.iter, .u 1 (endCode e)]
    | some .deadline =>
      if e = .fault ∧ x.stopAt = s.now then ctxMod s n (fun x => { x with stop := some .fault }) else s
    | some .listEnd =>
      if e = .fault ∨ e = .deadline then ctxMod s n (fun x => { x with stop := some e, stopAt := s.now }) else s
    | some _ => s

/-- A call slip becomes late: LATE is recorded, with one errata record at its first lateness, and the policy applies
(R268, R269). -/
def lateCtx (s : State) (n : Nat) : State :=
  match tget s.eng.ctxs n with
  | none => s
  | some x =>
    let d := deadlineOf s x
    let s := if x.lateLogged then s else logLate s x.job.slip.mid x.job.slip.volumeId x.job.slip.seq d
    let s := ctxMod s n (fun x => { x with late := true, lateLogged := true })
    match ctxVol s x with
    | none => s
    | some v => if v.haltPolicy then stopCtx s n .deadline else s

/-- Whether device time exceeds the deadline in force with the deliverable not yet issued: the completion record, or the
iteration's token, unless a stop has cancelled it; a fault of this very cycle does not hide it (R266, R268). A member is never
judged (R277). -/
def isLate (s : State) (x : Ctx) : Bool :=
  x.lead.isNone && decide (deadlineOf s x < devNs s)
    && ((ctxLoop s x).isNone || (x.lastToken != some x.iter
      && (x.stop.isNone || (x.stop == some .fault && x.stopAt == s.now) || x.pending.any (fun p => p.iter == x.iter))))

/-- Lateness of a context is detected before anything more is released or issued (R268, R269). -/
def settleLate (s : State) (n : Nat) : State :=
  match tget s.eng.ctxs n with
  | none => s
  | some x => if isLate s x then lateCtx s n else s

/-- A taken call slip that waits becomes late: its LATE record, and under HALT its end (R268 to R270). -/
def lateTaken (n : Nat) (s : State) (t : Taken) : State :=
  if t.late ∨ !lateAtTake s t.slip then s
  else
    let s := logLate s t.slip.mid t.slip.volumeId t.slip.seq t.slip.deadline
    if ((tget s.volumes t.volume).map (·.haltPolicy)) = some true then
      recordWrite (queMod s n (fun q => { q with waiting := q.waiting.filter (· != t) })) t.poster t.slip.result t.slip.seq t.takenAt
        { rc := rcDone, ending := .deadline, late := true }
    else queMod s n (fun q => { q with waiting := q.waiting.map (fun y => if y = t then { y with late := true } else y) })

/-- Every taken call slip that waits is judged. -/
def lateWaiting (s : State) : State := s.queues.foldl (fun s q => q.2.waiting.foldl (lateTaken q.1) s) s

/-- DEADLINE_PASS (R268, R269): of a context, and of the call slips that wait for one. -/
def execDeadlinePass (ctx : Nat) (s : State) : Out := .next (settleLate (lateWaiting s) ctx)

/-! ### The end of a call slip (R268, R272, R276, R478) -/

/-- What a context's completion record says (R272). -/
def ctxVerdict (s : State) (x : Ctx) (e : EndCode) : Verdict :=
  { rc := x.rc, ending := e, late := x.late, saturated := x.saturated,
    sentinel := x.usedTensors.any (fun t => ((tget s.tensors t).bind (·.investigation)).isSome),
    tokens := x.emitted, stall := (Config.freeWord 7 s.free).toNat % 2 ^ 64, lateTokens := x.lateTokens,
    failStep := x.failStep }

/-- The completion record of a context: to its poster, or, of a member run, to MRESULT (R278, R478). -/
def ctxRecord (s : State) (x : Ctx) (e : EndCode) : State :=
  let v := ctxVerdict s x e
  let s := bump s
  match x.lead with
  | none => if x.silenced then s else recordWrite s x.job.poster x.job.slip.result x.job.slip.seq x.job.takenAt v
  | some _ =>
    let s := writeAny s 1 x.job.slip.mid x.job.slip.result (recordBytes x.job.slip.seq x.job.takenAt (devNs s) v)
    writeAny s 1 x.job.slip.mid (x.job.slip.result + 0x38) (leBytes 8 x.job.slip.seq)

/-- Each HALT that waited for a SAMPLE of its target completes: CONFLICT when R274 or R271 ended the target, DONE when
its END is HALTED (R276). -/
def endHalts (s : State) (x : Ctx) (rc : Nat) : State :=
  x.halter.foldl (fun s h => if x.silenced then s
    else recordWrite s x.job.poster h.result h.seq (devNs s) { rc := rc, ending := .haltCall }) s

/-- The lead's context of a run (R451). -/
def leadCtxOf (n : Nat) (x : Ctx) : Nat := if x.lead.isSome then x.leadCtx else n

/-- What came for the relay-reduces of a run that ends leaves the reduce buffer (R452). -/
def redPurge (s : State) (n : Nat) : State :=
  match tget s.eng.ctxs n with
  | none => s
  | some x =>
    let k := leadCtxOf n x
    { s with link := { s.link with reduce := s.link.reduce.filter (fun b => b.ctx != k)
                                   redSeen := s.link.redSeen.filter (fun m => m.2.1 != k) } }

/-- Events counted against a tensor, an object, or, for splits, a volume. -/
def countEvents (s : State) (key : Nat) (b : Blame) (e : Events) : State :=
  match b with
  | .tensor id => tensorEvents s id e
  | .kv idx => kvEvents s idx e
  | .volume => volMod s key (fun v => { v with split := sat32 (v.split + e.split), unsplit := sat32 (v.unsplit + e.unsplit) })

/-- Due split counts of a context charged, each to whom it goes, and gone. -/
def splitsPay (s : State) (n : Nat) (key : Nat) (p : SplitDue → Bool) (who : SplitDue → Blame) : State :=
  match tget s.eng.ctxs n with
  | none => s
  | some x =>
    let s := (x.splits.filter p).foldl (fun s d => countEvents s key (who d) { split := d.split, unsplit := d.unsplit }) s
    ctxMod s n (fun x => { x with splits := x.splits.filter (fun d => !p d) })

/-- State of a store half. -/
def actHalf (s : State) (m : Nat) (second : Bool) : ActHalf := if second then (muOf s m).act1 else (muOf s m).act0

/-- A store half in a state. -/
def setActHalf (s : State) (m : Nat) (second : Bool) (a : ActHalf) : State :=
  muMod s m (fun u => if second then { u with act1 := a } else { u with act0 := a })

/-- What a run that ends still owes: split counts that no step has read go to their producers, and store halves that its
pending steps held are FREE (R80, R257). -/
def runOver (s : State) (n : Nat) : State :=
  match tget s.eng.ctxs n with
  | none => s
  | some x =>
    let s := splitsPay s n x.job.volume (fun _ => true) (·.own)
    ((x.pending.flatMap (·.homes)) ++ (x.acts.flatMap (·.homes))).foldl (fun s p => setActHalf s p.1 p.2 .free) s

/-- A context becomes free: its uses, its reserve and its VU allocation end (R258, R261). -/
def freeCtx (s : State) (n : Nat) : State :=
  let s := redPurge (runOver s n) n
  let s := { s with eng := { s.eng with ctxs := tdel s.eng.ctxs n } }
  let s := dropUses s (fun u => u.ctx == n)
  if s.eng.ctxs.isEmpty ∧ s.queues.all (fun q => q.2.waiting.isEmpty) then
    { s with power := { s.power with noSlipSince := s.now } }
  else s

/-- CALL_SLIP_END (R272): an ended call slip whose released steps have completed gets its record. The record waits while call-slip
data is at its cap (R491, R501), and nothing is sent while FAULT_N is low (R23). -/
def callSlipEnd (s : State) (n : Nat) : State :=
  match tget s.eng.ctxs n with
  | none => s
  | some x =>
    match x.stop with
    | none => s
    | some _ =>
      if !x.pending.isEmpty ∨ s.ras.moduleFault ∨ !capOpen s 1 (if x.lead.isSome then [] else hostRes s x.job.poster true) then s
      else
        let s := settleLate s n
        let x := tgetD s.eng.ctxs n x
        let e := x.stop.getD .listEnd
        freeCtx (ctxRecord (endHalts s x (if e = .halted then rcDone else rcConflict)) x e) n

/-- CALL_SLIP_END. -/
def execCallSlipEnd (ctx : Nat) (s : State) : Out := .next (callSlipEnd s ctx)

/-! ### HALT (R250, R276) -/

/-- The context that runs the call slip of a sequence of a queue. -/
def ctxOfSeq (s : State) (n seq : Nat) : Option (Nat × Ctx) :=
  s.eng.ctxs.find? (fun x => x.2.lead.isNone && x.2.job.queue == n && x.2.job.slip.seq == seq)

/-- The SAMPLE that a context has released and not completed (R275). -/
def heldSample (x : Ctx) : Option Pend := x.pending.find? (fun p => p.due == 0)

/-- The record of a HALT call slip (R272). -/
def haltRecord (s : State) (q : Queue) (h : Slip) (rc : Nat) : State :=
  recordWrite s q.poster h.result h.seq (devNs s) { rc := rc, ending := .haltCall }

/-- A HALT stops a running call slip (R276). -/
def haltCtx (s : State) (q : Queue) (h : Slip) (n : Nat) (x : Ctx) : State :=
  if x.stop.isSome then haltRecord s q h rcConflict
  else
    match heldSample x with
    | some p =>
      if p.at_ < s.now then ctxMod s n (fun x => { x with halter := x.halter ++ [h] })
      else
        let s := ctxMod s n (fun x => { x with pending := x.pending.filter (fun y => y != p), held := none })
        haltRecord (stopCtx s n .halted) q h rcDone
    | none => haltRecord (stopCtx s n .halted) q h rcDone

/-- A HALT call slip acts on its target (R276); while a half is fenced no call slip is accepted (R21). -/
def haltSlip (s : State) (n : Nat) (q : Queue) (raw : Bytes) (h : Slip) : State :=
  if anyFenced s then endUnrun s q h (devNs s) { rc := rcPoisoned, ending := .refused }
  else if !slipReservedOk raw || h.result % 64 != 0 then endUnrun s q h (devNs s) { rc := rcBadField, ending := .refused }
  else if h.mid ≠ q.master then endUnrun s q h (devNs s) { rc := rcNotPermitted, ending := .refused }
  else if h.seq ≤ h.targetSeq then haltRecord s q h rcBadField
  else
    match q.waiting.find? (fun t => t.slip.seq == h.targetSeq) with
    | some t =>
      let s := queMod s n (fun q => { q with waiting := q.waiting.filter (fun t => t.slip.seq != h.targetSeq) })
      let v : Verdict := { rc := rcDone, ending := .halted, late := t.late || lateAtTake s t.slip }
      let s := if t.late then recordWrite s q.poster t.slip.result t.slip.seq t.takenAt v else endUnrun s q t.slip t.takenAt v
      haltRecord s q h rcDone
    | none =>
      match ctxOfSeq s n h.targetSeq with
      | some (k, x) => haltCtx s q h k x
      | none => haltRecord s q h rcConflict

/-! ### QUE_DOORBELL, QUEUE_SLOT_WRITE (R247, R700, R702, R709 to R711) -/

/-- A doorbell is ignored: IGNORED counts it, and FULL or BAD_DOORBELL is set (R709). -/
def queIgnore (s : State) (n : Nat) (full : Bool) : State :=
  queMod s n (fun q =>
    let q := { q with ignored := sat16 (q.ignored + 1) }
    if full then { q with full := stickySet s.now } else { q with bad := stickySet s.now })

/-- QUE_DOORBELL (R247, R250, R709): the call slip of slot SEQ mod 16 is taken, or the doorbell is ignored. A taken call
slip whose read of CONSUMED may not yet be issued stays posted (R476); a HALT reads nothing from the host. -/
def execQueDoorbell (queue : Nat) (full : Bool) (value : BitVec 64) (consumed : HostRead) (input : RemoteRead)
    (s : State) : Out :=
  match tget s.queues queue with
  | none => .next s
  | some q =>
    if !full || value.toNat != q.taken + 1 then .next (queIgnore s queue false)
    else if 16 ≤ q.waiting.length then .next (queIgnore s queue true)
    else
      let raw := fit 64 (tgetD q.slots (value.toNat % 16) [])
      let sl := parseSlip raw
      if s.ras.moduleFault ∨ (!sl.halt ∧ !readMay s q.poster) then .next s else
      let s := queMod s queue (fun q => { q with taken := value.toNat })
      .next (if sl.halt then haltSlip s queue q raw sl else takeSlip s queue q raw sl consumed input)

/-- QUEUE_SLOT_WRITE (R702, R710): a write wholly inside a slot is stored. -/
def execQueueSlotWrite (queue slot off : Nat) (bytes : Bytes) (s : State) : Out :=
  if slot < 16 ∧ off + bytes.length ≤ 64 ∧ bytes ≠ [] then
    .next (queMod s queue (fun q => { q with slots := tset q.slots slot (place (tgetD q.slots slot []) off bytes) }))
  else .next s

/-! ### CALL_SLIP_ADMIT (R249, R258, R265, R277, R668) -/

/-- The VU-buffer space that contexts hold in a half, as offset and end (R258). -/
def vuTaken (s : State) (h : Half) : List (Nat × Nat) :=
  s.eng.ctxs.filterMap (fun x => (ctxVol s x.2).map (fun v => (x.2.vuBase.get h, x.2.vuBase.get h + v.vuAlloc.get h)))

/-- The lowest free place of an allocation in the VU buffers of a half, 32 MiB (R258). -/
def vuPlace (s : State) (h : Half) (n : Nat) : Option Nat :=
  if n = 0 then some 0
  else
    let taken := (vuTaken s h).filter (fun i => i.1 != i.2)
    let starts := (0 :: taken.map (·.2)).filter (fun x => decide (x + n ≤ 2 ^ 25) && runFree taken x n)
    starts.foldl (fun b x => match b with | none => some x | some y => some (min x y)) none

/-- Whether a slice reserve is available now (R249, R258). -/
def reserveFits (s : State) (r : List Nat) : Bool := (List.range 128).all (fun m => decide (r.getD m 0 ≤ poolFree s m))

/-- The lowest free context (R249). -/
def freeCtxNum (s : State) : Option Nat := leastFrom (fun n => !thas s.eng.ctxs n) 64 0

/-- The context and the VU places that a run would take now. -/
def placeRun (s : State) (v : Volume) (reserve : List Nat) : Option (Nat × Nat × Nat) :=
  match freeCtxNum s, vuPlace s .h0 v.vuAlloc.h0, vuPlace s .h1 v.vuAlloc.h1 with
  | some n, some a, some b => if reserveFits s reserve then some (n, a, b) else none
  | _, _, _ => none

/-- The context of a run at its start: its VU-buffer allocation is all zeros (R273, R621). -/
def newCtx (t : Taken) (a b : Nat) : Ctx :=
  { job := t, pc := t.slip.entry, token := t.block.startToken, vuBase := ⟨a, b⟩, consumed := t.consumed,
    late := t.late, lateLogged := t.late }

/-- The wake to ACTIVE begins where the engine clocks do not run (R668). -/
def startWake (s : State) : State :=
  if s.power.state = .active ∨ s.power.wake.isSome then s
  else { s with power := { s.power with wake := some { source := s.power.state, startedAt := s.now } } }

/-- The head call slip of a queue, with its volume. -/
def headSlip (q : Queue) (s : State) : Option (Taken × Volume) :=
  match q.waiting with
  | [] => none
  | t :: _ => (tget s.volumes t.volume).map (fun v => (t, v))

/-- Whether a queue holds an admissible call slip (R249). -/
def canAdmit (s : State) (n : Nat) : Bool :=
  match (tget s.queues n).bind (fun q => headSlip q s) with
  | none => false
  | some (t, v) => !s.ras.moduleFault && (placeRun s v t.reserve).isSome

/-- START to each member (R277, R450). -/
def sendStarts (s : State) (n : Nat) (t : Taken) (v : Volume) : State :=
  (groupOthers s v).foldl (fun s k => msgSend s (slotNode s k) 0x01 (packVals
    [.u 4 t.slip.volumeId, .u 1 n, .u 2 t.slip.mid, .u 8 t.slip.seq, .u 4 t.slip.entry, .u 8 t.slip.deadline,
     .u 4 t.block.tokenPeriod, .u 4 t.block.startToken, .u 4 t.block.position, .u 8 (t.block.members.getD k 0)])) s

/-- CALL_SLIP_ADMIT (R249, R265): the first queue at or after the pointer whose head call slip is admissible gives it a
context. -/
def callSlipAdmit (s : State) : State :=
  match leastFrom (fun k => canAdmit s ((s.eng.admitPointer + k) % 256)) 256 0 with
  | none => s
  | some k =>
    let qn := (s.eng.admitPointer + k) % 256
    match (tget s.queues qn).bind (fun q => headSlip q s) with
    | none => s
    | some (t, v) =>
      match placeRun s v t.reserve with
      | none => s
      | some (n, a, b) =>
        let s := queMod s qn (fun q => { q with waiting := q.waiting.drop 1 })
        let s := { s with eng := { s.eng with ctxs := tset s.eng.ctxs n (newCtx t a b)
                                              admitPointer := (s.eng.admitPointer + 1) % 256 } }
        startWake (sendStarts s n t v)

/-- CALL_SLIP_ADMIT. -/
def execCallSlipAdmit (s : State) : Out := .next (callSlipAdmit s)

/-! ### A poster's reset or loss (R279) -/

/-- A poster's waiting call slips are discarded; its running ones release no further step, and their writes to it and
their records are suppressed (R279). -/
def silencePoster (s : State) (poster : Nat) : State :=
  let s := { s with queues := tmap s.queues (fun _ q => if q.poster = poster then { q with waiting := [] } else q) }
  (s.eng.ctxs.filter (fun x => x.2.lead.isNone && x.2.job.poster == poster)).foldl (fun s x =>
    stopCtx (ctxMod s x.1 (fun x => { x with silenced := true })) x.1 .halted) s

end Sys2Proof.Machine
end

