-- ==== Sys2Proof/Machine/Fetch.lean ====
section
/-! DEFINITION. The fetch engine: what a context needs in each slice, the catalogue walk, the states of a folio copy, its
entry checks and its recovery (R160 to R162, R186 to R189, R195, R217, R240 to R242, R252 to R264, R282, R297 to
R302). -/

namespace Sys2Proof.Machine

/-! ### Lengths and pages of a head (R186, R188, R192) -/

/-- L: the length of a head's run (R188): full pages, then FILL of the last. -/
def runLength (k : KvObj) (head run : Nat) : Nat :=
  match leastFrom (fun i => (pageOf k head run i).fill != 128) k.maxPages 0 with
  | some i => 128 * i + (pageOf k head run i).fill
  | none => 128 * k.maxPages

/-- P0 of an attention step (R235). -/
def windowStart (len window : Nat) : Nat := if window = 0 then 0 else len - window

/-- The page entries that an attention step reads (R192): from and up to, not including. -/
def pageSpan (len window : Nat) : Nat × Nat := (windowStart len window / 128, ceilDiv len 128)

/-! ### Routers (R253, R263, R264) -/

/-- Whether a condition of a step, or of an entry needed by it, holds in an iteration: unresolved is none. -/
def condState (v : Volume) (x : Ctx) (iter step : Nat) (c : BitVec 16) : Option Bool :=
  if !condOn c then some true
  else if iter < x.iter then some false
  else
    match routeBefore v.steps step (condRouter c) with
    | none => some false
    | some j =>
      if x.iter < iter ∨ x.pc ≤ j then none
      else some ((tgetD x.routers (condRouter c) []).contains (condExpert c))

/-! ### Order of execution (R251, R260) -/

/-- The oldest step of a context that has not completed, as iteration and step. -/
def headStep (x : Ctx) : Nat × Nat :=
  match x.pending.head? with
  | some p => (p.iter, p.step)
  | none => (x.iter, x.pc)

/-- Whether a step of an iteration is still to be released. -/
def unreleased (x : Ctx) (iter step : Nat) : Bool :=
  decide (x.iter < iter) || (iter == x.iter && decide (x.pc ≤ step))

/-- How many steps a later step lies beyond the head, in order of execution (R260). -/
def stepsAhead (v : Volume) (x : Ctx) (iter step : Nat) : Nat :=
  let h := headStep x
  if iter = h.1 then step - h.2
  else
    match loopOf v.steps with
    | none => step - h.2
    | some (l, t) => (l - h.2 + 1) + (iter - h.1 - 1) * (l - t + 1) + (step - t)

/-! ### Wants (R195, R217, R242, R256, R282) -/

/-- A folio or page that a step needs in a slice and is not attached to. -/
structure Want where
  slice : Nat
  folio : FolioId
  granules : Nat
  use : FolioUse
  cls : Nat
  pin : Bool := false
  moved : Option Nat := none
  deriving DecidableEq, Repr

/-- What is issued together under R260: the wants of one entry or step, and the tiles that an OPEN_STACKS entry stages,
as tensor and tile. -/
structure Group where
  head : Bool
  wants : List Want
  stage : List (Nat × Nat) := []
  cls : Nat := 0
  deriving DecidableEq, Repr

/-- Whether a copy of a slice serves a use already. -/
def attached (s : State) (m : Nat) (f : FolioId) (u : FolioUse) : Bool :=
  match tget s.eng.copies (m, f) with
  | none => false
  | some c => c.users.any (fun x => x.ctx == u.ctx && x.step == u.step && x.iter == u.iter)

/-- Wants of a list of tiles of a slot for a step. -/
def tileWants (s : State) (v : Volume) (x : VStep) (use : FolioUse) (slot cls : Nat) (pin : Bool) (tiles : List Nat) :
    List Want :=
  match v.slots[slot]? with
  | none => []
  | some sl =>
    tiles.filterMap (fun t =>
      match tileSlice s sl.params x t with
      | none => none
      | some m =>
        let f := FolioId.tile sl.tensor t
        if attached s m f use then none
        else some { slice := m, folio := f, granules := sl.params.q, use := use, cls := cls, pin := pin })

/-- What is left to issue of a catalogue entry in an iteration (R240, R242, R299). -/
def entryGroup (s : State) (n : Nat) (v : Volume) (x : Ctx) (e : CatEntry) (iter : Nat) : Group :=
  let head := headStep x == (iter, e.need)
  match v.steps[e.need]?, v.slots[e.slot]? with
  | some st, some sl =>
    if e.dest = 0 then
      { head := head, cls := e.cls,
        wants := tileWants s v st { ctx := n, step := e.need, iter := iter } e.slot e.cls e.pin (catTiles e) }
    else
      match (tget s.tensors sl.tensor).bind (·.wc) with
      | none => { head := head, wants := [] }
      | some w => { head := head, wants := [], cls := e.cls, stage := ((catTiles e).filter (fun t =>
          !w.present.contains t && !thas w.copying t)).map (fun t => (sl.tensor, t)) }
  | _, _ => { head := head, wants := [] }

/-- Whether nothing of a group is left. -/
def groupDone (g : Group) : Bool := g.wants.isEmpty && g.stage.isEmpty

/-- The token of an EMBED step that the device knows before it runs: the iteration's, one in the VU buffer, or one read
from an input block. -/
def embedToken (s : State) (x : Ctx) (o : Oper) : Option Nat :=
  match x.embedTok with
  | some t => some t
  | none =>
    if o.kind = kToken then some x.token
    else if o.kind = kVu then some (leVal (cellsRead (x.vu.get o.half) o.addr 4))
    else
      let a := x.job.slip.input + o.addr
      if daRange a ≤ 2 then some (leVal (cellsRead s.mem.cells a 4)) else none

/-- The tiles of a row of matrix x of a tensor (R217). -/
def embedTiles (p : TParams) (matrix tok : Nat) : List Nat :=
  let n := tileRows p * tileCols p
  (List.range (tileCols p)).map (fun c => matrix * n + tok / 128 * tileCols p + c)

/-- Whether some slice holds a folio RESIDENT. -/
def residentAnywhere (s : State) (f : FolioId) : Bool := s.eng.copies.any (fun e => e.1.2 == f && e.2.state == .resident)

/-- The object of a step's key/value slot. -/
def stepObj (s : State) (v : Volume) (x : Ctx) (st : VStep) : Option KvObj :=
  (stepKv v.opers st).bind (fun i => (x.job.block.kv[i]?).bind (kvByHandle s))

/-- The pages that an attention step reads, each with its unit (R192, R238): unit, entry. -/
def stepPages (s : State) (k : KvObj) (st : VStep) : List (Nat × Nat) :=
  let run := if st.opcode = opScore then 0 else 1
  let (lo, hi) := pageSpan (runLength k st.opd run) st.param
  let us := muRange s st.unitFirst st.unitCount
  if us.isEmpty then []
  else (List.range (hi - lo)).map (fun i => (us.getD (itemUnit (hi - lo) us.length i) 0, lo + i))

/-- The demand fetches of the step that is next to be released: pages of an attention step, tiles that EMBED needs
(R195, R217). -/
def demandWants (s : State) (n : Nat) (v : Volume) (x : Ctx) : List Want :=
  match v.steps[x.pc]? with
  | none => []
  | some st =>
    let use : FolioUse := { ctx := n, step := x.pc, iter := x.iter }
    if condState v x x.iter x.pc st.cond ≠ some true then []
    else if st.opcode = opScore ∨ st.opcode = opValue then
      let run := if st.opcode = opScore then 0 else 1
      match stepObj s v x st with
      | none => []
      | some k =>
        if k.nh ≤ st.opd then []
        else
          (stepPages s k st).filterMap (fun p =>
            let f := FolioId.page k.idx st.opd run p.2
            let ok := addrCode s k.master (pageOf k st.opd run p.2).pda (pageBytes k) false == rcDone
            if attached s p.1 f use || !ok then none
            else some { slice := p.1, folio := f, granules := pageGranules k, use := use, cls := 0 })
    else if st.opcode = opEmbed then
      match stepSlot v.opers st, stepParams v.opers v.slots st, v.opers[st.opb]? with
      | some sl, some p, some o =>
        match embedToken s x o with
        | none => []
        | some tok =>
          if p.rows ≤ tok then []
          else tileWants s v st use sl 0 false ((embedTiles p st.param tok).filter (fun t =>
            !residentAnywhere s (.tile ((v.slots[sl]?).map (·.tensor) |>.getD 0) t)))
      | _, _, _ => []
    else []

/-- The iteration of the next run of a step that has not been released yet, if there is one (R261). -/
def nextRun (v : Volume) (x : Ctx) (step : Nat) : Option Nat :=
  if unreleased x x.iter step then some x.iter
  else
    match loopOf v.steps with
    | none => none
    | some (_, t) => if t ≤ step then some (x.iter + 1) else none

/-- The PIN entries of a volume that name a tile of a tensor. -/
def pinEntries (v : Volume) (t tile : Nat) : List CatEntry :=
  v.cats.filter (fun e => e.pin && e.dest == 0 && ((v.slots[e.slot]?).map (·.tensor)) == some t && (catTiles e).contains tile)

/-- The slice that takes a tile of a tensor for a step now. -/
def stepSlice (s : State) (v : Volume) (step tile : Nat) : Option Nat :=
  (v.steps[step]?).bind (fun st => (stepParams v.opers v.slots st).bind (fun p => tileSlice s p st tile))

/-- The unreleased steps of a context for which a copy of a tile is fetched, or PIN-held, in a slice that is no longer its place
(R282). -/
def misplaced (s : State) (n : Nat) (v : Volume) (x : Ctx) (m t tile : Nat) (c : FolioCopy) : List FolioUse :=
  let es := pinEntries v t tile
  let here (step : Nat) : Bool := stepSlice s v step tile == some m
  (c.users.filter (fun u => u.ctx == n && unreleased x u.iter u.step && !here u.step))
    ++ (if c.pin && !es.any (fun e => here e.need) then
          es.filterMap (fun e => (nextRun v x e.need).map (fun i => { ctx := n, step := e.need, iter := i }))
        else [])

/-- Folios fetched or held for a step that a re-mapping has since placed in another slice (R282). -/
def movedWants (s : State) (n : Nat) (v : Volume) (x : Ctx) : List Want :=
  s.eng.copies.flatMap (fun e =>
    match e.1.2 with
    | .page _ _ _ _ => []
    | .tile t tile =>
      (misplaced s n v x e.1.1 t tile e.2).filterMap (fun u => (stepSlice s v u.step tile).map (fun m =>
        { slice := m, folio := e.1.2, granules := e.2.granules, use := u, cls := 0, pin := e.2.pin, moved := some e.1.1 })))

/-- Whether the walk has passed every entry that the next step needs. -/
def walkPast (v : Volume) (x : Ctx) : Bool :=
  (match v.cats[x.catPos]? with
   | none => true
   | some e => decide (x.iter < x.catIter) || (x.catIter == x.iter && decide (x.pc < e.need)))
  && x.setAside.all (fun a => ((v.cats[a.1]?).map (·.need)) != some x.pc)

/-- Tiles that the next step needs and that the walk no longer brings: fetched again (R254, log 26). -/
def lostWants (s : State) (n : Nat) (v : Volume) (x : Ctx) : List Want :=
  match v.steps[x.pc]? with
  | none => []
  | some st =>
    if st.opcode ≠ opMatvec ∨ condState v x x.iter x.pc st.cond ≠ some true ∨ !walkPast v x then []
    else
      match stepSlot v.opers st, stepParams v.opers v.slots st with
      | some sl, some p =>
        let k := tileRows p * tileCols p
        tileWants s v st { ctx := n, step := x.pc, iter := x.iter } sl 0 false ((List.range k).map (st.param * k + ·))
      | _, _ => []

/-! ### The walk (R260, R261, R264) -/

/-- Where the catalogue walk stands next, and the entry that it would issue. -/
def walkFrom (s : State) (n : Nat) (v : Volume) : (fuel : Nat) → Ctx → Ctx × Option Group
  | 0, x => (x, none)
  | fuel + 1, x =>
    match v.cats[x.catPos]? with
    | none =>
      if (loopOf v.steps).isSome ∧ !v.cats.isEmpty then walkFrom s n v fuel { x with catPos := 0, catIter := x.catIter + 1 }
      else (x, none)
    | some e =>
      let on := { x with catPos := x.catPos + 1 }
      let first := if x.catIter = 0 then x.job.slip.entry else ((loopOf v.steps).map (·.2)).getD 0
      if e.need < first ∨ !unreleased x x.catIter e.need then walkFrom s n v fuel on
      else if 64 < stepsAhead v x x.catIter e.need then (x, none)
      else
        match condState v x x.catIter e.need e.cond with
        | none =>
          if x.setAside.length < 256 then walkFrom s n v fuel { on with setAside := x.setAside ++ [(x.catPos, x.catIter)] }
          else (x, none)
        | some false => walkFrom s n v fuel on
        | some true =>
          let g := entryGroup s n v x e x.catIter
          if groupDone g then walkFrom s n v fuel on else (x, some g)

/-- The set-aside entries that are still to be issued or decided, and the first that has resolved selected (R264). -/
def asideFrom (s : State) (n : Nat) (v : Volume) (x : Ctx) : List (Nat × Nat) → List (Nat × Nat) × Option Group
  | [] => ([], none)
  | a :: r =>
    match v.cats[a.1]? with
    | none => asideFrom s n v x r
    | some e =>
      if !unreleased x a.2 e.need then asideFrom s n v x r
      else
        match condState v x a.2 e.need e.cond with
        | none =>
          let (l, g) := asideFrom s n v x r
          (a :: l, g)
        | some false => asideFrom s n v x r
        | some true =>
          let g := entryGroup s n v x e a.2
          if groupDone g then asideFrom s n v x r else (a :: r, some g)

/-- What a context would issue next, with the walk brought up to date: the next step's demand fetches, re-fetches after a
re-mapping, resolved set-aside entries, then the walk (R264, R282). -/
def nextGroup (s : State) (n : Nat) (v : Volume) (x : Ctx) : Ctx × Option Group :=
  let head := headStep x == (x.iter, x.pc)
  let (aside, ga) := asideFrom s n v x x.setAside
  let x := { x with setAside := aside }
  let demand := demandWants s n v x
  let moved := movedWants s n v x
  if !demand.isEmpty then (x, some { head := head, wants := demand })
  else
    match moved with
    | w :: _ => (x, some { head := headStep x == (w.use.iter, w.use.step), wants := [w] })
    | [] =>
      match ga with
      | some g => (x, some g)
      | none =>
        let (x, gw) := walkFrom s n v ((v.cats.length + 1) * 70) x
        let lost := lostWants s n v x
        if !lost.isEmpty then (x, some { head := head, wants := lost }) else (x, gw)

/-! ### Issuing (R254, R256, R259, R260) -/

/-- The lowest run of free granules of a slice (R183). -/
def findGranules (s : State) (m n : Nat) : Option Nat :=
  let taken := (sliceCopies s m).map (fun c => (c.granule, c.granule + c.granules))
  let starts := (0 :: taken.map (·.2)).filter (fun x => decide (x + n ≤ 7168) && runFree taken x n)
  starts.foldl (fun b x => match b with | none => some x | some y => some (min x y)) none

/-- The wants of a group that no copy serves yet. -/
def missing (s : State) (g : Group) : List Want := g.wants.filter (fun w => !thas s.eng.copies (w.slice, w.folio))

/-- Whether the receiving slices have a group's granules free (R259, R260). -/
def groupFits (s : State) (n : Nat) (g : Group) : Bool :=
  let ms := (missing s g).filter (fun w => !w.pin || w.moved.isSome)
  (ms.map (·.slice)).eraseDups.all (fun m =>
    let need := ((ms.filter (fun w => w.slice == m)).map (·.granules)).foldl (· + ·) 0
    decide (need ≤ poolFree s m) || (g.head && decide (need ≤ reserveFree s n m)))

/-- The half of a slice. -/
def sliceHalf (m : Nat) : Half := halfOf (m / 64)

/-- The tile of a tensor that is read from its working copy now (R300). -/
def fromWc (t : Tensor) (tile : Nat) : Bool :=
  match t.wc with
  | none => false
  | some w => w.present.contains tile

/-- Payload, colophon and table addresses of the copy of a tile that is read. -/
def tileAddrs (t : Tensor) (tile : Nat) (wc : Bool) : Nat × Nat × Nat :=
  match t.wc with
  | some w => if wc then let (a, b) := wcTile t.params w tile
                         (a, b, wcTabBase t.params w (wcHalf w tile))
              else let (a, b) := masterTile t tile
                   (a, b, t.tbase)
  | none => let (a, b) := masterTile t tile
            (a, b, t.tbase)

/-- The address that a want is read from: a tile's payload, or a page. -/
def wantAddr (s : State) (w : Want) : Option Nat :=
  match w.folio with
  | .tile t tile => (tget s.tensors t).map (fun t => (tileAddrs t tile (fromWc t tile)).1)
  | .page idx head run entry => (tget s.kvs idx).map (fun k => (pageOf k head run entry).pda)

/-- Whether a want may be issued now: its slice has a run of granules, and its class is below its cap on the path of its data
(R183, R501). -/
def wantOpen (s : State) (w : Want) : Bool :=
  (findGranules s w.slice w.granules).isSome && (match wantAddr s w with
    | none => true
    | some a => decide (2 < daRange a) || capOpen s w.cls (readPath a (.compute (sliceHalf w.slice))))

/-- Whether a group has a read to issue in a half now, or needs none. -/
def groupReady (s : State) (h : Half) (n : Nat) (g : Group) : Bool :=
  let ms := missing s g
  groupFits s n g
    && (if ms.isEmpty ∧ g.stage.isEmpty then true
        else ms.any (fun w => sliceHalf w.slice == h && wantOpen s w)
          || g.stage.any (fun p => match (tget s.tensors p.1).bind (·.wc) with
            | none => false
            | some wc => wcHalf wc p.2 == h))

/-- Bytes of a folio as the model keeps it: colophon, payload and the tensor's table images. -/
def folioLen (p : TParams) : Nat := 32 + slotBytes p + 16 * p.ntab

/-- A folio read from tier 1 or 2 at given payload, colophon and table addresses, with its poison. -/
def readFolio (s : State) (mid : Nat) (p : TParams) (pa ca ta : Nat) : State × Bytes × Bool :=
  let (s, col, b1) := readAny s mid ca 32 .none
  let (s, pay, b2) := readAny s mid pa (slotBytes p) .none
  let (s, tab, b3) := if p.ntab = 0 then (s, [], []) else readAny s mid ta (16 * p.ntab) .none
  (s, col ++ pay ++ tab, rtPoison b1 ca 32 || rtPoison b2 pa (slotBytes p) || rtPoison b3 ta (16 * p.ntab))

/-- The images of a kept folio's tables. -/
def folioTables (p : TParams) (b : Bytes) : List Bytes :=
  (List.range p.ntab).map (fun i => slice b (32 + slotBytes p + 16 * i) 16)

/-- A kept folio passes the checks of R111. -/
def keptOk (p : TParams) (tile : Nat) (b : Bytes) : Bool :=
  folioOk p tile (folioTables p b) (slice b 0 32) (slice b 32 (slotBytes p))

/-- The reads of a tile's colophon and payload in tier 3 or 4 go out. -/
def askTile (s : State) (t : Tensor) (pa ca : Nat) : State :=
  (readFar (readFar s t.master ca 32 false .none).1 t.master pa (slotBytes t.params) false .none).1

/-- A folio that a lender or a tray has brought: its colophon, its payload and its table images, those of tier 4 as ciphertext, from
their addresses (R392, log 10). -/
def folioRemote (s : State) (t : Tensor) (pa ca : Nat) (remote : RemoteRead) : Bytes × Bool :=
  let p := t.params
  let nc := farLen ca 32
  let np := farLen pa (slotBytes p)
  let nt := if p.ntab = 0 then 0 else farLen t.tbase (16 * p.ntab)
  let (b, bad) := remoteBytes (nc + np + nt) remote
  (farPlain s t.master ca 32 (b.take nc) ++ farPlain s t.master pa (slotBytes p) ((b.drop nc).take np)
    ++ (if p.ntab = 0 then [] else farPlain s t.master t.tbase (16 * p.ntab) (b.drop (nc + np))), bad)

/-- Another loaded volume than a context's still holds a copy by PIN where it lies (R259). -/
def pinnedElsewhere (s : State) (n : Nat) (k : Nat × FolioId) : Bool :=
  s.volumes.any (fun w => ((tget s.eng.ctxs n).map (·.job.volume)) != some w.1 && (pinTiles s w.2).any (fun p =>
    ((w.2.slots[p.2.1]?).map (fun sl => (p.1, FolioId.tile sl.tensor p.2.2))) == some k))

/-- The old copy of a folio that is fetched again elsewhere is released (R282). -/
def releaseOld (s : State) (n : Nat) (w : Want) : State :=
  match w.moved with
  | none => s
  | some old =>
    let keep := pinnedElsewhere s n (old, w.folio)
    dropUses { s with eng := { s.eng with copies := tmod s.eng.copies (old, w.folio) (fun c => { c with
      users := c.users.filter (fun u => u != w.use), pin := c.pin && keep }) } } (fun _ => false)

/-- A read goes out for a want: a tile's bytes are those of this instant in tiers 1 and 2 (R107, R300); a page's, and
those of tiers 3 and 4, come with the data. -/
def issueWant (s : State) (n : Nat) (head : Bool) (w : Want) : State :=
  match findGranules s w.slice w.granules with
  | none => s
  | some g =>
    let charge : Charge := if w.pin && w.moved.isNone then .pin
      else if head ∧ w.granules ≤ reserveFree s n w.slice then .ctx n
      else if w.granules ≤ poolFree s w.slice then .pool else .ctx n
    let c : FolioCopy := { state := .requested, granule := g, granules := w.granules, users := [w.use], charge := charge,
                           pin := w.pin, cls := w.cls, requestedAt := s.now }
    let die := Die.compute (sliceHalf w.slice)
    let put (s : State) (c : FolioCopy) : State :=
      { s with eng := { s.eng with copies := tset s.eng.copies (w.slice, w.folio) c } }
    let s := releaseOld s n w
    match w.folio with
    | .tile t tile =>
      match tget s.tensors t with
      | none => s
      | some t =>
        let wc := fromWc t tile
        let (pa, ca, ta) := tileAddrs t tile wc
        if daRange pa ≤ 2 then
          let (s, b, bad) := readFolio s t.master t.params pa ca ta
          put (chargeRead (chargeRead s w.cls pa (slotBytes t.params) die) w.cls ca 32 die)
            { c with bytes := b, bad := bad, fromWc := wc }
        else put (askTile s t pa ca) { c with bad := farRefused s t.master pa (slotBytes t.params) || farRefused s t.master ca 32 }
    | .page idx head run entry =>
      match tget s.kvs idx with
      | none => s
      | some k =>
        let a := (pageOf k head run entry).pda
        let s := chargeRead s w.cls a (pageBytes k) die
        if daRange a ≤ 2 then put s { c with addr := a }
        else put (readFar s k.master a (pageBytes k) false .none).1 { c with addr := a, bad := farRefused s k.master a (pageBytes k) }

/-- The wants that an existing copy serves attach to it; a copy whose recovery has failed dooms them (R255, R256). A copy that stands
in the new slice already releases the old one (R282). -/
def attachAll (s : State) (n : Nat) (l : List Want) : State :=
  l.foldl (fun s w =>
    if thas s.eng.copies (w.slice, w.folio) then
      let s := releaseOld s n w
      { s with eng := { s.eng with copies := tmod s.eng.copies (w.slice, w.folio) (fun c =>
          { c with users := c.users.filter (fun u => u != w.use) ++ [{ w.use with doomed := c.failed }], pin := c.pin || w.pin }) } }
    else s) s

/-- A tile starts on its way into a working copy, in a class (R299). -/
def stageTile (s : State) (t tile cls : Nat) : State :=
  tensorMod s t (fun t => { t with wc := t.wc.map (fun w => { w with copying := tset w.copying tile cls }) })

/-- A context as a requester of the fetch arbiter of a half: its updated walk with the group it would issue. -/
def fetchRequest (s : State) (h : Half) (n : Nat) : Option (Ctx × Group) :=
  match tget s.eng.ctxs n with
  | none => none
  | some x =>
    match ctxVol s x with
    | none => none
    | some v =>
      if x.stop.isSome then none
      else
        match nextGroup s n v x with
        | (x, some g) => if groupReady s h n g then some (x, g) else none
        | (_, none) => none

/-- FETCH_ISSUE (R256, R260, R265): the first context at or after the half's pointer that has an issuable read gets one
grant. -/
def fetchIssue (s : State) (h : Half) : State :=
  let p := s.eng.fetchPointer.get h
  match leastFrom (fun k => (fetchRequest s h ((p + k) % 64)).isSome) 64 0 with
  | none => s
  | some k =>
    let n := (p + k) % 64
    match fetchRequest s h n with
    | none => s
    | some (x, g) =>
      let s := { s with eng := { s.eng with ctxs := tset s.eng.ctxs n x
                                            fetchPointer := s.eng.fetchPointer.set h ((p + 1) % 64) } }
      let ms := missing s g
      let s := attachAll s n g.wants
      match ms.find? (fun w => sliceHalf w.slice == h && wantOpen s w) with
      | some w => issueWant s n g.head w
      | none =>
        match g.stage.find? (fun p => match (tget s.tensors p.1).bind (·.wc) with
            | none => false
            | some wc => wcHalf wc p.2 == h) with
        | some (t, tile) => stageTile s t tile g.cls
        | none => s

/-- FETCH_ISSUE. -/
def execFetchIssue (half : Half) (s : State) : Out := .next (fetchIssue s half)

/-! ### Arrival (R160, R162, R254, R301) -/

/-- A copy changed. -/
def copyMod (s : State) (m : Nat) (f : FolioId) (g : FolioCopy → FolioCopy) : State :=
  { s with eng := { s.eng with copies := tmod s.eng.copies (m, f) g } }

/-- The tile of an open investigation of a tensor. -/
def investTile (t : Tensor) : Option Nat := t.investigation.map (·.probe.tile)

/-- A tile that has become POISONED is no longer kept at the edge expanders (R172). -/
def keptDrop (s : State) (t tile : Nat) : State :=
  let f (e : Edge) : Edge := { e with kept := e.kept.filter (fun p => p.1 != (t, tile)) }
  { s with plain := { s.plain with edge := ⟨f s.plain.edge.h0, f s.plain.edge.h1⟩ } }

/-- A tile of a working copy that came back bad is dropped from it and copied again from the master, in the class of the read that
met it; a FULL copy's tiles travel in class 5 (R301, R491). -/
def wcRestage (s : State) (t tile cls : Nat) : State :=
  tensorMod s t (fun t => { t with wc := t.wc.map (fun w => { w with
    present := w.present.filter (· != tile), copying := tset w.copying tile cls }) })

/-- A copy becomes POISONED, or ABSENT where no step uses it (R254): a malformed folio dooms the steps that use it (R112). An investigation of the tile is
abandoned (R99), and a tile of a working copy is dropped from it and copied again (R301). -/
def poisonCopy (s : State) (m : Nat) (f : FolioId) (malformed : Bool) : State :=
  match tget s.eng.copies (m, f) with
  | none => s
  | some c =>
    let s := copyMod s m f (fun c => { c with
      state := .poisoned, poisonedAt := s.now, bytes := []
      users := if malformed then c.users.map (fun u => { u with doomed := true }) else c.users })
    let s := dropUses s (fun _ => false)
    match f with
    | .page _ _ _ _ => s
    | .tile t tile =>
      match tget s.tensors t with
      | none => s
      | some tn =>
        let s := if investTile tn = some tile then closeInvest s t 5 else s
        let s := keptDrop s t tile
        if c.fromWc then wcRestage s t tile c.cls else s

/-- The on-chip words of a copy's granules are written anew: bench patterns in them end. -/
def sramFresh (s : State) (m : Nat) (c : FolioCopy) : State :=
  { s with eng := { s.eng with sram := s.eng.sram.filter (fun e =>
      !(e.1.1 == 1 && e.1.2.1 == m && decide (128 * c.granule ≤ e.1.2.2)
        && decide (e.1.2.2 < 128 * (c.granule + c.granules)))) } }

/-- A copy is RESIDENT, or already ABSENT where nothing uses it any more (R254, R261). -/
def settleCopy (s : State) (m : Nat) (f : FolioId) (b : Bytes) : State :=
  let s := copyMod s m f (fun c => { c with state := .resident, bytes := b, bad := false })
  let s := match tget s.eng.copies (m, f) with
    | some c => sramFresh s m c
    | none => s
  let s := match f with
    | .tile t _ => tensorMod s t (fun t => { t with lastFetch := some s.now })
    | .page _ _ _ _ => s
  dropUses s (fun _ => false)

/-- FOLIO_DATA_ARRIVE (R254): REQUESTED becomes ARRIVING, or POISONED where the source data comes marked uncorrectable. -/
def execFolioDataArrive (slice : Nat) (folio : FolioId) (s : State) : Out :=
  match tget s.eng.copies (slice, folio) with
  | none => .next s
  | some c =>
    .next (if c.state ≠ .requested then s
      else if c.bad then poisonCopy s slice folio false
      else copyMod s slice folio (fun c => { c with state := .arriving }))

/-- FOLIO_ARRIVE_COMPLETE (R160, R254): the last data of an ARRIVING copy is there, and its entry checks decide. -/
def folioArrive (s : State) (m : Nat) (f : FolioId) (remote : RemoteRead) : State :=
  match tget s.eng.copies (m, f) with
  | none => s
  | some c =>
    if c.state ≠ .arriving then s
    else
      match f with
      | .tile t tile =>
        match tget s.tensors t with
        | none => s
        | some tn =>
          let (b, bad) := if c.bytes.isEmpty then let (pa, ca) := masterTile tn tile
                                                  folioRemote s tn pa ca remote
            else (c.bytes, false)
          if bad || c.bad then poisonCopy s m f false
          else if keptOk tn.params tile b then settleCopy s m f b
          else poisonCopy s m f true
      | .page idx _ _ _ =>
        match tget s.kvs idx with
        | none => s
        | some k =>
          let a := c.addr
          let (s, b, bad) := if daRange a ≤ 2 then
              let (s, b, bad) := rtRead s a (pageBytes k) 0
              (s, b, rtPoison bad a (pageBytes k))
            else
              let (b, p) := remoteBytes (pageBytes k) remote
              (s, b, p || c.bad)
          if bad then poisonCopy s m f false else settleCopy s m f b

/-- FOLIO_ARRIVE_COMPLETE. -/
def execFolioArriveComplete (slice : Nat) (folio : FolioId) (remote : RemoteRead) (s : State) : Out :=
  .next (folioArrive s slice folio remote)

/-! ### Recovery (R107, R254, R255, R643) -/

/-- The RECOVERY record (R658): `used` is the copy that served, 0xFF none. -/
def logRecovery (s : State) (t : Tensor) (tile used foundAt : Nat) : State :=
  logNow s { kind := 0x0108, severity := if used = 0xFF then 3 else 2, tenant := tenantOf s t.master, mid := t.master,
             location := tile * 2 ^ 32 + t.params.tag, detail0 := used, detail1 := foundAt / 16 }

/-- A copy of a tile read for recovery from declared payload and colophon bases: tiers 1 and 2 here, others as `remote`
brings them. -/
def recoverRead (s : State) (t : Tensor) (tile pbase cbase : Nat) (remote : RemoteRead) : State × Option Bytes :=
  let pa := pbase + tile * slotBytes t.params
  let ca := cbase + 32 * tile
  if pbase = 0 ∧ cbase = 0 then (s, none)
  else if daRange pa ≤ 2 then
    let (s, b, bad) := readFolio s t.master t.params pa ca t.tbase
    (s, if !bad && keptOk t.params tile b then some b else none)
  else
    let (b, bad) := folioRemote s t pa ca remote
    (s, if !bad && keptOk t.params tile b then some b else none)

/-- Whether a tensor's master copy lies in a mirrored extent (R372, R373). -/
def tensorMirrored (s : State) (t : Tensor) : Bool :=
  daRange t.pbase == 3 && ((masterHandle s t.master t.pbase 1).bind (·.2.secondary)).isSome

/-- The first intact copy of a tile, in the order tier copy, mirror extent, replica, origin, with its code (R255, R658). `tier` and
`mirror` are what the lender of a tile of tier 3 or 4 answers for either copy; only a mirrored extent has a second one. -/
def recoverTile (s : State) (t : Tensor) (tile : Nat) (tier mirror replica origin : RemoteRead) : State × Option (Nat × Bytes) :=
  match recoverRead s t tile t.pbase t.cbase tier with
  | (s, some b) => (s, some (0, b))
  | (s, none) =>
    match (if tensorMirrored s t then recoverRead s t tile t.pbase t.cbase mirror else (s, none)) with
    | (s, some b) => (s, some (1, b))
    | (s, none) =>
      match recoverRead s t tile t.origin.repP t.origin.repC replica with
      | (s, some b) => (s, some (2, b))
      | (s, none) =>
        match recoverRead s t tile t.origin.orgP t.origin.orgC origin with
        | (s, some b) => (s, some (3, b))
        | (s, none) => (s, none)

/-- The tier copy of a tile rewritten, payload first and colophon last (R107). -/
def rewriteTile (s : State) (t : Tensor) (tile : Nat) (b : Bytes) : State :=
  let (pa, ca) := masterTile t tile
  writeAny (writeAny s 0 t.master pa (slice b 32 (slotBytes t.params))) 0 t.master ca (slice b 0 32)

/-- Recovery of a copy fails: its steps are doomed, and a folio's tensor becomes DAMAGED (R254, R255). -/
def failRecovery (s : State) (m : Nat) (f : FolioId) (c : FolioCopy) : State :=
  let s := copyMod s m f (fun c => { c with failed := true, users := c.users.map (fun u => { u with doomed := true }) })
  match f with
  | .page _ _ _ _ => s
  | .tile t tile =>
    match tget s.tensors t with
    | none => s
    | some tn => damageTensor (logRecovery s tn tile 0xFF c.poisonedAt) t

/-- What a half's edge expander knows of a folio it found malformed, changed. -/
def edgePoisonMod (s : State) (h : Half) (k : Nat × Nat) (f : Option EdgePoison) : State :=
  let g (e : Edge) : Edge := { e with poisoned := match f with
    | some x => tset e.poisoned k x
    | none => tdel e.poisoned k }
  { s with plain := { s.plain with edge := s.plain.edge.mod h g } }

/-- Recovery of a folio that an edge expander found malformed fails: the tensor becomes DAMAGED (R162, R255). -/
def failEdge (s : State) (h : Half) (k : Nat × Nat) (e : EdgePoison) : State :=
  match tget s.tensors k.1 with
  | none => s
  | some t => damageTensor (logRecovery (edgePoisonMod s h k (some { e with failed := true })) t k.2 0xFF e.foundAt) k.1

/-- Recovery of a folio that an edge expander found malformed (R162, R255). -/
def edgeRecovery (s : State) (h : Half) (k : Nat × Nat) (tier mirror replica origin : RemoteRead) : State :=
  match tget (s.plain.edge.get h).poisoned k, tget s.tensors k.1 with
  | some e, some t =>
    if e.failed ∨ e.foundAt + msT 2 < s.now then s
    else
      match recoverTile s t k.2 tier mirror replica origin with
      | (s, some (code, b)) =>
        let s := logRecovery (if code = 0 then s else rewriteTile s t k.2 b) t k.2 code e.foundAt
        edgePoisonMod (chargeRead s 0 (masterTile t k.2).1 (slotBytes t.params) (.compute h)) h k none
      | (s, none) => failEdge s h k e
  | _, _ => s

/-- The half whose edge expander a slice number stands for in FOLIO_RECOVERY and RECOVERY_BUDGET_EXPIRY: 128 and 129, past
the 128 slices (DESIGN CHOICE, log 125). -/
def edgeOf (slice : Nat) : Option Half := if slice = 128 then some .h0 else if slice = 129 then some .h1 else none

/-- FOLIO_RECOVERY (R255): within its budget of 2 ms, a POISONED copy is replaced from the first intact copy, or recovery
fails. -/
def folioRecovery (s : State) (m : Nat) (f : FolioId) (tier mirror replica origin : RemoteRead) : State :=
  match tget s.eng.copies (m, f) with
  | none => s
  | some c =>
    if c.state ≠ .poisoned ∨ c.failed ∨ c.poisonedAt + msT 2 < s.now then s
    else
      match f with
      | .tile t tile =>
        match tget s.tensors t with
        | none => s
        | some tn =>
          match recoverTile s tn tile tier mirror replica origin with
          | (s, some (code, b)) =>
            let s := if code = 0 then s else rewriteTile s tn tile b
            let s := logRecovery s tn tile code c.poisonedAt
            let s := chargeRead s 0 (masterTile tn tile).1 (slotBytes tn.params) (.compute (sliceHalf m))
            copyMod s m f (fun c => { c with state := .arriving, bytes := b, bad := false, fromWc := false })
          | (s, none) => failRecovery s m f c
      | .page idx head run entry =>
        match tget s.kvs idx with
        | none => s
        | some k =>
          let a := (pageOf k head run entry).pda
          let (s, bad) := if daRange a ≤ 2 then
              let (s, _, bad) := rtRead s a (pageBytes k) 0
              (s, rtPoison bad a (pageBytes k))
            else (s, (remoteBytes (pageBytes k) tier).2)
          if bad then failRecovery s m f c else copyMod s m f (fun c => { c with state := .arriving, addr := a })

/-- FOLIO_RECOVERY. -/
def execFolioRecovery (slice : Nat) (folio : FolioId) (reads : FirstReads) (replica origin : RemoteRead) (s : State) : Out :=
  match edgeOf slice, folio with
  | some h, .tile t tile => .next (edgeRecovery s h (t, tile) reads.tier reads.mirror replica origin)
  | _, _ => .next (folioRecovery s slice folio reads.tier reads.mirror replica origin)

/-- RECOVERY_BUDGET_EXPIRY (R254, R255): 2 ms after the copy became POISONED, its recovery ends. -/
def execRecoveryBudgetExpiry (slice : Nat) (folio : FolioId) (s : State) : Out :=
  match edgeOf slice, folio with
  | some h, .tile t tile =>
    match tget (s.plain.edge.get h).poisoned (t, tile) with
    | none => .next s
    | some e => .next (if !e.failed ∧ e.foundAt + msT 2 ≤ s.now then failEdge s h (t, tile) e else s)
  | _, _ =>
    match tget s.eng.copies (slice, folio) with
    | none => .next s
    | some c =>
      .next (if c.state = .poisoned ∧ !c.failed ∧ c.poisonedAt + msT 2 ≤ s.now then failRecovery s slice folio c else s)

/-! ### TILE_PRESENCE_SET (R107, R298, R299) -/

/-- A FULL working copy whose tiles are all present completes its command. -/
def wcComplete (s : State) (id : Nat) : State :=
  match tget s.tensors id with
  | none => s
  | some t =>
    match t.wc with
    | none => s
    | some w =>
      match w.src with
      | none => s
      | some src =>
        if w.present.length < nTiles t.params then s
        else completeSrc (tensorMod s id (fun t => { t with wc := some { w with src := none } })) src rcDone []

/-- The class in which a tile travels into a working copy: 5 for a FULL copy, that of the entry for a STAGED one, and none where
the tile is not due (R299, R491). -/
def wcClass (w : WorkCopy) (tile : Nat) : Option Nat := if w.mode = .full then some 5 else tget w.copying tile

/-- Table images go before the first tile of a half, and those of both halves before the first tile of all (R143, R297, R302,
R330). -/
def wcTablesDue (s : State) (remote : RemoteRead) (t : Tensor) (w : WorkCopy) (cls tile : Nat) : State :=
  let here := wcHalf w tile
  let s := if w.present.any (fun k => wcHalf w k == here) then s else wcTables s remote t w cls here
  if w.present.isEmpty then wcTables s remote t w cls (if here = .h0 then .h1 else .h0) else s

/-- TILE_PRESENCE_SET (R299): the copy of a tile into the working copy ends, payload first and colophon last, and its
presence bit is set. It waits while its class is at its cap (R501), and while its place lies beyond a re-mapped half (R329). -/
def execTilePresenceSet (tensor tile : Nat) (remote : RemoteRead) (s : State) : Out :=
  match tget s.tensors tensor with
  | none => .next s
  | some t =>
    match t.wc.bind (fun w => (wcClass w tile).map (fun cls => (w, cls))) with
    | none => .next s
    | some (w, cls) =>
      let (pa, ca) := masterTile t tile
      let (wp, wca) := wcTile t.params w tile
      let die := Die.tier (wcHalf w tile)
      if t.damaged ∨ nTiles t.params ≤ tile ∨ w.present.contains tile ∨ !spanUsable s wp (slotBytes t.params) ∨ !spanUsable s wca 32
          ∨ !capOpen s cls (readPath pa die ++ writePath wp die) then .next s
      else
        let (s, b, bad) := if daRange pa ≤ 2 then readFolio s t.master t.params pa ca t.tbase
          else
            let (b, p) := folioRemote s t pa ca remote
            (askTile s t pa ca, b, p || farRefused s t.master pa (slotBytes t.params) || farRefused s t.master ca 32)
        if bad then .next s
        else
          let s := wcTablesDue s (.data (slice b (32 + slotBytes t.params) (16 * t.params.ntab)) false) t w cls tile
          let s := chargeRead (chargeRead s cls pa (slotBytes t.params) die) cls ca 32 die
          let s := rtWrite (rtWrite s t.master wp (slice b 32 (slotBytes t.params))) t.master wca (slice b 0 32)
          let s := chargeWrite (chargeWrite s cls wp (slotBytes t.params) die) cls wca 32 die
          let s := tensorMod s tensor (fun t => { t with wc := t.wc.map (fun w => { w with
            present := w.present ++ [tile], copying := tdel w.copying tile }) })
          .next (wcComplete s tensor)

end Sys2Proof.Machine
end

