-- ==== Sys2Proof/Machine/StepCommon.lean ====
section
/-! DEFINITION. What every step opcode shares: release, operands read and written, guard counts and completion (R178,
R181, R210, R231, R232, R251 to R257, R271, R649, R738 to R740). -/

namespace Sys2Proof.Machine

/-! ### Completion (R251, R254, R271, R272) -/

/-- Return codes by which a step invokes the volume's policy (R271). -/
def policyCode (rc : Nat) : Bool := rc == rcPoisoned || rc == rcNoSpace || rc == rcBadField || rc == rcNotPermitted

/-- A released step completes: its SET token, its folios, and the first failure of the call slip with its policy (R251,
R254, R271, R272). `recRc` is what the completion record carries for it. -/
def finishStep (s : State) (n iter step rc recRc : Nat) : State :=
  match tget s.eng.ctxs n with
  | none => s
  | some x =>
    match (ctxVol s x).bind (fun v => (v.steps[step]?).map (fun st => (v, st))) with
    | none => s
    | some (v, st) =>
      let tok (m : BitVec 64) : BitVec 64 := if st.set.getLsbD 7 then m ||| (1#64 <<< (st.set.toNat % 64)) else m
      let s := ctxMod s n (fun x => { x with tokens := tok x.tokens })
      let s := dropUses s (fun u => u.ctx == n && u.step == step && u.iter == iter)
      if rc = rcDone then s
      else
        let s := ctxMod s n (fun x => if x.failStep.isNone then { x with failStep := some step, rc := recRc } else x)
        if v.haltPolicy ∧ policyCode rc then stopCtx s n .fault else s

/-- The scheduler passes to the next step in order of execution; past the last step of a volume without LOOP the list has
ended (R239, R251). The release arbiter's pointer advances (R265). -/
def passStep (s : State) (n : Nat) : State :=
  match tget s.eng.ctxs n with
  | none => s
  | some x =>
    let len := ((ctxVol s x).map (·.steps.length)).getD 0
    let s := { s with eng := { s.eng with releasePointer := (s.eng.releasePointer + 1) % 64 }
                      power := { s.power with idleSince := s.now } }
    let s := ctxMod s n (fun x => { x with pc := x.pc + 1, embedTok := none })
    if len ≤ x.pc + 1 then stopCtx s n .listEnd else s

/-- The step at a context's pc is released and completes in one step of the model (log 7). -/
def doneStep (s : State) (n : Nat) (x : Ctx) (rc : Nat) : State :=
  passStep (finishStep s n x.iter x.pc rc rc) n

/-! ### Operands of a step (R231, R232, R278, R501) -/

/-- The descriptor of an operand field. -/
def operOf (v : Volume) (i : Nat) : Oper :=
  v.opers.getD i { kind := 0, format := 0, splitIn := false, half := .h0, length := 0, addr := 0 }

/-- Whether an operand has the split layout of R74. -/
def operSplit (o : Oper) : Bool := isFp8 o.format && (o.splitIn || o.kind == kAct)

/-- The device address of an operand of KIND DEVICE or INPUT, or of the RESULT of a member run (R232, R278). -/
def operAddr (x : Ctx) (o : Oper) : Option Nat :=
  if o.kind = kDev then some o.addr
  else if o.kind = kInput then some (x.job.slip.input + o.addr)
  else if o.kind = kResult ∧ x.lead.isSome then some (x.job.slip.result + 64 + o.addr)
  else none

/-- Every operand that a step reads or writes, with whether it writes it. -/
def stepOperands (x : VStep) : List (Nat × Bool) :=
  (stepInputs x).map (fun i => (i, false))
    ++ (if x.opc = 0xFFFF ∨ x.opcode = opAppend then [] else [(x.opc, true)])
    ++ (if x.opcode = opSoftmax then [(x.opd, true)] else [])

/-- Whether the class of call-slip data is below its cap on everything that the operands of a step, and the token that it sends,
cross: else the step waits for the next window (R491, R501). -/
def stepOpen (s : State) (v : Volume) (x : Ctx) (st : VStep) : Bool :=
  (stepOperands st).all (fun p =>
    let o := operOf v p.1
    match operAddr x o with
    | some a => decide (2 < daRange a) || capOpen s 1 (if p.2 then writePath a (.compute o.half) else readPath a (.compute o.half))
    | none => o.kind != kResult || capOpen s 1 (hostRes s x.job.poster true))
    && (st.opcode != opSample || (loopOf v.steps).isNone || capOpen s 1 (hostRes s x.job.poster true))

/-! ### Release (R252, R253) -/

/-- Whether a step's wait is satisfied: no earlier step that sets one of its tokens is still incomplete (R251). -/
def waitOk (v : Volume) (x : Ctx) (st : VStep) : Bool :=
  x.pending.all (fun p => match v.steps[p.step]? with
    | none => true
    | some q => !(q.set.getLsbD 7 && st.wait.getLsbD (q.set.toNat % 64)))

/-- The step at a context's pc, when it has an opcode and its conditions that concern no unit hold (R252). -/
def releasable (s : State) (n op : Nat) : Option (Volume × Ctx × VStep) :=
  match tget s.eng.ctxs n with
  | none => none
  | some x =>
    match ctxVol s x with
    | none => none
    | some v =>
      match v.steps[x.pc]? with
      | none => none
      | some st =>
        if !s.ras.moduleFault && x.stop.isNone && st.opcode == op && waitOk v x st && condState v x x.iter x.pc st.cond == some true
        then some (v, x, st) else none

/-- Whether the engine clocks run (R252, R664). -/
def clocksRun (s : State) : Bool := s.power.state == .active

/-- A step that uses a unit runs once the engine clocks run; while they do not, it wakes the device (R252, R668). -/
def runStep (s : State) (n op : Nat) (body : State → Volume → Ctx → VStep → State) : State :=
  let s := settleLate s n
  match releasable s n op with
  | none => s
  | some (v, x, st) => if !stepOpen s v x st then s else if clocksRun s then body s v x st else startWake s

/-- A step that the scheduler executes itself. -/
def schedStep (s : State) (n op : Nat) (body : State → Volume → Ctx → VStep → State) : State :=
  let s := settleLate s n
  match releasable s n op with
  | none => s
  | some (v, x, st) => if stepOpen s v x st then body s v x st else s

/-! ### Operands read (R231, R232, R649) -/

/-- The elements of an operand as last written, or its LENGTH (R194, log 27). -/
def operCount (x : Ctx) (i : Nat) (o : Oper) : Nat := tgetD x.lens i o.length

/-- The activation of an ACT_STORE operand: the oldest written through its descriptor (log 27). -/
def actOf (x : Ctx) (i : Nat) : Option ActBuf := x.acts.find? (fun a => a.oper == i)

/-- Whether every ACT_STORE input of a step is FULL (R252, R257). -/
def actsFull (v : Volume) (x : Ctx) (is : List Nat) : Bool :=
  is.all (fun i => (operOf v i).kind != kAct || (actOf x i).isSome)

/-- Whether an interval of a VU allocation holds poison (R649). -/
def vuBad (l : List (Nat × Nat)) (off n : Nat) : Bool := l.any (fun p => decide (p.1 < off + n) && decide (off < p.2))

/-- The VU and word at which a byte of a VU allocation lies: 2 MiB for each VU, in VU order (log 28). -/
def vuWordAt (x : Ctx) (h : Half) (off : Nat) : Nat × Nat :=
  let a := x.vuBase.get h + off
  (16 * halfNum h + a / mib2, a % mib2 / 4)

/-- The bench patterns in the VU words that an interval covers, with the word's offset in the allocation. -/
def vuPatterns (s : State) (x : Ctx) (h : Half) (off n : Nat) : List ((Nat × Nat × Nat) × Nat) :=
  s.eng.sram.filterMap (fun e =>
    let a := (e.1.2.1 - 16 * halfNum h) * mib2 + 4 * e.1.2.2
    if e.1.1 = 5 ∧ 16 * halfNum h ≤ e.1.2.1 ∧ e.1.2.1 < 16 * halfNum h + 16 ∧ x.vuBase.get h + off < a + 4
        ∧ a < x.vuBase.get h + off + n then some (e.1, a - x.vuBase.get h) else none)

/-- An on-chip word read through its code (R629): its value as stored, corrected, or none where it is uncorrectable; the
pattern of a corrected or clean word ends. -/
def sramWord (s : State) (k : Nat × Nat × Nat) : State × Option (BitVec 32) :=
  match tget s.eng.sram k with
  | none => (s, none)
  | some (d, c) =>
    let syn := hsiaoCheck d ^^^ c
    let gone : State := { s with eng := { s.eng with sram := tdel s.eng.sram k } }
    match hsiaoDecode syn with
    | .clean => (gone, some d)
    | .corrected b =>
      (sramEvent gone k.1 k.2.1 k.2.2 true syn.toNat b 0, some (if b < 32 then d ^^^ (1#32 <<< b) else d))
    | .uncorrectable => (sramEvent s k.1 k.2.1 k.2.2 false syn.toNat 0xFF 0, none)

/-- The VU words under an interval of a context's allocation are read through their code. Answers whether one is
uncorrectable. -/
def vuWords (s : State) (n : Nat) (h : Half) (l : List ((Nat × Nat × Nat) × Nat)) : State × Bool :=
  l.foldl (fun r p =>
    match sramWord r.1 p.1 with
    | (s, some d) => (ctxMod s n (fun x => { x with
        vu := x.vu.mod h (fun c => cellsPut c p.2 (leBytes 4 d.toNat)) }), r.2)
    | (s, none) => (s, true)) (s, false)

/-- The tensor or key/value object of a step, or the volume for a VU step (R80). -/
def blameOf (s : State) (v : Volume) (x : Ctx) (st : VStep) : Blame :=
  match (stepSlot v.opers st).bind (fun i => v.slots[i]?) with
  | some sl => .tensor sl.tensor
  | none =>
    match stepObj s v x st with
    | some k => .kv k.idx
    | none => .volume

/-- Whether two operands of a run hold bytes in common: an activation through its own descriptor, others by where they lie. -/
def operMeets (x : Ctx) (a b : Oper) : Bool :=
  if a.kind = kVu then b.kind == kVu && a.half == b.half && spansMeet (a.addr, operLen a) (b.addr, operLen b)
  else match operAddr x a, operAddr x b with
    | some p, some q => spansMeet (p, operLen a) (q, operLen b)
    | _, _ => false

/-- Whether an operand's bytes are among those of a descriptor whose split counts are due. -/
def dueMeets (v : Volume) (x : Ctx) (i : Nat) (d : SplitDue) : Bool :=
  i == d.oper || operMeets x (operOf v i) (operOf v d.oper)

/-- The step at a context's pc reads an operand: split counts of its bytes are charged against it where it runs on matrix
units, else to their producer (R80). -/
def splitsRead (s : State) (n : Nat) (v : Volume) (i : Nat) : State :=
  match tget s.eng.ctxs n with
  | none => s
  | some x =>
    if x.splits.isEmpty then s
    else
      match v.steps[x.pc]? with
      | none => s
      | some st => splitsPay s n v.key (dueMeets v x i) (fun d => if opOnMu st.opcode then blameOf s v x st else d.own)

/-- The bytes of an operand, with whether any is poison (R649). `remote` brings one of tier 3 or 4. -/
def readOper (s : State) (n : Nat) (v : Volume) (i : Nat) (remote : RemoteRead) : State × Bytes × Bool :=
  let s := splitsRead s n v i
  match tget s.eng.ctxs n with
  | none => (s, [], true)
  | some x =>
    let o := operOf v i
    let len := operLen o
    if o.kind = kVu then
      let (s, ue) := vuWords s n o.half (vuPatterns s x o.half o.addr len)
      let x := tgetD s.eng.ctxs n x
      (s, cellsRead (x.vu.get o.half) o.addr len, ue || vuBad (x.vuPoison.get o.half) o.addr len)
    else if o.kind = kAct then
      match actOf x i with
      | none => (s, zeros len, true)
      | some a => (s, fit len a.bytes, a.poison)
    else if o.kind = kAux then (s, slice v.aux o.addr len, false)
    else if o.kind = kReduce then (s, fit len (x.reduceIn.get o.half), x.reduceBad.get o.half)
    else if o.kind = kToken then (s, leBytes 4 x.token, false)
    else
      match operAddr x o with
      | none => (s, zeros len, false)
      | some a =>
        let (s, b, bad) := readAny s x.job.slip.mid a len remote
        (chargeRead s 1 a len (.compute o.half), b, rtPoison bad a len)

/-! ### Operands written (R181, R257, R649, R739) -/

/-- The first later step, in order of execution, that reads a descriptor and is not known to be skipped (R257). -/
def readerOf (v : Volume) (x : Ctx) (i : Nat) : Option (Nat × VStep) :=
  let reads (p : VStep × Nat) : Bool := (stepInputs p.1).contains i
  match (v.steps.zipIdx).find? (fun p => decide (x.pc < p.2) && reads p && condState v x x.iter p.2 p.1.cond != some false) with
  | some p => some (p.2, p.1)
  | none =>
    match loopOf v.steps with
    | none => none
    | some (_, t) => ((v.steps.zipIdx).find? (fun p => decide (t ≤ p.2) && reads p)).map (fun p => (p.2, p.1))

/-- The store halves that a step's ACT_STORE output fills: the next half of each of its reader's MUs (R257). -/
def actHomes (s : State) (v : Volume) (x : Ctx) (i : Nat) : List (Nat × Bool) :=
  match readerOf v x i with
  | none => []
  | some (_, st) => if opOnMu st.opcode then (muRange s st.unitFirst st.unitCount).map (fun m => (m, (muOf s m).actNext)) else []

/-- Whether the store halves that a step's output fills are FREE (R257). -/
def homesFree (s : State) (v : Volume) (x : Ctx) (i : Nat) : Bool :=
  (operOf v i).kind != kAct || (actHomes s v x i).all (fun p => actHalf s p.1 p.2 == .free)

/-- Store halves are FILLING for a released step that completes later (R257). -/
def holdActs (s : State) (homes : List (Nat × Bool)) : State :=
  homes.foldl (fun s p => setActHalf (muMod s p.1 (fun u => { u with actNext := !p.2 })) p.1 p.2 .filling) s

/-- An activation fills its store halves (R257). -/
def fillActs (s : State) (n : Nat) (a : ActBuf) : State :=
  let s := a.homes.foldl (fun s p => setActHalf (muMod s p.1 (fun u => { u with actNext := !p.2 })) p.1 p.2 .full) s
  ctxMod s n (fun x => { x with acts := x.acts ++ [a] })

/-- A step has consumed its activation: its store halves are FREE (R257). -/
def consumeAct (s : State) (n i : Nat) : State :=
  match (tget s.eng.ctxs n).bind (fun x => actOf x i) with
  | none => s
  | some a =>
    let s := a.homes.foldl (fun s p => setActHalf s p.1 p.2 .free) s
    ctxMod s n (fun x => { x with acts := x.acts.erase a })

/-- Intervals without a range. -/
def cutRange (l : List (Nat × Nat)) (lo hi : Nat) : List (Nat × Nat) :=
  (l.map (fun p => if p.2 ≤ lo ∨ hi ≤ p.1 then [p] else [(p.1, lo), (hi, p.2)])).flatten.filter (fun p => decide (p.1 < p.2))

/-- RESULT-kind bytes: to the poster, or to MRESULT + 64 of a member run; suppressed after its poster's reset (R232,
R278, R279). -/
def resultWrite (s : State) (x : Ctx) (off : Nat) (b : Bytes) (poison : Bool) : State :=
  let a := x.job.slip.result + 64 + off
  match x.lead with
  | some _ =>
    chargeWrite (if poison ∧ daRange a ≤ 2 then dramPoison s (lineOf a) (lineSpan a b.length / 64)
      else writeAny s 1 x.job.slip.mid a b) 1 a b.length (.compute (daHalf a))
  | none =>
    if x.silenced then s
    else if (midFn x.job.poster).isSome then
      emit (chargeHostTx s 1 x.job.poster b.length) (.hostWrite x.job.poster a b poison true)
    else if poison then s
    else emit s (.remoteWrite x.job.poster a b)

/-- Pieces of an output written to its destination, as offset and bytes (R181); `homes` are the store halves of an ACT_STORE
one. -/
def putOperAt (s : State) (n : Nat) (v : Volume) (homes : List (Nat × Bool)) (i : Nat) (pieces : List (Nat × Bytes)) : State :=
  match tget s.eng.ctxs n with
  | none => s
  | some x =>
    let o := operOf v i
    if o.kind = kVu then
      pieces.foldl (fun s p => ctxMod s n (fun x => { x with
        vu := x.vu.mod o.half (fun c => cellsPut c (o.addr + p.1) p.2),
        vuPoison := x.vuPoison.mod o.half (fun l => cutRange l (o.addr + p.1) (o.addr + p.1 + p.2.length)) })) s
    else if o.kind = kAct then
      fillActs s n { oper := i, bytes := pieces.foldl (fun b p => place b p.1 p.2) [], count := o.length,
                     homes := homes }
    else if o.kind = kReduce then
      ctxMod s n (fun x => { x with reduceIn := x.reduceIn.set o.half (pieces.foldl (fun b p => place b p.1 p.2) []),
                                    reduceBad := x.reduceBad.set o.half false })
    else if o.kind = kResult then pieces.foldl (fun s p => resultWrite s x (o.addr + p.1) p.2 false) s
    else if o.kind = kDev then
      pieces.foldl (fun s p => chargeWrite (writeAny s 1 x.job.slip.mid (o.addr + p.1) p.2) 1 (o.addr + p.1) p.2.length
        (.compute o.half)) s
    else s

/-- The output of a step written to its destination. -/
def putOper (s : State) (n : Nat) (v : Volume) (x : Ctx) (i : Nat) (pieces : List (Nat × Bytes)) : State :=
  putOperAt s n v (actHomes s v x i) i pieces

/-- The output of a step that completes POISONED, at its destination (R649). -/
def poisonOperAt (s : State) (n : Nat) (v : Volume) (homes : List (Nat × Bool)) (i : Nat) : State :=
  match tget s.eng.ctxs n with
  | none => s
  | some x =>
    let o := operOf v i
    let len := operLen o
    if o.kind = kVu then
      ctxMod s n (fun x => { x with vuPoison := x.vuPoison.mod o.half (fun l => l ++ [(o.addr, o.addr + len)]) })
    else if o.kind = kAct then
      fillActs s n { oper := i, bytes := [], count := o.length, homes := homes, poison := true }
    else if o.kind = kReduce then
      ctxMod s n (fun x => { x with reduceIn := x.reduceIn.set o.half (zeros len), reduceBad := x.reduceBad.set o.half true })
    else if o.kind = kResult then resultWrite s x o.addr (zeros len) true
    else if o.kind = kDev ∧ daRange o.addr ≤ 2 then dramPoison s (lineOf o.addr) (lineSpan o.addr len / 64)
    else s

/-- The output of a released step that completes POISONED. -/
def poisonOper (s : State) (n : Nat) (v : Volume) (x : Ctx) (i : Nat) : State := poisonOperAt s n v (actHomes s v x i) i

/-! ### Vectors of values into formats (R61 to R64, R69 to R75, R181, R210, R740) -/

/-- An output vector as it is written: its pieces, saturated and non-finite elements, and split and unsplit blocks. -/
structure Encoded where
  pieces : List (Nat × Bytes)
  sat : Nat := 0
  nonfin : Nat := 0
  split : Nat := 0
  unsplit : Nat := 0
  deriving DecidableEq, Repr

/-- A list cut into blocks of 32. -/
def blocks32 {α : Type} (l : List α) : List (List α) := (List.range (ceilDiv l.length 32)).map (fun i => (l.drop (32 * i)).take 32)

/-- A list filled up to a multiple of 32 with zeros (R39). -/
def fill32 (l : List XVal) : List XVal := l ++ List.replicate (roundUp l.length 32 - l.length) (.fin dyZero)

/-- Words of a rounded list. -/
def wordBytes (f : Fmt) (rs : List Rnd) : Bytes := (rs.map (fun r => leBytes f.bytes r.word)).flatten

/-- A split map of blocks (R74). -/
def splitMap (bits : List Bool) : Bytes :=
  (List.range (ceilDiv bits.length 8)).map (fun i =>
    BitVec.ofNat 8 (((List.range 8).map (fun j => if bits.getD (8 * i + j) false then 2 ^ j else 0)).foldl (· + ·) 0))

/-- Columns of an output, each rounded into an operand's format under a SPLIT policy, 3 where the device does not decide to
split at all (R69). FP8 columns begin at multiples of 32 elements (R38, R63, log 27). -/
def encodeCols (o : Oper) (policy : Nat) (cols : List (List XVal)) : Encoded :=
  if isFp8 o.format then
    let e5 := o.format == 3
    let room := operSplit o
    let bs := (blocks32 (cols.map fill32).flatten).take (o.length / 32)
    let hi := bs.map (encBlock e5)
    let want := (bs.zip hi).map (fun p =>
      if policy = 3 then false else if policy = 1 then p.1.all isFin else splitCrit e5 p.1 p.2)
    let doSplit := want.map (fun w => w && room && policy != 2)
    let lo := ((bs.zip hi).zip doSplit).map (fun p =>
      if p.2 then encBlock e5 (residuals e5 p.1.1 p.1.2) else { scale := 0, elems := List.replicate 32 { word := 0 } })
    let n := o.length
    let loAt := n + n / 32
    let base : List (Nat × Bytes) := [(0, (hi.map blkBytes).flatten), (n, hi.map (·.scale))]
    let pieces := if room then
        base ++ [(loAt, (lo.map blkBytes).flatten), (loAt + n, lo.map (·.scale)), (2 * loAt, splitMap doSplit)]
      else base
    let rs := (hi.map (·.elems)).flatten ++ ((lo.zip doSplit).filter (·.2)).flatMap (fun p => p.1.elems)
    { pieces := pieces, sat := rs.countP (·.sat), nonfin := rs.countP (·.nonfin),
      split := doSplit.countP id, unsplit := (want.zip doSplit).countP (fun p => p.1 && !p.2) }
  else
    let f := if o.format = 1 then fmtBf16 else fmtFp32
    let rs := (cols.flatten.take o.length).map (roundOut f)
    { pieces := [(0, wordBytes f rs)], sat := rs.countP (·.sat), nonfin := rs.countP (·.nonfin) }

/-- SAT_LIMIT of a volume's slot of a tensor (R81, R228). The spec does not say which holds where two slots bind one tensor
with different limits: the first slot's does (DESIGN CHOICE, log 124). -/
def satLimitOf (v : Volume) (id : Nat) : Nat := ((v.slots.find? (fun sl => sl.tensor == id)).map (·.satLimit)).getD 0xFFFFFFFF

/-- Saturations of a call slip counted toward SAT_LIMIT (R81). -/
def satCount (s : State) (n : Nat) (v : Volume) (b : Blame) (k : Nat) : State :=
  match b with
  | .tensor id => if k = 0 then s else satAdd s n id (satLimitOf v id) k
  | .kv _ => s
  | .volume => s

/-- An encoded output written, with its counts; `own` counts saturated and non-finite outputs, which a store engine alone
detects (R79). -/
def writeEncodedAt (s : State) (n : Nat) (v : Volume) (x : Ctx) (st : VStep) (homes : List (Nat × Bool)) (i : Nat)
    (e : Encoded) (total : Nat) (own : Bool) : State :=
  let o := operOf v i
  let s := putOperAt s n v homes i e.pieces
  let s := ctxMod s n (fun x => { x with
    lens := if total < o.length then tset x.lens i total else tdel x.lens i })
  let b := blameOf s v x st
  let s := if own ∧ 0 < e.sat + e.nonfin then countEvents s v.key b { osat := e.sat, ononfin := e.nonfin } else s
  let s := if own then satCount s n v b e.sat else s
  let s := splitsPay s n v.key (dueMeets v x i) (·.own)
  if 0 < e.split + e.unsplit then ctxMod s n (fun x => { x with
    splits := x.splits ++ [{ oper := i, split := e.split, unsplit := e.unsplit, own := b }] })
  else s

/-- An encoded output of a released step written. -/
def writeEncoded (s : State) (n : Nat) (v : Volume) (x : Ctx) (st : VStep) (i : Nat) (e : Encoded) (total : Nat)
    (own : Bool) : State :=
  writeEncodedAt s n v x st (actHomes s v x i) i e total own

/-! ### Addresses of a step (R738) -/

/-- The first device address of a step that its master may not use, with its code (R738). -/
def refusedAddr (s : State) (v : Volume) (x : Ctx) (st : VStep) : Option (Nat × Nat) :=
  (stepOperands st).findSome? (fun p =>
    let o := operOf v p.1
    match operAddr x o with
    | none => none
    | some a =>
      let rc := addrCode s x.job.slip.mid a (operLen o) p.2
      if rc = rcDone then none else some (a, rc))

/-- The ACCESS_REFUSED record of a step (R738), and its completion without outputs. -/
def refuseStep (s : State) (n : Nat) (x : Ctx) (a rc : Nat) : State :=
  doneStep (logRefused s x.job.slip.mid a 4 rc) n x rc

/-- A step completes POISONED with its outputs poisoned (R649, R271). -/
def poisonStep (s : State) (n : Nat) (v : Volume) (x : Ctx) (outs : List Nat) : State :=
  doneStep (outs.foldl (fun s i => poisonOper s n v x i) s) n x rcPoisoned

end Sys2Proof.Machine
end

