-- ==== Sys2Proof/Machine/Transc.lean ====
section
/-! DEFINITION. The results that the spec bounds without fixing their bits (R202, R206 to R208, R212): the exact value of
each function to far more bits than FP32 holds, and a free value chosen among the FP32 words within the bound (log 6). -/

namespace Sys2Proof.Machine

/-! ### Real functions on exact values

Each is right to better than 2^−140 of its result, or of 1 where a result that close to zero cannot matter. -/

/-- A significand cut to 256 bits. -/
def dyCut (x : Dy) : Dy :=
  let k := bitLen x.sig.natAbs - 256
  ⟨x.sig / (2 ^ k : Nat), x.exp + k⟩

/-- A quotient to 256 bits. -/
def dyQuot (x y : Dy) : Dy :=
  let k := 256 + bitLen y.sig.natAbs - bitLen x.sig.natAbs
  ⟨x.sig * (2 ^ k : Nat) / y.sig, x.exp - y.exp - k⟩

/-- Newton's steps towards ⌊√n⌋ from above. -/
def sqrtFrom (n : Nat) : (fuel x : Nat) → Nat
  | 0, x => x
  | f + 1, x =>
    let y := (x + n / x) / 2
    if y < x then sqrtFrom n f y else x

/-- ⌊√n⌋. -/
def natSqrt (n : Nat) : Nat := if n = 0 then 0 else sqrtFrom n (bitLen n) (2 ^ ((bitLen n + 1) / 2))

/-- The square root of a value that is not negative, to 256 bits. -/
def dySqrt (x : Dy) : Dy :=
  let k := 512 - bitLen x.sig.natAbs
  let k := if (x.exp - k) % 2 = 0 then k else k + 1
  ⟨natSqrt (x.sig.toNat * 2 ^ k), (x.exp - k) / 2⟩

/-- 1 / √x. -/
def dyRsqrt (x : Dy) : Dy := dyQuot ⟨1, 0⟩ (dySqrt x)

/-- A value in units of 2^−256, rounded down. -/
def toFix (x : Dy) : Int :=
  let e := x.exp + 256
  if 0 ≤ e then x.sig * (2 ^ e.toNat : Nat) else x.sig / (2 ^ (-e).toNat : Nat)

/-- The value of a number of units of 2^−256. -/
def ofFix (n : Int) : Dy := ⟨n, -256⟩

/-- 1 in units of 2^−256. -/
def fixOne : Int := (2 ^ 256 : Nat)

/-- ln 2 in units of 2^−256. -/
def fixLn2 : Int := 0xb17217f7d1cf79abc9e3b39803f2f6af40f343267298b62d8a0d175b8baafa2b

/-- 2π in units of 2^−253: a 256-bit constant (R212). -/
def twoPi : Dy := ⟨0xc90fdaa22168c234c4c6628b80dc1cd129024e088a67cc74020bbea63b139b22, -253⟩

/-- A series summed: term i + 1 is term i times r over 2^256, divided by the i-th divisor. -/
def fixSeries (r : Int) (div : Nat → Int) : (fuel i : Nat) → (term sum : Int) → Int
  | 0, _, _, sum => sum
  | f + 1, i, term, sum =>
    let t := term * r / fixOne / div i
    fixSeries r div f (i + 1) t (sum + t)

/-- e^x for |x| below 2^20. -/
def dyExp (x : Dy) : Dy :=
  let v := toFix x
  let k := v / fixLn2
  ⟨fixSeries (v - k * fixLn2) (fun i => i + 1) 60 0 fixOne fixOne, k - 256⟩

/-- The odd powers of z over their exponents, summed: artanh z. -/
def fixArtanh (z zz : Int) : (fuel i : Nat) → (power sum : Int) → Int
  | 0, _, _, sum => sum
  | f + 1, i, p, sum => fixArtanh z zz f (i + 1) (p * zz / fixOne) (sum + p / (2 * i + 1 : Nat))

/-- log x for x above 0. -/
def dyLog (x : Dy) : Dy :=
  let e := dyLog2 x
  let m := toFix ⟨x.sig, x.exp - e⟩
  let z := (m - fixOne) * fixOne / (m + fixOne)
  ofFix (2 * fixArtanh z (z * z / fixOne) 90 0 z 0 + e * fixLn2)

/-- cos a and sin a for a from 0 to 2π. -/
def dyCosSin (a : Dy) : Dy × Dy :=
  let v := toFix a
  let r := -(v * v / fixOne)
  (ofFix (fixSeries r (fun i => ((2 * i + 1) * (2 * i + 2) : Nat)) 60 0 fixOne fixOne),
    ofFix (fixSeries r (fun i => ((2 * i + 2) * (2 * i + 3) : Nat)) 60 0 v v))

/-- tanh x. -/
def dyTanh (x : Dy) : Dy :=
  if x.sig = 0 then dyZero
  else if 8 ≤ dyLog2 x then ⟨x.sig.sign, 0⟩
  else if dyLog2 x < -28 then
    let x3 := dyMul (dyMul x x) x
    dyAdd x (dyAdd (dyQuot (dyNeg x3) ⟨3, 0⟩) (dyQuot (dyMul ⟨2, 0⟩ (dyMul x3 (dyMul x x))) ⟨15, 0⟩))
  else
    let e := dyExp (dyScale x 1)
    dyQuot (dySub e ⟨1, 0⟩) (dyAdd e ⟨1, 0⟩)

/-- 1 / (1 + e^−x). -/
def dySigmoid (x : Dy) : Dy :=
  if x.sig ≠ 0 ∧ 9 ≤ dyLog2 x then (if x.sig < 0 then dyZero else ⟨1, 0⟩)
  else dyQuot ⟨1, 0⟩ (dyAdd ⟨1, 0⟩ (dyExp (dyNeg x)))

/-- The odd series of the normal distribution: term i of x^(2i+1) (−1)^i / (2^i i!), over 2i + 1, summed. -/
def fixNormal (r : Int) : (fuel i : Nat) → (term sum : Int) → Int
  | 0, _, _, sum => sum
  | f + 1, i, t, sum => fixNormal r f (i + 1) (t * r / fixOne / (2 * (i + 1) : Nat)) (sum + t / (2 * i + 1 : Nat))

/-- (1 + erf (x / √2)) / 2. -/
def dyNormal (x : Dy) : Dy :=
  if x.sig ≠ 0 ∧ 4 ≤ dyLog2 x then (if x.sig < 0 then dyZero else ⟨1, 0⟩)
  else
    let v := toFix x
    dyAdd ⟨1, -1⟩ (dyMul (dyRsqrt twoPi) (ofFix (fixNormal (-(v * v / fixOne)) 460 0 v 0)))

/-! ### FP32 words within a bound -/

/-- The canonical NaN of FP32. -/
def nanWord : Nat := 0x7FC00000
/-- Negative zero of FP32. -/
def negZero : Nat := 0x80000000

/-- Whether a word is a NaN. -/
def isNanW (w : Nat) : Bool := decide (0x7F800000 < w % 2 ^ 31)

/-- An exact value rounded to FP32. -/
def roundWord (x : XVal) : Nat := (roundOut fmtFp32 x).word

/-- The sign of a word. -/
def wordNeg (w : Nat) : Bool := natBit w 31

/-- An infinity with a sign. -/
def infW (neg : Bool) : Nat := if neg then 0xFF800000 else 0x7F800000

/-- The order of FP32 numbers as integers; both zeros are 0 (R94). -/
def orderKey (w : Nat) : Int := if wordNeg w then -((w % 2 ^ 31 : Nat) : Int) else (w % 2 ^ 31 : Nat)

/-- The larger of two words, neither a NaN. -/
def maxWord (a b : Nat) : Nat := if orderKey a < orderKey b then b else a

/-- A zero with a sign. -/
def zeroWord (neg : Bool) : Nat := if neg then negZero else 0

/-- The word at an order key; at 0, a zero with a sign. -/
def keyWord (neg0 : Bool) (k : Int) : Nat := if k < 0 then negZero + k.natAbs else if k = 0 then zeroWord neg0 else k.toNat

/-- A magnitude on the FP32 grid, rounded down or up, as the magnitude bits of a word; above the range, the largest finite
or the infinity. -/
def magKey (up : Bool) (m : Nat) (e : Int) : Nat :=
  if m = 0 then 0
  else
    let g := max ((bitLen m : Int) + e - 24) (-149)
    let q : Nat := if g ≤ e then m * 2 ^ (e - g).toNat else
      let k := (g - e).toNat
      m / 2 ^ k + (if up && m % 2 ^ k != 0 then 1 else 0)
    let w := q + ((g + 149).toNat) * 2 ^ 23
    if w < 0x7F800000 then w else if up then 0x7F800000 else 0x7F7FFFFF

/-- The order key of the largest FP32 value at most x. -/
def keyFloor (x : Dy) : Int := if 0 ≤ x.sig then magKey false x.sig.natAbs x.exp else -(magKey true x.sig.natAbs x.exp : Int)

/-- The order key of the smallest FP32 value at least x. -/
def keyCeil (x : Dy) : Int := -keyFloor (dyNeg x)

/-- Whether a value is at least the magnitude from which FP32 rounds to infinity. -/
def overflows (x : Dy) : Bool := !dyLt x ⟨2 ^ 25 - 1, 103⟩

/-- The least and the greatest order key within a bound of an exact value; where no FP32 value lies within it, the two values
next to the exact one. -/
def keyRange (y b : Dy) : Int × Int :=
  let lo := dySub y b
  let hi := dyAdd y b
  let kl := if overflows (dyNeg lo) then -0x7F800000 else keyCeil lo
  let kh := if overflows hi then 0x7F800000 else keyFloor hi
  if kl ≤ kh then (kl, kh) else (keyFloor y, keyCeil y)

/-- One unit in the last place of the FP32 result y (R207). -/
def dyUlp (y : Dy) : Dy := ⟨1, if y.sig = 0 then -149 else max (dyLog2 y - 23) (-149)⟩

/-- A result that the spec does not bound: a free value of what it depends on; a NaN is the canonical one (R203, R206, log
6). -/
def openWord (fn : Nat) (ins : List Nat) (i : Nat) : Nat :=
  let w := (Config.vuOpen fn (ins.map (BitVec.ofNat 32)) i).toNat
  if isNanW w then nanWord else w

/-- A result that the spec bounds: a free value among the FP32 words within b of the exact value y; the sign of a zero is
given or free (R206, R207, log 6). -/
def boundWord (fn : Nat) (ins : List Nat) (i : Nat) (neg0 : Option Bool) (y b : Dy) : Nat :=
  let r := keyRange y b
  let f (i : Nat) : Nat := (Config.vuOpen fn (ins.map (BitVec.ofNat 32)) i).toNat
  keyWord (neg0.getD (natBit (f (2 ^ 32 + i)) 0)) (r.1 + (f i : Int) % (r.2 - r.1 + 1))

end Sys2Proof.Machine
end

