-- ==== Sys2Proof/Machine/Lanes.lean ====
section
/-! DEFINITION. What reaches the lanes of the matrix units: elements, products, windows and special flags, tiles expanded at
an MU, and what accumulator entries hold (R44 to R60, R74 to R77, R110, R160 to R165). -/

namespace Sys2Proof.Machine

/-! ### Lanes (R44 to R60) -/

/-- A window of a lane: its band, and the integer V in units of 2^L_k (R48, R51). -/
structure Window where
  band : Nat
  v : Int
  deriving DecidableEq, Repr

/-- One lane of a unit: its flags, its windows in the order in which their bands' first products came, and its exact value,
which in code mode takes the row factor with it (R47, R48, R51, R53, R59). -/
structure Lane where
  nan : Bool := false
  pinf : Bool := false
  ninf : Bool := false
  wins : List Window := []
  sum : Dy := dyZero
  deriving DecidableEq, Repr

/-- The anchor L_k of a band under a top exponent (R50). -/
def anchorOf (top : Int) (k : Nat) : Int := top - 63 - 53 * (k : Int)

/-- The band of a product with an LSB exponent, under a top exponent (R50). -/
def bandOf (top e : Int) : Nat :=
  let l0 := anchorOf top 0
  if l0 ≤ e then 0 else ((l0 - e + 52) / 53).toNat

/-- A value added to the window of a band; a band not met before takes the next window (R51, R53). -/
def addWindow (ws : List Window) (k : Nat) (v : Int) : List Window :=
  if ws.any (fun w => w.band == k) then ws.map (fun w => if w.band = k then { w with v := w.v + v } else w)
  else ws ++ [{ band := k, v := v }]

/-- The special value of an element's hi and lo parts taken together: a NaN, or infinities of both signs, make NaN (R203). -/
def elemSpecial (xs : List Opnd) : Option Opnd :=
  if xs.contains .nan ∨ (xs.contains (.inf false) ∧ xs.contains (.inf true)) then some .nan
  else if xs.contains (.inf false) then some (.inf false)
  else if xs.contains (.inf true) then some (.inf true)
  else none

/-- The exact value of an element's finite parts: the sum of its digits, or of its hi and lo parts (R40, R77). -/
def elemVal (xs : List Opnd) : Dy :=
  xs.foldl (fun a x => match opndVal x with
    | .fin d => dyAdd a d
    | .nan => a
    | .inf _ => a) dyZero

/-- An element of zero. -/
def zeroElem : List Opnd := [.fin false 0 0]

/-- One finite product added into its band's window, and into the exact value with its row factor (R44, R47, R51). The spec
does not say whether a product with a finite zero operand, which adds nothing by R44, claims an accumulator entry for its
band: here it claims none (DESIGN CHOICE, log 115). -/
def laneProduct (top : Int) (row : Dy) (l : Lane) (w a : Opnd) : Lane :=
  match w, a with
  | .fin nw sw lw, .fin na sa la =>
    if sw * sa = 0 then l
    else
      let m : Int := if nw != na then -((sw * sa : Nat) : Int) else (sw * sa : Nat)
      let e := lw + la
      let k := bandOf top e
      { l with wins := addWindow l.wins k (m * (2 ^ (e - anchorOf top k).toNat : Nat)), sum := dyAdd l.sum (dyMul ⟨m, e⟩ row) }
  | _, _ => l

/-- An infinite product sets a flag by its sign (R59). -/
def laneInf (l : Lane) (neg : Bool) : Lane := if neg then { l with ninf := true } else { l with pinf := true }

/-- One part of a weight element meets one part of an activation element (R59). `ew` and `ea` are the elements' finite values,
which decide what is a zero (log 29). -/
def partTerm (top : Int) (row : Dy) (ew ea : Dy) (l : Lane) (w a : Opnd) : Lane :=
  match w, a with
  | .fin _ _ _, .fin _ _ _ => laneProduct top row l w a
  | .nan, .fin _ _ _ => if ea.sig = 0 then l else { l with nan := true }
  | .fin _ _ _, .nan => if ew.sig = 0 then l else { l with nan := true }
  | .inf m, .fin _ _ _ => if ea.sig = 0 then { l with nan := true } else laneInf l (m != decide (ea.sig < 0))
  | .fin _ _ _, .inf n => if ew.sig = 0 then { l with nan := true } else laneInf l (n != decide (ew.sig < 0))
  | .inf m, .inf n => laneInf l (m != n)
  | .nan, _ => { l with nan := true }
  | .inf _, .nan => { l with nan := true }

/-- One weight element meets one activation element in a lane: every part of one with every part of the other (R59). -/
def laneTerm (top : Int) (row : Dy) (l : Lane) (ws as : List Opnd) : Lane :=
  let ew := dyMul (elemVal ws) row
  let ea := elemVal as
  ws.foldl (fun l w => as.foldl (fun l a => partTerm top row ew ea l w a) l) l

/-- The windows of an output's lanes on several units joined by band, and their flags (R56). -/
def joinLanes (ls : List (Nat × Lane)) : Lane :=
  ls.foldl (fun j p =>
    { nan := j.nan || p.2.nan, pinf := j.pinf || p.2.pinf, ninf := j.ninf || p.2.ninf
      wins := p.2.wins.foldl (fun ws w => addWindow ws w.band w.v) j.wins
      sum := dyAdd j.sum p.2.sum }) {}

/-- The exact value of an output (R60). -/
def laneVal (l : Lane) : XVal :=
  if l.nan || (l.pinf && l.ninf) then .nan
  else if l.pinf then .inf false
  else if l.ninf then .inf true
  else .fin l.sum

/-- Windows per lane of a shape (R58). -/
def shapeWindows (f : Nat) : Nat := if f = 0 then 4 else if f = 1 then 2 else 1

/-- Rows of a row pass of a shape (R58). -/
def shapeRows (f : Nat) : Nat := if f = 3 then 64 else if f = 4 then 32 else 128

/-- Extra band passes of a step: its fullest lane decides (R53 to R55). -/
def extraPasses (w : Nat) (ls : List Lane) : Nat := ceilDiv ((ls.map (·.wins.length)).foldl max 0) w - 1

/-- The accumulator entries of lanes in their last band pass, W to a lane in order (R48, R53, R58; that lane i takes the
entries from W × i on is DESIGN CHOICE, log 116). `used` is set until the store engine takes the windows (R57). -/
def laneEntries (w passes : Nat) (used : Bool) (ls : List Lane) : Tbl Nat AccEntry :=
  (ls.zipIdx).flatMap (fun l => (((l.1.wins.drop ((passes - 1) * w)).take w).zipIdx).map (fun p =>
    (w * l.2 + p.2, { used := used, nan := l.1.nan, pinf := l.1.pinf, ninf := l.1.ninf,
                      band := BitVec.ofNat 4 p.1.band, val := BitVec.ofInt 80 p.1.v })))

/-! ### Activations (R38 to R41, R74) -/

/-- The part of an FP8 vector at a base: element i under its block's scale. -/
def fp8At (e5 : Bool) (n : Nat) (b : Payload) (base i : Nat) : Opnd :=
  scaled (fp8 e5 (b.getD (base + i) 0)) (b.getD (base + n + i / 32) 0)

/-- Element i of an activation operand: an FP8 element with its lo part where its block is split, or the digits of a BF16
element. -/
def actElem (o : Oper) (b : Payload) (i : Nat) : List Opnd :=
  if isFp8 o.format then
    let e5 := o.format == 3
    let n := o.length
    let hi := fp8At e5 n b 0 i
    if operSplit o && natBit (plAt b (2 * fp8Len n + i / 256)) (i / 32 % 8) then [hi, fp8At e5 n b (fp8Len n) i] else [hi]
  else
    let (h, l) := bf16Digits (plAt b (2 * i) + 256 * plAt b (2 * i + 1))
    [h, l]

/-- A column of a batched activation: its elements one after another, columns of FP8 at multiples of 32 (log 27). -/
def actColumn (o : Oper) (b : Payload) (n c : Nat) : List (List Opnd) :=
  let stride := if isFp8 o.format then roundUp n 32 else n
  (List.range n).map (fun j => actElem o b (c * stride + j))

/-- The top exponent of an operand of a format (R41). -/
def tauOf (e5 : Bool) (x : Opnd) : Option Int :=
  match x with
  | .fin _ s l => if s = 0 then none else some (l + (if e5 then 3 else 4))
  | .nan => none
  | .inf _ => none

/-- The larger of two optional exponents. -/
def maxTau (a b : Option Int) : Option Int :=
  match a, b with
  | none, b => b
  | a, none => a
  | some a, some b => some (max a b)

/-- The largest top exponent of a column (R49). -/
def columnTau (e5 : Bool) (col : List (List Opnd)) : Option Int :=
  col.foldl (fun t xs => xs.foldl (fun t x => maxTau t (tauOf e5 x)) t) none

/-- Whether element i of an activation lies in a block that is split (R74, R76). -/
def elemSplit (o : Oper) (b : Payload) (i : Nat) : Bool :=
  isFp8 o.format && operSplit o && natBit (plAt b (2 * fp8Len o.length + i / 256)) (i / 32 % 8)

/-! ### Tiles at an MU expander (R46, R47, R110, R160 to R165) -/

/-- A weight element with its row factor, which code mode applies after the windows (R47). -/
structure WElem where
  op : List Opnd := zeroElem
  row : Dy := ⟨1, 0⟩
  deriving DecidableEq, Repr

/-- A tile expanded at an MU: `cols` holds v_j of code mode, `cycles` is X_t (R180). -/
structure ExpTile where
  unit : Nat
  row : Nat
  col : Nat
  tb : Int
  elems : Array WElem
  cols : Array Opnd
  clamps : Nat
  flushes : Nat
  cycles : Nat
  deriving DecidableEq, Repr

/-- A factor byte as an operand (R119). -/
def factorOpnd (b : Nat) : Opnd :=
  let (n, s, l) := e4m3Factor b
  .fin n s l

/-- A weight in code mode: code × v_j × 2^tb, with u_i as its row factor (R46, R47). -/
def codeElem (alph : Nat) (pl : Payload) (tb : Int) (k : Nat) : WElem :=
  let cb := codeRegion alph
  let c := lrsCode alph pl k
  let (nu, su, lu) := e4m3Factor (plAt pl (cb + k / 128))
  let (nv, sv, lv) := e4m3Factor (plAt pl (cb + 128 + k % 128))
  { op := [.fin (decide (c < 0) != nv) (c.natAbs * sv) (lv + tb)], row := ⟨if nu then -(su : Int) else su, lu⟩ }

/-- Cycles of a lane decoder for symbols of given slots, 16 slots to a cycle (R163). -/
def laneCycles (slots : List Nat) : Nat :=
  (slots.foldl (fun (r : Nat × Nat) n => if r.2 + n ≤ 16 then (r.1, r.2 + n) else (r.1 + 1, n)) (1, 0)).1

/-- X_t: expander cycles of a tile (R110, R163, R180). -/
def tileCycles (p : TParams) (c : Colophon) (tables : List Bytes) (pay : Bytes) : Nat :=
  if p.method ≠ 2 ∨ c.zero then 0
  else
    let slots := ((entTile p.q (tables.getD c.etab []) pay.toArray).getD []).map (·.2)
    ((List.range 32).map (fun l => laneCycles ((slots.drop (512 * l)).take 512))).foldl max 0

/-- A tile's payload expanded from its kept bytes, or none where an expander check fails (R160, R161). -/
def expandTile (p : TParams) (code : Bool) (unit row col : Nat) (b : Bytes) : Option ExpTile :=
  let c := parseColophon (slice b 0 32)
  let pay := slice b 32 (slotBytes p)
  match expandWords p c (folioTables p b) pay with
  | none => none
  | some ws =>
    let (k, f) := ewfCounts ws
    let pl := pay.toArray
    let elems : Array WElem := if code then
        ((List.range 16384).map (fun i => if c.zero then {} else codeElem p.alphabet pl c.tb i)).toArray
      else (ws.map (fun w => ({ op := [ewfOpnd w.word c.tb] } : WElem))).toArray
    let cols : Array Opnd := if code && !c.zero then
        ((List.range 128).map (fun j => factorOpnd (plAt pl (codeRegion p.alphabet + 128 + j)))).toArray
      else #[]
    some { unit := unit, row := row, col := col, tb := c.tb, elems := elems, cols := cols, clamps := if code then 0 else k,
           flushes := if code then 0 else f, cycles := tileCycles p c (folioTables p b) pay }

/-- The largest τ of t_j = v_j × a_j over a tile's columns: a significand of 8 bits (R47, R49). -/
def codeTau (t : ExpTile) (col : Array (List Opnd)) : Option Int :=
  (List.range 128).foldl (fun m j =>
    (col.getD (128 * t.col + j) []).foldl (fun m x => match x, t.cols.getD j (.fin false 0 0) with
      | .fin _ sa la, .fin _ sv lv => if sa = 0 ∨ sv = 0 then m else maxTau m (some (la + lv + 8))
      | _, _ => m) m) none

/-- The top exponent of a MATVEC column (R49). -/
def matvecTop (code e5 : Bool) (tiles : List ExpTile) (col : Array (List Opnd)) : Int :=
  let tb := (tiles.map (·.tb)).foldl max (-64)
  if code then ((tiles.map (fun t => codeTau t col)).foldl maxTau none).getD 0 + tb
  else (columnTau e5 col.toList).getD 0 + tb + 17

/-- The lane of row r of matrix x on one unit, whose tiles are given, against a column; an activation that a local reset has
wiped reads as zeros there (R683). -/
def unitLane (top : Int) (tiles : List ExpTile) (wiped : Bool) (col : Array (List Opnd)) (r : Nat) : Lane :=
  (tiles.filter (fun t => t.row == r / 128)).foldl (fun l t =>
    (List.range 128).foldl (fun l j =>
      let w := t.elems.getD (128 * (r % 128) + j) {}
      laneTerm top w.row l w.op (if wiped then zeroElem else col.getD (128 * t.col + j) zeroElem)) l) {}

/-- One output of a MATVEC: its lane on each unit that holds tiles of its row. -/
def matvecLanes (top : Int) (tiles : List ExpTile) (wiped : List Nat) (col : Array (List Opnd)) (r : Nat) : List (Nat × Lane) :=
  let mine := tiles.filter (fun t => t.row == r / 128)
  ((mine.map (·.unit)).eraseDups).map (fun m => (m, unitLane top (mine.filter (fun t => t.unit == m)) (wiped.contains m) col r))

/-! ### The words of copies (R254, R629) -/

/-- The bench patterns in the words of a copy. -/
def copyPatterns (s : State) (m : Nat) (c : FolioCopy) : List (Nat × Nat × Nat) :=
  (s.eng.sram.filter (fun e => e.1.1 == 1 && e.1.2.1 == m && decide (128 * c.granule ≤ e.1.2.2)
    && decide (e.1.2.2 < 128 * (c.granule + c.granules)))).map (·.1)

/-- A copy's words are read through their code; an uncorrectable one makes the copy POISONED (R254, R629). -/
def copyWords (s : State) (k : Nat × FolioId) : State :=
  match tget s.eng.copies k with
  | none => s
  | some c =>
    let base := match k.2 with
      | .tile _ _ => 32
      | .page _ _ _ _ => 0
    (copyPatterns s k.1 c).foldl (fun s w =>
      match sramWord s w with
      | (s, some d) => copyMod s k.1 k.2 (fun c => { c with bytes := place c.bytes (base + 4 * (w.2.2 - 128 * c.granule)) (leBytes 4 d.toNat) })
      | (s, none) => poisonCopy s k.1 k.2 false) s

/-- The bytes of a copy. -/
def copyBytes (s : State) (k : Nat × FolioId) : Bytes := ((tget s.eng.copies k).map (·.bytes)).getD []

/-- Whether the tensor of a slot cannot be used: DAMAGED, or loaded again with another digest (R96, R230). -/
def slotSpoilt (s : State) (sl : VSlot) : Bool :=
  match tget s.tensors sl.tensor with
  | none => true
  | some t => t.damaged || t.digest != sl.digest

end Sys2Proof.Machine
end

