-- ==== Sys2Proof/Machine/Probe.lean ====
section
/-! DEFINITION. Sentinel probes and the investigation of a probe that failed (R87 to R101). -/

namespace Sys2Proof.Machine

/-! ### Probe records in use (R87 to R92) -/

/-- The probes of loaded volumes whose tensors can be used, with their tensors, in order of tensor and probe number. -/
def allProbes (s : State) : List (Nat × Probe) :=
  let l := (s.volumes.map (fun v => (v.2.slots.filter (fun sl => !slotSpoilt s sl)).flatMap (fun sl =>
    ((v.2.probes.drop sl.probeFirst).take sl.nprobe).map (fun p => (sl.tensor, p))))).flatten
  l.mergeSort (fun a b => decide (a.1 < b.1) || (a.1 == b.1 && decide (a.2.probe ≤ b.2.probe)))

/-- Whether a slice holds a probe's tile RESIDENT (R89). -/
def probeHeld (s : State) (m : Nat) (p : Nat × Probe) : Bool :=
  ((tget s.eng.copies (m, .tile p.1 p.2.tile)).map (·.state)) == some .resident

/-- Whether a probe is eligible on a unit (R89). -/
def probeEligible (s : State) (m : Nat) (p : Nat × Probe) : Bool :=
  muUp s m && clocksRun s && probeHeld s m p

/-! ### A run and its comparison (R93, R94) -/

/-- The activation operand of a probe. -/
def probeOper (p : Probe) : Oper :=
  { kind := 0, format := if p.e5m2 then 3 else 2, splitIn := false, half := .h0, length := 128, addr := 0 }

/-- What a probe gives on a tile expanded at a unit: its 128 outputs rounded to FP32, its lanes, and its band passes, with
the four windows of shape B1 (R54, R90, R93, R94). -/
def probeLanes (p : Probe) (e : ExpTile) : List Nat × List Lane × Nat :=
  let col := (actColumn (probeOper p) (p.act ++ p.ascale).toArray 128 0).toArray
  let top := matvecTop p.code p.e5m2 [e] col
  let ls := (List.range 128).map (unitLane top [e] false col)
  (ls.map (fun l => roundWord (laneVal l)), ls, 1 + extraPasses 4 ls)

/-- Whether an output passes against its reference (R94). -/
def outPass (tol w ref : Nat) : Bool :=
  (isNanW w && isNanW ref) || (!isNanW w && !isNanW ref && decide ((orderKey w - orderKey ref).natAbs ≤ tol))

/-- Whether all outputs pass. -/
def probePass (p : Probe) (outs : List Nat) : Bool :=
  (outs.zip p.ref).all (fun o => outPass p.tol o.1 o.2.toNat)

/-- A completed comparison counts in the tensor's guard record, with the clamps and flushes of its expansions (R79, R83). -/
def probeCount (s : State) (id : Nat) (r : ProbeRun) : State :=
  tensorMod s id (fun t =>
    let g := guardAdd s.now t.guard { wsat := r.clamps, wflush := r.flushes }
    { t with
      lastProbe := some s.now
      guard := if r.pass then { g with sentRuns := sat32 (g.sentRuns + 1) }
               else { g with sentRuns := sat32 (g.sentRuns + 1), sentFails := sat32 (g.sentFails + 1),
                             lastProbe := r.probe.probe, lastFailTime := devNs s } })

/-- A failed probe opens an investigation, where none is open (R95). -/
def openInvest (s : State) (id m : Nat) (p : Probe) : State :=
  tensorMod s id (fun t =>
    if t.investigation.isSome then t
    else { t with investigation := some { stage := 1, probe := p, mu := m, firstFail := devNs s, stageAt := s.now },
                  guard := { t.guard with sentState := 1 } })

/-- Cycles of 800 MHz of a probe on an expanded tile (R93): 2 in code mode, else 4, or the expander's time, in each band
pass. -/
def probeCycles (p : Probe) (e : ExpTile) (passes : Nat) : Nat := passes * (if p.code then 2 else max 4 e.cycles)

/-- A run of a probe on a tile's kept bytes, with the windows of its last pass, or none where an expander check fails. -/
def probeRunOf (now : Nat) (t : TParams) (id : Nat) (p : Probe) (unit : Nat) (b : Bytes) :
    Option (ProbeRun × Tbl Nat AccEntry) :=
  match expandTile t p.code unit 0 0 b with
  | none => none
  | some e =>
    let (outs, ls, passes) := probeLanes p e
    some ({ tensor := id, probe := p, ends := now + 20 * probeCycles p e passes, pass := probePass p outs,
            clamps := e.clamps * passes, flushes := e.flushes * passes }, laneEntries 4 passes true ls)

/-- A probe's run on the copy of its tile in a slice, whose words are read through their code; a copy that turns out bad is
POISONED. -/
def probeOn (s : State) (m id : Nat) (p : Probe) : State × Option (ProbeRun × Tbl Nat AccEntry) :=
  let k := (m, FolioId.tile id p.tile)
  let s := copyWords s k
  match tget s.tensors id, tget s.eng.copies k with
  | some t, some c =>
    if c.state ≠ .resident then (s, none)
    else
      match probeRunOf s.now t.params id p m c.bytes with
      | none => (poisonCopy s k.1 k.2 true, none)
      | some r => (s, some r)
  | _, _ => (s, none)

/-- The probe accumulator of a unit is free again; its entries keep what they hold but USED (R48, R90). -/
def probeFree (s : State) (m : Nat) : State :=
  muMod s m (fun u => { u with probe := none, probeAcc := tmap u.probeAcc (fun _ e => { e with used := false }) })

/-- A run that has completed is compared and counted; a failure opens an investigation (R94, R95). -/
def probeDone (s : State) (m : Nat) (r : ProbeRun) : State :=
  let s := probeCount (probeFree s m) r.tensor r
  if r.pass then s else openInvest s r.tensor m r.probe

/-- The probe running on a unit, whose cycles are over, completes (R93). -/
def probeSettle (s : State) (m : Nat) : State :=
  match (muOf s m).probe with
  | none => s
  | some r => if r.ends ≤ s.now then probeDone s m r else s

/-- A step is released to a unit: a probe running there has completed, or is abandoned, not counted, and retried in a later
idle slot (R91). -/
def probeYield (s : State) (m : Nat) : State :=
  let s := probeSettle s m
  if (muOf s m).probe.isSome then probeFree s m else s

/-- A probe starts in an idle slot of a unit: it takes the probe accumulator until its cycles are over (R90, R91). -/
def probeStart (s : State) (m id : Nat) (p : Probe) : State :=
  match probeOn s m id p with
  | (s, some (r, acc)) => muMod s m (fun u => { u with probe := some r, probeAcc := acc })
  | (s, none) => s

/-- PROBE_RUN (R90 to R92): a run on the unit whose cycles are over completes; where the unit's probe accumulator is free, the
first eligible probe at or after its pointer starts, and the pointer advances one place. -/
def probeRun (s : State) (m : Nat) : State :=
  if (muOf s m).probe.isSome then probeSettle s m
  else
    let l := allProbes s
    let n := l.length
    let ptr := (muOf s m).probePointer
    match leastFrom (fun k => match l[(ptr + k) % n]? with
        | some p => probeEligible s m p
        | none => false) n 0 with
    | none => s
    | some k =>
      match l[(ptr + k) % n]? with
      | none => s
      | some p => probeStart (muMod s m (fun u => { u with probePointer := (ptr + 1) % n })) m p.1 p.2

/-- PROBE_RUN. -/
def execProbeRun (mu : Nat) (s : State) : Out := .next (probeRun s mu)

/-- A forced run: it is not abandoned, and completes in its command; none where a run in an idle slot still holds the unit's
probe accumulator (R90, R93). Answers whether the comparison passed, where there was one. -/
def probeForced (s : State) (m id : Nat) (p : Probe) : State × Option Bool :=
  let s := probeSettle s m
  if (muOf s m).probe.isSome then (s, none)
  else
    match probeOn s m id p with
    | (s, some (r, acc)) =>
      (probeCount (probeFree (muMod s m (fun u => { u with probeAcc := acc })) m) id r, some r.pass)
    | (s, none) => (s, none)

/-- Whether a probe of a tensor is to be forced (R93). -/
def probeDue (s : State) (t : Tensor) : Bool :=
  (match t.lastFetch with
   | some f => decide (s.now ≤ f + msT 100)
   | none => false)
  && (match t.lastProbe with
   | some f => decide (f + msT 100 < s.now)
   | none => true)

/-- The first eligible probe of a tensor, on the lowest unit that holds its tile. -/
def forceChoice (s : State) (id : Nat) : Option (Nat × Probe) :=
  (allProbes s).findSome? (fun p =>
    if p.1 ≠ id then none else (leastFrom (fun m => probeEligible s m p) 128 0).map (fun m => (m, p.2)))

/-- PROBE_FORCE (R93): a tensor fetched within 100 ms, none of whose probes completed in that time, has one forced. The
spec names no advance of the pointer for a forced probe: it leaves the pointer (DESIGN CHOICE, log 122). -/
def execProbeForce (tensor : Nat) (s : State) : Out :=
  match tget s.tensors tensor with
  | none => .next s
  | some t =>
    match probeDue s t, forceChoice s tensor with
    | true, some (m, p) =>
      match probeForced s m tensor p with
      | (s, some false) => .next (openInvest s tensor m p)
      | (s, _) => .next s
    | _, _ => .next s

/-! ### Investigations (R95 to R97, R99 to R101) -/

/-- The next stage of an investigation begins. -/
def nextStage (s : State) (id n : Nat) : State :=
  tensorMod s id (fun t => { t with investigation := t.investigation.map (fun v => { v with
    stage := n, stageAt := s.now, fetched := none }) })

/-- INVESTIGATION_RERUN (R95): stage 1 runs the probe again on the same copy. Where that copy is no longer RESIDENT the spec
names no next stage: the investigation waits for one (DESIGN CHOICE, log 123). -/
def execInvestigationRerun (tensor : Nat) (s : State) : Out :=
  match (tget s.tensors tensor).bind (·.investigation) with
  | none => .next s
  | some v =>
    if v.stage = 1 ∧ probeEligible s v.mu (tensor, v.probe) then
      match probeForced s v.mu tensor v.probe with
      | (s, some true) => .next (closeInvest s tensor 1)
      | (s, some false) => .next (nextStage s tensor 2)
      | (s, none) => .next s
    else .next s

/-- Whether an investigation's fetch may be issued: in ACTIVE, READY and DOZE (R89). -/
def investMay (s : State) : Bool :=
  s.power.state == .active || s.power.state == .ready || s.power.state == .doze

/-- The folio of an investigation fetched from its source tier in class 7 (R89, R95). A tile of a working copy that comes back
bad is dropped from it and copied again (R301). -/
def investFetch (s : State) (t : Tensor) (tile m : Nat) (remote : RemoteRead) : State × Bytes × Bool :=
  let wc := fromWc t tile
  let (pa, ca, ta) := tileAddrs t tile wc
  let (s, b, bad) := if daRange pa ≤ 2 then readFolio s t.master t.params pa ca ta
    else
      let (b, p) := folioRemote s t pa ca remote
      (askTile s t pa ca, b, p || farRefused s t.master pa (slotBytes t.params) || farRefused s t.master ca 32)
  let bad := bad || !keptOk t.params tile b
  let s := chargeRead s 7 pa (slotBytes t.params) (.compute (sliceHalf m))
  (if bad && wc then wcRestage s t.id tile 7 else s, b, bad)

/-- Whether the fetch of an investigation toward a slice, if it is still to be made, may be issued: its class is below its cap
(R491, R501). -/
def investOpen (s : State) (t : Tensor) (v : Investigation) (m : Nat) : Bool :=
  let pa := (tileAddrs t v.probe.tile (fromWc t v.probe.tile)).1
  v.fetched.isSome || decide (2 < daRange pa) || capOpen s 7 (readPath pa (.compute (sliceHalf m)))

/-- The folio that a stage runs on: the one it has fetched into a unit's slice, or else one fetched now. -/
def investFolio (s : State) (t : Tensor) (v : Investigation) (m : Nat) (remote : RemoteRead) : State × Bytes × Bool :=
  match v.fetched with
  | some (_, b) => (s, b, false)
  | none =>
    let (s, b, bad) := investFetch s t v.probe.tile m remote
    if bad then (s, b, true)
    else (tensorMod s t.id (fun t => { t with investigation := t.investigation.map (fun v => { v with fetched := some (m, b) }) }),
      b, false)

/-- A probe runs, forced, on fetched bytes on a unit, once the device is in ACTIVE (R89): none where it waits; else whether
the comparison passed, or none where an expander check fails. -/
def probeFetched (s : State) (m id : Nat) (t : TParams) (p : Probe) (b : Bytes) : State × Option (Option Bool) :=
  let s := probeSettle s m
  if !clocksRun s || (muOf s m).probe.isSome then (s, none)
  else
    match probeRunOf s.now t id p m b with
    | none => (s, some none)
    | some (r, acc) =>
      (probeCount (probeFree (muMod s m (fun u => { u with probeAcc := acc })) m) id r, some (some r.pass))

/-- A slice keeps a re-fetched copy of a tile: in place of the one it holds, or in free granules (R96). -/
def keepCopy (s : State) (m q : Nat) (f : FolioId) (b : Bytes) : State :=
  match tget s.eng.copies (m, f), findGranules s m q with
  | some _, _ => copyMod s m f (fun c => { c with state := .resident, bytes := b, bad := false, failed := false })
  | none, some g =>
    let c : FolioCopy := { state := .resident, granule := g, granules := q, bytes := b, users := [], charge := .pool,
                           pin := false, cls := 7, requestedAt := s.now }
    { s with eng := { s.eng with copies := tset s.eng.copies (m, f) c } }
  | none, none => s

/-- INVESTIGATION_REFETCH (R89, R95, R99): stage 2 fetches the folio into the same slice and, once the device is in ACTIVE,
runs there. A folio that comes back bad is POISONED, which abandons the investigation. -/
def execInvestigationRefetch (tensor : Nat) (remote : RemoteRead) (s : State) : Out :=
  match tget s.tensors tensor with
  | none => .next s
  | some t =>
    match t.investigation with
    | none => .next s
    | some v =>
      let k := (v.mu, FolioId.tile tensor v.probe.tile)
      let room := thas s.eng.copies k || (findGranules s v.mu t.params.q).isSome
      if v.stage ≠ 2 ∨ !investMay s ∨ !muUp s v.mu ∨ !room ∨ !investOpen s t v v.mu then .next s
      else
        let (s, b, bad) := investFolio s t v v.mu remote
        if bad then .next (closeInvest (poisonCopy s k.1 k.2 true) tensor 5)
        else
          match probeFetched s v.mu tensor t.params v.probe b with
          | (s, none) => .next s
          | (s, some (some true)) => .next (closeInvest (keepCopy s v.mu t.params.q k.2 b) tensor 2)
          | (s, some (some false)) => .next (nextStage (keepCopy s v.mu t.params.q k.2 b) tensor 3)
          | (s, some none) => .next (closeInvest (poisonCopy s k.1 k.2 true) tensor 5)

/-- The unit of stage 3: the next in-service one of the same half in rotating order with a free slot (R95). -/
def otherMu (s : State) (m q : Nat) : Option Nat :=
  let at_ (k : Nat) : Nat := m / 64 * 64 + (m + k) % 64
  (leastFrom (fun k => muUp s (at_ k) && (findGranules s (at_ k) q).isSome) 63 1).map at_

/-- The unit of stage 3 of an investigation: the one whose slice holds its folio, or the next one. -/
def stageMu (s : State) (t : Tensor) (v : Investigation) : Option Nat :=
  match v.fetched with
  | some (m, _) => some m
  | none => otherMu s v.mu t.params.q

/-- INVESTIGATION_OTHER_MU (R89, R95, R96, R100): stage 3 fetches the folio into another unit's slice and, once the device is in
ACTIVE, runs there. Where the first unit is to blame, other investigations that name it are abandoned. -/
def execInvestigationOtherMu (tensor : Nat) (remote : RemoteRead) (s : State) : Out :=
  match tget s.tensors tensor with
  | none => .next s
  | some t =>
    match t.investigation with
    | none => .next s
    | some v =>
      match stageMu s t v with
      | none => .next s
      | some m =>
        if v.stage ≠ 3 ∨ !investMay s ∨ !investOpen s t v m then .next s
        else
          let (s, b, bad) := investFolio s t v m remote
          if bad then .next (closeInvest s tensor 5)
          else
            match probeFetched s m tensor t.params v.probe b with
            | (s, none) => .next s
            | (s, some (some true)) => .next (abandonOn (closeInvest s tensor 3) v.mu)
            | (s, some (some false)) => .next (closeInvest s tensor 4)
            | (s, some none) => .next (closeInvest s tensor 5)

/-- INVESTIGATION_TIMEOUT (R101): no other unit had a free slot within 2 ms of stage 3. -/
def execInvestigationTimeout (tensor : Nat) (s : State) : Out :=
  match tget s.tensors tensor with
  | none => .next s
  | some t =>
    match t.investigation with
    | none => .next s
    | some v =>
      if v.stage = 3 ∧ v.stageAt + msT 2 ≤ s.now ∧ (stageMu s t v).isNone then .next (closeInvest s tensor 4)
      else .next s

end Sys2Proof.Machine
end

