-- ==== Sys2Proof/Machine/StepMatrix.lean ====
section
/-! DEFINITION. The steps of the matrix units and the store engine: MATVEC, ATTN_SCORE, ATTN_VALUE and KV_APPEND (R46, R54 to
R57, R60, R65, R66, R79, R91, R160 to R165, R176 to R201). -/

namespace Sys2Proof.Machine

/-! ### Copies in use (R160, R161, R252, R254) -/

/-- How the copies of a step stand. -/
inductive CopyUse where
  | wait | doomed | ready
  deriving DecidableEq, Repr

/-- Whether a use of a copy is doomed. -/
def useDoomed (s : State) (n : Nat) (x : Ctx) (k : Nat × FolioId) : Bool :=
  match tget s.eng.copies k with
  | none => false
  | some c => c.users.any (fun u => u.ctx == n && u.step == x.pc && u.iter == x.iter && u.doomed)

/-- Whether a copy is RESIDENT and attached to the next step. -/
def useReady (s : State) (n : Nat) (x : Ctx) (k : Nat × FolioId) : Bool :=
  match tget s.eng.copies k with
  | none => false
  | some c => c.state == .resident && c.users.any (fun u => u.ctx == n && u.step == x.pc && u.iter == x.iter)

/-- How a list of copies stands for the next step of a context. -/
def copyUse (s : State) (n : Nat) (x : Ctx) (l : List (Nat × FolioId)) : CopyUse :=
  if l.any (useDoomed s n x) then .doomed else if l.all (useReady s n x) then .ready else .wait

/-- A step notes that its call slip uses a tensor (R98). -/
def noteTensor (s : State) (n id : Nat) : State :=
  ctxMod s n (fun x => { x with usedTensors := if x.usedTensors.contains id then x.usedTensors else x.usedTensors ++ [id] })

/-- Whether one of a list of units is locally reset in this very cycle, as a step runs on it: the step then completes POISONED
(R683, log 12). -/
def resetNow (s : State) (units : List Nat) : Bool := units.any (fun m => (muOf s m).resetAt == some s.now)

/-- The units on which a local reset has zeroed an activation (R683). -/
def actWiped (x : Ctx) (i : Nat) : List Nat := ((actOf x i).map (·.wiped)).getD []

/-! ### MATVEC (R46, R47, R176 to R182) -/

/-- The tiles of matrix x of a step, each with its unit and number (R238). -/
def stepTileList (s : State) (p : TParams) (st : VStep) : List (Nat × Nat) :=
  let n := tileRows p * tileCols p
  let us := muRange s st.unitFirst st.unitCount
  if us.isEmpty then [] else (List.range n).map (fun i => (us.getD (itemUnit n us.length i) 0, st.param * n + i))

/-- A step adds to the store engines' pointers, one place for each MU granted (R265). -/
def storeGrants (s : State) (units : List Nat) : State :=
  let n (h : Half) : Nat := units.countP (fun m => sliceHalf m == h)
  { s with eng := { s.eng with storePointer := ⟨(s.eng.storePointer.h0 + n .h0) % 64, (s.eng.storePointer.h1 + n .h1) % 64⟩ } }

/-- What a matrix step's accumulator entries hold once the store engine has taken its windows: those of the last row pass of
each unit (R48, R57, R58). -/
def keepAcc (s : State) (shape passes : Nat) (cols : List (List (List (Nat × Lane)))) : State :=
  let units := ((cols.flatten.flatten).map (·.1)).eraseDups
  units.foldl (fun s m =>
    let lanes := cols.map (fun c =>
      let mine := c.flatMap (fun l => (l.filter (fun p => p.1 == m)).map (·.2))
      mine.drop (mine.length - shapeRows shape))
    let rows := (lanes.map List.length).foldl max 0
    let order := (List.range rows).flatMap (fun r => lanes.filterMap (fun l => l[r]?))
    muMod s m (fun u => { u with acc := laneEntries (shapeWindows shape) passes false order })) s

/-- A matrix step's outputs: its units' windows joined (R56), rounded once and written, with its guard counts (R54, R55, R60
to R64, R79, R181). -/
def matrixOut (s : State) (n : Nat) (v : Volume) (x : Ctx) (st : VStep) (lanes : List (List (List (Nat × Lane)))) : State :=
  let o := operOf v st.opc
  let cols := lanes.map (fun l => l.map (fun u => laneVal (joinLanes u)))
  let total := (cols.map List.length).foldl (· + ·) 0
  let e := encodeCols o (stSplit st) cols
  let extra := extraPasses (shapeWindows (stFunc st)) (lanes.flatten.flatten.map (·.2))
  let s := storeGrants s (((lanes.flatten.flatten).map (·.1)).eraseDups)
  let s := keepAcc s (stFunc st) (1 + extra) lanes
  let s := countEvents s v.key (blameOf s v x st) { bandpass := extra }
  writeEncoded s n v x st st.opc e total true

/-- Whether the expander of a tile can hold its unit: it takes longer than the cells need for the tile (R165, R180). -/
def tileStalls (st : VStep) (o : Oper) (b : Payload) (k : Nat) (t : ExpTile) : Bool :=
  let stride := if isFp8 o.format then roundUp k 32 else k
  let split := (List.range st.batch).any (fun c => (List.range 4).any (fun i =>
    decide (128 * t.col + 32 * i < k) && elemSplit o b (c * stride + 128 * t.col + 32 * i)))
  decide (4 * shapeBatch (stFunc st) * (if isFp8 o.format then 1 else 4) * (if split then 2 else 1) < t.cycles)

/-- MATVEC on resident folios and a clean activation. The held cycles of an expander that falls behind are the decoder's own
(R165). -/
def matvecRun (s : State) (n : Nat) (v : Volume) (x : Ctx) (st : VStep) (t : Tensor) (tiles : List ExpTile)
    (act : Bytes) (wiped : List Nat) : State :=
  let o := operOf v st.opb
  let b := act.toArray
  let k := operCount x st.opb o / st.batch
  let code := st.flags.getLsbD 0
  let cols := (List.range st.batch).map (fun c => (actColumn o b k c).toArray)
  let lanes := cols.map (fun col =>
    let top := matvecTop code (o.format == 3) tiles col
    (List.range t.params.rows).map (matvecLanes top tiles wiped col))
  let passes := 1 + extraPasses (shapeWindows (stFunc st)) (lanes.flatten.flatten.map (·.2))
  let clamps := (tiles.map (·.clamps)).foldl (· + ·) 0 * passes
  let flushes := (tiles.map (·.flushes)).foldl (· + ·) 0 * passes
  let stall := if tiles.any (tileStalls st o b k) then Config.count 1 s.free else 0
  let s := tensorEvents (bump s) t.id { wsat := clamps, wflush := flushes, expStall := stall }
  let s := satCount s n v (.tensor t.id) clamps
  doneStep (matrixOut s n v x st lanes) n x rcDone

/-- A released matrix step whose weights or object cannot be used: an address refused completes it first, else it completes
POISONED (R271, R738). -/
def stepSpoilt (s : State) (n : Nat) (v : Volume) (x : Ctx) (st : VStep) : State :=
  match refusedAddr s v x st with
  | some (a, rc) => refuseStep (consumeAct s n st.opb) n x a rc
  | none => poisonStep (consumeAct s n st.opb) n v x [st.opc]

/-- MATVEC (R180, R252): it waits for its folios and activation, completes POISONED where either is poison, and otherwise
multiplies. -/
def matvecBody (n : Nat) (remote : RemoteRead) (s : State) (v : Volume) (x : Ctx) (st : VStep) : State :=
  match (stepSlot v.opers st).bind (fun i => v.slots[i]?) with
  | none => s
  | some sl =>
    if !actsFull v x [st.opb] || !homesFree s v x st.opc then s
    else
      match tget s.tensors sl.tensor with
      | none => stepSpoilt (noteTensor s n sl.tensor) n v x st
      | some t =>
        let list := stepTileList s t.params st
        let keys := list.map (fun p => (p.1, FolioId.tile t.id p.2))
        let units := (list.map (·.1)).eraseDups
        let s := if copyUse s n x keys = .ready then keys.foldl copyWords s else s
        if slotSpoilt s sl then stepSpoilt (noteTensor (units.foldl probeYield s) n t.id) n v x st
        else
          match copyUse s n x keys with
          | .wait => s
          | .doomed => stepSpoilt (noteTensor (units.foldl probeYield s) n t.id) n v x st
          | .ready =>
            let s := noteTensor (units.foldl probeYield s) n t.id
            match refusedAddr s v x st with
            | some (a, rc) => refuseStep (consumeAct s n st.opb) n x a rc
            | none =>
              let tc := tileCols t.params
              let exp := (list.zip keys).map (fun p =>
                let i := p.1.2 % (tileRows t.params * tc)
                (p.2, expandTile t.params (st.flags.getLsbD 0) p.1.1 (i / tc) (i % tc) (copyBytes s p.2)))
              let bad := (exp.filter (fun e => e.2.isNone)).map (·.1)
              if !bad.isEmpty then
                poisonStep (consumeAct (bad.foldl (fun s k => poisonCopy s k.1 k.2 true) s) n st.opb) n v x [st.opc]
              else
                let (s, act, bad) := readOper s n v st.opb remote
                let s := consumeAct s n st.opb
                if bad || resetNow s ((exp.filterMap (·.2)).map (·.unit)) then poisonStep s n v x [st.opc]
                else matvecRun s n v x st t (exp.filterMap (·.2)) act (actWiped x st.opb)

/-- MATVEC. -/
def execMatvec (ctx : Nat) (remote : RemoteRead) (s : State) : Out := .next (runStep s ctx opMatvec (matvecBody ctx remote))

/-! ### ATTN_SCORE and ATTN_VALUE (R185 to R196, R201) -/

/-- An element of a page: position pos, element j (R45, R189). -/
def pageElem (k : KvObj) (b : Payload) (pos j : Nat) : List Opnd :=
  if k.format = 2 then
    let i := 2 * (pos * k.d + j)
    let (h, l) := bf16Digits (plAt b i + 256 * plAt b (i + 1))
    [h, l]
  else
    let row := pos * (k.d + k.d / 32)
    [scaled (fp8 (k.format == 1) (b.getD (row + j) 0)) (b.getD (row + k.d + j / 32) 0)]

/-- The ATTN_LIMIT record (R201), and the step completes BAD_FIELD. -/
def attnLimit (s : State) (n : Nat) (x : Ctx) (st : VStep) (k : KvObj) (len : Nat) : State :=
  let s := logNow s { kind := 0x0306, severity := 0, tenant := tenantOf s x.job.slip.mid, mid := x.job.slip.mid,
                      rc := rcBadField, location := kvHandle k, detail0 := x.job.slip.seq,
                      detail1 := len % 2 ^ 32 + st.opd * 2 ^ 32 }
  doneStep s n x rcBadField

/-- Whether an attention step exceeds a limit of R201; `len` is L − P0. -/
def attnOver (s : State) (v : Volume) (k : KvObj) (st : VStep) (len : Nat) : Bool :=
  if st.opcode = opScore then decide ((operOf v st.opc).length < len * st.batch)
  else
    let pages := stepPages s k st
    decide (65536 < len) || pages.any (fun p =>
      decide (1024 < (pages.countP (fun q => q.1 == p.1)) * shapeBatch (stFunc st) * 2))

/-- A page as an attention step reads it: unit, entry number, bytes, and TAU_MAX. -/
structure PageIn where
  unit : Nat
  entry : Nat
  bytes : Payload
  tau : Option Int
  deriving DecidableEq, Repr

/-- The page that holds a position. -/
def pageFor (ps : List PageIn) (pos : Nat) : Option PageIn := ps.find? (fun p => p.entry == pos / 128)

/-- One score: a query column against position pos (R190). -/
def scoreLanes (k : KvObj) (top : Int) (ps : List PageIn) (wiped : List Nat) (col : Array (List Opnd)) (pos : Nat) :
    List (Nat × Lane) :=
  match pageFor ps pos with
  | none => []
  | some p => [(p.unit, (List.range k.d).foldl (fun l j =>
      laneTerm top ⟨1, 0⟩ l (pageElem k p.bytes (pos % 128) j) (if wiped.contains p.unit then zeroElem else col.getD j zeroElem)) {})]

/-- The lane of one value output on a unit, whose pages are given: element j over positions P0 to L − 1 (R191, R194). -/
def valueLane (k : KvObj) (top : Int) (ps : List PageIn) (wiped : Bool) (p0 len : Nat) (col : Array (List Opnd)) (j : Nat) : Lane :=
  (List.range len).foldl (fun l i =>
    match pageFor ps (p0 + i) with
    | none => l
    | some p => laneTerm top ⟨1, 0⟩ l (pageElem k p.bytes ((p0 + i) % 128) j) (if wiped then zeroElem else col.getD i zeroElem)) {}

/-- One value output: its lane on each unit that holds pages. -/
def valueLanes (k : KvObj) (top : Int) (ps : List PageIn) (wiped : List Nat) (p0 len : Nat) (col : Array (List Opnd)) (j : Nat) :
    List (Nat × Lane) :=
  ((ps.map (·.unit)).eraseDups).map (fun m =>
    (m, valueLane k top (ps.filter (fun p => p.unit == m)) (wiped.contains m) p0 len col j))

/-- An attention step on resident pages and a clean activation. -/
def attnRun (s : State) (n : Nat) (v : Volume) (x : Ctx) (st : VStep) (k : KvObj) (ps : List PageIn) (p0 len : Nat)
    (act : Bytes) (wiped : List Nat) : State :=
  let o := operOf v st.opb
  let b := act.toArray
  let m := operCount x st.opb o / st.batch
  let tau := (ps.map (·.tau)).foldl maxTau none
  let lanes := (List.range st.batch).map (fun c =>
    let col := (actColumn o b m c).toArray
    let top := (columnTau (o.format == 3) col.toList).getD 0 + tau.getD 0
    if st.opcode = opScore then (List.range len).map (fun i => scoreLanes k top ps wiped col (p0 + i))
    else (List.range k.d).map (valueLanes k top ps wiped p0 len col))
  doneStep (matrixOut s n v x st lanes) n x rcDone

/-- The object as the release of an attention step of a context sees it: of a page that another context has appended to in
this cycle, FILL and TAU_MAX from before (R200, log 12). -/
def objSeen (now n : Nat) (k : KvObj) : KvObj :=
  { k with pages := tmap k.pages (fun _ p => match p.before with
    | some (t, c, fill, tau) => if t = now ∧ c ≠ n then { p with fill := fill, tau := tau } else p
    | none => p) }

/-- The PDA of a page, or zero where it is not VALID. -/
def pageAddr (e : PageEntry) : Nat := if e.valid then e.pda else 0

/-- ATTN_SCORE and ATTN_VALUE (R190 to R194, R201, R738). -/
def attnBody (n : Nat) (remote : RemoteRead) (s : State) (v : Volume) (x : Ctx) (st : VStep) : State :=
  if !actsFull v x [st.opb] || !homesFree s v x st.opc then s
  else
    match (stepObj s v x st).map (objSeen s.now n) with
    | none => stepSpoilt s n v x st
    | some k =>
      if k.lost then stepSpoilt s n v x st
      else if k.nh ≤ st.opd then doneStep (consumeAct s n st.opb) n x rcBadField
      else
        let run := if st.opcode = opScore then 0 else 1
        let l := runLength k st.opd run
        let p0 := windowStart l st.param
        let pages := stepPages s k st
        let addrs := pages.map (fun p => pageAddr (pageOf k st.opd run p.2))
        let badPage := addrs.find? (fun a => addrCode s x.job.slip.mid a (pageBytes k) false != rcDone)
        match refusedAddr s v x st, badPage with
        | some (a, rc), _ => refuseStep (consumeAct s n st.opb) n x a rc
        | none, some a => refuseStep (consumeAct s n st.opb) n x a (addrCode s x.job.slip.mid a (pageBytes k) false)
        | none, none =>
          if attnOver s v k st (l - p0) then attnLimit (consumeAct s n st.opb) n x st k (l - p0)
          else
            let keys := pages.map (fun p => (p.1, FolioId.page k.idx st.opd run p.2))
            let units := (pages.map (·.1)).eraseDups
            let s := if copyUse s n x keys = .ready then keys.foldl copyWords s else s
            match copyUse s n x keys with
            | .wait => s
            | .doomed => poisonStep (consumeAct (units.foldl probeYield s) n st.opb) n v x [st.opc]
            | .ready =>
              let s := units.foldl probeYield s
              let ps := (pages.zip keys).map (fun p => ({ unit := p.1.1, entry := p.1.2, bytes := (copyBytes s p.2).toArray,
                                                          tau := (pageOf k st.opd run p.1.2).tau } : PageIn))
              let (s, act, bad) := readOper s n v st.opb remote
              let s := consumeAct s n st.opb
              if bad || resetNow s (ps.map (·.unit)) then poisonStep s n v x [st.opc]
              else attnRun s n v x st k ps p0 (l - p0) act (actWiped x st.opb)

/-- ATTN_SCORE. -/
def execAttnScore (ctx : Nat) (remote : RemoteRead) (s : State) : Out := .next (runStep s ctx opScore (attnBody ctx remote))

/-- ATTN_VALUE. -/
def execAttnValue (ctx : Nat) (remote : RemoteRead) (s : State) : Out := .next (runStep s ctx opValue (attnBody ctx remote))

/-! ### KV_APPEND (R187, R188, R197 to R200) -/

/-- FP32 words of a byte string. -/
def fp32Words (b : Bytes) : List Nat := (List.range (b.length / 4)).map (fun i => leAt b (4 * i) 4)

/-- One row as it is stored, with its saturations and its largest top exponent (R189, R197). -/
def kvRow (k : KvObj) (ws : List Nat) : Bytes × Nat × Option Int :=
  let xs := ws.map fp32
  if k.format = 2 then
    let rs := xs.map (roundOut fmtBf16)
    (wordBytes fmtBf16 rs, rs.countP (·.sat),
     rs.foldl (fun t r => let (h, l) := bf16Digits r.word; maxTau (maxTau t (tauOf false h)) (tauOf false l)) none)
  else
    let e5 := k.format == 1
    let bs := (blocks32 xs).map (encBlock e5)
    let taus := bs.map (fun b => b.elems.foldl (fun t r =>
      maxTau t (tauOf e5 (scaled (fp8 e5 (BitVec.ofNat 8 r.word)) b.scale))) none)
    ((bs.map blkBytes).flatten ++ bs.map (·.scale), (bs.map (fun b => b.elems.countP (·.sat))).foldl (· + ·) 0,
     taus.foldl maxTau none)

/-- Bytes of a row. -/
def rowLen (k : KvObj) : Nat := if k.format = 2 then 2 * k.d else k.d + k.d / 32

/-- Where the next row of a run goes: its entry and position; none when the next entry is not VALID (R188, R198, R199). -/
def appendPlace (k : KvObj) (head run : Nat) : Option (Nat × Nat) :=
  let l := runLength k head run
  let e := l / 128
  if e < k.maxPages ∧ (pageOf k head run e).valid then some (e, l % 128) else none

/-- A page's FILL and TAU_MAX written together (R187, R198), with what an attention step released in this cycle by another
context still sees (R200). -/
def pageFill (s : State) (n : Nat) (k : KvObj) (head run e fill : Nat) (tau : Option Int) : State :=
  kvPageSet s k.idx head run e (fun p =>
    let old := match p.before with
      | some b => if b.1 = s.now then b else (s.now, n, p.fill, p.tau)
      | none => (s.now, n, p.fill, p.tau)
    { p with fill := fill, tau := maxTau p.tau tau, before := some old })

/-- A row written to the tier copy and to every RESIDENT copy of its page, then FILL and TAU_MAX (R198). -/
def appendRow (s : State) (n : Nat) (k : KvObj) (head run e pos : Nat) (row : Bytes) (tau : Option Int) : State :=
  let a := (pageOf k head run e).pda + pos * rowLen k
  let s := chargeWrite (writeAny s 1 k.master a row) 1 a row.length (.compute k.half)
  let f := FolioId.page k.idx head run e
  let s := { s with eng := { s.eng with copies := tmap s.eng.copies (fun key c =>
    if key.2 = f ∧ c.state = .resident then { c with bytes := place c.bytes (pos * rowLen k) row } else c) } }
  pageFill s n k head run e (pos + 1) tau

/-- The same of a step that completes POISONED: the row's lines are poison (R649). -/
def appendPoison (s : State) (n : Nat) (k : KvObj) (head run e pos : Nat) : State :=
  let a := (pageOf k head run e).pda + pos * rowLen k
  let s := if daRange a ≤ 2 then dramPoison s (lineOf a) (lineSpan a (rowLen k) / 64) else s
  let f := FolioId.page k.idx head run e
  let held := (s.eng.copies.filter (fun c => c.1.2 == f && c.2.state == .resident)).map (·.1)
  let s := held.foldl (fun s c => poisonCopy s c.1 c.2 false) s
  pageFill s n k head run e (pos + 1) none

/-- The rows of one head appended; a head whose next entry is not VALID is not written, and is logged (R199).
Whether a non-finite value written into a page counts in ONONFIN the spec does not say, since no store engine detects it (R79)
and R197 names saturations alone: here it does not count (DESIGN CHOICE, log 117). -/
def appendHead (s : State) (n : Nat) (x : Ctx) (k : KvObj) (head : Nat) (keys vals : List Nat) (poison : Bool) : State × Bool :=
  match appendPlace k head 0, appendPlace k head 1 with
  | some (e0, p0), some (e1, p1) =>
    if poison then (appendPoison (appendPoison s n k head 0 e0 p0) n k head 1 e1 p1, true)
    else
      let (r0, n0, t0) := kvRow k ((keys.drop (head * k.d)).take k.d)
      let (r1, n1, t1) := kvRow k ((vals.drop (head * k.d)).take k.d)
      let s := appendRow (appendRow s n k head 0 e0 p0 r0 t0) n k head 1 e1 p1 r1 t1
      (kvEvents s k.idx { osat := n0 + n1 }, true)
  | _, _ =>
    (logNow s { kind := 0x0304, severity := 0, tenant := tenantOf s x.job.slip.mid, mid := x.job.slip.mid, rc := rcNoSpace,
                location := kvHandle k, detail0 := x.job.slip.seq, detail1 := head }, false)

/-- The pages that an append writes: head, run, entry. -/
def appendPages (k : KvObj) : List (Nat × Nat × Nat) :=
  ((List.range k.nh).map (fun h => [0, 1].filterMap (fun r => (appendPlace k h r).map (fun p => (h, r, p.1))))).flatten

/-- KV_APPEND (R197 to R200): it waits until no copy of a page it writes is ARRIVING. -/
def appendBody (n : Nat) (s : State) (v : Volume) (x : Ctx) (st : VStep) : State :=
  match stepObj s v x st with
  | none => poisonStep s n v x []
  | some k =>
    let pages := appendPages k
    let busy := s.eng.copies.any (fun c => c.2.state == .arriving && pages.any (fun p => c.1.2 == .page k.idx p.1 p.2.1 p.2.2))
    let bad := pages.find? (fun p => addrCode s x.job.slip.mid (pageOf k p.1 p.2.1 p.2.2).pda (pageBytes k) true != rcDone)
    if k.lost then poisonStep s n v x []
    else if busy then s
    else
      match bad with
      | some p =>
        let a := (pageOf k p.1 p.2.1 p.2.2).pda
        refuseStep s n x a (addrCode s x.job.slip.mid a (pageBytes k) true)
      | none =>
        let (s, kb, b0) := readOper s n v st.opb .none
        let (s, vb, b1) := readOper s n v st.opc .none
        let poison := b0 || b1
        let keys := fp32Words kb
        let vals := fp32Words vb
        let (s, ok) := (List.range k.nh).foldl (fun r h =>
          let (s, ok) := appendHead r.1 n x k h keys vals poison
          (s, r.2 && ok)) (s, true)
        doneStep s n x (if poison then rcPoisoned else if ok then rcDone else rcNoSpace)

/-- KV_APPEND. -/
def execKvAppend (ctx : Nat) (s : State) : Out := .next (runStep s ctx opAppend (appendBody ctx))

end Sys2Proof.Machine
end

