-- ==== Sys2Proof/Machine/Bench.lean ====
section
/-! DEFINITION. The check-bit bench (R645 to R648). -/

namespace Sys2Proof.Machine

/-- A result of the bench (R646): RESULT and POSITION. -/
def benchResult (s : State) (result position : Nat) : State :=
  { s with diag := { s.diag with result := BitVec.ofNat 4 result, position := BitVec.ofNat 8 position } }

/-- RESULT and POSITION after a write, of which the spec says nothing: free values (log 38). -/
def benchWrote (s : State) : State :=
  bump (benchResult s ((Config.freeWord 8 s.free).toNat % 16) ((Config.freeWord 9 s.free).toNat % 256))

/-- RESULT REFUSED (R647, R648). -/
def benchRefuse (s : State) : State := benchResult s 0xE 0xFF

/-- DATA as bytes. -/
def benchBytes (s : State) : Bytes := (s.diag.data.map (fun w => leBytes 8 w.toNat)).flatten

/-- DATA and CHECK loaded from a line's stored word. -/
def benchLoad (s : State) (w : Bytes) : State :=
  { s with diag := { s.diag with data := (List.range 8).map (fun i => BitVec.ofNat 64 (leAt w (8 * i) 8))
                                 check := BitVec.ofNat 64 (leAt w 64 4) } }

/-- The line that ADDR names, where it lies in a region of tenant 0 of the target's tier (R648). -/
def benchLine (s : State) (target : Nat) : Option Nat :=
  let a := s.diag.addr.toNat
  if (target = 1 ∨ target = 2) ∧ daRange a = target ∧ a % 64 = 0 ∧ a < 2 ^ 56 then
    match regionAt s a with
    | some r => if r.tenant = 0 then some a else none
    | none => none
  else none

/-- Whether a word of an array can be a target (R648): a reading-room slice or a VU buffer. -/
def benchWordOk (a : Nat) : Bool :=
  let array := natField a 56 8
  let index := natField a 48 8
  let word := natField a 0 32
  natField a 32 16 == 0 && ((array == 1 && decide (index < 128) && decide (word < 7168 * 128))
    || (array == 5 && decide (index < 32) && decide (word < mib2 / 4)))

/-- The word that ADDR names in SRAM form (R657). -/
def benchWord (s : State) (target : Nat) : Option (Nat × Nat × Nat) :=
  let a := s.diag.addr.toNat
  if target = 8 ∧ benchWordOk a then some (natField a 56 8, natField a 48 8, natField a 0 32) else none

/-- What a slice's word holds: the bytes of the copy that lies there, or zero where none does. -/
def sliceWord (s : State) (m word : Nat) : Nat :=
  match s.eng.copies.find? (fun e => e.1.1 == m && decide (128 * e.2.granule ≤ word)
      && decide (word < 128 * (e.2.granule + e.2.granules))) with
  | none => 0
  | some e =>
    let base := match e.1.2 with
      | .tile _ _ => 32
      | .page _ _ _ _ => 0
    leAt e.2.bytes (base + 4 * (word - 128 * e.2.granule)) 4

/-- What a VU buffer's word holds: the bytes of the context whose allocation covers it, or zero where none does (log 28). -/
def vuBufWord (s : State) (unit word : Nat) : Nat :=
  let h := halfOf (unit / 16)
  let a := unit % 16 * mib2 + 4 * word
  match s.eng.ctxs.find? (fun x => match ctxVol s x.2 with
      | none => false
      | some v => decide (x.2.vuBase.get h ≤ a) && decide (a < x.2.vuBase.get h + v.vuAlloc.get h)) with
  | none => 0
  | some x => leVal (cellsRead (x.2.vu.get h) (a - x.2.vuBase.get h) 4)

/-- The stored data and check bits of a word: what the bench last wrote there, or the encoded contents (R628). -/
def storedWord (s : State) (k : Nat × Nat × Nat) : BitVec 32 × BitVec 7 :=
  match tget s.eng.sram k with
  | some w => w
  | none =>
    let d := BitVec.ofNat 32 (if k.1 = 1 then sliceWord s k.2.1 k.2.2 else vuBufWord s k.2.1 k.2.2)
    (d, hsiaoCheck d)

/-- DATA, CHECK and SYNDROME loaded from a word. -/
def benchLoadWord (s : State) (w : BitVec 32 × BitVec 7) : State :=
  { s with diag := { s.diag with
      data := w.1.setWidth 64 :: List.replicate 7 0
      check := w.2.setWidth 64
      syndrome := hsiaoCheck w.1 ^^^ w.2 } }

/-- The stored word of a line set: its difference from the encoded contents is the line's error pattern (R631). A protected
sector keeps the tag it had (R613). -/
def putLineWord (s : State) (line : Nat) (w : Bytes) : State :=
  let c := lineCipher s line
  let sec := sectorOf line
  let s := if isProtected s line ∧ !thas s.mem.tags sec then
      { s with mem := { s.mem with tags := tset s.mem.tags sec (sectorTag s sec) } }
    else s
  { s with mem := s.mem.setErr line (xorBytes w (c ++ rsCheck c)) }

/-- The word that a WRITE_RAW would store at a line: DATA and CHECK as given. -/
def rawWord (s : State) : Bytes := benchBytes s ++ leBytes 4 s.diag.check.toNat

/-- A bench operation on a line or a word: refused where the target is neither; else a transfer in class 7 (R647, R648). -/
def benchOn (target : BitVec 4) (line : State → Nat → State) (word : State → Nat × Nat × Nat → State) (s : State) : Out :=
  if !s.diag.mode then .next s
  else
    match benchLine s target.toNat, benchWord s target.toNat with
    | some l, _ => .next (line s l)
    | none, some k => .next (word s k)
    | none, none => .next (benchRefuse s)

/-- A word of 64 bytes read in class 7. -/
def benchRead (s : State) (l : Nat) : State := chargeRead s 7 l 64 (.tier (daHalf l))

/-- A word of 64 bytes written in class 7. -/
def benchWrite (s : State) (l : Nat) : State := chargeWrite s 7 l 64 (.tier (daHalf l))

/-- RESULT and POSITION of a decoded line. -/
def lineVerdict (r : LineResult) : Nat × Nat :=
  match r with
  | .clean => (0, 0xFF)
  | .corrected k _ => (1, k)
  | .poisoned => (2, 0xFF)
  | .uncorrectable => (3, 0xFF)

/-- RESULT and POSITION of a decoded word. -/
def wordVerdict (r : WordResult) : Nat × Nat :=
  match r with
  | .clean => (0, 0xFF)
  | .corrected b => (1, b)
  | .uncorrectable => (3, 0xFF)

/-- READ_RAW (R647). -/
def execReadRaw (target : BitVec 4) (s : State) : Out :=
  benchOn target
    (fun s l =>
      let r := lineVerdict (rsDecode (lineErrOf s.mem l))
      benchResult (benchLoad (benchRead s l) (lineWord s l)) r.1 r.2)
    (fun s k =>
      let w := storedWord s k
      let r := wordVerdict (hsiaoDecode (hsiaoCheck w.1 ^^^ w.2))
      benchResult (benchLoadWord s w) r.1 r.2) s

/-- READ_CORRECTED on a word: corrected, written back, and logged with DIAG set (R629, R634, R647). -/
def benchFixWord (s : State) (k : Nat × Nat × Nat) : State :=
  let w := storedWord s k
  let syn := hsiaoCheck w.1 ^^^ w.2
  let r := wordVerdict (hsiaoDecode syn)
  match hsiaoDecode syn with
  | .clean => benchResult (benchLoadWord s w) r.1 r.2
  | .corrected b =>
    let d := if b < 32 then w.1 ^^^ (1#32 <<< b) else w.1
    let s := sramEvent s k.1 k.2.1 k.2.2 true syn.toNat b 2
    let s := { s with eng := { s.eng with sram := tset s.eng.sram k (d, hsiaoCheck d) } }
    let s := benchResult (benchLoadWord s (d, hsiaoCheck d)) r.1 r.2
    { s with diag := { s.diag with syndrome := syn } }
  | .uncorrectable =>
    benchResult (benchLoadWord (sramEvent s k.1 k.2.1 k.2.2 false syn.toNat 0xFF 2) w) r.1 r.2

/-- READ_CORRECTED (R634, R647): DATA holds the corrected data. -/
def execReadCorrected (target : BitVec 4) (s : State) : Out :=
  benchOn target
    (fun s l =>
      let r := lineVerdict (rsDecode (lineErrOf s.mem l))
      let (s, _) := lineCheck (benchRead s l) l 2
      benchResult (benchLoad s (lineWord s l)) r.1 r.2)
    benchFixWord s

/-- WRITE_RAW (R647): DATA and CHECK exactly as given. -/
def execWriteRaw (target : BitVec 4) (s : State) : Out :=
  benchOn target
    (fun s l => benchWrote (putLineWord (benchWrite s l) l (rawWord s)))
    (fun s k =>
      let w := ((s.diag.data.getD 0 0).setWidth 32, s.diag.check.setWidth 7)
      benchWrote { s with eng := { s.eng with sram := tset s.eng.sram k w }
                          diag := { s.diag with syndrome := hsiaoCheck w.1 ^^^ w.2 } }) s

/-- WRITE_ENCODED (R647): DATA with its check bits, which CHECK then holds. -/
def execWriteEncoded (target : BitVec 4) (s : State) : Out :=
  benchOn target
    (fun s l =>
      let w := benchBytes s ++ rsCheck (benchBytes s)
      let s := putLineWord (benchWrite s l) l w
      let s := { s with diag := { s.diag with check := BitVec.ofNat 64 (leAt w 64 4) } }
      benchWrote (lineSettle s l (lineErrOf s.mem l)))
    (fun s k =>
      let d := (s.diag.data.getD 0 0).setWidth 32
      let s := { s with eng := { s.eng with sram := tset s.eng.sram k (d, hsiaoCheck d) }
                        diag := { s.diag with check := (hsiaoCheck d).setWidth 64, syndrome := 0 } }
      benchWrote s) s

/-- WRITE_POISON (R633, R647): DATA with the poison pattern; a word is refused. -/
def execWritePoison (target : BitVec 4) (s : State) : Out :=
  benchOn target
    (fun s l =>
      let w := xorBytes (benchBytes s ++ rsCheck (benchBytes s)) poisonPattern
      benchWrote (putLineWord (benchWrite s l) l w))
    (fun s _ => benchRefuse s) s

/-- The operation that a write to DIAG_CMD starts (R646, R647): reserved bits make it ignored, an unknown OP is refused. -/
def benchCommand (v : Nat) (s : State) : Out :=
  if 256 ≤ v then .next s
  else
    let t := BitVec.ofNat 4 (v / 16)
    match v % 16 with
    | 1 => execReadRaw t s
    | 2 => execReadCorrected t s
    | 3 => execWriteRaw t s
    | 4 => execWriteEncoded t s
    | 5 => execWritePoison t s
    | _ => if s.diag.mode then .next (benchRefuse s) else .next s

end Sys2Proof.Machine
end

