-- ==== Sys2Proof/Machine/LinkOpen.lean ====
section
/-! DEFINITION. The pair exchange and the opening of sessions as this module begins them (R422, R427, R428, R430). -/

namespace Sys2Proof.Machine

/-- With what this module takes part in key exchanges: its alias key and its identity (R420, R422, R598, R603). -/
def ownSeed (s : State) : Bytes := aliasKey s ++ deviceIdentity s

/-- A state that draws 32 bytes of an ephemeral secret, with them (R420). -/
def drawEph (s : State) : State × Bytes := (drew 32 s, trngBytes s.free 32)

/-- A pair exchange with a node under way or fresh. -/
def pairOf (s : State) (node : Nat) : PairExch := tgetD s.link.pairStage node { step := 0, eph := [] }

/-- A pair exchange changed. -/
def pairMod (s : State) (node : Nat) (f : PairExch → PairExch) : State :=
  { s with link := { s.link with pairStage := tset s.link.pairStage node (f (pairOf s node)) } }

/-- A part of the pair exchange sent to a node (R422): on the home port of its system session where one is in service. -/
def pairPart (s : State) (node sub : Nat) (body : Bytes) : State :=
  pairSend s node ((pairPorts s node).headD 0) ((pairPorts s node).headD 0) false false sub body

/-- The pair exchange with a node begins where none is under way: PAIR_CERT goes out (R422). Either side may begin; the
lower node ID is A of R420. -/
def pairBegin (s : State) (node : Nat) : State :=
  if thas s.link.pairKeys node || thas s.link.pairStage node then s
  else pairPart (pairMod s node (fun x => { x with step := 1 })) node 1 (certChain s)

/-- Code of a session's kind in OPEN (log 31). -/
def kindCode (k : SessKind) : Nat :=
  match k with
  | .system => 0
  | .pool => 1
  | .bound => 2

/-- SCTL OPEN of a session that this module opens (R430; log 31): kind, master ID and nonce. -/
def openSend (s : State) (k : Nat × Nat) (x : Session) : State :=
  pairSend s k.1 k.2 x.port (x.kind == .system) true 5
    (leBytes 1 k.2 ++ leBytes 1 (kindCode x.kind) ++ leBytes 2 x.localMid ++ x.nonceI)

/-- A session that this module opens (R430): after the pair exchange where no pair secret exists. -/
def sessionBegin (s : State) (node sid : Nat) (kind : SessKind) (home mid : Nat) : State :=
  let x : Session := { kind := kind, state := .opening, initiator := true, remoteMid := 0, localMid := mid, port := home,
                       nonceI := trngBytes s.free 16, keySince := s.now, heardAt := s.now }
  let s := drew 16 s
  let s := { s with link := { s.link with sessions := tset s.link.sessions (node, sid) x } }
  if thas s.link.pairKeys node then openSend s (node, sid) x else pairBegin s node

/-- The pair secret with a node is in place: the sessions that wait for it are opened (R430). -/
def openWaiting (s : State) (node : Nat) : State :=
  (s.link.sessions.filter (fun x => x.1.1 == node && x.2.state == .opening && x.2.initiator)).foldl (fun s x =>
    openSend s x.1 x.2) s

/-- The POOL session of a master to a lender or tray, opened where it has none (R428). The SID is the lowest of 8 to 63
that the pair does not use (R427). -/
def poolOpen (s : State) (node mid : Nat) : State :=
  if s.link.sessions.any (fun x => x.1.1 == node && x.2.kind == .pool && x.2.initiator && x.2.localMid == mid) then s
  else
    match leastFrom (fun i => !thas s.link.sessions (node, i)) 56 8 with
    | none => s
    | some sid => sessionBegin s node sid .pool ((pairPorts s node).headD 0) mid

/-- The system session of a port that has entered service, opened by the lower node ID (R427, R428; log 32). -/
def systemBegin (s : State) (p : Nat) : State :=
  let node := (portOf s p).partner
  if thas s.link.sessions (node, p) then s
  else if nodeId s < node then sessionBegin s node p .system p 0
  else s

end Sys2Proof.Machine
end

