-- ==== Sys2Proof/Machine/PlainFace.lean ====
section
/-! DEFINITION. The plain face: answers to reads and writes, the tier-1 cache, weeding, bindery timeouts, and the
contents of weight windows (R167 to R174, R312 to R336, R468). -/

namespace Sys2Proof.Machine

/-! ### Answers (R413, R414, R468) -/

/-- Poison bits of the k-th RD_RSP flit: bit m for the m-th line that it touches (R413). -/
def rspPoison (bad : List Nat) (k len : Nat) : Nat :=
  let first := 224 * k / 64
  let last := (224 * k + len - 1) / 64
  ((List.range (last + 1 - first)).map (fun m => if bad.contains (first + m) then 2 ^ m else 0)).foldl (· + ·) 0

/-- LOAD of a half: the share of its admitted class-3 bandwidth that its closed stacks granted in the last window (R388, R507). -/
def loadOf (s : State) (h : Half) : Nat :=
  let r := 2 + halfNum h
  let sum := ((List.range 8).map (guarOf s r)).foldl (· + ·) 0
  let admitted := guarOf s r 3 + 1000 * limitOf (derated s r) - sum
  let d := 100 * (bwCell s r 3).delivLast
  if d < 25 * admitted then 0 else if d < 60 * admitted then 1 else if d < 85 * admitted then 2 else 3

/-- The RD_RSP flits of a read's answer; `bad` lists its poisoned lines, the first being 0 (R413). A lender's carry LOAD above POISON,
with POOL set: the spec gives LOAD no place in the flit (R388; DESIGN CHOICE, log 133). -/
def rspFlits (tag status : Nat) (b : Bytes) (bad : List Nat) (load : Option Nat) : List Flit :=
  (List.range (ceilDiv b.length 224)).map (fun k =>
    let part := (b.drop (224 * k)).take 224
    mkFlit 6 1 part.length (tag % 4096 + 224 * k * 2 ^ 12 + status * 2 ^ 24 + rspPoison bad k part.length * 2 ^ 32
      + load.getD 0 * 2 ^ 37) load.isSome (fit 224 part))

/-- A CMPL flit: the SSEQ of a write and its STATUS (R414). A lender's carries LOAD above STATUS, with POOL set (R388; DESIGN CHOICE,
log 133). -/
def cmplFlit (sseq status : Nat) (load : Option Nat) : Flit :=
  mkFlit 7 1 0 (sseq % 2 ^ 32 + status * 2 ^ 32 + load.getD 0 * 2 ^ 40) load.isSome (zeros 224)

/-- The answer to a read leaves on the path of its request. -/
def replyRead (s : State) (dest : ReplyTo) (off : Nat) (b : Bytes) (bad : List Nat) (status : Nat) : State :=
  match dest with
  | .cxl => emit s (.cxlData off b (!bad.isEmpty))
  | .link mid => emit s (.linkData mid b (!bad.isEmpty) status)
  | .read node sid tag => (rspFlits tag status b bad none).foldl (fun s f => sessSend s (node, sid) f) s
  | .write _ _ _ => s

/-- The completion of a write leaves on the path of its request: CXL.mem has none to carry a refusal (R468). -/
def replyWrite (s : State) (dest : ReplyTo) (status : Nat) : State :=
  match dest with
  | .cxl => s
  | .link mid => emit s (.linkData mid [] false status)
  | .read _ _ _ => s
  | .write node sid sseq =>
    if status = 0 then
      sessSend (sessMod s (node, sid) (fun x => { x with appliedSseq := max x.appliedSseq sseq })) (node, sid) (cmplFlit sseq 0 none)
    else sessSend s (node, sid) (cmplFlit sseq status none)

/-- A lender's answer to a read, with the LOAD of the half that served it (R388, R413). -/
def poolReplyRead (s : State) (k : Nat × Nat) (h : Half) (tag : Nat) (b : Bytes) (bad : List Nat) (status : Nat) : State :=
  (rspFlits tag status b bad (some (loadOf s h))).foldl (fun s f => sessSend s k f) s

/-- A lender's completion of a write, with the LOAD of the half that served it (R388, R414). -/
def poolReplyWrite (s : State) (k : Nat × Nat) (h : Half) (sseq status : Nat) : State :=
  let s := if status = 0 then sessMod s k (fun x => { x with appliedSseq := max x.appliedSseq sseq }) else s
  sessSend s k (cmplFlit sseq status (some (loadOf s h)))

/-! ### Weight windows (R167 to R174) -/

/-- The weight window of a plain offset. -/
def windowAt (s : State) (off : Nat) : Option (Nat × WeightWin) :=
  s.plain.windows.find? (fun p => offInWindow p.2 off)

/-- Bytes of an element's codes in a row of an ENCODE image. -/
def codeBytes (p : TParams) : Nat := p.cols * elemBits p.alphabet / 8

/-- What byte `b` of a window shows: the tile and, within it, a position and which byte of its group (R137, R167). None
lies beyond the layout. -/
structure WinByte where
  tile : Nat
  pos : Nat
  sub : Nat
  scale : Bool
  deriving DecidableEq, Repr

/-- The tile of row i and column j of matrix x. -/
def tileOfPos (p : TParams) (x i j : Nat) : Nat := (x * tileRows p + i / 128) * tileCols p + j / 128

/-- Where a byte of a window's layout comes from. -/
def winByte (k : WinKind) (p : TParams) (rel : Nat) : Option WinByte :=
  if windowLen k p ≤ rel then none
  else
    match k with
    | .view =>
      let e := rel / 2
      let row := e / p.cols
      let j := e % p.cols
      let i := row % p.rows
      some { tile := tileOfPos p (row / p.rows) i j, pos := i % 128 * 128 + j % 128, sub := rel % 2, scale := false }
    | .ingest =>
      let row := rel / rowBytes p
      let b := rel % rowBytes p
      let i := row % p.rows
      let x := row / p.rows
      if b < codeBytes p then
        let j := if elemBits p.alphabet = 4 then 2 * b else if elemBits p.alphabet = 6 then 4 * (b / 3) else b
        some { tile := tileOfPos p x i j, pos := i % 128 * 128 + j % 128,
               sub := if elemBits p.alphabet = 6 then b % 3 else 0, scale := false }
      else
        let j := 32 * (b - codeBytes p)
        some { tile := tileOfPos p x i j, pos := i % 128 * 128 + j % 128, sub := 0, scale := true }

/-- A tile as an edge expander holds it: 16,384 words or codes, and 512 scale bytes. -/
structure EdgeTile where
  vals : Array Nat
  scales : Array Nat
  deriving DecidableEq, Repr

/-- An EWF word under a tile's bias as BF16, which is exact (R167). -/
def ewfBf16 (tb : Int) (w : Nat) : Nat :=
  let e := w / 64 % 32
  if e = 0 then 0
  else (if natBit w 11 then 2 ^ 15 else 0) + ((e : Int) + tb + 112).toNat * 128 + w % 64 * 2

/-- A tile of a VIEW window (R167). -/
def viewTile (p : TParams) (b : Bytes) : EdgeTile :=
  let c := parseColophon (slice b 0 32)
  let ws := (expandWords p c (folioTables p b) (slice b 32 (slotBytes p))).getD []
  { vals := (ws.map (fun w => ewfBf16 c.tb w.word)).toArray, scales := #[] }

/-- A tile of an INGEST window: stored codes and scale bytes (R167). -/
def ingestTile (p : TParams) (b : Bytes) : EdgeTile :=
  let c := parseColophon (slice b 0 32)
  let pl := (slice b 32 (slotBytes p)).toArray
  if c.zero then
    { vals := (List.replicate 16384 0).toArray, scales := (List.replicate 512 (if p.method = 2 then 0x77 else 0)).toArray }
  else if p.method = 2 then
    { vals := (((entTile p.q ((folioTables p b).getD c.etab []) pl).getD []).map (·.1)).toArray
      scales := ((List.range 512).map (fun k => (c.tb + (entD pl k : Int) + 119).toNat)).toArray }
  else
    { vals := ((List.range 16384).map (plainCode p.alphabet pl)).toArray
      scales := ((List.range 512).map (fun k => plAt pl (plainBytes p.alphabet + k))).toArray }

/-- The byte that a tile gives at a place of a window. -/
def edgeByte (k : WinKind) (p : TParams) (t : EdgeTile) (w : WinByte) : Byte :=
  let v (i : Nat) : Nat := t.vals.getD i 0
  let n : Nat :=
    match k with
    | .view => v w.pos / 256 ^ w.sub
    | .ingest =>
      if w.scale then t.scales.getD (w.pos / 32) 0
      else if elemBits p.alphabet = 4 then v w.pos + 16 * v (w.pos + 1)
      else if elemBits p.alphabet = 6 then
        (v w.pos + 64 * v (w.pos + 1) + 4096 * v (w.pos + 2) + 262144 * v (w.pos + 3)) / 256 ^ w.sub
      else v w.pos
  BitVec.ofNat 8 n

/-- An edge expander changed. -/
def edgeMod (s : State) (h : Half) (f : Edge → Edge) : State :=
  { s with plain := { s.plain with edge := s.plain.edge.mod h f } }

/-- A tile at the edge expander of a window's half, on its tier die: kept, or read and reconstructed, which charges its 16,384
expanded bytes, and then kept (R166, R172, R500). None when its folio is poison or malformed; a malformed folio becomes POISONED, and its recovery is due (R162). -/
def edgeFetch (s : State) (w : WeightWin) (t : Tensor) (tile : Nat) : State × Option EdgeTile :=
  let build (b : Bytes) : EdgeTile := match w.kind with
    | .view => viewTile t.params b
    | .ingest => ingestTile t.params b
  match (s.plain.edge.get w.half).kept.find? (fun p => p.1 == (t.id, tile)) with
  | some (_, b) => (s, some (build b))
  | none =>
    if thas (s.plain.edge.get w.half).poisoned (t.id, tile) then (s, none)
    else
      let (pa, ca) := masterTile t tile
      let die := Die.tier w.half
      let s := chargeRead (chargeRead s 2 pa (slotBytes t.params) die) 2 ca 32 die
      let s := charge s (24 + halfNum w.half) 2 16384
      let (s, b, bad) := readFolio s w.master t.params pa ca t.tbase
      if bad then (s, none)
      else if keptOk t.params tile b then
        (edgeMod s w.half (fun e => { e with kept := keepLast 64 e.kept ((t.id, tile), b) }), some (build b))
      else (edgeMod s w.half (fun e => { e with poisoned := tset e.poisoned (t.id, tile) { foundAt := s.now } }), none)

/-- Several tiles at the edge expander, in order. -/
def edgeFetchAll (s : State) (w : WeightWin) (t : Tensor) : List Nat → State × List (Nat × Option EdgeTile)
  | [] => (s, [])
  | i :: r =>
    let (s, x) := edgeFetch s w t i
    let (s, l) := edgeFetchAll s w t r
    (s, (i, x) :: l)

/-- Lines of n bytes from an offset, numbered from the first. -/
def allLines (off n : Nat) : List Nat := List.range ((off + n + 63) / 64 - off / 64)

/-- The tiles of a coded form that its window switched away from in this cycle: a read of the tick's cycle is handled as before
the tick (R28, R171). -/
def oldTiles (w : WeightWin) (t : Tensor) (cells : List Host.Cell) (l : List Nat) : List (Nat × Option EdgeTile) :=
  l.map (fun i =>
    let (pa, ca) := masterTile t i
    let b := cellsRead cells ca 32 ++ cellsRead cells pa (slotBytes t.params) ++ cellsRead cells t.tbase (16 * t.params.ntab)
    (i, if keptOk t.params i b then some (match w.kind with
      | .view => viewTile t.params b
      | .ingest => ingestTile t.params b) else none))

/-- The tensor that a read of a window sees: that of the current coded form, or in the cycle of a switch the one before. -/
def windowForm (s : State) (w : WeightWin) : Option (Tensor × Option (List Host.Cell)) :=
  match w.before with
  | some (t, x, c) => if t = s.now then some (x, some c) else (w.current.bind (tget s.tensors)).map (fun t => (t, none))
  | none => (w.current.bind (tget s.tensors)).map (fun t => (t, none))

/-- A read inside a weight window: bytes, and whether they are poison (R169, R171, R172, R174). Bytes beyond the layout are
free. -/
def windowBytes (s : State) (w : WeightWin) (off n : Nat) : State × Bytes × Bool :=
  match windowForm s w with
  | none => (s, zeros n, true)
  | some (t, old) =>
    if w.state = .failed ∨ !(s.plain.edge.get w.half).inService ∨ (s.halves.get w.half).fenced then (s, zeros n, true)
    else
      let at_ := (List.range n).map (fun i => winByte w.kind t.params (off + i - w.g * gib))
      let tiles := (at_.filterMap (fun b => b.map (·.tile))).eraseDups
      let (s, got) := match old with
        | some c => (s, oldTiles w t c tiles)
        | none => edgeFetchAll s w t tiles
      let bad := got.any (fun x => x.2.isNone)
      let b := at_.zipIdx.map (fun x => match x.1 with
        | none => ((Config.freeWord 4 (s.free + x.2)).setWidth 8 : Byte)
        | some wb => match tget got wb.tile with
          | some (some tl) => edgeByte w.kind t.params tl wb
          | some none => 0
          | none => 0)
      (drew n s, b, bad)

/-- A plain line written from a die crosses to its home's memory in class 2 (R14, R315). -/
def plainCross (s : State) (home : Nat) (d : Die) : State :=
  charges s ((writePath home d).filter (· != 2 + halfNum (daHalf home))) 2 64

/-- A narrow or whole-line write staged in an INGEST window: it goes to the home of its granule, and its bytes are
covered (R169, R315, R331). -/
def stageWrite (s : State) (n : Nat) (w : WeightWin) (mid off : Nat) (b : Bytes) (d : Die) : State :=
  let l := off / 64
  let s := plainCross s (homeOf s off) d
  let s := if b.length = 64 then fullWrite s (daMk 8 (64 * l)) b else binderyWrite s mid (daMk 8 (64 * l)) (off % 64) b
  let mask := tgetD w.part l 0 ||| byteMask (off % 64) b.length
  if w.covered.contains l then s
  else winMod s n (fun w =>
    if mask = BitVec.allOnes 64 then { w with covered := w.covered ++ [l], part := tdel w.part l }
    else { w with part := tset w.part l mask })

/-- Under AUTOSEAL the write that completes coverage seals the window (R170). -/
def autoSeal (s : State) (n : Nat) : State :=
  match tget s.plain.windows n with
  | none => s
  | some w =>
    let lines := ceilDiv (windowLen w.kind w.params) 64
    if w.autoseal ∧ w.state = .filling ∧ lines ≤ w.covered.countP (fun l => decide (l < w.g * 2 ^ 24 + lines)) then sealWindow s n w
    else s

/-- A write that a window discards: it is counted, and the first of each encoding is logged (R167, R169, R658). -/
def discardWrite (s : State) (n : Nat) (w : WeightWin) (mid off : Nat) : State :=
  let log := w.kind == .ingest && !w.discardLogged
  let s := winMod s n (fun w => { w with discarded := w.discarded + 1, discardLogged := w.discardLogged || log })
  if log then
    logNow s { kind := 0x0305, severity := 0, tenant := tenantOf s mid, mid := mid, location := n, detail0 := off }
  else s

/-! ### The tier-1 cache (R317 to R325) -/

/-- The block of an offset is used: its AGE is 0 (R323). -/
def touchBlock (s : State) (h : Half) (off : Nat) : State :=
  match wayOf s h off with
  | none => s
  | some (k, w) => putWay s h k { w with age := 0 }

/-- A plain line with its bindery entry over it (R334). -/
def lineOver (s : State) (h : Half) (l : Nat) (b : Bytes) : Bytes :=
  match entryOf s h (daMk 8 l) with
  | none => b
  | some e => overlay (daMk 8 l) b e

/-- Where a request stands in the device: the host endpoint is on tier die 0, a partner's request at its session's port (R12,
R14, R22). -/
def replyDie (s : State) (dest : ReplyTo) : Die :=
  let port (k : Nat × Nat) : Die := match (sessOf s k).bind (fun x => sessPort s k x) with
    | some p => .tier (portHalf p)
    | none => .tier .h0
  match dest with
  | .cxl => .tier .h0
  | .link mid => match s.link.sessions.find? (fun x => x.2.kind == .bound && x.2.localMid == mid) with
    | some (k, _) => port k
    | none => .tier .h0
  | .read node sid _ => port (node, sid)
  | .write node sid _ => port (node, sid)

/-- A read of one plain line toward a die: its bytes and poison, or none while it waits (R14, R315, R320, R321, R334). A line
homed in a fenced half has no copy outside it (R21). -/
def plainLineGet (s : State) (g : PlainGran) (off : Nat) (d : Die) (counted : Bool) : State × Option (Bytes × Bool) :=
  if (s.halves.get g.half).fenced then (s, some (zeros 64, true))
  else
  let l := lineOf off
  let full := match entryOf s g.half (daMk 8 l) with
    | none => none
    | some e => if e.mask = BitVec.allOnes 64 then some e.data else none
  match full with
  | some b => (touchBlock s g.half l, some (b, false))
  | none =>
    if cacheable s g off then
      match wayOf s g.half l with
      | some (k, w) =>
        if w.state = .evicting ∨ !w.valid.getLsbD (lineIx l) then (s, none)
        else
          (putWay (chargeRead s 2 (t1Of g.half) 64 d) g.half k { w with age := 0 },
            some (lineOver s g.half l (cellsRead w.data (64 * lineIx l) 64), w.poison.getLsbD (lineIx l) || g.lost))
      | none => ((allocWay s g.half l true counted).1, none)
    else
      let s := chargeRead s 2 (homeOf s l) 64 d
      let (s, b, bad) := plainLine s g l
      (s, some (lineOver s g.half l b, bad))

/-- A whole plain line written from a die: taken into its block, or its home where it is not cached; none while it waits (R14,
R315, R320, R326, R332). -/
def plainLinePut (s : State) (g : PlainGran) (off : Nat) (b : Bytes) (d : Die) (counted : Bool) : State × Bool :=
  let take (s : State) (k : Nat × Nat) : State :=
    putWay (entryDrop (chargeWrite s 2 (t1Of g.half) 64 d) g.half (daMk 8 off)) g.half k (wayPut (wayAt s g.half k) off b)
  if cacheable s g off then
    match wayOf s g.half off with
    | some (k, w) => if w.state = .evicting then (s, false) else (take s k, true)
    | none =>
      match allocWay s g.half off false counted with
      | (s, none) => (s, false)
      | (s, some k) => (take s k, true)
  else
    (physWrite (entryDrop (chargeWrite s 2 (homeOf s off) 64 d) g.half (daMk 8 off)) (homeOf s off) b, true)

/-- A narrow plain write from a die: it crosses to the half that holds its line and merges in the bindery (R14, R331, R332). -/
def plainNarrow (s : State) (g : PlainGran) (mid off : Nat) (b : Bytes) (d : Die) : State :=
  let s := plainCross s (homeOf s off) d
  touchBlock (binderyWrite s mid (daMk 8 (lineOf off)) (off % 64) b) g.half off

/-! ### Requests (R312, R313, R326, R468) -/

/-- Usable length of a plain granule: a protected one ends where its tags begin (R614). -/
def granLen (g : PlainGran) : Nat := if g.protect then 1056964608 else gib

/-- Whether a master may read or write n bytes of the plain range: each granule is in service, gives the access, and holds
the bytes below its tags (R312, R313, R614). -/
def plainAllowed (s : State) (mid off n : Nat) (write : Bool) : Bool :=
  decide (0 < n) && (List.range ((off + n - 1) / gib + 1 - off / gib)).all (fun i =>
    let k := off / gib + i
    match granAt s (k * gib) with
    | none => false
    | some g => (if write then (granAccess g mid).2 else (granAccess g mid).1)
        && decide (min (off + n) ((k + 1) * gib) ≤ k * gib + granLen g))

/-- Bytes of a request from an offset up to the end of its line. -/
def lineChunk (off n : Nat) : Nat := min n (64 - off % 64)

/-- Bytes of a request from an offset up to the end of a weight window. -/
def winChunk (w : WeightWin) (off n : Nat) : Nat := min n ((w.g + w.count) * gib - off)

/-- The resources between a tier die and a die where a reply goes (R14). -/
def tierCross (h : Half) (d : Die) : List Nat :=
  match d with
  | .compute x => (4 + halfNum h) :: bridgeRes h x
  | .tier x => if h = x then [] else (4 + halfNum h) :: bridgeRes h x ++ [6 + halfNum x]

/-- A read of plain bytes toward a die: its bytes and the lines of the plain range that are poison, or none while a line waits.
What the read has matched of weight windows before is given (R171). Fuel is the request's length. -/
def plainGet (d : Die) (counted : Bool) (forms : List (Nat × Bytes × Bool)) :
    (fuel : Nat) → State → (off n : Nat) → State × Option (Bytes × List Nat)
  | 0, s, _, _ => (s, some ([], []))
  | fuel + 1, s, off, n =>
    if n = 0 then (s, some ([], []))
    else
      match windowAt s off with
      | some (_, w) =>
        let k := winChunk w off n
        let (s, b, bad) := match forms.find? (fun f => f.1 == off) with
          | some (_, b, bad) => (s, b, bad)
          | none => windowBytes s w off k
        let s := charges s (tierCross w.half d) 2 (roundUp k 64)
        match plainGet d counted forms fuel s (off + k) (n - k) with
        | (s, none) => (s, none)
        | (s, some (r, l)) => (s, some (b ++ r, (if bad then (allLines off k).map (· + off / 64) else []) ++ l))
      | none =>
        let k := lineChunk off n
        match tget s.plain.granules (off / gib) with
        | none =>
          match plainGet d counted forms fuel s (off + k) (n - k) with
          | (s, none) => (s, none)
          | (s, some (r, l)) => (s, some (zeros k ++ r, off / 64 :: l))
        | some g =>
          match plainLineGet s g off d counted with
          | (s, none) => (s, none)
          | (s, some (b, bad)) =>
            match plainGet d counted forms fuel s (off + k) (n - k) with
            | (s, none) => (s, none)
            | (s, some (r, l)) => (s, some ((b.drop (off % 64)).take k ++ r, (if bad then [off / 64] else []) ++ l))

/-- What a read matches of weight windows, as offset, bytes and poison (R171). Fuel is the request's length. -/
def windowForms : (fuel : Nat) → State → (off n : Nat) → State × List (Nat × Bytes × Bool)
  | 0, s, _, _ => (s, [])
  | fuel + 1, s, off, n =>
    if n = 0 then (s, [])
    else
      match windowAt s off with
      | some (_, w) =>
        let k := winChunk w off n
        let (s, b, bad) := windowBytes s w off k
        let (s, l) := windowForms fuel s (off + k) (n - k)
        (s, (off, b, bad) :: l)
      | none => windowForms fuel s (off + lineChunk off n) (n - lineChunk off n)

/-- The lines of a write staged in a window, in order (R169). Fuel is the write's length. -/
def stageLines (n : Nat) (w : WeightWin) (mid : Nat) (d : Die) : (fuel : Nat) → State → (off : Nat) → Bytes → State
  | 0, s, _, _ => s
  | fuel + 1, s, off, b =>
    if b.isEmpty then s
    else
      let k := lineChunk off b.length
      stageLines n w mid d fuel (stageWrite s n ((tget s.plain.windows n).getD w) mid off (b.take k) d) (off + k) (b.drop k)

/-- A write of plain bytes from a die; what remains from the first line that waits is answered, with its offset. All of a write
that falls in a FILLING window is staged before its coverage is judged (R170). Fuel is the write's length. -/
def plainSet (d : Die) (counted : Bool) : (fuel : Nat) → State → (mid off : Nat) → Bytes → State × Option (Nat × Bytes)
  | 0, s, _, _, _ => (s, none)
  | fuel + 1, s, mid, off, b =>
    if b.isEmpty then (s, none)
    else
      match windowAt s off with
      | some (n, w) =>
        let k := winChunk w off b.length
        if w.kind = .ingest ∧ w.state = .filling then
          plainSet d counted fuel (autoSeal (stageLines n w mid d k s off (b.take k)) n) mid (off + k) (b.drop k)
        else plainSet d counted fuel (discardWrite s n w mid off) mid (off + k) (b.drop k)
      | none =>
        let k := lineChunk off b.length
        match tget s.plain.granules (off / gib) with
        | none => plainSet d counted fuel s mid (off + k) (b.drop k)
        | some g =>
          if k = 64 then
            match plainLinePut s g off (b.take 64) d counted with
            | (s, false) => (s, some (off, b))
            | (s, true) => plainSet d counted fuel s mid (off + 64) (b.drop 64)
          else plainSet d counted fuel (plainNarrow s g mid off (b.take k) d) mid (off + k) (b.drop k)

/-- A request waits, behind those that wait already. -/
def parkWait (s : State) (w : CacheWait) : State := { s with plain := { s.plain with waits := s.plain.waits ++ [w] } }

/-- Whether a request must wait behind an older one for one of its lines: requests to a line take effect in grant order (R326,
R327). -/
def behindWait (s : State) (off n : Nat) (write : Bool) : Bool :=
  s.plain.waits.any (fun w => (write || w.write.isSome)
    && spansMeet (lineOf off, lineSpan off n) (lineOf w.off, lineSpan w.off w.len))

/-- Whether class 2 may be granted bytes now where a request's data crosses: the path between its die and the home of its first
line, and the host link (R501). -/
def plainOpen (s : State) (w : CacheWait) : Bool :=
  let home := homeOf s w.off
  capOpen s 2 (if w.write.isSome then writePath home w.die ++ hostRes s w.mid false
    else readPath home w.die ++ hostRes s w.mid true)

/-- A waiting request whose cache stall has been counted is not counted again (R322). -/
def stalledNow (old new : State) (w : CacheWait) : CacheWait :=
  { w with stalled := w.stalled || old.bw.cacheStalls != new.bw.cacheStalls }

/-- A read that has passed its checks is served, or waits with what it has matched. -/
def serveRead (s : State) (w : CacheWait) : State :=
  let wait (s : State) (w : CacheWait) : State :=
    if w.forms.isEmpty then
      let (s, l) := windowForms w.len s w.off w.len
      parkWait s { w with forms := l }
    else parkWait s w
  if behindWait s w.off w.len false || !plainOpen s w then wait s w
  else
    match plainGet w.die w.stalled w.forms w.len s w.off w.len with
    | (t, none) => wait t (stalledNow s t w)
    | (t, some (b, bad)) => replyRead (chargeHostTx t 2 w.mid w.len) w.dest w.off b (bad.map (· - w.off / 64)) 0

/-- A write that has passed its checks is taken, or what is left of it waits; while a half is fenced it completes POISONED
(R21). -/
def serveWrite (s : State) (w : CacheWait) (b : Bytes) : State :=
  if anyFenced s then replyWrite s w.dest rcPoisoned
  else if behindWait s w.off w.len true || !plainOpen s w then parkWait s w
  else
    match plainSet w.die w.stalled b.length s w.mid w.off b with
    | (t, none) => replyWrite t w.dest 0
    | (t, some (o, r)) => parkWait t { stalledNow s t w with off := o, len := r.length, write := some r }

/-- A waiting request runs again. -/
def serveAgain (s : State) (w : CacheWait) : State :=
  match w.write with
  | none => serveRead s w
  | some b => serveWrite s w b

/-- The waiting requests run again, oldest first. -/
def runWaits (s : State) : State :=
  let go := s.plain.waits
  go.foldl serveAgain { s with plain := { s.plain with waits := [] } }

/-- Whether requests to tier memory are served at all: start-up has reached step 8 with the main power on, and the device has not
stopped (R23, R664, R685, R731). -/
def tierServed (s : State) : Bool := s.boot.stage == .served && !s.ras.moduleFault

/-- Plain granules that an access names, marked with the cycle of it (R26). -/
def granTouch (s : State) (off n : Nat) : State :=
  let first := off / gib
  { s with plain := { s.plain with granules := (List.range ((off + n - 1) / gib + 1 - first)).foldl (fun l i =>
      tmod l (first + i) (fun g => { g with accessedAt := some s.now })) s.plain.granules } }

/-- A plain read by a master (R313, R320, R468). -/
def plainRead (s : State) (mid : Nat) (dest : ReplyTo) (path off n : Nat) : State :=
  let s := leaveSleep s
  if plainAllowed s mid off n false then
    serveRead (granTouch s off n) { mid := mid, dest := dest, die := replyDie s dest, off := off, len := n, write := none }
  else
    let s := logRefused s mid (daMk 8 off) path rcNotPermitted
    replyRead s dest off (List.replicate n 0xFF) (allLines off n) 0x20

/-- A plain write by a master (R313, R326, R468). -/
def plainWrite (s : State) (mid : Nat) (dest : ReplyTo) (path off : Nat) (b : Bytes) : State :=
  let s := leaveSleep s
  if plainAllowed s mid off b.length true then
    serveWrite (granTouch s off b.length)
      { mid := mid, dest := dest, die := replyDie s dest, off := off, len := b.length, write := some b } b
  else replyWrite (logRefused s mid (daMk 8 off) path rcNotPermitted) dest 0x20

/-- The path of a plain access as an answer's way and as the PATH of R658. -/
def pathTo (path : PlainPath) (mid : Nat) : ReplyTo × Nat :=
  match path with
  | .cxl => (.cxl, 1)
  | .link => (.link mid, 3)

/-- WEIGHT_WINDOW_READ (R167 to R174): a read that begins in a weight window. -/
def execWeightWindowRead (mid : Nat) (path : PlainPath) (off len : Nat) (s : State) : Out :=
  if tierServed s ∧ (windowAt s off).isSome ∧ 0 < len then
    let (dest, p) := pathTo path mid
    .next (plainRead s mid dest p off len)
  else .next s

/-- PLAIN_READ (R320). -/
def execPlainRead (mid : Nat) (path : PlainPath) (off len : Nat) (s : State) : Out :=
  if tierServed s ∧ 0 < len then
    let (dest, p) := pathTo path mid
    .next (plainRead s mid dest p off len)
  else .next s

/-- PLAIN_WRITE (R326). -/
def execPlainWrite (mid : Nat) (path : PlainPath) (off : Nat) (bytes : Bytes) (s : State) : Out :=
  if tierServed s ∧ bytes ≠ [] then
    let (dest, p) := pathTo path mid
    .next (plainWrite (chargeHostRx s 2 mid bytes.length) mid dest p off bytes)
  else .next s

/-! ### Fills, evictions, weeding, timeouts -/

/-- Whether the fill of a line may move now: class 2 for a demanded line, else class 5 (R315, R501). -/
def fillOpen (s : State) (h : Half) (w : Way) (line : Nat) : Bool :=
  capOpen s (if w.demand = some line then 2 else 5) (readPath (homeOf s (w.block * 4096)) (.tier h) ++ writePath (t1Of h) (.tier h))

/-- CACHE_LINE_FILL (R320): a line of a FILLING block arrives, and the requests that wait run again. -/
def execCacheLineFill (half : Half) (set way line : Nat) (s : State) : Out :=
  let w := wayAt s half (set, way)
  if w.state = .filling ∧ line < 64 ∧ !w.valid.getLsbD line ∧ fillOpen s half w line then
    .next (runWaits (fillLine s half (set, way) line))
  else .next s

/-- Whether a way's dirty lines may move home now, in class 5 (R315, R501). -/
def evictOpen (s : State) (h : Half) (w : Way) : Bool :=
  w.dirty == 0 || capOpen s 5 (readPath (t1Of h) (.compute h) ++ writePath (homeOf s (w.block * 4096)) (.compute h))

/-- CACHE_EVICT_COMPLETE (R320): the last dirty line is written back; what waited runs again as misses. -/
def execCacheEvictComplete (half : Half) (set way : Nat) (s : State) : Out :=
  let w := wayAt s half (set, way)
  if w.state = .evicting ∧ evictOpen s half w then
    .next (runWaits (dropWay (writeBackWay s half (set, way)) half (set, way)))
  else .next s

/-- The sweep of one way (R323, R324). -/
def sweepWay (s : State) (h : Half) (k : Nat × Nat) : State :=
  let w := wayAt s h k
  if w.state = .valid then
    let age := min 15 (w.age + 1)
    let s := putWay s h k { w with age := age }
    let s := if 8 ≤ age ∧ w.dirty ≠ 0 ∧ evictOpen s h w then writeBackWay s h k else s
    if age = 15 then putWay s h k { wayAt s h k with state := .evicting } else s
  else s

/-- The listed ways of a half in set order. -/
def waysInOrder (s : State) (h : Half) : List (Nat × Nat) :=
  ((s.plain.cache.get h).ways.map (·.1)).mergeSort (fun a b => decide (a.1 < b.1) || (a.1 == b.1 && decide (a.2 ≤ b.2)))

/-- WEEDING_SWEEP (R323, R324): due once in each weeding period. -/
def execWeedingSweep (s : State) : Out :=
  if tierServed s ∧ s.plain.lastSweep + usT (64 * 2 ^ s.plain.period) ≤ s.now then
    let s := (waysInOrder s .h0).foldl (fun s k => sweepWay s .h0 k) s
    let s := (waysInOrder s .h1).foldl (fun s k => sweepWay s .h1 k) s
    .next { s with plain := { s.plain with lastSweep := s.now } }
  else .next s

/-- BINDERY_TIMEOUT (R333): an entry retires 2 µs after its allocation. -/
def execBinderyTimeout (half : Half) (line : Nat) (s : State) : Out :=
  match entryOf s half line with
  | none => .next s
  | some e => if e.since + usT 2 ≤ s.now then .next (retireEntry s half e) else .next s

end Sys2Proof.Machine
end

