-- ==== Sys2Proof/Machine/Runtime.lean ====
section
/-! DEFINITION. Accesses on the runtime face by a master (R294, R743), and REGION_COPY (R295, R561). -/

namespace Sys2Proof.Machine

/-! ### RUNTIME_ACCESS -/

/-- The code of an access that R17 or R294 refuses, with its record; DONE where it may go on. -/
def accessCheck (s : State) (mid da n path : Nat) (write : Bool) : State × Nat :=
  let rc := addrCode s mid da n write
  (if rc = rcBadField then logRefused s mid da path rc else s, rc)

/-- The code with which another module's or a tray's answer ends a read. -/
def remoteCode (r : RemoteRead) : Nat :=
  match r with
  | .none => rcPartnerAbsent
  | .data _ p => if p then rcPoisoned else rcDone
  | .refused st => st
  | .unanswered => rcPartnerAbsent

/-- Whether a far read is left outstanding on a session: no answer is given with it, and a session carries it. -/
def leftOutstanding (s : State) (mid da n : Nat) (remote : RemoteRead) : Bool :=
  remote == .none && daRange da == 3 && (match masterHandle s mid da n with
    | none => false
    | some (num, h) => (handleRefuses h false).isNone && (poolSession s (poolAt num h da).1 mid).isSome)

/-- The code that a far read ends with. -/
def farCode (s : State) (mid da n : Nat) (remote : RemoteRead) : Nat :=
  if daRange da = 3 then
    match masterHandle s mid da n with
    | none => rcNotPermitted
    | some (num, h) => (handleRefuses h false).getD (if lenderGone s mid num h da then rcPartnerAbsent else remoteCode remote)
  else
    match masterGrant s mid da n with
    | none => rcNotPermitted
    | some (_, x) => (grantRefuses x).getD (remoteCode remote)

/-- Where a master's requests enter the device: a host's at the host endpoint on tier die 0, a partner's at its port (R12, R14). -/
def masterDie (s : State) (mid : Nat) : Die := replyDie s (.link mid)

/-- Whether a master's access to tier 1 or 2 may move now in a class (R501); the ports hold far ones. -/
def runtimeOpen (s : State) (cls mid da : Nat) (write : Bool) : Bool :=
  !(daRange da == 1 || daRange da == 2)
    || capOpen s cls (if write then writePath da (masterDie s mid) else readPath da (masterDie s mid))

/-- A read on the runtime face. -/
def runtimeRead (s : State) (mid da n : Nat) (remote : RemoteRead) : State :=
  let (s, rc) := accessCheck s mid da n 4 false
  if rc ≠ rcDone then emit s (.runtimeData mid da (zeros n) true rc)
  else if anyFenced s then emit s (.runtimeData mid da (zeros n) true rcPoisoned)
  else if daRange da ≤ 2 then
    let (s, b, bad) := rtRead (chargeRead (leaveSleep s) 1 da n (masterDie s mid)) da n 0
    let p := rtPoison bad da n
    emit s (.runtimeData mid da b p (if p then rcPoisoned else rcDone))
  else
    let out := leftOutstanding s mid da n remote
    let rc := farCode s mid da n remote
    let (s, b, p) := readFar s mid da n out remote
    if out then s else emit s (.runtimeData mid da b p rc)

/-- A write on the runtime face, which is posted (R743). -/
def runtimeWrite (s : State) (mid da : Nat) (b : Bytes) : State :=
  let (s, rc) := accessCheck s mid da b.length 4 true
  if rc ≠ rcDone ∨ anyFenced s then s
  else if daRange da ≤ 2 then rtWrite (chargeWrite (leaveSleep s) 1 da b.length (masterDie s mid)) mid da b
  else writeFar s 1 mid da b

/-- RUNTIME_ACCESS (R743): it waits while class 1 is at its cap (R501). -/
def execRuntimeAccess (mid addr : Nat) (op : AccessOp) (remote : RemoteRead) (s : State) : Out :=
  if tierServed s then
    match op with
    | .read len => if len = 0 ∨ !runtimeOpen s 1 mid addr false then .next s else .next (runtimeRead s mid addr len remote)
    | .write bytes => if bytes = [] ∨ !runtimeOpen s 1 mid addr true then .next s else .next (runtimeWrite s mid addr bytes)
  else .next s

/-! ### REGION_COPY (R295, R561) -/

/-- The parts of n bytes from a source address between line boundaries of the source, as offset, length and whether the
line is poison. -/
def copyParts (src : Nat) (bad : List Nat) : (fuel off n : Nat) → List (Nat × Nat × Bool)
  | 0, _, _ => []
  | fuel + 1, off, n =>
    if n = 0 then []
    else
      let k := min n (64 - (src + off) % 64)
      (off, k, bad.contains (lineOf (src + off))) :: copyParts src bad fuel (off + k) (n - k)

/-- Bytes written to a destination whose poisoned source lines make their destination lines poison (R561); poison is not
sent to another module or a tray (R649). -/
def copyPut (s : State) (mid src dst : Nat) (b : Bytes) (bad : List Nat) : State :=
  if bad.isEmpty then writeAny s 1 mid dst b
  else
    (copyParts src bad (b.length + 1) 0 b.length).foldl (fun s x =>
      let part := (b.drop x.1).take x.2.1
      if daRange dst ≤ 2 then
        let s := writeAny s 1 mid (dst + x.1) part
        if x.2.2 then dramPoison (retireWhere s (daHalf dst) (fun e => e.line == lineOf (dst + x.1)
            || e.line == lineOf (dst + x.1 + x.2.1 - 1))) (lineOf (dst + x.1)) (lineSpan (dst + x.1) x.2.1 / 64)
        else s
      else if x.2.2 then s else writeAny s 1 mid (dst + x.1) part) s

/-- What REGION_COPY checks of its addresses. -/
def copyCode (s : State) (c : RunCmd) (dir src dst n : Nat) : Nat × Nat :=
  let a := if dir = 0 then rcDone else deskCode s c.mid src n false
  if a ≠ rcDone then (src, a) else (dst, if dir = 1 then rcDone else deskCode s c.mid dst n true)

/-- REGION_COPY (R21, R295, R561): it waits while class 1 is at its cap (R501). -/
def regionCopyBody (host : HostRead) (remote : RemoteRead) (s : State) (c : RunCmd) : State :=
  let dir := arg c 0
  let n := arg c 1
  let h := arg c 2
  let src := arg c 3
  let dst := arg c 4
  let (a, rc) := copyCode s c dir src dst n
  let open_ := (dir == 0 || runtimeOpen s 1 c.mid src false) && (dir == 1 || runtimeOpen s 1 c.mid dst true)
    && capOpen s 1 (if dir = 0 then hostRes s c.mid false else if dir = 1 then hostRes s c.mid true else [])
  if rc ≠ rcDone then failAddr s c a rc
  else if anyFenced s then failWith s c rcPoisoned
  else if !open_ then cmdHold s c
  else if dir = 0 then
    if !readMay s c.mid then cmdHold s c
    else
      let s := readWhole s c.mid h n host
      match host with
      | .data b =>
        let s := chargeHostRx s 1 c.mid n
        complete (chargeWrite (writeAny s 1 c.mid dst (fit n b)) 1 dst n (.tier .h0)) c rcDone []
      | .timeout => failWith s c rcPartnerAbsent
      | .unsupported => failWith s c rcPartnerAbsent
      | .aborted => failWith s c rcPartnerAbsent
      | .dropped => failWith s c rcPartnerAbsent
  else
    let far := if daRange src ≤ 2 then rcDone else farCode s c.mid src n remote
    let (s, b, bad) := readAny (chargeRead s 1 src n (.tier .h0)) c.mid src n remote
    let rc := if far ≠ rcDone then far else if rtPoison bad src n then rcPoisoned else rcDone
    let bad := if rc = rcDone then [] else bad
    if dir = 1 then
      complete (chargeHostTx (emit s (.hostWrite c.mid h b (!bad.isEmpty) false)) 1 c.mid n) c rc []
    else complete (chargeWrite (copyPut s c.mid src dst b bad) 1 dst n (.tier .h0)) c rc []

/-- REGION_COPY. -/
def execRegionCopy (src : DeskSrc) (host : HostRead) (remote : RemoteRead) (s : State) : Out :=
  .next (deskRun 0x0303 (regionCopyBody host remote) s src)

end Sys2Proof.Machine
end

