-- ==== Sys2Proof/Machine/Fp.lean ====
section
/-! DEFINITION. FP32 arithmetic of the vector units: the correctly rounded operations, the sum of R205, the transcendental
units of R207, and a result held to the bound of R208 (R203, R205 to R208). -/

namespace Sys2Proof.Machine

/-! ### FP32 arithmetic (R203) -/

/-- A sum of two exact values, each with the sign it has as a zero, rounded once (R203). -/
def addRound (x : Dy) (nx : Bool) (y : Dy) (ny : Bool) : Nat :=
  let z := dyAdd x y
  if z.sig = 0 then zeroWord (x.sig == 0 && y.sig == 0 && nx && ny) else roundWord (.fin z)

/-- Addition (R203). -/
def fpAdd (a b : Nat) : Nat :=
  match fp32 a, fp32 b with
  | .nan, _ => nanWord
  | _, .nan => nanWord
  | .inf m, .inf n => if m = n then infW m else nanWord
  | .inf m, .fin _ => infW m
  | .fin _, .inf n => infW n
  | .fin x, .fin y => addRound x (wordNeg a) y (wordNeg b)

/-- Multiplication (R203). -/
def fpMul (a b : Nat) : Nat :=
  let neg := wordNeg a != wordNeg b
  match fp32 a, fp32 b with
  | .nan, _ => nanWord
  | _, .nan => nanWord
  | .inf _, .inf _ => infW neg
  | .inf _, .fin y => if y.sig = 0 then nanWord else infW neg
  | .fin x, .inf _ => if x.sig = 0 then nanWord else infW neg
  | .fin x, .fin y => if x.sig = 0 ∨ y.sig = 0 then zeroWord neg else roundWord (.fin (dyMul x y))

/-- Fused multiply-add a × b + c, rounded once (R203). -/
def fpFma (a b c : Nat) : Nat :=
  let neg := wordNeg a != wordNeg b
  match fp32 a, fp32 b, fp32 c with
  | .nan, _, _ => nanWord
  | _, .nan, _ => nanWord
  | _, _, .nan => nanWord
  | .fin x, .fin y, .fin z => addRound (dyMul x y) neg z (wordNeg c)
  | .fin _, .fin _, .inf n => infW n
  | p, q, z =>
    let zero (v : XVal) : Bool := match v with
      | .fin d => d.sig == 0
      | .nan => false
      | .inf _ => false
    if zero p || zero q then nanWord
    else match z with
      | .inf n => if n = neg then infW neg else nanWord
      | .fin _ => infW neg
      | .nan => nanWord

/-- Division (R203). -/
def fpDiv (a b : Nat) : Nat :=
  let neg := wordNeg a != wordNeg b
  match fp32 a, fp32 b with
  | .nan, _ => nanWord
  | _, .nan => nanWord
  | .inf _, .inf _ => nanWord
  | .inf _, .fin _ => infW neg
  | .fin _, .inf _ => zeroWord neg
  | .fin x, .fin y =>
    if y.sig = 0 then (if x.sig = 0 then nanWord else infW neg)
    else if x.sig = 0 then zeroWord neg
    else roundWord (.fin (dyQuot (if neg then dyNeg (dyAbs x) else dyAbs x) (dyAbs y)))

/-- A word with its sign turned. -/
def fpNeg (a : Nat) : Nat := if wordNeg a then a - negZero else a + negZero

/-- A count as an FP32 word. -/
def natWord (n : Nat) : Nat := if n = 0 then 0 else roundWord (.fin ⟨n, 0⟩)

/-- The value of a word, where it is finite. -/
def finVal (w : Nat) : Option Dy :=
  match fp32 w with
  | .fin d => some d
  | .nan => none
  | .inf _ => none

/-- One level of the pairwise tree: each pair its rounded sum, an odd last one with a zero (R205). -/
def pairSums : List Nat → List Nat
  | a :: b :: r => fpAdd a b :: pairSums r
  | [a] => [fpAdd a 0]
  | [] => []

/-- ⌈log₂ n⌉. -/
def ceilLog2 (n : Nat) : Nat := bitLen (n - 1)

/-- The sum of values by a pairwise tree over their indices (R205). -/
def treeSum (l : List Nat) : Nat := ((List.range (ceilLog2 l.length)).foldl (fun l _ => pairSums l) l).headD 0

/-! ### Transcendental units (R207)

A unit's result is a free value within its bound; for an input of which R207 states nothing it is free altogether (log 6). -/

/-- A unit's result within k ulp of the exact value y. -/
def unitWord (fn k w : Nat) (y : Dy) : Nat := boundWord fn [w] 0 none (dyCut y) (dyMul ⟨k, 0⟩ (dyUlp y))

/-- exp: 2 ulp; +∞ above the range, and exactly 0 where the result rounds to 0. -/
def unitExp (fn w : Nat) : Nat :=
  match finVal w with
  | none => openWord fn [w] 0
  | some d =>
    if d.sig ≠ 0 ∧ 7 ≤ dyLog2 d then (if d.sig < 0 then 0 else infW false)
    else
      let y := dyExp d
      if overflows y then infW false
      else if !dyLt ⟨1, -150⟩ y then 0
      else
        let b := dyScale (dyUlp y) 1
        boundWord fn [w] 0 (some false) (dyCut y) (if dyLt y b then y else b)

/-- log: 2 ulp; −∞ at 0, NaN below 0. -/
def unitLog (fn w : Nat) : Nat :=
  match finVal w with
  | none => openWord fn [w] 0
  | some d => if d.sig = 0 then infW true else if d.sig < 0 then nanWord else unitWord fn 2 w (dyLog d)

/-- rsqrt: 1 ulp. -/
def unitRsqrt (fn w : Nat) : Nat :=
  match finVal w with
  | none => openWord fn [w] 0
  | some d => if d.sig ≤ 0 then openWord fn [w] 0 else unitWord fn 1 w (dyRsqrt d)

/-- tanh, erf and sigmoid: 3 ulp of the exact function. -/
def unit3 (fn w : Nat) (f : Dy → Dy) : Nat :=
  match finVal w with
  | none => openWord fn [w] 0
  | some d => unitWord fn 3 w (f d)

/-- cos and sin of a reduced angle: 2 ulp. -/
def unitCos (fn w : Nat) : Nat :=
  match finVal w with
  | none => openWord fn [w] 0
  | some d => unitWord fn 2 w (dyCosSin d).1

@[inherit_doc unitCos]
def unitSin (fn w : Nat) : Nat :=
  match finVal w with
  | none => openWord fn [w] 0
  | some d => unitWord fn 2 w (dyCosSin d).2

/-! ### Results held to a bound (R208) -/

/-- The result that an operation's rounded steps give, held to within b of the exact value y: R208 states its bounds without
exception, so where rounding of the steps leads out of one, the result is free within it (log 6). -/
def heldWord (fn : Nat) (ins : List Nat) (i : Nat) (y b : Dy) (w : Nat) : Nat :=
  let r := keyRange y b
  if !isNanW w ∧ r.1 ≤ orderKey w ∧ orderKey w ≤ r.2 then w else boundWord fn ins i none y b

end Sys2Proof.Machine
end

