-- ==== Sys2Proof/Machine/StepVector.lean ====
section
/-! DEFINITION. The steps of the vector units: ELEMWISE, RMSNORM, LAYERNORM, SOFTMAX, ROPE, ACT, MERGE and TOPK (R202 to
R213, R739). -/

namespace Sys2Proof.Machine

/-! ### Vectors (R204, R231) -/

/-- An FP8 element, with its lo part where it has one, as FP32 (R204). -/
def fp8Word (neg0 : Bool) (xs : List Opnd) : Nat :=
  match elemSpecial xs with
  | some (.inf n) => infW n
  | some _ => nanWord
  | none =>
    let v := elemVal xs
    if v.sig = 0 then zeroWord neg0 else roundWord (.fin v)

/-- All elements of an operand as FP32 words (R204). -/
def vecWords (o : Oper) (bytes : Bytes) : List Nat :=
  let b := bytes.toArray
  if isFp8 o.format then
    (List.range o.length).map (fun i => fp8Word (natBit (plAt b i) 7) (actElem o b i))
  else if o.format = 1 then
    (List.range o.length).map (fun i => (plAt b (2 * i) + 256 * plAt b (2 * i + 1)) * 65536)
  else (List.range o.length).map (fun i => leAt bytes (4 * i) 4)

/-- An input of a VU step: its words, how many of them are elements, and whether its rows begin at multiples of 32. -/
structure VecIn where
  words : Array Nat
  count : Nat
  fp8 : Bool
  deriving DecidableEq, Repr

/-- Row r of R rows of an input. -/
def vecRow (a : VecIn) (rows r : Nat) : List Nat :=
  let n := a.count / rows
  let stride := if a.fp8 then roundUp n 32 else n
  (List.range n).map (fun i => a.words.getD (r * stride + i) 0)

/-- An input as one row. -/
def vecAll (a : VecIn) : List Nat := vecRow a 1 0

/-- The inputs of a step read in order, with whether any is poison. -/
def readVecs (s : State) (n : Nat) (v : Volume) : List Nat → State × List VecIn × Bool
  | [] => (s, [], false)
  | i :: r =>
    let o := operOf v i
    let count := match tget s.eng.ctxs n with
      | some x => operCount x i o
      | none => o.length
    let (s, b, p) := readOper s n v i .none
    let (s, l, q) := readVecs s n v r
    (s, { words := (vecWords o b).toArray, count := count, fp8 := isFp8 o.format } :: l, p || q)

/-- FP32 words in a 16-bit or 32-bit output; a negative zero stays one (R203). -/
def wordOut (o : Oper) (w : Nat) : Bytes :=
  if o.format = 1 then leBytes 2 (if w = negZero then 0x8000 else (roundOut fmtBf16 (fp32 w)).word)
  else leBytes 4 (if isNanW w then nanWord else w)

/-- Rows of FP32 words encoded for an operand (R210). -/
def encodeRows (o : Oper) (policy : Nat) (rows : List (List Nat)) : Encoded :=
  if isFp8 o.format then encodeCols o policy (rows.map (fun r => r.map fp32))
  else { pieces := [(0, ((rows.flatten.take o.length).map (wordOut o)).flatten)] }

/-- Outputs of a step written in order, each to its descriptor. -/
def writeRows (s : State) (n : Nat) (v : Volume) (x : Ctx) (st : VStep) (outs : List (Nat × List (List Nat))) : State :=
  outs.foldl (fun s p =>
    writeEncoded s n v x st p.1 (encodeRows (operOf v p.1) (stSplit st) p.2) ((p.2.map List.length).foldl (· + ·) 0) false) s

/-- A VU step: it waits for FREE store halves, and completes POISONED where an input is poison (R252, R257, R649). -/
def vuBody (n : Nat) (outs : VStep → List Nat) (f : Volume → Ctx → VStep → List VecIn → List (Nat × List (List Nat)))
    (s : State) (v : Volume) (x : Ctx) (st : VStep) : State :=
  if (outs st).any (fun i => !homesFree s v x i) then s
  else
    match refusedAddr s v x st with
    | some (a, rc) => refuseStep s n x a rc
    | none =>
      let (s, ins, bad) := readVecs s n v (stepInputs st)
      if bad then poisonStep s n v x (outs st) else doneStep (writeRows s n v x st (f v x st ins)) n x rcDone

/-- Outputs of a step with one destination. -/
def outC (st : VStep) : List Nat := [st.opc]

/-- An input of a list. -/
def vin (l : List VecIn) (i : Nat) : VecIn := l.getD i { words := #[], count := 0, fp8 := false }

/-! ### ELEMWISE, ACT (R208) -/

/-- One element of ELEMWISE. -/
def elemOp (f param a b c : Nat) : Nat :=
  if f = 0 then fpAdd a b
  else if f = 1 then fpMul a b
  else if f = 2 then fpFma a b c
  else if f = 3 then fpMul a param
  else a

/-- The inputs of an elementwise step side by side; a shorter second or third input reads as zeros beyond its end. -/
def elemRows (f param : Nat) (ins : List VecIn) : List Nat :=
  let b := (vecAll (vin ins 1)).toArray
  let c := (vecAll (vin ins 2)).toArray
  ((vecAll (vin ins 0)).zipIdx).map (fun p => elemOp f param p.1 (b.getD p.2 0) (c.getD p.2 0))

/-- ELEMWISE (R208). -/
def execElemwise (ctx : Nat) (s : State) : Out :=
  .next (runStep s ctx opElem (vuBody ctx outC (fun _ _ st ins => [(st.opc, [elemRows (stFunc st) st.param ins])])))

/-- RELU and SQUARED_RELU, exact and correctly rounded (R208). -/
def reluWord (square : Bool) (a : Nat) : Nat :=
  if isNanW a then nanWord else if orderKey a ≤ 0 then 0 else if square then fpMul a a else a

/-- erf x. -/
def dyErf (x : Dy) : Dy :=
  if x.sig ≠ 0 ∧ 3 ≤ dyLog2 x then ⟨x.sig.sign, 0⟩
  else
    let v := toFix (dyMul x (dySqrt ⟨2, 0⟩))
    dyScale (dyMul (dyRsqrt twoPi) (ofFix (fixNormal (-(v * v / fixOne)) 460 0 v 0))) 1

/-- The argument of tanh in GELU_TANH: √(2/π) (x + 0.044715 x³) (PRESUMED, log 6). -/
def geluArg (x : Dy) : Dy :=
  dyMul (dySqrt (dyQuot ⟨4, 0⟩ twoPi)) (dyAdd x (dyQuot (dyMul ⟨44715, 0⟩ (dyMul x (dyMul x x))) ⟨1000000, 0⟩))

/-- The exact value of an activation function of a finite input: GELU_TANH, GELU_ERF, SILU, SIGMOID, TANH (R208). -/
def actExact (f : Nat) (x : Dy) : Dy :=
  if f = 2 then dyMul (dyScale x (-1)) (dyAdd ⟨1, 0⟩ (dyTanh (geluArg x)))
  else if f = 3 then dyMul x (dyNormal x)
  else if f = 4 then dyMul x (dySigmoid x)
  else if f = 5 then dySigmoid x
  else dyTanh x

/-- 0.5 x (1 + t). -/
def geluWord (x t : Nat) : Nat := fpMul (fpMul 0x3F000000 x) (fpAdd 0x3F800000 t)

/-- The rounded steps of an activation function, each over the units (R203, R207; their order is DESIGN CHOICE, log 6). -/
def actSteps (f x : Nat) : Nat :=
  if f = 2 then
    geluWord x (unit3 21 (fpMul 0x3F4C422A (fpFma (fpMul 0x3D372713 x) (fpMul x x) x)) dyTanh)
  else if f = 3 then geluWord x (unit3 22 (fpMul x 0x3F3504F3) dyErf)
  else if f = 4 then fpMul x (unit3 20 x dySigmoid)
  else if f = 5 then unit3 20 x dySigmoid
  else unit3 21 x dyTanh

/-- The bound of an activation function at an exact result y: 4 ulp(y) + 2^−23 |x| (R208). -/
def actBound (x y : Dy) : Dy := dyAdd (dyScale (dyUlp y) 2) (dyScale (dyAbs x) (-23))

/-- One element of ACT without its gate (R208): RELU exact, SQUARED_RELU correctly rounded, others within their bound. -/
def actBase (f a : Nat) : Nat :=
  if f = 0 then reluWord false a
  else if f = 1 then reluWord true a
  else if isNanW a then nanWord
  else match finVal a with
    | some x => let y := dyCut (actExact f x); heldWord (16 + f) [a] 0 y (actBound x y) (actSteps f a)
    | none => actSteps f a

/-- One element of ACT (R208): the gated forms multiply by b and add 1 ulp. -/
def actWord (f a : Nat) (gate : Option Nat) : Nat :=
  match gate with
  | none => actBase f a
  | some g =>
    let w := fpMul (actBase f a) g
    match finVal a, finVal g, decide (2 ≤ f) with
    | some x, some z, true =>
      let y := dyCut (actExact f x)
      let e := dyMul y z
      heldWord (24 + f) [a, g] 0 e (dyAdd (dyMul (actBound x y) (dyAbs z)) (dyUlp e)) w
    | _, _, _ => w

/-- The elements of ACT, gated where OPB is given. -/
def actRows (f : Nat) (gated : Bool) (ins : List VecIn) : List Nat :=
  let b := (vecAll (vin ins 1)).toArray
  ((vecAll (vin ins 0)).zipIdx).map (fun p => actWord f p.1 (if gated then some (b.getD p.2 0) else none))

/-- ACT (R208). -/
def execAct (ctx : Nat) (s : State) : Out :=
  .next (runStep s ctx opAct (vuBody ctx outC (fun _ _ st ins => [(st.opc, [actRows (stFunc st) (st.flags.getLsbD 2) ins])])))

/-! ### RMSNORM, LAYERNORM (R208) -/

/-- Rows of a step. -/
def rowsOf (st : VStep) (a : VecIn) : List (List Nat) := (List.range st.batch).map (vecRow a st.batch)

/-- All values of a list, where every one is finite. -/
def finVals (l : List Nat) : Option (List Dy) := l.mapM finVal

/-- Exact sum of a list. -/
def dySum (l : List Dy) : Dy := l.foldl dyAdd dyZero

/-- The mean of values: their tree sum over their count (R205). -/
def meanWord (l : List Nat) : Nat := fpDiv (treeSum l) (natWord l.length)

/-- Σx²/n + ε exactly, of a finite row. -/
def rmsExact (param : Dy) (vs : List Dy) : Dy :=
  dyAdd (dyQuot (dySum (vs.map (fun x => dyMul x x))) ⟨vs.length, 0⟩) param

/-- One row of RMSNORM (R205, R207, R208): x_i × rsqrt(Σx²/n + ε) × g_i by rounded steps, each element held to
(D + 11) u / 2 of its exact value, relatively. -/
def rmsRow (param : Nat) (g row : List Nat) : List Nat :=
  let d := param :: row.length :: (row ++ g)
  let ga := g.toArray
  let root := unitRsqrt 23 (fpAdd (meanWord (row.map (fun x => fpMul x x))) param)
  let exact : Option Dy := match finVal param, finVals row with
    | some p, some vs => let q := rmsExact p vs; if 0 < q.sig then some (dyRsqrt q) else none
    | _, _ => none
  (row.zipIdx).map (fun p =>
    let w := fpMul (fpMul p.1 root) (ga.getD p.2 0)
    match exact, finVal p.1, finVal (ga.getD p.2 0) with
    | some r, some x, some y =>
      let z := dyMul (dyMul x r) y
      let e := dyScale (dyMul ⟨ceilLog2 row.length + 11, 0⟩ (dyAbs z)) (-25)
      heldWord 1 d p.2 (dyCut z) (dyCut (dyAdd e (dyScale e (-10)))) w
    | _, _, _ => w)

/-- RMSNORM (R208). -/
def execRmsnorm (ctx : Nat) (s : State) : Out :=
  .next (runStep s ctx opRms (vuBody ctx outC (fun _ _ st ins =>
    [(st.opc, (rowsOf st (vin ins 0)).map (rmsRow st.param (vecAll (vin ins 1))))])))

/-- μ, rsqrt(σ² + ε) and 1/σ exactly, of a finite row whose σ and σ² + ε are above 0. -/
def layerExact (param : Dy) (vs : List Dy) : Option (Dy × Dy × Dy) :=
  let mean := dyCut (dyQuot (dySum vs) ⟨vs.length, 0⟩)
  let var := dyCut (dyQuot (dySum (vs.map (fun x => let t := dySub x mean; dyMul t t))) ⟨vs.length, 0⟩)
  let q := dyAdd var param
  if 0 < var.sig ∧ 0 < q.sig then some (mean, dyRsqrt q, dyRsqrt var) else none

/-- One row of LAYERNORM (R205, R207, R208): (x_i − μ) × rsqrt(σ² + ε) × g_i + b_i by rounded steps, each element held to the
table's absolute bound, which is infinite where σ is 0. -/
def layerRow (param : Nat) (g b row : List Nat) : List Nat :=
  let d := param :: row.length :: (row ++ g ++ b)
  let ga := g.toArray
  let ba := b.toArray
  let mean := meanWord row
  let devs := row.map (fun x => fpAdd x (fpNeg mean))
  let root := unitRsqrt 23 (fpAdd (meanWord (devs.map (fun t => fpMul t t))) param)
  let exact : Option (Dy × Dy × Dy) := match finVal param, finVals row with
    | some p, some vs => layerExact p vs
    | _, _ => none
  ((row.zip devs).zipIdx).map (fun p =>
    let w := fpAdd (fpMul (fpMul p.1.2 root) (ga.getD p.2 0)) (ba.getD p.2 0)
    match exact, finVal p.1.1, finVal (ga.getD p.2 0), finVal (ba.getD p.2 0) with
    | some (m, r, q), some x, some y, some c =>
      let z := dyCut (dyAdd (dyMul (dyMul (dySub x m) r) y) c)
      let k := dyAdd (dyAbs z) (dyMul (dyMul (dyAbs y) (dyAdd (dyAbs m) (dyAbs x))) q)
      let e := dyScale (dyMul ⟨ceilLog2 row.length + 14, 0⟩ k) (-24)
      heldWord 2 d p.2 z (dyCut (dyAdd e (dyUlp z))) w
    | _, _, _, _ => w)

/-- LAYERNORM (R208). -/
def execLayernorm (ctx : Nat) (s : State) : Out :=
  .next (runStep s ctx opLayer (vuBody ctx outC (fun _ _ st ins =>
    [(st.opc, (rowsOf st (vin ins 0)).map (layerRow st.param (vecAll (vin ins 1)) (vecAll (vin ins 2))))])))

/-! ### SOFTMAX (R208, R209) -/

/-- k (x − m) rounded once (R209): the scale times a difference that is formed exactly. -/
def scoreArg (k m x : Nat) : Nat :=
  match finVal k, finVal m, finVal x with
  | some a, some b, some c => roundWord (.fin (dyMul a (dySub c b)))
  | _, _, _ => fpMul k (fpAdd x (fpNeg m))

/-- e^t exactly, and 0 where t lies below −1024. -/
def expBelow (t : Dy) : Dy := if t.sig < 0 ∧ 10 ≤ dyLog2 t then dyZero else dyExp t

/-- The exact probabilities and lse of finite scores x under a finite scale k with the maximum score m; none of them
overflows, since every exponent is taken below the largest. -/
def softExact (k m : Dy) (xs : List (Option Dy)) : List Dy × Dy :=
  let ts := xs.map (·.map (fun x => dyMul k (dySub x m)))
  let top := (ts.filterMap id).foldl (fun a t => if dyLt a t then t else a) dyZero
  let es := ts.map (fun t => match t with
    | some t => expBelow (dySub t top)
    | none => dyZero)
  let sum := dySum es
  (es.map (fun e => if e.sig = 0 then dyZero else dyQuot e sum), dyAdd (dyAdd (dyMul k m) top) (dyLog sum))

/-- A row of scores with a finite maximum, some perhaps −∞ (R205, R207 to R209): p_i = e^(k(x_i − m)) / S and
lse = km + log S by rounded steps; each probability held to (D + 8) u of its exact value, relatively, and 3 steps of the
subnormal grid (log 6), and lse to (D + 4) u + 2 ulp. -/
def softFin (k m : Nat) (row : List Nat) : List Nat × Nat :=
  let d := k :: row
  let es := row.map (fun x => if x = infW true then 0 else unitExp 24 (scoreArg k m x))
  let sum := treeSum es
  let dl := ceilLog2 row.length
  let lse := fpFma k m (unitLog 25 sum)
  let ps := es.map (fun e => fpDiv e sum)
  match finVal k, finVal m with
  | some a, some b =>
    let (ys, y) := softExact a b (row.map finVal)
    ((((row.zip ps).zip ys).zipIdx).map (fun q =>
        if q.1.1.1 = infW true then 0
        else
          let z := dyCut q.1.2
          let e := dyAdd (dyScale (dyMul ⟨dl + 8, 0⟩ z) (-24)) ⟨3, -149⟩
          heldWord 3 d q.2 z (if dyLt z e then z else e) q.1.1.2),
      heldWord 4 d 0 (dyCut y) (dyAdd ⟨dl + 4, -24⟩ (dyScale (dyUlp y) 1)) lse)
  | _, _ => ((row.zip ps).map (fun q => if q.1 = infW true then 0 else q.2), lse)

/-- A row of probabilities and its lse (R209). Of a NaN score, lse is NaN; of a score of +∞, it is k times that (R203). -/
def softRow (k : Nat) (row : List Nat) : List Nat × Nat :=
  let d := k :: row
  let m := row.foldl maxWord (infW true)
  if row.any isNanW then (row.map (fun _ => nanWord), nanWord)
  else if m = infW true then (row.map (fun _ => 0), infW true)
  else if m = infW false then
    let n := row.countP (· == infW false)
    let y := dyQuot ⟨1, 0⟩ ⟨n, 0⟩
    let share := heldWord 3 d row.length y (dyScale (dyMul ⟨ceilLog2 row.length + 8, 0⟩ y) (-24)) (fpDiv 0x3F800000 (natWord n))
    (row.map (fun w => if w = infW false then share else 0), fpMul k m)
  else softFin k m row

/-- SOFTMAX (R208, R209): probabilities to OPC, lse to OPD. -/
def execSoftmax (ctx : Nat) (s : State) : Out :=
  .next (runStep s ctx opSoftmax (vuBody ctx (fun st => [st.opc, st.opd]) (fun _ _ st ins =>
    let rs := (rowsOf st (vin ins 0)).map (softRow st.param)
    [(st.opc, rs.map (·.1)), (st.opd, [rs.map (·.2)])])))

/-! ### ROPE (R211, R212, R245) -/

/-- p × f reduced modulo the 256-bit constant for 2π, exactly (R212). -/
def ropeAngle (pos : Nat) (f : Dy) : Dy :=
  let e := min f.exp (-253)
  ⟨((pos : Int) * dyAlign f e) % dyAlign twoPi e, e⟩

/-- One output of a pair (R207, R208, R212): the reduced angle rounded to FP32, its cosine and sine, and their combination by
rounded steps (their order is DESIGN CHOICE, log 6), held to 2^−21 (|x| + |y|) of its exact value. -/
def ropeWord (pos f x y : Nat) (second : Bool) : Nat :=
  if isNanW f || isNanW x || isNanW y then nanWord
  else match finVal f with
    | none => openWord 5 [pos, f, x, y] (bitN second)
    | some fv =>
      let a := ropeAngle pos fv
      let t := if a.sig = 0 then 0 else roundWord (.fin a)
      let (c, s) := (unitCos 26 t, unitSin 27 t)
      let w := if second then fpFma x s (fpMul y c) else fpFma x c (fpNeg (fpMul y s))
      match finVal x, finVal y with
      | some xv, some yv =>
        let (c, s) := dyCosSin a
        let z := if second then dyAdd (dyMul xv s) (dyMul yv c) else dySub (dyMul xv c) (dyMul yv s)
        heldWord 5 [pos, f, x, y] (bitN second) (dyCut z) (dyScale (dyAdd (dyAbs xv) (dyAbs yv)) (-21)) w
      | _, _ => w

/-- One row rotated at a position: pairs (2j, 2j + 1), or (j, j + d/2) under HALF_SPLIT. -/
def ropeRow (half : Bool) (pos : Nat) (freqs : Array Nat) (row : List Nat) : List Nat :=
  let a := row.toArray
  let d := row.length
  (List.range d).map (fun i =>
    let j := if half then i % (d / 2) else i / 2
    let second := if half then decide (d / 2 ≤ i) else i % 2 == 1
    let x := a.getD (if half then j else 2 * j) 0
    let y := a.getD (if half then j + d / 2 else 2 * j + 1) 0
    ropeWord pos (freqs.getD j 0) x y second)

/-- ROPE (R211, R212): iteration i uses POSITION + i (R245). -/
def execRope (ctx : Nat) (s : State) : Out :=
  .next (runStep s ctx opRope (vuBody ctx outC (fun _ x st ins =>
    let pos := (x.job.block.position + x.iter) % 2 ^ 32
    [(st.opc, (rowsOf st (vin ins 0)).map (ropeRow (st.flags.getLsbD 1) pos (vecAll (vin ins 1)).toArray))])))

/-! ### MERGE (R202) -/

/-- One output of MERGE, from the segments' elements at its place and their lse values: within
4 u Σ |o e^(l − L)| + 2 ulp of its exact value (R202). -/
def mergeWord (os ls : List Nat) : Nat :=
  let d := os ++ ls
  let m := ls.foldl maxWord (infW true)
  if d.any isNanW then nanWord
  else if m = infW true ∨ (finVal m).isNone ∨ (finVals os).isNone then openWord 6 d 0
  else
    let mv := (finVal m).getD dyZero
    let ws := ls.map (fun l => match finVal l with
      | some v => let t := dySub v mv; if t.sig ≠ 0 ∧ 8 ≤ dyLog2 t then dyZero else dyExp t
      | none => dyZero)
    let sum := dySum ws
    let parts := (os.zip ws).map (fun p => dyCut (dyQuot (dyMul ((finVal p.1).getD dyZero) p.2) sum))
    let y := dySum parts
    boundWord 6 d 0 none (dyCut y) (dyCut (dyAdd (dyScale (dySum (parts.map dyAbs)) (-22)) (dyScale (dyUlp y) 1)))

/-- The segments joined. -/
def mergeRows (segs : Nat) (ins : List VecIn) : List Nat :=
  let os := (ins.take segs).map (fun a => (vecAll a).toArray)
  let ls := (ins.drop segs).map (fun a => (vecAll a).toArray)
  let n := (vecAll (vin ins 0)).length
  let cols := max 1 (vecAll (vin ins segs)).length
  (List.range n).map (fun i =>
    mergeWord (os.map (fun o => o.getD i 0)) (ls.map (fun l => l.getD (i / max 1 (n / cols)) 0)))

/-- MERGE (R202). -/
def execMerge (ctx : Nat) (s : State) : Out :=
  .next (runStep s ctx opMerge (vuBody ctx outC (fun _ _ st ins => [(st.opc, [mergeRows st.batch ins])])))

/-! ### TOPK (R213) -/

/-- A candidate: logit and index. -/
abbrev Cand := Nat × Nat

/-- Whether a candidate ranks before or with another: numbers before NaN, larger logits first, lower indices first among
equals (R213). -/
def candLe (a b : Cand) : Bool :=
  if isNanW a.1 then isNanW b.1 && decide (a.2 ≤ b.2)
  else isNanW b.1 || decide (orderKey b.1 < orderKey a.1) || (orderKey a.1 == orderKey b.1 && decide (a.2 ≤ b.2))

/-- The filler pair. -/
def fillerCand : Cand := (nanWord, 0xFFFFFFFF)

/-- The k best of a list, filled up with filler pairs (R213). -/
def topCands (k : Nat) (l : List Cand) : List Cand :=
  let t := (l.mergeSort candLe).take k
  t ++ List.replicate (k - t.length) fillerCand

/-- Candidates as bytes: FP32 logit, then INT32 index (R231). -/
def candBytes (l : List Cand) : Bytes := (l.map (fun c => leBytes 4 c.1 ++ leBytes 4 c.2)).flatten

/-- Candidates of a byte string. -/
def candsOf (b : Bytes) : List Cand := (List.range (b.length / 8)).map (fun i => (leAt b (8 * i) 4, leAt b (8 * i + 4) 4))

/-- TOPK on a clean input: exactly k pairs, in rank order (R213). -/
def topkBody (n : Nat) (s : State) (v : Volume) (x : Ctx) (st : VStep) : State :=
  match refusedAddr s v x st with
  | some (a, rc) => refuseStep s n x a rc
  | none =>
    let (s, ins, bad) := readVecs s n v (stepInputs st)
    if bad then poisonStep s n v x [st.opc]
    else
      let ws := vecAll (vin ins 0)
      let cands := (ws.zipIdx).map (fun p => (if isNanW p.1 then nanWord else p.1, (st.param + p.2) % 2 ^ 32))
      let out := (topCands st.opd cands).take (operOf v st.opc).length
      doneStep (putOper s n v x st.opc [(0, candBytes out)]) n x rcDone

/-- TOPK. -/
def execTopk (ctx : Nat) (s : State) : Out := .next (runStep s ctx opTopk (topkBody ctx))

end Sys2Proof.Machine
end

