-- ==== Sys2Proof/Machine/PoolLender.lean ====
section
/-! DEFINITION. The lending pool at the lender: extents and their states, accesses to extents, views and drafts, mirrors,
parity, near-memory operations and caps (R340 to R342, R350 to R388). -/

namespace Sys2Proof.Machine

/-! ### Extents (R350, R572) -/

/-- An extent index EXT: the half in [10] and the index in the half in [9:0] (R572). -/
def extCode (k : Half × Nat) : Nat := halfNum k.1 * 1024 + k.2 % 1024

/-- The half and index of an EXT. -/
def codeExt (n : Nat) : Half × Nat := (halfOf (n / 1024 % 2), n % 1024)

/-- A lender extent. -/
def extOf (s : State) (k : Half × Nat) : Option Extent := tget s.pool.extents k

/-- A lender extent changed. -/
def extMod (s : State) (k : Half × Nat) (f : Extent → Extent) : State :=
  { s with pool := { s.pool with extents := tmod s.pool.extents k f } }

/-- Whether an extent is leased to a master of a node, in LEASED or GRACE (R352). -/
def leasedNow (e : Extent) : Bool := e.state == .leased || e.state == .grace

/-- Whether a master of a node holds an extent. -/
def heldBy (e : Extent) (node mid : Nat) : Bool :=
  e.state != .idle && e.state != .granting && e.borrower == node && e.holder == mid

/-- Whether an extent serves a request whose header reached the lender at a time: it is leased, or the request is in flight (R352,
R353, R357). -/
def servesAt (e : Extent) (arrived : Nat) : Bool := leasedNow e || (e.state == .draining && decide (arrived ≤ e.since))

/-- STATUS of a request to a plain extent by a master of a node: OK, DIVERGED, the draining code, or NOT_PERMITTED (R352,
R353, R376, R415). -/
def extentStatus (e : Extent) (node mid arrived : Nat) : Nat :=
  if !heldBy e node mid then 0x20
  else if servesAt e arrived then (if e.diverged.isEmpty then 0 else 0x71)
  else e.code

/-- A near-memory operation touches an extent. -/
def jobTouches (s : State) (j : NearJob) (k : Half × Nat) : Bool :=
  let hit (l : Half × Nat × Nat) : Bool :=
    (l.1, l.2.1) == k || (match tget s.pool.views (l.1, l.2.1) with
      | some v => (match extOf s k with | some e => e.region == some v.region | none => false)
      | none => false)
  hit j.dst || j.srcs.any hit

/-- Every job of a half's pool engine, the running one first. -/
def jobsOf (s : State) (h : Half) : List NearJob := (s.pool.engine.get h).1.toList ++ (s.pool.engine.get h).2

/-- The jobs of an extent stop with a code (R353). -/
def stopJobs (s : State) (k : Half × Nat) (code : Nat) : State :=
  let gone := (jobsOf s .h0 ++ jobsOf s .h1).filter (fun j => jobTouches s j k)
  let clear (q : Option NearJob × List NearJob) : Option NearJob × List NearJob :=
    (q.1.filter (fun j => !jobTouches s j k), q.2.filter (fun j => !jobTouches s j k))
  let s := { s with pool := { s.pool with engine := ⟨clear s.pool.engine.h0, clear s.pool.engine.h1⟩ } }
  gone.foldl (fun s j => completeSrc s j.src code []) s

/-- Whether a wait for other copies is over: each extent's forwards up to its own have been taken, or the extent has no other copy any
more. -/
def waitOver (s : State) (w : PeerWait) : Bool :=
  w.on.all (fun p => match extOf s p.1 with
    | none => true
    | some e => e.single || decide (p.2 ≤ e.taken))

/-- The completions that are due, in the order of each session's writes (R362, R414). -/
def waitsGo : List PeerWait → State → State
  | [], s => s
  | w :: r, s =>
    let earlier := s.pool.waits.takeWhile (· != w)
    waitsGo r (if waitOver s w && earlier.all (fun x => x.to_ != w.to_) then
      poolReplyWrite { s with pool := { s.pool with waits := s.pool.waits.erase w } } w.to_ w.half w.sseq 0
    else s)

/-- A lender's completion of a write: an applied one waits until the other copies and the parity extent have taken it, and behind the
earlier ones of its session (R362, R372, R378, R414). -/
def peerReply (s : State) (k : Nat × Nat) (h : Half) (sseq status : Nat) (exts : List (Half × Nat)) : State :=
  let on := exts.filterMap (fun x => (extOf s x).bind (fun e => if !e.single && decide (e.taken < e.sent) then some (x, e.sent) else none))
  if status ≠ 0 ∨ (on.isEmpty ∧ !s.pool.waits.any (fun w => w.to_ == k)) then poolReplyWrite s k h sseq status
  else { s with pool := { s.pool with waits := s.pool.waits ++ [{ to_ := k, half := h, sseq := sseq, on := on }] } }

/-- Writes whose other copy has not answered complete with a code when their extent is erased (R353). -/
def waitsEnd (s : State) (k : Half × Nat) (code : Nat) : State :=
  let mine (w : PeerWait) : Bool := w.on.any (fun p => p.1 == k)
  (s.pool.waits.filter mine).foldl (fun s w => poolReplyWrite s w.to_ w.half w.sseq code)
    { s with pool := { s.pool with waits := s.pool.waits.filter (fun w => !mine w) } }

/-- Entry to ERASING: the key is erased, a new one drawn, and the extent filled with zeros under it (R354). -/
def enterErasing (s : State) (k : Half × Nat) : State :=
  match extOf s k with
  | none => s
  | some e =>
    let s := waitsEnd (stopJobs s k e.code) k e.code
    let key := trngBytes s.free 32
    let s := extMod (drew 32 s) k (fun e => { e with state := .erasing, key := key, since := s.now, stamps := [], diverged := [],
                                                     single := false, marks := [], src := none, sent := 0, taken := 0, ahead := [] })
    let s := chargeWrite s 5 e.base gib (.tier k.1)
    dramZero (entriesDrop s k.1 e.base (e.base + gib)) e.base gib

/-- NOTICE to the borrowing module: the extent index and the code (R355, R450). -/
def sendNotice (s : State) (e : Extent) (k : Half × Nat) (code : Nat) : State :=
  msgSend s e.borrower 0x13 (leBytes 2 (extCode k) ++ leBytes 2 code)

/-- Entry to DRAINING with a code (R350). -/
def enterDraining (s : State) (k : Half × Nat) (code : Nat) : State :=
  extMod s k (fun e => { e with state := .draining, code := code, since := s.now })

/-- An extent leaves the pool: its granules enter ZEROING (R24, R340). -/
def withdrawExtent (s : State) (k : Half × Nat) : State :=
  match extOf s k with
  | none => s
  | some e => startZeroing { s with pool := { s.pool with extents := tdel s.pool.extents k } } e.base 512

/-- A lease begins again with a duration in ms (R350, R351). -/
def renewExtent (s : State) (k : Half × Nat) (ms : Nat) : State :=
  extMod s k (fun e => { e with state := .leased, duration := ms, due := s.now + msT ms })

/-- DUE_DATE_EXPIRY (R350): device time exceeds the due date. -/
def execDueDateExpiry (half : Half) (ext : Nat) (s : State) : Out :=
  match extOf s (half, ext) with
  | none => .next s
  | some e =>
    if e.state = .leased ∧ e.due < s.now then
      .next (logNow (extMod s (half, ext) (fun e => { e with state := .grace }))
        { kind := 0x0401, severity := 0, location := extCode (half, ext), detail0 := e.borrower, detail1 := e.due / 16 })
    else .next s

/-- GRACE_END (R350): 5 s after the due date the extent drains with LEASE_EXPIRED, and the borrower is told. -/
def execGraceEnd (half : Half) (ext : Nat) (s : State) : Out :=
  match extOf s (half, ext) with
  | none => .next s
  | some e =>
    if e.state = .grace ∧ e.due + secT 5 ≤ s.now then
      .next (sendNotice (enterDraining s (half, ext) rcLeaseExpired) e (half, ext) rcLeaseExpired)
    else .next s

/-- Half, extent index and offset of a pool-form location (R410). -/
def locSpot (loc : Nat) : Half × Nat × Nat := (halfOf (loc % 2), natField loc 1 10, natField loc 11 30)

/-- The descriptors of an RD_REQ: tag, bytes, location (R411). -/
def descsOf (f : Flit) : List (Nat × Nat × Nat) :=
  (List.range (f.len / 8)).map (fun i =>
    let d := leAt f.payload (8 * i) 8
    (natField d 52 12, 64 * (natField d 46 6 + 1), d % 2 ^ 44))

/-- The places that a pool-form request names, each with its length; none where a flit is no such request (R410, R411). -/
def flitSpots (f : Flit) : List ((Half × Nat × Nat) × Nat) :=
  if !f.pool then []
  else if f.type = 4 then (descsOf f).map (fun d => (locSpot d.2.2, d.2.1))
  else if f.type = 5 then [(locSpot f.arg, f.len)]
  else []

/-- Whether a pool-form request in an inbox names an extent and reached the lender by a time (R353, R410). -/
def inboxNames (s : State) (k : Half × Nat) (t : Nat) : Bool :=
  s.link.ports.any (fun p => p.2.flow.inbox.any (fun f => decide (f.arrived ≤ t)
    && (flitSpots f).any (fun x => (x.1.1, x.1.2.1) == k)))

/-- DRAIN_END (R350, R353, R354): no request is in flight any more, or 100 µs have passed. -/
def execDrainEnd (half : Half) (ext : Nat) (s : State) : Out :=
  match extOf s (half, ext) with
  | none => .next s
  | some e =>
    let busy := (jobsOf s .h0 ++ jobsOf s .h1).any (fun j => jobTouches s j (half, ext)) || inboxNames s (half, ext) e.since
      || s.pool.waits.any (fun w => w.on.any (fun p => p.1 == (half, ext)))
    if e.state = .draining ∧ (!busy ∨ e.since + usT 100 ≤ s.now) then .next (enterErasing s (half, ext))
    else .next s

/-- A shared region whose extent is erased exists no longer (R363). -/
def dropShared (s : State) (r : Nat) : State :=
  { s with pool := { s.pool with shared := tdel s.pool.shared r, views := tfilter s.pool.views (fun _ v => v.region != r) } }

/-- ERASE_END (R340, R350): the zero fill is complete. -/
def execEraseEnd (half : Half) (ext : Nat) (s : State) : Out :=
  match extOf s (half, ext) with
  | none => .next s
  | some e =>
    if e.state = .erasing then
      let s := match e.region with
        | some r => dropShared s r
        | none => s
      if e.withdraw then .next (withdrawExtent s (half, ext))
      else .next (extMod s (half, ext) (fun e => { base := e.base, key := e.key }))
    else .next s

/-- GRANT_TIMEOUT (R345, R350): 1 ms has passed with no answer from the borrowing module. -/
def execGrantTimeout (half : Half) (ext : Nat) (s : State) : Out :=
  match extOf s (half, ext) with
  | none => .next s
  | some e =>
    if e.state = .granting ∧ e.since + msT 1 ≤ s.now then
      let s' := enterErasing s (half, ext)
      .next (match e.src with
        | some src => completeSrc s' src rcPartnerAbsent []
        | none => s')
    else .next s

/-! ### Views and drafts (R363 to R371) -/

/-- Bytes in a block. -/
def blockLen : Nat := 65536

/-- Blocks in an extent. -/
def blocksPerExt : Nat := 16384

/-- The store's extents: data, then shadow (R364). -/
def storeExts (r : Shared) : List (Half × Nat) := r.dataExts ++ r.shadowExts

/-- Blocks in a store. -/
def storeBlocks (r : Shared) : Nat := (storeExts r).length * blocksPerExt

/-- The store block of a block of a data extent in an edition's or draft's map (R364). -/
def storeOf (e : Edition) (i blk : Nat) : Nat := tgetD e.map (i, blk) (i * blocksPerExt + blk)

/-- Whether a store block is used by a live edition or a draft (R368). -/
def storeUsed (r : Shared) (x : Nat) : Bool :=
  r.editions.any (fun p =>
    (decide (x < r.dataExts.length * blocksPerExt) && !thas p.2.map (x / blocksPerExt, x % blocksPerExt))
      || p.2.map.any (fun m => m.2 == x) || p.2.mapBlocks.contains x)

/-- Up to n free store blocks, lowest first. -/
def freeStore (r : Shared) (n : Nat) : List Nat := ((List.range (storeBlocks r)).filter (fun x => !storeUsed r x)).take n

/-- The extent that holds a store block, the block in it, and its device address. -/
def storeAt (s : State) (r : Shared) (x : Nat) : (Half × Nat) × Nat × Nat :=
  let k := (storeExts r).getD (x / blocksPerExt) (.h0, 1024)
  (k, x % blocksPerExt, ((extOf s k).map (·.base)).getD 0 + x % blocksPerExt * blockLen)

/-- A shared region changed. -/
def sharedMod (s : State) (n : Nat) (f : Shared → Shared) : State :=
  { s with pool := { s.pool with shared := tmod s.pool.shared n f } }

/-- The draining code of a shared region whose extents have begun to leave their leases, for a request that arrived at a time; 0 while it
lasts (R353, R363, R370). -/
def regionStatus (s : State) (r : Shared) (arrived : Nat) : Nat :=
  ((storeExts r).findSome? (fun k => match extOf s k with
    | none => some rcRecalled
    | some e => if servesAt e arrived then none else some (if e.code = 0 then rcRecalled else e.code))).getD 0

/-- The stamp of a block after a write: counted in a plain extent, counted within the draft in a shared region (R371). -/
def stampNext (old : BitVec 64) (draft : Option Nat) : BitVec 64 :=
  match draft with
  | none => old + 1
  | some b =>
    if old.toNat / 2 ^ 32 = b + 1 then BitVec.ofNat 64 ((b + 1) * 2 ^ 32 + (old.toNat + 1) % 2 ^ 32)
    else BitVec.ofNat 64 ((b + 1) * 2 ^ 32 + 1)

/-- The stamp of a block, moved on. -/
def stampBlock (s : State) (k : Half × Nat) (blk : Nat) (draft : Option Nat) : State :=
  extMod s k (fun e => { e with stamps := tset e.stamps blk (stampNext (tgetD e.stamps blk 0) draft) })

/-- What an access of a pool-form location meets. -/
inductive PoolSpot where
  | refused (status : Nat)
  | plain (k : Half × Nat) (e : Extent)
  | view (v : ViewExt) (r : Shared) (e : Edition)
  deriving DecidableEq, Repr

/-- Whether a request comes from another lender of the extent's set: another node than the holder's that reaches a secondary, a parity
or a parity data extent is such a lender (R373, R378 to R380; log 34). -/
def fromPeer (e : Extent) (node : Nat) : Bool := decide (2 ≤ e.role) && leasedNow e && e.borrower != node

/-- The extent, view or draft that a master of a node reaches at a half and extent index (R342, R353, R363, R365). -/
def poolSpot (s : State) (node mid : Nat) (half : Half) (ext : Nat) (write : Bool) (arrived : Nat) : PoolSpot :=
  match extOf s (half, ext) with
  | some e =>
    if fromPeer e node then .plain (half, ext) e
    else if e.region.isSome ∧ heldBy e node mid then .refused 0x20
    else
      let st := extentStatus e node mid arrived
      if st = 0 then .plain (half, ext) e else .refused st
  | none =>
    match tget s.pool.views (half, ext) with
    | none => .refused 0x20
    | some v =>
      match tget s.pool.shared v.region with
      | none => .refused 0x20
      | some r =>
        match tget r.editions v.key with
        | none => .refused 0x20
        | some e =>
          if v.node ≠ node ∨ v.mid ≠ mid ∨ (write ∧ !e.draft) then .refused 0x20
          else if regionStatus s r arrived ≠ 0 then .refused (regionStatus s r arrived)
          else .view v r e

/-! ### Reads and writes at the lender -/

/-- A poisoned line of a primary is read at the secondary, returned and rewritten; where both are lost it stays poison
(R373; log 35). -/
def repairLine (s : State) (e : Extent) (line : Nat) : State × Bool :=
  let s := emit s (.peerRead e.set 2 (line - e.base) 64)
  let ok := (Config.freeWord 10 s.free).getLsbD 0
  let s := bump s
  if ok then
    let (s, b) := farBytes s 64
    (physWrite s line b, true)
  else (s, false)

/-- The poisoned lines of a primary repaired in turn; what stays poison is answered. -/
def repairLines (s : State) (e : Extent) : List Nat → State × List Nat
  | [] => (s, [])
  | l :: r =>
    let (s, ok) := repairLine s e l
    let (s, bad) := repairLines s e r
    (s, if ok then bad else l :: bad)

/-- A read of n bytes at an address of an extent at its lender, in class 3 (R348, R373). -/
def extRead (s : State) (e : Extent) (da n : Nat) : State × Bytes × List Nat :=
  let s := chargeRead s 3 da n (.tier (daHalf da))
  let (s, b, bad) := rtRead s da n 0
  if bad.isEmpty ∨ e.role ≠ 1 ∨ e.single then (s, b, bad)
  else
    let (s, bad) := repairLines s e bad
    let (s, b, _) := rtRead s da n 0
    (s, b, bad)

/-- What a primary or a data extent sends on of a write: the bytes with the block's stamp to the secondary, or the exclusive-or of old and
new bytes to the parity extent (R372, R378), unless that is lost (R379); a SINGLE primary marks the block instead (R374). -/
def peerForward (s : State) (k : Half × Nat) (e : Extent) (off : Nat) (new old : Bytes) : State :=
  let blk := off / blockLen
  let stamp := ((extOf s k).map (fun e => tgetD e.stamps blk 0)).getD 0
  if e.role = 3 then
    if e.single then s
    else extMod (emit s (.peerWrite e.set 4 off (xorBytes new old) stamp)) k (fun e => { e with sent := e.sent + 1, ahead := e.ahead ++ [blk] })
  else if e.role = 1 then
    if e.single then extMod s k (fun e => { e with marks := if e.marks.contains blk then e.marks else e.marks ++ [blk] })
    else extMod (emit s (.peerWrite e.set 2 off new stamp)) k (fun e => { e with sent := e.sent + 1, ahead := e.ahead ++ [blk] })
  else s

/-- A write at an address of an extent at its lender, in class 3: the stamp moves on, and the other copy or the parity extent hears of
it (R371, R372, R374, R378). The difference from an uncorrectable old line is that from its bytes as they are read (DESIGN CHOICE, log
137). -/
def extWrite (s : State) (k : Half × Nat) (e : Extent) (da : Nat) (b : Bytes) (draft : Option Nat) : State :=
  let s := chargeWrite s 3 da b.length (.tier k.1)
  let s := stampBlock s k ((da - e.base) / blockLen) draft
  let (s, old) := if e.role = 3 then let r := rtRead s da b.length 3
                                     (r.1, r.2.1)
    else (s, [])
  peerForward (rtWrite s e.holder da b) k e (da - e.base) b old

/-- A block of a store copied into another in class 3; the copy begins without a stamp, and is forwarded as a write is (R366, R371, R372,
R378). -/
def blockCopy (s : State) (k : Half × Nat) (e : Extent) (a b : Nat) : State :=
  let s := chargeWrite (chargeRead s 3 a blockLen (.tier (daHalf a))) 3 b blockLen (.tier (daHalf b))
  let s := retireWhere s (daHalf a) (fun y => decide (a ≤ y.line) && decide (y.line < a + blockLen))
  let old := if e.role = 3 then cellsRead s.mem.cells b blockLen else []
  let s := extMod (dramMove s a b blockLen) k (fun e => { e with stamps := tdel e.stamps ((b - e.base) / blockLen) })
  if e.role = 1 ∨ e.role = 3 then peerForward s k e (b - e.base) (cellsRead s.mem.cells b blockLen) old else s

/-- A word of a block map as the lender's store holds it, forwarded to the secondary (R364, R372). -/
def mapForward (s : State) (r : Shared) (e : Edition) (index blk x : Nat) : State :=
  match e.mapBlocks[index]? with
  | none => s
  | some m =>
    let (k, inExt, _) := storeAt s r m
    match extOf s k with
    | none => s
    | some ext => if ext.role = 1 then peerForward s k ext (inExt * blockLen + 4 * blk) (leBytes 4 x) [] else s

/-- Editions that are no longer live are freed (R368); the one before a publish stays for the cycle of its switch tick (R370). -/
def reapEditions (r : Shared) (now : Nat) : Shared :=
  { r with editions := tfilter r.editions (fun k e => e.draft || k == r.current || decide (0 < e.opens) || r.before == some (now, k)) }

/-- The block of a data extent of a draft made its own: the first write copies it into a free store block (R366). None when
no block is free. -/
def ownBlock (s : State) (v : ViewExt) (index blk : Nat) : State × Option Nat :=
  match (tget s.pool.shared v.region).map (fun r => reapEditions r s.now) with
  | none => (s, none)
  | some r =>
    match tget r.editions v.key with
    | none => (s, none)
    | some e =>
      let from_ := storeOf e index blk
      if e.own.contains (index, blk) then (s, some from_)
      else
        match freeStore r 1 with
        | x :: _ =>
          let (_, _, a) := storeAt s r from_
          let (k, _, b) := storeAt s r x
          let s := match extOf s k with
            | none => s
            | some ext => blockCopy s k ext a b
          (sharedMod (mapForward s r e index blk x) v.region (fun r => { r with editions := tmod r.editions v.key (fun e => { e with
            map := tset e.map (index, blk) x, own := e.own ++ [(index, blk)] }) }), some x)
        | [] => (s, none)

/-- A range cut at block boundaries, as offset and length. -/
def blockCuts (off n : Nat) : List (Nat × Nat) :=
  (List.range ((off + n + blockLen - 1) / blockLen - off / blockLen)).map (fun i =>
    let lo := max off ((off / blockLen + i) * blockLen)
    (lo, min (off + n) ((off / blockLen + i + 1) * blockLen) - lo))

/-- The data extent and the block in it of an offset in a view (R365). -/
def viewBlock (v : ViewExt) (off : Nat) : Nat × Nat := (v.index + off / gib, off % gib / blockLen)

/-- Whether a store block lies in a DIVERGED extent (R376). -/
def blockDiverged (s : State) (r : Shared) (x : Nat) : Bool :=
  match extOf s (storeAt s r x).1 with
  | none => false
  | some e => !e.diverged.isEmpty

/-- A read of an edition or draft, block by block. -/
def viewRead (s : State) (v : ViewExt) (r : Shared) (e : Edition) : List (Nat × Nat) → State × Bytes × List Nat
  | [] => (s, [], [])
  | (o, n) :: rest =>
    let (k, _, a) := storeAt s r (storeOf e (viewBlock v o).1 (viewBlock v o).2)
    let da := a + o % blockLen
    let (s, b, bad) := match extOf s k with
      | none => (s, zeros n, [da])
      | some x => extRead s x da n
    let (s, b', bad') := viewRead s v r e rest
    (s, b ++ b', bad.map (fun l => l - da + o) ++ bad')

/-- A read of a parity extent by its holder: the exclusive-or of its own lines and the other three data lines, which lie elsewhere. A
line of theirs that is lost or poison makes the answer poison (R379; log 35). -/
def parityRead (s : State) (e : Extent) (off n : Nat) : State × Bytes × List Nat :=
  let (s, own, bad) := rtRead (chargeRead s 3 (e.base + off) n (.tier (daHalf e.base))) (e.base + off) n 0
  let clean := (Config.freeWord 23 s.free).getLsbD 0
  let (s, far) := farBytes (emit (bump s) (.peerRead e.set 3 off n)) n
  (s, xorBytes own far, if clean then bad else (allLines off n).map (fun i => lineOf (e.base + off) + 64 * i))

/-- A secondary that its borrowing module itself reaches is the primary now, and SINGLE (R374). -/
def promoted (s : State) (k : Half × Nat) (e : Extent) (node : Nat) : State × Extent :=
  if e.role = 2 ∧ !fromPeer e node then
    let e' : Extent := { e with role := 1, single := true }
    (extMod s k (fun _ => e'), e')
  else (s, e)

/-- A pool-form read: its STATUS, bytes, and the lines in it that are poison, numbered from the first (R348, R353, R356,
R379). -/
def poolGet (s : State) (node mid : Nat) (half : Half) (ext off n arrived : Nat) : State × Nat × Bytes × List Nat :=
  let lines (bad : List Nat) (base : Nat) : List Nat := bad.map (fun l => (l - base) / 64 - off / 64)
  if anyFenced s then (s, 0x70, zeros n, allLines off n)
  else match poolSpot s node mid half ext false arrived with
  | .refused st => (s, st, zeros n, allLines off n)
  | .plain k e =>
    if gib < off + n then (s, 0x20, zeros n, allLines off n)
    else if e.role = 4 ∧ !fromPeer e node then
      let (s, b, bad) := parityRead s e off n
      (s, if bad.isEmpty then 0 else 0x70, b, lines bad e.base)
    else
      let (s, e) := promoted s k e node
      let (s, b, bad) := extRead s e (e.base + off) n
      (s, if bad.isEmpty then 0 else 0x70, b, lines bad e.base)
  | .view v r e =>
    if (r.dataExts.length - v.index) * gib < off + n then (s, 0x20, zeros n, allLines off n)
    else if (blockCuts off n).any (fun c => blockDiverged s r (storeOf e (viewBlock v c.1).1 (viewBlock v c.1).2)) then
      (s, 0x71, zeros n, allLines off n)
    else
      let (s, b, bad) := viewRead s v r e (blockCuts off n)
      (s, if bad.isEmpty then 0 else 0x70, b, lines bad 0)

/-- A write to a draft, block by block, until one has no free store block (R366). -/
def viewWrite (s : State) (v : ViewExt) (b : Bytes) (off : Nat) : List (Nat × Nat) → State × Nat
  | [] => (s, 0)
  | (o, n) :: rest =>
    match ownBlock s v (viewBlock v o).1 (viewBlock v o).2 with
    | (s, none) => (s, 0x30)
    | (s, some x) =>
      match tget s.pool.shared v.region with
      | none => (s, 0x20)
      | some r =>
        let (k, _, a) := storeAt s r x
        let number := ((tget r.editions v.key).map (·.number)).getD 0
        if blockDiverged s r x then (s, 0x71)
        else
          let s := match extOf s k with
            | none => s
            | some e => extWrite s k e (a + o % blockLen) ((b.drop (o - off)).take n) (some number)
          viewWrite s v b off rest

/-- A forwarded write or a difference taken, in class 3: the block's stamp moves on (R371, R372, R378). Where in the flit the primary's
stamp travels the spec does not say: a secondary counts the writes itself (DESIGN CHOICE, log 137). -/
def peerPut (s : State) (k : Half × Nat) (e : Extent) (off : Nat) (b : Bytes) : State :=
  stampBlock (rtWrite (chargeWrite s 3 (e.base + off) b.length (.tier k.1)) e.holder (e.base + off) b) k (off / blockLen) none

/-- A pool-form write: its STATUS (R348, R353, R366, R372, R376, R378). A difference that reaches a parity extent is added
into it. -/
def poolPut (s : State) (node mid : Nat) (half : Half) (ext off : Nat) (b : Bytes) (arrived : Nat) : State × Nat :=
  if anyFenced s then (s, 0x70)
  else match poolSpot s node mid half ext true arrived with
  | .refused st => (s, st)
  | .plain k e =>
    if gib < off + b.length then (s, 0x20)
    else if e.role = 4 then
      if fromPeer e node then
        let (s, old, _) := rtRead s (e.base + off) b.length 3
        (peerPut s k e off (xorBytes b old), 0)
      else (s, 0x20)
    else if fromPeer e node then (peerPut s k e off b, 0)
    else
      let (s, e) := promoted s k e node
      (extWrite s k e (e.base + off) b none, 0)
  | .view v r _ =>
    if (r.dataExts.length - v.index) * gib < off + b.length then (s, 0x20)
    else viewWrite s v b off (blockCuts off b.length)

/-! ### Caps (R387) -/

/-- Whether a pair's cap lets n more bytes through in this window (R387). -/
def capAllows (s : State) (node mid n : Nat) : Bool :=
  match tget s.pool.caps (node, mid) with
  | none => true
  | some c => decide (c.used + n ≤ c.gbps * 1000) || c.used == 0

/-- Bytes served count against a pair's cap. -/
def capUse (s : State) (node mid n : Nat) : State :=
  { s with pool := { s.pool with caps := tmod s.pool.caps (node, mid) (fun c => { c with used := c.used + n }) } }

/-! ### Near-memory operations (R381 to R386) -/

/-- Whether a location of n bytes is one that a job of a master overlaps (R385): the data extents of a view follow one another. -/
def jobOverlaps (j : NearJob) (half : Half) (ext off n : Nat) : Bool :=
  let at_ := ext * gib + off
  (j.dst :: j.srcs).any (fun l => l.1 == half && decide (l.2.1 * gib + l.2.2 < at_ + n) && decide (at_ < l.2.1 * gib + l.2.2 + j.bytes))

/-- Whether a request that reached the lender at a time waits for an earlier near-memory operation of its master (R385). -/
def nearHolds (s : State) (node mid : Nat) (half : Half) (ext off n arrived : Nat) : Bool :=
  (jobsOf s .h0 ++ jobsOf s .h1).any (fun j => j.node == node && j.mid == mid && decide (j.at_ < arrived) && jobOverlaps j half ext off n)

/-- Width in bytes of an element type: FP32, BF16, INT32 (R383). -/
def nearWidth (ty : Nat) : Nat := if ty = 1 then 2 else 4

/-- A BF16 word as FP32, or the FP32 word itself (R383). -/
def nearWiden (ty w : Nat) : Nat := if ty = 1 then w * 65536 else w

/-- A maximum or minimum of two FP32 words: exact, with a NaN operand giving 0x7FC0_0000 (R383). -/
def fpPick (min : Bool) (a b : Nat) : Nat :=
  match fp32 a, fp32 b with
  | .nan, _ => nanWord
  | _, .nan => nanWord
  | .inf _, _ => if decide (orderKey b < orderKey a) = min then b else a
  | .fin _, _ => if decide (orderKey b < orderKey a) = min ∧ orderKey a ≠ orderKey b then b else a

/-- One application of a reduction's operator (R383). -/
def nearOp (ty rop a b : Nat) : Nat :=
  if ty = 2 then
    if rop = 0 then (a + b) % 2 ^ 32
    else if rop = 1 then (if signOf 32 a < signOf 32 b then b else a)
    else (if signOf 32 b < signOf 32 a then b else a)
  else if rop = 0 then fpAdd a b
  else fpPick (rop == 2) a b

/-- The word that a reduction writes: BF16 is rounded once (R61, R383). -/
def nearNarrow (ty w : Nat) : Nat := if ty = 1 then (roundOut fmtBf16 (fp32 w)).word else w

/-- One element reduced over its sources in order (R383). -/
def nearElem (ty rop : Nat) (l : List Nat) : Nat :=
  match l with
  | [] => 0
  | x :: r => nearNarrow ty (r.foldl (fun a b => nearOp ty rop a (nearWiden ty b)) (nearWiden ty x))

/-- A reduction of equal ranges, the destination first. -/
def nearReduce (ty rop n : Nat) (ranges : List Bytes) : Bytes :=
  let w := nearWidth ty
  ((List.range (n / w)).map (fun i => leBytes w (nearElem ty rop (ranges.map (fun b => leAt b (w * i) w))))).flatten

/-- The ranges of a job read at this lender: a status other than OK stops it. -/
def jobRead (s : State) (j : NearJob) : List (Half × Nat × Nat) → State × Nat × List Bytes
  | [] => (s, 0, [])
  | l :: r =>
    let (s, st, b, _) := poolGet s j.node j.mid l.1 l.2.1 l.2.2 j.bytes j.at_
    if st = 0 ∨ st = 0x70 then
      let (s, st', bs) := jobRead s j r
      (s, if st = 0 then st' else st, b :: bs)
    else (s, st, [])

/-- The pattern repeated over n bytes. -/
def patternBytes (p : BitVec 64) (n : Nat) : Bytes := ((List.range (n / 8)).map (fun _ => leBytes 8 p.toNat)).flatten

/-- The first byte at which two strings differ. -/
def firstDiff (a b : Bytes) : Option Nat := leastFrom (fun i => byteAt a i != byteAt b i) (max a.length b.length) 0

/-- What a near-memory operation does, and its result (R381, R383, R386). -/
def runJob (s : State) (j : NearJob) : State × NearJob :=
  let put (s : State) (b : Bytes) : State × NearJob :=
    let (s, st) := poolPut s j.node j.mid j.dst.1 j.dst.2.1 j.dst.2.2 b j.at_
    (s, { j with rc := st })
  match j.op with
  | 0 => put s (patternBytes j.pattern j.bytes)
  | 1 =>
    let (s, st, bs) := jobRead s j j.srcs
    if st ≠ 0 then (s, { j with rc := st }) else put s (bs.getD 0 [])
  | 2 =>
    let (s, st, bs) := jobRead s j j.srcs
    if st ≠ 0 then (s, { j with rc := st })
    else
      match firstDiff (bs.getD 0 []) (if bs.length < 2 then patternBytes j.pattern j.bytes else bs.getD 1 []) with
      | none => (s, j)
      | some i => (s, { j with outcome := 1, diffAt := i })
  | _ =>
    let (s, st, bs) := jobRead s j (j.dst :: j.srcs)
    if st ≠ 0 then (s, { j with rc := st }) else put s (nearReduce j.ty j.rop j.bytes bs)

/-- Whether a request of a job's caller to its ranges that reached the lender before it has not been served yet (R385). -/
def nearEarlier (s : State) (j : NearJob) : Bool :=
  s.link.ports.any (fun p => p.2.flow.inbox.any (fun f => decide (f.arrived ≤ j.at_) && f.src == j.node
    && ((sessOf s (f.src, f.sid)).map (·.remoteMid)) == some j.mid
    && (flitSpots f).any (fun x => jobOverlaps j x.1.1 x.1.2.1 x.1.2.2 x.2)))

/-- Bytes that a job reads and writes at its pool engine (R384). -/
def jobBytes (j : NearJob) : Nat :=
  j.bytes * (match j.op with
    | 0 => 1
    | 1 => 2
    | 2 => j.srcs.length
    | _ => j.srcs.length + 2)

/-- A half's pool engine changed. -/
def engineMod (s : State) (h : Half) (f : Option NearJob × List NearJob → Option NearJob × List NearJob) : State :=
  { s with pool := { s.pool with engine := s.pool.engine.mod h f } }

/-- NEAR_OP_START (R384, R385): the next job in accepted order runs, in class 3, once its caller's earlier requests to its ranges are
served and the class is below its cap at the pool engine (R501). -/
def execNearOpStart (half : Half) (s : State) : Out :=
  match s.pool.engine.get half with
  | (some _, _) => .next s
  | (none, []) => .next s
  | (none, j :: r) =>
    if nearEarlier s j then .next s else
    if !capOpen s 3 [22 + halfNum half] then .next s else
    let s := charge (engineMod s half (fun _ => (none, r))) (22 + halfNum half) 3 (jobBytes j)
    let (s, j) := runJob s j
    .next (engineMod s half (fun q => (some j, q.2)))

/-- NEAR_OP_END (R381, R384): the running job ends, and its command completes. -/
def execNearOpEnd (half : Half) (s : State) : Out :=
  match s.pool.engine.get half with
  | (none, _) => .next s
  | (some j, r) =>
    let s := engineMod s half (fun _ => (none, r))
    .next (completeSrc s j.src j.rc (if j.rc = 0 then [.u 1 j.outcome, .u 8 j.diffAt] else []))

/-! ### Verification and resynchronisation (R374 to R376, R380) -/

/-- Bytes of an extent are read and sent to its secondary with the stamp of their block. -/
def rangeSend (s : State) (k : Half × Nat) (e : Extent) (cls off n : Nat) (stamp : BitVec 64) : State :=
  let (s, b, _) := rtRead (chargeRead s cls (e.base + off) n (.tier k.1)) (e.base + off) n 0
  emit s (.peerWrite e.set 2 off b stamp)

/-- A block of a primary sent to its secondary in class 3, with its stamp (R374 to R376). -/
def blockSend (s : State) (k : Half × Nat) (e : Extent) (cls blk : Nat) : State :=
  rangeSend s k e cls (blk * blockLen) blockLen (tgetD e.stamps blk 0)

/-- The blocks that a SINGLE primary copies before it is mirrored again (R374): the marked ones where the same secondary returns, all of
them to a new one. Which it is the primary is not told: a free value (log 138). -/
def resyncBlocks (s : State) (e : Extent) : List Nat :=
  if (Config.freeWord 21 s.free).getLsbD 0 then e.marks else List.range blocksPerExt

/-- MIRROR_RESYNC_END (R374): the copy ends, and the extent is mirrored again. At the borrowing module, a SINGLE handle of such an extent
that has a secondary again is LIVE (log 138). -/
def execMirrorResyncEnd (half : Half) (ext : Nat) (s : State) : Out :=
  let again (h : Handle) : Handle :=
    if h.protect = 1 ∧ h.state = .single ∧ h.secondary.isSome ∧ h.half = half ∧ h.ext = ext then { h with state := .live } else h
  let s := { s with pool := { s.pool with handles := tmap s.pool.handles (fun _ h => again h) } }
  match extOf s (half, ext) with
  | none => .next s
  | some e =>
    if e.role = 1 ∧ e.single then
      let s := (resyncBlocks s e).foldl (fun s blk => blockSend s (half, ext) e 3 blk) (bump s)
      .next (extMod s (half, ext) (fun e => { e with single := false, marks := [] }))
    else .next s

/-- One cycle of what other lenders do for this one: a forwarded write is taken, or the other copy proves lost, which makes a primary
SINGLE with what it had not taken marked, and lets a parity data extent go on without parity; when, is a free value (R362, R372, R374,
R378, R379; log 138). -/
def peerStep (s : State) (k : Half × Nat) : State :=
  match extOf s k with
  | none => s
  | some e =>
    if e.sent ≤ e.taken ∨ e.single then s
    else
      let f := Config.freeWord 22 s.free
      let s := bump s
      if f.getLsbD 0 then extMod s k (fun e => { e with taken := e.taken + 1, ahead := e.ahead.drop 1 })
      else if f.getLsbD 1 ∧ e.role = 1 then
        extMod s k (fun e => { e with single := true, marks := e.ahead.eraseDups, ahead := [] })
      else if f.getLsbD 1 ∧ e.role = 3 then extMod s k (fun e => { e with single := true, ahead := [] })
      else s

/-- Every extent's forwarded writes in a cycle, and the completions that this makes due. -/
def peerTick (s : State) : State :=
  if s.pool.waits.isEmpty ∧ s.pool.extents.all (fun p => decide (p.2.sent ≤ p.2.taken)) then s
  else
    let s := (s.pool.extents.map (·.1)).foldl peerStep s
    waitsGo s.pool.waits s

/-- What MIRROR_VERIFY does with the secondary's copy of a block: the older copy is rewritten, or the extent diverges
(R375). -/
def verifyBlock (s : State) (k : Half × Nat) (e : Extent) (blk : Nat) (other : Bytes) (stamp : BitVec 64) : State :=
  let da := e.base + blk * blockLen
  let (s, mine, _) := rtRead (chargeRead s 6 da blockLen (.tier k.1)) da blockLen 0
  let own := tgetD e.stamps blk 0
  if Config.sm3 mine = Config.sm3 other then s
  else if own < stamp then
    extMod (chargeWrite (rtWrite s e.holder da other) 6 da blockLen (.tier k.1)) k (fun e => { e with stamps := tset e.stamps blk stamp })
  else if stamp < own then emit s (.peerWrite e.set 2 (blk * blockLen) mine own)
  else
    logNow (extMod s k (fun e => { e with diverged := e.diverged ++ [blk] }))
      { kind := 0x0403, severity := 3, location := extCode k, detail0 := blk, detail1 := own.toNat }

/-- MIRROR_VERIFY (R375). -/
def execMirrorVerify (half : Half) (ext block : Nat) (secondary : RemoteRead) (stamp : BitVec 64) (s : State) : Out :=
  match extOf s (half, ext) with
  | none => .next s
  | some e =>
    if e.role = 1 ∧ leasedNow e ∧ !e.single ∧ block < blocksPerExt then
      match secondary with
      | .data b false => .next (verifyBlock s (half, ext) e block (fit blockLen b) stamp)
      | .data _ true => .next s
      | .none => .next s
      | .refused _ => .next s
      | .unanswered => .next s
    else .next s

/-- The lines of a parity set's data extents, when all came clean. -/
def cleanLines (l : List RemoteRead) : Option (List Bytes) :=
  l.mapM (fun r => match r with
    | .data b false => some (fit 64 b)
    | .data _ true => none
    | .none => none
    | .refused _ => none
    | .unanswered => none)

/-- A line of a parity extent against the exclusive-or of the data lines: one that differs is rewritten, counted and logged
(R380). -/
def parityCheck (s : State) (k : Half × Nat) (e : Extent) (off : Nat) (sum : Bytes) : State :=
  let (s, old, bad) := rtRead (chargeRead s 6 (e.base + off) 64 (.tier k.1)) (e.base + off) 64 0
  if bad.isEmpty ∧ old ≠ sum then
    let s := rtWrite s e.holder (e.base + off) sum
    let s := { s with ras := { s.ras with ce := s.ras.ce + 1 } }
    logCorrected s k.1 (stamped s { kind := 0x0404, severity := 1, location := extCode k, detail0 := off })
  else s

/-- PARITY_VERIFY (R380): a parity line that differs from its data is rewritten, counted and logged. -/
def execParityVerify (half : Half) (ext line : Nat) (dataLines : List RemoteRead) (s : State) : Out :=
  match extOf s (half, ext), cleanLines dataLines with
  | some e, some ls =>
    if e.role = 4 ∧ leasedNow e ∧ ls.length = 4 ∧ line < gib / 64 then
      .next (parityCheck s (half, ext) e (64 * line) (ls.foldl xorBytes (zeros 64)))
    else .next s
  | some _, none => .next s
  | none, _ => .next s

end Sys2Proof.Machine
end

