-- ==== Sys2Proof/Machine/PoolBorrower.lean ====
section
/-! DEFINITION. The lending pool at the borrowing module: forwarded commands, grants and requests, handles, mirrors and
parity sets (R339, R343 to R347, R355, R358, R374, R379, R389, R538, R539). -/

namespace Sys2Proof.Machine

/-! ### Forwarding (R339, R538, R576) -/

/-- The 256 bytes of a forwarded message: opcode, LENGTH and PARAMS, with FLAGS zero (R525, R538). -/
def forwardMsg (op : Nat) (vals : List Val) : Bytes :=
  let p := packVals vals
  fit 256 (leBytes 2 op ++ leBytes 2 p.length ++ zeros 28 ++ p)

/-- A DESK message for a master leaves for a node (R538). -/
def deskSend (s : State) (node mid op : Nat) (vals : List Val) : State :=
  msgSend s node msgDesk (leBytes 2 (nodeId s) ++ leBytes 2 mid ++ forwardMsg op vals)

/-- Part of a command is forwarded to a lender, and the command waits for its answer. -/
def forwardPart (s : State) (c : RunCmd) (node : Nat) (idx : List Nat) (op : Nat) (vals : List Val) : State :=
  let s := deskSend s node c.mid op vals
  cmdWait { s with cp := { s.cp with fwdOut := s.cp.fwdOut ++ [{ src := c.src, node := node, op := op, idx := idx }] } } c.src

/-- A command with no part outstanding completes with the first code that was not DONE. -/
def forwardDone (s : State) (src : DeskSrc) (vals : RunCmd → List Val) : State :=
  match cmdOf s src with
  | none => s
  | some c => if s.cp.fwdOut.any (fun f => f.src == src) then s else complete s c c.rcs (vals c)

/-- A running command changed. -/
def runMod (s : State) (src : DeskSrc) (f : RunCmd → RunCmd) : State :=
  { s with cp := { s.cp with running := s.cp.running.map (fun c => if c.src = src then f c else c) } }

/-! ### Handles (R347, R355) -/

/-- A handle changed. -/
def handleMod (s : State) (h : Nat) (f : Handle → Handle) : State :=
  { s with pool := { s.pool with handles := tmod s.pool.handles h f } }

/-- Handles that an entry covers. -/
def handleSpan (h : Handle) : Nat := handleLen h / gib

/-- Whether a handle number is taken: by an entry, or kept for a parity set or mirror under way. -/
def handleTaken (s : State) (n : Nat) : Bool :=
  s.pool.handles.any (fun p => decide (p.1 ≤ n) && decide (n < p.1 + handleSpan p.2))
    || s.pool.requests.any (fun r => r.2.state == 0 && r.2.comps.any (fun c =>
      decide (c.handle - (if r.2.protect = 2 ∧ c.role = 3 then c.index else 0) ≤ n)
        && decide (n < c.handle - (if r.2.protect = 2 ∧ c.role = 3 then c.index else 0) + (if r.2.protect = 2 then 4 else 1))))

/-- Whether a handle number may be given out: free, and not released within the last 65 s (R347). -/
def handleFree (s : State) (n : Nat) : Bool :=
  !handleTaken s n && (match tget s.pool.freedAt n with
    | none => true
    | some t => decide (t + secT 65 ≤ s.now))

/-- The lowest handle from 1 to 0x3F_FFFF from which n in a row may be given out (R347). -/
def handleRun (s : State) (n : Nat) : Option Nat :=
  leastFrom (fun h => (List.range n).all (fun i => handleFree s (h + i))) (2 ^ 22 - n) 1

/-- A handle is freed; its numbers stay unassigned for 65 s (R347, R355). -/
def freeHandle (s : State) (n : Nat) : State :=
  match tget s.pool.handles n with
  | none => s
  | some h =>
    { s with pool := { s.pool with
        handles := tdel s.pool.handles n
        freedAt := (List.range (handleSpan h)).foldl (fun t i => tset t (n + i) s.now) s.pool.freedAt } }

/-- The components that a handle stands for: lender node and extent. -/
def handleParts (h : Handle) : List (Nat × Half × Nat) :=
  (h.node, h.half, h.ext) :: (if h.protect = 1 then h.secondary.toList else [])

/-- EXTENT_RETURN for a master sent to a lender without a command that waits (R346, R358). -/
def returnPart (s : State) (mid : Nat) (p : Nat × Half × Nat) : State :=
  deskSend s p.1 mid 0x0606 [.u 4 (extCode p.2)]

/-- The parity extent of a set is returned with the last of its data extents. -/
def parityParts (s : State) (n : Nat) (h : Handle) : List (Nat × Half × Nat) :=
  if h.protect = 2 ∧ s.pool.handles.all (fun p => p.1 == n || p.2.set != h.set || p.2.protect != 2) then h.secondary.toList
  else []

/-- Every extent held by a master is returned, and its views closed (R358). -/
def returnMaster (s : State) (mid : Nat) : State :=
  (s.pool.handles.filter (fun p => p.2.master == mid)).foldl (fun s p =>
    let live := p.2.state != .recalled && p.2.state != .expired
    let s' := freeHandle s p.1
    if p.2.view.isSome then deskSend s' p.2.node mid 0x060B [.u 4 (extCode (p.2.half, p.2.ext))]
    else if live then (handleParts p.2 ++ parityParts s p.1 p.2).foldl (fun s x => returnPart s mid x) s'
    else s') s

/-- HANDLE_FREE_TIMEOUT (R355): 65 s after the notice the handle is free. -/
def execHandleFreeTimeout (handle : Nat) (s : State) : Out :=
  match tget s.pool.handles handle with
  | none => .next s
  | some h =>
    match h.noticeAt with
    | none => .next s
    | some t =>
      if (h.state = .recalled ∨ h.state = .expired) ∧ t + secT 65 ≤ s.now then .next (freeHandle s handle) else .next s

/-! ### Requests and grants (R343 to R346) -/

/-- Sets that a request needs: units of one extent, of two copies, or of five components. -/
def unitsOf (r : PoolReq) : Nat := if r.protect = 2 then r.count / 4 else r.count

/-- Roles of a unit as role and index. -/
def unitRoles (protect : Nat) : List (Nat × Nat) :=
  match protect with
  | 0 => [(0, 0)]
  | 1 => [(1, 0), (2, 0)]
  | _ => [(3, 0), (3, 1), (3, 2), (3, 3), (4, 0)]

/-- The components of a set that a request has. -/
def setComps (r : PoolReq) (set : Nat) : List Comp := r.comps.filter (fun c => c.unitIdx == set)

/-- Whether a set of a request is complete. -/
def setFull (r : PoolReq) (set : Nat) : Bool :=
  (unitRoles r.protect).all (fun x => (setComps r set).any (fun c => c.role == x.1 && c.index == x.2))

/-- The sets that a request has begun. -/
def setsOf (r : PoolReq) : List Nat := (r.comps.map (·.unitIdx)).eraseDups

/-- A grant message: request, role with index, set, lender extent, duration (R450; log 33). -/
structure GrantMsg where
  request : Nat
  role : Nat
  index : Nat
  set : Nat
  ext : Nat
  deriving DecidableEq, Repr

/-- The body of GRANT (R450): request number, role with its index above it, set number, extent index, DURATION. -/
def grantBody (request role index set ext : Nat) : Bytes :=
  leBytes 4 request ++ leBytes 1 (role + 16 * index) ++ zeros 1 ++ leBytes 2 set ++ leBytes 2 ext ++ zeros 2 ++ zeros 4

/-- GRANT as received. -/
def parseGrant (b : Bytes) : GrantMsg :=
  { request := leAt b 0 4, role := leAt b 4 1 % 16, index := leAt b 4 1 / 16, set := leAt b 6 2, ext := leAt b 8 2 }

/-- Whether a role is still open in a pending request, on a lender that holds no other component of the set (R344,
R345). -/
def roleOpen (r : PoolReq) (node : Nat) (g : GrantMsg) : Bool :=
  r.state == 0 && (unitRoles r.protect).contains (g.role, g.index) &&
  (if r.protect = 0 then decide (r.comps.length < r.count)
   else
     ((setsOf r).contains g.set || decide ((setsOf r).length < unitsOf r))
       && (setComps r g.set).all (fun c => !(c.role == g.role && c.index == g.index) && c.node != node))

/-- What names a mirror or parity set at this module: its request and the set's number in it (R343, R450; log 33). -/
def setKey (request set : Nat) : Nat := request * 2 ^ 16 + set

/-- The handles of a unit once all its components are accepted (R344, R347). -/
def unitHandles (r : PoolReq) (request now : Nat) (comps : List Comp) : List (Nat × Handle) :=
  let find (role index : Nat) : Option Comp := comps.find? (fun c => c.role == role && c.index == index)
  let make (c : Comp) (sec : Option Comp) (set : Option Nat) : Nat × Handle :=
    (c.handle, { master := r.master, request := request, protect := r.protect, node := c.node, half := c.half, ext := c.ext,
                 secondary := sec.map (fun x => (x.node, x.half, x.ext)), set := set, due := now + msT r.duration })
  match r.protect with
  | 0 => comps.map (fun c => make c none none)
  | 1 => (find 1 0).toList.map (fun c => make c (find 2 0) (some (setKey request c.unitIdx)))
  | _ => (List.range 4).filterMap (fun i => (find 3 i).map (fun c => make c (find 4 0) (some (setKey request c.unitIdx))))

/-- Handles entered into the table. -/
def putHandles (s : State) (l : List (Nat × Handle)) : State :=
  { s with pool := { s.pool with handles := l.foldl (fun t p => tset t p.1 p.2) s.pool.handles } }

/-- The handle number of a new component: that of its set where it has begun (R347). -/
def compHandle (s : State) (r : PoolReq) (g : GrantMsg) : Option Nat :=
  let base := if r.protect = 0 then none
    else ((setComps r g.set).head?).map (fun c => if c.role = 3 then c.handle - c.index else c.handle)
  match base with
  | some b => some (if g.role = 3 then b + g.index else b)
  | none => (handleRun s (if r.protect = 2 then 4 else 1)).map (fun b => if g.role = 3 then b + g.index else b)

/-- The body of ACCEPT (R450): request number and handle, then the holder's master ID and the DURATION that the lender
needs for the lease (log 33). -/
def acceptBody (request handle mid duration : Nat) : Bytes :=
  leBytes 4 request ++ leBytes 4 handle ++ leBytes 2 mid ++ zeros 2 ++ leBytes 4 duration

/-- A component accepted into a pending request: its handle assigned, ACCEPT sent, and the unit and the request completed
where it was the last (R344). -/
def acceptComp (s : State) (node : Nat) (r : PoolReq) (g : GrantMsg) (h : Nat) : State :=
  let k := codeExt g.ext
  let unit := if r.protect = 0 then r.comps.length else g.set
  let c : Comp := { unitIdx := unit, role := g.role, index := g.index, node := node, half := k.1, ext := k.2, handle := h }
  let r := { r with comps := r.comps ++ [c] }
  let s := if setFull r unit then putHandles s (unitHandles r g.request s.now (setComps r unit)) else s
  let done := (setsOf r).length = unitsOf r ∧ (setsOf r).all (setFull r)
  let r := if done then { r with state := 1, doneAt := s.now } else r
  let s := if setFull r unit ∧ r.protect = 2 then
      { s with pool := { s.pool with parity := tset s.pool.parity (setKey g.request g.set) .normal } } else s
  let s := { s with pool := { s.pool with requests := tset s.pool.requests g.request r } }
  poolOpen (msgSend s node 0x11 (acceptBody g.request h r.master r.duration)) node r.master

/-- The handles of a parity set, in order of their data extents. -/
def setHandles (s : State) (set : Nat) : List Nat :=
  ((s.pool.handles.filter (fun p => p.2.protect == 2 && p.2.set == some set)).map (·.1)).mergeSort (· ≤ ·)

/-- Whether a node holds a component of a set of a request that is not lost (R345, R377). -/
def setOn (s : State) (request set node : Nat) : Bool :=
  s.pool.handles.any (fun p => p.2.set == some (setKey request set)
    && ((!p.2.lost && p.2.node == node) || (p.2.secondary.map (·.1)) == some node))

/-- A replacement for a lost component of a mirror or parity set (R345, R374, R377, R379): the handle that takes it. The lender holds no
other component of the set, and the role and index are those of what is lost. -/
def replaceFor (s : State) (node : Nat) (g : GrantMsg) : Option (Nat × Handle) :=
  if setOn s g.request g.set node then none
  else s.pool.handles.find? (fun p =>
    let h := p.2
    h.set == some (setKey g.request g.set) &&
    (if h.protect = 1 then g.role == 2 && h.state == .single && h.secondary.isNone
     else if g.role = 3 then h.lost && h.state == .degraded && (setHandles s (setKey g.request g.set))[g.index]? == some p.1
     else g.role == 4 && h.secondary.isNone && h.state == .degraded))

/-- A replacement component taken into its handles, and ACCEPT sent. The handle stays SINGLE or DEGRADED until the copy or the rebuild
ends (R374, R379). -/
def acceptReplacement (s : State) (node : Nat) (g : GrantMsg) (n : Nat) (h : Handle) : State :=
  let k := codeExt g.ext
  let s := if g.role = 3 then handleMod s n (fun h => { h with node := node, half := k.1, ext := k.2 })
    else { s with pool := { s.pool with handles := tmap s.pool.handles (fun _ x =>
      if x.set = h.set ∧ x.request = h.request then { x with secondary := some (node, k.1, k.2) } else x) } }
  poolOpen (msgSend s node 0x11 (acceptBody g.request n h.master ((h.due - s.now) / msT 1))) node h.master

/-- The oldest message of a code from a node, with the state without it (R450). -/
def takeMsg (s : State) (code : Nat) : Option (Message × State) :=
  match s.link.msgs.find? (fun m => m.code == code) with
  | none => none
  | some m => some (m, { s with link := { s.link with msgs := s.link.msgs.erase m } })

/-- GRANT_MESSAGE (R344, R345). -/
def execGrantMessage (s : State) : Out :=
  match takeMsg s 0x10 with
  | none => .next s
  | some (m, s) =>
    let g := parseGrant m.body
    let refuse (s : State) := msgSend s m.node 0x12 (leBytes 4 g.request ++ leBytes 2 rcConflict)
    match replaceFor s m.node g with
    | some (n, h) => .next (acceptReplacement s m.node g n h)
    | none =>
      match tget s.pool.requests g.request with
      | none => .next (refuse s)
      | some r =>
        if roleOpen r m.node g then
          match compHandle s r g with
          | some h => .next (acceptComp s m.node r g h)
          | none => .next (refuse s)
        else .next (refuse s)

/-- The oldest extent in GRANTING for a request of a node. -/
def grantingFor (s : State) (node request : Nat) : Option ((Half × Nat) × Extent) :=
  s.pool.extents.find? (fun p => p.2.state == .granting && p.2.borrower == node && p.2.request == request)

/-- GRANT_ACCEPT (R344, R350): the extent is LEASED, and EXTENT_GRANT completes. One whose package has failed meanwhile drains at once
(R654). -/
def execGrantAccept (s : State) : Out :=
  match takeMsg s 0x11 with
  | none => .next s
  | some (m, s) =>
    match grantingFor s m.node (leAt m.body 0 4) with
    | none => .next s
    | some (k, e) =>
      let ms := leAt m.body 12 4
      let s := extMod s k (fun e => { e with state := .leased, holder := leAt m.body 8 2 % 4096, duration := ms,
                                             due := s.now + msT ms, src := none })
      let s := if e.withdraw ∧ (s.halves.get k.1).t2Failing then sendNotice (enterDraining s k rcRecalled) { e with state := .leased } k rcRecalled
        else s
      .next (match e.src with
        | some src => completeSrc s src rcDone [.u 2 (extCode k)]
        | none => s)

/-- GRANT_REFUSE (R345, R350): the extent is erased, and EXTENT_GRANT ends with the code. -/
def execGrantRefuse (s : State) : Out :=
  match takeMsg s 0x12 with
  | none => .next s
  | some (m, s) =>
    match grantingFor s m.node (leAt m.body 0 4) with
    | none => .next s
    | some (k, e) =>
      let s := enterErasing s k
      .next (match e.src with
        | some src => completeSrc s src (leAt m.body 4 2) []
        | none => s)

/-- A pending request ends NO_SPACE: components of incomplete units are returned, and their handles released (R346, R347). -/
def requestEnd (s : State) (request : Nat) (r : PoolReq) : State :=
  let back := r.comps.filter (fun c => !setFull r c.unitIdx)
  let r' : PoolReq := { r with state := 2, doneAt := s.now }
  let s := { s with pool := { s.pool with
    requests := tset s.pool.requests request r'
    freedAt := back.foldl (fun t c => tset t c.handle s.now) s.pool.freedAt } }
  back.foldl (fun s c => returnPart s r.master (c.node, c.half, c.ext)) s

/-- REQUEST_TIMEOUT (R346). -/
def execRequestTimeout (request : Nat) (s : State) : Out :=
  match tget s.pool.requests request with
  | none => .next s
  | some r => if r.state = 0 ∧ r.timeoutAt ≤ s.now then .next (requestEnd s request r) else .next s

/-! ### Loss of a component (R374, R379) -/

/-- The requests outstanding on an address range of a handle are taken off their sessions and sent again to the handle's
present primary, in their order (R374). -/
def reissue (s : State) (n : Nat) : State :=
  match tget s.pool.handles n with
  | none => s
  | some h =>
    let inHandle (o : Outst) : Bool := daRange o.addr == 3 && decide (n * gib ≤ daOff o.addr) && decide (daOff o.addr < (n + 1) * gib)
    let mine := (s.link.sessions.map (fun p => p.2.outstanding.filter inHandle)).flatten
    let s := { s with link := { s.link with sessions := tmap s.link.sessions (fun _ x =>
      { x with outstanding := x.outstanding.filter (fun o => !inHandle o) }) } }
    (mine.mergeSort (fun a b => decide (a.sentAt ≤ b.sentAt))).foldl (fun s o =>
      if o.write then poolWrite s o.cls o.mid h.node h.half h.ext (daOff o.addr % gib) o.data o.addr
      else poolRead s o.mid h.node h.half h.ext (daOff o.addr % gib) (64 * o.lines) true o.addr) s

/-- A component of a mirrored extent is lost (R374): the extent runs SINGLE on what is left, or has failed. -/
def mirrorLoss (s : State) (n : Nat) (part : MirrorPart) : State :=
  match tget s.pool.handles n with
  | none => s
  | some h =>
    if h.protect ≠ 1 then s
    else
      match part, h.secondary with
      | .secondary, some _ => handleMod s n (fun h => { h with secondary := none, state := .single })
      | .secondary, none => s
      | .primary, some (node, half, ext) =>
        reissue (handleMod s n (fun h => { h with node := node, half := half, ext := ext, secondary := none, state := .single })) n
      | .primary, none => handleMod s n (fun h => { h with state := .failed, lost := true })

/-- MIRROR_COMPONENT_LOSS (R374). -/
def execMirrorComponentLoss (handle : Nat) (part : MirrorPart) (s : State) : Out := .next (mirrorLoss s handle part)

/-- A parity set takes a state: its handles show it (R379, R577). -/
def paritySet (s : State) (set : Nat) (st : ParityState) : State :=
  let hs : HandleState := match st with
    | .normal => .live
    | .degraded _ => .degraded
    | .failed => .failed
  let s := { s with pool := { s.pool with parity := tset s.pool.parity set st } }
  (setHandles s set).foldl (fun s n => handleMod s n (fun h =>
    { h with state := if h.state = .recalled ∨ h.state = .expired then h.state else hs })) s

/-- A component of a parity set is lost: 0 to 3 a data extent, 4 the parity extent (R379). -/
def parityLoss (s : State) (set index : Nat) : State :=
  let mark (s : State) : State :=
    if index < 4 then
      match (setHandles s set)[index]? with
      | none => s
      | some n => handleMod s n (fun h => { h with lost := true })
    else { s with pool := { s.pool with handles := tmap s.pool.handles (fun _ h =>
      if h.protect = 2 ∧ h.set = some set then { h with secondary := none } else h) } }
  match tget s.pool.parity set with
  | none => s
  | some .normal => paritySet (mark s) set (.degraded index)
  | some (.degraded i) => if i = index then s else paritySet (mark s) set .failed
  | some .failed => mark s

/-- PARITY_COMPONENT_LOSS (R379). -/
def execParityComponentLoss (set index : Nat) (s : State) : Out :=
  if index < 5 then .next (parityLoss s set index) else .next s

/-- Bytes of a component are formed anew from those of the others: they are stored here where this component is index 4, and else
sent to the component that holds P. -/
def rebuildRange (s : State) (k : Half × Nat) (e : Extent) (index off n : Nat) : State :=
  let (s, far) := farBytes (emit s (.peerRead e.set 3 off n)) n
  if index = 4 then rtWrite (chargeWrite s 3 (e.base + off) n (.tier k.1)) e.holder (e.base + off) far
  else
    let (s, own, _) := rtRead (chargeRead s 3 (e.base + off) n (.tier k.1)) (e.base + off) n 3
    emit s (.peerWrite e.set 3 off (xorBytes own far) 0)

/-- A block rebuilt at the parity lender in class 3: a data block into its replacement from the parity and the other three, or the
parity block from the four (R379). -/
def rebuildBlock (s : State) (k : Half × Nat) (e : Extent) (index blk : Nat) : State :=
  rebuildRange s k e index (blk * blockLen) blockLen

/-- What the end of a rebuild means at a lender of the set: the parity lender has rebuilt every block, and a parity data extent sends
its differences again once there is a parity extent (R379). -/
def rebuildHere (s : State) (set index : Nat) : State :=
  (s.pool.extents.filter (fun p => leasedNow p.2 && setKey p.2.request p.2.set == set)).foldl (fun s p =>
    if p.2.role = 4 then (List.range blocksPerExt).foldl (fun s blk => rebuildBlock s p.1 p.2 index blk) s
    else if p.2.role = 3 ∧ index = 4 then extMod s p.1 (fun e => { e with single := false, sent := 0, taken := 0 })
    else s) s

/-- PARITY_REBUILD_END (R379): the replacement is rebuilt, and the set is NORMAL. -/
def execParityRebuildEnd (set index : Nat) (s : State) : Out :=
  let s := rebuildHere s set index
  match tget s.pool.parity set with
  | some (.degraded i) =>
    if i = index then
      let s := match (setHandles s set)[index]? with
        | some n => handleMod s n (fun h => { h with lost := false })
        | none => s
      .next (paritySet s set .normal)
    else .next s
  | some .normal => .next s
  | some .failed => .next s
  | none => .next s

/-! ### Notices (R355) -/

/-- A notice for one handle: an unprotected handle, and a mirrored one of which it is the last copy, enters the code's state; any other
protected one has lost a component (R355, R374, R379, R654). -/
def noticeHandle (s : State) (node : Nat) (k : Half × Nat) (code : Nat) (n : Nat) (h : Handle) : State :=
  let primary := h.node == node && (h.half, h.ext) == k
  if h.protect = 0 then
    if primary then handleMod s n (fun h => { h with
      state := if code = rcLeaseExpired then .expired else .recalled, noticeAt := some s.now })
    else s
  else if h.protect = 1 then
    if primary ∧ h.secondary.isNone then handleMod s n (fun h => { h with
      state := if code = rcLeaseExpired then .expired else .recalled, noticeAt := some s.now })
    else if primary then mirrorLoss s n .primary
    else if h.secondary = some (node, k) then mirrorLoss s n .secondary
    else s
  else
    match h.set with
    | none => s
    | some set =>
      if primary then parityLoss s set (((setHandles s set).findIdx? (· == n)).getD 0)
      else if h.secondary = some (node, k) then parityLoss s set 4
      else s

/-- NOTICE_RECEIVE (R355). -/
def execNoticeReceive (s : State) : Out :=
  match takeMsg s 0x13 with
  | none => .next s
  | some (m, s) =>
    let k := codeExt (leAt m.body 0 2)
    .next ((s.pool.handles.filter (fun p => p.2.view.isNone)).foldl (fun s p => noticeHandle s m.node k (leAt m.body 2 2) p.1 p.2) s)

/-! ### The request window (R389) -/

/-- POOL_WINDOW_ADJUST (R389): at the end of a ledger window the window of a lender follows the latest LOAD received from it; with none
received yet it stays (DEDUCED, log 36). -/
def execPoolWindowAdjust (lender : Nat) (s : State) : Out :=
  if tgetD s.pool.adjusted lender 0 < s.now / 16000 then
    let w := tgetD s.pool.window lender 1024
    let w := match tget s.pool.load lender with
      | none => w
      | some load => if load = 3 then max 64 (w / 2) else if load = 2 then w else min 4096 (w + 128)
    let s := { s with pool := { s.pool with window := tset s.pool.window lender w
                                            adjusted := tset s.pool.adjusted lender (s.now / 16000) } }
    .next (lenderGo s lender)
  else .next s

/-! ### Answers to forwarded commands -/

/-- What a lender's answer to part of a LEASE_RENEW adds to the statuses of its command (R573). -/
def mergeStatus (acc : Bytes) (idx : List Nat) (rc : Nat) (st : Bytes) : Bytes :=
  idx.zipIdx.foldl (fun a x =>
    let v := if st.isEmpty then BitVec.ofNat 8 rc else byteAt st x.2
    if byteAt a x.1 = 0 then a.set x.1 v else a) acc

/-- The code of a LEASE_RENEW from its statuses (R573). -/
def statusCode (st : Bytes) : Nat := ((st.find? (· != 0)).map BitVec.toNat).getD rcDone

/-- An opened view or draft enters the handle table (R347, R365): the lender's BASE names the extent index and half of
data extent 0 and, above, the number of data extents (log 33). -/
def openView (s : State) (c : RunCmd) (node : Nat) (base edition : Nat) : State × Option Nat :=
  let n := base / 2 ^ 16
  match handleRun s n with
  | none => (s, none)
  | some h =>
    let k := codeExt (base % 2 ^ 16)
    (putHandles s [(h, { master := c.mid, request := 0, protect := 0, node := node, half := k.1, ext := k.2,
                         view := some (edition, n, arg c 1 == 2) })], some h)

/-- The handles of a command's lists, where it names shared-region handles in BUF_IN; they were kept as it was sent. -/
def keptHandles (c : RunCmd) : List Nat := (List.range (c.acc.length / 4)).map (fun i => leAt c.acc (4 * i) 4)

/-- An answer to part of a command acts on it (R339, R538). -/
def answerPart (s : State) (f : FwdOut) (c : RunCmd) (rc : Nat) (result : Bytes) : State :=
  let s := runMod s c.src (fun c => { c with rcs := if c.rcs = 0 then rc else c.rcs })
  match f.op with
  | 0x0604 =>
    let n := arg c 0
    let acc := mergeStatus c.acc f.idx rc result
    let s := runMod s c.src (fun c => { c with acc := acc, rcs := statusCode (acc.take n) })
    let s := f.idx.foldl (fun s i =>
      if byteAt acc i = 0 then handleMod s (leAt acc (n + 4 * i) 4) (fun h => { h with due := s.now + msT (arg c 1) }) else s) s
    forwardDone s c.src (fun c => [.b (c.acc.take n)])
  | 0x0608 =>
    let last := !(s.cp.fwdOut.any (fun x => x.src == c.src))
    let rc' := ((cmdOf s c.src).map (·.rcs)).getD rc
    let s := if last ∧ rc' = 0 then
        (keptHandles c).foldl (fun s n => handleMod s n (fun h => { h with shared := true })) s
      else s
    forwardDone s c.src (fun c => if c.rcs = 0 then [.u 4 (leAt result 0 4)] else [])
  | 0x0609 =>
    if rc ≠ 0 then forwardDone s c.src (fun _ => [])
    else
      match openView (poolOpen s f.node c.mid) c f.node (leAt result 0 4) (leAt result 4 4) with
      | (s, none) => completeSrc s c.src rcNoSpace []
      | (s, some h) => completeSrc s c.src rcDone [.u 4 h, .u 4 (leAt result 4 4)]
  | 0x060A =>
    let s := if rc = 0 then handleMod s (arg c 0) (fun h => { h with
      view := h.view.map (fun v => (leAt result 0 4, v.2.1, false)) }) else s
    forwardDone s c.src (fun c => if c.rcs = 0 then [.u 4 (leAt result 0 4)] else [])
  | 0x060C => forwardDone s c.src (fun c => if c.rcs = 0 then [.u 1 (leAt result 0 1), .u 8 (leAt result 8 8)] else [])
  | _ => forwardDone s c.src (fun _ => [])

/-- A reply from a node to the oldest part of that opcode which waits for it (R538). -/
def answerForward (s : State) (node op rc : Nat) (result : Bytes) : State :=
  match s.cp.fwdOut.find? (fun f => f.node == node && f.op == op) with
  | none => s
  | some f =>
    let s := { s with cp := { s.cp with fwdOut := s.cp.fwdOut.erase f } }
    match cmdOf s f.src with
    | none => s
    | some c => answerPart s f c rc result

/-- A node is unreachable: every command that waits for it ends PARTNER_ABSENT at its own carrel (R539). -/
def forwardLost (s : State) (node : Nat) : State :=
  let srcs := ((s.cp.fwdOut.filter (fun f => f.node == node)).map (·.src)).eraseDups
  srcs.foldl (fun s src => completeSrc s src rcPartnerAbsent []) s

end Sys2Proof.Machine
end

