-- ==== Sys2Proof/Machine/DeskPool.lean ====
section
/-! DEFINITION. Desk commands of group 0x06: the lending pool and the depository (R337 to R396, R572 to R578), and the
depository's events. -/

namespace Sys2Proof.Machine

/-- The node of a slot of this board, as BORROWER names it (R572). -/
def boardNode (s : State) (slot : Nat) : Nat := s.ident.board * 8 + slot

/-- Whether a node has a path from this module (R341, R439, R440). -/
def hasPath (s : State) (node : Nat) : Bool := !(pairPorts s node).isEmpty || (relayPort s node).isSome

/-! ### The fabric manager and PF0 at the lender -/

/-- The lowest index of a half that n in a row of extents or views do not use. -/
def extRun (s : State) (h : Half) (n : Nat) : Option Nat :=
  (leastFrom (fun x => (List.range n).all (fun i => !thas s.pool.extents (h, x + i) && !thas s.pool.views (h, x + i))) 1024 0).filter
    (fun x => decide (x + n ≤ 1024))

/-- A free run of 1 GiB of tier 2 aligned to 1 GiB in a half (R340). -/
def gibRun (s : State) (h : Half) : Option Nat :=
  let taken := takenGranules s 2 h true
  let lo := daMk 2 (halfBase 2 h) / mib2
  (leastFrom (fun i => runFree taken (lo + 512 * i) 512) (s.halves.get h).t2Cap 0).map (fun i => (lo + 512 * i) * mib2)

/-- One extent offered. -/
def offerOne (s : State) (h : Half) : Option State :=
  match gibRun s h, extRun s h 1 with
  | some base, some x =>
    some { drew 32 s with pool := { s.pool with extents := tset s.pool.extents (h, x) { base := base, key := trngBytes s.free 32 } } }
  | some _, none => none
  | none, _ => none

/-- n extents offered, or none of them. -/
def offerAll : (n : Nat) → State → Half → Option State
  | 0, s, _ => some s
  | n + 1, s, h => (offerOne s h).bind (fun s => offerAll n s h)

/-- The extents of a half in order of index. -/
def extsOf (s : State) (h : Half) : List ((Half × Nat) × Extent) :=
  (s.pool.extents.filter (fun p => p.1.1 == h)).mergeSort (fun a b => decide (a.1.2 ≤ b.1.2))

/-- POOL_OFFER (R340). -/
def poolOfferBody (s : State) (c : RunCmd) : State :=
  let h := halfOf (arg c 1)
  let n := arg c 2
  if arg c 0 = 0 then
    if tierClosed s 2 h then failWith s c rcNoSpace
    else
      match offerAll n s h with
      | none => failWith s c rcNoSpace
      | some s => complete s c rcDone [.u 2 n, .u 2 0]
  else
    let idle := ((extsOf s h).filter (fun p => p.2.state == .idle)).take n
    let rest := ((extsOf s h).filter (fun p => p.2.state != .idle && !p.2.withdraw)).take (n - idle.length)
    let s := idle.foldl (fun s p => withdrawExtent s p.1) s
    let s := rest.foldl (fun s p => extMod s p.1 (fun e => { e with withdraw := true })) s
    complete s c rcDone [.u 2 idle.length, .u 2 rest.length]

/-- POOL_OFFER. -/
def execPoolOffer (src : DeskSrc) (s : State) : Out := .next (deskRun 0x0601 poolOfferBody s src)

/-- EXTENT_GRANT (R338, R341, R344, R350): an IDLE extent enters GRANTING, and the command waits for the borrower. -/
def extentGrantBody (s : State) (c : RunCmd) : State :=
  let node := boardNode s (arg c 0)
  let role := arg c 1
  if node = nodeId s then failWith s c rcBadField
  else if !hasPath s node then failWith s c rcPartnerAbsent
  else if !systemOpen s node then failWith s c rcPartnerUntrusted
  else
    match (extsOf s (halfOf (arg c 3))).find? (fun p => p.2.state == .idle && !p.2.withdraw) with
    | none => failWith s c rcNoSpace
    | some (k, _) =>
      let s := extMod s k (fun e => { e with state := .granting, code := 0, borrower := node, request := arg c 5, role := role,
                                             index := arg c 2, set := arg c 4, since := s.now, src := some c.src })
      cmdWait (msgSend s node 0x10 (grantBody (arg c 5) role (arg c 2) (arg c 4) (extCode k))) c.src

/-- EXTENT_GRANT. -/
def execExtentGrant (src : DeskSrc) (s : State) : Out := .next (deskRun 0x0603 extentGrantBody s src)

/-- Whether an EXTENT_RECALL of an extent runs in this cycle: it still waits (R357, log 134). -/
def recallComing (s : State) (k : Half × Nat) : Bool :=
  s.pending.any (fun i => match i with
    | .extentRecall src => match cmdOf s src with
      | none => false
      | some c => msgOp c.msg == 0x0605 && codeExt (arg c 0) == k
    | _ => false)

/-- One extent of a LEASE_RENEW renewed or refused: its STATUS (R351, R357, R573). One whose grant failed has no draining code:
RECALLED (DESIGN CHOICE, log 136). -/
def renewOne (s : State) (c : RunCmd) (ext ms : Nat) : State × Nat :=
  let k := codeExt ext
  match extOf s k with
  | none => (s, 0x20)
  | some e =>
    if (isForward c.src && !heldBy e c.node c.mid) || e.state == .idle || e.state == .granting then (s, 0x20)
    else if leasedNow e then (if recallComing s k then (s, rcRecalled) else (renewExtent s k ms, 0))
    else (s, if e.code = 0 then rcRecalled else e.code)

/-- Extents renewed in order, with their statuses. -/
def renewAll (s : State) (c : RunCmd) (ms : Nat) : List Nat → State × Bytes
  | [] => (s, [])
  | x :: r =>
    let (s, st) := renewOne s c x ms
    let (s, l) := renewAll s c ms r
    (s, BitVec.ofNat 8 st :: l)

/-- The n 32-bit words of a buffer. -/
def bufWords (b : Bytes) (n : Nat) : List Nat := (List.range n).map (fun i => leAt b (4 * i) 4)

/-- A handle of a master that stands for an extent. -/
def heldHandle (s : State) (mid n : Nat) : Option Handle :=
  (tget s.pool.handles n).filter (fun h => h.master == mid && h.view.isNone)

/-- The lenders and extents that a renewal of a handle goes to: its copies, and the parity extent of its set. -/
def renewParts (h : Handle) : List (Nat × Nat) :=
  (handleParts h ++ (if h.protect = 2 then h.secondary.toList else [])).map (fun p => (p.1, extCode p.2))

/-- STATUS of a handle that is not sent to a lender (R355, R573), or none. -/
def renewLocal (s : State) (mid n : Nat) : Option Nat :=
  match heldHandle s mid n with
  | none => some 0x20
  | some h =>
    if h.state = .recalled then some rcRecalled
    else if h.state = .expired then some rcLeaseExpired
    else if (renewParts h).any (fun p => !systemOpen s p.1) then some rcPartnerAbsent
    else none

/-- LEASE_RENEW by a holder at its own module: the handles are grouped by lender (R339, R576). -/
def renewForward (s : State) (c : RunCmd) (hs : List Nat) (ms : Nat) : State :=
  let st : Bytes := hs.map (fun n => BitVec.ofNat 8 ((renewLocal s c.mid n).getD 0))
  let parts := (hs.zipIdx.map (fun x => if (renewLocal s c.mid x.1).isSome then []
    else (((heldHandle s c.mid x.1).map renewParts).getD []).map (fun p => (p.1, p.2, x.2)))).flatten
  let nodes := (parts.map (·.1)).eraseDups
  let s := runMod s c.src (fun c => { c with acc := st ++ (hs.map (leBytes 4)).flatten, rcs := statusCode st })
  let s := nodes.foldl (fun s n =>
    let mine := parts.filter (fun p => p.1 == n)
    forwardPart s c n (mine.map (·.2.2)) 0x0604 [.u 1 mine.length, .u 4 ms, .a 2 (mine.map (·.2.1))]) s
  forwardDone s c.src (fun c => [.b (c.acc.take hs.length)])

/-- LEASE_RENEW (R350, R351, R573). -/
def leaseRenewBody (buf : HostRead) (s : State) (c : RunCmd) : State :=
  let n := arg c 0
  let ms := arg c 1
  if c.mid = 4 ∨ isForward c.src then
    let (s, st) := renewAll s c ms ((List.range n).map (argElem c 2 2))
    complete s c (statusCode st) [.b st]
  else if msgInLen c.msg < 4 * n then failWith s c rcBadField
  else withBuf s c buf (fun s b => renewForward s c (bufWords b n) ms)

/-- LEASE_RENEW. -/
def execLeaseRenew (src : DeskSrc) (buf : HostRead) (s : State) : Out := .next (deskRun 0x0604 (leaseRenewBody buf) s src)

/-- EXTENT_RECALL (R350, R357). -/
def extentRecallBody (s : State) (c : RunCmd) : State :=
  let k := codeExt (arg c 0)
  match extOf s k with
  | none => failWith s c rcNotPermitted
  | some e =>
    if leasedNow e then complete (sendNotice (enterDraining s k rcRecalled) e k rcRecalled) c rcDone []
    else if e.state = .draining ∧ e.code = rcLeaseExpired ∧ e.since = s.now then
      complete (sendNotice (enterDraining s k rcRecalled) e k rcRecalled) c rcDone []
    else if e.state = .draining ∨ e.state = .erasing then failWith s c (if e.code = 0 then rcRecalled else e.code)
    else failWith s c rcNotPermitted

/-- EXTENT_RECALL. -/
def execExtentRecall (src : DeskSrc) (s : State) : Out := .next (deskRun 0x0605 extentRecallBody s src)

/-! ### The holder -/

/-- EXTENT_REQUEST (R343). -/
def extentRequestBody (s : State) (c : RunCmd) : State :=
  let t := cmdTenant s c
  let count := arg c 0
  let protect := arg c 1
  let quota := ((tget s.tenants t).map (·.pool)).getD 0
  let mine (mid : Nat) : Bool := tenantOf s mid == some t
  let held := s.pool.handles.countP (fun p => mine p.2.master && p.2.view.isNone)
  let asked := ((s.pool.requests.filter (fun r => r.2.state == 0 && mine r.2.master)).map (fun r =>
    r.2.count - s.pool.handles.countP (fun p => p.2.request == r.1))).foldl (· + ·) 0
  let pend := s.pool.requests.countP (fun r => r.2.state == 0)
  if quota = 0 then failWith s c rcNotPermitted
  else if quota < held + asked + count ∨ 64 ≤ pend then failWith s c rcNoSpace
  else
    let n := s.pool.nextRequest
    let r : PoolReq := { master := c.mid, count := count, protect := protect, duration := arg c 2,
                         timeoutAt := s.now + msT (arg c 3) }
    complete { s with pool := { s.pool with requests := tset s.pool.requests n r, nextRequest := (n + 1) % 2 ^ 32 } } c rcAccepted
      [.u 4 n]

/-- EXTENT_REQUEST. -/
def execExtentRequest (src : DeskSrc) (s : State) : Out := .next (deskRun 0x0602 extentRequestBody s src)

/-- EXTENT_RETURN at the lender (R350, R357). -/
def returnHere (s : State) (c : RunCmd) : State :=
  let k := codeExt (arg c 0)
  match extOf s k with
  | none => failWith s c rcNotPermitted
  | some e =>
    if !heldBy e c.node c.mid then failWith s c rcNotPermitted
    else complete (if leasedNow e then enterDraining s k rcRecalled else s) c rcDone []

/-- EXTENT_RETURN (R346, R350, R355). -/
def extentReturnBody (s : State) (c : RunCmd) : State :=
  if isForward c.src then returnHere s c
  else
    match heldHandle s c.mid (arg c 0) with
    | none => failWith s c rcNotPermitted
    | some h =>
      let parts := (if h.lost then [] else handleParts h) ++ parityParts s (arg c 0) h
      if h.state = .recalled ∨ h.state = .expired then complete (freeHandle s (arg c 0)) c rcDone []
      else if parts.any (fun p => !systemOpen s p.1) then failWith s c rcPartnerAbsent
      else
        let s := parts.foldl (fun s p => forwardPart s c p.1 [] 0x0606 [.u 4 (extCode p.2)]) (freeHandle s (arg c 0))
        forwardDone s c.src (fun _ => [])

/-- EXTENT_RETURN. -/
def execExtentReturn (src : DeskSrc) (s : State) : Out := .next (deskRun 0x0606 extentReturnBody s src)

/-- Whether writes of a master to a handle's range are not yet applied (R362). -/
def writesOut (s : State) (mid n : Nat) (h : Handle) : Bool :=
  s.link.sessions.any (fun p => p.2.outstanding.any (fun o => o.write && o.mid == mid && daRange o.addr == 3
    && decide (n * gib ≤ daOff o.addr) && decide (daOff o.addr < n * gib + handleLen h)))

/-- EXTENT_FLUSH (R356, R362): it waits until every earlier write is applied, and then reports the refusal that came first. -/
def extentFlushBody (buf : HostRead) (s : State) (c : RunCmd) : State :=
  let n := arg c 0
  if isForward c.src then failWith s c rcNotPermitted
  else if msgInLen c.msg < 4 * n then failWith s c rcBadField
  else
    let hs : List Nat := match buf with
      | .data b => bufWords b n
      | .timeout => []
      | .unsupported => []
      | .aborted => []
      | .dropped => []
    let got := hs.filterMap (fun x => ((tget s.pool.handles x).filter (fun h => h.master == c.mid)).map (fun h => (x, h)))
    if got.length = hs.length ∧ got.any (fun p => writesOut s c.mid p.1 p.2) then cmdHold s c
    else withBuf s c buf (fun s _ =>
      if got.length ≠ hs.length then failWith s c rcNotPermitted
      else
        let rc := ((got.filterMap (fun p => p.2.refused.map (fun rc => (p.2.refusedAt, rc)))).mergeSort (fun a b => decide (a.1 ≤ b.1))).head?.map
          (·.2) |>.getD rcDone
        let s := got.foldl (fun s p => handleMod s p.1 (fun h => { h with refused := none })) s
        complete s c rc [])

/-- EXTENT_FLUSH. -/
def execExtentFlush (src : DeskSrc) (buf : HostRead) (s : State) : Out := .next (deskRun 0x0607 (extentFlushBody buf) s src)

/-! ### Shared regions (R363 to R370, R575) -/

/-- A region made from complete lists at the lender (R363, R364). -/
def shareMake (s : State) (c : RunCmd) (n sh : Nat) (words : List Nat) : State :=
  let exts := (words.take (n + sh)).map codeExt
  let ok (k : Half × Nat) : Bool := match extOf s k with
    | none => false
    | some e => heldBy e c.node c.mid && leasedNow e
  let free (k : Half × Nat) : Bool := match extOf s k with
    | none => true
    | some e => e.region.isNone
  if !exts.all ok then failWith s c rcNotPermitted
  else if !exts.all free then failWith s c rcConflict
  else
    let members := (c.node, c.mid, true) :: (words.drop (n + sh)).map (fun w => (w / 2 ^ 12 % 4096, w % 4096, natBit w 24))
    let num := s.pool.nextShared
    let r : Shared := { dataExts := exts.take n, shadowExts := exts.drop n, members := members, current := 1, editions := [],
                        nextKey := 2 }
    let e : Edition := { number := 1, draft := false, owner := (c.node, c.mid), opens := 0,
                         mapBlocks := (List.range n).map (· + n * blocksPerExt) }
    let s := { s with pool := { s.pool with shared := tset s.pool.shared num { r with editions := [(1, e)] }
                                            nextShared := num + 1, shareParts := tdel s.pool.shareParts (c.node, c.mid) } }
    let s := exts.foldl (fun s k => extMod s k (fun e => { e with region := some num })) s
    complete s c rcDone [.u 4 (nodeId s * 2 ^ 20 + num % 2 ^ 20)]

/-- A forwarded part of SHARE_CREATE at the lender (R576; log 33). -/
def shareHere (s : State) (c : RunCmd) : State :=
  let n := arg c 0
  let sh := arg c 1
  let total := n + sh + arg c 2
  let first := arg c 3
  let old := if first = 0 then [] else tgetD s.pool.shareParts (c.node, c.mid) []
  let words := old ++ (List.range (shareWords total first)).map (argElem c 4 4)
  if old.length ≠ first then failWith s c rcBadField
  else if words.length = total then shareMake s c n sh words
  else complete { s with pool := { s.pool with shareParts := tset s.pool.shareParts (c.node, c.mid) words } } c rcDone [.u 4 0]

/-- SHARE_CREATE at the holder's module: the lists are checked, and forwarded to the lender (R363, R575, R576). -/
def shareForward (s : State) (c : RunCmd) (n sh : Nat) (words : List Nat) : State :=
  let hs := words.take (n + sh)
  let got := hs.filterMap (heldHandle s c.mid)
  if got.length ≠ hs.length then failWith s c rcNotPermitted
  else if hs.eraseDups.length ≠ hs.length ∨ (words.drop (n + sh)).any (fun w => decide (2 ^ 25 ≤ w)) then failWith s c rcBadField
  else
    match got.head? with
    | none => failWith s c rcBadField
    | some h =>
      if got.any (fun x => x.node != h.node || x.protect != h.protect || x.shared) then failWith s c rcConflict
      else if !systemOpen s h.node then failWith s c rcPartnerAbsent
      else
        let out := got.map (fun x => extCode (x.half, x.ext)) ++ words.drop (n + sh)
        let s := runMod s c.src (fun c => { c with acc := (hs.map (leBytes 4)).flatten })
        (List.range (ceilDiv out.length 48)).foldl (fun s i =>
          forwardPart s c h.node [] 0x0608
            [.u 2 n, .u 2 sh, .u 1 (out.length - n - sh), .u 2 (48 * i), .a 4 ((out.drop (48 * i)).take 48)]) s

/-- SHARE_CREATE (R363, R575). -/
def shareCreateBody (buf : HostRead) (s : State) (c : RunCmd) : State :=
  if isForward c.src then shareHere s c
  else
    let n := arg c 0
    let sh := arg c 1
    let total := n + sh + arg c 2
    if msgInLen c.msg < 4 * total then failWith s c rcBadField
    else withBuf s c buf (fun s b => shareForward s c n sh (bufWords b total))

/-- SHARE_CREATE. -/
def execShareCreate (src : DeskSrc) (buf : HostRead) (s : State) : Out := .next (deskRun 0x0608 (shareCreateBody buf) s src)

/-- A draft on the current edition (R364, R365, R369), with its key, or none where a limit or the store forbids it. -/
def newDraft (r : Shared) (owner : Nat × Nat) : Option (Shared × Nat) :=
  match tget r.editions r.current with
  | none => none
  | some b =>
    let blocks := freeStore r r.dataExts.length
    if 16 ≤ r.editions.length ∨ 4 ≤ r.editions.countP (fun p => p.2.draft) ∨ blocks.length < r.dataExts.length then none
    else
      let e : Edition := { number := b.number, draft := true, owner := owner, opens := 0, map := b.map, mapBlocks := blocks }
      some ({ r with editions := tset r.editions r.nextKey e, nextKey := r.nextKey + 1 }, r.nextKey)

/-- What EDITION_OPEN opens: the region after it and the edition's key, or a code (R365, R369); in the cycle of a publish's switch tick
CURRENT is the edition before it (R370). -/
def openWhat (r : Shared) (now : Nat) (owner : Nat × Nat) (mode edition : Nat) : Except Nat (Shared × Nat) :=
  match mode with
  | 0 =>
    match r.before with
    | some (t, k) => .ok (r, if t = now ∧ thas r.editions k then k else r.current)
    | none => .ok (r, r.current)
  | 1 =>
    match r.editions.find? (fun p => !p.2.draft && p.2.number == edition) with
    | none => .error rcStaleEdition
    | some p => .ok (r, p.1)
  | _ =>
    match newDraft r owner with
    | none => .error rcNoSpace
    | some x => .ok x

/-- EDITION_OPEN at the lender (R365, R369, R410). -/
def editionOpenHere (s : State) (c : RunCmd) : State :=
  let num := arg c 0 % 2 ^ 20
  match tget s.pool.shared num with
  | none => failWith s c rcNotPermitted
  | some r =>
    let rights := r.members.filter (fun m => m.1 == c.node && m.2.1 == c.mid)
    if rights.isEmpty ∨ (arg c 1 = 2 ∧ !rights.any (·.2.2)) then failWith s c rcNotPermitted
    else if regionStatus s r s.now ≠ 0 then failWith s c (regionStatus s r s.now)
    else
      match openWhat (reapEditions r s.now) s.now (c.node, c.mid) (arg c 1) (arg c 2) with
      | .error rc => failWith s c rc
      | .ok (r, key) =>
        let n := r.dataExts.length
        let h := ((r.dataExts.head?).map (·.1)).getD .h0
        match extRun s h n with
        | none => failWith s c rcNoSpace
        | some x =>
          let number := ((tget r.editions key).map (·.number)).getD 0
          let r := { r with editions := tmod r.editions key (fun e => { e with opens := e.opens + 1 }) }
          let views := (List.range n).foldl (fun t i =>
            tset t (h, x + i) { region := num, key := key, index := i, node := c.node, mid := c.mid }) s.pool.views
          complete { s with pool := { s.pool with shared := tset s.pool.shared num r, views := views } } c rcDone
            [.u 4 (n * 2 ^ 16 + extCode (h, x)), .u 4 number]

/-- EDITION_OPEN (R365): forwarded to the region's lender, which no own master reaches (R342). -/
def editionOpenBody (s : State) (c : RunCmd) : State :=
  if isForward c.src then editionOpenHere s c
  else
    let node := arg c 0 / 2 ^ 20
    if node = nodeId s then failWith s c rcNotPermitted
    else if !systemOpen s node then failWith s c rcPartnerAbsent
    else forwardPart s c node [] 0x0609 [.u 4 (arg c 0), .u 1 (arg c 1), .u 4 (arg c 2)]

/-- EDITION_OPEN. -/
def execEditionOpen (src : DeskSrc) (s : State) : Out := .next (deskRun 0x0609 editionOpenBody s src)

/-- The view that a forwarded BASE names, of the sender. -/
def viewFor (s : State) (c : RunCmd) : Option ViewExt :=
  (tget s.pool.views (codeExt (arg c 0))).filter (fun v => v.node == c.node && v.mid == c.mid)

/-- EDITION_PUBLISH at the lender (R367, R370). -/
def publishHere (s : State) (c : RunCmd) : State :=
  match viewFor s c with
  | none => failWith s c rcNotPermitted
  | some v =>
    match tget s.pool.shared v.region with
    | none => failWith s c rcNotPermitted
    | some r =>
      match tget r.editions v.key with
      | none => failWith s c rcNotPermitted
      | some e =>
        let b := arg c 1
        let cur := ((tget r.editions r.current).map (·.number)).getD 0
        if !e.draft then failWith s c rcNotPermitted
        else if regionStatus s r s.now ≠ 0 then failWith s c (regionStatus s r s.now)
        else if b = 0xFFFFFFFF then failWith s c rcNoSpace
        else if b ≠ cur ∨ e.number ≠ b then failWith s c rcConflict
        else
          let r := reapEditions { r with
            before := some (s.now, r.current), current := v.key, editions := tset r.editions v.key { e with number := b + 1, draft := false, own := [] } } s.now
          complete (sharedMod s v.region (fun _ => r)) c rcDone [.u 4 (b + 1)]

/-- A view or draft of a master at its own module. -/
def ownView (s : State) (mid n : Nat) : Option Handle :=
  (tget s.pool.handles n).filter (fun h => h.master == mid && h.view.isSome)

/-- EDITION_PUBLISH (R367): it first waits as EXTENT_FLUSH does. -/
def editionPublishBody (s : State) (c : RunCmd) : State :=
  if isForward c.src then publishHere s c
  else
    match ownView s c.mid (arg c 0) with
    | none => failWith s c rcNotPermitted
    | some h =>
      if (h.view.map (·.2.2)) ≠ some true then failWith s c rcNotPermitted
      else if writesOut s c.mid (arg c 0) h then cmdHold s c
      else if 0 < h.refusedCount then failWith s c rcNoSpace
      else if !systemOpen s h.node then failWith s c rcPartnerAbsent
      else forwardPart s c h.node [] 0x060A [.u 4 (extCode (h.half, h.ext)), .u 4 (arg c 1)]

/-- EDITION_PUBLISH. -/
def execEditionPublish (src : DeskSrc) (s : State) : Out := .next (deskRun 0x060A editionPublishBody s src)

/-- EDITION_CLOSE at the lender (R368). -/
def closeHere (s : State) (c : RunCmd) : State :=
  match viewFor s c with
  | none => failWith s c rcNotPermitted
  | some v =>
    let k := codeExt (arg c 0)
    let n := ((tget s.pool.shared v.region).map (fun r => r.dataExts.length)).getD 1
    let views := (List.range n).foldl (fun t i => tdel t (k.1, k.2 + i)) s.pool.views
    let s := { s with pool := { s.pool with views := views } }
    let s := sharedMod s v.region (fun r => reapEditions { r with
      editions := tfilter (tmod r.editions v.key (fun e => { e with opens := e.opens - 1 }))
        (fun key e => !(key == v.key && e.draft)) } s.now)
    complete s c rcDone []

/-- EDITION_CLOSE (R368). -/
def editionCloseBody (s : State) (c : RunCmd) : State :=
  if isForward c.src then closeHere s c
  else
    match ownView s c.mid (arg c 0) with
    | none => failWith s c rcNotPermitted
    | some h =>
      if !systemOpen s h.node then failWith s c rcPartnerAbsent
      else forwardPart (freeHandle s (arg c 0)) c h.node [] 0x060B [.u 4 (extCode (h.half, h.ext))]

/-- EDITION_CLOSE. -/
def execEditionClose (src : DeskSrc) (s : State) : Out := .next (deskRun 0x060B editionCloseBody s src)

/-! ### NEAR_OP (R381, R382, R574) -/

/-- The tier-3 addresses of an operation: those read, and the destination where it has one. -/
def nearAddrs (c : RunCmd) : List Nat × Option Nat :=
  ((List.range (arg c 3)).map (argElem c 7 8), if arg c 0 = 2 then none else some (arg c 6))

/-- A sender's code for a range of a near-memory operation (R355, R382). -/
def nearCode (s : State) (mid da n : Nat) (write : Bool) : Nat :=
  if daRange da ≠ 3 then rcBadField
  else if !reaches s mid da n write then rcNotPermitted
  else
    match masterHandle s mid da n with
    | none => rcNotPermitted
    | some (_, h) => (handleRefuses h write).getD rcDone

/-- Where a range lies at its lender, as the forwarded message names it: the extent index in the place of the handle. -/
def nearAt (s : State) (mid da n : Nat) : Nat × Nat :=
  match masterHandle s mid da n with
  | none => (0, 0)
  | some (num, h) =>
    let (node, half, ext, off) := poolAt num h da
    (node, daMk 3 (extCode (half, ext) * gib + off))

/-- NEAR_OP at the lender: accepted into the pool engine of its first range's half (R384); views and drafts of two regions are refused
(R382). -/
def nearHere (s : State) (c : RunCmd) : State :=
  let loc (da : Nat) : Half × Nat × Nat :=
    let k := codeExt (daHandle da)
    (k.1, k.2, da % gib)
  let (srcs, dst) := nearAddrs c
  let st (da : Nat) (w : Bool) : Nat :=
    match poolSpot s c.node c.mid (loc da).1 (loc da).2.1 w s.now with
    | .refused x => x
    | .plain _ _ => 0
    | .view _ _ _ => 0
  let codes := srcs.map (fun a => st a false) ++ (dst.map (fun a => st a true)).toList
  let regions := ((srcs ++ dst.toList).filterMap (fun a =>
    (tget s.pool.views ((loc a).1, (loc a).2.1)).map (·.region))).eraseDups
  let rc := if 1 < regions.length then rcBadField else firstCode codes
  let h := (loc (dst.getD (srcs.getD 0 0))).1
  if rc ≠ 0 then failWith s c rc
  else if 32 ≤ (s.pool.engine.get h).2.length then failWith s c rcNoSpace
  else
    let j : NearJob := { src := c.src, node := c.node, mid := c.mid, op := arg c 0, ty := arg c 1, rop := arg c 2, bytes := arg c 4,
                         pattern := BitVec.ofNat 64 (arg c 5), dst := loc (dst.getD (srcs.getD 0 0)), srcs := srcs.map loc, at_ := s.now }
    cmdWait (engineMod s h (fun q => (q.1, q.2 ++ [j]))) c.src

/-- NEAR_OP (R381, R382). -/
def nearOpBody (s : State) (c : RunCmd) : State :=
  if isForward c.src then nearHere s c
  else
    let (srcs, dst) := nearAddrs c
    let n := arg c 4
    let rc := firstCode (srcs.map (fun a => nearCode s c.mid a n false) ++ (dst.map (fun a => nearCode s c.mid a n true)).toList)
    let places := (srcs ++ dst.toList).map (fun a => (nearAt s c.mid a n).1)
    let node := places.getD 0 0
    if rc ≠ rcDone then failWith s c rc
    else if places.any (· != node) then failWith s c rcBadField
    else if !systemOpen s node then failWith s c rcPartnerAbsent
    else
      let at_ (da : Nat) : Nat := (nearAt s c.mid da n).2
      forwardPart s c node [] 0x060C
        [.u 1 (arg c 0), .u 1 (arg c 1), .u 1 (arg c 2), .u 1 (arg c 3), .u 4 n, .u 8 (arg c 5), .u 8 ((dst.map at_).getD 0),
         .a 8 (srcs.map at_ ++ List.replicate (7 - srcs.length) 0)]

/-- NEAR_OP. -/
def execNearOp (src : DeskSrc) (s : State) : Out := .next (deskRun 0x060C nearOpBody s src)

/-! ### MIRROR_RESOLVE, POOL_LIMIT, POOL_STATUS -/

/-- The secondary's copy of a diverged block taken over, its bytes being those of another module (R376; log 35). -/
def takeSecondary (s : State) (k : Half × Nat) (e : Extent) (blk : Nat) : State :=
  let da := e.base + blk * blockLen
  let (s, b) := farBytes (emit s (.peerRead e.set 2 (blk * blockLen) blockLen)) blockLen
  let s := emit s (.peerWrite e.set 2 (blk * blockLen) [] (tgetD e.stamps blk 0))
  chargeWrite (rtWrite s e.holder da b) 3 da blockLen (.tier k.1)

/-- MIRROR_RESOLVE (R376): either way the secondary takes the primary's stamp with the block. -/
def mirrorResolveBody (s : State) (c : RunCmd) : State :=
  let k := codeExt (arg c 0)
  match extOf s k with
  | none => failWith s c rcNotPermitted
  | some e =>
    if e.role ≠ 1 ∨ e.diverged.isEmpty then failWith s c rcConflict
    else
      let s := if arg c 1 = 0 then e.diverged.foldl (fun s blk => blockSend s k e 3 blk) s
        else e.diverged.foldl (fun s blk => takeSecondary s k e blk) s
      complete (extMod s k (fun e => { e with diverged := [] })) c rcDone []

/-- MIRROR_RESOLVE. -/
def execMirrorResolve (src : DeskSrc) (s : State) : Out := .next (deskRun 0x060D mirrorResolveBody s src)

/-- POOL_LIMIT (R387). -/
def poolLimitBody (s : State) (c : RunCmd) : State :=
  let cap := arg c 2
  let k := (boardNode s (arg c 0), arg c 1)
  let caps := if cap = 0 then tdel s.pool.caps k else tset s.pool.caps k { gbps := cap, used := ((tget s.pool.caps k).map (·.used)).getD 0 }
  complete { s with pool := { s.pool with caps := caps } } c rcDone []

/-- POOL_LIMIT. -/
def execPoolLimit (src : DeskSrc) (s : State) : Out := .next (deskRun 0x060E poolLimitBody s src)

/-- Code of an extent's state (R577). -/
def extStateCode (x : ExtState) : Nat :=
  match x with
  | .idle => 0
  | .granting => 1
  | .leased => 2
  | .grace => 3
  | .draining => 4
  | .erasing => 5

/-- Code of a handle's state (R577). -/
def handleCode (x : HandleState) : Nat :=
  match x with
  | .live => 0
  | .single => 1
  | .degraded => 2
  | .diverged => 3
  | .recalled => 4
  | .expired => 5
  | .failed => 6

/-- A record of view EXTENTS (R577). -/
def extRecord (p : (Half × Nat) × Extent) : Nat :=
  let e := p.2
  let due := if leasedNow e then e.due / 16 else 0
  extCode p.1 + extStateCode e.state * 2 ^ 16 + bitN e.withdraw * 2 ^ 23 + e.role * 2 ^ 24 + e.borrower * 2 ^ 32 + e.holder * 2 ^ 48
    + due * 2 ^ 64

/-- A record of view REQUESTS (R577). -/
def reqRecord (now : Nat) (p : Nat × PoolReq) : Nat :=
  let r := p.2
  p.1 + r.count * 2 ^ 32 + r.protect * 2 ^ 48 + r.state * 2 ^ 56 + r.master * 2 ^ 64 + r.comps.length * 2 ^ 80
    + (if r.state = 0 then (r.timeoutAt - now) / msT 1 else 0) * 2 ^ 96

/-- A record of view HANDLES (R577). -/
def handleRecord (p : Nat × Handle) : Nat :=
  p.1 + handleCode p.2.state * 2 ^ 32 + p.2.protect * 2 ^ 40 + p.2.node * 2 ^ 48 + p.2.due / 16 * 2 ^ 64

/-- The records of a view that a sender sees, in order (R342, R577). -/
def statusRecords (s : State) (c : RunCmd) (view filter : Nat) : List Nat :=
  let all := !isForward c.src && (c.mid == 1 || c.mid == 4)
  match view with
  | 0 => ((extsOf s .h0 ++ extsOf s .h1).filter (fun p => all || (isForward c.src && heldBy p.2 c.node c.mid))).map extRecord
  | 1 =>
    (s.pool.requests.filter (fun p => (all || (!isForward c.src && p.2.master == c.mid))
      && (p.2.state == 0 || decide (s.now < p.2.doneAt + secT 65)))).map (reqRecord s.now)
  | _ =>
    ((s.pool.handles.filter (fun p => (all || (!isForward c.src && p.2.master == c.mid)) && p.2.view.isNone
      && (filter == 0 || p.2.request == filter))).mergeSort (fun a b => decide (a.1 ≤ b.1))).map handleRecord

/-- POOL_STATUS (R577). -/
def poolStatusBody (s : State) (c : RunCmd) : State :=
  let l := statusRecords s c (arg c 0) (arg c 1)
  let start := arg c 2
  let recs := (l.drop start).take 12
  complete s c rcDone [.u 4 l.length, .u 4 (start + recs.length), .u 1 recs.length,
    .b (fit 192 ((recs.map (leBytes 16)).flatten))]

/-- POOL_STATUS. -/
def execPoolStatus (src : DeskSrc) (s : State) : Out := .next (deskRun 0x060F poolStatusBody s src)

/-! ### The depository (R390 to R395, R578) -/

/-- Grants that ended at least 65 s ago are free again (R355, R394). -/
def reapGrants (s : State) : State :=
  { s with pool := { s.pool with grants := tfilter s.pool.grants (fun _ g => match g.endedAt with
      | none => true
      | some t => decide (s.now < t + secT 65)) } }

/-- The sectors of a depository grant are as new: none has failed its tag. -/
def sectorsNew (s : State) (n : Nat) : State :=
  { s with mem := { s.mem with badSectors := s.mem.badSectors.filter (fun x => !(daRange x == 4 && daGrant x == n)) } }

/-- A depository grant is entered. -/
def grantPut (s : State) (n : Nat) (g : Grant) : State :=
  sectorsNew { s with pool := { s.pool with grants := tset s.pool.grants n g } } n

/-- DEPOT_GRANT (R390 to R392, R578). -/
def depotGrantBody (s : State) (c : RunCmd) : State :=
  let holder := arg c 0
  let gibs := arg c 4
  let far := BitVec.ofNat 8 (arg c 2)
  let privileged := match (tenantOf s holder).bind (fun t => tget s.tenants t) with
    | none => false
    | some t => t.depository
  if (List.range 8).any (fun p => far.getLsbD p && (portOf s p).kind != .far) then
    failWith s c rcBadField
  else if !privileged then failWith s c rcNotPermitted
  else
    let s := reapGrants s
    match leastFrom (fun n => !thas s.pool.grants n) 4095 1 with
    | none => failWith s c rcNoSpace
    | some n =>
      let g : Grant := { holder := holder, tray := arg c 1, far := far, base := arg c 5, gib := gibs, protect := natBit (arg c 3) 0,
                         nonce := trngBytes s.free 16 }
      complete (poolOpen (grantPut (drew 16 s) n g) g.tray holder) c rcDone
        [.u 2 n]

/-- DEPOT_GRANT. -/
def execDepotGrant (src : DeskSrc) (s : State) : Out := .next (deskRun 0x0610 depotGrantBody s src)

/-- DEPOT_REVOKE (R392, R394): the grant drains with RECALLED, and its nonce is erased. -/
def depotRevokeBody (s : State) (c : RunCmd) : State :=
  match (tget s.pool.grants (arg c 0)).filter (fun g => g.state != 2) with
  | none => failWith s c rcNotPermitted
  | some _ =>
    complete (grantMod s (arg c 0) (fun g => { g with state := 2, nonce := [], endedAt := some s.now })) c rcDone []

/-- DEPOT_REVOKE. -/
def execDepotRevoke (src : DeskSrc) (s : State) : Out := .next (deskRun 0x0611 depotRevokeBody s src)

/-- TRAY_TIMEOUT (R395): a request to a tray was not answered within 100 µs. -/
def execTrayTimeout (grant : Nat) (s : State) : Out :=
  match tget s.pool.grants grant with
  | none => .next s
  | some g => if g.state = 0 then .next (trayUnanswered s grant) else .next s

/-- TRAY_PROBE (R395): every 10 ms an UNREACHABLE grant's tray is read, and an answer returns it to service. -/
def execTrayProbe (grant : Nat) (answered : Bool) (s : State) : Out :=
  match tget s.pool.grants grant with
  | none => .next s
  | some g =>
    if g.state = 1 ∧ g.lastProbe + msT 10 ≤ s.now then
      let s := emit s (.trayRead g.tray g.far (trayAddr g 0) 64)
      .next (grantMod s grant (fun g => { g with lastProbe := s.now, state := if answered then 0 else 1,
                                                 unanswered := if answered then 0 else g.unanswered }))
    else .next s

end Sys2Proof.Machine
end

