-- ==== Sys2Proof/Machine/LinkPort.lean ====
section
/-! DEFINITION. The peer ports: start-up and authentication, replay, retrains, credits, and the paths of sessions as ports
leave and enter service (R29, R31, R397, R403 to R406, R416 to R421, R432, R439 to R441, R456, R652). -/

namespace Sys2Proof.Machine

/-! ### Records, inboxes -/

/-- A LINK record (R456, R658): the row of R456 and the partner. -/
def linkLog (s : State) (p row rc : Nat) : State :=
  logNow s { kind := 0x0501, severity := 2, unit := errUnit 5 p, rc := rc, location := p, detail0 := row,
             detail1 := (portOf s p).partner }

/-- Whether a flit is link control of a subtype (R409). -/
def isLctl (sub : Nat) (f : Flit) : Bool := f.type == 1 && byteAt f.payload 0 == BitVec.ofNat 8 sub

/-- Whether a flit is session control of a subtype (R409). -/
def isSctl (sub : Nat) (f : Flit) : Bool := f.type == 3 && byteAt f.payload 0 == BitVec.ofNat 8 sub

/-- The body of a control flit: its part number, the whole length, and its bytes (log 31). -/
def ctlBody (f : Flit) : Nat × Nat × Bytes := (leAt f.payload 1 1, leAt f.payload 2 2, slice f.payload 8 (min 216 (f.len - 8)))

/-- The whole body of a control message that fits in one flit. -/
def ctlOne (f : Flit) : Bytes := slice f.payload 8 216

/-- Whether an earlier flit of the same session is not yet handled: a session's flits take effect in SSEQ order (R431). -/
def earlierWaits (s : State) (f : Flit) : Bool :=
  f.type ≥ 3 && s.link.ports.any (fun p => p.2.flow.inbox.any (fun g =>
    decide (3 ≤ g.type) && g.src == f.src && g.sid == f.sid && decide (g.sseq < f.sseq)))

/-- The first flit of a port's inbox, when it passes a test and no earlier one of its session waits. -/
def inboxHead (s : State) (p : Nat) (ok : Flit → Bool) : Option Flit :=
  match (portOf s p).flow.inbox with
  | [] => none
  | f :: _ => if ok f && !earlierWaits s f then some f else none

/-- The first flit of an inbox is handled: its buffer is free, and its credit is returned (R412, R419). -/
def inboxPop (s : State) (p : Nat) : State :=
  match (portOf s p).flow.inbox with
  | [] => s
  | f :: r =>
    let old := decide (0 < (portOf s p).flow.stale)
    let owes := f.type != 1 && !old
    let s := flowMod s p (fun w => { w with
      inbox := r
      stale := w.stale - 1
      owed := if owes then listMod w.owed f.ch (· + 1) else w.owed })
    if owes then portIdle s p else s

/-! ### Paths that change (R432, R439 to R441) -/

/-- Channel of a sealed flit. -/
def sealedCh (b : Bytes) : Nat := leAt b 0 1 / 16 % 4

/-- Every unacknowledged flit of a session is sent again, bit-identical, in SSEQ order (R432). -/
def sessResend (s : State) (k : Nat × Nat) : State :=
  match sessOf s k with
  | none => s
  | some x =>
    match sessPort s k x with
    | none => sessMod s k (fun x => { x with noPathSince := some (x.noPathSince.getD s.now) })
    | some p =>
      x.unacked.foldl (fun s u => portTx s p (some (sealedCh u.2.2)) u.2.2) (sessMod s k (fun x => { x with noPathSince := none }))

/-- Sessions whose path differs from what it was change path (R432, R441). -/
def repath (old s : State) : State :=
  s.link.sessions.foldl (fun s x =>
    if x.2.state = .opening ∨ sessPort s x.1 x.2 = sessPort old x.1 x.2 then s else sessResend s x.1) s

/-! ### Leaving service (R405, R406, R441) -/

/-- A port is no longer up, in a state from which it starts again at a time, if any (R405). -/
def portDown (s : State) (p : Nat) (st : PortState) (retry : Option Nat) : State :=
  let was := inService s p
  let s' := portMod s p (fun q => { q with
    state := st, step := 0, lanes := 0, lp := .l0, lpAsked := none, retryAt := retry, inServiceSince := none
    returned := q.returned && !was
    began := q.began || st == .held
    downSince := if was then s.now else q.downSince })
  if was then repath s s' else s'

/-- A port that a partner's conduct holds DOWN for 10 s (R456). -/
def portHold (s : State) (p row : Nat) : State := portDown (linkLog s p row 0) p .held (some (s.now + secT 10))

/-- A port held out of service by R421 until PORT_RESET or LINK_CONFIG. -/
def portUntrusted (s : State) (p : Nat) : State :=
  let s := linkLog s p 2 rcPartnerUntrusted
  portMod (portDown s p .held none) p (fun q => { q with untrusted := true, refusal := rcPartnerUntrusted, key := none })

/-- A port starts again at step 1: training frames on all lanes, with nothing of its former link (R405). Flits accepted
before and not yet handled stay. -/
def portStart (s : State) (p : Nat) : State :=
  let q := portOf s p
  let s := portDown s p (if q.kind = .off then .off else .down) none
  let s := portMod s p (fun q => { q with
    partner := 0xFFF, untrusted := false, key := none, certIn := [], pointIn := [], eph := []
    time := {}, flow := { inbox := q.flow.inbox, stale := q.flow.inbox.length } })
  if q.kind = .off then s
  else emit (portMod s p (fun q => { q with state := .training, step := 1, stepSince := s.now })) (.trainingFrames p)

/-- PORT_ENABLE (R405): at start-up a port that is not OFF begins to train. -/
def execPortEnable (port : Nat) (s : State) : Out :=
  let q := portOf s port
  if port < 8 ∧ s.boot.stage = .served ∧ q.kind ≠ .off ∧ q.state = .down ∧ q.step = 0 ∧ q.retryAt = none then
    .next (portStart (portMod s port (fun q => { q with downSince := s.now })) port)
  else .next s

/-- PORT_RETRY_TIMER (R405, R406, R456). -/
def execPortRetryTimer (port : Nat) (s : State) : Out :=
  match (portOf s port).retryAt with
  | none => .next s
  | some t => if t ≤ s.now then .next (portStart s port) else .next s

/-- PORT_LEAVE_SERVICE (R441): a port in service loses its link; it is DOWN, and its sessions change path. It starts again
after 1 s. -/
def execPortLeaveService (port : Nat) (s : State) : Out :=
  if inService s port then .next (portDown s port .down (some (s.now + secT 1))) else .next s

/-- A port that retrains repeats steps 2 to 4; the third time within 1 s it is held DOWN for 10 s (R406). -/
def portRetrain (s : State) (p : Nat) : State :=
  let times := ((portOf s p).retrainTimes.filter (fun t => decide (s.now < t + secT 1))) ++ [s.now]
  let s := countPort s p (fun c => { c with retrains := sat32 (c.retrains + 1) })
  let s := portMod s p (fun q => { q with retrainTimes := times })
  if 3 ≤ times.length then portDown s p .held (some (s.now + secT 10))
  else
    let s := portDown s p .training none
    portMod s p (fun q => { q with step := 2, stepSince := s.now })

/-- Whether the oldest kept flit has been resent 8 times (R418). -/
def resentOut (q : Port) : Bool := q.flow.replay.any (fun x => decide (8 ≤ x.resends))

/-- PORT_RETRAIN (R406, R418). -/
def execPortRetrain (port : Nat) (s : State) : Out :=
  let q := portOf s port
  if q.state = .inService ∧ resentOut q then .next (portRetrain s port) else .next s

/-! ### Training (R402, R403, R405) -/

/-- The lanes that a port runs on (R403), or none. -/
def lanesUsed (ok : LaneMask) : Option (BitVec 8) :=
  if ok = 0xFF then some 0xFF
  else if ok &&& 0x0F = 0x0F then some 0x0F
  else if ok &&& 0xF0 = 0xF0 then some 0xF0
  else none

/-- EQUALISATION_DONE (R403, R405 step 2). -/
def execEqualisationDone (port : Nat) (lanes : LaneMask) (s : State) : Out :=
  let q := portOf s port
  if q.state = .training ∧ q.step ≤ 2 then
    match lanesUsed lanes with
    | none => .next (portDown s port .down (some (s.now + secT 1)))
    | some l => .next (portMod s port (fun q => { q with lanes := l, step := 3, stepSince := s.now }))
  else .next s

/-- Every kept flit of a port sent again from an LSEQ on (R417). -/
def replayFrom (s : State) (p lseq : Nat) : State :=
  let again := (portOf s p).flow.replay.dropWhile (fun x => x.lseq != lseq)
  let s := flowMod s p (fun f => { f with
    lackAt := s.now
    replay := f.replay.map (fun x => if again.any (fun y => y.lseq == x.lseq) then { x with resends := x.resends + 1 } else x) })
  again.foldl (fun s x => emit s (.flit p x.raw)) s

/-- The first kept LSEQ of a port. -/
def firstKept (q : Port) : Nat := ((q.flow.replay.head?).map (·.lseq)).getD q.flow.txLseq

/-- HELLO (R405 step 4; log 31): kind, port, node ID, slot. -/
def helloBody (s : State) (p : Nat) : Bytes :=
  let k := match (portOf s p).kind with
    | .mesh => 0
    | .accel => 1
    | .far => 2
    | .off => 3
  leBytes 1 k ++ leBytes 1 p ++ leBytes 2 (nodeId s) ++ leBytes 1 s.ident.slot.toNat

/-- FLIT_LOCK (R405 step 3): the kept flits of a retrained port go again, and HELLO is sent. -/
def execFlitLock (port : Nat) (s : State) : Out :=
  let q := portOf s port
  if q.state = .training ∧ q.step = 3 then
    let s := portMod s port (fun q => { q with step := 4, stepSince := s.now })
    let s := flowMod s port (fun f => { f with replay := f.replay.map (fun x => { x with resends := 0 }) })
    .next (portSettle (lctlSend (replayFrom s port (firstKept q)) port 1 (helloBody s port)) port)
  else .next s

/-! ### HELLO (R29, R31, R397) -/

/-- The slots to which R29 wires a port of a slot, on boards of two, four and eight modules. -/
def wiredSlots (p slot : Nat) : List Nat :=
  (if 1 ≤ p ∧ p ≠ 4 ∧ slot < 2 then [slot ^^^ 1] else [])
    ++ (if p % 4 ≠ 0 ∧ slot < 4 then [slot ^^^ (p % 4)] else [])
    ++ (if 1 ≤ p then [slot ^^^ p] else [])

/-- What HELLO shows: the first value says whether slot and port follow R29, the second whether kind and node ID follow R397. -/
def helloCheck (s : State) (p : Nat) (b : Bytes) : Bool × Bool :=
  let node := leAt b 2 2
  let fair := decide (node < 0xFFF) && node != nodeId s
  match (portOf s p).kind with
  | .mesh =>
    (leAt b 1 1 == p && (wiredSlots p s.ident.slot.toNat).contains (leAt b 4 1),
     fair && leAt b 0 1 == 0 && node == s.ident.board * 8 + leAt b 4 1)
  | .accel => (true, fair && node == (portOf s p).partnerCfg)
  | .far => (true, fair)
  | .off => (true, false)

/-- The certificate of this module goes out on a port (R420); it has none without its root key (R597). -/
def authStart (s : State) (p : Nat) : State :=
  if !s.sec.krOk then s
  else lctlSend (portMod s p (fun q => { q with certIn := [], pointIn := [], eph := [] })) p 2 (certChain s)

/-- Step 6 of R405: the port waits for its first TIME exchange. -/
def awaitTime (s : State) (p : Nat) : State :=
  portMod s p (fun q => { q with state := if q.state = .inService then .inService else .authenticating, step := 6,
                                 stepSince := s.now, time := { q.time with heard := false, lastSent := 0 } })

/-- HELLO (R31, R397, R405, R420). -/
def execHello (port : Nat) (s : State) : Out :=
  match inboxHead s port (isLctl 1) with
  | none => .next s
  | some f =>
    let q := portOf s port
    let s := inboxPop s port
    if q.state ≠ .training ∨ q.step ≠ 4 then .next s
    else
      let b := ctlOne f
      let (wired, kindOk) := helloCheck s port b
      if wired && kindOk then
        let s := portMod s port (fun q => { q with partner := leAt b 2 2 })
        if q.key.isSome then .next (awaitTime s port)
        else
          let s := portMod s port (fun q => { q with state := .authenticating, step := 5, stepSince := s.now })
          .next (if nodeId s < leAt b 2 2 then authStart s port else s)
      else
        let s := if wired then s else portMod s port (fun q => { q with mismatch := stickySet s.now })
        .next (portDown (linkLog s port 1 0) port .down (some (s.now + secT 10)))

/-! ### Authentication (R420, R421) -/

/-- Whether a port is in an authentication: at step 5, or renewing its key in service (R426). None authenticates without the root
key, or after a debug unlock (R597, R625). -/
def inAuth (s : State) (q : Port) : Bool :=
  s.sec.krOk && !s.sec.debugUnlocked
    && ((q.state == .authenticating && q.step == 5) || (q.state == .inService && q.step == 5))

/-- Number of a kind in a certificate (R606). -/
def kindNum (k : PortKind) : Nat :=
  match k with
  | .mesh => 0
  | .accel => 1
  | .far => 2
  | .off => 3

/-- Enrolled anchors. -/
def anchorList (s : State) : List Bytes := s.sec.anchors.map (·.2)

/-- The partner of a port, as a key exchange sees it: its chain and its ephemeral point. -/
def peerOf (q : Port) : Bytes := q.certIn ++ q.pointIn

/-- AUTH_CERT (R420 steps 1 and 2, R421): its parts are gathered; B answers with its own, and A with its point. A port in
service whose key is due for renewal takes part as well (R426). -/
def execAuthCert (port : Nat) (s : State) : Out :=
  match inboxHead s port (isLctl 2) with
  | none => .next s
  | some f =>
    let s := inboxPop s port
    let q := portOf s port
    let (part, total, b) := ctlBody f
    let q := if q.state = .inService ∧ q.step = 6 ∧ part = 0 ∧ q.partner < nodeId s then { q with step := 5 } else q
    if !inAuth s q then .next s
    else
      let cert := (if part = 0 then [] else q.certIn) ++ b
      let s := portMod s port (fun _ => { q with certIn := cert, stepSince := s.now })
      if cert.length < total then .next s
      else if !Config.chainTrusted (anchorList s) cert (kindNum q.kind) then .next (portUntrusted s port)
      else if q.partner < nodeId s then .next (lctlSend s port 2 (certChain s))
      else
        let (s, e) := drawEph s
        .next (lctlSend (portMod s port (fun q => { q with eph := e })) port 3 (vbytes (Config.ecPoint e)))

/-- KEYX_A (R420 steps 3 and 4): B sends its point and S_B. -/
def execKeyxA (port : Nat) (s : State) : Out :=
  match inboxHead s port (isLctl 3) with
  | none => .next s
  | some f =>
    let s := inboxPop s port
    let q := portOf s port
    if !inAuth s q || q.certIn.isEmpty || decide (nodeId s < q.partner) then .next s
    else
      let (s, e) := drawEph s
      let q := { q with pointIn := slice (ctlOne f) 0 64, eph := e }
      let s := portMod s port (fun _ => q)
      .next (lctlSend s port 4 (vbytes (Config.ecPoint e) ++ vbytes (Config.confirmMake (ownSeed s) (peerOf q) e false)))

/-- The port key takes effect: SSEQ starts at 1 in both directions (R420, R426). -/
def portKeyed (s : State) (p : Nat) : State :=
  portMod s p (fun q => { q with
    key := some (splitKeys (vbytes (Config.keyExchange (ownSeed s) (peerOf q) q.eph)) (nodeId s < q.partner))
    keySince := s.now
    flow := { q.flow with txSseq := 1, rxSseq := 1 } })

/-- KEYX_B (R420 steps 4 and 5, R421): A checks S_B and sends S_A. -/
def execKeyxB (port : Nat) (s : State) : Out :=
  match inboxHead s port (isLctl 4) with
  | none => .next s
  | some f =>
    let s := inboxPop s port
    let q := portOf s port
    if !inAuth s q || q.eph.isEmpty || decide (q.partner < nodeId s) then .next s
    else
      let q := { q with pointIn := slice (ctlOne f) 0 64 }
      let s := portMod s port (fun _ => q)
      if Config.confirmOk (ownSeed s) (peerOf q) q.eph (slice (ctlOne f) 64 32) then
        .next (portKeyed (lctlSend s port 5 (vbytes (Config.confirmMake (ownSeed s) (peerOf q) q.eph true))) port)
      else .next (portUntrusted s port)

/-- CONF_A (R420 steps 5 and 6, R421): B checks S_A; AUTH_DONE is its first flit under the port key. -/
def execConfA (port : Nat) (s : State) : Out :=
  match inboxHead s port (isLctl 5) with
  | none => .next s
  | some f =>
    let s := inboxPop s port
    let q := portOf s port
    if !inAuth s q || q.pointIn.isEmpty || decide (nodeId s < q.partner) then .next s
    else if Config.confirmOk (ownSeed s) (peerOf q) q.eph (slice (ctlOne f) 0 32) then
      .next (lctlSend (portKeyed s port) port 6 [])
    else .next (portUntrusted s port)

/-- AUTH_DONE (R405, R420): the port is authenticated; A answers with its own AUTH_DONE. -/
def execAuthDone (port : Nat) (s : State) : Out :=
  match inboxHead s port (isLctl 6) with
  | none => .next s
  | some _ =>
    let s := inboxPop s port
    let q := portOf s port
    if !inAuth s q || q.key.isNone then .next s
    else .next (awaitTime (if nodeId s < q.partner then lctlSend s port 6 [] else s) port)

/-- How long a step of port entry may take (R405). -/
def stepLimit (step : Nat) : Option Nat :=
  match step with
  | 1 => some (msT 30)
  | 2 => some (msT 30)
  | 3 => some (msT 1)
  | 4 => some (usT 10)
  | 5 => some (msT 5)
  | _ => none

/-- TRAINING_TIMEOUT (R405, R421, R456): a step of port entry fails. -/
def execTrainingTimeout (port : Nat) (s : State) : Out :=
  let q := portOf s port
  match stepLimit q.step with
  | none => .next s
  | some t =>
    if (q.state = .training ∨ q.state = .authenticating ∨ q.state = .inService) ∧ q.stepSince + t ≤ s.now then
      if q.step = 5 then .next (portUntrusted s port)
      else if q.step = 4 then .next (portDown (linkLog s port 1 0) port .down (some (s.now + secT 10)))
      else .next (portDown (linkLog s port 1 0) port .down (some (s.now + secT 1)))
    else .next s

/-! ### Entering service (R405 step 6, R422, R428, R441) -/

/-- The first TIME exchange puts a port in service: its pair exchange or its system session begins (R405, R422, R428). -/
def portEnter (s : State) (p : Nat) : State :=
  let q := portOf s p
  let s' := portMod s p (fun q => { q with state := .inService, inServiceSince := some s.now, began := true, failed := false, lpIdleSince := s.now })
  let s' := repath s s'
  if q.kind ≠ .mesh then s'
  else if thas s'.link.pairKeys q.partner then systemBegin s' p
  else if nodeId s' < q.partner then pairBegin s' q.partner
  else s'

/-- A port whose TIME flits have gone and come is in service. -/
def portEnterIf (s : State) (p : Nat) : State :=
  let q := portOf s p
  if q.state = .authenticating ∧ q.step = 6 ∧ q.time.heard ∧ q.time.lastSent ≠ 0 then portEnter s p else s

/-- PATH_RETURN_TIMER (R441): back in service for 1 s, a port has its sessions again. -/
def execPathReturnTimer (port : Nat) (s : State) : Out :=
  match (portOf s port).inServiceSince with
  | none => .next s
  | some t =>
    if !(portOf s port).returned ∧ t + secT 1 ≤ s.now then
      .next (repath s (portMod s port (fun q => { q with returned := true })))
    else .next s

/-! ### Replay and credits (R417 to R419, R456) -/

/-- LINK_NAK (R417, R418): flits go again from the named LSEQ, or the port retrains where that flit has gone 8 times more. -/
def execLinkNak (port : Nat) (s : State) : Out :=
  match inboxHead s port (isLctl 7) with
  | none => .next s
  | some f =>
    let s := inboxPop s port
    let n := leAt (ctlOne f) 0 2 % 4096
    match (portOf s port).flow.replay.find? (fun x => x.lseq == n) with
    | none => .next s
    | some x => .next (if 8 ≤ x.resends then portRetrain s port else replayFrom s port n)

/-- REPLAY_TIMEOUT (R417): 2 µs with flits unacknowledged and LACK unchanged. -/
def execReplayTimeout (port : Nat) (s : State) : Out :=
  let q := portOf s port
  if portUp q ∧ !q.flow.replay.isEmpty ∧ q.flow.lackAt + usT 2 ≤ s.now then .next (replayFrom s port (firstKept q))
  else .next s

/-- CREDIT_WITHHELD_TIMEOUT (R456): after 1 ms it is logged; after 100 ms the port is held DOWN. -/
def execCreditWithheldTimeout (port channel : Nat) (s : State) : Out :=
  let q := portOf s port
  match tget q.flow.withheldSince channel with
  | none => .next s
  | some t =>
    if q.state ≠ .inService ∨ q.flow.credits.getD channel 0 ≠ 0 then .next s
    else if t + msT 100 ≤ s.now then .next (portHold s port 6)
    else if t + msT 1 ≤ s.now ∧ !q.flow.withheldLogged.contains channel then
      .next (flowMod (linkLog s port 5 0) port (fun f => { f with withheldLogged := f.withheldLogged ++ [channel] }))
    else .next s

/-- PORT_FAILURE_TIMEOUT (R652): a peer port that has stayed DOWN for 60 s is declared failed. -/
def execPortFailureTimeout (port : Nat) (s : State) : Out :=
  let q := portOf s port
  if q.kind ≠ .off ∧ q.state ≠ .inService ∧ q.state ≠ .off ∧ !q.failed ∧ s.boot.stage = .served ∧ q.downSince + secT 60 ≤ s.now then
    .next (portMod s port (fun q => { q with failed := true }))
  else .next s

end Sys2Proof.Machine
end

