-- ==== Sys2Proof/Machine/Relay.lean ====
section
/-! DEFINITION. RELAY_REDUCE: what a member sends, what an owner sums, and how a step that waits for flits completes (R67,
R68, R219 to R221, R451, R452, R651). -/

namespace Sys2Proof.Machine

/-! ### The step (R219, R233) -/

/-- The slots of a relay-reduce's GROUP, in increasing order. -/
def relayGroup (st : VStep) : List Nat := (List.range 8).filter (fun k => natBit st.param k)

/-- The members other than this module. -/
def relayPeers (s : State) (st : VStep) : List Nat := (relayGroup st).filter (fun k => k != s.ident.slot.toNat)

/-- Mode: 0 SUM_TO, 1 ALLSUM, 2 TOPK_TO. -/
def relayMode (st : VStep) : Nat := natField st.param 8 2

/-- The half whose reduce unit sums (R220, R233). -/
def relayHalf (st : VStep) : Half := halfOf (natField st.param 13 1)

/-- Owner slot of SUM_TO and TOPK_TO. -/
def relayOwner (st : VStep) : Nat := natField st.param 10 3

/-- Rank of a slot in a group. -/
def rankOf (g : List Nat) (k : Nat) : Nat := (g.findIdx? (· == k)).getD 0

/-- Elements that a rank owns in ALLSUM, first and past the last (R219). -/
def relayRange (n members j : Nat) : Nat × Nat := (j * n / members, (j + 1) * n / members)

/-- The relay-reduce of a waiting step, as RED flits name it: the lead's context, the step and the iteration mod 4. -/
structure RedKey where
  ctx : Nat
  step : Nat
  iter : Nat
  deriving DecidableEq, Repr

/-- The key of a context's step in an iteration. -/
def redKey (n : Nat) (x : Ctx) (step iter : Nat) : RedKey := { ctx := leadCtxOf n x, step := step, iter := iter % 4 }

/-- ARG of a RED flit (R451). -/
def redArg (k : RedKey) (blk : Nat) : Nat := k.ctx % 64 + k.step % 2 ^ 20 * 2 ^ 6 + k.iter * 2 ^ 26 + blk % 2 ^ 16 * 2 ^ 28

/-- A range sent to a module in RED flits, spread over its system sessions (R451). -/
def redSend (s : State) (slot : Nat) (k : RedKey) (b : Bytes) : State :=
  let node := s.ident.board * 8 + slot
  let ks := systemSessions s node
  (List.range (ceilDiv b.length 224)).foldl (fun s i =>
    match ks[i % max 1 ks.length]? with
    | none => s
    | some x => sessSend s x (mkFlit 8 2 (min 224 (b.length - 224 * i)) (redArg k i) false (fit 224 (b.drop (224 * i))))) s

/-! ### Blocks that have come (R220, R452) -/

/-- The blocks of a relay-reduce from a module, first or second of their numbers, in the order in which they came. -/
def redBlocks (s : State) (slot : Nat) (k : RedKey) (nth : Nat) : List RedBlock :=
  s.link.reduce.filter (fun b => b.node == s.ident.board * 8 + slot && b.ctx == k.ctx && b.step == k.step && b.iter == k.iter
    && b.nth == nth)

/-- Whether a range of n bytes has come in full. -/
def redFull (s : State) (slot : Nat) (k : RedKey) (nth n : Nat) : Bool :=
  let bs := (redBlocks s slot k nth).map (·.blk)
  (List.range (ceilDiv n 224)).all (fun i => bs.contains i)

/-- A range of n bytes as it came. -/
def redRange (s : State) (slot : Nat) (k : RedKey) (nth n : Nat) : Bytes :=
  fit n ((redBlocks s slot k nth).foldl (fun b x => place b (224 * x.blk) x.data) [])

/-- A poisoned FP32 partial element (R651). -/
def redPoison : Nat := 0x7F800001

/-- FP32 words of a byte string. -/
def words32 (b : Bytes) : List Nat := (List.range (b.length / 4)).map (fun i => leAt b (4 * i) 4)

/-- A block joins a running sum (R220). -/
def addBlock (acc : Array Nat) (b : RedBlock) : Array Nat :=
  (words32 b.data).zipIdx.foldl (fun a w =>
    let i := 56 * b.blk + w.2
    if i < a.size then a.set! i (fpAdd (a.getD i 0) w.1) else a) acc

/-- The sum of an owner's range: its own partial, then every block of the other members in the order in which they came;
none where an element is poison (R67, R220, R651). -/
def redSum (s : State) (st : VStep) (k : RedKey) (own : Bytes) : Option (List Nat) :=
  let peers := (relayPeers s st).map (fun j => s.ident.board * 8 + j)
  let bs := s.link.reduce.filter (fun b => peers.contains b.node && b.ctx == k.ctx && b.step == k.step && b.iter == k.iter
    && b.nth == 0)
  if (words32 own).contains redPoison || bs.any (fun b => (words32 b.data).contains redPoison) then none
  else some ((bs.foldl addBlock (words32 own).toArray).toList)

/-! ### Completion -/

/-- What a relay-reduce held leaves the reduce buffer; marks of its earlier iterations end (R452). -/
def redClear (s : State) (k : RedKey) : State :=
  { s with link := { s.link with
      reduce := s.link.reduce.filter (fun b => !(b.ctx == k.ctx && b.step == k.step && b.iter == k.iter))
      redSeen := s.link.redSeen.filter (fun m => !(m.2.1 == k.ctx && m.2.2.1 == k.step && m.2.2.2.1 != k.iter)) } }

/-- A waiting step is no longer pending. -/
def relayEnds (s : State) (n : Nat) (x : Ctx) (p : Pend) : State :=
  redClear (ctxMod s n (fun x => { x with pending := x.pending.filter (fun y => y != p) })) (redKey n x p.step p.iter)

/-- A relay-reduce completes POISONED; `recRc` is what the completion record carries (R221, R649, R651). -/
def relayPoison (s : State) (n : Nat) (v : Volume) (x : Ctx) (st : VStep) (p : Pend) (recRc : Nat) : State :=
  finishStep (poisonOperAt (relayEnds s n x p) n v p.homes st.opc) n p.iter p.step rcPoisoned recRc

/-- Bytes of a range of m results as it travels, in the output format (R451): of FP8, its elements in whole blocks and their
scales (R38, R39). -/
def resultLen (o : Oper) (m : Nat) : Nat :=
  if isFp8 o.format then roundUp m 32 + ceilDiv m 32 else if o.format = 1 then 2 * m else 4 * m

/-- A range of sums rounded to the output format (R68, R219), or poison for the whole of it; poison of an FP8 range, of which
R651 gives no pattern, travels as scales of 0xFF (DESIGN CHOICE, log 37). -/
def resultBytes (o : Oper) (ws : Option (List Nat)) (count : Nat) : Bytes :=
  match ws with
  | some l =>
    if isFp8 o.format then
      let bs := (blocks32 (fill32 (l.map fp32))).map (encBlock (o.format == 3))
      (bs.map blkBytes).flatten ++ bs.map (·.scale)
    else if o.format = 1 then (l.map (wordOut o)).flatten else (l.map (leBytes 4)).flatten
  | none =>
    if isFp8 o.format then zeros (roundUp count 32) ++ List.replicate (ceilDiv count 32) 0xFF
    else (List.replicate count (if o.format = 1 then leBytes 2 0x7F81 else leBytes 4 redPoison)).flatten

/-- Whether a range of m results holds poison (R651). -/
def resultPoison (o : Oper) (m : Nat) (b : Bytes) : Bool :=
  if isFp8 o.format then (b.drop (roundUp m 32)).contains 0xFF
  else
    let w := if o.format = 1 then 2 else 4
    (List.range m).any (fun i => leAt b (w * i) w == (if o.format = 1 then 0x7F81 else redPoison))

/-- The values of an FP8 range. -/
def resultVals (e5 : Bool) (m : Nat) (b : Bytes) : List XVal :=
  (List.range m).map (fun i => opndVal (scaled (fp8 e5 (byteAt b i)) (byteAt b (roundUp m 32 + i / 32))))

/-- The outputs from ranges of results, each with its count, in order. The device decides no split here (R69). FP8 ranges that
cut a block are joined by rounding the block's values once more (DEDUCED, log 37). -/
def relayPieces (o : Oper) (rs : List (Nat × Bytes)) : List (Nat × Bytes) :=
  if isFp8 o.format then
    let e5 := o.format == 3
    if rs.all (fun r => r.1 % 32 == 0) then
      let n := o.length
      let base : List (Nat × Bytes) := [(0, ((rs.map (fun r => r.2.take r.1)).flatten).take n),
                                        (n, ((rs.map (fun r => r.2.drop r.1)).flatten).take (n / 32))]
      if operSplit o then base ++ [(n + n / 32, zeros (n + n / 32 + ceilDiv n 256))] else base
    else (encodeCols o 3 [(rs.map (fun r => resultVals e5 r.1 r.2)).flatten]).pieces
  else [(0, ((rs.map (·.2)).flatten).take (operLen o))]

/-- A relay-reduce completes with its outputs. -/
def relayDone (s : State) (n : Nat) (v : Volume) (x : Ctx) (st : VStep) (p : Pend) (rs : List (Nat × Bytes)) : State :=
  let o := operOf v st.opc
  let s := relayEnds s n x p
  if rs.any (fun r => resultPoison o r.1 r.2) then
    finishStep (poisonOperAt s n v p.homes st.opc) n p.iter p.step rcPoisoned rcPoisoned
  else
    let s := writeEncodedAt s n v { x with pc := p.step } st p.homes st.opc { pieces := relayPieces o rs }
      ((rs.map (·.1)).foldl (· + ·) 0) false
    finishStep s n p.iter p.step rcDone rcDone

/-- SUM_TO at its owner: once every member's vector has come, the sum is rounded and written (R219, R220). -/
def trySum (s : State) (n : Nat) (v : Volume) (x : Ctx) (st : VStep) (p : Pend) : State :=
  let k := redKey n x p.step p.iter
  if (relayPeers s st).all (fun j => redFull s j k 0 p.data.length) then
    match redSum s st k p.data with
    | none => relayPoison s n v x st p rcPoisoned
    | some ws => relayDone s n v x st p [(ws.length, resultBytes (operOf v st.opc) (some ws) 0)]
  else s

/-- TOPK_TO at its owner: the lists merged by R213 (R219). -/
def tryTopk (s : State) (n : Nat) (v : Volume) (x : Ctx) (st : VStep) (p : Pend) : State :=
  let k := redKey n x p.step p.iter
  if (relayPeers s st).all (fun j => redFull s j k 0 p.data.length) then
    let all := p.data ++ ((relayPeers s st).map (fun j => redRange s j k 0 p.data.length)).flatten
    if (candsOf all).any (fun c => c.1 == redPoison) then relayPoison s n v x st p rcPoisoned
    else
      let s := relayEnds s n x p
      let out := (candBytes (topCands (p.data.length / 8) (candsOf all))).take (operLen (operOf v st.opc))
      finishStep (putOperAt s n v p.homes st.opc [(0, out)]) n p.iter p.step rcDone rcDone
  else s

/-- The range of ALLSUM that a slot owns, in elements. -/
def slotRange (st : VStep) (n slot : Nat) : Nat × Nat :=
  relayRange n (relayGroup st).length (rankOf (relayGroup st) slot)

/-- ALLSUM, first part: this module's own range is summed, rounded, and sent to every member (R219). -/
def allsumOwn (s : State) (n : Nat) (v : Volume) (x : Ctx) (st : VStep) (p : Pend) : State × Pend :=
  let k := redKey n x p.step p.iter
  let (lo, hi) := slotRange st (p.data.length / 4) s.ident.slot.toNat
  if p.own.isSome ∨ !(relayPeers s st).all (fun j => redFull s j k 0 (4 * (hi - lo))) then (s, p)
  else
    let res := resultBytes (operOf v st.opc) (redSum s st k (slice p.data (4 * lo) (4 * (hi - lo)))) (hi - lo)
    let p' := { p with own := some res }
    let s := ctxMod s n (fun x => { x with pending := x.pending.map (fun y => if y = p then p' else y) })
    ((relayPeers s st).foldl (fun s j => redSend s j k res) s, p')

/-- Elements of the range of ALLSUM that a slot owns. -/
def slotCount (st : VStep) (n slot : Nat) : Nat := (slotRange st n slot).2 - (slotRange st n slot).1

/-- ALLSUM, second part: with every range's results the step completes (R219). -/
def allsumAll (s : State) (n : Nat) (v : Volume) (x : Ctx) (st : VStep) (p : Pend) : State :=
  let k := redKey n x p.step p.iter
  let count := slotCount st (p.data.length / 4)
  let len (j : Nat) : Nat := resultLen (operOf v st.opc) (count j)
  match p.own with
  | none => s
  | some own =>
    if (relayPeers s st).all (fun j => redFull s j k 1 (len j)) then
      relayDone s n v x st p ((relayGroup st).map (fun j =>
        (count j, if j = s.ident.slot.toNat then own else redRange s j k 1 (len j))))
    else s

/-- A waiting relay-reduce goes as far as what has come allows. -/
def relayTry (s : State) (n : Nat) (p : Pend) : State :=
  match tget s.eng.ctxs n with
  | none => s
  | some x =>
    match (ctxVol s x).bind (fun v => (v.steps[p.step]?).map (fun st => (v, st))) with
    | none => s
    | some (v, st) =>
      match relayMode st with
      | 0 => trySum s n v x st p
      | 1 =>
        let (s, p) := allsumOwn s n v x st p
        allsumAll s n v (tgetD s.eng.ctxs n x) st p
      | _ => tryTopk s n v x st p

/-- Every waiting relay-reduce of a context. -/
def relayTryAll (s : State) (n : Nat) : State :=
  match tget s.eng.ctxs n with
  | none => s
  | some x => (x.pending.filter (fun p => p.due != 0)).foldl (fun s p => relayTry s n p) s

/-! ### Release, loss of a partner -/

/-- Whether this module waits for flits in a relay-reduce: as owner, or as any member of ALLSUM (R219). -/
def relayWaits (s : State) (st : VStep) : Bool := relayMode st == 1 || relayOwner st == s.ident.slot.toNat

/-- A partner's session is lost with no path left: the step completes POISONED, and the completion record carries
PARTNER_ABSENT (R221). An owner of ALLSUM still sends poison to the members it reaches (R651). -/
def relayAbsent (s : State) (n : Nat) (p : Pend) : State :=
  match tget s.eng.ctxs n with
  | none => s
  | some x =>
    match (ctxVol s x).bind (fun v => (v.steps[p.step]?).map (fun st => (v, st))) with
    | none => s
    | some (v, st) =>
      let (lo, hi) := slotRange st (p.data.length / 4) s.ident.slot.toNat
      let s := if relayMode st = 1 ∧ p.own.isNone then
          (relayPeers s st).foldl (fun s j => redSend s j (redKey n x p.step p.iter) (resultBytes (operOf v st.opc) none (hi - lo))) s
        else s
      relayPoison s n v x st p rcPartnerAbsent

/-- Whether a module has an open system session (R221, R428). -/
def peerLost (s : State) (slot : Nat) : Bool := (systemSessions s (s.ident.board * 8 + slot)).isEmpty

/-- Whether flits of a member that this module waits for have not come yet (R221). -/
def peerOwes (s : State) (n : Nat) (v : Volume) (x : Ctx) (st : VStep) (p : Pend) (j : Nat) : Bool :=
  let k := redKey n x p.step p.iter
  let all := p.data.length
  if relayMode st = 1 then
    !redFull s j k 0 (4 * slotCount st (all / 4) s.ident.slot.toNat)
      || !redFull s j k 1 (resultLen (operOf v st.opc) (slotCount st (all / 4) j))
  else !redFull s j k 0 all

/-- Whether a member of a waiting relay-reduce is lost before all of its flits have come (R221). -/
def relayCut (s : State) (n : Nat) (v : Volume) (x : Ctx) (st : VStep) (p : Pend) : Bool :=
  (relayPeers s st).any (fun j => peerLost s j && peerOwes s n v x st p j)

/-- A system session to a node is lost: relay-reduces that wait for it and find no other session end (R221). -/
def redLost (s : State) : State :=
  s.eng.ctxs.foldl (fun s e => (e.2.pending.filter (fun p => p.due != 0)).foldl (fun s p =>
    match (ctxVol s e.2).bind (fun v => (v.steps[p.step]?).map (fun st => (v, st))) with
    | none => s
    | some (v, st) => if relayCut s e.1 v e.2 st p then relayAbsent s e.1 p else s) s) s

/-- RELAY_REDUCE at its release: a member's partials go to their owners, poisoned elements by R651, and a module that waits
for flits keeps the step until they have come, its target store halves FILLING (R219 to R221, R257). -/
def relayBody (n : Nat) (s : State) (v : Volume) (x : Ctx) (st : VStep) : State :=
  if !homesFree s v x st.opc then s
  else
    match refusedAddr s v x st with
    | some (a, rc) => refuseStep s n x a rc
    | none =>
      let (s, b, bad) := readOper s n v st.opa .none
      let b := if bad then (List.replicate (b.length / 4) (leBytes 4 redPoison)).flatten else b
      let k := redKey n x x.pc x.iter
      let send (j : Nat) : Bytes :=
        if relayMode st = 1 then let r := slotRange st (b.length / 4) j; slice b (4 * r.1) (4 * (r.2 - r.1))
        else if j = relayOwner st then b else []
      let s := (relayPeers s st).foldl (fun s j => redSend s j k (send j)) s
      if relayWaits s st then
        let homes := if (operOf v st.opc).kind = kAct then actHomes s v x st.opc else []
        let p : Pend := { step := x.pc, iter := x.iter, due := (relayPeers s st).length + 1, at_ := s.now, data := b, homes := homes }
        let s := passStep (ctxMod (holdActs s homes) n (fun x => { x with pending := x.pending ++ [p] })) n
        if relayCut s n v x st p then relayAbsent s n p else relayTry s n p
      else doneStep s n x (if bad then rcPoisoned else rcDone)

/-- RELAY_REDUCE (R219 to R221). -/
def execRelayReduce (ctx : Nat) (s : State) : Out := .next (runStep s ctx opRelay (relayBody ctx))

end Sys2Proof.Machine
end

