-- ==== Sys2Proof/Machine/LinkSession.lean ====
section
/-! DEFINITION. Sessions: the pair exchange as it arrives, opening, acknowledgement, keys and loss (R221, R279, R358, R422,
R423, R426 to R434, R539). -/

namespace Sys2Proof.Machine

/-! ### Loss (R221, R279, R358, R374, R379, R433, R539) -/

/-- The components that a master holds on a node, whose session is lost: a mirror or parity set goes on without them (R374,
R379). -/
def handlesLost (s : State) (node mid : Nat) : State :=
  (s.pool.handles.filter (fun p => p.2.master == mid && p.2.node == node && p.2.protect != 0)).foldl (fun s p =>
    match p.2.protect, p.2.set with
    | 1, _ => mirrorLoss s p.1 .primary
    | _, some set => parityLoss s set (((setHandles s set).findIdx? (· == p.1)).getD 0)
    | _, none => s) s

/-- A handle shows DIVERGED from an answer that says so until one that does not (R376, R577). -/
def handleSeen (s : State) (o : Outst) (st : Nat) : State :=
  match masterHandle s o.mid o.addr 1 with
  | none => s
  | some (n, h) =>
    if st = 0x71 ∧ h.state = .live then { s with pool := { s.pool with handles := tset s.pool.handles n { h with state := .diverged } } }
    else if st = 0 ∧ h.state = .diverged then { s with pool := { s.pool with handles := tset s.pool.handles n { h with state := .live } } }
    else s

/-- A write that the lender refused is dropped and counted against its handle (R356). -/
def writeRefused (s : State) (o : Outst) (st : Nat) : State :=
  let s := handleSeen s o st
  match masterHandle s o.mid o.addr o.data.length with
  | none => s
  | some (n, h) => poolRefused s n h st

/-- A lost session's outstanding requests complete PARTNER_ABSENT; a write is counted against its handle (R356, R359, R433). -/
def outstandingFail (s : State) (l : List Outst) : State :=
  l.foldl (fun s o => emit (if o.write ∧ daRange o.addr = 3 then writeRefused s o rcPartnerAbsent else s)
    (.runtimeData o.mid o.addr (if o.write then [] else zeros (64 * o.lines)) (!o.write) rcPartnerAbsent)) s

/-- Forwarded messages of a node whose session is lost: unread ones are discarded, and taken ones answer nothing (R539). -/
def forwardsDropped (s : State) (node : Nat) : State :=
  { s with cp := { s.cp with
      fwdQueue := s.cp.fwdQueue.filter (fun f => f.node != node)
      running := s.cp.running.map (fun c => if isForward c.src ∧ c.node = node then { c with suppressed := true } else c) } }

/-- A link-session master ID is on the way to being free, 65 s after its session's loss; its call slips are silenced, and
its extents returned (R279, R358, R433). -/
def midLost (s : State) (mid : Nat) : State :=
  let s := { s with link := { s.link with midFreeing := tset s.link.midFreeing mid (s.now + secT 65) } }
  returnMaster (silencePoster s mid) mid

/-- The RED flits of a session that are not acknowledged, in the clear and in their order (R451). -/
def redsLeft (x : Session) : List Flit :=
  (x.unacked.filterMap (fun u =>
    let f := parseFlit (u.2.2.take 16) (slice u.2.2 16 224)
    if f.type = 8 then some { f with payload := flitCrypt x.keyTx f.sseq f.payload } else none))
    ++ x.unsent.filter (fun f => f.type == 8)

/-- RED flits of a lost session sent again on those that remain, each by its block (R451). -/
def redsResend (s : State) (node : Nat) (l : List Flit) : State :=
  l.foldl (fun s f =>
    let ks := systemSessions s node
    match ks[natField f.arg 28 16 % max 1 ks.length]? with
    | none => s
    | some k => sessSend s k f) s

/-- A session is lost (R433): its keys and unsent flits are dropped, its requests complete PARTNER_ABSENT. A system session's reduce
flits go on those of the pair that remain (R451). -/
def sessionLost (s : State) (k : Nat × Nat) : State :=
  match sessOf s k with
  | none => s
  | some x =>
    let carried := (systemSessions s k.1).head? == some k
    let s := if x.kind = .pool ∧ x.initiator then handlesLost s k.1 x.localMid else s
    let left := ((sessOf s k).map (·.outstanding)).getD []
    let s := { s with link := { s.link with sessions := tdel s.link.sessions k
                                            parts := s.link.parts.filter (fun p => !(p.node == k.1 && p.sid == k.2)) } }
    let s := outstandingFail s left
    let s := if x.kind ≠ .system ∧ !x.initiator then midLost s x.localMid else s
    if x.kind = .system then
      let s := redsResend s k.1 (redsLeft x)
      redLost (if carried then forwardLost (forwardsDropped s k.1) k.1 else s)
    else s

/-- Sessions that pass a test are lost. -/
def sessionsLost (s : State) (p : Nat × Nat → Session → Bool) : State :=
  (s.link.sessions.filter (fun x => p x.1 x.2)).foldl (fun s x => sessionLost s x.1) s

/-- Whether a flit other than a SACK is unacknowledged. -/
def awaitsSack (x : Session) : Bool := x.unacked.any (fun u => !u.2.1)

/-- SESSION_LOSS_TIMEOUT (R433). -/
def execSessionLossTimeout (node sid : Nat) (s : State) : Out :=
  match sessOf s (node, sid) with
  | none => .next s
  | some x =>
    let noSack := awaitsSack x && decide (x.lastSack + msT 10 ≤ s.now)
    let noPath := match x.noPathSince with
      | none => false
      | some t => decide (t + msT 10 ≤ s.now)
    let noPong := match x.pingAt with
      | none => false
      | some t => decide (t + msT 100 ≤ s.now)
    if x.state ≠ .opening ∧ (noSack || noPath || noPong) then .next (sessionLost s (node, sid)) else .next s

/-- The queues that a master ID posts are destroyed (R433, R571). -/
def postedQueuesEnd (s : State) (mid : Nat) : State := { s with queues := tfilter s.queues (fun _ q => q.poster != mid) }

/-- MASTER_ID_FREE_TIMEOUT (R433): 65 s after the loss the master ID is free. -/
def execMasterIdFreeTimeout (mid : Nat) (s : State) : Out :=
  match tget s.link.midFreeing mid with
  | none => .next s
  | some t =>
    if t ≤ s.now then
      .next (postedQueuesEnd { s with
        masters := tdel s.masters mid
        link := { s.link with midFreeing := tdel s.link.midFreeing mid, mids := tdel s.link.mids mid } } mid)
    else .next s

/-! ### Acknowledgement (R432) -/

/-- The flits that a SACK leaves: those after the one that it names (R432). -/
def sackLeaves (l : List (Nat × Bool × Bytes)) (sseq : Nat) : List (Nat × Bool × Bytes) :=
  if l.any (fun u => u.1 == sseq) then (l.dropWhile (fun u => u.1 != sseq)).drop 1 else l

/-- A SACK covers the flits up to its SSEQ: they are no longer kept, and waiting ones may go. A session that was to close
does so once nothing is left (R434). -/
def sackUpTo (s : State) (k : Nat × Nat) (sseq : Nat) : State :=
  match sessOf s k with
  | none => s
  | some x =>
    let kept := sackLeaves x.unacked sseq
    let s := if kept.length < x.unacked.length then
        sessMod s k (fun x => { x with unacked := kept, lastSack := s.now })
      else s
    let s := sessDrain x.unsent.length s k
    match sessOf s k with
    | none => s
    | some x => if x.state = .closing ∧ !awaitsSack x ∧ x.unsent.isEmpty then sessionLost (sctlSend s k 12 []) k else s

/-- The session of a flit. -/
def flitKey (f : Flit) : Nat × Nat := (f.src, f.sid)

/-- SACK (R432). -/
def execSack (port : Nat) (s : State) : Out :=
  match inboxHead s port (isSctl 8) with
  | none => .next s
  | some f => .next (sackUpTo (inboxPop s port) (flitKey f) (leAt (ctlOne f) 0 4))

/-- SESSION_RESEND_TIMEOUT (R432): 20 µs with no SACK progress, and again every 20 µs. -/
def execSessionResendTimeout (node sid : Nat) (s : State) : Out :=
  match sessOf s (node, sid) with
  | none => .next s
  | some x =>
    if awaitsSack x ∧ max x.lastSack x.resentAt + usT 20 ≤ s.now then
      .next (sessResend (sessMod s (node, sid) (fun x => { x with resentAt := s.now })) (node, sid))
    else .next s

/-- SESSION_SILENCE_PING (R433): after 10 ms in which nothing came. -/
def execSessionSilencePing (node sid : Nat) (s : State) : Out :=
  match sessOf s (node, sid) with
  | none => .next s
  | some x =>
    if x.state = .opened ∧ x.pingAt = none ∧ x.heardAt + msT 10 ≤ s.now then
      .next (sctlSend (sessMod s (node, sid) (fun x => { x with pingAt := some s.now })) (node, sid) 9 [])
    else .next s

/-- PING (R433): answered with PONG. -/
def execPing (port : Nat) (s : State) : Out :=
  match inboxHead s port (isSctl 9) with
  | none => .next s
  | some f => .next (sctlSend (inboxPop s port) (flitKey f) 10 [])

/-- PONG (R433): the session goes on. -/
def execPong (port : Nat) (s : State) : Out :=
  match inboxHead s port (isSctl 10) with
  | none => .next s
  | some f => .next (sessMod (inboxPop s port) (flitKey f) (fun x => { x with pingAt := none }))

/-- CLOSE (R433, R434): the session ends with the effects of a loss. -/
def execClose (port : Nat) (s : State) : Out :=
  match inboxHead s port (isSctl 12) with
  | none => .next s
  | some f => .next (sessionLost (inboxPop s port) (flitKey f))

/-! ### Keys (R426) -/

/-- REKEY_DUE (R426): REKEY is the last flit under the old key; the next uses the next epoch's, with SSEQ 1. -/
def execRekeyDue (node sid : Nat) (s : State) : Out :=
  match sessOf s (node, sid) with
  | none => .next s
  | some x =>
    if x.state = .opened ∧ (0x80000000 ≤ x.txSseq ∨ x.keySince + secT 3600 ≤ s.now) ∧ x.unsent.isEmpty ∧ sessMay s (node, sid) x (mkFlit 3 3 0 0 false []) then
      let s := sctlSend s (node, sid) 11 (leBytes 4 (x.epochTx + 1))
      .next (sessMod s (node, sid) (fun x =>
        let (tx, _) := sessKeys s node sid x (x.epochTx + 1)
        { x with epochTx := x.epochTx + 1, keyTx := tx, txSseq := 1, keySince := s.now }))
    else .next s

/-- REKEY (R426): the receiver changes to the next epoch's key. -/
def execRekey (port : Nat) (s : State) : Out :=
  match inboxHead s port (isSctl 11) with
  | none => .next s
  | some f =>
    let k := flitKey f
    let s := inboxPop s port
    .next (sessMod s k (fun x =>
      let (_, rx) := sessKeys s k.1 k.2 x (x.epochRx + 1)
      { x with epochRx := x.epochRx + 1, keyRx := rx, rxSseq := 1 }))

/-! ### The pair exchange (R421, R422) -/

/-- A pair exchange fails: sessions that waited for it do not open, and what waited on them completes PARTNER_ABSENT (R429, R433). -/
def pairFail (s : State) (node : Nat) : State :=
  let waiting := (s.link.sessions.filter (fun e => e.1.1 == node && e.2.state == .opening)).map (·.2.outstanding)
  let s := outstandingFail s waiting.flatten
  let s := { s with link := { s.link with
      pairStage := tdel s.link.pairStage node
      sessions := tfilter s.link.sessions (fun k x => !(k.1 == node && x.state == .opening)) } }
  match (List.range 8).find? (fun p => (portOf s p).partner == node) with
  | none => s
  | some p => portMod (linkLog s p 2 rcPartnerUntrusted) p (fun q => { q with refusal := rcPartnerUntrusted })

/-- The certificate kind for which a node must be trusted: that of the port through which it is reached. -/
def nodeKind (s : State) (p node : Nat) : Nat := if (portOf s p).partner = node then kindNum (portOf s p).kind else 2

/-- PAIR_CERT (R422): its parts are gathered; a side that has not sent its own does so, and A sends its point. -/
def execPairCert (port : Nat) (s : State) : Out :=
  match inboxHead s port (isSctl 1) with
  | none => .next s
  | some f =>
    let s := inboxPop s port
    let node := f.src
    let (part, total, b) := ctlBody f
    let started := thas s.link.pairStage node
    let cert := (if part = 0 then [] else (pairOf s node).certIn) ++ b
    let s := pairMod s node (fun x => { x with certIn := cert })
    if cert.length < total then .next s
    else if !Config.chainTrusted (anchorList s) cert (nodeKind s port node) then .next (pairFail s node)
    else
      let s := if started ∧ (pairOf s node).step ≠ 0 then s
        else pairPart (pairMod s node (fun x => { x with step := 1 })) node 1 (certChain s)
      if nodeId s < node then
        let (s, e) := drawEph s
        .next (pairPart (pairMod s node (fun x => { x with eph := e, step := 2 })) node 2 (vbytes (Config.ecPoint e)))
      else .next s

/-- The partner of a pair exchange: its chain and its point. -/
def pairPeer (x : PairExch) : Bytes := x.certIn ++ x.pointIn

/-- PAIR_X_A (R422): B answers with its point and confirmation. -/
def execPairXA (port : Nat) (s : State) : Out :=
  match inboxHead s port (isSctl 2) with
  | none => .next s
  | some f =>
    let s := inboxPop s port
    let x := pairOf s f.src
    if x.certIn.isEmpty ∨ nodeId s < f.src then .next s
    else
      let (s, e) := drawEph s
      let x := { x with pointIn := slice (ctlOne f) 0 64, eph := e, step := 3 }
      .next (pairPart (pairMod s f.src (fun _ => x)) f.src 3
        (vbytes (Config.ecPoint e) ++ vbytes (Config.confirmMake (ownSeed s) (pairPeer x) e false)))

/-- The pair secret takes effect: the pair control keys follow from it, and sessions that waited are opened (R422, R423). -/
def pairDone (s : State) (node : Nat) : State :=
  let x := pairOf s node
  let sec := (vbytes (Config.keyExchange (ownSeed s) (pairPeer x) x.eph)).take 32
  let s := { s with link := { s.link with
      pairKeys := tset s.link.pairKeys node sec
      pairStage := tdel s.link.pairStage node
      pairSseq := tset s.link.pairSseq node (1, 1) } }
  let s := openWaiting s node
  (pairPorts s node).foldl (fun s p => if (portOf s p).kind = .mesh then systemBegin s p else s) s

/-- PAIR_X_B (R422): A checks S_B and sends S_A. -/
def execPairXB (port : Nat) (s : State) : Out :=
  match inboxHead s port (isSctl 3) with
  | none => .next s
  | some f =>
    let s := inboxPop s port
    let x := pairOf s f.src
    if x.eph.isEmpty ∨ f.src < nodeId s then .next s
    else
      let x := { x with pointIn := slice (ctlOne f) 0 64 }
      let s := pairMod s f.src (fun _ => x)
      if Config.confirmOk (ownSeed s) (pairPeer x) x.eph (slice (ctlOne f) 64 32) then
        .next (pairDone (pairPart s f.src 4 (vbytes (Config.confirmMake (ownSeed s) (pairPeer x) x.eph true))) f.src)
      else .next (pairFail s f.src)

/-- PAIR_CONF (R422): B checks S_A, and the pair secret is established. -/
def execPairConf (port : Nat) (s : State) : Out :=
  match inboxHead s port (isSctl 4) with
  | none => .next s
  | some f =>
    let s := inboxPop s port
    let x := pairOf s f.src
    if x.pointIn.isEmpty ∨ nodeId s < f.src then .next s
    else if Config.confirmOk (ownSeed s) (pairPeer x) x.eph (slice (ctlOne f) 0 32) then .next (pairDone s f.src)
    else .next (pairFail s f.src)

/-! ### Opening (R427 to R430) -/

/-- A kind from its code in OPEN (log 31). -/
def codeKind (n : Nat) : SessKind := if n = 0 then .system else if n = 1 then .pool else .bound

/-- The home port of a session that a partner opens: a binding's port, or, of a POOL session, the port of the pair, or the
one by which OPEN came. -/
def homePort (s : State) (port node : Nat) : Nat := (pairPorts s node).headD port

/-- The lowest link-session master ID free on a port (R429, R510). -/
def freeMid (s : State) (p : Nat) : Option Nat := leastFrom (fun m => !thas s.link.mids m) 64 (0x80 + 64 * p)

/-- Opens from a node within the last 1 s, this one included (R429). -/
def recentOpens (s : State) (node : Nat) : List Nat :=
  ((tgetD s.link.openTimes node []).filter (fun t => decide (s.now < t + secT 1))) ++ [s.now]

/-- What R429 answers an OPEN: a refusal code, or the home port, the master ID and its tenant. -/
def openCheck (s : State) (port node sid mid : Nat) (kind : SessKind) : Nat × Option (Nat × Nat × Option Nat) :=
  let crowded := decide (64 < (recentOpens s node).length)
  match kind with
  | .system =>
    if sid < 8 ∧ inService s sid ∧ (portOf s sid).partner = node ∧ (portOf s sid).kind = .mesh then (rcDone, some (sid, 0, none))
    else (rcNotPermitted, none)
  | .pool =>
    if crowded then (rcNoSpace, none)
    else
      let p := homePort s port node
      match freeMid s p with
      | none => (rcNoSpace, none)
      | some m => (rcDone, some (p, m, none))
  | .bound =>
    match s.link.bindings.find? (fun b => b.node == node && b.mid == mid && b.port == homePort s port node) with
    | none => if s.link.bindings.any (fun b => b.node == node && b.mid == mid) then (rcNotPermitted, none) else (rcNotBound, none)
    | some b =>
      if crowded then (rcNoSpace, none)
      else
        match freeMid s b.port with
        | none => (rcNoSpace, none)
        | some m => (rcDone, some (b.port, m, some b.tenant))

/-- A session under its keys of epoch 0, opened (R423, R430). -/
def sessionKeyed (s : State) (k : Nat × Nat) (x : Session) : State :=
  let (tx, rx) := sessKeys s k.1 k.2 x 0
  let x := { x with state := .opened, keyTx := tx, keyRx := rx, keySince := s.now, heardAt := s.now, lastSack := s.now }
  let s := { s with link := { s.link with sessions := tset s.link.sessions k x } }
  sessDrain x.unsent.length s k

/-- SESSION_OPEN (R429, R430): SCTL OPEN is checked, and answered with ACCEPT or REFUSE. -/
def execSessionOpen (port : Nat) (s : State) : Out :=
  match inboxHead s port (isSctl 5) with
  | none => .next s
  | some f =>
    let s := inboxPop s port
    let b := ctlOne f
    let node := f.src
    let sid := f.sid
    let kind := codeKind (leAt b 1 1)
    let rmid := leAt b 2 2 % 4096
    let (rc, got) := openCheck s port node sid rmid kind
    let s := { s with link := { s.link with openTimes := tset s.link.openTimes node (recentOpens s node) } }
    let rc := if thas s.link.sessions (node, sid) || (decide (sid < 8) && kind != .system) then rcNotPermitted else rc
    match got with
    | none => .next (portMod (pairSend s node sid port (kind == .system) true 7 (leBytes 2 rc)) port (fun q => { q with refusal := rc }))
    | some (home, m, tenant) =>
      if rc ≠ rcDone then
        .next (portMod (pairSend s node sid port (kind == .system) true 7 (leBytes 2 rc)) port (fun q => { q with refusal := rc }))
      else
        let nt := trngBytes s.free 16
        let s := drew 16 s
        let x : Session := { kind := kind, state := .opened, initiator := false, remoteMid := rmid, localMid := m, port := home,
                             nonceI := slice b 4 16, nonceT := nt }
        let s := if kind = .system then s else { s with link := { s.link with mids := tset s.link.mids m (node, sid) } }
        let s := match tenant with
          | none => s
          | some t => { s with masters := tset s.masters m t }
        .next (sessionKeyed (pairSend s node sid home (kind == .system) true 6 (leBytes 2 m ++ nt)) (node, sid) x)

/-- SESSION_ACCEPT (R430): both ends have the keys. -/
def execSessionAccept (port : Nat) (s : State) : Out :=
  match inboxHead s port (isSctl 6) with
  | none => .next s
  | some f =>
    let s := inboxPop s port
    match sessOf s (flitKey f) with
    | none => .next s
    | some x =>
      if x.state ≠ .opening ∨ !x.initiator then .next s
      else .next (sessionKeyed s (flitKey f) { x with remoteMid := leAt (ctlOne f) 0 2, nonceT := slice (ctlOne f) 2 16 })

/-- SESSION_REFUSE (R429): the session is not opened, and LINK_STATUS reports the code. -/
def execSessionRefuse (port : Nat) (s : State) : Out :=
  match inboxHead s port (isSctl 7) with
  | none => .next s
  | some f =>
    let s := inboxPop s port
    match sessOf s (flitKey f) with
    | none => .next s
    | some x =>
      if x.state ≠ .opening ∨ !x.initiator then .next s
      else .next (portMod (outstandingFail { s with link := { s.link with sessions := tdel s.link.sessions (flitKey f) } } x.outstanding) port (fun q =>
        { q with refusal := leAt (ctlOne f) 0 2 }))

end Sys2Proof.Machine
end

