-- ==== Sys2Proof/Machine/LinkFlit.lean ====
section
/-! DEFINITION. A flit as it arrives: link check and sequence, acknowledgement, relays, malformed flits, tags, session
sequence and SACK, and messages put together (R404, R407 to R419, R424, R425, R431, R432, R442, R443, R450, R456). -/

namespace Sys2Proof.Machine

/-! ### Malformed flits (R408 to R415) -/

/-- Whether a read descriptor keeps R411: reserved bits zero, LOC aligned to 64 bytes, and in one window or extent. -/
def descOk (pool : Bool) (d : Nat) : Bool :=
  let loc := d % 2 ^ 44
  let lines := natField d 46 6 + 1
  natField d 44 2 == 0 &&
    (if pool then natField loc 41 3 == 0 && natField loc 11 30 % 64 == 0 && decide (natField loc 11 30 + 64 * lines ≤ 2 ^ 30)
     else natField loc 4 40 % 64 == 0 && decide (natField loc 4 40 + 64 * lines ≤ 2 ^ 40))

/-- Whether a STATUS is one of R415. -/
def statusKnown (n : Nat) : Bool := [0x00, 0x20, 0x30, 0x60, 0x70, 0x71, 0x80, 0x81, 0xE0].contains n

/-- TAGs of the descriptors of an RD_REQ (R411). -/
def descTags (f : Flit) : List Nat := (descsOf f).map (·.1)

/-- Whether the reserved parts of a header are zero and its type is one of R409. -/
def flitHeaderOk (h : Bytes) (f : Flit) : Bool :=
  natField (leAt h 0 16) 49 3 == 0 && decide (f.type ≤ 9) && decide (f.len ≤ 224)

/-- Whether the parts of a flit that its type gives keep R409 to R415 and R445; a lender's answers carry LOAD (R388, log 133). -/
def bodyOk (f : Flit) : Bool :=
  zeroAt f.payload f.len (224 - f.len) &&
  match f.type with
  | 1 => f.arg == 0
  | 2 => f.arg == 0 && byteAt f.payload 0x18 &&& 0xFC == 0
  | 3 => f.arg == 0
  | 4 => f.arg == 0 && f.len % 8 == 0 && (List.range (f.len / 8)).all (fun i => descOk f.pool (leAt f.payload (8 * i) 8))
    && decide ((descTags f).Nodup)
  | 5 => !f.pool || natField f.arg 41 3 == 0
  | 6 => statusKnown (natField f.arg 24 8) && (if f.pool then natField f.arg 39 5 == 0 else natField f.arg 37 7 == 0)
  | 7 => zeroAt f.payload 0 224 && statusKnown (natField f.arg 32 8)
    && (if f.pool then natField f.arg 42 2 == 0 else natField f.arg 40 4 == 0)
  | 9 => f.arg == 0
  | _ => true

/-- Times of the last second, with now. -/
def withNow (s : State) (l : List Nat) : List Nat := l.filter (fun t => decide (s.now < t + secT 1)) ++ [s.now]

/-- A malformed flit is counted; the 256th within 1 s holds the port DOWN for 10 s (R415, R456). -/
def malformed (s : State) (p : Nat) : State :=
  let times := withNow s (portOf s p).malformedTimes
  let s := countPort (portMod s p (fun q => { q with malformedTimes := times })) p (fun c =>
    { c with malformed := sat32 (c.malformed + 1) })
  if 256 ≤ times.length then portHold (portMod s p (fun q => { q with malformedTimes := [] })) p 3 else s

/-- A flit under the port key whose tag fails (R425, R456). -/
def portTagFail (s : State) (p : Nat) : State :=
  let times := withNow s (portOf s p).tagFailTimes
  let s := countPort (portMod s p (fun q => { q with tagFailTimes := times })) p (fun c => { c with tagFail := sat32 (c.tagFail + 1) })
  if 256 ≤ times.length then portHold (portMod s p (fun q => { q with tagFailTimes := [] })) p 3 else s

/-- A session flit whose tag fails; the 16th within 1 s loses the session (R425, R433, R456). -/
def sessTagFail (s : State) (p : Nat) (k : Nat × Nat) : State :=
  let s := countPort s p (fun c => { c with tagFail := sat32 (c.tagFail + 1) })
  match sessOf s k with
  | none => s
  | some x =>
    let times := withNow s x.tagFailTimes
    let s := sessMod s k (fun x => { x with tagFailTimes := times })
    if 16 ≤ times.length then sessionLost (linkLog s p 4 0) k else s

/-! ### Link check, sequence, acknowledgement (R404, R412, R416 to R419) -/

/-- A flit is discarded: the first after an accepted one asks for the expected LSEQ (R416). -/
def flitDiscard (s : State) (p : Nat) : State :=
  if (portOf s p).flow.nakSent then s
  else
    let s := countPort (flowMod s p (fun f => { f with nakSent := true })) p (fun c => { c with naks := sat32 (c.naks + 1) })
    lctlSend s p 7 (leBytes 2 (portOf s p).flow.rxLseq)

/-- LACK frees the kept flits up to it, and returned credits let waiting flits go (R412, R417, R419). -/
def flitAck (s : State) (p word : Nat) : State :=
  let lack := natField word 12 12
  let ch := natField word 24 2
  let n := natField word 26 6
  let q := portOf s p
  let covered := q.flow.replay.any (fun x => x.lseq == lack)
  let s := flowMod s p (fun f => { f with
    replay := if covered then (f.replay.dropWhile (fun x => x.lseq != lack)).drop 1 else f.replay
    lack := if covered then lack else f.lack
    lackAt := if covered then s.now else f.lackAt
    credits := if n = 0 then f.credits else listMod f.credits ch (fun c => min (c + n) ([128, 256, 256, 32].getD ch 0)) })
  portSettle s p

/-! ### Relays (R442, R443) -/

/-- Whether a flit from a port may pass on (R442, R443). -/
def arrivesFairly (s : State) (p : Nat) (f : Flit) : Bool :=
  match (portOf s p).kind with
  | .mesh => decide (f.hops ≤ 1) && (f.hops != 0 || f.src == (portOf s p).partner)
  | .accel => true
  | .far => f.dst == nodeId s
  | .off => false

/-- A flit's buffer is free at once, and its credit is owed. -/
def creditOwe (s : State) (p : Nat) (f : Flit) : State :=
  if f.type = 1 then s else portIdle (flowMod s p (fun w => { w with owed := listMod w.owed f.ch (· + 1) })) p

/-- The port by which a flit for another module of the board goes on (R442). -/
def relayTo (s : State) (f : Flit) : Option Nat := if f.dst / 8 = s.ident.board then pickPort (pairPorts s f.dst) f.sid else none

/-- A flit addressed to another module of the board goes on by a direct port, one relay further, in class 1 (R442). -/
def relayFlit (s : State) (sealed : Bytes) (f : Flit) : State :=
  match relayTo s f with
  | none => s
  | some p =>
    let n := leAt sealed 0 16
    let h' := leBytes 16 (n - natField n 38 2 * 2 ^ 38 + (f.hops + 1) % 4 * 2 ^ 38)
    portTx (charge s (10 + p) 1 224) p (some f.ch) (h' ++ sealed.drop 16)

/-- Whether the class-1 cap of the port by which a flit goes on holds it (R442, R501). -/
def relayHeld (s : State) (f : Flit) : Bool :=
  match relayTo s f with
  | none => false
  | some q => !capFree s (10 + q) 1

/-- The flits that a port has to relay go on in their order, while class 1 is below its cap on their way; what waits holds its credit
(R442, R501). -/
def relayRun : (fuel : Nat) → State → Nat → State
  | 0, s, _ => s
  | n + 1, s, p =>
    match (portOf s p).relays with
    | [] => s
    | b :: r =>
      let f := parseFlit (b.take 16) (slice b 16 224)
      if relayHeld s f then s
      else relayRun n (relayFlit (creditOwe (portMod s p (fun q => { q with relays := r })) p f) b f) p

/-- What a port has to relay goes on as far as it may. -/
def relayGo (s : State) (p : Nat) : State := relayRun (portOf s p).relays.length s p

/-! ### Messages (R450) -/

/-- Whether a MSG flit that begins a message keeps R450: a code of its table, and the reserved byte zero. -/
def msgOk (s : State) (f : Flit) : Bool :=
  s.link.parts.any (fun p => p.node == f.src && p.sid == f.sid)
    || (leAt f.payload 1 1 == 0 && [1, 2, 3, 0x10, 0x11, 0x12, 0x13, 0x20, 0x21].contains (leAt f.payload 0 1))

/-- A MSG flit joins its message; the whole message is received. -/
def msgTake (s : State) (f : Flit) : State :=
  let b := f.payload.take f.len
  match s.link.parts.find? (fun p => p.node == f.src && p.sid == f.sid) with
  | some p =>
    let body := p.body ++ b
    let rest := s.link.parts.erase p
    if p.total ≤ body.length then
      { s with link := { s.link with parts := rest
                                     msgs := s.link.msgs ++ [{ node := f.src, code := p.code, body := body.take p.total }] } }
    else { s with link := { s.link with parts := rest ++ [{ p with body := body }] } }
  | none =>
    let total := leAt b 2 2
    let code := leAt b 0 1
    if total ≤ (b.drop 4).length then
      { s with link := { s.link with msgs := s.link.msgs ++ [{ node := f.src, code := code, body := (b.drop 4).take total }] } }
    else
      { s with link := { s.link with parts := s.link.parts ++ [{ node := f.src, sid := f.sid, code := code, total := total,
                                                                 body := b.drop 4 }] } }

/-! ### Session flits (R424, R425, R431, R432) -/

/-- A flit joins its port's inbox. -/
def inboxPut (s : State) (p : Nat) (f : Flit) : State := flowMod s p (fun w => { w with inbox := w.inbox ++ [{ f with arrived := s.now }] })

/-- SACK names the last accepted SSEQ: at once for every flit but a SACK, and after 64 accepted flits (R432). -/
def sackBack (s : State) (k : Nat × Nat) (f : Flit) : State :=
  match sessOf s k with
  | none => s
  | some x =>
    if isSack f ∧ x.acceptedSince + 1 < 64 then sessMod s k (fun x => { x with acceptedSince := x.acceptedSince + 1 })
    else sctlSend (sessMod s k (fun x => { x with acceptedSince := 0 })) k 8 (leBytes 4 f.sseq)

/-- Whether a session may carry a flit of a type (R428). -/
def kindCarries (k : SessKind) (type : Nat) : Bool :=
  type == 3 || (if k = .system then type == 8 || type == 9 else decide (4 ≤ type) && decide (type ≤ 7))

/-- Whether the TAGs of an RD_REQ differ from those of the session's reads that are outstanding here (R411). -/
def tagsFresh (s : State) (k : Nat × Nat) (f : Flit) : Bool :=
  f.type != 4 || (descTags f).all (fun t =>
    !s.plain.waits.any (fun w => w.dest == .read k.1 k.2 t)
      && !s.link.ports.any (fun p => p.2.flow.inbox.any (fun g => g.type == 4 && g.src == k.1 && g.sid == k.2 && (descTags g).contains t)))

/-- Whether a session flit is well-formed for its session (R411, R415, R428, R450). -/
def sessFlitOk (s : State) (k : Nat × Nat) (x : Session) (f : Flit) : Bool :=
  bodyOk f && kindCarries x.kind f.type && tagsFresh s k f && (f.type != 9 || msgOk s f)

/-- A session flit whose tag has verified: taken when its SSEQ is the next expected (R431). -/
def sessAccept (s : State) (p : Nat) (k : Nat × Nat) (f : Flit) : State :=
  match sessOf s k with
  | none => s
  | some x =>
    if f.sseq ≠ x.rxSseq then creditOwe s p f
    else if !sessFlitOk s k x f then malformed (creditOwe s p f) p
    else
      let s := sessMod s k (fun x => { x with rxSseq := x.rxSseq + 1, heardAt := s.now, pingAt := none })
      let s := if f.type = 9 then creditOwe (msgTake s f) p f else inboxPut s p f
      sackBack s k f

/-- The flit as it reads under a key. -/
def opened (key : Bytes) (f : Flit) : Flit := { f with payload := flitCrypt key f.sseq f.payload }

/-- Whether a tag verifies under a key (R424). -/
def tagOk (key tag : Bytes) (f : Flit) : Bool := flitTag key f == tag

/-- A flit of the pair exchange: SCTL in the clear with a zero tag (R409, R422). -/
def pairClear (tag : Bytes) (f : Flit) : Bool :=
  f.type == 3 && tag.all (· == 0) && decide (1 ≤ leAt f.payload 0 1) && decide (leAt f.payload 0 1 ≤ 4)

/-- A flit of type 3 to 9 for this module: its key is that of its session, or, of session control, the pair control key (R409,
R425). -/
def sessFlit (s : State) (p : Nat) (tag : Bytes) (f : Flit) : State :=
  let k := flitKey f
  let bySess : Option Flit := (sessOf s k).bind (fun x =>
    if x.state != .opening && tagOk x.keyRx tag (opened x.keyRx f) then some (opened x.keyRx f) else none)
  match bySess with
  | some g => sessAccept s p k g
  | none =>
    if pairClear tag f then (if bodyOk f then inboxPut s p f else malformed (creditOwe s p f) p)
    else
      match pairCtl s f.src with
      | none => sessTagFail (creditOwe s p f) p k
      | some (_, rx) =>
        let g := opened rx f
        let sub := leAt g.payload 0 1
        let (tx, rs) := tgetD s.link.pairSseq f.src (1, 1)
        if f.type = 3 ∧ tagOk rx tag g ∧ 5 ≤ sub ∧ sub ≤ 7 then
          if f.sseq < rs then creditOwe s p f
          else inboxPut { s with link := { s.link with pairSseq := tset s.link.pairSseq f.src (tx, f.sseq + 1) } } p g
        else sessTagFail (creditOwe s p f) p k

/-! ### Port flits (R409, R420, R425) -/

/-- A flit under the port key: LCTL after authentication, and TIME. -/
def portFlit (s : State) (p : Nat) (tag : Bytes) (f : Flit) : State :=
  let q := portOf s p
  let clear := f.type == 1 && tag.all (· == 0) && (q.key.isNone || (decide (2 ≤ leAt f.payload 0 1) && decide (leAt f.payload 0 1 ≤ 5)))
  if clear then (if bodyOk f then inboxPut s p f else malformed s p)
  else
    match q.key with
    | none => portTagFail (creditOwe s p f) p
    | some (_, rx) =>
      let g := opened rx f
      if !tagOk rx tag g then portTagFail (creditOwe s p f) p
      else if f.sseq < q.flow.rxSseq then creditOwe s p f
      else
        let s := flowMod s p (fun w => { w with rxSseq := f.sseq + 1 })
        let asks := g.type == 2 || (decide (8 ≤ leAt g.payload 0 1) && decide (leAt g.payload 0 1 ≤ 10))
        let s := if asks then s else portMod s p (fun q => { q with lpIdleSince := s.now })
        if bodyOk g then inboxPut s p g else malformed (creditOwe s p g) p

/-- A flit that the link has accepted (R409, R416, R442, R443). -/
def flitTake (s : State) (p : Nat) (raw : Bytes) : State :=
  let h := slice raw 0 16
  let f := parseFlit h (slice raw 16 224)
  let tag := slice raw 0xF0 8
  if f.type = 0 then s
  else
    let s := if f.type ≤ 2 then s else portMod s p (fun q => { q with lpIdleSince := s.now })
    if !flitHeaderOk h f then malformed (creditOwe s p f) p
    else if f.type ≤ 2 then portFlit s p tag f
    else if !arrivesFairly s p f then creditOwe s p f
    else if f.dst ≠ nodeId s then relayGo (portMod s p (fun q => { q with relays := q.relays ++ [slice raw 0 248] })) p
    else sessFlit s p tag f

/-- Whether a port has control flits that are not yet handled: the next flit waits for them (log 8). -/
def ctlWaits (s : State) (p : Nat) : Bool := (portOf s p).flow.inbox.any (fun f => f.type == 1 || f.type == 3)

/-- The symbols that the FEC has corrected in a codeword that it could decode, 15 at most, counted for each lane in service (R400,
R404). How many and where the lanes' noise decides: free values (log 140). -/
def symbolsCorrected (s : State) (p : Nat) : State :=
  let ls := (List.range 8).filter (fun i => (portOf s p).lanes.getLsbD i)
  let n := (Config.freeWord 24 s.free).toNat % 16
  let got := (List.range n).filterMap (fun i => ls[(Config.freeWord 25 (s.free + 1 + i)).toNat % max 1 ls.length]?)
  countPort (drew (n + 1) s) p (fun c => { c with
    corrected := (c.corrected + got.length) % 2 ^ 64
    lanes := got.foldl (fun t l => tset t l ((tgetD t l 0 + 1) % 2 ^ 64)) c.lanes })

/-- FLIT_RECEIVE (R404, R416): a flit of 256 bytes, or one that overlaps an uncorrectable codeword. -/
def execFlitReceive (port : Nat) (raw : Bytes) (uncorrectable : Bool) (s : State) : Out :=
  let q := portOf s port
  let s := if uncorrectable ∧ portUp q then countPort s port (fun c => { c with uncorr := sat32 (c.uncorr + 1) }) else s
  let word := leAt raw 0xF8 4
  if !portUp q then .next s
  else if uncorrectable ∨ raw.length ≠ 256 ∨ leAt raw 0xFC 4 ≠ (crc32c (slice raw 0 252)).toNat ∨ word % 4096 ≠ q.flow.rxLseq then
    .next (flitDiscard s port)
  else if ctlWaits s port then .next s
  else
    let idle := byteAt raw 0 &&& 0x0F == 0
    let s := flowMod s port (fun f => { f with nakSent := false, rxLseq := if idle then f.rxLseq else (f.rxLseq + 1) % 4096 })
    .next (flitTake (flitAck (symbolsCorrected s port) port word) port raw)

end Sys2Proof.Machine
end

