-- ==== Sys2Proof/Machine/Regs.lean ====
section
/-! DEFINITION. The registers of BAR0: what each reads as, and what a write does (chapter 19; R5, R6, R9, R493 to R495, R516
to R524, R540 to R544, R645 to R648, R677, R691, R699 to R714). -/

namespace Sys2Proof.Machine

/-! ### Where an offset lies (R516, R705, R708, R713) -/

/-- Number of a function's path in the binding table (R511). -/
def fnPath (fn : Fn) : Nat :=
  match fn with
  | .pf0 => 0
  | .pf1 => 1
  | .vf _ => 2

/-- Whether a function is a VF. -/
def isVf (fn : Fn) : Bool :=
  match fn with
  | .vf _ => true
  | .pf0 => false
  | .pf1 => false

/-- The carrel that a window of a path holds for a sender (R512, R516). -/
def carrelAt (s : State) (path mid w : Nat) : Option Nat :=
  (s.cp.binding.find? (fun p => p.2.path == path && p.2.sender == mid && p.2.window == w)).map (·.1)

/-- The carrel and the offset in its window that an offset of a function's BAR0 names. -/
def carrelSpot (s : State) (fn : Fn) (off : Nat) : Option (Nat × Nat) :=
  let base := if isVf fn then 0 else 0x100000
  let size := if isVf fn then 0x10000 else 0x100000
  if base ≤ off ∧ off < base + size then
    (carrelAt s (fnPath fn) (fnMid fn) ((off - base) / 4096)).map (fun n => (n, off % 4096))
  else none

/-- The queue and the offset in its block that an offset of a function's BAR0 names (R708, R714). -/
def queueSpot (s : State) (fn : Fn) (off : Nat) : Option (Nat × Nat) :=
  if isVf fn then
    if 0x10000 ≤ off ∧ off < 0x20000 then
      (s.queues.find? (fun q => q.2.poster == fnMid fn && q.2.window == some ((off - 0x10000) / 4096))).map (fun q => (q.1, off % 4096))
    else none
  else if 0x200000 ≤ off ∧ off < 0x300000 then
    let n := (off - 0x200000) / 4096
    match tget s.queues n with
    | none => none
    | some q => if q.poster = fnMid fn then some (n, off % 4096) else none
  else none

/-! ### Values -/

/-- Registers of a carrel window (R517 to R522); WO registers read as zero. -/
def carrelReg (s : State) (n o : Nat) : Nat :=
  match o with
  | 0x000 => carrelId s n
  | 0x008 => carrelStatus s n
  | 0x018 => carrelAck s n
  | _ => 0

/-- QUE_ID (chapter 19). -/
def queId (n : Nat) (q : Queue) : Nat := 2 ^ 63 + q.master % 4096 * 2 ^ 32 + q.poster % 4096 * 2 ^ 16 + n % 256

/-- QUE_STATUS (chapter 19). -/
def queStatus (q : Queue) : Nat :=
  q.ignored % 2 ^ 16 * 2 ^ 48 + q.waiting.length % 32 * 2 ^ 32 + bitN q.full.val * 4 + bitN q.bad.val * 2

/-- Registers of a queue block (chapter 19). -/
def queueReg (s : State) (n o : Nat) : Nat :=
  match tget s.queues n with
  | none => 0
  | some q =>
    match o with
    | 0x000 => queId n q
    | 0x008 => queStatus q
    | 0x018 => q.taken % 2 ^ 64
    | _ => 0

/-- GLB_STATUS (chapter 19). -/
def glbStatus (s : State) : Nat :=
  bitN s.sec.krOk * 2 ^ 8 + bitN (!s.pins.faultN) * 2 ^ 7 + bitN (!s.pins.alertN) * 2 ^ 6 + bitN s.sec.debugUnlocked * 2 ^ 5
    + bitN s.diag.mode * 2 ^ 4 + halvesMask s * 4 + bitN (anyFenced s) * 2 + bitN s.cp.ready

/-- GLB_HOSTERR (chapter 19). -/
def glbHostErr (s : State) : Nat :=
  s.host.tags.countP (fun p => match p.2 with
    | .quarantined _ => true
    | .outstanding _ _ _ => false) % 2 ^ 16 * 2 ^ 32 + s.host.lateCpl % 2 ^ 32

/-- Highest junction temperature at the last sample. -/
def tjMax (s : State) : Nat := max (max s.power.tjC0 s.power.tjT0) (max s.power.tjC1 s.power.tjT1)

/-- PWR_STATE (R677). -/
def pwrState (s : State) : Nat :=
  s.power.watts % 2 ^ 16 * 2 ^ 32 + tjMax s % 2 ^ 8 * 2 ^ 16 + powerCode s.power.floor * 2 ^ 8 + powerCode s.power.state

/-- PWR_THROTTLE (R677). -/
def pwrThrottle (s : State) : Nat :=
  let p := s.power
  bitN p.causeThermal.h1 * 2 ^ 36 + bitN p.causePower.h1 * 2 ^ 37 + bitN p.causeThermal.h0 * 2 ^ 32 + bitN p.causePower.h0 * 2 ^ 33
    + p.throttle.h1 % 2 ^ 11 * 2 ^ 16 + p.throttle.h0 % 2 ^ 11

/-- PWR_WAKE (R677). -/
def pwrWake (s : State) : Nat := s.power.wakes % 2 ^ 32 * 2 ^ 32 + s.power.lastWakeNs % 2 ^ 32

/-- CFG_STATUS (R677). -/
def cfgStatus (s : State) : Nat :=
  s.boot.present.toNat * 2 ^ 16 + s.boot.blocksOk.toNat * 2 ^ 8 + bitN (s.boot.stage == .recovery) * 2 + bitN s.boot.defaultsUsed

/-- Code of a port's state (R579). -/
def portCode (p : PortState) : Nat :=
  match p with
  | .down => 0
  | .training => 1
  | .authenticating => 2
  | .inService => 3
  | .held => 4
  | .off => 5

/-- Code of a port's kind (R579). -/
def portKindCode (k : PortKind) : Nat :=
  match k with
  | .mesh => 0
  | .accel => 1
  | .far => 2
  | .off => 3

/-- Code of a low-power state (R579). -/
def lpCode (l : LpState) : Nat :=
  match l with
  | .l0 => 0
  | .l0h => 1
  | .ls => 2

/-- Lanes in service of a port: 0, 4 or 8. -/
def portWidth (q : Port) : Nat := if q.lanes = 0xFF then 8 else if q.lanes = 0 then 0 else 4

/-- XL_STATE (chapter 19). -/
def xlState (s : State) (q : Port) : Nat :=
  let y := s.link.sync
  q.lanes.toNat * 2 ^ 56 + bitN y.master * 2 ^ 40 + bitN y.locked * 2 ^ 39 + bitN y.syncErr.val * 2 ^ 38 + bitN q.untrusted * 2 ^ 37
    + bitN q.mismatch.val * 2 ^ 36 + q.partner % 2 ^ 12 * 2 ^ 16 + lpCode q.lp * 2 ^ 12 + portWidth q * 2 ^ 8
    + portKindCode q.kind * 2 ^ 4 + portCode q.state

/-- A signed number in w bits. -/
def signedIn (w : Nat) (i : Int) : Nat := (i % (2 ^ w : Int)).toNat

/-- Registers of a port's mirror (chapter 19). -/
def xlReg (s : State) (p o : Nat) : Nat :=
  let q := tgetD s.link.ports p {}
  let c := q.counters
  match o with
  | 0x00 => xlState s q
  | 0x08 => c.corrected % 2 ^ 64
  | 0x10 => sat32 c.uncorr * 2 ^ 32 + sat32 c.naks
  | 0x18 => sat32 c.retrains * 2 ^ 32 + sat32 c.tagFail
  | 0x20 => sat32 c.malformed
  | 0x28 => if q.time.heard then signedIn 32 q.time.theta else 0
  | _ => if 0x40 ≤ o ∧ o < 0x80 then tgetD c.lanes ((o - 0x40) / 8) 0 % 2 ^ 64 else 0

/-- Registers of a ledger record (R494). -/
def bwReg (s : State) (r c o : Nat) : Nat :=
  let x := tgetD s.bw.cells (r, c) {}
  match o with
  | 0x00 => x.total % 2 ^ 64
  | 0x08 => sat32 x.demandLast * 2 ^ 32 + sat32 x.delivLast
  | 0x10 => x.cap % 2 ^ 32 * 2 ^ 32 + guarOf s r c % 2 ^ 32
  | 0x18 => bitN x.scaled * 2 ^ 63 + bitN x.degraded.val * 2 ^ 62 + satTo (2 ^ 24 - 1) x.shortWin * 2 ^ 32 + x.effGuar % 2 ^ 32
  | _ => 0

/-- A log record as its 64 bytes (R656). -/
def recBytes (r : ErrRec) : Bytes :=
  leBytes 8 r.seq ++ leBytes 8 r.time ++ leBytes 2 r.kind ++ leBytes 1 r.severity
    ++ leBytes 1 (bitN r.diag + 2 * bitN r.lasting + 4 * bitN r.tenant.isSome + 8 * bitN r.flash) ++ leBytes 2 (r.tenant.getD 0)
    ++ leBytes 2 r.mid ++ leBytes 4 r.unit ++ leBytes 2 r.rc ++ leBytes 2 r.dropped ++ leBytes 8 r.location ++ leBytes 8 r.detail0
    ++ leBytes 8 r.detail1 ++ zeros 8

/-- Whether the errata log's copy in a half can be read (R655). -/
def copyReadable (s : State) (h : Half) : Bool := s.ras.copyOk.get h && halfUp s h

/-- The records that can be read: a copy of the log, or, where neither can be read, the flash ring with the buffer in
control-processor memory (R655). -/
def logView (s : State) : List ErrRec :=
  if copyReadable s .h0 || copyReadable s .h1 then s.ras.log
  else
    let ring := s.flash.errRing.map (·.1)
    (ring ++ s.ras.cpBuffer.filter (fun r => !ring.any (fun x => x.seq == r.seq))).mergeSort (fun a b => a.seq ≤ b.seq)

/-- Registers of the errata window (chapter 19). -/
def errReg (s : State) (o : Nat) : Nat :=
  match o with
  | 0x00 => ((logView s).head?.map (·.seq)).getD 0
  | 0x08 => ((logView s).getLast?.map (·.seq)).getD 0
  | 0x10 => satTo 0xFFFF s.ras.pending.length
  | 0x18 => s.ras.select.toNat
  | _ =>
    if 0x40 ≤ o ∧ o < 0x80 then
      match (logView s).find? (fun r => r.seq == s.ras.select.toNat) with
      | none => 0
      | some r => leAt (recBytes r) (o - 0x40) 8
    else 0

/-- Registers of the bench (R646). -/
def diagReg (s : State) (o : Nat) : Nat :=
  let d := s.diag
  match o with
  | 0x08 => bitN d.busy * 2 ^ 63 + d.position.toNat * 2 ^ 16 + d.syndrome.toNat * 2 ^ 8 + d.result.toNat
  | 0x10 => d.addr.toNat
  | 0x18 => d.check.toNat
  | _ => if 0x40 ≤ o ∧ o < 0x80 then (d.data.getD ((o - 0x40) / 8) 0).toNat else 0

/-- What PF0 or PF1 reads at a register that both have. -/
def sharedReg (s : State) (a : Nat) : Nat :=
  if a = 0 then idDevice s
  else if a = 0x1000 then glbStatus s
  else if a = 0x1008 then glbHostErr s
  else if a = 0x1010 then devNs s
  else if 0x1800 ≤ a ∧ a < 0x1A00 then lockValue s ((a - 0x1800) / 8)
  else 0

/-- What only PF0 reads (R495, R677, R705). -/
def pf0Reg (s : State) (a : Nat) : Nat :=
  if a = 0x1100 then pwrState s
  else if a = 0x1108 then pwrThrottle s
  else if a = 0x1110 then pwrWake s
  else if a = 0x1200 then cfgStatus s
  else if 0x2000 ≤ a ∧ a < 0x2800 then xlReg s ((a - 0x2000) / 0x100) (a % 0x100)
  else if 0x300000 ≤ a ∧ a < 0x301A00 then bwReg s ((a - 0x300000) / 0x100) (a % 0x100 / 0x20) (a % 0x20)
  else if 0x400000 ≤ a ∧ a < 0x400080 then errReg s (a - 0x400000)
  else if 0x500000 ≤ a ∧ a < 0x500080 ∧ s.diag.mode then diagReg s (a - 0x500000)
  else sharedReg s a

/-- Whether an offset is present on the recovery path (R691): the ID block, CFG_STATUS and carrel 0 of PF0. -/
def recoveryHas (s : State) (fn : Fn) (a : Nat) : Bool :=
  fn == .pf0 && (a == 0 || a == 0x1200 || (carrelSpot s fn a).any (fun p => p.1 == 0))

/-- The 64-bit register at an aligned offset of a function's BAR0; reserved offsets read as zero (R9, R699). -/
def regValue (s : State) (fn : Fn) (a : Nat) : Nat :=
  if s.boot.stage = .recovery ∧ !recoveryHas s fn a then 0
  else
    match carrelSpot s fn a, queueSpot s fn a with
    | some (n, o), _ => carrelReg s n o
    | none, some (n, o) => queueReg s n o
    | none, none =>
      match fn with
      | .pf0 => pf0Reg s a
      | .pf1 => sharedReg s a
      | .vf _ => if a = 0x20000 then idDevice s else if a = 0x20008 then devNs s else 0

/-- The bytes of an area that reads of any length reach: message and reply areas, queue slots (R702). -/
def areaRead (s : State) (fn : Fn) (off len : Nat) : Option Bytes :=
  match carrelSpot s fn off, queueSpot s fn off with
  | some (n, o), _ =>
    if 0x100 ≤ o ∧ o + len ≤ 0x200 then some (slice (carrelOf s n).msg (o - 0x100) len)
    else if 0x200 ≤ o ∧ o + len ≤ 0x300 then some (slice (carrelOf s n).reply (o - 0x200) len)
    else none
  | none, some (n, o) =>
    let k := (o - 0x400) / 64
    if 0x400 ≤ o ∧ o + len ≤ 0x400 + 64 * (k + 1) ∧ k < 16 then
      some (slice (((tget s.queues n).map (fun q => tgetD q.slots k [])).getD []) (o % 64) len)
    else none
  | none, none => none

/-- Whether an access reaches a register, or a half of one (R699). -/
def accessAligned (off len : Nat) : Bool := (len == 4 || len == 8) && off % len == 0

/-- A read of a function's BAR0 (R699, R702). -/
def regBytes (s : State) (fn : Fn) (off len : Nat) : Bytes :=
  match areaRead s fn off len with
  | some b => if s.boot.stage = .recovery ∧ !recoveryHas s fn off then zeros len else b
  | none => if accessAligned off len then slice (leBytes 8 (regValue s fn (off / 8 * 8))) (off % 8) len else zeros len

/-- A read of a function's BAR0 with its side effect: the low half of a lock is read as `lockRead` says (R541, R701). -/
def regRead (s : State) (fn : Fn) (off len : Nat) : State × Bytes :=
  if 0x1800 ≤ off ∧ off < 0x1A00 ∧ accessAligned off len ∧ off % 8 = 0 ∧ !isVf fn ∧ s.boot.stage ≠ .recovery then
    let r := lockRead s fn ((off - 0x1800) / 8)
    (r.1, (leBytes 8 r.2).take len)
  else (s, regBytes s fn off len)

/-! ### Writes -/

/-- A register's value with a half or the whole of it written. -/
def putHalf (old off : Nat) (b : Bytes) : Nat := leVal (fit 8 (place (leBytes 8 old) (off % 8) b))

/-- The bits that a write to RW1C fields has set. -/
def ones (off : Nat) (b : Bytes) : Nat := putHalf 0 off b

/-- An RW1C bit after a write (R6). -/
def rw1c (s : State) (x : Sticky) (bits i : Nat) : Sticky := if natBit bits i then stickyClear x s.now else x

/-- A write to a carrel window (R519 to R521, R524, R700). -/
def carrelWrite (s : State) (n o : Nat) (b : Bytes) : Out :=
  if 0x100 ≤ o ∧ o < 0x200 then execCarrelMessageWrite n (o - 0x100) b s
  else if !accessAligned o b.length then .next s
  else if o / 8 = 2 then execCarrelDoorbell n (b.length == 8) (BitVec.ofNat 64 (leVal b)) s
  else if o / 8 = 1 then
    let w := ones o b
    .next (carrelMod s n (fun c => { c with lost := rw1c s c.lost w 3, badDoorbell := rw1c s c.badDoorbell w 2 }))
  else .next s

/-- A write to a queue block (R700, R702, R709). -/
def queueWrite (s : State) (n o : Nat) (b : Bytes) (consumed : HostRead) (input : RemoteRead) : Out :=
  if 0x400 ≤ o ∧ o < 0x800 then execQueueSlotWrite n ((o - 0x400) / 64) (o % 64) b s
  else if !accessAligned o b.length then .next s
  else if o / 8 = 2 then execQueDoorbell n (b.length == 8) (BitVec.ofNat 64 (leVal b)) consumed input s
  else if o / 8 = 1 then
    let w := ones o b
    .next (queMod s n (fun q => { q with full := rw1c s q.full w 2, bad := rw1c s q.bad w 1 }))
  else .next s

/-- A write to XL_STATE: its two RW1C bits (chapter 19). -/
def xlWrite (s : State) (p : Nat) (w : Nat) : State :=
  let s := { s with link := { s.link with sync := { s.link.sync with syncErr := rw1c s s.link.sync.syncErr w 38 } } }
  portMod s p (fun q => { q with mismatch := rw1c s q.mismatch w 36 })

/-- A write to the bench (R646, R700). -/
def diagWrite (s : State) (o : Nat) (b : Bytes) : Out :=
  let d := s.diag
  let put (x : BitVec 64) : BitVec 64 := BitVec.ofNat 64 (putHalf x.toNat o b)
  if o = 0 ∧ b.length = 8 then benchCommand (leVal b) s
  else if o / 8 = 2 then .next { s with diag := { d with addr := put d.addr } }
  else if o / 8 = 3 then .next { s with diag := { d with check := put d.check } }
  else if 0x40 ≤ o ∧ o < 0x80 then
    let i := (o - 0x40) / 8
    .next { s with diag := { d with data := d.data.set i (put (d.data.getD i 0)) } }
  else .next s

/-- A write to a register that only PF0 has. -/
def pf0Write (s : State) (off : Nat) (b : Bytes) : Out :=
  if 0x2000 ≤ off ∧ off < 0x2800 ∧ off % 0x100 < 8 then .next (xlWrite s ((off - 0x2000) / 0x100) (ones off b))
  else if 0x300000 ≤ off ∧ off < 0x301A00 ∧ off % 0x20 / 8 = 3 then
    .next (bwMod s ((off - 0x300000) / 0x100) (off % 0x100 / 0x20) (fun x => { x with degraded := rw1c s x.degraded (ones off b) 62 }))
  else if 0x400018 ≤ off ∧ off < 0x400020 then
    .next { s with ras := { s.ras with select := BitVec.ofNat 64 (putHalf s.ras.select.toNat off b) } }
  else if 0x500000 ≤ off ∧ off < 0x500080 ∧ s.diag.mode then diagWrite s (off - 0x500000) b
  else .next s

/-- A write to a function's BAR0; writes to reserved offsets and read-only registers are ignored (R9, R699). A doorbell of a
queue brings what the device reads as it takes the call slip. -/
def regWrite (s : State) (fn : Fn) (off : Nat) (b : Bytes) (consumed : HostRead) (input : RemoteRead) : Out :=
  if s.boot.stage = .recovery ∧ !recoveryHas s fn off then .next s
  else
    match carrelSpot s fn off, queueSpot s fn off with
    | some (n, o), _ => carrelWrite s n o b
    | none, some (n, o) => queueWrite s n o b consumed input
    | none, none =>
      if !accessAligned off b.length || isVf fn then .next s
      else if 0x1A00 ≤ off ∧ off < 0x1A08 then execGlbRelease fn (b.length == 8) (BitVec.ofNat 64 (leVal b)) s
      else if fn = .pf0 then pf0Write s off b
      else .next s

/-- REGISTER_WRITE (R5, R6, R699, R700). -/
def execRegisterWrite (fn : Fn) (off : Nat) (bytes : Bytes) (consumed : HostRead) (input : RemoteRead) (s : State) :
    Out := regWrite s fn off bytes consumed input

end Sys2Proof.Machine
end

