-- ==== Sys2Proof/Machine/LinkAccess.lean ====
section
/-! DEFINITION. Accesses that come by a peer link, and the answers to those that this module sent (R348, R356, R387, R411,
R413 to R415, R428, R435 to R438, R456). -/

namespace Sys2Proof.Machine

/-! ### Inbound windows (R435 to R438) -/

/-- The state that an outcome answers, or another. -/
def outState (o : Out) (s : State) : State :=
  match o with
  | .next t => t
  | .fault _ => s
  | .refused _ => s

/-- An inbound window of a port, as a request of this cycle meets it: in the cycle of a switch tick it is still the old one (R28,
R438). -/
def winOf (s : State) (p w : Nat) : InWin :=
  match tget s.link.windowsBefore (p, w) with
  | some (tick, old) => if tick = s.now then old else tgetD s.link.windows (p, w) {}
  | none => tgetD s.link.windows (p, w) {}

/-- Bytes of an inbound window: a queue takes 4 KiB (R435). -/
def winBytes (w : InWin) : Nat := if w.queue then 4096 * w.size else w.size

/-- STATUS values of R415. -/
def stNotPermitted : Nat := 0x20
def stNoWindow : Nat := 0xE0

/-- What an access of n bytes at an offset of a window meets, the first two rows of R436: 0 where it may go on. -/
def winStatus (x : Session) (w : InWin) (off n : Nat) (write : Bool) : Nat :=
  if !w.enable then stNoWindow
  else if !w.sessions.getLsbD ((x.localMid - 0x80) % 64) || !w.rights.getLsbD (if write then 1 else 0) || decide (winBytes w < off + n)
    then stNotPermitted
  else 0

/-- An access outside its windows or rights is counted for its session, and logged (R436, R456). -/
def outsideCount (s : State) (p : Nat) (k : Nat × Nat) (st : Nat) : State :=
  linkLog (sessMod s k (fun x => { x with outside := x.outside + 1 })) p 8 st

/-- Whether an address of the runtime face or the plain face serves a master's access of n bytes (R17, R18, R294, R313). -/
def winAddrOk (s : State) (mid da n : Nat) (write : Bool) : Bool :=
  if daRange da = 8 then !daRefused s mid da && plainAllowed s mid (daOff da) n write
  else addrCode s mid da n write == rcDone

/-- The queue that a byte of a QUEUE window lies in, when it was created for the session (R437). -/
def winQueue (s : State) (x : Session) (w : InWin) (off : Nat) : Option Nat :=
  let n := w.base + off / 4096
  match tget s.queues n with
  | none => none
  | some q => if q.poster = x.localMid then some n else none

/-- A read of a queue block (R702, R714). -/
def queueBytes (s : State) (n o len : Nat) : Bytes :=
  let k := (o - 0x400) / 64
  if 0x400 ≤ o ∧ o + len ≤ 0x400 + 64 * (k + 1) ∧ k < 16 then
    slice (((tget s.queues n).map (fun q => tgetD q.slots k [])).getD []) (o % 64) len
  else if accessAligned o len then slice (leBytes 8 (queueReg s n (o / 8 * 8))) (o % 8) len
  else zeros len

/-- The answer to a read that is refused. -/
def refuseRead (s : State) (k : Nat × Nat) (tag n st : Nat) : State :=
  replyRead s (.read k.1 k.2 tag) 0 (zeros n) (allLines 0 n) st

/-- A read of n bytes at an offset of a window (R21, R436, R437). -/
def windowGet (s : State) (k : Nat × Nat) (x : Session) (w : InWin) (off n tag : Nat) (remote : RemoteRead) : State :=
  let st := winStatus x w off n false
  if st ≠ 0 then refuseRead (outsideCount s x.port k st) k tag n st
  else if w.queue then
    match winQueue s x w off with
    | none => refuseRead (outsideCount s x.port k stNotPermitted) k tag n stNotPermitted
    | some q => replyRead s (.read k.1 k.2 tag) 0 (queueBytes s q (off % 4096) n) [] 0
  else
    let da := w.base + off
    if !winAddrOk s x.localMid da n false then
      refuseRead (outsideCount (logRefused s x.localMid da 3 rcNotPermitted) x.port k stNotPermitted) k tag n stNotPermitted
    else if daRange da = 8 then plainRead s x.localMid (.read k.1 k.2 tag) 3 (daOff da) n
    else if anyFenced s then refuseRead s k tag n rcPoisoned
    else
      let st := if daRange da ≤ 2 then 0 else farCode s x.localMid da n remote % 256
      let (s, b, bad) := readAny (chargeRead (leaveSleep s) 2 da n (replyDie s (.read k.1 k.2 tag))) x.localMid da n remote
      let st := if st ≠ 0 then st else if rtPoison bad da n then 0x70 else 0
      replyRead s (.read k.1 k.2 tag) 0 b (bad.map (fun l => (l - lineOf da) / 64)) st

/-- A write at an offset of a window, and its completion (R21, R414, R436, R437). -/
def windowPut (s : State) (k : Nat × Nat) (x : Session) (w : InWin) (off : Nat) (b : Bytes) (sseq : Nat) (consumed : HostRead)
    (input : RemoteRead) : State :=
  let dest : ReplyTo := .write k.1 k.2 sseq
  let st := winStatus x w off b.length true
  if st ≠ 0 then replyWrite (outsideCount s x.port k st) dest st
  else if w.queue then
    match winQueue s x w off with
    | none => replyWrite (outsideCount s x.port k stNotPermitted) dest stNotPermitted
    | some q => replyWrite (outState (queueWrite s q (off % 4096) b consumed input) s) dest 0
  else
    let da := w.base + off
    if !winAddrOk s x.localMid da b.length true then
      replyWrite (outsideCount (logRefused s x.localMid da 3 rcNotPermitted) x.port k stNotPermitted) dest stNotPermitted
    else if daRange da = 8 then plainWrite s x.localMid dest 3 (daOff da) b
    else if anyFenced s then replyWrite s dest rcPoisoned
    else replyWrite (writeAny (chargeWrite (leaveSleep s) 2 da b.length (replyDie s dest)) 2 x.localMid da b) dest 0

/-! ### Pool form (R348, R385, R387, R410) -/

/-- Whether a pool-form access of n bytes waits: for a near-memory operation that it meets, or for the next window of its
pair's cap (R385, R387). -/
def poolWaits (s : State) (node mid : Nat) (loc n arrived : Nat) : Bool :=
  let (half, ext, off) := locSpot loc
  nearHolds s node mid half ext off n arrived

/-- A pool-form read at the lender (R348). -/
def poolServe (s : State) (k : Nat × Nat) (x : Session) (arrived : Nat) (d : Nat × Nat × Nat) : State :=
  let (half, ext, off) := locSpot d.2.2
  let (s, st, b, bad) := poolGet s k.1 x.remoteMid half ext off d.2.1 arrived
  poolReplyRead (capUse s k.1 x.remoteMid d.2.1) k half d.1 b bad st

/-! ### Requests that arrive -/

/-- The session of a request at the head of a port's inbox, where this module is its target (R428). -/
def requestHead (s : State) (p type : Nat) : Option (Flit × Session) :=
  if !tierServed s then none
  else
    match inboxHead s p (fun f => f.type == type) with
    | none => none
    | some f => (sessOf s (flitKey f)).map (fun x => (f, x))

/-- The first flit of an inbox of a type whose session is gone is dropped (R433). -/
def dropOrphan (s : State) (p type : Nat) : State :=
  match inboxHead s p (fun f => f.type == type) with
  | none => s
  | some f => if (sessOf s (flitKey f)).isNone then inboxPop s p else s

/-- Whether a request's form is the one that its session carries (R428). -/
def formOk (x : Session) (f : Flit) : Bool := !x.initiator && f.pool == (x.kind == .pool)

/-- The reads of an RD_REQ by a window, in order, each with what another module answered where its window leads there. -/
def windowReads (s : State) (k : Nat × Nat) (x : Session) : List (Nat × Nat × Nat) → List RemoteRead → State
  | [], _ => s
  | d :: r, rs => windowReads (windowGet s k x (winOf s x.port (d.2.2 % 16)) (d.2.2 / 16) d.2.1 d.1 (rs.headD .none)) k x r rs.tail

/-- Whether a window access to tier 1 or 2 waits for its class: the port holds it while class 2 is at its cap, or for a pool access
class 3 (R348, R491, R501). Plain accesses wait on their own. -/
def portHolds (s : State) (k : Nat × Nat) (cls da : Nat) (write : Bool) : Bool :=
  let d := replyDie s (.read k.1 k.2 0)
  (daRange da == 1 || daRange da == 2) && !capOpen s cls (if write then writePath da d else readPath da d)

/-- The address that a window-form access names. -/
def winAddr (s : State) (x : Session) (loc : Nat) : Nat :=
  let w := winOf s x.port (loc % 16)
  if w.queue then 0 else w.base + loc / 16

/-- The address of a pool-form access at this lender. -/
def poolAddr (s : State) (loc : Nat) : Nat :=
  let (half, ext, off) := locSpot loc
  match extOf s (half, ext) with
  | none => daMk 2 (halfBase 2 half)
  | some e => e.base + off

/-- RD_REQ (R348, R387, R411, R413, R436). -/
def execRdReq (port : Nat) (remotes : List RemoteRead) (s : State) : Out :=
  match requestHead s port 4 with
  | none => .next (dropOrphan s port 4)
  | some (f, x) =>
    let k := flitKey f
    let ds := descsOf f
    if !formOk x f then
      .next (ds.foldl (fun s d => refuseRead (outsideCount s port k stNotPermitted) k d.1 d.2.1 stNotPermitted) (inboxPop s port))
    else if f.pool then
      if ds.any (fun d => poolWaits s k.1 x.remoteMid d.2.2 d.2.1 f.arrived || portHolds s k 3 (poolAddr s d.2.2) false)
          || !capAllows s k.1 x.remoteMid ((ds.map (fun d => d.2.1)).foldl (· + ·) 0) then .next s
      else .next (ds.foldl (fun s d => poolServe s k x f.arrived d) (leaveSleep (inboxPop s port)))
    else if ds.any (fun d => portHolds s k 2 (winAddr s x d.2.2) false) then .next s
    else .next (windowReads (inboxPop s port) k x ds remotes)

/-- Whether an earlier write of a session still waits for the cache: completions report writes in order (R414). -/
def writeWaits (s : State) (k : Nat × Nat) : Bool :=
  s.plain.waits.any (fun w => match w.dest with
    | .write n i _ => n == k.1 && i == k.2
    | .read _ _ _ => false
    | .cxl => false
    | .link _ => false)

/-- The extents that a write to an extent index may have touched: itself, or those of its view's region. -/
def spotExts (s : State) (half : Half) (ext : Nat) : List (Half × Nat) :=
  match tget s.pool.views (half, ext) with
  | none => [(half, ext)]
  | some v => ((tget s.pool.shared v.region).map storeExts).getD []

/-- WR (R348, R387, R414, R436, R437). -/
def execWr (port : Nat) (consumed : HostRead) (input : RemoteRead) (s : State) : Out :=
  match requestHead s port 5 with
  | none => .next (dropOrphan s port 5)
  | some (f, x) =>
    let k := flitKey f
    let b := f.payload.take f.len
    if writeWaits s k then .next s
    else if !formOk x f then
      .next (replyWrite (outsideCount (inboxPop s port) port k stNotPermitted) (.write k.1 k.2 f.sseq) stNotPermitted)
    else if f.pool then
      let (half, ext, off) := locSpot f.arg
      if poolWaits s k.1 x.remoteMid f.arg f.len f.arrived || !capAllows s k.1 x.remoteMid f.len || portHolds s k 3 (poolAddr s f.arg) true
      then .next s
      else
        let (s, st) := poolPut (leaveSleep (inboxPop s port)) k.1 x.remoteMid half ext off b f.arrived
        .next (peerReply (capUse s k.1 x.remoteMid f.len) k half f.sseq st (spotExts s half ext))
    else if portHolds s k 2 (winAddr s x f.arg) true then .next s
    else .next (windowPut (inboxPop s port) k x (winOf s x.port (f.arg % 16)) (f.arg / 16) b f.sseq consumed input)

/-! ### Answers that arrive (R356, R413, R414, R456) -/

/-- A read of this module's is complete: its data goes to its requester, poisoned where a line is or the lender refused (R356,
R413). -/
def readDone (s : State) (o : Outst) : State :=
  emit s (.runtimeData o.mid o.addr o.data (o.poison || o.status != 0)
    (if o.status ≠ 0 then o.status else if o.poison then rcPoisoned else rcDone))

/-- Part of a read's data joins it. -/
def readJoin (o : Outst) (f : Flit) : Outst :=
  let st := natField f.arg 24 8
  { o with data := place o.data (natField f.arg 12 12) (f.payload.take f.len), poison := o.poison || natField f.arg 32 5 != 0,
           status := if o.status = 0 then st else o.status }

/-- The LOAD of a lender's answer is kept (R388, R389). -/
def loadKeep (s : State) (k : Nat × Nat) (f : Flit) (lo : Nat) : State :=
  if f.pool then { s with pool := { s.pool with load := tset s.pool.load k.1 (natField f.arg lo 2) } } else s

/-- RD_RSP (R356, R388, R413): the part that completes the read ends it, and requests that its lender's window held may go. -/
def execRdRsp (port : Nat) (s : State) : Out :=
  match inboxHead s port (fun f => f.type == 6) with
  | none => .next s
  | some f =>
    let k := flitKey f
    let s := loadKeep (inboxPop s port) k f 37
    match (sessOf s k).bind (fun x => x.outstanding.find? (fun o => !o.write && o.tag == natField f.arg 0 12)) with
    | none => .next s
    | some o =>
      let o' := readJoin o f
      if 64 * o.lines ≤ natField f.arg 12 12 + f.len then
        .next (lenderGo (readDone (sessMod (handleSeen s o o'.status) k (fun x => { x with outstanding := x.outstanding.erase o })) o') k.1)
      else .next (sessMod s k (fun x => { x with outstanding := x.outstanding.map (fun y => if y = o then o' else y) }))

/-- The requests that an applied CMPL leaves outstanding: every read, and the writes after the one that it names (R414). -/
def cmplLeaves : List Outst → Nat → List Outst
  | [], _ => []
  | o :: r, sseq =>
    if !o.write then o :: cmplLeaves r sseq
    else if o.tag = sseq then r
    else cmplLeaves r sseq

/-- CMPL (R356, R414): every write up to the named one is applied, or that one is refused. -/
def execCmpl (port : Nat) (s : State) : Out :=
  match inboxHead s port (fun f => f.type == 7) with
  | none => .next s
  | some f =>
    let k := flitKey f
    let s := loadKeep (inboxPop s port) k f 40
    let sseq := natField f.arg 0 32
    let st := natField f.arg 32 8
    match sessOf s k with
    | none => .next s
    | some x =>
      if st = 0 then
        .next (lenderGo (sessMod s k (fun x => { x with
          outstanding := if x.outstanding.any (fun o => o.write && o.tag == sseq) then cmplLeaves x.outstanding sseq else x.outstanding })) k.1)
      else
        match x.outstanding.find? (fun o => o.write && o.tag == sseq) with
        | none => .next s
        | some o => .next (lenderGo (writeRefused (sessMod s k (fun x => { x with outstanding := x.outstanding.erase o })) o st) k.1)

/-- LINK_READ_TIMEOUT (R456): a read unanswered for 1 ms completes with poison and PARTNER_ABSENT. -/
def execLinkReadTimeout (node sid tag : Nat) (s : State) : Out :=
  match (sessOf s (node, sid)).bind (fun x => (x.outstanding.find? (fun o => !o.write && o.tag == tag)).map (fun o => (x, o))) with
  | none => .next s
  | some (x, o) =>
    if o.sentAt + msT 1 ≤ s.now then
      let s := sessMod s (node, sid) (fun x => { x with outstanding := x.outstanding.erase o })
      .next (lenderGo (emit (linkLog s ((sessPort s (node, sid) x).getD x.port) 7 rcPartnerAbsent)
        (.runtimeData o.mid o.addr (zeros (64 * o.lines)) true rcPartnerAbsent)) node)
    else .next s

end Sys2Proof.Machine
end

