-- ==== Sys2Proof/Machine/StepToken.lean ====
section
/-! DEFINITION. The steps by which a closed loop goes round: EMBED, SAMPLE with its token ring, LOOP, ROUTE and a skipped
conditional step (R33, R34, R214 to R218, R236, R237, R239, R253, R263, R268, R271, R273 to R276, R479 to R483). -/

namespace Sys2Proof.Machine

/-! ### EMBED (R204, R217, R218) -/

/-- The slice that serves a tile to EMBED: the first that holds it RESIDENT. -/
def embedHolder (s : State) (f : FolioId) : Option Nat :=
  (s.eng.copies.find? (fun e => e.1.2 == f && e.2.state == .resident)).map (·.1.1)

/-- A weight as an FP32 word (R204). -/
def ewfWord (w : Ewf) (tb : Int) : Nat :=
  match ewfOpnd w.word tb with
  | .fin neg s l => if s = 0 then 0 else roundWord (.fin ⟨if neg then -(s : Int) else s, l⟩)
  | .nan => nanWord
  | .inf n => infW n

/-- Row r of a tile from its kept bytes, with clamps and flushes of the row, or none where an expander check fails
(R160, R161, R218). -/
def embedRow (p : TParams) (r : Nat) (b : Bytes) : Option (List Nat × Nat × Nat) :=
  let c := parseColophon (slice b 0 32)
  match expandWords p c (folioTables p b) (slice b 32 (slotBytes p)) with
  | none => none
  | some ws =>
    let row := (ws.drop (128 * r)).take 128
    some (row.map (fun w => ewfWord w c.tb), row.countP (·.clamp), row.countP (·.flush))

/-- EMBED with its token known: it waits until a slice holds each tile of the row (R217). -/
def embedTiled (n : Nat) (s : State) (v : Volume) (x : Ctx) (st : VStep) (t : Tensor) (tok : Nat) : State :=
  let fs := (embedTiles t.params st.param tok).map (FolioId.tile t.id)
  let holders := fs.map (fun f => (embedHolder s f).map (fun m => (m, f)))
  let doomed := s.eng.copies.any (fun e => fs.contains e.1.2 && useDoomed s n x e.1)
  let keys := holders.filterMap id
  if keys.length < fs.length then
    (if doomed then poisonStep (noteTensor s n t.id) n v x [st.opc] else s)
  else
    let s := keys.foldl copyWords s
    if keys.any (fun k => ((tget s.eng.copies k).map (·.state)) != some .resident) then s
    else
      let s := noteTensor s n t.id
      let rows := keys.map (fun k => (k, embedRow t.params (tok % 128) (copyBytes s k)))
      let failed := rows.filter (fun r => r.2.isNone)
      if !failed.isEmpty then poisonStep (failed.foldl (fun s r => poisonCopy s r.1.1 r.1.2 true) s) n v x [st.opc]
      else
        let got := rows.filterMap (·.2)
        let words := ((got.map (·.1)).flatten).take t.params.cols
        let clamps := (got.map (·.2.1)).foldl (· + ·) 0
        let flushes := (got.map (·.2.2)).foldl (· + ·) 0
        let s := satCount (tensorEvents s t.id { wsat := clamps, wflush := flushes }) n v (.tensor t.id) clamps
        let out := (words.take (operOf v st.opc).length).flatMap (leBytes 4)
        doneStep (writeEncoded s n v x st st.opc { pieces := [(0, out)] } words.length false) n x rcDone

/-- EMBED (R217, R218). -/
def embedBody (n : Nat) (remote : RemoteRead) (s : State) (v : Volume) (x : Ctx) (st : VStep) : State :=
  match refusedAddr s v x st with
  | some (a, rc) => refuseStep s n x a rc
  | none =>
    match (stepSlot v.opers st).bind (fun i => v.slots[i]?) with
    | none => s
    | some sl =>
      if slotSpoilt s sl then poisonStep (noteTensor s n sl.tensor) n v x [st.opc]
      else
        let (s, tok, bad) := match x.embedTok with
          | some t => (s, t, false)
          | none =>
            let (s, b, bad) := readOper s n v st.opb remote
            (s, leVal (fit 4 b), bad)
        match tget s.tensors sl.tensor with
        | none => s
        | some t =>
          if bad then poisonStep s n v x [st.opc]
          else if t.params.rows ≤ tok then doneStep s n x rcBadField
          else embedTiled n (ctxMod s n (fun x => { x with embedTok := some tok })) v x st t tok

/-- EMBED. -/
def execEmbed (ctx : Nat) (remote : RemoteRead) (s : State) : Out := .next (runStep s ctx opEmbed (embedBody ctx remote))

/-! ### The choice of a token (R214 to R216) -/

/-- The fields of a sampler record. -/
structure Sampler where
  topk : Nat
  invtemp : Nat
  topp : Nat
  seed : Nat
  deriving DecidableEq, Repr

/-- A sampler record, or none where a field is out of range (R214). -/
def parseSampler (b : Bytes) : Option Sampler :=
  let k := leAt b 0 2
  let it := leAt b 4 4
  let tp := leAt b 8 4
  if 1 ≤ k ∧ k ≤ 256 ∧ leAt b 2 2 = 0 ∧ 1 ≤ it ∧ it < 0x7F800000 ∧ 1 ≤ tp ∧ tp ≤ 0x3F800000 ∧ leAt b 12 4 = 0 then
    some { topk := k, invtemp := it, topp := tp, seed := leAt b 16 16 }
  else none

/-- Weights of candidates (R215): a NaN candidate has none. -/
def sampleWeights (sm : Sampler) (cs : List Cand) : List Nat :=
  let zs := cs.map (fun c => fpMul c.1 sm.invtemp)
  let m := (zs.filter (fun z => !isNanW z)).foldl maxWord (infW true)
  zs.map (fun z => if isNanW z then 0 else unitExp 24 (fpAdd z (if m < negZero then m + negZero else m - negZero)))

/-- Running sums in candidate order (R215). -/
def runningSums (a : Nat) : List Nat → List Nat
  | [] => []
  | w :: r => fpAdd a w :: runningSums (fpAdd a w) r

/-- The candidate that a draw picks (R215). -/
def pickCand (sm : Sampler) (cs : List Cand) (r : Nat) : Cand :=
  let sums := runningSums 0 (sampleWeights sm cs)
  let all := sums.getLastD 0
  let bound := fpMul sm.topp all
  let kept := match sums.findIdx? (fun c => decide (orderKey bound ≤ orderKey c)) with
    | some j => j + 1
    | none => sums.length
  let t := fpMul (roundWord (.fin ⟨(r : Int), -24⟩)) ((sums.take kept).getLastD 0)
  let j := ((sums.take kept).findIdx? (fun c => decide (orderKey t < orderKey c))).getD (kept - 1)
  cs.getD j fillerCand

/-- The 24-bit draw of a token (R216). -/
def drawToken (s : State) (sm : Sampler) (seq idx : Nat) : State × Nat :=
  if sm.seed = 0 then (drew 3 s, leVal (trngBytes s.free 3))
  else (s, (Config.sm4 (BitVec.ofNat 128 sm.seed) (BitVec.ofNat 128 (seq * 2 ^ 64 + idx))).toNat % 2 ^ 24)

/-! ### The token ring (R33, R34, R268, R273 to R276, R481 to R483) -/

/-- Why token i ends a call slip (R274). -/
def tokenStop (x : Ctx) (iter tok : Nat) : Option EndCode :=
  if x.job.block.stops.contains tok then some .stopToken
  else if iter + 1 = x.job.block.maxTokens then some .count else none

/-- An entry of a token ring (R481). -/
def ringEntry (s : State) (ringLen iter tok : Nat) (late last : Bool) : Bytes :=
  leBytes 4 tok ++ leBytes 2 ((1 - iter / max 1 ringLen % 2) + 2 * bitN late + 4 * bitN last) ++ zeros 2 ++ leBytes 8 (devNs s)

/-- Whether the entry of a token is free (R482). -/
def ringFree (x : Ctx) (iter : Nat) : Bool := decide (iter - x.consumed < x.job.slip.ringLen)

/-- A token leaves its SAMPLE: the ring entry in a closed loop, TOKEN for the next iteration, the members' message, and the
counts (R33, R273, R277). -/
def tokenOut (s : State) (n : Nat) (v : Volume) (x : Ctx) (iter tok : Nat) (late last : Bool) : State :=
  let s := if (loopOf v.steps).isSome ∧ !x.silenced then
      posterWrite (chargeHostTx s 1 x.job.poster 16) x.job.poster
        (x.job.slip.ring + 64 + 16 * (iter % max 1 x.job.slip.ringLen)) (ringEntry s x.job.slip.ringLen iter tok late last)
    else s
  let s := toMembers s x 0x02 [.u 1 n, .u 4 iter, .u 4 tok]
  let s := ctxMod s n (fun x => { x with
    token := tok, emitted := x.emitted + 1, lastToken := some iter, lateTokens := x.lateTokens + bitN late })
  volMod s v.key (fun v => { v with tokens := (v.tokens + 1) % 2 ^ 64 })

/-- SAMPLE completes with a token: lateness, the ring write and the stop checks (R268, R273, R274, R276). -/
def emitToken (s : State) (n : Nat) (v : Volume) (step iter tok : Nat) : State :=
  match tget s.eng.ctxs n with
  | none => s
  | some x0 =>
    let loop := (loopOf v.steps).isSome
    let late := loop && x0.lead.isNone && decide (deadlineOf s x0 < devNs s)
    let s := if late then lateCtx s n else s
    let x := tgetD s.eng.ctxs n x0
    let why := if loop ∧ x.stop.isNone then tokenStop x iter tok else none
    let s := tokenOut s n v x iter tok late why.isSome
    let s := finishStep s n iter step rcDone rcDone
    match why with
    | some e => stopCtx s n e
    | none => if x.halter.isEmpty then s else stopCtx s n .halted

/-- A SAMPLE that runs and emits no token ends its call slip with FAULT under either policy (R214, R215, R271). -/
def noToken (s : State) (n : Nat) (x : Ctx) (rc : Nat) : State :=
  stopCtx (doneStep s n x rc) n .fault

/-- A SAMPLE has its token: it completes, or holds the token while its ring has no free entry (R275). -/
def sampleDone (s : State) (n : Nat) (v : Volume) (x : Ctx) (tok : Nat) : State :=
  if (loopOf v.steps).isSome ∧ !ringFree x x.iter then
    passStep (ctxMod s n (fun x => { x with
      pending := x.pending ++ [{ step := x.pc, iter := x.iter, due := 0, at_ := s.now }], held := some tok })) n
  else passStep (emitToken s n v x.pc x.iter tok) n

/-- SAMPLE (R214 to R216, R277): a member takes the lead's token. -/
def sampleBody (n : Nat) (remote : RemoteRead) (s : State) (v : Volume) (x : Ctx) (st : VStep) : State :=
  if x.lead.isSome then
    match tget x.tokIn x.iter with
    | none => s
    | some tok =>
      doneStep (ctxMod s n (fun x => { x with token := tok, emitted := x.emitted + 1, tokIn := tdel x.tokIn x.iter })) n x rcDone
  else
    match refusedAddr s v x st with
    | some (a, rc) => refuseStep s n x a rc
    | none =>
      let (s, cb, bad0) := readOper s n v st.opa remote
      let (s, rb, bad1) := readOper s n v st.opb remote
      if bad0 || bad1 then noToken s n x rcPoisoned
      else
        match parseSampler rb with
        | none => noToken s n x rcBadField
        | some sm =>
          let cs := topCands sm.topk (candsOf cb)
          if cs.all (fun c => isNanW c.1) then noToken s n x rcPoisoned
          else
            let (s, r) := drawToken s sm x.job.slip.seq x.iter
            sampleDone s n v x (pickCand sm cs r).2

/-- Whether a HALT of a context's call slip is to be taken in this cycle: its doorbell still waits (R276, log 134). -/
def haltComing (s : State) (x : Ctx) : Bool :=
  s.pending.any (fun c => match c with
    | .queDoorbell q true v _ _ =>
      let h := parseSlip (fit 64 (tgetD (((tget s.queues q).map (·.slots)).getD []) (v.toNat % 16) []))
      x.lead.isNone && q == x.job.queue && h.halt && h.targetSeq == x.job.slip.seq
    | _ => false)

/-- SAMPLE. One released in the cycle in which a HALT of its call slip is taken counts as not yet released, and is not released
(R276). -/
def execSample (ctx : Nat) (remote : RemoteRead) (s : State) : Out :=
  match tget s.eng.ctxs ctx with
  | none => .next s
  | some x => .next (if haltComing s x then s else runStep s ctx opSample (sampleBody ctx remote))

/-- Time between reads of CONSUMED (R483). -/
def consumedGap : Nat := usT 1

/-- CONSUMED_READ (R483): while a SAMPLE holds its token, CONSUMED is read every 1 µs, one read at a time. -/
def execConsumedRead (ctx : Nat) (s : State) : Out :=
  match tget s.eng.ctxs ctx with
  | none => .next s
  | some x =>
    let due : Bool := match x.consumedReadAt with
      | none => true
      | some t => decide (t + consumedGap ≤ s.now)
    if x.held.isSome ∧ !x.readOutstanding ∧ due ∧ !x.silenced ∧ readMay s x.job.poster then
      .next (ctxMod (ringReadStart s x.job.poster x.job.slip.ring) ctx (fun x => { x with
        consumedReadAt := some s.now, readOutstanding := true }))
    else .next s

/-- The held SAMPLE of a context ends. -/
def heldEnds (s : State) (n : Nat) (p : Pend) : State :=
  ctxMod s n (fun x => { x with pending := x.pending.filter (fun y => y != p), held := none, consumedReadAt := none })

/-- A read of CONSUMED returns its value: the held token goes out where its entry is free now. -/
def consumedValue (s : State) (n : Nat) (v : Volume) (c : Nat) : State :=
  let s := ctxMod s n (fun x => { x with consumed := c, readOutstanding := false })
  match tget s.eng.ctxs n with
  | none => s
  | some x =>
    match heldSample x, x.held with
    | some p, some tok => if ringFree x p.iter then emitToken (heldEnds s n p) n v p.step p.iter tok else s
    | _, _ => s

/-- A read of CONSUMED fails: its SAMPLE completes PARTNER_ABSENT without a token (R475). -/
def consumedFail (s : State) (n : Nat) : State :=
  let s := ctxMod s n (fun x => { x with readOutstanding := false })
  match tget s.eng.ctxs n with
  | none => s
  | some x =>
    match heldSample x with
    | none => s
    | some p =>
      let s := finishStep (heldEnds s n p) n p.iter p.step rcPartnerAbsent rcPartnerAbsent
      if x.halter.isEmpty then s else stopCtx s n .fault

/-- CONSUMED_READ_RETURN (R475, R481, R483). -/
def execConsumedReadReturn (ctx : Nat) (answer : HostRead) (s : State) : Out :=
  match tget s.eng.ctxs ctx with
  | none => .next s
  | some x =>
    match x.readOutstanding, ctxVol s x with
    | true, some v =>
      let s := readEnd s x.job.poster x.job.slip.ring answer
      match answer with
      | .data b => .next (consumedValue s ctx v (leVal (fit 8 b)))
      | .timeout => .next (consumedFail s ctx)
      | .unsupported => .next (consumedFail s ctx)
      | .aborted => .next (consumedFail s ctx)
      | .dropped => .next (ctxMod s ctx (fun x => { x with readOutstanding := false }))
    | _, _ => .next s

/-! ### LOOP, ROUTE, CONDITIONAL_SKIP (R236, R237, R253, R263, R273) -/

/-- LOOP: once the iteration's SAMPLE has completed, the routers are clear and the next iteration begins at the target
(R263, R273). -/
def loopBody (n : Nat) (s : State) (_v : Volume) (x : Ctx) (st : VStep) : State :=
  if (heldSample x).isSome then s
  else
    let s := finishStep s n x.iter x.pc rcDone rcDone
    let s := { s with eng := { s.eng with releasePointer := (s.eng.releasePointer + 1) % 64 } }
    ctxMod s n (fun x => { x with iter := x.iter + 1, pc := st.param, routers := [], embedTok := none })

/-- LOOP. -/
def execLoop (ctx : Nat) (s : State) : Out := .next (schedStep s ctx opLoop (loopBody ctx))

/-- A router resolved with a selected set. -/
def setRouter (s : State) (n r : Nat) (l : List Nat) : State := ctxMod s n (fun x => { x with routers := tset x.routers r l })

/-- ROUTE: the indices of the first E candidates become its router's selected set (R236, R237). -/
def routeBody (n : Nat) (s : State) (v : Volume) (x : Ctx) (st : VStep) : State :=
  match refusedAddr s v x st with
  | some (a, rc) => refuseStep (setRouter s n (st.param % 8) []) n x a rc
  | none =>
    let (s, b, bad) := readOper s n v st.opa .none
    let ids := ((candsOf b).take st.batch).map (·.2)
    if bad then doneStep (setRouter s n (st.param % 8) []) n x rcPoisoned
    else if ids.any (fun i => decide (4096 ≤ i)) then doneStep (setRouter s n (st.param % 8) []) n x rcBadField
    else doneStep (setRouter s n (st.param % 8) ids) n x rcDone

/-- ROUTE. -/
def execRoute (ctx : Nat) (s : State) : Out := .next (schedStep s ctx opRoute (routeBody ctx))

/-- CONDITIONAL_SKIP (R253): a conditional step whose expert is not selected sets its token and uses no unit. -/
def execConditionalSkip (ctx : Nat) (s : State) : Out :=
  let s := settleLate s ctx
  match tget s.eng.ctxs ctx with
  | none => .next s
  | some x =>
    match (ctxVol s x).bind (fun v => (v.steps[x.pc]?).map (fun st => (v, st))) with
    | none => .next s
    | some (v, st) =>
      if !s.ras.moduleFault ∧ x.stop.isNone ∧ waitOk v x st ∧ condState v x x.iter x.pc st.cond = some false then .next (doneStep s ctx x rcDone)
      else .next s

end Sys2Proof.Machine
end

