-- ==== Sys2Proof/Machine/LinkMsg.lean ====
section
/-! DEFINITION. Reduce flits and the messages of system sessions as they take effect: starts, tokens and stops of runs that
several modules share, and forwarded desk commands (R277, R278, R450 to R452, R538, R539). -/

namespace Sys2Proof.Machine

/-! ### RED (R219, R220, R451, R452) -/

/-- The fields of a RED flit's ARG: context, step, iteration mod 4, block (R451). -/
structure RedArg where
  ctx : Nat
  step : Nat
  iter : Nat
  blk : Nat
  deriving DecidableEq, Repr

/-- ARG of a RED flit (R451). -/
def parseRed (arg : Nat) : RedArg :=
  { ctx := natField arg 0 6, step := natField arg 6 20, iter := natField arg 26 2, blk := natField arg 28 16 }

/-- The run that a RED flit names, by the lead's context (R451). -/
def redRun (s : State) (a : RedArg) : Option (Nat × Ctx) := s.eng.ctxs.find? (fun e => leadCtxOf e.1 e.2 == a.ctx)

/-- The step that a RED flit names, where its run is known. -/
def redStep (s : State) (a : RedArg) : Option VStep :=
  (redRun s a).bind (fun e => (ctxVol s e.2).bind (fun v => v.steps[a.step]?))

/-- Whether a RED flit comes from a member of the step's GROUP; of a run not yet known, from a module of the board (R452). -/
def redMember (s : State) (a : RedArg) (node : Nat) : Bool :=
  node / 8 == s.ident.board && (match redRun s a with
    | none => true
    | some _ => match redStep s a with
      | none => false
      | some st => st.opcode == opRelay && (relayGroup st).contains (node % 8))

/-- How many blocks of one number a sender may send: of ALLSUM a partial and a result (log 37). -/
def redTimes (s : State) (a : RedArg) : Nat :=
  match redStep s a with
  | none => 2
  | some st => if relayMode st = 1 then 2 else 1

/-- Whether a step already waits for a RED flit. -/
def redAwaited (s : State) (a : RedArg) : Bool :=
  match redRun s a with
  | none => false
  | some e => e.2.pending.any (fun p => p.due != 0 && p.step == a.step && p.iter % 4 == a.iter)

/-- Bytes that the reduce buffer of a half holds (R452). -/
def redHeld (s : State) (h : Half) : Nat :=
  ((s.link.reduce.filter (fun b => b.half == h)).map (fun b => b.data.length)).foldl (· + ·) 0

/-- The half whose reduce unit takes a RED flit: the one its step names; of a step not yet known, the port's (R220, R452). -/
def redHalf (s : State) (p : Nat) (a : RedArg) : Half :=
  match redStep s a with
  | some st => relayHalf st
  | none => portHalf p

/-- Whether a port has a RED flit for the reduce unit of a half that it can take now: room, or a step that waits (R452). -/
def redReady (s : State) (h : Half) (p : Nat) : Bool :=
  match inboxHead s p (fun f => f.type == 8) with
  | none => false
  | some f =>
    let a := parseRed f.arg
    redHalf s p a == h && (redAwaited s a || decide (redHeld s h + f.len ≤ 2 ^ 21))

/-- The port that a reduce unit's input arbiter grants: the first one with a flit at or after its rotating pointer (R220). -/
def redGrant (s : State) (h : Half) : Option Nat :=
  let ptr := s.eng.reducePointer.get h
  (leastFrom (fun k => redReady s h ((ptr + k) % 8)) 8 0).map (fun k => (ptr + k) % 8)

/-- A flit joins what a relay-reduce holds: the input arbiter of the half has granted it (R220, R452). -/
def redJoin (s : State) (p : Nat) (f : Flit) (a : RedArg) : State :=
  let mark := (f.src, a.ctx, a.step, a.iter, a.blk)
  let nth := s.link.redSeen.countP (· == mark)
  if redTimes s a ≤ nth ∨ !redMember s a f.src then s
  else
    let b : RedBlock := { node := f.src, ctx := a.ctx, step := a.step, iter := a.iter, blk := a.blk, nth := nth, half := redHalf s p a,
                          data := f.payload.take f.len }
    let s := { s with
      link := { s.link with reduce := s.link.reduce ++ [b], redSeen := s.link.redSeen ++ [mark] }
      eng := { s.eng with reducePointer := s.eng.reducePointer.mod (redHalf s p a) (fun x => (x + 1) % 8) } }
    match redRun s a with
    | none => s
    | some e => relayTryAll s e.1

/-- RED (R219, R220, R451, R452): the flit that the input arbiter of its reduce unit grants is taken; a flit for a step not yet
released stays in its port while the reduce buffer is full. -/
def execRed (port : Nat) (s : State) : Out :=
  match inboxHead s port (fun f => f.type == 8) with
  | none => .next s
  | some f =>
    let a := parseRed f.arg
    if redGrant s (redHalf s port a) = some port then .next (redJoin (inboxPop s port) port f a) else .next s

/-! ### START, TOKEN, STOP (R277, R278, R450) -/

/-- The first message of a code, when no message of the shared runs from the same node comes before it: those of one node take
effect in their order (R431). -/
def takeRunMsg (s : State) (code : Nat) : Option (Message × State) :=
  match s.link.msgs.find? (fun m => m.code == code) with
  | none => none
  | some m =>
    if s.link.msgs.find? (fun y => y.node == m.node && (y.code == 1 || y.code == 2 || y.code == 3)) = some m then
      some (m, { s with link := { s.link with msgs := s.link.msgs.erase m } })
    else none

/-- The volume that a member runs for a START: of the same VOLUME_ID, the named master's where it has one. -/
def memberVolume (s : State) (mid id : Nat) : Option Volume :=
  (volumeOf s mid id).or ((s.volumes.find? (fun v => v.2.volumeId == id)).map (·.2))

/-- What a member checks of its input block (R244, R248, R278). -/
def memberBlockOk (s : State) (v : Volume) (b : Bytes) (entry : Nat) : Bool :=
  let blk := parseInput v.nkv b
  let res := leAt b 0x38 8
  inputFieldsOk v b && zeroAt b 0 0x32 && zeroAt b 0x40 0x20 && decide (entry < v.steps.length)
    && res % 64 == 0 && addrCode s v.master res 64 true == rcDone && blk.kv.all (fun h => (kvOf s v.master h).isSome)

/-- A member takes no part: STOP with END = REFUSED (R278). -/
def memberRefuses (s : State) (node ctx : Nat) : State :=
  msgSend s node 0x03 (packVals [.u 1 ctx, .u 4 0, .u 1 (endCode .refused)])

/-- The run of a member, from its START and its input block (R277, R278). -/
def memberTaken (s : State) (v : Volume) (body b : Bytes) : Taken :=
  let blk := parseInput v.nkv b
  { slip := { volumeId := v.volumeId, entry := leAt body 0x10 4, seq := leAt body 0x08 8, deadline := leAt body 0x18 8,
              input := leAt body 0x30 8, result := leAt b 0x38 8, ring := 0, mid := v.master, halt := false, ringLen := 0,
              targetSeq := 0 }
    block := { blk with startToken := leAt body 0x24 4, position := leAt body 0x28 4, tokenPeriod := leAt body 0x20 4 }
    volume := v.key, queue := 0, poster := v.master, takenAt := devNs s, consumed := 0, reserve := slipReserve s v blk.kv }

/-- MSG_START (R277, R278, R668): the device wakes, and the member reads its input block and takes a context, or answers that it takes no part. It waits
while no context is free. -/
def execMsgStart (remote : RemoteRead) (s : State) : Out :=
  match takeRunMsg s 0x01 with
  | none => .next s
  | some (m, s1) =>
    let s1 := startWake (leaveSleep s1)
    let lead := leAt m.body 4 1 % 64
    match memberVolume s1 (leAt m.body 6 2 % 4096) (leAt m.body 0 4) with
    | none => .next (memberRefuses s1 m.node lead)
    | some v =>
      let (s2, got) := takeBlock s1 v.master (leAt m.body 0x30 8) v true remote
      match got with
      | none => .next (memberRefuses s2 m.node lead)
      | some (b, bad) =>
        let t := memberTaken s2 v m.body b
        if bad || anyFenced s2 || !memberBlockOk s2 v b t.slip.entry || neverFits s2 t.reserve then
          .next (memberRefuses s2 m.node lead)
        else
          match placeRun s2 v t.reserve with
          | none => .next s
          | some (n, a, c) =>
            let x : Ctx := { newCtx t a c with lead := some m.node, leadCtx := lead }
            .next { s2 with eng := { s2.eng with ctxs := tset s2.eng.ctxs n x } }

/-- The context of a member run, by its lead's node and context. -/
def memberCtx (s : State) (node ctx : Nat) : Option Nat :=
  (s.eng.ctxs.find? (fun e => e.2.lead == some node && e.2.leadCtx == ctx)).map (·.1)

/-- MSG_TOKEN (R277): the token of an iteration, for the member's SAMPLE. -/
def execMsgToken (s : State) : Out :=
  match takeRunMsg s 0x02 with
  | none => .next s
  | some (m, s) =>
    match memberCtx s m.node (leAt m.body 0 1 % 64) with
    | none => .next s
    | some n => .next (ctxMod s n (fun x => { x with tokIn := tset x.tokIn (leAt m.body 4 4) (leAt m.body 8 4) }))

/-- END from its code (R272). -/
def codeEnd (n : Nat) : EndCode :=
  match n with
  | 0 => .listEnd
  | 1 => .stopToken
  | 2 => .count
  | 3 => .halted
  | 4 => .deadline
  | 5 => .fault
  | 6 => .refused
  | _ => .haltCall

/-- A member takes no part in a lead's run, which ends with FAULT and PARTNER_ABSENT (R278). -/
def leadFault (s : State) (n : Nat) : State :=
  stopCtx (ctxMod s n (fun x => { x with rc := if x.rc = 0 then rcPartnerAbsent else x.rc })) n .fault

/-- MSG_STOP (R277, R278): a member releases no further step; a lead's run ends where a member refuses. -/
def execMsgStop (s : State) : Out :=
  match takeRunMsg s 0x03 with
  | none => .next s
  | some (m, s) =>
    let ctx := leAt m.body 0 1 % 64
    let e := codeEnd (leAt m.body 8 1)
    match memberCtx s m.node ctx with
    | some n => .next (stopCtx s n e)
    | none =>
      match tget s.eng.ctxs ctx with
      | none => .next s
      | some x =>
        let inGroup : Bool := match ctxVol s x with
          | none => false
          | some v => (groupOthers s v).any (fun k => slotNode s k == m.node)
        if e = .refused ∧ x.lead.isNone ∧ inGroup then .next (leadFault s ctx) else .next s

/-! ### DESK, DESK_REPLY (R538, R539) -/

/-- DESK (R538, R539): the message joins the forward queue, or is answered NO_SPACE where 64 are there. -/
def execDesk (s : State) : Out :=
  match takeMsg s msgDesk with
  | none => .next s
  | some (m, s) =>
    let msg := fit 256 (m.body.drop 4)
    let node := leAt m.body 0 2 % 4096
    if 64 ≤ s.cp.fwdQueue.length then
      .next (msgSend s node msgDeskReply (replyBytes (msgOp msg) rcNoSpace 0 0 (devNs s) []))
    else
      .next { s with cp := { s.cp with
        fwdQueue := s.cp.fwdQueue ++ [{ id := s.cp.nextFwd, node := node, mid := leAt m.body 2 2 % 4096, msg := msg }]
        nextFwd := s.cp.nextFwd + 1 } }

/-- DESK_REPLY (R538): the origin's command goes on with the answer. -/
def execDeskReply (s : State) : Out :=
  match takeMsg s msgDeskReply with
  | none => .next s
  | some (m, s) => .next (answerForward s m.node (leAt m.body 0 2) (leAt m.body 4 2) (slice m.body 0x20 224))

end Sys2Proof.Machine
end

