-- ==== Sys2Proof/Machine/LinkTime.lean ====
section
/-! DEFINITION. Board time, and the low-power states of the peer ports (R426, R444 to R449, R453 to R455, R722, R727). -/

namespace Sys2Proof.Machine

/-! ### What passes in an idle cycle (R446) -/

/-- What the slewing of device time adds in a cycle: at most 1 ns in 1 µs (R446). -/
def slewStep (s : State) : Int :=
  if s.now / 1000 = (s.now + 10) / 1000 then 0
  else if 0 < s.link.sync.phase then 1
  else if s.link.sync.phase < 0 then -1
  else 0

/-- SYNC_OUT is released 20 ns after it was driven low (R444). -/
def syncRelease (s : State) : State :=
  match s.pins.syncOutLowUntil with
  | none => s
  | some t => if t ≤ s.now then { s with pins := { s.pins with syncOutLowUntil := none } } else s

/-- Whether a call slip waits for a context. -/
def slipWaits (s : State) : Bool := s.queues.any (fun q => !q.2.waiting.isEmpty)

/-- What keeps the device in ACTIVE: a call slip that waits, or a step that is released and not complete (R669). -/
def stepBusy (s : State) : Bool := slipWaits s || s.eng.ctxs.any (fun x => !x.2.pending.isEmpty)

/-- What keeps the device from DOZE: a call slip that waits or runs, or a START to be handled (R669). -/
def slipBusy (s : State) : Bool := slipWaits s || !s.eng.ctxs.isEmpty || s.link.msgs.any (fun m => m.code == 1)

/-- What else keeps the device from SLEEP (R669). -/
def serveBusy (s : State) : Bool :=
  s.acc.running.isSome || !s.acc.queue.isEmpty || s.pool.engine.h0.1.isSome || !s.pool.engine.h0.2.isEmpty
    || s.pool.engine.h1.1.isSome || !s.pool.engine.h1.2.isEmpty || !s.cp.running.isEmpty
    || s.plain.windows.any (fun w => w.2.state == .filling || w.2.state == .encoding)
    || s.pool.extents.any (fun e => leasedNow e.2) || s.pool.grants.any (fun g => g.2.state != 2)

/-- Each timer of R669 starts anew while its condition does not hold. -/
def powerTimers (s : State) : State :=
  { s with power := { s.power with
      idleSince := if stepBusy s then s.now else s.power.idleSince,
      noSlipSince := if slipBusy s then s.now else s.power.noSlipSince,
      quietSince := if serveBusy s then s.now else s.power.quietSince } }

/-- One cycle of the 1.6 GHz network clock in which no command is served (R25; log 1): device time grows by 10 sixteenths of a
nanosecond, give or take a slewing step. -/
def idleTick (s : State) : State :=
  if s.pins.aux then
    let d := slewStep s
    let s := { s with now := ((s.now : Int) + 10 + d).toNat,
                      link := { s.link with sync := { s.link.sync with phase := s.link.sync.phase - d } } }
    peerTick (powerTimers (syncRelease s))
  else s

/-! ### Sync pulses (R444, R446, R722) -/

/-- Board time changed. -/
def syncMod (s : State) (f : SyncState → SyncState) : State := { s with link := { s.link with sync := f s.link.sync } }

/-- Time between sync pulses, 65,536 ns. -/
def syncPeriod : Nat := 2 ^ 20

/-- SYNC_PULSE (R444, R722): the master's device time reaches a multiple of 65,536 ns. -/
def execSyncPulse (s : State) : Out :=
  let k := s.now / syncPeriod
  if s.link.sync.master ∧ s.pins.pwrOk ∧ s.pins.perstN ∧ s.link.sync.lastPulse.getD 0 < k then
    .next { syncMod s (fun y => { y with lastPulse := some k }) with pins := { s.pins with syncOutLowUntil := some (s.now + nsT 20) } }
  else .next s

/-- An offset from the master's time is measured: within ±20 ns or not, and since when (R447). -/
def offsetSeen (s : State) (d : Int) : State :=
  let near := decide (d ≤ 320) && decide (-320 ≤ d)
  syncMod s (fun y =>
    let since := y.withinSince.getD s.now
    { y with
      offset := d
      withinSince := if near then some since else none
      awaySince := if near then none else some (y.awaySince.getD s.now)
      locked := y.locked || (near && decide (since + msT 1 ≤ s.now)) })

/-- Device time follows the master's (R446, R447): the first time, with no call slip running, by a step forward, and else by
slewing. Device time never decreases. -/
def follow (s : State) (d : Int) : State :=
  let y := s.link.sync
  if !y.stepped ∧ !y.locked ∧ s.eng.ctxs.isEmpty ∧ 0 ≤ d then
    let s := syncMod s (fun y => { y with stepped := true, phase := 0 })
    offsetSeen { s with now := ((s.now : Int) + d).toNat } 0
  else offsetSeen (syncMod s (fun y => { y with stepped := true, phase := d })) d

/-- The θ of the direct port to the master, where there is one that hears it (R446). -/
def masterTheta (s : State) : Int :=
  ((s.link.ports.find? (fun p => p.2.kind == .mesh && p.2.time.heard && p.2.partner / 8 == s.ident.board
    && ((tget s.link.sync.heardSlots (p.2.partner % 8)).map (·.2)).getD false)).map (fun p => p.2.time.theta)).getD 0

/-- The multiple of the pulse period nearest to a time. -/
def nearestPulse (t : Int) : Int := (t + 2 ^ 19) / 2 ^ 20 * 2 ^ 20

/-- SYNC_IN_EDGE (R446, R447, R722, R727): a falling edge gives the phase, less the skew of this slot. -/
def execSyncInEdge (s : State) : Out :=
  if s.pins.perstN ∧ s.power.state ≠ .auxOnly ∧ !s.link.sync.master then
    let t : Int := (s.now : Int) - s.link.sync.skew.getD s.ident.slot.toNat 0
    let d := nearestPulse (t + masterTheta s) - t
    .next (follow (syncMod s (fun y => { y with heardMasterAt := s.now, pulseAt := some s.now })) d)
  else .next s

/-- SYNC_ERR_TIMEOUT (R447): beyond ±20 ns for 1 ms. -/
def execSyncErrTimeout (s : State) : Out :=
  let y := s.link.sync
  match y.awaySince with
  | none => .next s
  | some t =>
    if t + msT 1 ≤ s.now ∧ !y.syncErr.val ∧ !y.master then
      .next (logNow (syncMod s (fun y => { y with syncErr := stickySet s.now }))
        { kind := 0x0502, severity := 2, detail0 := signedIn 64 (y.offset / 16) })
    else .next s

/-- MASTER_ELECTION (R448): neither pulse nor TIME flit from a master for 1 ms, and this is the lowest slot of those heard. -/
def execMasterElection (s : State) : Out :=
  let y := s.link.sync
  let others := (y.heardSlots.filter (fun h => decide (s.now ≤ h.2.1 + msT 1))).map (·.1)
  if s.boot.stage = .served ∧ !y.master ∧ y.heardMasterAt + msT 1 ≤ s.now ∧ others ≠ [] ∧ others.all (fun k => decide (s.ident.slot.toNat < k)) then
    .next (syncMod s (fun y => { y with master := true, masterSince := s.now, phase := 0, awaySince := none, lastPulse := some (s.now / syncPeriod) }))
  else .next s

/-! ### TIME flits (R405, R426, R445) -/

/-- Payload of a TIME flit (R445). -/
def timePayload (s : State) (q : Port) : Bytes :=
  leBytes 8 s.now ++ leBytes 8 q.time.echoTx ++ leBytes 8 q.time.echoRx ++ leBytes 1 (bitN s.link.sync.master + 2 * bitN s.link.sync.locked)

/-- A port key that is due is renewed by a new authentication, which the lower node ID begins (R420, R426). -/
def keyRenew (s : State) (p : Nat) : State :=
  let q := portOf s p
  if q.state = .inService ∧ q.step = 6 ∧ q.key.isSome ∧ nodeId s < q.partner
      ∧ (0x80000000 ≤ q.flow.txSseq ∨ q.keySince + secT 3600 ≤ s.now) then
    authStart (portMod s p (fun q => { q with step := 5, stepSince := s.now })) p
  else s

/-- TIME_FLIT_SEND (R405 step 6, R445): every 10 µs in L0 or L0H. -/
def execTimeFlitSend (port : Nat) (s : State) : Out :=
  let q := portOf s port
  let up := q.state == .inService || (q.state == .authenticating && q.step == 6)
  if up ∧ q.lp ≠ .ls ∧ (q.time.lastSent = 0 ∨ q.time.lastSent + usT 10 ≤ s.now) then
    let (s, b) := portSeal s port true (ownFlit 2 3 25 (fit 224 (timePayload s q)))
    let s := portPut (portMod s port (fun q => { q with time := { q.time with lastSent := s.now } })) port (some 3) b
    .next (keyRenew (portEnterIf s port) port)
  else .next s

/-- θ of R445, in 1/16 ns: the sender's clock less this module's. -/
def theta (echoTx echoRx tx rx : Nat) : Int := (((echoRx : Int) - echoTx) + ((tx : Int) - rx)) / 2

/-- A module of the board is heard (R448). -/
def slotHeard (s : State) (slot : Nat) (isMaster : Bool) : State :=
  syncMod s (fun y => { y with heardSlots := tset y.heardSlots slot (s.now, isMaster) })

/-- A module that became master within the last 1 ms yields to another master that it hears (R448). -/
def masterYields (s : State) : State :=
  if s.link.sync.master && decide (s.now ≤ s.link.sync.masterSince + msT 1) then syncMod s (fun y => { y with master := false })
  else s

/-- A TIME flit of the master (R446, R448): device time follows its θ, once it is known, while sync pulses are absent. -/
def masterHeard (s : State) (known : Bool) (th : Int) : State :=
  let s := masterYields s
  if s.link.sync.master then s
  else
    let s := syncMod s (fun y => { y with heardMasterAt := s.now })
    let absent : Bool := match s.link.sync.pulseAt with
      | none => true
      | some t => decide (t + 2 * syncPeriod < s.now)
    if absent ∧ known then follow s th else s

/-- TIME_FLIT_RECEIVE (R405 step 6, R445 to R449): a module that has been master for less than 1 ms gives way to another that
says it is (R448, log 139). `rx` is the time at which the flit crossed the lane interface. -/
def execTimeFlitReceive (port rx : Nat) (s : State) : Out :=
  match inboxHead s port (fun f => f.type == 2) with
  | none => .next s
  | some f =>
    let s := inboxPop s port
    let b := f.payload
    let tx := leAt b 0 8
    let echoTx := leAt b 8 8
    let th := if echoTx = 0 then (portOf s port).time.theta else theta echoTx (leAt b 0x10 8) tx rx
    let s := portMod s port (fun q => { q with time := { q.time with echoTx := tx, echoRx := rx, theta := th, heard := true } })
    let q := portOf s port
    let isMaster := natBit (leAt b 0x18 1) 0
    let board := q.kind == .mesh && q.partner / 8 == s.ident.board
    let s := if board then slotHeard s (q.partner % 8) isMaster else s
    let s := if board ∧ isMaster then masterHeard s (echoTx ≠ 0) th else s
    .next (portEnterIf s port)

/-! ### Low-power states (R453 to R455) -/

/-- The urgency level that a port's pins give, where BW_URGENCY enables them (R502). -/
def urgLevel (s : State) (p : Nat) : Nat :=
  let u := tgetD s.link.urg p {}
  if u.pins && (portOf s p).kind == .accel then u.level.toNat else 0

/-- Whether a port may be in a low-power state at all (R455, R503). -/
def lpPermitted (s : State) (p : Nat) (l : LpState) : Bool :=
  let q := portOf s p
  let deep := s.power.state == .doze || s.power.state == .sleep
  match l with
  | .l0 => true
  | .l0h => decide (urgLevel s p < 2) && (deep || q.lpPermit.getLsbD 0)
  | .ls => decide (urgLevel s p < 1) && (deep || q.lpPermit.getLsbD 1)

/-- Flits that take a quarter of 185 GB/s over 4 µs (R453). -/
def quarterEgress : Nat := 722

/-- Whether the entry condition of a low-power state holds at this side (R453). -/
def lpHolds (s : State) (p : Nat) (l : LpState) : Bool :=
  let q := portOf s p
  q.state == .inService && q.flow.egress.isEmpty && lpPermitted s p l && match l with
    | .l0 => true
    | .l0h => q.lanes == 0xFF && decide ((q.inServiceSince.getD s.now) + usT 4 ≤ s.now)
        && decide ((q.egressTimes.filter (fun t => decide (s.now < t + usT 4))).length ≤ quarterEgress)
    | .ls => decide (q.lpIdleSince + usT 50 ≤ s.now)

/-- The deepest low-power state whose condition holds. -/
def lpDeepest (s : State) (p : Nat) : LpState :=
  if lpHolds s p .ls then .ls else if lpHolds s p .l0h then .l0h else .l0

/-- The shallower of two low-power states. -/
def lpShallow (a b : LpState) : LpState := if lpCode a ≤ lpCode b then a else b

/-- A state from its number in LP_REQ. -/
def codeLp (n : Nat) : LpState := if n = 1 then .l0h else if n = 2 then .ls else .l0

/-- LP_IDLE_TIMER (R453 to R455): the side asks for the deepest state whose condition holds. -/
def execLpIdleTimer (port : Nat) (s : State) : Out :=
  let q := portOf s port
  let l := lpDeepest s port
  if lpCode q.lp < lpCode l ∧ q.lpAsked = none then
    let idle := q.lpIdleSince
    let s := lctlSend s port 8 (leBytes 1 (lpCode l))
    .next (portMod s port (fun q => { q with lpAsked := some l, lpIdleSince := idle }))
  else .next s

/-- LP_REQ (R454): answered, or taken for the answer to this side's own. -/
def execLpReq (port : Nat) (s : State) : Out :=
  match inboxHead s port (isLctl 8) with
  | none => .next s
  | some f =>
    let s := inboxPop s port
    let l := codeLp (leAt (ctlOne f) 0 1)
    match (portOf s port).lpAsked with
    | some mine => .next (portMod s port (fun q => { q with lp := lpShallow mine l, lpAsked := none }))
    | none =>
      let idle := (portOf s port).lpIdleSince
      if lpHolds s port l ∧ l ≠ .l0 then
        .next (portMod (lctlSend s port 9 (leBytes 1 (lpCode l))) port (fun q => { q with lp := l, lpAsked := none, lpIdleSince := idle }))
      else .next (portMod (lctlSend s port 10 []) port (fun q => { q with lpIdleSince := idle }))

/-- LP_ACK (R454): the state is entered. -/
def execLpAck (port : Nat) (s : State) : Out :=
  match inboxHead s port (isLctl 9) with
  | none => .next s
  | some _ =>
    let s := inboxPop s port
    match (portOf s port).lpAsked with
    | none => .next s
    | some l => .next (portMod s port (fun q => { q with lp := l, lpAsked := none }))

/-- LP_NAK (R454): the port stays as it is. -/
def execLpNak (port : Nat) (s : State) : Out :=
  match inboxHead s port (isLctl 10) with
  | none => .next s
  | some _ => .next (portMod (inboxPop s port) port (fun q => { q with lpAsked := none }))

/-- WAKE (R454): the partner wakes the port, by LCTL WAKE or from LS by a wake pattern. -/
def execWake (port : Nat) (s : State) : Out :=
  match inboxHead s port (isLctl 11) with
  | some _ => .next (portMod (inboxPop s port) port (fun q => { q with lp := .l0, lpAsked := none }))
  | none =>
    if (portOf s port).lp = .ls then .next (portMod s port (fun q => { q with lp := .l0, lpAsked := none })) else .next s

end Sys2Proof.Machine
end

