-- ==== Sys2Proof/Machine/DeskLink.lean ====
section
/-! DEFINITION. Desk commands of group 0x07: the peer links (R397, R421, R429, R434, R435, R438, R443, R579 to R581). -/

namespace Sys2Proof.Machine

/-! ### LINK_STATUS -/

/-- The link-session master IDs of a port that sessions hold, as the mask that WINDOW_SET uses (R435). -/
def sessionMask (s : State) (p : Nat) : Nat :=
  ((List.range 64).map (fun i => if thas s.link.mids (0x80 + 64 * p + i) then 2 ^ i else 0)).foldl (· + ·) 0

/-- LINK_STATUS (R579). -/
def linkStatusBody (s : State) (c : RunCmd) : State :=
  let p := arg c 0
  let q := portOf s p
  let k := q.counters
  complete s c rcDone
    [.u 1 (portCode q.state), .u 1 (portKindCode q.kind), .u 1 (portWidth q), .u 1 (lpCode q.lp), .u 2 q.partner, .u 2 q.refusal,
     .u 8 (sessionMask s p), .u 8 k.corrected, .u 4 k.uncorr, .u 4 k.naks, .u 4 k.retrains, .u 4 k.tagFail, .u 4 k.malformed]

/-- LINK_STATUS. -/
def execLinkStatus (src : DeskSrc) (s : State) : Out := .next (deskRun 0x0701 linkStatusBody s src)

/-! ### LINK_CONFIG, PORT_RESET (R397, R405, R580) -/

/-- A kind from its code (R579). -/
def codePortKind (n : Nat) : PortKind :=
  match n with
  | 0 => .mesh
  | 1 => .accel
  | 2 => .far
  | _ => .off

/-- The board number changes: every session is lost, pair secrets with the old node ID end, and every port restarts at step 1
(R580). -/
def boardSet (s : State) (board : Nat) : State :=
  let s := sessionsLost s (fun _ _ => true)
  let s := { s with
    ident := { s.ident with board := board }
    link := { s.link with pairKeys := [], pairStage := [], pairSseq := [] } }
  (List.range 8).foldl portStart s

/-- LINK_CONFIG (R580). -/
def linkConfigBody (s : State) (c : RunCmd) : State :=
  let p := arg c 0
  let hasBoard := natBit (arg c 3) 0
  let s := if p = 0xFF then s
    else portMod s p (fun q => { q with kind := codePortKind (arg c 1), lpPermit := BitVec.ofNat 2 (arg c 2), partnerCfg := arg c 5 })
  let s := if hasBoard then boardSet s (arg c 4) else portStart s p
  complete s c rcDone []

/-- LINK_CONFIG. -/
def execLinkConfig (src : DeskSrc) (s : State) : Out := .next (deskRun 0x0702 linkConfigBody s src)

/-- PORT_RESET (R405, R421). -/
def portResetBody (s : State) (c : RunCmd) : State :=
  complete (portStart s (arg c 0)) c rcDone []

/-- PORT_RESET. -/
def execPortReset (src : DeskSrc) (s : State) : Out := .next (deskRun 0x0708 portResetBody s src)

/-! ### LINK_ANCHOR (R421, R608) -/

/-- The anchors change, and measurement 4 with them (R608). -/
def anchorsSet (s : State) (l : Tbl Nat Bytes) : State :=
  let s := { s with sec := { s.sec with anchors := l } }
  measTake s 4 (anchorBytes s)

/-- LINK_ANCHOR. -/
def linkAnchorBody (buf : HostRead) (s : State) (c : RunCmd) : State :=
  let i := arg c 1
  if arg c 0 = 1 then
    if thas s.sec.anchors i then complete (anchorsSet s (tdel s.sec.anchors i)) c rcDone [] else failWith s c rcNotPermitted
  else if 2048 < msgInLen c.msg then failWith s c rcBadField
  else
    withBuf s c buf (fun s b =>
      if thas s.sec.anchors i then failWith s c rcConflict
      else if !Config.anchorOk b then failWith s c rcSignatureFail
      else complete (anchorsSet s (tset s.sec.anchors i b)) c rcDone [])

/-- LINK_ANCHOR. -/
def execLinkAnchor (src : DeskSrc) (buf : HostRead) (s : State) : Out := .next (deskRun 0x0703 (linkAnchorBody buf) s src)

/-! ### SESSION_BIND, SESSION_CLOSE (R429, R434) -/

/-- A session is to close: at once where nothing waits to be acknowledged, else when that is done (R434). -/
def sessionClose (s : State) (k : Nat × Nat) : State :=
  match sessOf s k with
  | none => s
  | some x =>
    if x.state = .opening then sessionLost s k
    else if !awaitsSack x ∧ x.unsent.isEmpty then sessionLost (sctlSend s k 12 []) k
    else sessMod s k (fun x => { x with state := .closing })

/-- The sessions that a binding let in (R429). -/
def boundSessions (s : State) (b : Binding) : List (Nat × Nat) :=
  (s.link.sessions.filter (fun x => x.1.1 == b.node && x.2.kind == .bound && !x.2.initiator && x.2.remoteMid == b.mid
    && x.2.port == b.port && tenantOf s x.2.localMid == some b.tenant)).map (·.1)

/-- SESSION_BIND (R429, R434, R581). -/
def sessionBindBody (s : State) (c : RunCmd) : State :=
  let b : Binding := { tenant := cmdTenant s c, port := arg c 1, node := arg c 2, mid := arg c 3 }
  if arg c 0 = 0 then
    if s.link.bindings.contains b then failWith s c rcConflict
    else if 64 ≤ s.link.bindings.countP (fun y => y.port == b.port) then failWith s c rcNoSpace
    else complete { s with link := { s.link with bindings := s.link.bindings ++ [b] } } c rcDone []
  else if s.link.bindings.contains b then
    let s' := { s with link := { s.link with bindings := s.link.bindings.erase b } }
    complete ((boundSessions s b).foldl sessionClose s') c rcDone []
  else failWith s c rcNotPermitted

/-- SESSION_BIND. -/
def execSessionBind (src : DeskSrc) (s : State) : Out := .next (deskRun 0x0704 sessionBindBody s src)

/-- SESSION_CLOSE (R434): of the operator any session, of a tenant its own. -/
def sessionCloseBody (s : State) (c : RunCmd) : State :=
  let k := (arg c 0, arg c 1)
  match sessOf s k with
  | none => failWith s c rcNotPermitted
  | some x =>
    if c.mid = 1 ∨ (x.kind ≠ .system ∧ tenantOf s x.localMid = some (cmdTenant s c)) then complete (sessionClose s k) c rcDone []
    else failWith s c rcNotPermitted

/-- SESSION_CLOSE. -/
def execSessionClose (src : DeskSrc) (s : State) : Out := .next (deskRun 0x0705 sessionCloseBody s src)

/-! ### WINDOW_SET, ROUTE_SET (R435, R438, R443, R581) -/

/-- Master IDs of a port in a SESSIONS mask. -/
def maskMids (p mask : Nat) : List Nat := ((List.range 64).filter (fun i => natBit mask i)).map (fun i => 0x80 + 64 * p + i)

/-- Whether the fields of a window to be enabled keep R435 and R581. -/
def windowFieldsOk (s : State) (c : RunCmd) : Bool :=
  let base := arg c 5
  let size := arg c 6
  let mids := maskMids (arg c 0) (arg c 7)
  mids.all (fun m => thas s.link.mids m && tenantOf s m == some (cmdTenant s c)) &&
    (if arg c 3 = 0 then
      let r := daRange base
      (r == 8 || (decide (1 ≤ r) && decide (r ≤ 4))) && !daRefused s c.mid base && base % mib2 == 0 && size % mib2 == 0 && decide (mib2 ≤ size)
        && decide (size ≤ 2 ^ 40)
    else
      decide (1 ≤ size) && decide (size ≤ 16) && (List.range size).all (fun i =>
        match tget s.queues (base + i) with
        | none => false
        | some q => q.master == c.mid && mids.contains q.poster))

/-- Whether a request matched under a window of a port is still outstanding (R438). -/
def portRequests (s : State) (p : Nat) : Bool :=
  s.plain.waits.any (fun w =>
    let mine (node sid : Nat) : Bool := match sessOf s (node, sid) with
      | none => false
      | some x => x.kind == .bound && x.port == p
    match w.dest with
    | .read n i _ => mine n i
    | .write n i _ => mine n i
    | .cxl => false
    | .link _ => false)

/-- WINDOW_SET (R435, R438, R581): the window takes effect, and the command completes once no request of the old one is
outstanding. -/
def windowSetBody (s : State) (c : RunCmd) : State :=
  if !c.acc.isEmpty then (if portRequests s (arg c 0) then s else complete s c rcDone [])
  else
  let p := arg c 0
  let w := arg c 1
  let on := arg c 2 == 1
  let old := tgetD s.link.windows (p, w) {}
  if on ∧ !windowFieldsOk s c then failAddrs s c (if arg c 3 = 0 then [arg c 5] else []) rcBadField
  else if tenantOf s c.mid = none ∧ on then failWith s c rcNotPermitted
  else if old.enable ∧ some old.tenant ≠ tenantOf s c.mid ∧ ¬ (c.mid = 1 ∧ !on) then failWith s c rcConflict
  else
    let x : InWin := if on then
        { enable := true, queue := arg c 3 == 1, rights := BitVec.ofNat 2 (arg c 4), base := arg c 5, size := arg c 6,
          sessions := BitVec.ofNat 64 (arg c 7), tenant := cmdTenant s c }
      else { old with enable := false }
    let s := { s with link := { s.link with windows := tset s.link.windows (p, w) x
                                            windowsBefore := tset s.link.windowsBefore (p, w) (s.now, winOf s p w) } }
    if portRequests s p then runningSet s c (fun r => { r with acc := [1] }) else complete s c rcDone []

/-- WINDOW_SET. -/
def execWindowSet (src : DeskSrc) (s : State) : Out := .next (deskRun 0x0706 windowSetBody s src)

/-- ROUTE_SET (R443). -/
def routeSetBody (s : State) (c : RunCmd) : State :=
  let old := s
  let s := { s with link := { s.link with routes := tset s.link.routes (arg c 0) (BitVec.ofNat 8 (arg c 1)) } }
  complete (repath old s) c rcDone []

/-- ROUTE_SET. -/
def execRouteSet (src : DeskSrc) (s : State) : Out := .next (deskRun 0x0707 routeSetBody s src)

end Sys2Proof.Machine
end

