-- ==== Sys2Proof/Machine/DeskTenant.lean ====
section
/-! DEFINITION. Desk commands of group 0x02: tenants, their masters and their volume keys (R390, R429, R554 to R558, R601,
R616, R625). -/

namespace Sys2Proof.Machine

/-! ### Counts -/

/-- Tenants with the DEPOSITORY privilege (R390). -/
def depositories (s : State) : Nat := s.tenants.countP (fun t => t.2.depository)

/-- Extents that the masters of a tenant hold (R554). -/
def poolHeld (s : State) (t : Nat) : Nat :=
  s.pool.handles.countP (fun p => tenantOf s p.2.master == some t && p.2.view.isNone)

/-- Whether a tenant holds a depository grant in service. -/
def holdsGrant (s : State) (t : Nat) : Bool := s.pool.grants.any (fun g => g.2.state != 2 && tenantOf s g.2.holder == some t)

/-! ### TENANT_CREATE, TENANT_SET, TENANT_DESTROY, TENANT_STATUS -/

/-- TENANT_CREATE (R390, R555, R625): the lowest free number, and a new secret in its key slot. -/
def tenantCreateBody (s : State) (c : RunCmd) : State :=
  let depository := arg c 0 == 1
  if s.sec.debugUnlocked then failWith s c rcNotPermitted
  else if 1024 ≤ s.tenants.length ∨ (depository ∧ 8 ≤ depositories s) then failWith s c rcNoSpace
  else
    match leastFrom (fun t => !thas s.tenants t) 1023 1 with
    | none => failWith s c rcNoSpace
    | some t =>
      let x : Tenant := { depository := depository, pool := arg c 1, t1 := arg c 2, t2 := arg c 3 }
      let s' := drew 32 { s with tenants := tset s.tenants t x
                                 sec := { s.sec with tenantKeys := tset s.sec.tenantKeys t (trngBytes s.free 32) } }
      complete s' c rcDone [.u 2 t]

/-- TENANT_CREATE. -/
def execTenantCreate (src : DeskSrc) (s : State) : Out := .next (deskRun 0x0201 tenantCreateBody s src)

/-- TENANT_SET (R555, R556). -/
def tenantSetBody (s : State) (c : RunCmd) : State :=
  let t := arg c 0
  let depository := arg c 1 == 1
  match tget s.tenants t with
  | none => failWith s c (if t = 0 then rcBadField else rcNotPermitted)
  | some x =>
    if t = 0 then failWith s c rcBadField
    else if arg c 2 < poolHeld s t ∨ 512 * arg c 3 < tenantUsed s t 1 ∨ 512 * arg c 4 < tenantUsed s t 2
        ∨ (x.depository ∧ !depository ∧ holdsGrant s t) then failWith s c rcConflict
    else if depository ∧ !x.depository ∧ 8 ≤ depositories s then failWith s c rcNoSpace
    else
      let y : Tenant := { x with depository := depository, pool := arg c 2, t1 := arg c 3, t2 := arg c 4 }
      complete { s with tenants := tset s.tenants t y } c rcDone []

/-- TENANT_SET. -/
def execTenantSet (src : DeskSrc) (s : State) : Out := .next (deskRun 0x0202 tenantSetBody s src)

/-- A tenant ends: its key slot is erased first, and nothing names the tenant any more (R556, R601). -/
def tenantDrop (s : State) (t : Nat) : State :=
  let s := { s with sec := { s.sec with tenantKeys := tdel s.sec.tenantKeys t } }
  { s with
    tenants := tdel s.tenants t
    link := { s.link with bindings := s.link.bindings.filter (fun b => b.tenant != t)
                          windows := tfilter s.link.windows (fun _ w => w.tenant != t || !w.enable) } }

/-- TENANT_DESTROY (R555, R556). -/
def tenantDestroyBody (s : State) (c : RunCmd) : State :=
  let t := arg c 0
  if t = 0 then failWith s c rcBadField
  else if !thas s.tenants t then failWith s c rcNotPermitted
  else if s.masters.any (fun m => m.2 == t) || s.plain.granules.any (fun g => g.2.tenant == t) then failWith s c rcConflict
  else complete (tenantDrop s t) c rcDone []

/-- TENANT_DESTROY. -/
def execTenantDestroy (src : DeskSrc) (s : State) : Out := .next (deskRun 0x0203 tenantDestroyBody s src)

/-- TENANT_STATUS (R554). -/
def tenantStatusBody (s : State) (c : RunCmd) : State :=
  let t := arg c 0
  match tget s.tenants t with
  | none => failWith s c rcNotPermitted
  | some x =>
    if c.mid ≠ 1 ∧ tenantOf s c.mid ≠ some t then failWith s c rcNotPermitted
    else
      complete s c rcDone
        [.u 2 (bitN x.depository), .u 2 (s.masters.countP (fun m => m.2 == t)), .u 2 x.pool, .u 2 (poolHeld s t), .u 2 x.t1, .u 2 x.t2,
         .u 4 (tenantUsed s t 1), .u 4 (tenantUsed s t 2), .u 1 (bitN x.vkey.isSome)]

/-- TENANT_STATUS. -/
def execTenantStatus (src : DeskSrc) (s : State) : Out := .next (deskRun 0x0206 tenantStatusBody s src)

/-! ### MASTER_BIND -/

/-- Whether a master owns any object (R557). -/
def ownsObject (s : State) (mid : Nat) : Bool :=
  s.regions.any (fun r => r.master == mid) || s.kvs.any (fun k => k.2.master == mid) || s.tensors.any (fun t => t.2.master == mid)
    || s.volumes.any (fun v => v.2.master == mid) || s.queues.any (fun q => q.2.master == mid)
    || s.plain.windows.any (fun w => w.2.master == mid) || s.pool.handles.any (fun h => h.2.master == mid)
    || s.pool.grants.any (fun g => g.2.state != 2 && g.2.holder == mid)
    || s.pool.requests.any (fun r => r.2.state == 0 && r.2.master == mid)
    || s.acc.queue.any (fun r => r.master == mid) || (match s.acc.running with
        | none => false
        | some r => r.1.master == mid)

/-- Whether a call slip of a master waits or runs (R557). -/
def slipOf (s : State) (mid : Nat) : Bool :=
  s.queues.any (fun q => q.2.master == mid && !q.2.waiting.isEmpty) || s.eng.ctxs.any (fun x => x.2.job.slip.mid == mid)

/-- An accession of a master that runs or waits ends with its tensor. -/
def accDrop (s : State) (mid : Nat) : State :=
  { s with acc := { s.acc with
      running := s.acc.running.filter (fun r => r.1.master != mid)
      held := if s.acc.running.any (fun r => r.1.master == mid) then [] else s.acc.held
      queue := s.acc.queue.filter (fun r => r.master != mid)
      failed := s.acc.failed.filter (fun r => r.master != mid)
      done := s.acc.done.filter (fun r => r.master != mid) } }

/-- Requests for extents of a master that are pending end, and what came of incomplete units is returned. -/
def requestsDrop (s : State) (mid : Nat) : State :=
  (s.pool.requests.filter (fun r => r.2.master == mid && r.2.state == 0)).foldl (fun s r => requestEnd s r.1 r.2) s

/-- Every object of a master is destroyed, in the order of R557. -/
def destroyObjects (s : State) (mid : Nat) : State :=
  let s := (s.plain.windows.filter (fun w => w.2.master == mid)).foldl (fun s w => closeWindow s w.1 w.2) s
  let s := (s.volumes.filter (fun v => v.2.master == mid)).foldl (fun s v =>
    dropPins { s with volumes := tdel s.volumes v.1 } v.2) s
  let s := { s with queues := tfilter s.queues (fun _ q => q.master != mid) }
  let s := accDrop ((s.tensors.filter (fun t => t.2.master == mid)).foldl (fun s t => unloadTensor s t.2) s) mid
  let s := returnMaster (requestsDrop s mid) mid
  let s := { s with pool := { s.pool with grants := tmap s.pool.grants (fun _ g =>
    if g.holder = mid ∧ g.state ≠ 2 then { g with state := 2, nonce := [], endedAt := some s.now } else g) } }
  let s := (s.kvs.filter (fun k => k.2.master == mid)).foldl (fun s k => dropKv s k.2) s
  (s.regions.filter (fun r => r.master == mid)).foldl dropRegion s

/-- A master is bound to no tenant. -/
def unbindMaster (s : State) (mid : Nat) : State := { s with masters := tdel s.masters mid }

/-- Whether a master ID is PF1's or a VF's (R557). -/
def bindable (mid : Nat) : Bool := mid == 2 || (decide (0x41 ≤ mid) && decide (mid ≤ 0x7F))

/-- MASTER_BIND (R557). -/
def masterBindBody (s : State) (c : RunCmd) : State :=
  let mid := arg c 1
  let t := arg c 2
  if !bindable mid then failWith s c rcBadField
  else if arg c 0 = 0 then
    if !thas s.tenants t then failWith s c rcNotPermitted
    else if thas s.masters mid then failWith s c rcConflict
    else complete { s with masters := tset s.masters mid t } c rcDone []
  else if tenantOf s mid ≠ some t then failWith s c rcNotPermitted
  else if arg c 0 = 1 then
    if ownsObject s mid then failWith s c rcConflict else complete (unbindMaster s mid) c rcDone []
  else if slipOf s mid then failWith s c rcConflict
  else complete (unbindMaster (destroyObjects s mid) mid) c rcDone []

/-- MASTER_BIND. -/
def execMasterBind (src : DeskSrc) (s : State) : Out := .next (deskRun 0x0204 masterBindBody s src)

/-! ### VOLUME_KEY -/

/-- VOLUME_KEY (R558, R616). -/
def volumeKeyBody (s : State) (c : RunCmd) : State :=
  let t := cmdTenant s c
  let key := argBytes c 1
  match tget s.tenants t with
  | none => failWith s c rcNotPermitted
  | some x =>
    let enrol := complete { s with tenants := tset s.tenants t { x with vkey := some key, vkeyEvents := x.vkeyEvents + 1 } } c rcDone []
    match x.vkey with
    | none => if arg c 0 = 1 then failWith s c rcConflict else enrol
    | some old =>
      if arg c 0 = 0 then failWith s c rcConflict
      else if Config.sm2Verify (ascii "1234567812345678") old (vbytes (Config.sm3 key)) (argBytes c 2) then
        (if old = key then complete s c rcDone [] else enrol)
      else failWith s c rcSignatureFail

/-- VOLUME_KEY. -/
def execVolumeKey (src : DeskSrc) (s : State) : Out := .next (deskRun 0x0205 volumeKeyBody s src)

end Sys2Proof.Machine
end

