-- ==== Sys2Proof/Machine/DeskBw.lean ====
section
/-! DEFINITION. Bandwidth regulation: desk commands of group 0x08, the ledger's windows, and the urgency pins (R489 to R509,
R582, R583). -/

namespace Sys2Proof.Machine

/-! ### Admission (R497, R498) -/

/-- A (resource, class) pair with its guarantee and cap in GB/s. -/
structure BwEntry where
  r : Nat
  c : Nat
  guar : Nat
  cap : Nat
  deriving DecidableEq, Repr

/-- The entries of BW_SET in BUF_IN, 8 bytes each (R583). -/
def bwEntries (b : Bytes) (n : Nat) : List BwEntry :=
  (List.range n).map (fun i => { r := leAt b (8 * i) 1, c := leAt b (8 * i + 1) 1, guar := leAt b (8 * i + 4) 2, cap := leAt b (8 * i + 6) 2 })

/-- Whether the entries keep R497 and their reserved bytes are zero (R10, R583). -/
def bwEntriesOk (b : Bytes) (l : List BwEntry) : Bool :=
  l.all (fun e => decide (e.r ≤ 25) && decide (e.c ≤ 7) && (e.cap == 0 || decide (e.guar ≤ e.cap)))
    && (List.range l.length).all (fun i => leAt b (8 * i + 2) 2 == 0)
    && decide ((l.map (fun e => (e.r, e.c))).Nodup)

/-- The guarantee of a pair in GB/s that the next window will have: the last one admitted (R499). -/
def nextGuar (s : State) (r c : Nat) : Nat :=
  match s.bw.pending.reverse.find? (fun p => p.1 == r && p.2.1 == c) with
  | some p => p.2.2.1
  | none => (bwCell s r c).guar / 1000

/-- The urgency settings that the next window will have (R499). -/
def nextUrg (s : State) : Tbl Nat PortUrg := s.bw.pendingUrg.foldl (fun t u => tset t u.1 u.2) s.link.urg

/-- Whether the guarantees of a resource, with some entries in place, are within its admission limit (R498). -/
def bwAdmits (s : State) (l : List BwEntry) (urg : Tbl Nat PortUrg) (r : Nat) : Bool :=
  let guar (c : Nat) : Nat := match l.find? (fun e => e.r == r && e.c == c) with
    | some e => e.guar
    | none => nextGuar s r c
  decide (((List.range 8).map guar).foldl (· + ·) 0 + boostOn urg r / 1000 ≤ limitOf (derated s r))

/-- BW_SET (R497 to R499, R583). -/
def bwSetBody (buf : HostRead) (s : State) (c : RunCmd) : State :=
  let n := arg c 0
  if msgInLen c.msg < 8 * n then failWith s c rcBadField
  else
    withBuf s c buf (fun s b =>
      let l := bwEntries b n
      if !bwEntriesOk b l then failWith s c rcBadField
      else if !l.all (fun e => bwAdmits s l (nextUrg s) e.r) then failWith s c rcOverGuarantee
      else
        complete { s with bw := { s.bw with pending := s.bw.pending ++ l.map (fun e => (e.r, e.c, e.guar, e.cap)) } } c rcDone [])

/-- BW_SET. -/
def execBwSet (src : DeskSrc) (buf : HostRead) (s : State) : Out := .next (deskRun 0x0801 (bwSetBody buf) s src)

/-- What BW_STATUS writes of a resource (R583). -/
def bwStatusBytes (s : State) (r : Nat) : Bytes :=
  leBytes 4 (derated s r) ++ leBytes 4 (limitOf (derated s r)) ++ zeros 8
    ++ ((List.range 8).map (fun c => ((List.range 4).map (fun i => leBytes 8 (bwReg s r c (8 * i)))).flatten)).flatten

/-- BW_STATUS (R582, R583). -/
def bwStatusBody (s : State) (c : RunCmd) : State :=
  let first := arg c 0
  let n := arg c 1
  if msgOutLen c.msg < 272 * n then failWith s c rcBadField
  else completeOut s c rcDone [] (((List.range n).map (fun i => bwStatusBytes s (first + i))).flatten)

/-- BW_STATUS. -/
def execBwStatus (src : DeskSrc) (s : State) : Out := .next (deskRun 0x0802 bwStatusBody s src)

/-- BW_URGENCY (R498, R499, R502, R503). -/
def bwUrgencyBody (s : State) (c : RunCmd) : State :=
  let p := arg c 0
  let mask := arg c 3
  let u : PortUrg := { tgetD (nextUrg s) p {} with
    pins := natBit (arg c 1) 0, inBand := natBit (arg c 1) 1, boost := arg c 2, mask := BitVec.ofNat 32 mask }
  let urg := tset (nextUrg s) p u
  if (List.range 26).all (fun r => !natBit mask r || bwAdmits s [] urg r) then
    complete { s with bw := { s.bw with pendingUrg := tset s.bw.pendingUrg p u } } c rcDone []
  else failWith s c rcOverGuarantee

/-- BW_URGENCY. -/
def execBwUrgency (src : DeskSrc) (s : State) : Out := .next (deskRun 0x0803 bwUrgencyBody s src)

/-! ### Windows (R493, R505, R506, R508) -/

/-- A window's counts pass into the record of the last complete window, and a short one is counted (R494, R506). -/
def cellClose (x : BwCell) : BwCell :=
  { x with demandLast := sat32 x.demand, delivLast := x.deliv, demand := 0, deliv := 0,
           shortWin := if x.effGuar ≤ x.demand ∧ x.deliv < x.effGuar then satTo (2 ^ 24 - 1) (x.shortWin + 1) else x.shortWin }

/-- The settings that were admitted take effect (R499). -/
def bwApply (s : State) : State :=
  let s := s.bw.pending.foldl (fun s p => bwMod s p.1 p.2.1 (fun x => { x with guar := 1000 * p.2.2.1, cap := 1000 * p.2.2.2 })) s
  let urg := s.bw.pendingUrg.foldl (fun t u =>
    let old := tgetD t u.1 {}
    tset t u.1 { u.2 with level := old.level, sample := old.sample }) s.link.urg
  { s with bw := { s.bw with pending := [], pendingUrg := [] }, link := { s.link with urg := urg } }

/-- ΣG of a resource, boosts included (R505). -/
def guarSum (s : State) (r : Nat) : Nat := ((List.range 8).map (guarOf s r)).foldl (· + ·) 0

/-- The effective guarantees of a resource for the window that begins (R505). -/
def bwScale (s : State) (r : Nat) : State :=
  let d := 1000 * derated s r
  let g := guarSum s r
  let scaled := decide (d < g)
  let s' := (List.range 8).foldl (fun s c =>
    let x := guarOf s r c
    bwMod s r c (fun y => { y with
      effGuar := if scaled then x * d / g else x
      scaled := scaled && decide (x ≠ 0)
      degraded := if scaled ∧ x ≠ 0 ∧ !y.scaled then stickySet s.now else y.degraded })) s
  let was := s.bw.scaledRes.contains r
  if scaled = was then s'
  else
    logNow { s' with bw := { s'.bw with scaledRes := if scaled then s'.bw.scaledRes ++ [r] else s'.bw.scaledRes.erase r } }
      { kind := 0x0701, severity := if scaled then 2 else 0, location := r, detail0 := derated s r, detail1 := g / 1000 }

/-- LEDGER_WINDOW (R387, R493, R499, R505, R506): device time has passed a multiple of 1,000 ns. -/
def execLedgerWindow (s : State) : Out :=
  let k := s.now / 16000
  if s.bw.lastWindow < k then
    let s := { s with
      bw := { s.bw with lastWindow := k, cells := tmap s.bw.cells (fun _ x => cellClose x) }
      pool := { s.pool with caps := tmap s.pool.caps (fun _ c => { c with used := 0 }) } }
    let s := (List.range 26).foldl bwScale (bwApply s)
    let s := (List.range 8).foldl relayGo s
    .next (s.link.sessions.foldl (fun s e => sessDrain e.2.unsent.length s e.1) s)
  else .next s

/-- Shares of the admission limit with which the classes start, in percent (R508). -/
def startShares : List Nat := [60, 10, 15, 5, 0, 5, 2, 0]

/-- The guarantees and caps of R508, for a resource whose full-capacity figure is `full`. -/
def startCells (r full : Nat) : Tbl (Nat × Nat) BwCell :=
  (List.range 8).map (fun c =>
    let g := 1000 * (limitOf full * startShares.getD c 0 / 100)
    ((r, c), { guar := g, effGuar := g, cap := if c = 7 then 1000 * (full * 5 / 100) else 0 }))

/-! ### Urgency pins (R502 to R504) -/

/-- URG_LEVEL_CHANGE (R455, R503, R504): a sample of a port's pins; a level takes effect when two samples agree. At level 2 and 3
the port stays in L0. -/
def execUrgLevelChange (port : Nat) (level : BitVec 2) (s : State) : Out :=
  if s.pins.aux then
    let u := tgetD s.link.urg port {}
    let u' := if u.sample = level then { u with level := level } else { u with sample := level }
    let s := { s with link := { s.link with urg := tset s.link.urg port u' } }
    .next (if 2 ≤ urgLevel s port then portWake s port else s)
  else .next s

end Sys2Proof.Machine
end

