-- ==== Sys2Proof/Machine/PlainDesk.lean ====
section
/-! DEFINITION. Desk commands that take blocks away from the tier-1 cache, after which requests that waited on them run again:
PLAIN_CACHE and WINDOW_DECLARE (R167, R168, R315, R316, R321, R323, R568). -/

namespace Sys2Proof.Machine

/-- A cache share set: the cache is written back and emptied where the share changes (R316, log 23). -/
def setShare (s : State) (h : Half) (share : Nat) : State :=
  if (s.plain.cache.get h).share = share then s
  else
    let s := emptyCache s h
    { s with plain := { s.plain with cache := s.plain.cache.mod h (fun c => { c with share := share, ways := [] }) } }

/-- PLAIN_CACHE (R316, R321, R323). -/
def plainCacheBody (s : State) (c : RunCmd) : State :=
  let s0 := arg c 0
  let s1 := arg c 1
  if !topFree s .h0 s0 ∨ !topFree s .h1 s1 then failWith s c rcNoSpace
  else
    let s := runWaits (setShare (setShare s .h0 s0) .h1 s1)
    complete { s with plain := { s.plain with period := arg c 2 } } c rcDone []

/-- PLAIN_CACHE. -/
def execPlainCache (src : DeskSrc) (s : State) : Out := .next (deskRun 0x030A plainCacheBody s src)

/-- WINDOW_DECLARE (R167, R168, R309, R568). -/
def windowDeclareBody (s : State) (c : RunCmd) : State :=
  match windowOf s c with
  | .error rc => failAddrs s c (if arg c 0 = 0 then ([7, 8, 9].map (arg c)).filter (· != 0) else []) rc
  | .ok w =>
    if w.count * gib < windowLen w.kind w.params then failWith s c rcBadField
    else if !windowAccess s c.mid w.g w.count w.kind then failWith s c rcNotPermitted
    else if (List.range w.count).any (fun i => match tget s.plain.granules (w.g + i) with
        | some g => g.protect | none => false) then failWith s c rcBadField
    else if (List.range w.count).any (fun i => granInWindow s (w.g + i)) then failWith s c rcConflict
    else
      match leastFrom (fun n => !thas s.plain.windows n) 64 0 with
      | none => failWith s c rcNoSpace
      | some n =>
        let s := runWaits (dropGranules s w.g w.count)
        complete { s with plain := { s.plain with windows := tset s.plain.windows n w } } c rcDone [.u 2 n]

/-- WINDOW_DECLARE. -/
def execWindowDeclare (src : DeskSrc) (s : State) : Out := .next (deskRun 0x0404 windowDeclareBody s src)

end Sys2Proof.Machine
end

