-- ==== Sys2Proof/Machine/Ras.lean ====
section
/-! DEFINITION. Reliability: desk commands of group 0x09, units out of service, spared rows, the patrol scrubber, lost stacks
and packages, fenced halves and module faults (R20 to R23, R280 to R283, R329, R584 to R586, R602, R635 to R661, R683). -/

namespace Sys2Proof.Machine

/-! ### ERRATA_READ (R585, R655, R661) -/

/-- The records that a walk returns: up to `n` that pass a test, with the sequence number after the last one walked. -/
def logWalk (ok : ErrRec → Bool) : List ErrRec → (n next : Nat) → List ErrRec × Nat
  | [], _, next => ([], next)
  | r :: l, n, next =>
    if n = 0 then ([], next)
    else if ok r then
      let (got, next) := logWalk ok l (n - 1) (r.seq + 1)
      (r :: got, next)
    else logWalk ok l n (r.seq + 1)

/-- Records returned to the operator or the BMC are no longer pending, and their marks in the flash ring are written (R655,
R661). -/
def markReturned (s : State) (l : List Nat) : State :=
  alertEval { s with ras := { s.ras with pending := s.ras.pending.filter (fun q => !l.contains q) }
                     flash := { s.flash with errRing := s.flash.errRing.map (fun p => (p.1, p.2 || l.contains p.1.seq)) } }

/-- ERRATA_READ (R585). -/
def errataReadBody (s : State) (c : RunCmd) : State :=
  let log := logView s
  let first := (log.head?.map (·.seq)).getD 0
  let start := max (arg c 0) first
  let staff := c.mid == 1 || c.mid == 3
  let ok (r : ErrRec) : Bool := staff || r.tenant == some (cmdTenant s c)
  let limit := if msgHasOut c.msg then min 16384 (msgOutLen c.msg / 64) else 3
  let (got, next) := logWalk ok (log.filter (fun r => decide (start ≤ r.seq))) limit start
  let bytes := (got.map recBytes).flatten
  let s := if staff then markReturned s (got.map (·.seq)) else s
  if msgHasOut c.msg then
    completeOut s c rcDone (packVals [.u 8 first, .u 8 next, .u 2 got.length, .b (zeros 192)]) bytes
  else complete s c rcDone [.u 8 first, .u 8 next, .u 2 got.length, .b (fit 192 bytes)]

/-- ERRATA_READ. -/
def execErrataRead (src : DeskSrc) (s : State) : Out := .next (deskRun 0x0901 errataReadBody s src)

/-! ### RAS_STATUS, UNIT_SERVICE, SCRUB_SET (R584, R586) -/

/-- A mask of n bits. -/
def maskOf (n : Nat) (p : Nat → Bool) : Nat := ((List.range n).map (fun i => if p i then 2 ^ i else 0)).foldl (· + ·) 0

/-- RAS_STATUS (R584, R635). -/
def rasStatusBody (s : State) (c : RunCmd) : State :=
  let h (i : Nat) : HalfState := s.halves.get (halfOf i)
  complete s c rcDone
    [.u 1 (bitN s.halves.h0.fenced), .u 1 (bitN s.halves.h1.fenced),
     .u 1 (maskOf 8 (fun i => (h (i / 4)).hbm.contains (i % 4))),
     .u 4 (maskOf 32 (fun i => (h (i / 16)).packages.contains (i % 16))),
     .u 4 (maskOf 32 (fun i => (vuOf s i).inService)),
     .b (leBytes 16 (maskOf 128 (fun i => (muOf s i).inService))),
     .u 8 s.ras.ce, .u 8 s.ras.ue, .u 4 s.ras.retired, .u 4 s.ras.spared]

/-- RAS_STATUS. -/
def execRasStatus (src : DeskSrc) (s : State) : Out := .next (deskRun 0x0902 rasStatusBody s src)

/-- Units of a half that stay in service once those due to go have gone. -/
def unitsLeft (s : State) (mu : Bool) (h : Half) : List Nat :=
  if mu then (musIn s h).filter (fun n => !(muOf s n).remapDue) else (vusIn s h).filter (fun n => !(vuOf s n).remapDue)

/-- UNIT_SERVICE (R586): OUT makes the unit due at its next step boundary; IN returns it to service. -/
def unitServiceBody (s : State) (c : RunCmd) : State :=
  let mu := arg c 0 == 0
  let i := arg c 1
  let h := halfOf (if mu then i / 64 else i / 16)
  let retired := if mu then (muOf s i).retired else (vuOf s i).retired
  if arg c 2 = 0 then
    if unitsLeft s mu h = [i] then failWith s c rcConflict
    else if !(unitsLeft s mu h).contains i then complete s c rcDone []
    else
      complete (if mu then muMod s i (fun m => { m with remapDue := true, cause := 3 })
        else vuMod s i (fun v => { v with remapDue := true, cause := 3 })) c rcDone []
  else if retired then failWith s c rcConflict
  else
    complete (if mu then muMod s i (fun m => { m with inService := true, remapDue := false, cause := 0 })
      else vuMod s i (fun v => { v with inService := true, remapDue := false, cause := 0 })) c rcDone []

/-- UNIT_SERVICE. -/
def execUnitService (src : DeskSrc) (s : State) : Out := .next (deskRun 0x0903 unitServiceBody s src)

/-- SCRUB_SET (R584, R642). -/
def scrubSetBody (s : State) (c : RunCmd) : State :=
  let h := arg c 1
  complete { s with ras := (match arg c 0 with
    | 0 => { s.ras with scrubSram := h }
    | 1 => { s.ras with scrubT1 := h }
    | _ => { s.ras with scrubT2 := h }) } c rcDone []

/-- SCRUB_SET. -/
def execScrubSet (src : DeskSrc) (s : State) : Out := .next (deskRun 0x0904 scrubSetBody s src)

/-! ### Units (R99, R280 to R283, R652, R683) -/

/-- The UNIT_OUT record (R658). -/
def logUnitOut (s : State) (kind i cause : Nat) : State :=
  logNow s { kind := 0x0201, severity := 2, unit := errUnit kind i, detail0 := cause }

/-- UNIT_REMAP (R99, R280 to R283): at its step boundary a unit that is due goes out of service. -/
def execUnitRemap (unit : UnitRef) (s : State) : Out :=
  match unit with
  | .mu n =>
    let m := muOf s n
    if n < 128 ∧ m.remapDue then
      let s := muMod s n (fun m => { m with remapDue := false, inService := false, act0 := .free, act1 := .free, probe := none })
      let s := { s with eng := { s.eng with ctxs := tmap s.eng.ctxs (fun _ x =>
        { x with acts := x.acts.map (fun a => { a with homes := a.homes.filter (fun p => p.1 != n) }) }) } }
      .next (abandonOn (if m.inService then logUnitOut s 1 n m.cause else s) n)
    else .next s
  | .vu n =>
    let v := vuOf s n
    if n < 32 ∧ v.remapDue then
      let s := vuMod s n (fun v => { v with remapDue := false, inService := false })
      .next (if v.inService then logUnitOut s 2 n v.cause else s)
    else .next s

/-- MU_LOCAL_RESET (R635, R652, R683): the unit's accumulators and activation store are zeroed; a step that runs on it in
this cycle completes POISONED, and the third reset within 1 s declares the unit failed. -/
def execMuLocalReset (mu : Nat) (s : State) : Out :=
  if mu < 128 ∧ (muOf s mu).inService ∧ s.boot.stage = .served then
    let times := (muOf s mu).errTimes.filter (fun t => decide (s.now < t + secT 1)) ++ [s.now]
    let failed := decide (3 ≤ times.length)
    let s := muMod (retireAll s) mu (fun m => { m with
      acc := [], probeAcc := [], probe := none, errTimes := times, resetAt := some s.now
      remapDue := m.remapDue || failed
      cause := if failed ∧ !m.remapDue then 4 else m.cause })
    let s := { s with
      eng := { s.eng with ctxs := tmap s.eng.ctxs (fun _ x => { x with acts := x.acts.map (fun a =>
        if a.homes.any (fun p => p.1 == mu) ∧ !a.wiped.contains mu then { a with wiped := a.wiped ++ [mu] } else a) }) }
      ras := { s.ras with ue := s.ras.ue + 1 } }
    .next (logNow s { kind := 0x0109, severity := 3, unit := errUnit 1 mu, detail0 := times.length, detail1 := bitN failed })
  else .next s

/-! ### Rows and scrub (R635, R640 to R644) -/

/-- The tiles of a tensor's master copy that a line holds part of. -/
def masterTilesAt (t : Tensor) (line : Nat) : List Nat :=
  let i := (line - t.pbase) / slotBytes t.params
  let j := (line - t.cbase) / 32
  ([i, j, j + 1].eraseDups).filter (fun k => decide (k < nTiles t.params)
    && (spansMeet (line, 64) ((masterTile t k).1, slotBytes t.params) || spansMeet (line, 64) ((masterTile t k).2, 32)))

/-- The tiles of a tensor's working copy that a line holds part of. -/
def wcTilesAt (t : Tensor) (line : Nat) : List Nat :=
  match t.wc with
  | none => []
  | some w => (w.present ++ w.copying.map (·.1)).filter (fun k =>
      spansMeet (line, 64) ((wcTile t.params w k).1, slotBytes t.params) || spansMeet (line, 64) ((wcTile t.params w k).2, 32))

/-- A tile is recovered without waiting for a fetch, in the order of R255 (R643). -/
def scrubRecover (s : State) (id tile : Nat) (replica origin : RemoteRead) : State :=
  match tget s.tensors id with
  | none => s
  | some t =>
    match recoverTile s t tile .none .none replica origin with
    | (s, some (code, b)) => logRecovery (if code = 0 then s else rewriteTile s t tile b) t tile code s.now
    | (s, none) => damageTensor (logRecovery s t tile 0xFF s.now) id

/-- The scrubber visits a line (R642 to R644): an uncorrectable one is stored as poison, and what it holds of a tensor is
recovered or staged again. -/
def scrubLine (s : State) (line : Nat) (replica origin : RemoteRead) : State :=
  let s := chargeRead s 6 line 64 (.tier (daHalf line))
  let before := rsDecode (lineErrOf s.mem line)
  let (s, bad) := lineCheck s line 1
  if !bad || before == .poisoned then s
  else
    let s := charge { s with mem := s.mem.poisonLine line } (homeRes line) 6 64
    let s := s.tensors.foldl (fun s p => (masterTilesAt p.2 line).foldl (fun s k => scrubRecover s p.1 k replica origin) s) s
    s.tensors.foldl (fun s p =>
      let l := wcTilesAt p.2 line
      l.foldl (fun s k => wcRestage s p.1 k 5) s) s

/-- The copy of a slice that holds a word of the reading room. -/
def copyAtWord (s : State) (m word : Nat) : Option (FolioId × FolioCopy) :=
  (s.eng.copies.find? (fun e => e.1.1 == m && decide (128 * e.2.granule ≤ word)
    && decide (word < 128 * (e.2.granule + e.2.granules)))).map (fun e => (e.1.2, e.2))

/-- The scrubber visits an on-chip word (R642): it corrects the word, or finds it uncorrectable, which makes a copy of the
reading room POISONED (R254). -/
def scrubWord (s : State) (array index word : Nat) : State :=
  match tget s.eng.sram (array, index, word) with
  | none => s
  | some (d, c) =>
    let syn := hsiaoCheck d ^^^ c
    let copy := if array = 1 then copyAtWord s index word else none
    match hsiaoDecode syn with
    | .clean => s
    | .corrected b =>
      let w := if b < 32 then d ^^^ (1#32 <<< b) else d
      let s := sramEvent s array index word true syn.toNat b 1
      { s with eng := { s.eng with sram := tset s.eng.sram (array, index, word) (w, hsiaoCheck w) } }
    | .uncorrectable =>
      let s := sramEvent s array index word false syn.toNat 0xFF 1
      match copy with
      | none => s
      | some (f, _) => poisonCopy s index f false

/-! ### Fenced halves and module faults (R20 to R23, R602, R655) -/

/-- A half's state changed. -/
def halfMod (s : State) (h : Half) (f : HalfState → HalfState) : State := { s with halves := s.halves.mod h f }

/-- A context's call slip completes POISONED: its next step fails and it stops (R21, R271). -/
def ctxPoisoned (s : State) (n : Nat) : State :=
  stopCtx (ctxMod s n (fun x => if x.failStep.isNone then { x with failStep := some x.pc, rc := rcPoisoned } else x)) n .fault

/-- Call slips that wait for a context complete POISONED (R21). -/
def waitingPoisoned (s : State) (n : Nat) : State :=
  match tget s.queues n with
  | none => s
  | some q =>
    let s := queMod s n (fun q => { q with waiting := [] })
    q.waiting.foldl (fun s t => endUnrun s q t.slip t.takenAt { rc := rcPoisoned, ending := .refused, late := lateAtTake s t.slip }) s

/-- Every request that is under way completes POISONED (R21). -/
def requestsPoisoned (s : State) : State :=
  let s := (s.queues.map (·.1)).foldl waitingPoisoned s
  let s := (s.eng.ctxs.map (·.1)).foldl ctxPoisoned s
  runWaits s

/-- The units of a fenced half are out of service: a running probe ends uncounted, and an investigation on one is ABANDONED
(R91, R99; that fencing takes its units out of service so is DESIGN CHOICE, log 126). -/
def fenceUnits (s : State) (h : Half) : State :=
  ((List.range 64).map (64 * halfNum h + ·)).foldl (fun s m =>
    let s := if (muOf s m).probe.isSome then muMod s m (fun u => { u with probe := none }) else s
    abandonOn s m) s

/-- A half is fenced (R20, R21): its ports leave service, its copy of the errata log is not used, and what is under way
completes POISONED. -/
def fenceHalf (s : State) (h : Half) : State :=
  if (s.halves.get h).fenced then s
  else
    let s := halfMod s h (fun x => { x with fenced := true })
    let s := { s with ras := { s.ras with copyOk := s.ras.copyOk.set h false } }
    let s := logNow s { kind := 0x0204, severity := 3, unit := errUnit 6 (halfNum h) }
    let s := fenceUnits (requestsPoisoned s) h
    (List.range 8).foldl (fun s p => if portHalf p = h ∧ (portOf s p).state ≠ .off then portDown s p .down none else s) s

/-- HALF_FENCE (R20 to R22). -/
def execHalfFence (half : Half) (s : State) : Out := if halfUp s half then .next (fenceHalf s half) else .next s

/-- TRNG_FAIL (R602): no key is drawn any more from the half's source, and its half is fenced. -/
def execTrngFail (half : Half) (s : State) : Out :=
  if s.sec.trngOk.get half then
    let s := { s with sec := { s.sec with trngOk := s.sec.trngOk.set half false } }
    let s := logNow s { kind := 0x0803, severity := 3, unit := errUnit 8 (halfNum half), location := halfNum half }
    .next (fenceHalf s half)
  else .next s

/-- UNIT kind of a part that stops the module (R656). -/
def moduleUnitKind (u : ModuleUnit) : Nat :=
  match u with
  | .hostEndpoint => 9
  | .controlProcessor => 0xA
  | .alwaysOn => 0xB

/-- MODULE_FAULT (R23, R661): the record is written, FAULT_N goes low, and nothing is served until a reset. -/
def execModuleFault (unit : ModuleUnit) (s : State) : Out :=
  if s.ras.moduleFault ∨ !s.pins.aux then .next s
  else
    let s := logNow s { kind := 0x0205, severity := 4, unit := errUnit (moduleUnitKind unit) 0 }
    let s := (List.range 8).foldl (fun s p => if (portOf s p).state ≠ .off then portDown s p .down none else s) s
    .next { s with ras := { s.ras with moduleFault := true }
                   pins := { s.pins with faultN := false }
                   cp := { s.cp with ready := false, restarting := none } }

/-! ### Lost stacks and packages (R329, R330, R654) -/

/-- The stack of a half in which a line of a cache way lies: the placement of ways is the device's own (log 20). -/
def wayStack (h : Half) (k : Nat × Nat) (i : Nat) : Nat :=
  (Config.freeWord 11 (((halfNum h * 2 ^ 24 + k.1) * 16 + k.2) * 64 + i)).toNat % 4

/-- Every dirty line of a way goes home: as poison where it lay in the failed stack (R329). -/
def rescueWay (s : State) (h : Half) (stack : Nat) (k : Nat × Nat) : State :=
  (List.range 64).foldl (fun s i =>
    let s := if wayStack h k i = stack then putWay s h k { wayAt s h k with poison := bitSet (wayAt s h k).poison i true } else s
    writeBackLine s h k i) s

/-- Whether a tensor's master copy or coded form lies in a tier of a half. -/
def masterIn (t : Tensor) (tier : Nat) (h : Half) : Bool :=
  (masterSpans t.params t.pbase t.cbase t.tbase).any (fun x => daRange x.1 == tier && daHalf x.1 == h)

/-- An accession under way whose destination lies in a tier of a half fails POISONED (R144, R329, R654). -/
def accLost (s : State) (tier : Nat) (h : Half) : State :=
  match s.acc.running with
  | none => s
  | some (r, rep) =>
    if (masterSpans r.params r.pbase r.cbase r.tbase).any (fun x => daRange x.1 == tier && daHalf x.1 == h) then accFail s r rep rcPoisoned
    else s

/-- The regions of a tier of a half are LOST, and their objects fail: tensors are DAMAGED, the accession under way fails, and
key/value objects with a page there are lost (R329, R654). -/
def tierLost (s : State) (tier : Nat) (h : Half) : State :=
  let pageIn (e : PageEntry) : Bool := e.valid && daRange e.pda == tier && daHalf e.pda == h
  let mark (r : Region) : Region := if r.tier = tier ∧ r.half = h then { r with lost := true } else r
  let markKv (k : KvObj) : KvObj :=
    if (tier = 1 ∧ k.half = h) ∨ k.pages.any (fun e => pageIn e.2) then { k with lost := true } else k
  let s := { s with regions := s.regions.map mark, kvs := tmap s.kvs (fun _ k => markKv k) }
  accLost (((s.tensors.filter (fun p => masterIn p.2 tier h)).map (·.1)).foldl damageTensor s) tier h

/-- A stack that holds part of a half's copy of the errata log is lost: the copy is built again from the other half's, where that can
be read (R655). -/
def copyLost (s : State) (h : Half) : State :=
  if copyReadable s (otherHalf h) then s else { s with ras := { s.ras with copyOk := s.ras.copyOk.set h false } }

/-- A stack fails (R329, R330): a second stack of a half is more than the half can lose, and fences it. -/
def stackFails (stack : Nat) (s : State) : State :=
  let h := halfOf (stack / 4)
  let hs := s.halves.get h
  if 8 ≤ stack ∨ !halfUp s h ∨ !hs.hbm.contains (stack % 4) then s
  else if hs.t1Remapped then fenceHalf (halfMod s h (fun x => { x with hbm := x.hbm.erase (stack % 4) })) h
  else
    let s := (waysWhere s h (fun w => w.dirty != 0)).foldl (fun s k => rescueWay s h (stack % 4) k) s
    let s := cacheMod s h (fun c => { c with ways := [], share := min c.share 135 })
    let clear (t : Tensor) : Tensor := { t with wc := t.wc.map (fun w => { w with
      present := w.present.filter (fun k => wcHalf w k != h), copying := w.copying.filter (fun k => wcHalf w k.1 != h) }) }
    let s := tierLost { s with tensors := tmap s.tensors (fun _ t => clear t) } 1 h
    let s := halfMod s h (fun x => { x with hbm := x.hbm.erase (stack % 4), t1Remapped := true, t1Cap := 135 })
    let s := logNow (copyLost s h) { kind := 0x0202, severity := 3, unit := errUnit 3 stack }
    runWaits s

/-- STACK_FAILURE (R329, R330, R652). -/
def execStackFailure (stack : Nat) (s : State) : Out := .next (stackFails stack s)

/-- The extents of tier 2 of a half. -/
def halfExtents (s : State) (h : Half) : List (Half × Nat) :=
  (s.pool.extents.filter (fun p => daRange p.2.base == 2 && daHalf p.2.base == h)).map (·.1)

/-- An extent on a lost package: one that is lent drains with RECALLED, an idle one leaves the pool (R350, R654). One in GRANTING is not
lent yet: it drains once the borrowing module accepts it. -/
def extentLost (s : State) (k : Half × Nat) : State :=
  match extOf s k with
  | none => s
  | some e =>
    let s := extMod s k (fun e => { e with withdraw := true })
    match e.state with
    | .idle => withdrawExtent s k
    | .granting => s
    | .leased => sendNotice (enterDraining s k rcRecalled) e k rcRecalled
    | .grace => sendNotice (enterDraining s k rcRecalled) e k rcRecalled
    | .draining => s
    | .erasing => s

/-- A package fails (R654): a second package of a half before its tier 2 is whole again fences the half. -/
def packageFails (pkg : Nat) (s : State) : State :=
  let h := halfOf (pkg / 16)
  let hs := s.halves.get h
  if 32 ≤ pkg ∨ !halfUp s h ∨ !hs.packages.contains (pkg % 16) then s
  else if hs.packages.length < 16 then fenceHalf (halfMod s h (fun x => { x with packages := x.packages.erase (pkg % 16) })) h
  else
    let s := halfMod s h (fun x => { x with packages := x.packages.erase (pkg % 16), t2Failing := true })
    let s := tierLost s 2 h
    let s := { s with
      plain := { s.plain with granules := tmap s.plain.granules (fun _ g => if g.half = h then { g with lost := true } else g) } }
    let s := logNow s { kind := 0x0203, severity := 3, unit := errUnit 4 pkg }
    (halfExtents s h).foldl extentLost s

/-- PACKAGE_FAILURE (R652, R654). -/
def execPackageFailure (pkg : Nat) (s : State) : Out := .next (packageFails pkg s)

/-- PACKAGE_REMAP (R654): no LOST object and no extent that is not erased is left. -/
def execPackageRemap (half : Half) (s : State) : Out :=
  let hs := s.halves.get half
  if hs.t2Failing ∧ halfUp s half ∧ !s.regions.any (fun r => r.lost && r.tier == 2 && r.half == half)
      ∧ !s.plain.granules.any (fun p => p.2.lost && p.2.half == half)
      ∧ (halfExtents s half).isEmpty then
    .next (halfMod s half (fun x => { x with t2Failing := false, t2Remapped := true, t2Cap := 900 }))
  else .next s

/-! ### Rows and visits of the scrubber (R640, R642 to R644, R652) -/

/-- How often a stack or package has counted in a list of times. -/
def unitTimes (s : State) (l : List (Nat × Nat)) (span unit : Nat) : Nat :=
  l.countP (fun p => p.1 == unit && decide (s.now < p.2 + span))

/-- The stacks and packages of which more than 64 rows have become lasting within 72 hours, or more than 1,024 lines been found
uncorrectable within 1 s, are declared failed (R652). The device looks at the counts as it ends a repair and as the scrubber
visits (DESIGN CHOICE, log 141). -/
def unitsJudge (s : State) : State :=
  let due (u : Nat) : Bool :=
    decide (64 < unitTimes s s.ras.rowTimes hours72 u) || decide (1024 < unitTimes s s.ras.lineTimes (secT 1) u)
  (((s.ras.rowTimes ++ s.ras.lineTimes).map (·.1)).eraseDups.filter due).foldl (fun s u =>
    let s := { s with ras := { s.ras with rowTimes := s.ras.rowTimes.filter (fun p => p.1 != u)
                                          lineTimes := s.ras.lineTimes.filter (fun p => p.1 != u) } }
    if u / 64 = 1 then stackFails (u % 64) s else packageFails (u % 64) s) s

/-- ROW_SPARE_END (R635, R640): the oldest repair of a half and tier ends. Its lines have been read and corrected, and the
repair is recorded in flash. -/
def execRowSpareEnd (half : Half) (tier : Nat) (s : State) : Out :=
  match s.ras.rowHolds.find? (fun r => r.1 == half && r.2.1 == tier) with
  | none => .next s
  | some r =>
    let lines := (s.mem.lineErr.map (·.1)).filter (fun l => daRange l == tier && daHalf l == half && rowLoc s l == r.2.2)
    let (s, _) := linesCheck s 3 lines
    .next (unitsJudge { s with ras := { s.ras with rowHolds := s.ras.rowHolds.erase r, spared := s.ras.spared + 1 }
                               flash := { s.flash with repairs := s.flash.repairs ++ [r.2.2] } })

/-- PATROL_SCRUB (R642 to R644, R672): one visit of the scrubber, in SLEEP only during a visit to DOZE for it, to the line of a device address of tier 1 or 2, or to the on-chip
word of a location of R657. A visit waits while class 6 is at its cap (R501). -/
def execPatrolScrub (addr : Nat) (replica origin : RemoteRead) (s : State) : Out :=
  if !tierServed s ∨ (s.power.state = .sleep ∧ s.power.lastScrubVisit ≠ s.now) then .next s
  else if 2 ^ 56 ≤ addr then .next (scrubWord s (addr / 2 ^ 56) (addr / 2 ^ 48 % 256) (addr % 2 ^ 32))
  else if (daRange addr = 1 ∨ daRange addr = 2) ∧ offUsable s (daRange addr) (daOff addr)
      ∧ halfUp s (daHalf addr) ∧ !(daRange addr == 2 && (s.halves.get (daHalf addr)).t2Failing)
      ∧ capOpen s 6 (readPath addr (.tier (daHalf addr))) then
    .next (unitsJudge (scrubLine s (lineOf addr) replica origin))
  else .next s

end Sys2Proof.Machine
end

