-- ==== Sys2Proof/Machine/Power.lean ====
section
/-! DEFINITION. Power states, throttling and the always-on domain's sensors (R587, R662 to R677). -/

namespace Sys2Proof.Machine

/-- Power state changed. -/
def powerMod (s : State) (f : Power → Power) : State := { s with power := f s.power }

/-! ### Desk commands of group 0x0A (R587, R670) -/

/-- A power state of a FLOOR field (R587). -/
def codePower (n : Nat) : PowerState :=
  match n with
  | 0 => .active
  | 1 => .ready
  | 2 => .doze
  | _ => .sleep

/-- A device deeper than its floor wakes to it (R670): to ACTIVE as R668 wakes it, to READY or DOZE at once. -/
def wakeToFloor (s : State) : State :=
  if powerCode s.power.state ≤ powerCode s.power.floor then s
  else if s.power.floor = .active then startWake s
  else powerMod s (fun p => { p with state := p.floor })

/-- POWER_FLOOR (R587, R670). -/
def powerFloorBody (s : State) (c : RunCmd) : State :=
  let s := wakeToFloor (powerMod s (fun p => { p with floor := codePower (arg c 0) }))
  complete s c rcDone [.u 1 (powerCode s.power.state)]

/-- POWER_FLOOR. -/
def execPowerFloor (src : DeskSrc) (s : State) : Out := .next (deskRun 0x0A01 powerFloorBody s src)

/-- POWER_LIMIT (R587): 0 means 950. -/
def powerLimitBody (s : State) (c : RunCmd) : State :=
  complete (powerMod s (fun p => { p with limit := if arg c 0 = 0 then 950 else arg c 0 })) c rcDone []

/-- POWER_LIMIT. -/
def execPowerLimit (src : DeskSrc) (s : State) : Out := .next (deskRun 0x0A02 powerLimitBody s src)

/-- POWER_STATUS (R587). -/
def powerStatusBody (s : State) (c : RunCmd) : State :=
  let p := s.power
  complete s c rcDone
    [.u 1 (powerCode p.state), .u 1 (powerCode p.floor), .u 2 p.watts, .u 2 p.limit, .u 2 p.throttle.h0, .u 2 p.throttle.h1,
     .u 1 p.tjC0, .u 1 p.tjT0, .u 1 p.tjC1, .u 1 p.tjT1]

/-- POWER_STATUS. -/
def execPowerStatus (src : DeskSrc) (s : State) : Out := .next (deskRun 0x0A03 powerStatusBody s src)

/-! ### Entry to deeper states (R669 to R672) -/

/-- Whether the device may enter a state by itself (R670). -/
def floorAllows (s : State) (p : PowerState) : Bool := decide (powerCode p ≤ powerCode s.power.floor)

/-- Whether a call slip's doorbell falls in this cycle too: it still waits (R671, log 134). -/
def doorbellComes (s : State) : Bool :=
  s.pending.any (fun i => match i with
    | .queDoorbell _ true _ _ _ => true
    | _ => false)

/-- IDLE_TO_READY (R669): 10 µs with no call slip waiting and no step released or running; a wake event in the same cycle keeps
the device in ACTIVE (R671). -/
def execIdleToReady (s : State) : Out :=
  if s.power.state = .active ∧ floorAllows s .ready ∧ !stepBusy s ∧ !doorbellComes s ∧ s.power.idleSince + usT 10 ≤ s.now then
    .next (powerMod s (fun p => { p with state := .ready }))
  else .next s

/-- READY_TO_DOZE (R669): 1 ms with no call slip waiting or running and no START pending. -/
def execReadyToDoze (s : State) : Out :=
  if s.power.state = .ready ∧ floorAllows s .doze ∧ s.power.wake.isNone ∧ !slipBusy s ∧ !doorbellComes s ∧ s.power.noSlipSince + msT 1 ≤ s.now then
    .next (powerMod s (fun p => { p with state := .doze }))
  else .next s

/-- DOZE_TO_SLEEP (R669): nothing served for 100 ms, nothing under way, and nothing lent or held. -/
def execDozeToSleep (s : State) : Out :=
  if s.power.state = .doze ∧ floorAllows s .sleep ∧ s.power.wake.isNone ∧ !slipBusy s ∧ !doorbellComes s ∧ s.power.noSlipSince + msT 1 ≤ s.now
      ∧ !serveBusy s ∧ s.power.quietSince + msT 100 ≤ s.now then
    .next (powerMod s (fun p => { p with state := .sleep, lastScrubVisit := s.now }))
  else .next s

/-- WAKE_COMPLETE (R668, R677): the engine clocks run. -/
def execWakeComplete (s : State) : Out :=
  match s.power.wake with
  | none => .next s
  | some w => .next (powerMod s (fun p => { p with
      state := .active, wake := none, wakes := sat32 (p.wakes + 1), lastWakeNs := sat32 ((s.now - w.startedAt) / 16)
      idleSince := s.now }))

/-- SLEEP_TO_DOZE (R666): a request needs tier memory. -/
def execSleepToDoze (s : State) : Out := if s.power.state = .sleep ∧ tierServed s then .next (leaveSleep s) else .next s

/-- SLEEP_SCRUB_VISIT (R672): once in every 60 s the device moves to DOZE for the scrub that has fallen due, and back; no timer of
R669 starts anew. -/
def execSleepScrubVisit (s : State) : Out :=
  if s.power.state = .sleep ∧ tierServed s ∧ s.power.lastScrubVisit + secT 60 ≤ s.now then
    .next (powerMod s (fun p => { p with lastScrubVisit := s.now }))
  else .next s

/-! ### Temperature and throttling (R673 to R676) -/

/-- TJ of a half: the higher of its two dies' readings (R673). -/
def halfTj (p : Power) (h : Half) : Nat :=
  match h with
  | .h0 => max p.tjC0 p.tjT0
  | .h1 => max p.tjC1 p.tjT1

/-- Since when a half has stood at or above 105 °C with T_h at 128 (R676). -/
def hotMark (now : Nat) (p : Power) (h : Half) : Option Nat :=
  if 105 ≤ halfTj p h ∧ p.throttle.get h = 128 then some ((p.hotSince.get h).getD now) else none

/-- The marks of R676 of both halves. -/
def hotMarks (now : Nat) (p : Power) : Power := { p with hotSince := ⟨hotMark now p .h0, hotMark now p .h1⟩ }

/-- THERMAL_SAMPLE (R673): the four dies' readings in °C. -/
def execThermalSample (c0 t0 c1 t1 : Nat) (s : State) : Out :=
  if s.pins.aux then
    .next (powerMod s (fun p => hotMarks s.now { p with tjC0 := c0, tjT0 := t0, tjC1 := c1, tjT1 := t1 }))
  else .next s

/-- The reduction of R675 by temperature. -/
def thermalCut (tj : Nat) : Nat := if 103 ≤ tj then 256 else if 100 ≤ tj then 64 else 0

/-- The reduction of R675 by input power. -/
def powerCut (p : Power) : Nat := if p.limit < p.watts then 64 else 0

/-- What R675 makes of a half's throttle value. -/
def throttleNew (p : Power) (h : Half) : Nat :=
  let t := p.throttle.get h
  let cut := max (thermalCut (halfTj p h)) (powerCut p)
  if cut ≠ 0 then max 128 (t - cut)
  else if halfTj p h ≤ 97 ∧ p.watts * 100 ≤ 95 * p.limit then min 1024 (t + 64)
  else t

/-- THROTTLE of a half changes, with its causes: the rows of R675 that ask for the reduction made (R677). -/
def throttleHalf (p : Power) (h : Half) : Power :=
  let new := throttleNew p h
  if new = p.throttle.get h then p
  else
    let cut := max (thermalCut (halfTj p h)) (powerCut p)
    { p with throttle := p.throttle.set h new
             causeThermal := p.causeThermal.set h (cut != 0 && thermalCut (halfTj p h) == cut)
             causePower := p.causePower.set h (cut != 0 && powerCut p == cut) }

/-- THROTTLE_UPDATE (R675): with the input power averaged over the last 1 ms, in W. -/
def execThrottleUpdate (watts : Nat) (s : State) : Out :=
  if s.power.state ≠ .auxOnly then
    .next (powerMod s (fun p => hotMarks s.now (throttleHalf (throttleHalf { p with watts := watts } .h0) .h1)))
  else .next s

/-- Whether a temperature asks for the trip of R676. -/
def tripDue (s : State) : Bool :=
  let p := s.power
  let hot (h : Half) : Bool := (p.hotSince.get h).any (fun t => decide (t + msT 10 ≤ s.now))
  decide (110 ≤ max (halfTj p .h0) (halfTj p .h1)) || hot .h0 || hot .h1

end Sys2Proof.Machine
end

