-- ==== Sys2Proof/Machine/Boot.lean ====
section
/-! DEFINITION. Start-up: the firmware image, the configuration blocks, the binding table, and what step 8 leaves (R397, R457,
R508, R511 to R515, R596 to R619, R655, R661, R684 to R691). -/

namespace Sys2Proof.Machine

/-! ### The firmware image (R617 to R619) -/

/-- TOTAL that an image's own header gives (R617). -/
def imageTotal (b : Bytes) : Nat := 128 + leAt b 0x0C 4

/-- MIN_SVN: 0 when its record's tag fails, which it does without K_SEAL (R619). -/
def minSvnNow (s : State) : Nat := if s.sec.krOk ∧ s.flash.minSvnTagOk then s.flash.minSvn else 0

/-- Whether an image of `total` bytes passes R618. -/
def imageOk (s : State) (b : Bytes) (total : Nat) : Bool :=
  total == imageTotal b && decide (total ≤ 2 ^ 24) && decide (total ≤ b.length) && leAt b 0 4 == 1 && zeroAt b 0x10 48
    && Config.sm2Verify (ascii "1234567812345678") (Config.romKey 0)
        (vbytes (Config.sm3 (slice b 0 0x40 ++ slice b 0x80 (total - 0x80)))) (slice b 0x40 64)
    && decide (minSvnNow s ≤ leAt b 8 2)

/-- Whether the boot ROM runs the image of flash (R590, R618, R691). -/
def bootImageOk (s : State) : Bool := !s.flash.commitFailed && imageOk s s.flash.image (imageTotal s.flash.image)

/-- The image of flash runs: VERSION, SVN, the interface numbers and M1 (R608, R617, R687). -/
def runImage (s : State) : State :=
  let b := s.flash.image
  let m1 := vbytes (Config.sm3 (slice b 0 (imageTotal b)))
  { s with
    fw := { s.fw with version := leAt b 4 4, svn := leAt b 8 2, digest := m1 }
    ident := { s.ident with ifaceMajor := byteAt b 0xA, ifaceMinor := byteAt b 0xB }
    sec := { s.sec with aliasM1 := if s.sec.krOk then some m1 else none
                        meas := tset s.sec.meas 1 { digest := m1 } } }

/-- MIN_SVN is raised to the SVN of an image that has started for the first time; a record with a bad tag sets SEAL_FAILED until
then (R619). -/
def raiseSvn (s : State) : State :=
  if s.sec.krOk ∧ minSvnNow s < s.fw.svn then
    { s with flash := { s.flash with minSvn := s.fw.svn, minSvnTagOk := true }, sec := { s.sec with sealFailed := false } }
  else { s with sec := { s.sec with sealFailed := !(s.sec.krOk && s.flash.minSvnTagOk) } }

/-! ### Configuration blocks (R688 to R690) -/

/-- A block's area in flash. -/
def blockArea (s : State) (n : Nat) : Bytes := tgetD s.flash.blocks n []

/-- Whether a block is present (R688). -/
def blockHere (b : Bytes) : Bool := !b.isEmpty && byteAt b 0 != 0xFF

/-- LENGTH of a block (R688). -/
def blockLength (b : Bytes) : Nat := leAt b 4 4

/-- Whether CHECK matches (R688). -/
def blockCheck (b : Bytes) : Bool :=
  let n := blockLength b
  decide (12 + n ≤ b.length) && leAt b (8 + n) 4 == (crc32c (b.take (8 + n))).toNat

/-- The body of a block. -/
def blockBody (b : Bytes) : Bytes := slice b 8 (blockLength b)

/-- The length that R689 gives a block's body. -/
def bodyLength (n : Nat) (body : Bytes) : Nat :=
  match n with
  | 0 => 4096
  | 1 => 8
  | 2 => 40
  | 3 => 16
  | 4 => 72 + 8 * leAt body 0 2
  | _ => 8

/-- Full-capacity figure of a resource for R508: 0 for a port that is OFF. -/
def startFull (x8x8 : Bool) (kinds : List Nat) (r : Nat) : Nat :=
  if 10 ≤ r ∧ r < 18 ∧ 3 ≤ kinds.getD (r - 10) 0 then 0 else fullBw x8x8 r

/-- Urgency of a port in a BANDWIDTH body (R689). -/
def bodyUrg (b : Bytes) (p : Nat) : PortUrg :=
  let o := 8 + 8 * p
  { pins := natBit (leAt b o 1) 0, inBand := natBit (leAt b o 1) 1, boost := leAt b (o + 2) 2, mask := BitVec.ofNat 32 (leAt b (o + 4) 4) }

/-- The urgency settings of a BANDWIDTH body. -/
def bodyUrgs (b : Bytes) : Tbl Nat PortUrg := (List.range 8).map (fun p => (p, bodyUrg b p))

/-- The entries of a BANDWIDTH body. -/
def bodyEntries (b : Bytes) : List BwEntry := bwEntries (b.drop 72) (leAt b 0 2)

/-- The guarantee in GB/s that a BANDWIDTH body gives a pair. -/
def bodyGuar (l : List BwEntry) (r c : Nat) : Nat := ((l.find? (fun e => e.r == r && e.c == c)).map (·.guar)).getD 0

/-- Whether the guarantees of a BANDWIDTH body pass R498 at full capacity (R690). -/
def bodyAdmits (x8x8 : Bool) (kinds : List Nat) (b : Bytes) : Bool :=
  let l := bodyEntries b
  (List.range 26).all (fun r =>
    let sum := ((List.range 8).map (bodyGuar l r)).foldl (· + ·) 0 + boostOn (bodyUrgs b) r / 1000
    sum == 0 || decide (sum ≤ limitOf (startFull x8x8 kinds r)))

/-- Whether every field of a block's body lies in its range (R689, R690). A MODE and port kinds are those that will apply. -/
def bodyInRange (x8x8 : Bool) (kinds : List Nat) (n : Nat) (b : Bytes) : Bool :=
  match n with
  | 0 => true
  | 1 => decide (leAt b 0 1 ≤ 1)
  | 2 => (List.range 8).all (fun p => decide (leAt b p 1 ≤ 3) && decide (leAt b (8 + p) 1 ≤ 3)) && decide (leAt b 16 2 < 512)
  | 3 => decide (leAt b 0 2 ≤ 180) && decide (leAt b 2 2 ≤ 180) && decide (leAt b 4 1 ≤ 8)
      && decide (1 ≤ leAt b 6 2) && decide (leAt b 6 2 ≤ 168) && decide (1 ≤ leAt b 8 2) && decide (leAt b 8 2 ≤ 168)
  | 4 => decide (leAt b 0 2 ≤ 208)
      && (List.range 8).all (fun p => decide (leAt b (8 + 8 * p) 1 ≤ 3) && decide (leAt b (12 + 8 * p) 4 < 2 ^ 26))
      && bwEntriesOk (b.drop 72) (bodyEntries b) && bodyAdmits x8x8 kinds b
  | _ => decide (leAt b 0 1 ≤ 3) && decide (200 ≤ leAt b 2 2) && decide (leAt b 2 2 ≤ 950)

/-- Whether a present block passes R690. -/
def blockOk (x8x8 : Bool) (kinds : List Nat) (n : Nat) (b : Bytes) : Bool :=
  blockCheck b && leAt b 0 1 == n && leAt b 1 1 == 1 && leAt b 2 2 == 0
    && blockLength b == bodyLength n (blockBody b) && bodyInRange x8x8 kinds n (blockBody b)

/-- The body of a block that is present and passes, given what the HOST and LINK blocks set. -/
def bodyOf (s : State) (x8x8 : Bool) (kinds : List Nat) (n : Nat) : Option Bytes :=
  let b := blockArea s n
  if blockHere b ∧ blockOk x8x8 kinds n b then some (blockBody b) else none

/-- MODE of the HOST block (R457, R689). -/
def cfgX8x8 (s : State) : Bool := (bodyOf s false [] 1).any (fun b => leAt b 0 1 == 1)

/-- KIND of each port (R397, R689): by default P0 is OFF, the others MESH. -/
def cfgKinds (s : State) : List Nat :=
  match bodyOf s false [] 2 with
  | none => [3, 0, 0, 0, 0, 0, 0, 0]
  | some b => (List.range 8).map (fun p => leAt b p 1)

/-- The body of any block. -/
def cfgBody (s : State) (n : Nat) : Option Bytes := bodyOf s (cfgX8x8 s) (cfgKinds s) n

/-- The masks of blocks that are present, and of those that pass. -/
def cfgPresent (s : State) : Nat := maskOf 6 (fun n => blockHere (blockArea s n))

/-- The mask of blocks that pass R690. -/
def cfgPassing (s : State) : Nat := maskOf 6 (fun n => (cfgBody s n).isSome)

/-! ### The binding table (R511 to R515) -/

/-- The entry of a carrel in the table of R515, as R511 lays it out; 0 where unbound. -/
def defaultEntry (n : Nat) : Nat :=
  let e (path window sender : Nat) : Nat := 2 ^ 31 + path * 2 ^ 20 + window * 2 ^ 12 + sender
  if n < 16 then e 0 n 1
  else if n < 32 then e 1 (n - 16) 2
  else if n < 536 then e 2 ((n - 32) % 8) (0x41 + (n - 32) / 8)
  else if n < 540 then e 3 (n - 536) 3
  else if n < 544 then e 4 (n - 540) 4
  else 0

/-- The 4,096 bytes of the binding table. -/
def bindingBytes (s : State) : Bytes :=
  match cfgBody s 0 with
  | some b => b
  | none => ((List.range 1024).map (fun n => leBytes 4 (defaultEntry n))).flatten

/-- Whether SENDER is the MID of PATH and WINDOW lies in its range (R512). -/
def entryOk (e : BindEntry) : Bool :=
  match e.path with
  | 0 => e.sender == 1
  | 1 => e.sender == 2
  | 2 => decide (0x41 ≤ e.sender) && decide (e.sender ≤ 0x7F) && decide (e.window ≤ 15)
  | 3 => e.sender == 3 && decide (e.window ≤ 7)
  | 4 => e.sender == 4 && decide (e.window ≤ 7)
  | _ => false

/-- The table with the next entry: of entries of one path, sender and window the first is valid (R512). The second list
gathers those treated as unbound. -/
def bindOne (acc : Tbl Nat BindEntry × List (Nat × Nat)) (p : Nat × Nat) : Tbl Nat BindEntry × List (Nat × Nat) :=
  let w := p.2
  if w / 2 ^ 31 % 2 = 0 then acc
  else
    let e : BindEntry := { path := w / 2 ^ 20 % 8, window := w / 2 ^ 12 % 256, sender := w % 4096 }
    if entryOk e ∧ !acc.1.any (fun q => q.2 == e) then (acc.1 ++ [(p.1, e)], acc.2) else (acc.1, acc.2 ++ [p])

/-- The entries of a table with their carrels, and those that break R512. -/
def bindAll (b : Bytes) : Tbl Nat BindEntry × List (Nat × Nat) :=
  ((List.range 1024).map (fun n => (n, leAt b (4 * n) 4))).foldl bindOne ([], [])

/-- The binding table is loaded, measured and locked (R512, R514, R608). -/
def bindTable (s : State) : State :=
  let b := bindingBytes s
  let (t, bad) := bindAll b
  let s := { s with cp := { s.cp with binding := t, bindingLocked := true }
                    sec := { s.sec with meas := tset s.sec.meas 3 { digest := vbytes (Config.sm3 b) } } }
  bad.foldl (fun s p => logNow s { kind := 0x0802, severity := 0, location := p.1, detail0 := p.2 }) s

/-! ### What the blocks set (R689) -/

/-- The bandwidth settings at start-up (R508, R689): a BANDWIDTH block without entries sets none. -/
def cfgCells (s : State) : Tbl (Nat × Nat) BwCell :=
  let l := ((cfgBody s 4).map bodyEntries).getD []
  if l.isEmpty then ((List.range 26).map (fun r => startCells r (startFull (cfgX8x8 s) (cfgKinds s) r))).flatten
  else l.map (fun e => ((e.r, e.c), { guar := 1000 * e.guar, effGuar := 1000 * e.guar, cap := 1000 * e.cap }))

/-- The urgency settings at start-up; pins are sampled all the time (R504, R689). -/
def cfgUrg (s : State) : Tbl Nat PortUrg :=
  (List.range 8).map (fun p =>
    let old := tgetD s.link.urg p {}
    let u : PortUrg := ((cfgBody s 4).map (fun b => bodyUrg b p)).getD {}
    (p, { u with level := old.level, sample := old.sample }))

/-- A port at start-up (R397). -/
def cfgPort (s : State) (p : Nat) : Port :=
  let k := codePortKind ((cfgKinds s).getD p 0)
  { kind := k, state := if k = .off then .off else .down, downSince := s.now
    lpPermit := BitVec.ofNat 2 (((cfgBody s 2).map (fun b => leAt b (8 + p) 1)).getD 0) }

/-- The links at start-up: BOARD, the ports, SYNC_SKEW and urgency (R397, R398, R446, R689). -/
def cfgLink (s : State) : State :=
  let b := cfgBody s 2
  let skew (i : Nat) : Int := (b.map (fun b => (BitVec.ofNat 16 (leAt b (24 + 2 * i) 2)).toInt)).getD 0
  { s with
    ident := { s.ident with board := (b.map (fun b => leAt b 16 2)).getD 0 }
    link := { s.link with ports := (List.range 8).map (fun p => (p, cfgPort s p)), urg := cfgUrg s
                          sync := { s.link.sync with skew := (List.range 8).map skew } } }

/-- The cache shares at start-up; one that regions kept through a PERST_N reset leave no room for does not change (R316, log
41). -/
def cfgShare (s : State) (h : Half) (n : Nat) : State := if topFree s h n then setShare s h n else s

/-- The plain face and the scrubber at start-up (R316, R323, R642, R689). -/
def cfgMemory (s : State) : State :=
  let b := cfgBody s 3
  let f (o w d : Nat) : Nat := (b.map (fun b => leAt b o w)).getD d
  let s := cfgShare (cfgShare s .h0 (f 0 2 0)) .h1 (f 2 2 0)
  { s with plain := { s.plain with period := f 4 1 4 }
           ras := { s.ras with scrubSram := f 6 2 1, scrubT1 := f 8 2 24, scrubT2 := f 8 2 24 } }

/-- Floor and limit at start-up (R670, R689). -/
def cfgPower (s : State) : State :=
  let b := cfgBody s 5
  powerMod s (fun p => { p with floor := codePower ((b.map (fun b => leAt b 0 1)).getD 2), limit := (b.map (fun b => leAt b 2 2)).getD 950 })

/-- The blocks take effect; measurement 2 covers them as read (R608, R690). -/
def configure (s : State) : State :=
  let present := cfgPresent s
  let passing := cfgPassing s
  let read := ((List.range 6).map (fun n => if blockHere (blockArea s n) then (blockArea s n).take (12 + blockLength (blockArea s n))
    else [])).flatten
  let s := { s with
    boot := { s.boot with present := BitVec.ofNat 8 present, blocksOk := BitVec.ofNat 8 passing, defaultsUsed := present != passing }
    host := { s.host with x8x8 := cfgX8x8 s }
    bw := { cells := cfgCells s, lastWindow := s.now / 16000 }
    sec := { s.sec with meas := tset s.sec.meas 2 { digest := vbytes (Config.sm3 read) } } }
  let s := cfgPower (cfgMemory (cfgLink s))
  if present = passing then s
  else logNow s { kind := 0x0804, severity := 0, location := present - passing }

/-! ### Repairs, retired parts and the errata log (R586, R640, R641, R655, R680) -/

/-- The engines after a reset: every unit in service but those retired (R680). -/
def enginesFresh (f : Flash) : Engines :=
  let gone : Mu := { inService := false, retired := true, cause := 4 }
  { mus := f.retiredUnits.filterMap (fun u => match u with | .mu n => some (n, gone) | .vu _ => none)
    vus := f.retiredUnits.filterMap (fun u => match u with
      | .mu _ => none
      | .vu n => some (n, { inService := false, retired := true, cause := 4 })) }

/-- The records of the flash ring, with FLASH set (R655). -/
def ringRecords (f : Flash) : List ErrRec := f.errRing.map (fun p => { p.1 with flash := true })

/-- The SEQ after the highest found in the flash ring (R655). -/
def ringNext (f : Flash) : Nat := (f.errRing.map (fun p => p.1.seq)).foldl max 0 + 1

/-- At a cold start the log is loaded from its ring; records without their mark are pending again (R655, R661). -/
def loadRing (s : State) : State :=
  let ring := ringRecords s.flash
  let own := s.ras.log.filter (fun r => !ring.any (fun x => x.seq == r.seq))
  let due := (s.flash.errRing.filter (fun p => !p.2 && decide (2 ≤ p.1.severity))).map (fun p => p.1.seq)
  let log := ring ++ own
  { s with ras := { s.ras with
      log := log
      pending := due ++ s.ras.pending.filter (fun q => !due.contains q)
      cpBuffer := log.drop (log.length - 64)
      retired := s.flash.retiredGranules.length
      spared := s.flash.repairs.length } }

/-- A half's DRAM is trained and in service; one that has lost more than it can re-map stays fenced (R20, R329, R654, R685). -/
def halfStart (x : HalfState) : HalfState :=
  { x with inService := true, fenced := decide (x.hbm.length < 3) || decide (x.packages.length < 15) }

/-! ### Start-up (R685, R691) -/

/-- The recovery path's carrels and interface version (R691). -/
def recoveryTables (s : State) : State :=
  { s with
    boot := { s.boot with stage := .recovery }
    ident := { s.ident with ifaceMajor := 0, ifaceMinor := 0 }
    cp := { s.cp with ready := true
                      binding := [(0, { path := 0, window := 0, sender := 1 }), (536, { path := 3, window := 0, sender := 3 })] } }

/-- The recovery path (R691): carrels 0 and 536 alone, ALERT_N low. -/
def recoveryPath (s : State) : State := alertEval (powerMod (recoveryTables s) (fun p => { p with state := .ready }))

/-- READY, with every timer begun anew, or on the way to ACTIVE where the floor is ACTIVE (R670, R685 step 10). -/
def powerStart (s : State) : State :=
  wakeToFloor (powerMod s (fun p => { p with
    state := .ready, wake := none, idleSince := s.now, noSlipSince := s.now, quietSince := s.now, lastScrubVisit := s.now
    wakes := 0, lastWakeNs := 0 }))

/-- What start-up sets up beside the configuration: both halves, the TRNGs, measurement 4 and the counts since start-up. -/
def partsUp (s : State) : State :=
  { s with
    halves := ⟨halfStart s.halves.h0, halfStart s.halves.h1⟩
    ras := { s.ras with copyOk := ⟨true, true⟩ }
    sec := { s.sec with trngOk := ⟨true, true⟩
                        meas := tset s.sec.meas 4 { digest := vbytes (Config.sm3 (anchorBytes s)) } }
    tenants := tmap s.tenants (fun _ t => { t with vkeyEvents := 0 })
    plain := { s.plain with lastSweep := s.now } }

/-- The log at start-up: after a cold start, what its ring holds, and the record of a root key that failed its check (R597, R655). -/
def startLog (s : State) (cold : Bool) : State :=
  let s := if cold then loadRing s else s
  if cold ∧ !s.sec.krOk then logNow s { kind := 0x0801, severity := 2 } else s

/-- The control processor serves desk commands. -/
def servedNow (s : State) : State :=
  { s with boot := { s.boot with stage := .served, coldStart := false }, cp := { s.cp with ready := true } }

/-- Time at the start (R32, R448): the module in slot 0 is the master, until it hears that another one is; the 1 ms after which
another module may take the place starts now (log 139). -/
def timeStart (s : State) : State :=
  let y := s.link.sync
  let y := if s.ident.slot = 0 then { y with master := true, masterSince := s.now, lastPulse := some (s.now / 2 ^ 20) }
    else { y with heardMasterAt := s.now }
  { s with link := { s.link with sync := y } }

/-- Steps 5 to 8 of R685 with a good image. -/
def startImage (s : State) : State :=
  let s := configure (runImage s)
  let s := alertEval (powerStart (timeStart (servedNow (raiseSvn (bindTable (startLog (partsUp s) s.boot.coldStart))))))
  (s.plain.windows.map (·.1)).foldl autoSeal s

/-- Start-up from step 5 of R685. -/
def startUp (s : State) : State := if bootImageOk s then startImage s else recoveryPath s

end Sys2Proof.Machine
end

