-- ==== Sys2Proof/Machine/Pcie.lean ====
section
/-! DEFINITION. The host endpoint: memory and configuration requests, function-level reset, virtual functions, completions of
the device's own reads, link width and power (R457 to R463, R470 to R476, R485 to R488, R686). -/

namespace Sys2Proof.Machine

/-! ### What the endpoint answers -/

/-- Whether the endpoint runs: main power, PERST_N high, and no module fault (R23, R662). -/
def endpointUp (s : State) : Bool := s.pins.perstN && s.power.state != .auxOnly && !s.ras.moduleFault

/-- Whether requests to functions are served: from step 8 of start-up, or on the recovery path (R686, R691). -/
def fnServed (s : State) : Bool := s.boot.stage == .served || s.boot.stage == .recovery

/-- Whether a function is present (R461, R691). -/
def fnPresent (s : State) (fn : Fn) : Bool :=
  match fn with
  | .pf0 => true
  | .pf1 => s.boot.stage != .recovery
  | .vf n => s.boot.stage != .recovery && s.host.vfEnable && decide (1 ≤ n ∧ n ≤ s.host.numVfs)

/-- Size of a function's BAR0, or of BAR2, which PF0 alone has (R460). -/
def barSize (fn : Fn) (bar2 : Bool) : Nat :=
  if bar2 then (if fn = .pf0 then 2 ^ 17 else 0) else if isVf fn then 2 ^ 20 else 2 ^ 26

/-- Media Status of the Memory Device Status register (R715): Ready from step 7 of R685, which a read of BAR2 first sees at
step 8, and not while both halves are fenced. -/
def mediaReady (s : State) : Bool := s.boot.stage == .served && !(s.halves.h0.fenced && s.halves.h1.fenced)

/-- The Memory Device Status register: Media Status in [3:2], 01 for Ready, and Mailbox Interfaces Ready in [4] (R467, R715;
the places are CXL 3.1's, log 40). -/
def memoryStatus (s : State) : Nat := bitN (mediaReady s) * 2 ^ 2 + bitN (s.boot.stage == .served) * 2 ^ 4

/-- The Device Capabilities Array: Device Status, Primary Mailbox and Memory Device Status, each with its block's offset and
length (chapter 19; the layout is CXL 3.1's and the blocks' places are the model's, log 40). -/
def capArray : Bytes :=
  leBytes 2 0 ++ leBytes 2 1 ++ leBytes 2 3 ++ zeros 10
    ++ leBytes 2 1 ++ leBytes 2 1 ++ leBytes 4 0x40 ++ leBytes 4 8 ++ zeros 4
    ++ leBytes 2 2 ++ leBytes 2 1 ++ leBytes 4 0x100 ++ leBytes 4 0x1000 ++ zeros 4
    ++ leBytes 2 0x4000 ++ leBytes 2 1 ++ leBytes 4 0x48 ++ leBytes 4 8 ++ zeros 4

/-- A byte of PF0's BAR2 (R465, R467, R715): the device block at 0x1_0000 holds the array and Memory Device Status. What
else CXL 3.1 lays out there the spec does not give (log 40). -/
def bar2Byte (s : State) (o : Nat) : Byte :=
  if 0x10000 ≤ o ∧ o < 0x10040 then capArray.getD (o - 0x10000) 0
  else if 0x10048 ≤ o ∧ o < 0x10050 then (leBytes 8 (memoryStatus s)).getD (o - 0x10048) 0
  else (Config.freeWord 14 (64 * 0x20000 + o)).setWidth 8

/-- Bytes of PF0's BAR2. -/
def bar2Bytes (s : State) (off len : Nat) : Bytes := (List.range len).map (fun i => bar2Byte s (off + i))

/-- A memory request to a function (R9, R460, R461, R486, R686, R715): a request to BAR0, or to BAR2 of PF0, whose mailbox has rows of
its own and whose other writes leave what the spec describes unchanged (log 40). One that is not served completes as
Unsupported Request, which a posted write does not show. -/
def pcieRequest (fn : Fn) (bar2 write : Bool) (off len : Nat) (bytes : Bytes) (consumed : HostRead)
    (input : RemoteRead) (s : State) : Out :=
  if !endpointUp s || !fnPresent s fn then .next s
  else
    let s := hostTouch s fn false (if write then bytes.length else 0)
    if !fnServed s || thas s.host.flr fn || decide (barSize fn bar2 < off + len) then
      .next (if write then s else emit s (.completion fn none))
    else if bar2 then .next (if write then s else emit s (.completion fn (some (bar2Bytes s off len))))
    else if write then regWrite s fn off bytes consumed input
    else
      let r := regRead s fn off len
      .next (emit r.1 (.completion fn (some r.2)))

/-- PCIE_MEMORY_REQUEST. -/
def execPcieMemoryRequest (fn : Fn) (write : Bool) (place : BarPlace) (len : Nat) (bytes : Bytes) (consumed : HostRead)
    (input : RemoteRead) (s : State) : Out :=
  pcieRequest fn place.bar2 write place.off len bytes consumed input s

/-! ### Function-level reset (R279, R336, R358, R485 to R488, R535, R544) -/

/-- The virtual functions that are enabled. -/
def enabledVfs (s : State) : List Fn := if s.host.vfEnable then (List.range s.host.numVfs).map (fun i => .vf (i + 1)) else []

/-- The reads of a function that are outstanding were issued before its reset (R486). -/
def markTags (s : State) (fn : Fn) : State :=
  { s with host := { s.host with tags := s.host.tags.map (fun p =>
      if p.1.1 = fn then (p.1, match p.2 with
        | .outstanding t a _ => .outstanding t a true
        | .quarantined u => .quarantined u)
      else p) } }

/-- Steps 1 to 3 of a function's reset (R485): its writes are silenced, its call slips and carrel messages end. -/
def flrBegin (s : State) (fn : Fn) : State :=
  let s := { s with host := { s.host with flr := tset s.host.flr fn s.now } }
  resetSender (silencePoster (markTags (retireAll s) fn) (fnMid fn)) (fnMid fn)

/-- The functions that a function's reset covers (R487). -/
def flrCovers (s : State) (fn : Fn) : List Fn := if fn = .pf1 then enabledVfs s ++ [.pf1] else [fn]

/-- A reset of a function starts; one of a function that is being reset is absorbed (R485). -/
def flrStart (s : State) (fn : Fn) : State :=
  if thas s.host.flr fn then s
  else (flrCovers s fn).foldl (fun s f => if thas s.host.flr f then s else flrBegin s f) s

/-- INITIATE_FLR (R485, R487). -/
def execInitiateFlr (fn : Fn) (s : State) : Out :=
  if endpointUp s && fnPresent s fn && fnServed s then .next (flrStart s fn) else .next s

/-- Steps 4 and 5 of a function's reset: bindery entries retired, extents returned, sessions lost; configuration, queues,
carrels and locks at reset values (R336, R358, R485, R544, R680, R704). -/
def flrFinish (s : State) (fn : Fn) : State :=
  let mid := fnMid fn
  let s := retireWhere (retireWhere s .h0 (fun e => e.mid == mid)) .h1 (fun e => e.mid == mid)
  let s := returnMaster s mid
  let s := sessionsLost s (fun _ x => x.initiator && x.kind != .system && x.localMid == mid)
  let s := resetSender s mid
  { s with
    queues := tmap s.queues (fun _ q => if q.poster = mid then
        { master := q.master, poster := q.poster, window := q.window } else q)
    cp := { s.cp with locks := s.cp.locks.filter (fun p => p.2 != mid) }
    host := { s.host with
      flr := tdel s.host.flr fn
      cfgRegs := s.host.cfgRegs.filter (fun p => p.1.1 != fn)
      timeoutNs := tdel s.host.timeoutNs fn
      tags := s.host.tags.filter (fun p => p.1.1 != fn || (match p.2 with
        | .quarantined _ => true
        | .outstanding _ _ pre => !pre)) } }

/-- FLR_COMPLETE (R485, R487): PF1's takes the virtual functions with it, and disables them. -/
def execFlrComplete (fn : Fn) (s : State) : Out :=
  if !thas s.host.flr fn then .next s
  else
    let s := (flrCovers s fn).foldl flrFinish s
    .next (if fn = .pf1 then { s with host := { s.host with vfEnable := false, numVfs := 0 } } else s)

/-- VF_ENABLE (R461): VF Enable of PF1's SR-IOV capability takes effect. -/
def execVfEnable (enable : Bool) (count : Nat) (s : State) : Out :=
  if endpointUp s && fnPresent s .pf1 && fnServed s && !thas s.host.flr .pf1 && decide (count ≤ 63) then
    .next { s with host := { s.host with vfEnable := enable, numVfs := if enable then count else 0 } }
  else .next s

/-! ### Configuration requests (R460 to R462, R470, R471, R474, R486, R686) -/

/-- Device ID of a function (R460). -/
def fnDevice (fn : Fn) : Nat :=
  match fn with
  | .pf0 => 0x8400
  | .pf1 => 0x8401
  | .vf _ => 0x8402

/-- Class code of a function (R460). -/
def fnClass (fn : Fn) : Nat :=
  match fn with
  | .pf0 => 0x050210
  | .pf1 => 0x120000
  | .vf _ => 0x120000

/-- The number of a function, for free values. -/
def fnNum (fn : Fn) : Nat :=
  match fn with
  | .pf0 => 0
  | .pf1 => 1
  | .vf n => 2 + n

/-- Offsets whose written value the model keeps: Command, BARs, Interrupt Line, Device Control, Link Control, Device Control 2,
NumVFs and Device Control 3, at the places of log 39, with the bits kept. -/
def cfgKept (off : Nat) : Nat :=
  if off = 0x04 ∨ off = 0x48 ∨ off = 0x50 ∨ off = 0x68 ∨ off = 0x210 then 0xFFFF
  else if 0x10 ≤ off ∧ off < 0x28 then 0xFFFFFFFF
  else if off = 0x3C then 0xFF
  else if off = 0x308 then 0xFFFFFFFF
  else 0

/-- The extended capabilities of a function, each with its offset and its ID (R462, R463): the places and the order of the
chain are the model's (log 39). In X8X8 mode those of link 1 stand in PF1. -/
def extCaps (x8x8 : Bool) (fn : Fn) : List (Nat × Nat) :=
  let phy := [(0x370, 0x26), (0x3A0, 0x2A), (0x3D0, 0x31), (0x400, 0x27), (0x450, 0x25)]
  let pf := [(0x100, 0x01), (0x148, 0x03), (0x158, 0x0D), (0x160, 0x0E)]
  match fn with
  | .pf0 => pf ++ [(0x340, 0x19)] ++ phy ++ [(0x460, 0x2E), (0x480, 0x23), (0x4C0, 0x23), (0x4E0, 0x23)]
  | .pf1 => pf ++ [(0x200, 0x10)] ++ (if x8x8 then phy else [])
  | .vf _ => [(0x100, 0x0E)]

/-- The header of the extended capability at an offset, where there is one: its ID, a version that the spec does not give, and
where the next one is. -/
def extHeader : List (Nat × Nat) → Nat → Nat → Option Nat
  | [], _, _ => none
  | e :: l, off, version =>
    if e.1 = off then some (e.2 + version % 16 * 2 ^ 16 + ((l.head?.map (·.1)).getD 0) * 2 ^ 20)
    else extHeader l off version

/-- A register of configuration space that the spec gives a value of: the capability lists, and SR-IOV's counts and VF device
ID (R460 to R463). `free` holds the bits that it does not give. -/
def cfgFixed (s : State) (fn : Fn) (off free : Nat) : Option Nat :=
  if off = 0x34 then some 0x40
  else if off = 0x40 then some (0x10 + (if isVf fn then 0 else 0x80) * 2 ^ 8 + free / 2 ^ 24 * 2 ^ 24 + free / 2 ^ 16 % 16 * 2 ^ 16)
  else if off = 0x80 ∧ !isVf fn then some (0x01 + free / 2 ^ 16 * 2 ^ 16)
  else if off = 0x20C ∧ fn = .pf1 then some (63 + 63 * 2 ^ 16)
  else if off = 0x214 ∧ fn = .pf1 then some (1 + 2 ^ 16)
  else if off = 0x218 ∧ fn = .pf1 then some (free % 2 ^ 16 + 0x8402 * 2 ^ 16)
  else extHeader (extCaps s.host.x8x8 fn) off (free / 2 ^ 16)

/-- A configuration register as the host reads it; what the spec does not give is a free value (log 39). -/
def cfgRead (s : State) (fn : Fn) (off : Nat) : BitVec 32 :=
  let kept := tgetD s.host.cfgRegs (fn, off) 0
  let free := Config.freeWord 12 (fnNum fn * 4096 + off)
  if off = 0x00 then BitVec.ofNat 32 (0x1F3E + fnDevice fn * 2 ^ 16)
  else if off = 0x08 then BitVec.ofNat 32 (fnClass fn * 2 ^ 8 + free.toNat % 256)
  else if off = 0x3C then kept
  else if off = 0x48 then
    let busy := thas s.host.flr fn || s.host.tags.any (fun p => p.1.1 == fn && (match p.2 with
      | .outstanding _ _ _ => true
      | .quarantined _ => false))
    BitVec.ofNat 32 (kept.toNat % 2 ^ 15 + bitN busy * 2 ^ 21)
  else if off = 0x104 ∧ !isVf fn then
    BitVec.ofNat 32 (free.toNat % 2 ^ 14 + bitN (s.host.aerTimeout.contains fn) * 2 ^ 14 + free.toNat / 2 ^ 15 * 2 ^ 15)
  else if off = 0x110 ∧ !isVf fn then
    BitVec.ofNat 32 (free.toNat % 2 ^ 13 + bitN (s.host.aerAdvisory.contains fn) * 2 ^ 13 + free.toNat / 2 ^ 14 * 2 ^ 14)
  else if off = 0x04 then
    BitVec.ofNat 32 (kept.toNat % 2 ^ 16 + free.toNat / 2 ^ 16 % 8 * 2 ^ 16 + 2 ^ 20 + free.toNat / 2 ^ 21 * 2 ^ 21)
  else if off = 0x208 ∧ fn = .pf1 then BitVec.ofNat 32 (bitN s.host.vfEnable)
  else
    match cfgFixed s fn off free.toNat with
    | some v => BitVec.ofNat 32 v
    | none => if cfgKept off = 0 then BitVec.ofNat 32 free.toNat else kept

/-- The completion timeout that a Completion Timeout Value selects, in ns: within the range of its code (R474, log 39). -/
def timeoutOf (v : Nat) : Option Nat :=
  let range : Option (Nat × Nat) :=
    if v = 1 then some (50000, 100000)
    else if v = 2 then some (1000000, 10000000)
    else if v = 5 then some (16000000, 55000000)
    else if v = 6 then some (65000000, 210000000)
    else if v = 9 then some (260000000, 900000000)
    else if v = 10 then some (1000000000, 3500000000)
    else if v = 13 then some (4000000000, 13000000000)
    else if v = 14 then some (17000000000, 64000000000)
    else none
  range.map (fun r => r.1 + (Config.freeWord 13 v).toNat % (r.2 - r.1 + 1))

/-- A written configuration register acts: timeouts, FLR, VF Enable, the enables of a link's low-power modes, and the status bits of
AER, which a 1 clears. -/
def cfgAct (s : State) (fn : Fn) (off : Nat) (value : BitVec 32) : State :=
  if off = 0x104 ∧ value.getLsbD 14 then { s with host := { s.host with aerTimeout := s.host.aerTimeout.filter (· != fn) } }
  else if off = 0x110 ∧ value.getLsbD 13 then { s with host := { s.host with aerAdvisory := s.host.aerAdvisory.filter (· != fn) } }
  else
  if off = 0x48 ∧ value.getLsbD 15 then flrStart s fn
  else if off = 0x68 then
    { s with host := { s.host with timeoutNs := match timeoutOf (value.toNat % 16) with
        | some t => tset s.host.timeoutNs fn t
        | none => tdel s.host.timeoutNs fn } }
  else if off = 0x50 ∧ (fn = .pf0 ∨ (fn = .pf1 ∧ s.host.x8x8)) then
    hostLinkMod s (fnLink s fn) (fun l => { l with l1Enable := value.getLsbD 1 })
  else if off = 0x308 ∧ (fn = .pf0 ∨ (fn = .pf1 ∧ s.host.x8x8)) then
    hostLinkMod s (fnLink s fn) (fun l => { l with l0pEnable := value.getLsbD 3 })
  else if off = 0x208 ∧ fn = .pf1 then
    let n := (tgetD s.host.cfgRegs (.pf1, 0x210) 0).toNat
    { s with host := { s.host with vfEnable := value.getLsbD 0 && decide (n ≤ 63)
                                   numVfs := if value.getLsbD 0 ∧ n ≤ 63 then n else 0 } }
  else s

/-- A configuration register written by the host. -/
def cfgWrite (s : State) (fn : Fn) (off : Nat) (value : BitVec 32) : State :=
  let mask := if off = 0x48 then 0x7FFF else cfgKept off
  let s := if mask = 0 then s
    else { s with host := { s.host with cfgRegs := tset s.host.cfgRegs (fn, off) (value &&& BitVec.ofNat 32 mask) } }
  cfgAct s fn off value

/-- CONFIG_REQUEST (R460 to R463, R486, R686): Request Retry Status before step 8, for at most 1 s from the rise of PERST_N. -/
def execConfigRequest (fn : Fn) (write : Bool) (off : Nat) (value : BitVec 32) (s : State) : Out :=
  if !endpointUp s || !fnPresent s fn then .next s
  else
    let early := match s.boot.perstRoseAt with
      | some t => decide (s.now ≤ t + secT 1)
      | none => false
    if !fnServed s && early then .next (emit s (.retryStatus fn))
    else if write then .next (emit (cfgWrite s fn off value) (.completion fn (some [])))
    else .next (emit s (.completion fn (some (leBytes 4 (cfgRead s fn off).toNat))))

/-! ### Completions of the device's reads (R475, R476, R483, R486) -/

/-- The context whose read of CONSUMED a tag carries. -/
def consumedCtx (s : State) (fn : Fn) (addr : Nat) : Option Nat :=
  (s.eng.ctxs.find? (fun p => p.2.readOutstanding && p.2.job.poster == fnMid fn && p.2.job.slip.ring == addr)).map (·.1)

/-- A read's answer reaches what issued it. -/
def readAnswer (s : State) (fn : Fn) (addr : Nat) (answer : HostRead) : Out :=
  match consumedCtx s fn addr with
  | some n => execConsumedReadReturn n answer s
  | none => .next (readEnd s (fnMid fn) addr answer)

/-- HOST_READ_COMPLETION (R476, R486): the completion of a tag reaches its read. For a quarantined tag it is dropped and
counted; for a read issued before its function's reset it is dropped. -/
def execHostReadCompletion (fn : Fn) (tag : Nat) (answer : HostRead) (s : State) : Out :=
  match tget s.host.tags (fn, tag) with
  | none => .next s
  | some (.quarantined _) => .next { s with host := { s.host with lateCpl := sat32 (s.host.lateCpl + 1) } }
  | some (.outstanding _ addr pre) =>
    if pre then .next { s with host := { s.host with tags := tdel s.host.tags (fn, tag) } }
    else readAnswer s fn addr answer

/-- HOST_READ_TIMEOUT (R474 to R476). -/
def execHostReadTimeout (fn : Fn) (tag : Nat) (s : State) : Out :=
  match tget s.host.tags (fn, tag) with
  | some (.outstanding since addr false) =>
    if since + nsT (fnTimeout s fn) ≤ s.now then readAnswer s fn addr .timeout else .next s
  | _ => .next s

/-- TAG_QUARANTINE_END (R476). -/
def execTagQuarantineEnd (fn : Fn) (tag : Nat) (s : State) : Out :=
  match tget s.host.tags (fn, tag) with
  | some (.quarantined u) =>
    if u ≤ s.now then .next { s with host := { s.host with tags := tdel s.host.tags (fn, tag) } } else .next s
  | _ => .next s

/-! ### Link training, width and power (R457, R458, R470, R471) -/

/-- Lanes of a link in its mode (R457): X16 has no link 1. -/
def modeWidth (s : State) (l : Nat) : Nat := if s.host.x8x8 then 8 else if l = 0 then 16 else 0

/-- HOST_LINK_TRAINING (R458, R490): a link comes up at a rate and width that it supports. -/
def execHostLinkTraining (link rate10 width : Nat) (s : State) : Out :=
  if endpointUp s ∧ link < 2 ∧ [25, 50, 80, 160, 320, 640].contains rate10 ∧ [1, 2, 4, 8, 16].contains width
      ∧ width ≤ modeWidth s link then
    .next (hostLinkMod s link (fun l => { l with
      rate := rate10, width := width, lowWidth := 0, inL1 := false, lowSince := s.now, idleSince := s.now }))
  else .next s

/-- Width that a link runs at now. -/
def widthNow (l : HostLink) : Nat := if l.lowWidth = 0 then l.width else l.lowWidth

/-- Whether both directions of a link have carried under 30 % of its present width's capacity for 16 µs (R470): a lane carries
a tenth of its rate in GT/s, times 200 bytes, in that time. -/
def underLoad (s : State) (l : HostLink) : Bool :=
  let cap := l.rate * widthNow l * 200
  let sum (tx : Bool) : Nat := ((l.recent.filter (fun x => x.2.1 == tx && decide (s.now < x.1 + usT 16))).map (·.2.2)).foldl (· + ·) 0
  decide (l.lowSince + usT 16 ≤ s.now) && decide (10 * sum true < 3 * cap) && decide (10 * sum false < 3 * cap)

/-- L0P_REQUEST (R470): the device asks for half the width, never below ×4, or on demand for the full width. -/
def execL0pRequest (link : Nat) (demand : Bool) (s : State) : Out :=
  let l := hostLinkOf s link
  if !endpointUp s || !l.l0pEnable || 2 ≤ link then .next s
  else if demand then
    if l.lowWidth = 0 then .next s
    else .next (emit (hostLinkMod s link (fun l => { l with lowWidth := 0, lowSince := s.now })) (.linkPower link l.width))
  else if underLoad s l ∧ 8 ≤ widthNow l then
    let w := widthNow l / 2
    .next (emit (hostLinkMod s link (fun l => { l with lowWidth := w, lowSince := s.now })) (.linkPower link w))
  else .next s

/-- Whether a function's requests are outstanding on a link. -/
def linkOutstanding (s : State) (link : Nat) : Bool :=
  s.host.tags.any (fun p => fnLink s p.1.1 == link && (match p.2 with
    | .outstanding _ _ _ => true
    | .quarantined _ => false))

/-- ASPM_L1_ENTRY (R471). -/
def execAspmL1Entry (link : Nat) (s : State) : Out :=
  let l := hostLinkOf s link
  if endpointUp s ∧ link < 2 ∧ l.l1Enable ∧ !l.inL1 ∧ l.width ≠ 0 ∧ l.idleSince + usT 200 ≤ s.now ∧ !linkOutstanding s link
      ∧ s.eng.ctxs.isEmpty then
    .next (emit (hostLinkMod s link (fun l => { l with inL1 := true })) (.linkPower link 0))
  else .next s

end Sys2Proof.Machine
end

