-- ==== Sys2Proof/Machine/Mailbox.lean ====
section
/-! DEFINITION. The CXL primary mailbox of PF0 and the host's Dynamic Capacity answers (R465 to R467). The layouts of its
payloads are CXL 3.1's (log 40). -/

namespace Sys2Proof.Machine

/-! ### Answers -/

/-- Return codes of CXL 3.1: Success, Unsupported, Invalid Handle. -/
def cxlSuccess : Nat := 0
/-- Unsupported. -/
def cxlUnsupported : Nat := 3
/-- Invalid Handle. -/
def cxlInvalidHandle : Nat := 0xE

/-- n bytes that the spec does not give, as a field of their own number (log 40). -/
def mailFree (field n : Nat) : Bytes := (List.range n).map (fun i => (Config.freeWord 14 (64 * field + i)).setWidth 8)

/-- The mailbox answers, where the endpoint runs and PF0 is in service (R467). -/
def mailAnswer (s : State) (code : Nat) (b : Bytes) : State := emit s (.mailbox code b)

/-- Whether the mailbox is served: not before step 8, nor on the recovery path (R686, R691). -/
def mailUp (s : State) : Bool := endpointUp s && s.boot.stage == .served && !thas s.host.flr .pf0

/-! ### Dynamic Capacity (R314, R466) -/

/-- The granule of an addition that the host rejects returns to the runtime face (R466). -/
def granuleRejected (s : State) (g : Nat) : State :=
  match tget s.plain.granules g with
  | some p =>
    match p.state with
    | .adding src _ => completeSrc (granuleGone s g p) src rcConflict []
    | .inService => s
    | .removing _ _ => s
    | .leaving _ _ => s
  | none => s

/-- The granule of an addition that the host accepts within 10 s enters service (R466). -/
def granuleAccepted (s : State) (g : Nat) : State :=
  match tget s.plain.granules g with
  | some p =>
    match p.state with
    | .adding src since =>
      if since + secT 10 < s.now then granuleRejected s g else
      let s := { s with plain := { s.plain with granules := tset s.plain.granules g { p with state := .inService, tick := some s.now } }
                        host := { s.host with dcExtents := s.host.dcExtents ++ [g] } }
      completeSrc s src rcDone []
    | .inService => s
    | .removing _ _ => s
    | .leaving _ _ => s
  | none => s

/-- The switch tick of a removal: the granule matches no later request, and PLAIN_GRANULE goes on (R28, R314). -/
def granuleRemoved (s : State) (g : Nat) : State :=
  match tget s.plain.granules g with
  | some p =>
    match p.state with
    | .removing src _ =>
      let s := { s with plain := { s.plain with granules := tset s.plain.granules g { p with state := .leaving src s.now } } }
      { s with cp := { s.cp with running := s.cp.running.map (fun c => if c.src = src then { c with waiting := false } else c) } }
    | .inService => s
    | .adding _ _ => s
    | .leaving _ _ => s
  | none => s

/-- ADD_DYNAMIC_CAPACITY_RESPONSE (R466, R467). -/
def execAddDynamicCapacityResponse (granule : Nat) (accepted : Bool) (s : State) : Out :=
  if !mailUp s then .next s
  else
    .next (mailAnswer (if accepted then granuleAccepted s granule else granuleRejected s granule) cxlSuccess [])

/-- RELEASE_DYNAMIC_CAPACITY (R466, R467). -/
def execReleaseDynamicCapacity (granule : Nat) (s : State) : Out :=
  if !mailUp s then .next s else .next (mailAnswer (granuleRemoved s granule) cxlSuccess [])

/-- DYNAMIC_CAPACITY_TIMEOUT (R466): 10 s without the host's answer. -/
def execDynamicCapacityTimeout (granule : Nat) (s : State) : Out :=
  match tget s.plain.granules granule with
  | none => .next s
  | some p =>
    match p.state with
    | .adding _ since => if since + secT 10 ≤ s.now then .next (granuleRejected s granule) else .next s
    | .removing _ since => if since + secT 10 ≤ s.now then .next (granuleRemoved s granule) else .next s
    | .inService => .next s
    | .leaving _ _ => .next s

/-! ### Commands that read (R465, R467) -/

/-- IDENTIFY_MEMORY_DEVICE: static capacity is 0 (R465); what else it holds the spec does not give. -/
def execIdentifyMemoryDevice (s : State) : Out :=
  if !mailUp s then .next s
  else
    .next (mailAnswer s cxlSuccess (mailFree 1 16 ++ leBytes 8 0 ++ leBytes 8 0 ++ leBytes 8 0 ++ leBytes 8 0 ++ mailFree 2 21))

/-- UUID of a Dynamic Capacity event record, in its bytes. -/
def dcUuid : Bytes := [0xCA, 0x95, 0xAF, 0xA7, 0xF1, 0x83, 0x40, 0x18, 0x8C, 0x2F, 0x95, 0x26, 0x8E, 0x10, 0x1A, 0x2A]

/-- An extent of one granule in the device's list: its plain offset and length. -/
def dcExtent (g : Nat) : Bytes := leBytes 8 (g * gib) ++ leBytes 8 gib ++ zeros 24

/-- An event record: Add Capacity, or Release Capacity with the forced-removal flag clear (R466). -/
def eventBytes (e : Nat × Nat) : Bytes :=
  let g := e.2 / 2
  let add := e.2 % 2 = 1
  dcUuid ++ leBytes 1 128 ++ zeros 3 ++ leBytes 2 e.1 ++ zeros 2 ++ leBytes 8 (Config.freeWord 15 e.1).toNat ++ zeros 16
    ++ leBytes 1 (if add then 0 else 1) ++ zeros 7 ++ dcExtent g ++ zeros 24 ++ mailFree 3 8

/-- GET_EVENT_RECORDS: the records not yet cleared, oldest first. -/
def execGetEventRecords (s : State) : Out :=
  if !mailUp s then .next s
  else
    .next (mailAnswer s cxlSuccess (zeros 20 ++ leBytes 2 s.host.events.length ++ zeros 10 ++ (s.host.events.map eventBytes).flatten))

/-- CLEAR_EVENT_RECORDS: the records of the handles named; one that is not held refuses the command. -/
def execClearEventRecords (handles : List Nat) (s : State) : Out :=
  if !mailUp s then .next s
  else if handles.all (fun h => s.host.events.any (fun e => e.1 == h)) then
    .next (mailAnswer { s with host := { s.host with events := s.host.events.filter (fun e => !handles.contains e.1) } } cxlSuccess [])
  else .next (mailAnswer s cxlInvalidHandle [])

/-- The poisoned lines of a granule, as plain offsets: of its home, lines of poisoned sectors with them, and of its blocks in the cache,
which stand for their home. -/
def poisonIn (s : State) (g : Nat) (p : PlainGran) : List Nat :=
  let home := (s.mem.lineErr.filter (fun e => decide (p.home ≤ e.1) && decide (e.1 < p.home + gib)
    && rsDecode e.2 == .poisoned)).map (fun e => g * gib + (e.1 - p.home))
  let sectors := (s.mem.badSectors.filter (fun x => decide (p.home ≤ x) && decide (x < p.home + gib))).flatMap (fun x =>
    (List.range 8).map (fun i => g * gib + (x - p.home) + 64 * i))
  let held := ((s.plain.cache.get p.half).ways.map (fun w =>
    if wayInGran g w.2 then (List.range 64).filterMap (fun i => if w.2.poison.getLsbD i then some (w.2.block * 4096 + 64 * i) else none)
    else [])).flatten
  let cached (o : Nat) : Bool := (s.plain.cache.get p.half).ways.any (fun w => wayInGran g w.2 && w.2.block * 4096 ≤ o && o < w.2.block * 4096 + 4096)
  ((home ++ sectors.filter (fun o => !home.contains o)).filter (fun o => !held.contains o && !cached o)) ++ held

/-- GET_POISON_LIST: the poisoned lines of granules in service from an offset on, over a length in bytes. -/
def execGetPoisonList (start len : Nat) (s : State) : Out :=
  if !mailUp s then .next s
  else
    let all := (s.plain.granules.map (fun g => poisonIn s g.1 g.2)).flatten
    let l := (all.filter (fun o => decide (start ≤ o) && decide (o < start + len))).mergeSort (· ≤ ·)
    .next (mailAnswer s cxlSuccess (zeros 10 ++ leBytes 2 l.length ++ zeros 20
      ++ (l.map (fun o => leBytes 8 o ++ leBytes 4 1 ++ zeros 4)).flatten))

/-- GET_HEALTH_INFO: the spec gives none of its values. -/
def execGetHealthInfo (s : State) : Out :=
  if !mailUp s then .next s else .next (mailAnswer s cxlSuccess (mailFree 4 18))

/-- GET_DYNAMIC_CAPACITY_CONFIGURATION: one region, base 0, length 1,920 GiB, blocks of 1 GiB (R465). -/
def execGetDynamicCapacityConfiguration (s : State) : Out :=
  if !mailUp s then .next s
  else
    .next (mailAnswer s cxlSuccess (leBytes 1 1 ++ leBytes 1 1 ++ zeros 6 ++ leBytes 8 0 ++ leBytes 8 (1920 * 4)
      ++ leBytes 8 (1920 * gib) ++ leBytes 8 gib ++ mailFree 5 8 ++ mailFree 6 16))

/-- GET_DYNAMIC_CAPACITY_EXTENT_LIST: extents from an index on, at most a count of them. -/
def execGetDynamicCapacityExtentList (start count : Nat) (s : State) : Out :=
  if !mailUp s then .next s
  else
    let l := (s.host.dcExtents.drop start).take count
    .next (mailAnswer s cxlSuccess (leBytes 4 l.length ++ leBytes 4 s.host.dcExtents.length ++ mailFree (64 + s.host.nextEvent) 4
      ++ zeros 4 ++ (l.map dcExtent).flatten))

/-- MAILBOX_UNSUPPORTED (R467): the opcodes of CXL 3.1 that the mailbox serves are those above. -/
def execMailboxUnsupported (opcode : Nat) (s : State) : Out :=
  if !mailUp s || [0x4000, 0x0100, 0x0101, 0x4300, 0x4200, 0x4800, 0x4801, 0x4802, 0x4803].contains opcode then .next s
  else .next (mailAnswer s cxlUnsupported [])

end Sys2Proof.Machine
end

