-- ==== Sys2Proof/Machine/Reset.lean ====
section
/-! DEFINITION. The kinds of reset, and the power inputs: cold reset, PERST_N reset and control-processor restart, with what each
keeps and ends (R27, R144, R336, R358, R359, R532, R533, R592, R596 to R599, R663, R676, R678 to R682, R719 to R732). -/

namespace Sys2Proof.Machine

/-! ### What a reset ends -/

/-- Firmware status after a reset: a commit that was under way has failed (R590). -/
def fwReset (f : Flash) : Firmware := { commit := if f.commitFailed then 3 else 0 }

/-- An interrupted commit leaves its mark in flash (R590). -/
def flashInterrupt (s : State) : Flash := { s.flash with commitFailed := s.flash.commitFailed || s.fw.commit == 1 }

/-- The errata log's bookkeeping over an empty log: SEQ continues from the flash ring (R655). -/
def rasCold (f : Flash) : Ras := { nextSeq := ringNext f, sparesUsed := [] }

/-- A module after a loss of its main rails or a cold reset, in AUX_ONLY (R678, R680, R692): what stays is device time, module
flash, the straps and the last readings of the always-on domain. -/
def coldState (s : State) : State :=
  let f := flashInterrupt s
  { State.reset with
    pending := s.pending, free := s.free, out := s.out, now := s.now, flash := f, fw := fwReset f, ras := rasCold f,
    ident := { s.ident with ifaceMajor := 0, ifaceMinor := 0, board := 0 },
    pins := { s.pins with pwrOk := false, faultN := true, alertN := true, syncOutLowUntil := none },
    power := { tjC0 := s.power.tjC0, tjT0 := s.power.tjT0, tjC1 := s.power.tjC1, tjT1 := s.power.tjT1, lossCause := s.power.lossCause },
    boot := { recordRead := s.boot.recordRead, departed := s.boot.departed, inRangeSince := s.boot.inRangeSince } }

/-- The root key is checked, and K_CP, K_FREE and tenant 0's secret are drawn (R545, R596 to R599). -/
def rootKeys (s : State) (pufOk : Bool) : State :=
  drew 96 { s with sec := { s.sec with
    krOk := pufOk, kCp := some (trngBytes s.free 32), kFree := some (trngBytes (s.free + 32) 32)
    tenantKeys := [(0, trngBytes (s.free + 64) 32)] } }

/-- Step 3 of R685: with the 48 V input in range and steps 1 and 2 done, the main rails come up and PWR_OK is released. -/
def railsUp (s : State) : State :=
  if s.pins.aux ∧ s.boot.recordRead ∧ s.pins.main = .inRange ∧ s.pins.thermtripN ∧ !s.boot.departed ∧ s.boot.stage = .auxOnly then
    powerMod { s with boot := { s.boot with stage := .railsGood }, pins := { s.pins with pwrOk := true } }
      (fun p => { p with state := .sleep })
  else s

/-- Whether the main rails are on. -/
def railsOn (s : State) : Bool := s.boot.stage != .off && s.boot.stage != .auxOnly

/-- The main rails go off for a cause (R676, R692, R731). -/
def mainsOff (s : State) (cause : Nat) : State :=
  if railsOn s then powerMod (coldState s) (fun p => { p with lossCause := cause }) else s

/-! ### Power inputs (R663, R676, R685, R692, R718 to R732) -/

/-- AUX_POWER_ON (R596, R597, R663, R678, R685 steps 1 and 2, R721): 3.3 V AUX is applied. From the state right after it has been,
which State.reset is, the two steps run (log 2). -/
def execAuxPowerOn (slot : BitVec 3) (pufOk : Bool) (s : State) : Out :=
  if !s.pins.aux ∨ (s.boot.stage = .auxOnly ∧ !s.boot.recordRead) then
    let s := if s.pins.aux then s
      else { coldState { s with boot := {} } with
        now := 0, pins := { s.pins with aux := true, pwrOk := false, faultN := true, alertN := true, thermtripN := true, syncOutLowUntil := none },
        power := {} }
    let s := { s with ident := { s.ident with slot := slot }, boot := { s.boot with recordRead := true } }
    .next (railsUp (rootKeys s pufOk))
  else .next s

/-- AUX_POWER_OFF (R730): every state except what module flash holds is lost, and the rails are off. -/
def execAuxPowerOff (s : State) : Out :=
  if s.pins.aux then
    .next { coldState { s with boot := {} } with
      pins := { s.pins with aux := false, pwrOk := false, faultN := true, alertN := true, thermtripN := true, syncOutLowUntil := none },
      power := {}, boot := { stage := .off } }
  else .next s

/-- MAIN_INPUT_IN_RANGE (R685 step 3, R729, R731): the 48 V input comes within 40 to 60 V. After a departure the device waits until it
has been there for 10 ms. -/
def execMainInputInRange (s : State) : Out :=
  if s.pins.main = .inRange then .next s
  else .next (railsUp { s with pins := { s.pins with main := .inRange }, boot := { s.boot with inRangeSince := s.now } })

/-- MAIN_INPUT_DEPARTURE (R692, R719, R731): the 48 V input leaves its range for longer than 1 ms. -/
def execMainInputDeparture (s : State) : Out :=
  if s.pins.main = .outOfRange then .next s
  else
    let was := railsOn s
    let s := mainsOff { s with pins := { s.pins with main := .outOfRange } } 1
    .next { s with boot := { s.boot with departed := s.boot.departed || was } }

/-- MAIN_INPUT_RETURN (R596, R678, R731): the input has been back within range for 10 ms, and a cold reset follows. -/
def execMainInputReturn (pufOk : Bool) (s : State) : Out :=
  if s.pins.aux ∧ s.pins.thermtripN ∧ s.boot.departed ∧ s.pins.main = .inRange ∧ s.boot.inRangeSince + msT 10 ≤ s.now then
    let s := coldState { s with boot := { s.boot with departed := false } }
    .next (railsUp (rootKeys s pufOk))
  else .next s

/-- THERMTRIP (R676, R692): THERMTRIP_N low, the main rails off, AUX_ONLY. -/
def execThermtrip (s : State) : Out :=
  if s.pins.aux ∧ s.pins.thermtripN ∧ tripDue s then
    let s := mainsOff s 2
    .next { s with pins := { s.pins with thermtripN := false } }
  else .next s

/-- BOOT_ROM_START (R608, R685 step 4): measurement 0 is taken, and the ROM waits for PERST_N to be high. -/
def execBootRomStart (s : State) : Out :=
  if s.boot.stage = .railsGood then
    let s := { s with
      boot := { s.boot with stage := .romWaiting }
      sec := { s.sec with meas := tset s.sec.meas 0 { digest := vbytes (Config.sm3 Config.romImage) } } }
    .next (if s.pins.perstN then startUp s else s)
  else .next s

/-- PERST_RISE (R685, R719, R721, R723): SLOT_ID is sampled, and start-up runs from step 5 where step 4 is complete. After a
thermal trip, or without 3.3 V AUX, only the level changes. -/
def execPerstRise (slot : BitVec 3) (s : State) : Out :=
  if s.pins.perstN then .next s
  else if !s.pins.aux ∨ !s.pins.thermtripN then .next { s with pins := { s.pins with perstN := true } }
  else
    let s := { s with pins := { s.pins with perstN := true }
                      ident := { s.ident with slot := slot }
                      boot := { s.boot with perstRoseAt := some s.now } }
    .next (if s.boot.stage = .romWaiting then startUp s else s)

/-! ### PERST_N reset (R680, R681) -/

/-- The encoding of a window ends, and the window fills again with its staging and coverage (R144, R680). -/
def fillAgain (s : State) (r : AccReq) (w : Nat) : State :=
  let s := (masterSpans r.params r.pbase r.cbase r.tbase).foldl (fun s x => zeroAny s 4 r.master x.1 x.2) s
  winMod s w (fun w => { w with state := .filling, current := none })

/-- An accession that waits or runs fails with RESET_LOST (R144, R680). -/
def accReset (s : State) (r : AccReq) (rep : AccReport) : State :=
  match r.window with
  | some w => fillAgain s r w
  | none => accFail s r rep rcResetLost

/-- Every accession ends (R680). -/
def accessionsReset (s : State) : State :=
  let s := match s.acc.running with
    | none => s
    | some (r, rep) => accReset s r rep
  let s := s.acc.queue.foldl (fun s r => accReset s r { master := r.master, tag := r.params.tag, nt := nTiles r.params }) s
  { s with acc := { s.acc with running := none, held := [], queue := [] } }

/-- A WORKING_COPY FULL that has not completed is undone (R533). -/
def copiesUndone (s : State) : State :=
  { s with tensors := tmap s.tensors (fun _ t =>
      if t.wc.any (fun w => w.src.isSome) then { t with wc := none } else t) }

/-- A granule that a stopped PLAIN_GRANULE was adding does not join; one that it was removing stays (R533). -/
def granuleUndone (s : State) (g : Nat) : State :=
  match tget s.plain.granules g with
  | none => s
  | some p =>
    match p.state with
    | .adding _ _ => granuleGone s g p
    | .removing _ _ => { s with plain := { s.plain with granules := tset s.plain.granules g { p with state := .inService } } }
    | .leaving _ _ => granuleGone (dropGranules s g 1) g p
    | .inService => s

/-- Every granule command under way is undone. -/
def granulesUndone (s : State) : State := (s.plain.granules.map (·.1)).foldl granuleUndone s

/-- The pool ends: every lent extent is lost and its key erased, held extents lapse and grants end (R358, R359, R599). -/
def poolReset (s : State) : State :=
  let s := (s.pool.extents.map (·.1)).foldl enterErasing s
  { s with pool := { extents := tmap s.pool.extents (fun _ e =>
      { base := e.base, state := .erasing, key := e.key, withdraw := e.withdraw, since := e.since }) } }

/-- The links end: ports, keys and sessions; master IDs of lost sessions are on the way to being free (R433, R680). -/
def linkReset (s : State) : State :=
  { s with link := {
      bindings := s.link.bindings, urg := s.link.urg, mids := s.link.mids
      midFreeing := s.link.mids.map (fun p => (p.1, tgetD s.link.midFreeing p.1 (s.now + secT 65))) } }

/-- A way of the cache keeps what it holds; its fill or write-back is not under way any more. -/
def wayReset (w : Way) : Way := { w with state := if w.state = .invalid then .invalid else .valid }

/-- The caches keep their contents (R680). -/
def cacheReset (c : Cache) : Cache := { c with ways := tmap c.ways (fun _ w => wayReset w) }

/-- The carrels, the commands in them, the lock registers and the binding table end. -/
def carrelsGone (s : State) : State := { s with cp := {} }

/-- Investigations end ABANDONED (R100, R680). -/
def investsClosed (s : State) : State := (s.tensors.map (·.1)).foldl (fun s id => closeInvest s id 5) s

/-- The registers and units that a PERST_N reset puts back (R680, R681). -/
def perstState (s : State) : State :=
  let f := flashInterrupt s
  { s with
    flash := f, fw := fwReset f, volumes := [], queues := [], eng := enginesFresh f, diag := {}, bw := {}
    plain := { s.plain with cache := ⟨cacheReset s.plain.cache.h0, cacheReset s.plain.cache.h1⟩, waits := [], edge := ⟨{}, {}⟩ }
    halves := ⟨{ s.halves.h0 with inService := false }, { s.halves.h1 with inService := false }⟩
    host := { dcExtents := s.host.dcExtents, nextEvent := s.host.nextEvent }
    ras := { s.ras with moduleFault := false, pointer := 0, cycle := none, select := 0 }
    sec := { s.sec with aliasM1 := none }
    ident := { s.ident with ifaceMajor := 0, ifaceMinor := 0 }
    pins := { s.pins with perstN := false, faultN := true, alertN := true, syncOutLowUntil := none }
    power := { s.power with
      state := .sleep, wake := none, throttle := ⟨1024, 1024⟩, causeThermal := ⟨false, false⟩, causePower := ⟨false, false⟩
      hotSince := ⟨none, none⟩ }
    boot := { s.boot with stage := .romWaiting, perstRoseAt := none } }

/-- The whole module but the always-on domain, DRAM and the key slots that R599 keeps is reset (R680, R681). -/
def perstReset (s : State) : State :=
  let s := investsClosed (accessionsReset (carrelsGone (retireAll s)))
  perstState (linkReset (poolReset (granulesUndone (copiesUndone s))))

/-- PERST_FALL (R144, R336, R359, R680, R681, R719, R723): before step 4 the start goes on, and the ROM then waits. -/
def execPerstFall (s : State) : Out :=
  if !s.pins.perstN then .next s
  else if s.pins.aux ∧ s.pins.thermtripN ∧ (s.boot.stage = .served ∨ s.boot.stage = .recovery) then .next (perstReset s)
  else .next { s with pins := { s.pins with perstN := false } }

/-! ### Control-processor restart (R27, R336, R359, R532, R533, R682) -/

/-- The restart begins: binderies are retired first, and engines and hardware queues run on (R27, R336, R532). -/
def cpRestartStart (s : State) : State := restartBegin (retireAll s)

/-- CP_RESTART (R592): a restart in which its own message is RUNNING. -/
def execCpRestart (src : DeskSrc) (s : State) : Out := .next (deskRun 0x0B05 (fun s _ => cpRestartStart s) s src)

/-- CP_WATCHDOG_EXPIRY (R678): the control processor has not serviced its watchdog for 100 ms. -/
def execCpWatchdogExpiry (s : State) : Out :=
  if s.cp.ready ∧ s.boot.stage = .served then .next (cpRestartStart s) else .next s

/-- The due dates of leased extents move by the length of the restart (R359). -/
def leasesExtended (s : State) (len : Nat) : State :=
  { s with pool := { s.pool with extents := tmap s.pool.extents (fun _ e => if leasedNow e then { e with due := e.due + len } else e) } }

/-- A grant that a stopped EXTENT_GRANT had under way is undone; near-memory operations of stopped commands stop (R533). -/
def poolUndone (s : State) : State :=
  { s with pool := { s.pool with
      extents := tmap s.pool.extents (fun _ e =>
        if e.state = .granting ∧ e.src.isSome then { base := e.base, key := e.key, withdraw := e.withdraw } else e)
      engine := ⟨(none, []), (none, [])⟩ } }

/-- CP_RESTART_END (R359, R532, R533, R539): stopped commands have changed no table, and desk commands are served again. -/
def execCpRestartEnd (s : State) : Out :=
  match s.cp.restarting with
  | none => .next s
  | some t => .next (restartEnd (poolUndone (granulesUndone (copiesUndone (leasesExtended s (s.now - t))))))

end Sys2Proof.Machine
end

