-- ==== Sys2Proof/Machine/Firmware.lean ====
section
/-! DEFINITION. Configuration and firmware commands, DIAG_MODE, the debug port and the status area of AUX_ONLY (R587 to R592,
R600, R601, R617, R618, R623 to R626, R688, R692). -/

namespace Sys2Proof.Machine

/-! ### CONFIG_WRITE, CONFIG_STATUS (R587 to R589) -/

/-- CONFIG_WRITE (R588, R589): the block takes effect at the next start. -/
def configWriteBody (buf : HostRead) (s : State) (c : RunCmd) : State :=
  let n := arg c 1
  if msgInLen c.msg < n then failWith s c rcBadField
  else
    withBuf s c buf (fun s b =>
      let b := fit n b
      if leAt b 0 1 ≠ arg c 0 then failWith s c rcBadField
      else if !blockCheck b then failWith s c rcHashMismatch
      else complete { s with flash := { s.flash with blocks := tset s.flash.blocks (arg c 0) b } } c rcDone [])

/-- CONFIG_WRITE. -/
def execConfigWrite (src : DeskSrc) (buf : HostRead) (s : State) : Out := .next (deskRun 0x0A04 (configWriteBody buf) s src)

/-- CONFIG_STATUS (R587). -/
def configStatusBody (s : State) (c : RunCmd) : State :=
  complete s c rcDone [.u 1 (bitN s.boot.defaultsUsed), .u 1 s.boot.blocksOk.toNat]

/-- CONFIG_STATUS. -/
def execConfigStatus (src : DeskSrc) (s : State) : Out := .next (deskRun 0x0A05 configStatusBody s src)

/-! ### Firmware (R589, R590, R617, R618) -/

/-- n bytes that the spec does not give, by the number of what they are. -/
def openBytes (what n : Nat) : Bytes := (List.range n).map (fun i => (Config.freeWord what i).setWidth 8)

/-- FW_INFO (R589). On the recovery path no image runs; what VERSION and DIGEST read there is open (log 42). -/
def fwInfoBody (s : State) (c : RunCmd) : State :=
  let open_ := s.boot.stage == .recovery
  let version := if open_ then leVal (openBytes 16 4) else s.fw.version
  let digest := if open_ then openBytes 17 32 else s.fw.digest
  complete s c rcDone [.u 4 version, .u 4 s.fw.stagedLen, .u 1 s.fw.commit, .b digest]

/-- FW_INFO. -/
def execFwInfo (src : DeskSrc) (s : State) : Out := .next (deskRun 0x0B01 fwInfoBody s src)

/-- FW_STAGE (R590). -/
def fwStageBody (buf : HostRead) (s : State) (c : RunCmd) : State :=
  let off := arg c 0
  let n := arg c 1
  if 2 ^ 24 < off + n then failWith s c rcNoSpace
  else if msgInLen c.msg < n then failWith s c rcBadField
  else
    withBuf s c buf (fun s b =>
      let staged := place (s.fw.staged ++ zeros (off + n - s.fw.staged.length)) off (fit n b)
      complete { s with fw := { s.fw with staged := staged, stagedLen := max s.fw.stagedLen (off + n) } } c rcDone [])

/-- FW_STAGE. -/
def execFwStage (src : DeskSrc) (buf : HostRead) (s : State) : Out := .next (deskRun 0x0B02 (fwStageBody buf) s src)

/-- FW_COMMIT (R590, R618): the staged image is verified, and its writing begins. -/
def fwCommitBody (s : State) (c : RunCmd) : State :=
  let b := fit (min (arg c 0) (2 ^ 24)) s.fw.staged
  if !imageOk s b (arg c 0) then failWith s c rcSignatureFail
  else if s.fw.commit = 1 then failWith s c rcConflict
  else complete { s with fw := { s.fw with commit := 1, writing := b } } c rcAccepted []

/-- FW_COMMIT. -/
def execFwCommit (src : DeskSrc) (s : State) : Out := .next (deskRun 0x0B03 fwCommitBody s src)

/-- FW_COMMIT_WRITE_END (R590, R691): the image slot is written, or the write has failed. On the recovery path the boot ROM starts
again at step 5. -/
def execFwCommitWriteEnd (ok : Bool) (s : State) : Out :=
  if s.fw.commit ≠ 1 then .next s
  else if ok then
    let s := { s with fw := { s.fw with commit := 2, writing := [] }
                      flash := { s.flash with image := s.fw.writing, commitFailed := false } }
    .next (if s.boot.stage = .recovery then startUp s else s)
  else .next { s with fw := { s.fw with commit := 3, writing := [] }, flash := { s.flash with commitFailed := true } }

/-! ### DIAG_MODE (R591) -/

/-- DIAG_MODE (R591). -/
def diagModeBody (s : State) (c : RunCmd) : State :=
  if arg c 0 = 0 then complete { s with diag := { s.diag with mode := false } } c rcDone []
  else if s.tenants.any (fun t => t.1 != 0) ∨ slipWaits s ∨ !s.eng.ctxs.isEmpty then failWith s c rcConflict
  else complete { s with diag := { s.diag with mode := true } } c rcDone []

/-- DIAG_MODE. -/
def execDiagMode (src : DeskSrc) (s : State) : Out := .next (deskRun 0x0B04 diagModeBody s src)

/-! ### The debug port (R601, R623 to R626) -/

/-- A challenge: the device identity, 32 bytes from the TRNG, and ID_DEVICE (R624). -/
def debugChallenge (s : State) : Bytes := deviceIdentity s ++ trngBytes s.free 32 ++ leBytes 8 (idDevice s)

/-- DEBUG_CHALLENGE (R623, R624): after three failed responses none is issued before the next cold reset. -/
def execDebugChallenge (s : State) : Out :=
  if railsOn s ∧ !s.sec.debugUnlocked ∧ s.sec.debugFails < 3 then
    let c := debugChallenge s
    .next (emit (drew 32 { s with sec := { s.sec with debugChallenge := some c } }) (.debugPort c))
  else .next s

/-- Every session ends, and every port goes down with its key erased (R625). -/
def linksClosed (s : State) : State :=
  let s := sessionsLost s (fun _ _ => true)
  (List.range 8).foldl (fun s p => if (portOf s p).kind = .off then s else
    portMod (portDown s p .down (some (s.now + secT 1))) p (fun q => { q with key := none })) s

/-- What the erasure of every key leaves (R601, R625): no table that K_CP held and no object of any tenant; tenant 0 with a new
secret (log 43). -/
def keysErased (s : State) : State :=
  let s := linksClosed s
  drew 32 { s with
    tenants := s.tenants.filter (fun t => t.1 == 0)
    masters := s.masters.filter (fun m => m.1 == 1)
    regions := [], tensors := [], kvs := [], volumes := [], queues := [], acc := {}, mem := {}, zeroing := []
    eng := enginesFresh s.flash
    plain := { cache := ⟨{ share := s.plain.cache.h0.share }, { share := s.plain.cache.h1.share }⟩, period := s.plain.period
               lastSweep := s.plain.lastSweep }
    pool := {}
    host := { s.host with dcExtents := [] }
    link := { s.link with pairKeys := [], pairStage := [], pairSseq := [], bindings := [], windows := [] }
    sec := { s.sec with tenantKeys := [(0, trngBytes s.free 32)], kCp := none, kFree := none } }

/-- DEBUG_RESPONSE (R624, R625): a challenge is good for one response; the port unlocks when the signature over SM3 of the
challenge verifies, after the keys have been erased. -/
def execDebugResponse (sig : Bytes) (s : State) : Out :=
  match s.sec.debugChallenge with
  | none => .next s
  | some c =>
    let s := { s with sec := { s.sec with debugChallenge := none } }
    if Config.sm2Verify (ascii "1234567812345678") (Config.romKey 1) (vbytes (Config.sm3 c)) sig then
      let s := keysErased s
      .next { s with sec := { s.sec with debugUnlocked := true } }
    else .next { s with sec := { s.sec with debugFails := s.sec.debugFails + 1 } }

/-- DEBUG_IDENTITY_READ (R623). -/
def execDebugIdentityRead (s : State) : Out :=
  if railsOn s then .next (emit s (.debugPort (deviceIdentity s ++ leBytes 8 (idDevice s)))) else .next s

/-! ### The status area of AUX_ONLY (R692) -/

/-- The 32 bytes at 0xF000 (R692). -/
def auxArea (s : State) : Bytes :=
  let p := s.power
  leBytes 8 (idDevice s) ++ leBytes 8 (pwrState s) ++ leBytes 1 p.tjC0 ++ leBytes 1 p.tjT0 ++ leBytes 1 p.tjC1 ++ leBytes 1 p.tjT1
    ++ zeros 4 ++ leBytes 1 p.lossCause ++ zeros 7

/-- AUX_STATUS_READ (R692): in AUX_ONLY a target answers at 0xF000 to 0xF01F and at no other address. -/
def execAuxStatusRead (target : I3cTarget) (addr len : Nat) (s : State) : Out :=
  if s.pins.aux ∧ s.power.state = .auxOnly ∧ 0xF000 ≤ addr ∧ addr + len ≤ 0xF020 then
    .next (emit s (.i3c target (slice (auxArea s) (addr - 0xF000) len)))
  else .next s

end Sys2Proof.Machine
end

