-- ==== Sys2Proof/Machine/Dispatch.lean ====
section
/-! DEFINITION. The dispatch of the commands to their meanings, one arm for each row of the table. -/

namespace Sys2Proof.Machine

/-- The effect of a command on everything but the queue. -/
def exec (i : Instr) (s : State) : Host.Outcome State Fault Refusal :=
  match i with
  | .carrelDoorbell carrel full value => Sys2Proof.Machine.execCarrelDoorbell carrel full value s
  | .carrelMessageWrite carrel off bytes => Sys2Proof.Machine.execCarrelMessageWrite carrel off bytes s
  | .messageTake => Sys2Proof.Machine.execMessageTake s
  | .deviceInfo src => Sys2Proof.Machine.execDeviceInfo src s
  | .attestReport src => Sys2Proof.Machine.execAttestReport src s
  | .certChain src => Sys2Proof.Machine.execCertChain src s
  | .tenantCreate src => Sys2Proof.Machine.execTenantCreate src s
  | .tenantSet src => Sys2Proof.Machine.execTenantSet src s
  | .tenantDestroy src => Sys2Proof.Machine.execTenantDestroy src s
  | .masterBind src => Sys2Proof.Machine.execMasterBind src s
  | .volumeKey src => Sys2Proof.Machine.execVolumeKey src s
  | .tenantStatus src => Sys2Proof.Machine.execTenantStatus src s
  | .regionAlloc src => Sys2Proof.Machine.execRegionAlloc src s
  | .regionFree src => Sys2Proof.Machine.execRegionFree src s
  | .regionCopy src host remote => Sys2Proof.Machine.execRegionCopy src host remote s
  | .workingCopy src remote => Sys2Proof.Machine.execWorkingCopy src remote s
  | .kvCreate src => Sys2Proof.Machine.execKvCreate src s
  | .kvPages src => Sys2Proof.Machine.execKvPages src s
  | .kvMove src remote => Sys2Proof.Machine.execKvMove src remote s
  | .kvFree src => Sys2Proof.Machine.execKvFree src s
  | .plainGranule src => Sys2Proof.Machine.execPlainGranule src s
  | .plainCache src => Sys2Proof.Machine.execPlainCache src s
  | .plainFlush src => Sys2Proof.Machine.execPlainFlush src s
  | .kvGuards src => Sys2Proof.Machine.execKvGuards src s
  | .tensorAccession src => Sys2Proof.Machine.execTensorAccession src s
  | .tensorStatus src => Sys2Proof.Machine.execTensorStatus src s
  | .tensorUnload src => Sys2Proof.Machine.execTensorUnload src s
  | .windowDeclare src => Sys2Proof.Machine.execWindowDeclare src s
  | .windowSeal src => Sys2Proof.Machine.execWindowSeal src s
  | .windowReopen src => Sys2Proof.Machine.execWindowReopen src s
  | .windowClose src => Sys2Proof.Machine.execWindowClose src s
  | .tensorGuards src => Sys2Proof.Machine.execTensorGuards src s
  | .tensorOrigin src => Sys2Proof.Machine.execTensorOrigin src s
  | .volumeLoad src remote => Sys2Proof.Machine.execVolumeLoad src remote s
  | .volumeUnload src => Sys2Proof.Machine.execVolumeUnload src s
  | .queueCreate src => Sys2Proof.Machine.execQueueCreate src s
  | .queueDestroy src => Sys2Proof.Machine.execQueueDestroy src s
  | .volumeStatus src => Sys2Proof.Machine.execVolumeStatus src s
  | .poolOffer src => Sys2Proof.Machine.execPoolOffer src s
  | .extentRequest src => Sys2Proof.Machine.execExtentRequest src s
  | .extentGrant src => Sys2Proof.Machine.execExtentGrant src s
  | .leaseRenew src buf => Sys2Proof.Machine.execLeaseRenew src buf s
  | .extentRecall src => Sys2Proof.Machine.execExtentRecall src s
  | .extentReturn src => Sys2Proof.Machine.execExtentReturn src s
  | .extentFlush src buf => Sys2Proof.Machine.execExtentFlush src buf s
  | .shareCreate src buf => Sys2Proof.Machine.execShareCreate src buf s
  | .editionOpen src => Sys2Proof.Machine.execEditionOpen src s
  | .editionPublish src => Sys2Proof.Machine.execEditionPublish src s
  | .editionClose src => Sys2Proof.Machine.execEditionClose src s
  | .nearOp src => Sys2Proof.Machine.execNearOp src s
  | .mirrorResolve src => Sys2Proof.Machine.execMirrorResolve src s
  | .poolLimit src => Sys2Proof.Machine.execPoolLimit src s
  | .poolStatus src => Sys2Proof.Machine.execPoolStatus src s
  | .depotGrant src => Sys2Proof.Machine.execDepotGrant src s
  | .depotRevoke src => Sys2Proof.Machine.execDepotRevoke src s
  | .linkStatus src => Sys2Proof.Machine.execLinkStatus src s
  | .linkConfig src => Sys2Proof.Machine.execLinkConfig src s
  | .linkAnchor src buf => Sys2Proof.Machine.execLinkAnchor src buf s
  | .sessionBind src => Sys2Proof.Machine.execSessionBind src s
  | .sessionClose src => Sys2Proof.Machine.execSessionClose src s
  | .windowSet src => Sys2Proof.Machine.execWindowSet src s
  | .routeSet src => Sys2Proof.Machine.execRouteSet src s
  | .portReset src => Sys2Proof.Machine.execPortReset src s
  | .bwSet src buf => Sys2Proof.Machine.execBwSet src buf s
  | .bwStatus src => Sys2Proof.Machine.execBwStatus src s
  | .bwUrgency src => Sys2Proof.Machine.execBwUrgency src s
  | .errataRead src => Sys2Proof.Machine.execErrataRead src s
  | .rasStatus src => Sys2Proof.Machine.execRasStatus src s
  | .unitService src => Sys2Proof.Machine.execUnitService src s
  | .scrubSet src => Sys2Proof.Machine.execScrubSet src s
  | .powerFloor src => Sys2Proof.Machine.execPowerFloor src s
  | .powerLimit src => Sys2Proof.Machine.execPowerLimit src s
  | .powerStatus src => Sys2Proof.Machine.execPowerStatus src s
  | .configWrite src buf => Sys2Proof.Machine.execConfigWrite src buf s
  | .configStatus src => Sys2Proof.Machine.execConfigStatus src s
  | .fwInfo src => Sys2Proof.Machine.execFwInfo src s
  | .fwStage src buf => Sys2Proof.Machine.execFwStage src buf s
  | .fwCommit src => Sys2Proof.Machine.execFwCommit src s
  | .fwCommitWriteEnd ok => Sys2Proof.Machine.execFwCommitWriteEnd ok s
  | .diagMode src => Sys2Proof.Machine.execDiagMode src s
  | .cpRestart src => Sys2Proof.Machine.execCpRestart src s
  | .glbLockRead fn n coversLow => Sys2Proof.Machine.execGlbLockRead fn n coversLow s
  | .glbRelease fn full value => Sys2Proof.Machine.execGlbRelease fn full value s
  | .queDoorbell queue full value consumed input => Sys2Proof.Machine.execQueDoorbell queue full value consumed input s
  | .queueSlotWrite queue slot off bytes => Sys2Proof.Machine.execQueueSlotWrite queue slot off bytes s
  | .readRaw target => Sys2Proof.Machine.execReadRaw target s
  | .readCorrected target => Sys2Proof.Machine.execReadCorrected target s
  | .writeRaw target => Sys2Proof.Machine.execWriteRaw target s
  | .writeEncoded target => Sys2Proof.Machine.execWriteEncoded target s
  | .writePoison target => Sys2Proof.Machine.execWritePoison target s
  | .registerWrite fn off bytes consumed input => Sys2Proof.Machine.execRegisterWrite fn off bytes consumed input s
  | .callSlipAdmit => Sys2Proof.Machine.execCallSlipAdmit s
  | .callSlipEnd ctx => Sys2Proof.Machine.execCallSlipEnd ctx s
  | .deadlinePass ctx => Sys2Proof.Machine.execDeadlinePass ctx s
  | .fetchIssue half => Sys2Proof.Machine.execFetchIssue half s
  | .folioDataArrive slice folio => Sys2Proof.Machine.execFolioDataArrive slice folio s
  | .folioArriveComplete slice folio remote => Sys2Proof.Machine.execFolioArriveComplete slice folio remote s
  | .folioRecovery slice folio reads replica origin => Sys2Proof.Machine.execFolioRecovery slice folio reads replica origin s
  | .recoveryBudgetExpiry slice folio => Sys2Proof.Machine.execRecoveryBudgetExpiry slice folio s
  | .matvec ctx remote => Sys2Proof.Machine.execMatvec ctx remote s
  | .attnScore ctx remote => Sys2Proof.Machine.execAttnScore ctx remote s
  | .attnValue ctx remote => Sys2Proof.Machine.execAttnValue ctx remote s
  | .kvAppend ctx => Sys2Proof.Machine.execKvAppend ctx s
  | .elemwise ctx => Sys2Proof.Machine.execElemwise ctx s
  | .rmsnorm ctx => Sys2Proof.Machine.execRmsnorm ctx s
  | .layernorm ctx => Sys2Proof.Machine.execLayernorm ctx s
  | .softmax ctx => Sys2Proof.Machine.execSoftmax ctx s
  | .rope ctx => Sys2Proof.Machine.execRope ctx s
  | .act ctx => Sys2Proof.Machine.execAct ctx s
  | .embed ctx remote => Sys2Proof.Machine.execEmbed ctx remote s
  | .merge ctx => Sys2Proof.Machine.execMerge ctx s
  | .topk ctx => Sys2Proof.Machine.execTopk ctx s
  | .sample ctx remote => Sys2Proof.Machine.execSample ctx remote s
  | .relayReduce ctx => Sys2Proof.Machine.execRelayReduce ctx s
  | .loop ctx => Sys2Proof.Machine.execLoop ctx s
  | .route ctx => Sys2Proof.Machine.execRoute ctx s
  | .conditionalSkip ctx => Sys2Proof.Machine.execConditionalSkip ctx s
  | .consumedRead ctx => Sys2Proof.Machine.execConsumedRead ctx s
  | .consumedReadReturn ctx answer => Sys2Proof.Machine.execConsumedReadReturn ctx answer s
  | .probeRun mu => Sys2Proof.Machine.execProbeRun mu s
  | .probeForce tensor => Sys2Proof.Machine.execProbeForce tensor s
  | .investigationRerun tensor => Sys2Proof.Machine.execInvestigationRerun tensor s
  | .investigationRefetch tensor remote => Sys2Proof.Machine.execInvestigationRefetch tensor remote s
  | .investigationOtherMu tensor remote => Sys2Proof.Machine.execInvestigationOtherMu tensor remote s
  | .investigationTimeout tensor => Sys2Proof.Machine.execInvestigationTimeout tensor s
  | .accessionStart remote => Sys2Proof.Machine.execAccessionStart remote s
  | .accessionEnd => Sys2Proof.Machine.execAccessionEnd s
  | .weightWindowRead mid path off len => Sys2Proof.Machine.execWeightWindowRead mid path off len s
  | .plainRead mid path off len => Sys2Proof.Machine.execPlainRead mid path off len s
  | .plainWrite mid path off bytes => Sys2Proof.Machine.execPlainWrite mid path off bytes s
  | .cacheLineFill half set way line => Sys2Proof.Machine.execCacheLineFill half set way line s
  | .cacheEvictComplete half set way => Sys2Proof.Machine.execCacheEvictComplete half set way s
  | .weedingSweep => Sys2Proof.Machine.execWeedingSweep s
  | .binderyTimeout half line => Sys2Proof.Machine.execBinderyTimeout half line s
  | .granuleZeroingEnd addr => Sys2Proof.Machine.execGranuleZeroingEnd addr s
  | .runtimeAccess mid addr op remote => Sys2Proof.Machine.execRuntimeAccess mid addr op remote s
  | .grantMessage => Sys2Proof.Machine.execGrantMessage s
  | .grantAccept => Sys2Proof.Machine.execGrantAccept s
  | .grantRefuse => Sys2Proof.Machine.execGrantRefuse s
  | .grantTimeout half ext => Sys2Proof.Machine.execGrantTimeout half ext s
  | .requestTimeout request => Sys2Proof.Machine.execRequestTimeout request s
  | .dueDateExpiry half ext => Sys2Proof.Machine.execDueDateExpiry half ext s
  | .graceEnd half ext => Sys2Proof.Machine.execGraceEnd half ext s
  | .drainEnd half ext => Sys2Proof.Machine.execDrainEnd half ext s
  | .eraseEnd half ext => Sys2Proof.Machine.execEraseEnd half ext s
  | .noticeReceive => Sys2Proof.Machine.execNoticeReceive s
  | .handleFreeTimeout handle => Sys2Proof.Machine.execHandleFreeTimeout handle s
  | .nearOpStart half => Sys2Proof.Machine.execNearOpStart half s
  | .nearOpEnd half => Sys2Proof.Machine.execNearOpEnd half s
  | .mirrorComponentLoss handle part => Sys2Proof.Machine.execMirrorComponentLoss handle part s
  | .mirrorResyncEnd half ext => Sys2Proof.Machine.execMirrorResyncEnd half ext s
  | .mirrorVerify half ext block secondary stamp => Sys2Proof.Machine.execMirrorVerify half ext block secondary stamp s
  | .parityComponentLoss set index => Sys2Proof.Machine.execParityComponentLoss set index s
  | .parityRebuildEnd set index => Sys2Proof.Machine.execParityRebuildEnd set index s
  | .parityVerify half ext line dataLines => Sys2Proof.Machine.execParityVerify half ext line dataLines s
  | .poolWindowAdjust lender => Sys2Proof.Machine.execPoolWindowAdjust lender s
  | .trayTimeout grant => Sys2Proof.Machine.execTrayTimeout grant s
  | .trayProbe grant answered => Sys2Proof.Machine.execTrayProbe grant answered s
  | .portEnable port => Sys2Proof.Machine.execPortEnable port s
  | .equalisationDone port lanes => Sys2Proof.Machine.execEqualisationDone port lanes s
  | .flitLock port => Sys2Proof.Machine.execFlitLock port s
  | .hello port => Sys2Proof.Machine.execHello port s
  | .authCert port => Sys2Proof.Machine.execAuthCert port s
  | .keyxA port => Sys2Proof.Machine.execKeyxA port s
  | .keyxB port => Sys2Proof.Machine.execKeyxB port s
  | .confA port => Sys2Proof.Machine.execConfA port s
  | .authDone port => Sys2Proof.Machine.execAuthDone port s
  | .trainingTimeout port => Sys2Proof.Machine.execTrainingTimeout port s
  | .portRetryTimer port => Sys2Proof.Machine.execPortRetryTimer port s
  | .flitReceive port raw uncorrectable => Sys2Proof.Machine.execFlitReceive port raw uncorrectable s
  | .linkNak port => Sys2Proof.Machine.execLinkNak port s
  | .replayTimeout port => Sys2Proof.Machine.execReplayTimeout port s
  | .portRetrain port => Sys2Proof.Machine.execPortRetrain port s
  | .creditWithheldTimeout port channel => Sys2Proof.Machine.execCreditWithheldTimeout port channel s
  | .pairCert port => Sys2Proof.Machine.execPairCert port s
  | .pairXA port => Sys2Proof.Machine.execPairXA port s
  | .pairXB port => Sys2Proof.Machine.execPairXB port s
  | .pairConf port => Sys2Proof.Machine.execPairConf port s
  | .sessionOpen port => Sys2Proof.Machine.execSessionOpen port s
  | .sessionAccept port => Sys2Proof.Machine.execSessionAccept port s
  | .sessionRefuse port => Sys2Proof.Machine.execSessionRefuse port s
  | .sack port => Sys2Proof.Machine.execSack port s
  | .sessionResendTimeout node sid => Sys2Proof.Machine.execSessionResendTimeout node sid s
  | .sessionSilencePing node sid => Sys2Proof.Machine.execSessionSilencePing node sid s
  | .ping port => Sys2Proof.Machine.execPing port s
  | .pong port => Sys2Proof.Machine.execPong port s
  | .sessionLossTimeout node sid => Sys2Proof.Machine.execSessionLossTimeout node sid s
  | .close port => Sys2Proof.Machine.execClose port s
  | .masterIdFreeTimeout mid => Sys2Proof.Machine.execMasterIdFreeTimeout mid s
  | .rekeyDue node sid => Sys2Proof.Machine.execRekeyDue node sid s
  | .rekey port => Sys2Proof.Machine.execRekey port s
  | .portLeaveService port => Sys2Proof.Machine.execPortLeaveService port s
  | .pathReturnTimer port => Sys2Proof.Machine.execPathReturnTimer port s
  | .rdReq port remotes => Sys2Proof.Machine.execRdReq port remotes s
  | .wr port consumed input => Sys2Proof.Machine.execWr port consumed input s
  | .rdRsp port => Sys2Proof.Machine.execRdRsp port s
  | .cmpl port => Sys2Proof.Machine.execCmpl port s
  | .red port => Sys2Proof.Machine.execRed port s
  | .msgStart remote => Sys2Proof.Machine.execMsgStart remote s
  | .msgToken => Sys2Proof.Machine.execMsgToken s
  | .msgStop => Sys2Proof.Machine.execMsgStop s
  | .desk => Sys2Proof.Machine.execDesk s
  | .deskReply => Sys2Proof.Machine.execDeskReply s
  | .timeFlitSend port => Sys2Proof.Machine.execTimeFlitSend port s
  | .timeFlitReceive port rx => Sys2Proof.Machine.execTimeFlitReceive port rx s
  | .syncPulse => Sys2Proof.Machine.execSyncPulse s
  | .syncInEdge => Sys2Proof.Machine.execSyncInEdge s
  | .syncErrTimeout => Sys2Proof.Machine.execSyncErrTimeout s
  | .masterElection => Sys2Proof.Machine.execMasterElection s
  | .lpIdleTimer port => Sys2Proof.Machine.execLpIdleTimer port s
  | .lpReq port => Sys2Proof.Machine.execLpReq port s
  | .lpAck port => Sys2Proof.Machine.execLpAck port s
  | .lpNak port => Sys2Proof.Machine.execLpNak port s
  | .wake port => Sys2Proof.Machine.execWake port s
  | .pcieMemoryRequest fn write place len bytes consumed input => Sys2Proof.Machine.execPcieMemoryRequest fn write place len bytes consumed input s
  | .configRequest fn write off value => Sys2Proof.Machine.execConfigRequest fn write off value s
  | .initiateFlr fn => Sys2Proof.Machine.execInitiateFlr fn s
  | .flrComplete fn => Sys2Proof.Machine.execFlrComplete fn s
  | .vfEnable enable count => Sys2Proof.Machine.execVfEnable enable count s
  | .hostReadCompletion fn tag answer => Sys2Proof.Machine.execHostReadCompletion fn tag answer s
  | .hostReadTimeout fn tag => Sys2Proof.Machine.execHostReadTimeout fn tag s
  | .tagQuarantineEnd fn tag => Sys2Proof.Machine.execTagQuarantineEnd fn tag s
  | .l0pRequest link demand => Sys2Proof.Machine.execL0pRequest link demand s
  | .aspmL1Entry link => Sys2Proof.Machine.execAspmL1Entry link s
  | .addDynamicCapacityResponse granule accepted => Sys2Proof.Machine.execAddDynamicCapacityResponse granule accepted s
  | .releaseDynamicCapacity granule => Sys2Proof.Machine.execReleaseDynamicCapacity granule s
  | .dynamicCapacityTimeout granule => Sys2Proof.Machine.execDynamicCapacityTimeout granule s
  | .identifyMemoryDevice => Sys2Proof.Machine.execIdentifyMemoryDevice s
  | .getEventRecords => Sys2Proof.Machine.execGetEventRecords s
  | .clearEventRecords handles => Sys2Proof.Machine.execClearEventRecords handles s
  | .getPoisonList start len => Sys2Proof.Machine.execGetPoisonList start len s
  | .getHealthInfo => Sys2Proof.Machine.execGetHealthInfo s
  | .getDynamicCapacityConfiguration => Sys2Proof.Machine.execGetDynamicCapacityConfiguration s
  | .getDynamicCapacityExtentList start count => Sys2Proof.Machine.execGetDynamicCapacityExtentList start count s
  | .mailboxUnsupported opcode => Sys2Proof.Machine.execMailboxUnsupported opcode s
  | .ledgerWindow => Sys2Proof.Machine.execLedgerWindow s
  | .urgLevelChange port level => Sys2Proof.Machine.execUrgLevelChange port level s
  | .idleToReady => Sys2Proof.Machine.execIdleToReady s
  | .readyToDoze => Sys2Proof.Machine.execReadyToDoze s
  | .dozeToSleep => Sys2Proof.Machine.execDozeToSleep s
  | .wakeComplete => Sys2Proof.Machine.execWakeComplete s
  | .sleepToDoze => Sys2Proof.Machine.execSleepToDoze s
  | .sleepScrubVisit => Sys2Proof.Machine.execSleepScrubVisit s
  | .thermalSample c0 t0 c1 t1 => Sys2Proof.Machine.execThermalSample c0 t0 c1 t1 s
  | .throttleUpdate watts => Sys2Proof.Machine.execThrottleUpdate watts s
  | .thermtrip => Sys2Proof.Machine.execThermtrip s
  | .auxPowerOn slot pufOk => Sys2Proof.Machine.execAuxPowerOn slot pufOk s
  | .auxPowerOff => Sys2Proof.Machine.execAuxPowerOff s
  | .mainInputInRange => Sys2Proof.Machine.execMainInputInRange s
  | .mainInputDeparture => Sys2Proof.Machine.execMainInputDeparture s
  | .mainInputReturn pufOk => Sys2Proof.Machine.execMainInputReturn pufOk s
  | .perstFall => Sys2Proof.Machine.execPerstFall s
  | .perstRise slot => Sys2Proof.Machine.execPerstRise slot s
  | .bootRomStart => Sys2Proof.Machine.execBootRomStart s
  | .cpWatchdogExpiry => Sys2Proof.Machine.execCpWatchdogExpiry s
  | .cpRestartEnd => Sys2Proof.Machine.execCpRestartEnd s
  | .muLocalReset mu => Sys2Proof.Machine.execMuLocalReset mu s
  | .unitRemap unit => Sys2Proof.Machine.execUnitRemap unit s
  | .rowSpareEnd half tier => Sys2Proof.Machine.execRowSpareEnd half tier s
  | .patrolScrub addr replica origin => Sys2Proof.Machine.execPatrolScrub addr replica origin s
  | .stackFailure stack => Sys2Proof.Machine.execStackFailure stack s
  | .packageFailure pkg => Sys2Proof.Machine.execPackageFailure pkg s
  | .packageRemap half => Sys2Proof.Machine.execPackageRemap half s
  | .halfFence half => Sys2Proof.Machine.execHalfFence half s
  | .moduleFault unit => Sys2Proof.Machine.execModuleFault unit s
  | .trngFail half => Sys2Proof.Machine.execTrngFail half s
  | .debugChallenge => Sys2Proof.Machine.execDebugChallenge s
  | .debugResponse sig => Sys2Proof.Machine.execDebugResponse sig s
  | .debugIdentityRead => Sys2Proof.Machine.execDebugIdentityRead s
  | .i3cTargetReset target => Sys2Proof.Machine.execI3cTargetReset target s
  | .auxStatusRead target addr len => Sys2Proof.Machine.execAuxStatusRead target addr len s
  | .linkReadTimeout node sid tag => Sys2Proof.Machine.execLinkReadTimeout node sid tag s
  | .hostLinkTraining link rate10 width => Sys2Proof.Machine.execHostLinkTraining link rate10 width s
  | .portFailureTimeout port => Sys2Proof.Machine.execPortFailureTimeout port s
  | .tilePresenceSet tensor tile remote => Sys2Proof.Machine.execTilePresenceSet tensor tile remote s

end Sys2Proof.Machine
end

