-- ==== Sys2Proof/Safety.lean ====
section
/-! DEFINITION. What the statements call a safe state, and which commands reset or start the device up. -/

namespace Sys2Proof.Machine

/-- The memory of tiers 1 and 2 is in its one canonical form. -/
def memSafe (s : State) : Prop := s.mem.wf = true

/-- The commands that are a cold reset, or take the power off (R685, R719, R730, R731). -/
def isCold (c : Instr) : Prop :=
  match c with
  | .auxPowerOn .. | .auxPowerOff | .mainInputDeparture | .mainInputReturn .. | .thermtrip => True
  | _ => False

/-- The commands that reset the device, or in which it may start up (R620, R685, R717, R718). -/
def isReset (c : Instr) : Prop :=
  isCold c ∨
  match c with
  | .bootRomStart | .perstRise .. | .perstFall | .fwCommitWriteEnd .. => True
  | _ => False

/-- A desk command of a sender runs under an opcode and does not wait for an answer, while desk commands are served: the row
of its opcode acts on it (R531, R532, log 8). -/
def Serves (s : State) (src : DeskSrc) (op : Nat) (c : RunCmd) : Prop := runningCmd s src op = some c

/-- The state on which a command's row acts: serving it counts as activity, and a command that needs tier memory takes the device
from SLEEP to DOZE (R666, R667, R669). -/
def awake (s : State) (op : Nat) : State := if sleepOps.contains op then quietNow s else leaveSleep s

/-- A command's buffer can be read: the sender's function accepts a read, and the cap of class 1 leaves room (R476, R501). -/
def bufOpen (s : State) (c : RunCmd) : Bool := readMay s c.mid && capOpen s 1 (hostRes s c.mid false)

/-- The state once the host has answered the read of a command's buffer, which is charged in class 1 (R475, R491). -/
def bufRead (s : State) (c : RunCmd) (d : Bytes) : State :=
  chargeHostRx (readWhole s c.mid (msgIn c.msg) (msgInLen c.msg) (.data d)) 1 c.mid (msgInLen c.msg)

/-- A step of a context can be released at a command of its kind: it stands at the context's place with its waits met, the call
slip is not late, and the caps leave room for its operands (R252, R268, R501). -/
def Released (s : State) (n op : Nat) (v : Volume) (x : Ctx) (st : VStep) : Prop :=
  releasable s n op = some (v, x, st) ∧ isLate s x = false ∧ stepOpen s v x st = true

/-- n steps one after another; none where one of them does not answer a next state. -/
def runSteps : (n : Nat) → State → Option State
  | 0, s => some s
  | n + 1, s =>
    match step s with
    | .next t => runSteps n t
    | _ => none

end Sys2Proof.Machine
end

