-- ==== Sys2Proof/Certificates/Slice0/Obligations.lean ====
section
/-! DEFINITION. The statements for the provers: what each command does when its conditions hold, what every command keeps,
    and what reset leaves. -/

open Sys2Proof Sys2Proof.Machine

/-- A step of a state whose queue begins with the command c is exec of c on the state with the queue's rest (log 1).
-/
def Obligations.StepRunsFrontCommand : Prop :=
  ∀ (c : Instr) (rest : List Instr) (s : State), s.pending = c :: rest → step s = exec c { s with pending := rest }

/-- A step of a state with an empty queue answers a next state. Where 3.3 V AUX is off, nothing changes. Where it is
on, device time grows by ten units of 1/16 ns, one more or one less in a slewing step, and besides time only the end
of a pulse on SYNC_OUT, the timers of R669 and the phase still to be slewed change, where no secondary or parity
lender still owes an acknowledgement; where one does, peerTick may bring it. That an idle step is one cycle of 1.6 GHz
is the model's choice (log 1). -/
def Obligations.IdleStepIsOneCycle : Prop :=
  ∀ s : State, s.pending = [] →
    (s.pins.aux = false → step s = .next s) ∧
    (s.pins.aux = true → ∃ (d : Int) (low : Option Nat) (idle noSlip quiet : Nat),
      let u : State := { s with
        now := ((s.now : Int) + 10 + d).toNat, pins := { s.pins with syncOutLowUntil := low }
        power := { s.power with idleSince := idle, noSlipSince := noSlip, quietSince := quiet }
        link := { s.link with sync := { s.link.sync with phase := s.link.sync.phase - d } } }
      d ≤ 1 ∧ -1 ≤ d ∧ (s.link.sync.phase = 0 → d = 0) ∧
      step s = .next (peerTick u) ∧
      ((s.pool.waits = [] ∧ ∀ p ∈ s.pool.extents, p.2.sent ≤ p.2.taken) → step s = .next u))

/-- After reset device time is 0, the state is AUX_ONLY at step 1 of a cold start, tenant 0 exists with PF0 bound to
it and no other tenant or master is bound, no carrel is bound and READY is 0, both throttle values are 1,024, no half
is in service or fenced, no port is up and every session table is empty, memory lists nothing, no tensor, object,
volume, queue, extent or grant exists, the errata log is empty with the next SEQ 1, every bandwidth count is 0, the
debug port is locked, and the queue is empty. That AUX has just been applied, and that unwritten memory reads as
zeros, are choices (log 2, log 3). -/
def Obligations.ResetValues : Prop :=
  let s := State.reset
  s.pending = [] ∧ s.now = 0 ∧ s.power.state = .auxOnly ∧ s.boot.stage = .auxOnly ∧ s.pins.aux = true ∧ s.pins.pwrOk = false ∧
    s.pins.faultN = true ∧ s.pins.alertN = true ∧
    (∀ t, thas s.tenants t = decide (t = 0)) ∧ (∀ m, tget s.masters m = if m = 1 then some 0 else none) ∧
    s.cp.binding = [] ∧ s.cp.ready = false ∧ s.cp.running = [] ∧ (∀ n, carrelAck s n = 0 ∧ carrelStatus s n = 0 ∧ carrelId s n = 0) ∧
    (∀ h, s.power.throttle.get h = 1024 ∧ (s.halves.get h).inService = false ∧ (s.halves.get h).fenced = false) ∧
    (∀ p, (portOf s p).state = .down ∨ (portOf s p).state = .off) ∧ s.link.sessions = [] ∧
    (∀ a, cellAt s.mem.cells a = 0) ∧ s.mem.lineErr = [] ∧ s.regions = [] ∧ s.tensors = [] ∧ s.kvs = [] ∧ s.volumes = [] ∧
    s.queues = [] ∧ s.eng.ctxs = [] ∧ s.plain.granules = [] ∧ s.pool.extents = [] ∧ s.pool.handles = [] ∧ s.pool.grants = [] ∧
    s.ras.log = [] ∧ s.ras.nextSeq = 1 ∧ s.bw.cells = [] ∧ s.sec.debugUnlocked = false ∧ s.diag.mode = false

/-- The memory of tiers 1 and 2 at reset is in the model's one canonical form, which the invariant of
StepKeepsMemoryForm keeps. -/
def Obligations.MemoryFormAtReset : Prop :=
  memSafe State.reset

/-- From every state whose tier-1 and tier-2 memory is in canonical form, a step answers a next state whose memory is
in canonical form, whichever of the commands is at the front of the queue, or none. -/
def Obligations.StepKeepsMemoryForm : Prop :=
  ∀ s : State, memSafe s → ∃ t, step s = .next t ∧ memSafe t

/-- For every state and every k up to the length of its queue, k steps run without a fault or a refusal and leave the
queue without its first k commands. No command adds to the queue, and each is taken in its turn (log 1). -/
def Obligations.QueueDrains : Prop :=
  ∀ (s : State) (k : Nat), k ≤ s.pending.length → ∃ t, runSteps k s = some t ∧ t.pending = s.pending.drop k

/-- exec of every command on every state answers a next state, never a fault or a refusal, and that state has the same
queue and the same serial number. -/
def Obligations.EveryCommandCompletes : Prop :=
  ∀ (c : Instr) (s : State), ∃ t, exec c s = .next t ∧ t.pending = s.pending ∧ t.ident.serial = s.ident.serial

/-- A command other than AUX_POWER_ON answers a next state whose device time is not less than before, resets and
losses of the 48 V input among them, and AUX_POWER_ON on a device without AUX sets it to 0. -/
def Obligations.DeviceTimeNeverDecreases : Prop :=
  (∀ (c : Instr) (s : State), (∀ slot puf, c ≠ .auxPowerOn slot puf) → ∃ t, exec c s = .next t ∧ s.now ≤ t.now) ∧
  (∀ (slot : BitVec 3) (puf : Bool) (s : State), s.pins.aux = false →
    ∃ t, exec (.auxPowerOn slot puf) s = .next t ∧ t.now = 0)

/-- A step of a state in which the tag of the MIN_SVN record holds answers a next state in which it holds, and MIN_SVN
is not less than before. No command, reset or start-up lowers it. -/
def Obligations.MinSvnNeverFalls : Prop :=
  ∀ s : State, s.flash.minSvnTagOk = true → ∃ t, step s = .next t ∧ t.flash.minSvnTagOk = true ∧ s.flash.minSvn ≤ t.flash.minSvn

/-- A granule that module flash records as retired is recorded so after every step, through resets and losses of
power. -/
def Obligations.RetiredGranulesStay : Prop :=
  ∀ (s : State) (g : Nat), g ∈ s.flash.retiredGranules → ∃ t, step s = .next t ∧ g ∈ t.flash.retiredGranules

/-- A command that is no cold reset and no DEBUG_RESPONSE leaves the debug port's lock as it is, and DEBUG_RESPONSE
never locks it. -/
def Obligations.OnlyColdResetLocksDebugPort : Prop :=
  (∀ (c : Instr) (s : State), ¬isCold c → (∀ sig, c ≠ .debugResponse sig) →
    ∃ t, exec c s = .next t ∧ t.sec.debugUnlocked = s.sec.debugUnlocked) ∧
  (∀ (sig : Bytes) (s : State), s.sec.debugUnlocked = true →
    ∃ t, exec (.debugResponse sig) s = .next t ∧ t.sec.debugUnlocked = true)

/-- A command that neither resets the device nor can start it up leaves the binding table as it is; no desk command
and no register write, whatever it carries, moves a carrel to another sender. -/
def Obligations.BindingTableLocked : Prop :=
  ∀ (c : Instr) (s : State), ¬isReset c → ∃ t, exec c s = .next t ∧ t.cp.binding = s.cp.binding

/-- While no reset and no start-up comes, a half that is fenced stays fenced, whatever command runs. -/
def Obligations.FencedHalfStays : Prop :=
  ∀ (c : Instr) (s : State) (h : Half), ¬isReset c → (s.halves.get h).fenced = true →
    ∃ t, exec c s = .next t ∧ (t.halves.get h).fenced = true

/-- Every command that is no cold reset and no answer to a debug challenge leaves the next SEQ of the errata log at
least as high as it was. -/
def Obligations.LogSequenceRises : Prop :=
  ∀ (c : Instr) (s : State), ¬isCold c → (∀ sig, c ≠ .debugResponse sig) → ∃ t, exec c s = .next t ∧ s.ras.nextSeq ≤ t.ras.nextSeq

/-- From every state in which tenant 0 exists, a step answers a next state in which it exists. -/
def Obligations.TenantZeroStays : Prop :=
  ∀ s : State, thas s.tenants 0 = true → ∃ t, step s = .next t ∧ thas t.tenants 0 = true

/-- A command that is no reset, no start-up, no THROTTLE_UPDATE and no answer to a debug challenge leaves both halves'
throttle values as they are, and THROTTLE_UPDATE changes nothing outside the power registers. -/
def Obligations.ThrottleOnlyByUpdate : Prop :=
  (∀ (c : Instr) (s : State), ¬isReset c → (∀ w, c ≠ .throttleUpdate w) → (∀ sig, c ≠ .debugResponse sig) →
    ∃ t, exec c s = .next t ∧ t.power.throttle = s.power.throttle) ∧
  (∀ (w : Nat) (s : State), ∃ p : Power, exec (.throttleUpdate w) s = .next { s with power := p })

/-- A full doorbell write of a bound carrel posts its message area exactly when READY is 1, STATE is IDLE or LOST and
SEQ is the successor of COMPLETED, the successor of 0xFFFF being 1 and no successor being 0; any other is ignored,
sets BAD_DOORBELL and adds 1 to IGNORED, up to its top, but for one that would have been accepted and falls in the
cycle in which a restart begins, which counts as POSTED (R534). A write inside the message area is taken exactly when
STATE is IDLE, RUNNING or LOST, and else ignored and counted. Nothing outside the carrel's own registers changes. -/
def Obligations.DoorbellAndMessageWrite : Prop :=
  (∀ (s : State) (n : Nat) (full : Bool) (value : BitVec 64) (b : BindEntry), tget s.cp.binding n = some b →
    let c := carrelOf s n
    let ok := full = true ∧ s.cp.ready = true ∧ (c.state = .idle ∨ c.state = .lost) ∧ value.toNat = seqSucc c.completed
    (ok → exec (.carrelDoorbell n full value) s = .next (carrelMod s n (fun c => { c with state := .posted }))) ∧
    let lost := full = true ∧ s.cp.restarting = some s.now ∧ c.state = .restarting ∧ (c.before = .idle ∨ c.before = .lost) ∧
      value.toNat = seqSucc c.completed
    (lost → exec (.carrelDoorbell n full value) s = .next (carrelMod s n (fun c => { c with before := .posted }))) ∧
    (¬ok → ¬lost → exec (.carrelDoorbell n full value) s = .next (carrelMod s n (fun c =>
      { c with badDoorbell := { val := true, setAt := some s.now }, ignored := min 0xFFFF (c.ignored + 1) })))) ∧
  (∀ n, n < 0xFFFF → seqSucc n = n + 1) ∧ seqSucc 0xFFFF = 1 ∧
  (∀ (s : State) (n off : Nat) (bytes : Bytes) (b : BindEntry), tget s.cp.binding n = some b → bytes ≠ [] → off + bytes.length ≤ 256 →
    let c := carrelOf s n
    (c.state = .idle ∨ c.state = .running ∨ c.state = .lost → exec (.carrelMessageWrite n off bytes) s =
      .next (carrelMod s n (fun c => { c with msg := place c.msg off bytes }))) ∧
    (c.state = .posted ∨ c.state = .restarting → exec (.carrelMessageWrite n off bytes) s =
      .next (carrelMod s n (fun c => { c with ignored := min 0xFFFF (c.ignored + 1) }))))

/-- With fewer than 64 commands running, MESSAGE_TAKE takes the message of the next carrel with one, copies it under
the successor of COMPLETED, and moves the rotating pointer one place, the model's reading of the pointer (log 18). A
message that passes the checks runs, one that fails a check completes with the code of the first that fails. At
completion OUT, the reply and CARREL_ACK with COMPLETED equal to TAKEN, RC and STATE IDLE are written and the command
runs no more; one that completes in the cycle of a reset of its sender writes nothing (R535). OUT is charged in class
1. -/
def Obligations.MessageTakeAndCompletion : Prop :=
  (∀ (s : State) (n : Nat) (b : BindEntry), s.cp.ready = true → s.cp.running.length < 64 → nextPosted s = some n → n < 1024 →
    tget s.cp.binding n = some b →
    let seq := seqSucc (carrelOf s n).completed
    let c : RunCmd := { src := .carrel n, mid := b.sender, node := nodeId s, seq := seq, msg := fit 256 (carrelOf s n).msg }
    let t := carrelMod { s with cp := { s.cp with pointer := (s.cp.pointer + 1) % 1025 } } n (fun k => { k with state := .running, taken := seq })
    let u := { t with cp := { t.cp with running := s.cp.running ++ [c] } }
    exec .messageTake s = .next (if messageCheck u c.msg b.sender false = rcDone then u
      else failWith u c (messageCheck u c.msg b.sender false))) ∧
  (∀ (s : State) (f : FwdMsg) (r : List FwdMsg), s.cp.ready = true → s.cp.running.length < 64 → nextPosted s = some 1024 →
    s.cp.fwdQueue = f :: r →
    let c : RunCmd := { src := .forward f.id, mid := f.mid, node := f.node, seq := 0, msg := f.msg }
    let u := { s with cp := { s.cp with pointer := (s.cp.pointer + 1) % 1025, fwdQueue := r, running := s.cp.running ++ [c] } }
    exec .messageTake s = .next (if messageCheck u f.msg f.mid true = rcDone then u else failWith u c (messageCheck u f.msg f.mid true))) ∧
  (∀ (s : State) (c : RunCmd) (n rc : Nat) (result out : Bytes), c.src = .carrel n →
    (c.suppressed = true ∨ flrComes s c.mid = true) →
    completeOut s c rc result out = { s with cp := { s.cp with running := s.cp.running.filter (fun x => x.src != .carrel n), fwdOut := s.cp.fwdOut.filter (fun x => x.src != .carrel n) } }) ∧
  (∀ (s : State) (c : RunCmd) (n rc : Nat) (result out : Bytes), c.src = .carrel n → c.suppressed = false → flrComes s c.mid = false →
    let t := completeOut s c rc result out
    let k := carrelOf s n
    carrelOf t n = { k with reply := replyBytes (msgOp c.msg) rc c.seq out.length (devNs s) result,
                            completed := k.taken, rc := rc, state := .idle } ∧
    (∀ m, m ≠ n → carrelOf t m = carrelOf s m) ∧ t.out = s.out ++ (if out = [] then [] else [.hostWrite c.mid (msgOut c.msg) out false false]) ∧
    t.cp.running = s.cp.running.filter (fun x => x.src != .carrel n) ∧
    t = { s with cp := t.cp, out := t.out, bw := t.bw, host := t.host } ∧
    (out = [] → t.bw = s.bw ∧ t.host = s.host))

/-- A full write to GLB_RELEASE by PF0 or PF1 releases the lock that bits [5:0] name when the writer owns it or is
PF0, and leaves every other lock and everything else as it was. Any other write changes nothing, and none does while a
module fault holds (R23). -/
def Obligations.LockRelease : Prop :=
  (∀ (s : State) (fn : Fn) (v : BitVec 64), fn = .pf0 ∨ fn = .pf1 → fn = .pf0 ∨ tget s.cp.locks (v.toNat % 64) = some (fnMid fn) →
    s.ras.moduleFault = false →
    exec (.glbRelease fn true v) s = .next { s with cp := { s.cp with locks := tdel s.cp.locks (v.toNat % 64), lockWon := none } } ∧
    tget (tdel s.cp.locks (v.toNat % 64)) (v.toNat % 64) = none ∧
    ∀ m, m ≠ v.toNat % 64 → tget (tdel s.cp.locks (v.toNat % 64)) m = tget s.cp.locks m) ∧
  (∀ (s : State) (fn : Fn) (full : Bool) (v : BitVec 64),
    (full = false ∨ ¬(fn = .pf0 ∨ tget s.cp.locks (v.toNat % 64) = some (fnMid fn)) ∨ s.ras.moduleFault = true) →
    exec (.glbRelease fn full v) s = .next s)

/-- A read that covers the low half of GLB_LOCKn by PF0 or PF1 returns 0 and makes the reader the owner where the lock
is free. Where it is held it returns HELD and the owner's MID and changes no lock. Where the other function reads the
same free lock in the same cycle, its read being the other command still in the queue (log 134), and the rotating
pointer names it, that function becomes the owner; this read names it, and its own read then returns 0. A read that
does not cover bits [31:0] returns zeros and takes nothing. None answers while a module fault holds. -/
def Obligations.LockRead : Prop :=
  ∀ (s : State) (fn : Fn) (n : Nat), fn = .pf0 ∨ fn = .pf1 → n < 64 →
    let first : Fn := if s.cp.lockPointer = 0 then .pf0 else .pf1
    let give (f : Fn) : Cp := { s.cp with locks := tset s.cp.locks n (fnMid f), lockPointer := if f = .pf0 then 1 else 0 }
    (s.ras.moduleFault = false →
      (tget s.cp.locks n = none → first = fn ∨ lockReadComes s first n = false → exec (.glbLockRead fn n true) s =
        .next (emit { s with cp := give fn } (.completion fn (some (zeros 8))))) ∧
      (tget s.cp.locks n = none → first ≠ fn → lockReadComes s first n = true → exec (.glbLockRead fn n true) s =
        .next (emit { s with cp := { give first with lockWon := some (n, fnMid first, s.now) } }
          (.completion fn (some (leBytes 8 (2 ^ 31 + fnMid first)))))) ∧
      (∀ mid, tget s.cp.locks n = some mid → s.cp.lockWon ≠ some (n, fnMid fn, s.now) ∨ mid ≠ fnMid fn →
        exec (.glbLockRead fn n true) s = .next (emit s (.completion fn (some (leBytes 8 (2 ^ 31 + mid)))))) ∧
      (tget s.cp.locks n = some (fnMid fn) → s.cp.lockWon = some (n, fnMid fn, s.now) →
        exec (.glbLockRead fn n true) s = .next (emit { s with cp := { s.cp with lockWon := none } } (.completion fn (some (zeros 8))))) ∧
      exec (.glbLockRead fn n false) s = .next (emit s (.completion fn (some (zeros 4))))) ∧
    (s.ras.moduleFault = true → ∀ low, exec (.glbLockRead fn n low) s = .next s)

/-- CP_RESTART and the watchdog's expiry retire the binderies, set READY to 0 and put every bound carrel into
RESTARTING; when the restart ends each of them stands as R532 says of the state it was in, with RESTARTS one higher,
READY is 1 and no command runs. A target reset returns every carrel of its sender to its reset values and leaves every
other carrel alone. -/
def Obligations.ReceiverAndSenderReset : Prop :=
  (∀ (s : State) (src : DeskSrc) (c : RunCmd), Serves s src 0x0B05 c →
    exec (.cpRestart src) s = .next (restartBegin (retireAll (leaveSleep s)))) ∧
  (∀ s : State, s.cp.ready = true → s.boot.stage = .served → exec .cpWatchdogExpiry s = .next (restartBegin (retireAll s))) ∧
  (∀ (s : State) (n : Nat) (b : BindEntry), tget s.cp.binding n = some b →
    carrelOf (restartBegin s) n = { carrelOf s n with before := (carrelOf s n).state, state := .restarting } ∧
    (restartBegin s).cp.ready = false) ∧
  (∀ (s : State) (since : Nat), s.cp.restarting = some since → exec .cpRestartEnd s =
    .next (restartEnd (poolUndone (granulesUndone (copiesUndone (leasesExtended s (s.now - since))))))) ∧
  (∀ (s : State) (n : Nat) (b : BindEntry), tget s.cp.binding n = some b → (carrelOf s n).state = .restarting →
    (forwardsLost s).cp = s.cp →
    let k := carrelOf s n
    let e := carrelOf (restartEnd s) n
    (restartEnd s).cp.ready = true ∧ (restartEnd s).cp.running = [] ∧ (restartEnd s).cp.fwdQueue = [] ∧
      (restartEnd s).cp.restarting = none ∧ e.restarts = min 0xFFFF (k.restarts + 1) ∧
      (k.before = .idle → e.state = .idle ∧ e.lost = k.lost) ∧ (k.before = .lost → e.state = .lost) ∧
      (k.before = .posted ∨ k.before = .running →
        e.state = .lost ∧ e.rc = rcResetLost ∧ e.lost.val = true ∧ e.taken = k.taken) ∧
      (k.before = .posted → e.completed = k.completed) ∧ (k.before = .running → e.completed = k.taken)) ∧
  (∀ (s : State) (target : I3cTarget) (mid : Nat), (target = .bmc ∧ mid = 3) ∨ (target = .fm ∧ mid = 4) → ∃ t, exec (.i3cTargetReset target) s = .next t ∧ t = { s with cp := t.cp } ∧
    t.cp.binding = s.cp.binding ∧
    (∀ p ∈ s.cp.binding, p.2.sender = mid → carrelOf t p.1 = {}) ∧
    (∀ n, (∀ p ∈ s.cp.binding, p.2.sender = mid → p.1 ≠ n) → carrelOf t n = carrelOf s n))

/-- DEVICE_INFO, CONFIG_STATUS, POWER_STATUS and FW_INFO complete DONE with the fields their rules list. CERT_CHAIN
answers the piece of the chain at OFFSET, and BAD_FIELD past its end. ATTEST_REPORT at OFFSET 0 makes and keeps a new
report and answers its first piece, or writes all of it to OUT; at another OFFSET it answers that piece of the kept
report with the same NONCE, else CONFLICT. DEBUG_IDENTITY_READ sends the device identity and ID_DEVICE.
AUX_STATUS_READ answers from the 32 bytes at 0xF000 in AUX_ONLY. -/
def Obligations.InformationReplies : Prop :=
  (∀ (s : State) (src : DeskSrc) (c : RunCmd), Serves s src 0x0101 c → exec (.deviceInfo src) s = .next (complete (quietNow s) c rcDone
    [.u 8 (idDevice s), .u 2 (nodeId s), .u 1 s.ident.slot.toNat, .u 1 (halvesMask s),
     .u 1 (sumHalves s (fun h => (musIn s h).length)), .u 1 (sumHalves s (fun h => (vusIn s h).length)),
     .u 1 (powerCode s.power.state), .u 1 (bitN s.boot.defaultsUsed), .u 2 (sumHalves s (fun h => (s.halves.get h).t1Cap)),
     .u 2 (sumHalves s (fun h => (s.halves.get h).t2Cap)), .u 2 s.tenants.length, .u 8 (s.now / 16)])) ∧
  (∀ (s : State) (src : DeskSrc) (c : RunCmd), Serves s src 0x0A05 c → exec (.configStatus src) s = .next (complete (quietNow s) c rcDone
    [.u 1 (if s.boot.defaultsUsed then 1 else 0), .u 1 s.boot.blocksOk.toNat])) ∧
  (∀ (s : State) (src : DeskSrc) (c : RunCmd), Serves s src 0x0A03 c → exec (.powerStatus src) s = .next (complete (quietNow s) c rcDone
    [.u 1 (powerCode s.power.state), .u 1 (powerCode s.power.floor), .u 2 s.power.watts, .u 2 s.power.limit,
     .u 2 (s.power.throttle.get .h0), .u 2 (s.power.throttle.get .h1), .u 1 s.power.tjC0, .u 1 s.power.tjT0, .u 1 s.power.tjC1,
     .u 1 s.power.tjT1])) ∧
  (∀ (s : State) (src : DeskSrc) (c : RunCmd), Serves s src 0x0B01 c → s.boot.stage ≠ .recovery →
    exec (.fwInfo src) s = .next (complete (quietNow s) c rcDone
      [.u 4 s.fw.version, .u 4 s.fw.stagedLen, .u 1 s.fw.commit, .b s.fw.digest])) ∧
  (∀ (s : State) (src : DeskSrc) (c : RunCmd), Serves s src 0x0103 c → s.sec.krOk = true →
    (arg c 0 < (certChain s).length → exec (.certChain src) s = .next (complete (quietNow s) c rcDone (pieceVals (certChain s) (arg c 0)))) ∧
    ((certChain s).length ≤ arg c 0 → exec (.certChain src) s = .next (failWith (quietNow s) c rcBadField))) ∧
  (∀ (s : State) (n : Nat) (c : RunCmd), Serves s (.carrel n) 0x0102 c → c.src = .carrel n → s.sec.krOk = true →
    let r := reportOf (leaveSleep s) c n (argBytes c 0)
    let kept := carrelMod (leaveSleep s) n (fun k => { k with report := some r })
    (arg c 1 = 0 → msgHasOut c.msg = false → exec (.attestReport (.carrel n)) s = .next (complete kept c rcDone (pieceVals r 0))) ∧
    (arg c 1 = 0 → msgHasOut c.msg = true → r.length ≤ msgOutLen c.msg → exec (.attestReport (.carrel n)) s =
      .next (completeOut kept c rcDone (packVals [.u 4 r.length, .u 4 0, .b (zeros 192)]) r)) ∧
    (∀ old, arg c 1 ≠ 0 → (carrelOf s n).report = some old → slice old 0x20 32 = argBytes c 0 → arg c 1 < old.length →
      exec (.attestReport (.carrel n)) s = .next (complete (leaveSleep s) c rcDone (pieceVals old (arg c 1)))) ∧
    (∀ old, arg c 1 ≠ 0 → (carrelOf s n).report = some old → slice old 0x20 32 ≠ argBytes c 0 →
      exec (.attestReport (.carrel n)) s = .next (failWith (leaveSleep s) c rcConflict))) ∧
  (∀ s : State, railsOn s = true → exec .debugIdentityRead s = .next (emit s (.debugPort (deviceIdentity s ++ leBytes 8 (idDevice s))))) ∧
  (∀ (s : State) (target : I3cTarget) (addr len : Nat), s.pins.aux = true → s.power.state = .auxOnly → 0xF000 ≤ addr → addr + len ≤ 0xF020 →
    exec (.auxStatusRead target addr len) s = .next (emit s (.i3c target (slice (auxArea s) (addr - 0xF000) len))))

/-- TENANT_CREATE takes the lowest free number and a new 32-byte secret. TENANT_SET replaces the quotas of a tenant
that holds no more than they allow, else CONFLICT. TENANT_DESTROY of a tenant with no master and no granule erases its
key slot and every entry that names it. TENANT_STATUS answers counts to PF0 or to a master of the tenant. MASTER_BIND
binds a free PF1 or VF, unbinds one that owns nothing, and with OP 2 destroys its objects first. VOLUME_KEY enrols a
first key. -/
def Obligations.TenantsAndMasters : Prop :=
  (∀ (s : State) (src : DeskSrc) (c : RunCmd) (t : Nat), Serves s src 0x0201 c → s.sec.debugUnlocked = false → s.tenants.length < 1024 →
    (arg c 0 = 1 → depositories s < 8) → leastFrom (fun t => !thas s.tenants t) 1023 1 = some t →
    exec (.tenantCreate src) s = .next (complete (drew 32 { leaveSleep s with
      tenants := tset s.tenants t { depository := arg c 0 == 1, pool := arg c 1, t1 := arg c 2, t2 := arg c 3 }
      sec := { s.sec with tenantKeys := tset s.sec.tenantKeys t (trngBytes s.free 32) } }) c rcDone [.u 2 t])) ∧
  (∀ (s : State) (src : DeskSrc) (c : RunCmd), Serves s src 0x0201 c → s.sec.debugUnlocked = true →
    exec (.tenantCreate src) s = .next (failWith (leaveSleep s) c rcNotPermitted)) ∧
  (∀ (s : State) (src : DeskSrc) (c : RunCmd) (x : Tenant), Serves s src 0x0202 c → tget s.tenants (arg c 0) = some x → arg c 0 ≠ 0 →
    let low := arg c 2 < poolHeld s (arg c 0) ∨ 512 * arg c 3 < tenantUsed s (arg c 0) 1 ∨ 512 * arg c 4 < tenantUsed s (arg c 0) 2 ∨
      (x.depository = true ∧ arg c 1 ≠ 1 ∧ holdsGrant s (arg c 0) = true)
    (low → exec (.tenantSet src) s = .next (failWith (leaveSleep s) c rcConflict)) ∧
    (¬low → (arg c 1 = 1 → x.depository = false → depositories s < 8) → exec (.tenantSet src) s = .next (complete { leaveSleep s with
      tenants := tset s.tenants (arg c 0) { x with depository := arg c 1 == 1, pool := arg c 2, t1 := arg c 3, t2 := arg c 4 } } c rcDone []))) ∧
  (∀ (s : State) (src : DeskSrc) (c : RunCmd), Serves s src 0x0203 c → arg c 0 ≠ 0 → thas s.tenants (arg c 0) = true →
    (∀ m ∈ s.masters, m.2 ≠ arg c 0) → (∀ g ∈ s.plain.granules, g.2.tenant ≠ arg c 0) →
    exec (.tenantDestroy src) s = .next (complete { leaveSleep s with
      tenants := tdel s.tenants (arg c 0), sec := { s.sec with tenantKeys := tdel s.sec.tenantKeys (arg c 0) }
      link := { s.link with bindings := s.link.bindings.filter (fun b => b.tenant != arg c 0)
                            windows := tfilter s.link.windows (fun _ w => w.tenant != arg c 0 || !w.enable) } } c rcDone [])) ∧
  (∀ (s : State) (src : DeskSrc) (c : RunCmd) (x : Tenant), Serves s src 0x0206 c → tget s.tenants (arg c 0) = some x →
    c.mid = 1 ∨ tenantOf s c.mid = some (arg c 0) → exec (.tenantStatus src) s = .next (complete (leaveSleep s) c rcDone
      [.u 2 (bitN x.depository), .u 2 (s.masters.countP (fun m => m.2 == arg c 0)), .u 2 x.pool, .u 2 (poolHeld s (arg c 0)), .u 2 x.t1, .u 2 x.t2,
       .u 4 (tenantUsed s (arg c 0) 1), .u 4 (tenantUsed s (arg c 0) 2), .u 1 (bitN x.vkey.isSome)])) ∧
  (∀ (s : State) (src : DeskSrc) (c : RunCmd), Serves s src 0x0204 c → bindable (arg c 1) = true →
    (arg c 0 = 0 → thas s.tenants (arg c 2) = true → tget s.masters (arg c 1) = none → exec (.masterBind src) s =
      .next (complete { leaveSleep s with masters := tset s.masters (arg c 1) (arg c 2) } c rcDone [])) ∧
    (arg c 0 = 0 → thas s.tenants (arg c 2) = true → tget s.masters (arg c 1) ≠ none → exec (.masterBind src) s =
      .next (failWith (leaveSleep s) c rcConflict)) ∧
    (arg c 0 = 1 → tget s.masters (arg c 1) = some (arg c 2) → ownsObject s (arg c 1) = false → exec (.masterBind src) s =
      .next (complete { leaveSleep s with masters := tdel s.masters (arg c 1) } c rcDone [])) ∧
    (arg c 0 = 1 → tget s.masters (arg c 1) = some (arg c 2) → ownsObject s (arg c 1) = true → exec (.masterBind src) s =
      .next (failWith (leaveSleep s) c rcConflict)) ∧
    (arg c 0 = 2 → tget s.masters (arg c 1) = some (arg c 2) → slipOf s (arg c 1) = false → exec (.masterBind src) s =
      .next (complete (unbindMaster (destroyObjects (leaveSleep s) (arg c 1)) (arg c 1)) c rcDone []))) ∧
  (∀ (s : State) (src : DeskSrc) (c : RunCmd) (x : Tenant), Serves s src 0x0205 c → tget s.tenants (cmdTenant s c) = some x →
    let new := complete { leaveSleep s with
      tenants := tset s.tenants (cmdTenant s c) { x with vkey := some (argBytes c 1), vkeyEvents := x.vkeyEvents + 1 } } c rcDone []
    (x.vkey = none → arg c 0 = 0 → exec (.volumeKey src) s = .next new) ∧
    (∀ old, x.vkey = some old → arg c 0 = 0 → exec (.volumeKey src) s = .next (failWith (leaveSleep s) c rcConflict)) ∧
    (∀ old, x.vkey = some old → arg c 0 = 1 → old ≠ argBytes c 1 → exec (.volumeKey src) s = .next (
      if Config.sm2Verify (ascii "1234567812345678") old (vbytes (Config.sm3 (argBytes c 1))) (argBytes c 2) then new
      else failWith (leaveSleep s) c rcSignatureFail)))

/-- POWER_FLOOR sets the floor and wakes a deeper device to it; POWER_LIMIT sets the limit, 0 meaning 950. Each entry
of R669 is made when its condition has held for its time, the floor allows it and no call slip's doorbell falls in the
same cycle, and not otherwise. A wake ends in ACTIVE and is counted with its length. In SLEEP a request for tier
memory moves the device to DOZE, and the scrub visit of R672 leaves it in SLEEP with every timer as it was. -/
def Obligations.PowerStateMoves : Prop :=
  (∀ (s : State) (src : DeskSrc) (c : RunCmd), Serves s src 0x0A01 c →
    let f := codePower (arg c 0)
    let t := powerMod (quietNow s) (fun p => { p with floor := f })
    (powerCode s.power.state ≤ powerCode f → exec (.powerFloor src) s =
      .next (complete t c rcDone [.u 1 (powerCode s.power.state)])) ∧
    (powerCode f < powerCode s.power.state → f ≠ .active → exec (.powerFloor src) s =
      .next (complete (powerMod t (fun p => { p with state := f })) c rcDone [.u 1 (powerCode f)])) ∧
    (powerCode f < powerCode s.power.state → f = .active → s.power.wake = none → exec (.powerFloor src) s =
      .next (complete (powerMod t (fun p => { p with wake := some { source := s.power.state, startedAt := s.now } })) c rcDone
        [.u 1 (powerCode s.power.state)]))) ∧
  (∀ (s : State) (src : DeskSrc) (c : RunCmd), Serves s src 0x0A02 c → exec (.powerLimit src) s =
    .next (complete (powerMod (quietNow s) (fun p => { p with limit := if arg c 0 = 0 then 950 else arg c 0 })) c rcDone [])) ∧
  (∀ s : State,
    let go := s.power.state = .active ∧ floorAllows s .ready = true ∧ stepBusy s = false ∧ doorbellComes s = false ∧
      s.power.idleSince + 160000 ≤ s.now
    (go → exec .idleToReady s = .next { s with power := { s.power with state := .ready } }) ∧ (¬go → exec .idleToReady s = .next s)) ∧
  (∀ s : State,
    let go := s.power.state = .ready ∧ floorAllows s .doze = true ∧ s.power.wake = none ∧ slipBusy s = false ∧
      doorbellComes s = false ∧ s.power.noSlipSince + 16000000 ≤ s.now
    (go → exec .readyToDoze s = .next { s with power := { s.power with state := .doze } }) ∧ (¬go → exec .readyToDoze s = .next s)) ∧
  (∀ s : State,
    let go := s.power.state = .doze ∧ floorAllows s .sleep = true ∧ s.power.wake = none ∧ slipBusy s = false ∧
      doorbellComes s = false ∧ s.power.noSlipSince + 16000000 ≤ s.now ∧ serveBusy s = false ∧ s.power.quietSince + 1600000000 ≤ s.now
    (go → exec .dozeToSleep s = .next { s with power := { s.power with state := .sleep, lastScrubVisit := s.now } }) ∧
    (¬go → exec .dozeToSleep s = .next s)) ∧
  (∀ (s : State) (w : Wake), s.power.wake = some w → exec .wakeComplete s = .next { s with power := { s.power with
    state := .active, wake := none, wakes := min 0xFFFFFFFF (s.power.wakes + 1)
    lastWakeNs := min 0xFFFFFFFF ((s.now - w.startedAt) / 16), idleSince := s.now } }) ∧
  (∀ s : State, s.power.state = .sleep → tierServed s = true → exec .sleepToDoze s = .next { s with power := { s.power with
    state := .doze, quietSince := s.now } }) ∧
  (∀ s : State, s.power.state = .sleep → tierServed s = true → s.power.lastScrubVisit + 960000000000 ≤ s.now →
    exec .sleepScrubVisit s = .next { s with power := { s.power with lastScrubVisit := s.now } })

/-- In every state but AUX_ONLY, THROTTLE_UPDATE with an input power lowers each half's throttle value by the largest
reduction that applies, 256 from 103 °C, 64 from 100 °C, 64 above the power limit, to 128 at least; with no reduction
it raises it by 64, to 1,024 at most, at or below 97 °C and 95 % of the limit, and else leaves it. A value within 128
to 1,024 stays within. Only power registers change. The update is due every 100 µs. THERMAL_SAMPLE records the four
dies' readings and changes nothing outside the power registers. -/
def Obligations.ThermalAndThrottle : Prop :=
  (∀ (s : State) (watts : Nat), s.power.state ≠ .auxOnly → ∃ p : Power, exec (.throttleUpdate watts) s = .next { s with power := p } ∧
    p.watts = watts ∧
    ∀ h : Half,
      let tj := match h with | .h0 => max s.power.tjC0 s.power.tjT0 | .h1 => max s.power.tjC1 s.power.tjT1
      let cut := max (if 103 ≤ tj then 256 else if 100 ≤ tj then 64 else 0) (if s.power.limit < watts then 64 else 0)
      let old := s.power.throttle.get h
      (0 < cut → p.throttle.get h = max 128 (old - cut)) ∧
      (cut = 0 → tj ≤ 97 → watts * 100 ≤ 95 * s.power.limit → p.throttle.get h = min 1024 (old + 64)) ∧
      (cut = 0 → ¬(tj ≤ 97 ∧ watts * 100 ≤ 95 * s.power.limit) → p.throttle.get h = old) ∧
      (128 ≤ old → old ≤ 1024 → 128 ≤ p.throttle.get h ∧ p.throttle.get h ≤ 1024)) ∧
  (∀ (s : State) (c0 t0 c1 t1 : Nat), s.pins.aux = true → ∃ hot, exec (.thermalSample c0 t0 c1 t1) s =
    .next { s with power := { s.power with tjC0 := c0, tjT0 := t0, tjC1 := c1, tjT1 := t1, hotSince := hot } })

/-- AUX_POWER_ON at step 1 of a cold start reads the record and draws new keys, and the rails come up where the 48 V
input is in range; AUX_POWER_OFF leaves what module flash holds. A departure of the 48 V input and a thermal trip lose
the rails, which is AUX_ONLY with memory and every table gone and the cause recorded. A return after 10 ms is a cold
reset. PERST_N falling in service resets all but what R680 keeps; rising, with the ROM waiting, it starts the device
up, as does the boot ROM where PERST_N is high. -/
def Obligations.PowerInputsAndResets : Prop :=
  (∀ (s : State) (slot : BitVec 3) (puf : Bool), s.pins.aux = true → s.boot.stage = .auxOnly → s.boot.recordRead = false →
    exec (.auxPowerOn slot puf) s = .next (railsUp (rootKeys
      { s with ident := { s.ident with slot := slot }, boot := { s.boot with recordRead := true } } puf))) ∧
  (∀ s : State, s.pins.aux = true → ∃ t, exec .auxPowerOff s = .next t ∧ t.boot = { stage := .off } ∧ t.power = {} ∧ t.mem = {} ∧ t.cp = {} ∧
    t.regions = [] ∧ t.tensors = [] ∧ t.volumes = [] ∧ t.link.sessions = [] ∧ t.pins.aux = false ∧ t.pins.pwrOk = false ∧
    t.flash = { s.flash with commitFailed := s.flash.commitFailed || s.fw.commit == 1 }) ∧
  (∀ s : State, s.pins.main = .outOfRange → exec .mainInputInRange s =
    .next (railsUp { s with pins := { s.pins with main := .inRange }, boot := { s.boot with inRangeSince := s.now } })) ∧
  (∀ s : State, s.pins.aux = true → s.boot.recordRead = true → s.pins.main = .inRange → s.pins.thermtripN = true → s.boot.departed = false →
    s.boot.stage = .auxOnly → railsUp s = { s with boot := { s.boot with stage := .railsGood }, pins := { s.pins with pwrOk := true }
                                                   power := { s.power with state := .sleep } }) ∧
  (∀ s : State, s.pins.main = .inRange → railsOn s = true → ∃ t, exec .mainInputDeparture s = .next t ∧ t.power.state = .auxOnly ∧
    t.power.lossCause = 1 ∧ t.boot.departed = true ∧ t.pins.main = .outOfRange ∧ t.pins.pwrOk = false ∧ t.mem = {} ∧ t.cp = {} ∧ t.now = s.now) ∧
  (∀ (s : State) (puf : Bool), s.pins.aux = true → s.pins.thermtripN = true → s.boot.departed = true → s.pins.main = .inRange →
    s.boot.inRangeSince + 160000000 ≤ s.now →
    exec (.mainInputReturn puf) s = .next (railsUp (rootKeys (coldState { s with boot := { s.boot with departed := false } }) puf))) ∧
  (∀ s : State, s.pins.aux = true → s.pins.thermtripN = true → tripDue s = true → railsOn s = true → ∃ t, exec .thermtrip s = .next t ∧
    t.power.state = .auxOnly ∧ t.power.lossCause = 2 ∧ t.pins.thermtripN = false ∧ t.pins.pwrOk = false ∧ t.mem = {} ∧ t.cp = {}) ∧
  (∀ s : State, s.pins.perstN = true → s.pins.aux = true → s.pins.thermtripN = true → s.boot.stage = .served ∨ s.boot.stage = .recovery →
    exec .perstFall s = .next (perstReset s) ∧
    (perstReset s).boot.stage = .romWaiting ∧ (perstReset s).pins.perstN = false ∧ (perstReset s).volumes = [] ∧ (perstReset s).queues = [] ∧
    (perstReset s).bw = {} ∧ (perstReset s).diag = {} ∧ (perstReset s).power.throttle = ⟨1024, 1024⟩ ∧ (perstReset s).sec.aliasM1 = none) ∧
  (∀ (s : State) (slot : BitVec 3), s.pins.perstN = false → s.pins.aux = true → s.pins.thermtripN = true →
    let t := { s with pins := { s.pins with perstN := true }, ident := { s.ident with slot := slot }
                      boot := { s.boot with perstRoseAt := some s.now } }
    exec (.perstRise slot) s = .next (if s.boot.stage = .romWaiting then startUp t else t)) ∧
  (∀ s : State, s.boot.stage = .railsGood →
    let t := { s with boot := { s.boot with stage := .romWaiting }
                      sec := { s.sec with meas := tset s.sec.meas 0 { digest := vbytes (Config.sm3 Config.romImage) } } }
    exec .bootRomStart s = .next (if s.pins.perstN then startUp t else t)) ∧
  (∀ s : State, startUp s = if bootImageOk s then startImage s else recoveryPath s) ∧
  (∀ s : State, (recoveryPath s).boot.stage = .recovery ∧ (recoveryPath s).cp.ready = true ∧ (recoveryPath s).pins.alertN = false)

/-- A command whose buffer cannot be read yet waits and keeps its place. CONFIG_WRITE of a block that passes its check
stores it in flash for the next start, and one that fails is HASH_MISMATCH. FW_STAGE places its bytes and raises
STAGED. FW_COMMIT of a staged image that verifies starts the write and completes ACCEPTED, and one that does not is
SIGNATURE_FAIL; the write's end puts the image into flash or marks the failure. DIAG_MODE 1 needs no other tenant and
no call slip. A debug challenge draws 32 bytes and is issued at most until three responses have failed. A response
uses the challenge up, and unlocks the port, with every key erased first, exactly when its signature verifies. -/
def Obligations.ConfigurationFirmwareAndDebug : Prop :=
  (∀ (s : State) (src : DeskSrc) (c : RunCmd) (d : Bytes), Serves s src 0x0A04 c → arg c 1 ≤ msgInLen c.msg →
    let b := fit (arg c 1) (fit (msgInLen c.msg) d)
    let t := bufRead (leaveSleep s) c d
    (bufOpen s c = false → ∀ r, exec (.configWrite src r) s = .next (cmdHold (leaveSleep s) c)) ∧
    (bufOpen s c = true → leAt b 0 1 = arg c 0 →
    (blockCheck b = true → exec (.configWrite src (.data d)) s =
      .next (complete { t with flash := { t.flash with blocks := tset t.flash.blocks (arg c 0) b } } c rcDone [])) ∧
    (blockCheck b = false → exec (.configWrite src (.data d)) s = .next (failWith t c rcHashMismatch)))) ∧
  (∀ (s : State) (src : DeskSrc) (c : RunCmd) (d : Bytes), Serves s src 0x0B02 c → arg c 0 + arg c 1 ≤ 2 ^ 24 → arg c 1 ≤ msgInLen c.msg →
    bufOpen s c = true →
    let t := bufRead (leaveSleep s) c d
    exec (.fwStage src (.data d)) s = .next (complete { t with fw := { t.fw with
      staged := place (t.fw.staged ++ zeros (arg c 0 + arg c 1 - t.fw.staged.length)) (arg c 0) (fit (arg c 1) (fit (msgInLen c.msg) d))
      stagedLen := max t.fw.stagedLen (arg c 0 + arg c 1) } } c rcDone [])) ∧
  (∀ (s : State) (src : DeskSrc) (c : RunCmd), Serves s src 0x0B03 c → s.fw.commit ≠ 1 →
    let b := fit (min (arg c 0) (2 ^ 24)) s.fw.staged
    exec (.fwCommit src) s = .next (if imageOk s b (arg c 0) = true
      then complete { leaveSleep s with fw := { s.fw with commit := 1, writing := b } } c rcAccepted []
      else failWith (leaveSleep s) c rcSignatureFail)) ∧
  (∀ s : State, s.fw.commit = 1 → s.boot.stage ≠ .recovery → exec (.fwCommitWriteEnd true) s = .next { s with
    fw := { s.fw with commit := 2, writing := [] }, flash := { s.flash with image := s.fw.writing, commitFailed := false } }) ∧
  (∀ s : State, s.fw.commit = 1 → exec (.fwCommitWriteEnd false) s = .next { s with
    fw := { s.fw with commit := 3, writing := [] }, flash := { s.flash with commitFailed := true } }) ∧
  (∀ (s : State) (src : DeskSrc) (c : RunCmd), Serves s src 0x0B04 c →
    let busy := (∃ t ∈ s.tenants, t.1 ≠ 0) ∨ slipWaits s = true ∨ s.eng.ctxs ≠ []
    (arg c 0 = 0 → exec (.diagMode src) s = .next (complete { leaveSleep s with diag := { s.diag with mode := false } } c rcDone [])) ∧
    (arg c 0 ≠ 0 → ¬busy → exec (.diagMode src) s = .next (complete { leaveSleep s with diag := { s.diag with mode := true } } c rcDone [])) ∧
    (arg c 0 ≠ 0 → busy → exec (.diagMode src) s = .next (failWith (leaveSleep s) c rcConflict))) ∧
  (∀ s : State, railsOn s = true → s.sec.debugUnlocked = false → s.sec.debugFails < 3 →
    let ch := deviceIdentity s ++ trngBytes s.free 32 ++ leBytes 8 (idDevice s)
    exec .debugChallenge s = .next (emit (drew 32 { s with sec := { s.sec with debugChallenge := some ch } }) (.debugPort ch))) ∧
  (∀ s : State, ¬(railsOn s = true ∧ s.sec.debugUnlocked = false ∧ s.sec.debugFails < 3) → exec .debugChallenge s = .next s) ∧
  (∀ (s : State) (sig ch : Bytes), s.sec.debugChallenge = some ch →
    let t := { s with sec := { s.sec with debugChallenge := none } }
    exec (.debugResponse sig) s = .next (
      if Config.sm2Verify (ascii "1234567812345678") (Config.romKey 1) (vbytes (Config.sm3 ch)) sig = true
      then { keysErased t with sec := { (keysErased t).sec with debugUnlocked := true } }
      else { t with sec := { t.sec with debugFails := t.sec.debugFails + 1 } })) ∧
  (∀ s : State, (keysErased s).sec.kCp = none ∧ (keysErased s).sec.kFree = none ∧ (keysErased s).mem = {} ∧ (keysErased s).regions = [] ∧
    (keysErased s).tensors = [] ∧ (keysErased s).volumes = [] ∧ (keysErased s).kvs = [] ∧ (keysErased s).link.pairKeys = [] ∧
    ∀ t ∈ (keysErased s).tenants, t.1 = 0)

/-- REGION_ALLOC takes the lowest free run of its tier and half, with one granule of tags for every 64 where it
protects, zeroes it and answers its base and length; beyond the quota, or with no run, it is NO_SPACE. REGION_FREE of
a region that nothing holds zeroes it, else CONFLICT. REGION_COPY from the host writes the bytes read, to the host
sends the bytes stored, and within device memory copies them; a poisoned source is carried on and completes POISONED.
With a half fenced it is POISONED, and while a cap leaves no room it waits. A granule whose zeroing ends is free, its
zeros charged in class 5; while the cap of class 5 leaves no room, an allocation waits and zeroing goes on. -/
def Obligations.RegionCommands : Prop :=
  (∀ (s w : State) (src : DeskSrc) (c : RunCmd) (taken tenant : Nat), Serves s src 0x0301 c → w = leaveSleep s →
    taken = (if natBit (arg c 2) 0 then arg c 3 + ceilDiv (arg c 3) 64 else arg c 3) → tenant = cmdTenant w c →
    tierClosed w (arg c 0) (halfOf (arg c 1)) = false →
    (∀ g, tenantUsed w tenant (arg c 0) + taken ≤ tenantQuota w tenant (arg c 0) → findRun w (arg c 0) (halfOf (arg c 1)) taken true = some g →
      zeroOpen w (g * mib2) = true →
      exec (.regionAlloc src) s = .next (complete (takeRegion w { base := g * mib2, granules := taken, dataGranules := arg c 3, tier := arg c 0
                                                                  half := halfOf (arg c 1), master := c.mid, tenant := tenant
                                                                  protect := natBit (arg c 2) 0 }) c rcDone [.u 8 (g * mib2), .u 4 taken])) ∧
    (tenantQuota w tenant (arg c 0) < tenantUsed w tenant (arg c 0) + taken → exec (.regionAlloc src) s = .next (failWith w c rcNoSpace)) ∧
    (findRun w (arg c 0) (halfOf (arg c 1)) taken true = none → findRun w (arg c 0) (halfOf (arg c 1)) taken false = none →
      exec (.regionAlloc src) s = .next (failWith w c rcNoSpace))) ∧
  (∀ (s : State) (r : Region), takeRegion s r =
    chargeZero (dramZero { s with regions := s.regions ++ [r] } r.base (r.granules * mib2)) r.base (r.granules * mib2)) ∧
  (∀ (s : State) (src : DeskSrc) (c : RunCmd) (r : Region), Serves s src 0x0302 c →
    let w := leaveSleep s
    daRefused w c.mid (arg c 0) = false → daRange (arg c 0) = 1 ∨ daRange (arg c 0) = 2 →
    w.regions.find? (fun r => r.base == arg c 0 && r.master == c.mid) = some r →
    (rangeHolds w (r.base, r.granules * mib2) = false → exec (.regionFree src) s = .next (complete
      (startZeroing { w with regions := w.regions.filter (fun x => x.base != r.base) } r.base r.granules) c rcDone [])) ∧
    (rangeHolds w (r.base, r.granules * mib2) = true → exec (.regionFree src) s = .next (failWith w c rcConflict))) ∧
  (∀ (s : State) (src : DeskSrc) (c : RunCmd) (d : Bytes) (remote : RemoteRead), Serves s src 0x0303 c →
    let w := leaveSleep s
    arg c 0 = 0 → deskCode w c.mid (arg c 4) (arg c 1) true = rcDone → anyFenced w = false → runtimeOpen w 1 c.mid (arg c 4) true = true →
    bufOpen w c = true →
    let t := chargeHostRx (readWhole w c.mid (arg c 2) (arg c 1) (.data d)) 1 c.mid (arg c 1)
    exec (.regionCopy src (.data d) remote) s = .next (complete
      (chargeWrite (writeAny t 1 c.mid (arg c 4) (fit (arg c 1) d)) 1 (arg c 4) (arg c 1) (.tier .h0)) c rcDone [])) ∧
  (∀ (s : State) (src : DeskSrc) (c : RunCmd) (host : HostRead) (remote : RemoteRead), Serves s src 0x0303 c →
    let w := leaveSleep s
    let n := arg c 1
    deskCode w c.mid (arg c 3) n false = rcDone → daRange (arg c 3) ≤ 2 → anyFenced w = false → runtimeOpen w 1 c.mid (arg c 3) false = true →
    let r := readAny (chargeRead w 1 (arg c 3) n (.tier .h0)) c.mid (arg c 3) n remote
    let bad := rtPoison r.2.2 (arg c 3) n
    (arg c 0 = 1 → capOpen w 1 (hostRes w c.mid true) = true → bad = false → exec (.regionCopy src host remote) s =
      .next (complete (chargeHostTx (emit r.1 (.hostWrite c.mid (arg c 2) r.2.1 false false)) 1 c.mid n) c rcDone [])) ∧
    (arg c 0 = 1 → capOpen w 1 (hostRes w c.mid true) = true → bad = true → exec (.regionCopy src host remote) s =
      .next (complete (chargeHostTx (emit r.1 (.hostWrite c.mid (arg c 2) r.2.1 (!r.2.2.isEmpty) false)) 1 c.mid n) c rcPoisoned [])) ∧
    (arg c 0 = 2 → deskCode w c.mid (arg c 4) n true = rcDone → runtimeOpen w 1 c.mid (arg c 4) true = true →
      exec (.regionCopy src host remote) s = .next (complete
      (chargeWrite (copyPut r.1 c.mid (arg c 3) (arg c 4) r.2.1 (if bad then r.2.2 else [])) 1 (arg c 4) n (.tier .h0)) c
      (if bad then rcPoisoned else rcDone) []))) ∧
  (∀ (s : State) (src : DeskSrc) (c : RunCmd) (host : HostRead) (remote : RemoteRead), Serves s src 0x0303 c →
    let w := leaveSleep s
    (copyCode w c (arg c 0) (arg c 3) (arg c 4) (arg c 1)).2 = rcDone →
    (anyFenced w = true → exec (.regionCopy src host remote) s = .next (failWith w c rcPoisoned)) ∧
    (anyFenced w = false → arg c 0 ≠ 0 → runtimeOpen w 1 c.mid (arg c 3) false = false → exec (.regionCopy src host remote) s = .next (cmdHold w c))) ∧
  (∀ (s : State) (addr : Nat), s.zeroing.contains (addr / 2 ^ 21) = true →
    (zeroOpen s (addr / 2 ^ 21 * 2 ^ 21) = true → exec (.granuleZeroingEnd addr) s =
      .next (chargeZero { s with zeroing := s.zeroing.filter (fun g => g != addr / 2 ^ 21) } (addr / 2 ^ 21 * 2 ^ 21) (2 ^ 21))) ∧
    (zeroOpen s (addr / 2 ^ 21 * 2 ^ 21) = false → exec (.granuleZeroingEnd addr) s = .next s))

/-- WORKING_COPY NONE of a tensor takes its working copy away, and completes when no fetch from it is outstanding.
FULL and STAGED of a tensor without one, placed where R296 allows, write the table images in class 5 and make the copy
with no tile present; FULL waits for its tiles and STAGED completes; with a working copy in force they are CONFLICT.
Each tile's copy, in class 5 under FULL and else in the class of the entry that asked for it, is written payload first
and colophon last and then sets its presence bit, with the table images of a half whose first tile it is. -/
def Obligations.WorkingCopies : Prop :=
  (∀ (s : State) (src : DeskSrc) (c : RunCmd) (t : Tensor) (remote : RemoteRead), Serves s src 0x0304 c → c.acc = [] →
    let w := leaveSleep s
    tensorByTag w c.mid (arg c 0) = some t → daRange t.pbase ≠ 1 →
    (arg c 1 = 0 → wcFetching (wcEnd w t) t.id = false → exec (.workingCopy src remote) s = .next (complete (wcEnd w t) c rcDone [])) ∧
    (arg c 1 = 0 → wcFetching (wcEnd w t) t.id = true → exec (.workingCopy src remote) s =
      .next (runningSet (wcEnd w t) c (fun r => { r with acc := leBytes 8 t.id }))) ∧
    (arg c 1 ≠ 0 → t.wc.isSome = true → exec (.workingCopy src remote) s = .next (failWith w c rcConflict)) ∧
    (arg c 1 ≠ 0 → t.wc = none →
      let full := arg c 1 == 1
      let x : WorkCopy := { mode := if full then .full else .staged, half := halfOf (arg c 2), hs := arg c 3, w0 := arg c 4, w1 := arg c 5
                            present := [], copying := [], src := if full then some c.src else none }
      wcPartCode w c.mid t.params x .h0 = rcDone → wcPartCode w c.mid t.params x .h1 = rcDone →
      let u := wcTables (wcTables w remote t x 5 .h0) remote t x 5 .h1
      let v := { u with tensors := tmod u.tensors t.id (fun t => { t with wc := some x }) }
      exec (.workingCopy src remote) s = .next (if full then cmdWait v c.src else complete v c rcDone []))) ∧
  (∀ (s : State) (src : DeskSrc) (c : RunCmd) (remote : RemoteRead), Serves s src 0x0304 c → c.acc ≠ [] →
    wcFetching (leaveSleep s) (leVal c.acc) = false → exec (.workingCopy src remote) s = .next (complete (leaveSleep s) c rcDone [])) ∧
  (∀ (s : State) (t : Tensor), tget s.tensors t.id = some t → t.wc.bind (·.src) = none →
    wcEnd s t = { s with tensors := tset s.tensors t.id { t with wc := none } }) ∧
  (∀ (s : State) (id tile : Nat) (t : Tensor) (w : WorkCopy) (remote : RemoteRead) (cls : Nat), tget s.tensors id = some t → t.wc = some w →
    t.damaged = false → tile < nTiles t.params → tile ∉ w.present → cls = (if w.mode = .full then 5 else tgetD w.copying tile 0) →
    w.mode = .full ∨ thas w.copying tile = true → daRange (masterTile t tile).1 ≤ 2 →
    let m := masterTile t tile
    let k := wcTile t.params w tile
    let n := slotBytes t.params
    let die := Die.tier (wcHalf w tile)
    spanUsable s k.1 n = true → spanUsable s k.2 32 = true → capOpen s cls (readPath m.1 die ++ writePath k.1 die) = true →
    let r := readFolio s t.master t.params m.1 m.2 t.tbase
    r.2.2 = false →
    let u := wcTablesDue r.1 (.data (slice r.2.1 (32 + n) (16 * t.params.ntab)) false) t w cls tile
    let v := chargeRead (chargeRead u cls m.1 n die) cls m.2 32 die
    exec (.tilePresenceSet id tile remote) s = .next (wcComplete (tensorMod (chargeWrite (chargeWrite
      (rtWrite (rtWrite v t.master k.1 (slice r.2.1 32 n)) t.master k.2 (slice r.2.1 0 32)) cls k.1 n die) cls k.2 32 die) id
      (fun t => { t with wc := t.wc.map (fun w => { w with
        present := w.present ++ [tile], copying := tdel w.copying tile }) })) id)) ∧
  (∀ (s : State) (id tile : Nat) (t : Tensor) (w : WorkCopy) (remote : RemoteRead), tget s.tensors id = some t → t.wc = some w →
    t.damaged = true ∨ nTiles t.params ≤ tile ∨ tile ∈ w.present ∨ (w.mode ≠ .full ∧ thas w.copying tile = false) →
    exec (.tilePresenceSet id tile remote) s = .next s)

/-- KV_CREATE takes a page table of zeroed granules, its entries written empty, and the lowest free index with a new
generation, and answers the handle. KV_PAGES SET of pages that pass R304 makes their entries VALID, and CLEAR empties
entries, but a filled one that a call slip may use is CONFLICT. KV_MOVE of a full page copies it in class 5 and sets
its PDA, and completes when no fetch from the old place is outstanding. KV_FREE of an object out of use zeroes its
table. KV_GUARDS answers the guard record and takes what it showed away where asked to clear. -/
def Obligations.KeyValueObjects : Prop :=
  (∀ (s : State) (src : DeskSrc) (c : RunCmd) (g i : Nat), Serves s src 0x0305 c →
    let w := leaveSleep s
    let h := halfOf (arg c 4)
    let n := ceilDiv (arg c 0 * 2 * arg c 3 * 16) mib2
    tierClosed w 1 h = false → tenantUsed w (cmdTenant w c) 1 + n ≤ tenantQuota w (cmdTenant w c) 1 → findRun w 1 h n true = some g →
    leastFrom (fun i => !thas w.kvs i) (w.kvs.length + 1) 0 = some i → zeroOpen w (g * mib2) = true →
    let gen := tgetD w.kvGen i 0 + 1
    let k : KvObj := { idx := i, gen := gen, master := c.mid, tenant := cmdTenant w c, nh := arg c 0, d := arg c 2, format := arg c 1, maxPages := arg c 3
                       half := h, tableBase := g * mib2, tableGranules := n }
    exec (.kvCreate src) s = .next (complete { dramPut (chargeZero (dramZero w (g * mib2) (n * mib2)) (g * mib2) (n * mib2)) (g * mib2)
        (emptyTable (arg c 0 * 2 * arg c 3)) with kvs := tset w.kvs i k, kvGen := tset w.kvGen i gen } c rcDone
      [.u 8 (gen * 2 ^ 32 + i)])) ∧
  (∀ (s : State) (src : DeskSrc) (c : RunCmd) (k : KvObj), Serves s src 0x0306 c →
    let w := leaveSleep s
    kvOf w c.mid (arg c 0) = some k → arg c 1 < k.nh → arg c 4 + arg c 5 ≤ k.maxPages →
    let keys := (List.range (arg c 5)).map (fun i => (arg c 1, arg c 2, arg c 4 + i))
    let pdas := (List.range (arg c 5)).map (fun i => argElem c 6 8 i)
    (arg c 3 = 0 → pagesCode w c.mid k keys pdas = rcDone → exec (.kvPages src) s =
      .next (complete (setPages w k.idx (keys.zip pdas)) c rcDone [])) ∧
    (arg c 3 = 0 → pagesCode w c.mid k keys pdas ≠ rcDone → exec (.kvPages src) s = .next (failAddrs w c pdas (pagesCode w c.mid k keys pdas))) ∧
    (arg c 3 ≠ 0 → (kvInUse w (kvHandle k) = false ∨ ∀ e ∈ keys, (pageOf k e.1 e.2.1 e.2.2).fill = 0) → exec (.kvPages src) s =
      .next (complete (clearPages w k.idx keys) c rcDone [])) ∧
    (arg c 3 ≠ 0 → kvInUse w (kvHandle k) = true → (∃ e ∈ keys, 0 < (pageOf k e.1 e.2.1 e.2.2).fill) → exec (.kvPages src) s =
      .next (failWith w c rcConflict))) ∧
  (∀ (s : State) (src : DeskSrc) (c : RunCmd) (k : KvObj) (remote : RemoteRead), Serves s src 0x0307 c →
    let w := leaveSleep s
    kvOf w c.mid (arg c 0) = some k → c.acc = [] → arg c 1 < k.nh → arg c 3 < k.maxPages → pagesCode w c.mid k [] [arg c 4] = rcDone →
    let e := pageOf k (arg c 1) (arg c 2) (arg c 3)
    let n := pageBytes k
    let r := readAny w c.mid e.pda n remote
    let t := writeAny (chargeRead r.1 5 e.pda n (.tier k.half)) 5 c.mid (arg c 4) r.2.1
    let u := if daRange (arg c 4) ≤ 2 then (r.2.2.map (fun l => l - lineOf e.pda + arg c 4)).foldl linePoison t else t
    let v := setPages (chargeWrite u 5 (arg c 4) n (.tier k.half)) k.idx [((arg c 1, arg c 2, arg c 3), arg c 4)]
    let f := FolioId.page k.idx (arg c 1) (arg c 2) (arg c 3)
    (e.fill ≠ 128 → exec (.kvMove src remote) s = .next (failWith w c rcConflict)) ∧
    (e.fill = 128 → pageFetching v f e.pda = false → exec (.kvMove src remote) s = .next (complete v c rcDone [])) ∧
    (e.fill = 128 → pageFetching v f e.pda = true → exec (.kvMove src remote) s =
      .next (runningSet v c (fun r => { r with acc := leBytes 8 e.pda })))) ∧
  (∀ (s : State) (src : DeskSrc) (c : RunCmd) (k : KvObj) (remote : RemoteRead), Serves s src 0x0307 c →
    let w := leaveSleep s
    kvOf w c.mid (arg c 0) = some k → c.acc ≠ [] →
    pageFetching w (.page k.idx (arg c 1) (arg c 2) (arg c 3)) (leVal c.acc) = false → exec (.kvMove src remote) s = .next (complete w c rcDone [])) ∧
  (∀ (s : State) (src : DeskSrc) (c : RunCmd) (k : KvObj), Serves s src 0x0308 c →
    let w := leaveSleep s
    kvOf w c.mid (arg c 0) = some k →
    (kvInUse w (kvHandle k) = false → exec (.kvFree src) s = .next (complete (dropKv w k) c rcDone [])) ∧
    (kvInUse w (kvHandle k) = true → exec (.kvFree src) s = .next (failWith w c rcConflict))) ∧
  (∀ (s : State) (k : KvObj), tget (dropKv s k).kvs k.idx = none ∧ ∀ i, i ≠ k.idx → tget (dropKv s k).kvs i = tget s.kvs i) ∧
  (∀ (s : State) (src : DeskSrc) (c : RunCmd) (k : KvObj), Serves s src 0x030C c →
    let w := leaveSleep s
    kvOf w c.mid (arg c 0) = some k →
    (arg c 1 = 0 → exec (.kvGuards src) s = .next (completeOut w c rcDone (guardBytes k.guard.toGuardRec) [])) ∧
    (arg c 1 = 1 → exec (.kvGuards src) s =
      .next (completeOut (kvMod w k.idx (fun k => { k with guard := guardClear w.now k.guard })) c rcDone (guardBytes (guardShown w.now k.guard)) [])))

/-- PLAIN_GRANULE ADD takes a zeroed home of 1 GiB and REMOVE takes none; both post a Dynamic Capacity event and wait.
The host's acceptance puts an added granule into service and completes DONE; its rejection, or 10 s, returns the home
and completes CONFLICT; a release, or 10 s, lets a granule leave, and the command that removes it then takes its
blocks out, the dirty ones written back, once no request of an earlier cycle waits on it, and completes DONE.
PLAIN_CACHE sets both shares where the top of each tier 1 is free, and the weeding period. PLAIN_FLUSH writes back the
dirty lines of its granules for PF0 or a master with access to each. -/
def Obligations.PlainGranulesAndCache : Prop :=
  (∀ (s : State) (src : DeskSrc) (c : RunCmd) (b : Nat), Serves s src 0x0309 c →
    let w := leaveSleep s
    let h := halfOf (arg c 1)
    let g := arg c 3
    arg c 0 = 0 → granFieldsOk w c = true → tget w.plain.granules g = none → tierClosed w 2 h = false → findRun w 2 h 512 true = some b →
    let p : PlainGran := { half := h, home := b * mib2, owner := arg c 4, tenant := (tenantOf w (arg c 4)).getD 0
                           access := ((accEntries c).take (arg c 5)).map (fun e => (e % 4096, natBit e 12, natBit e 13))
                           protect := natBit (arg c 2) 0, state := .adding c.src w.now }
    let z := chargeZero (dramZero w (b * mib2) gib) (b * mib2) gib
    zeroOpen w (b * mib2) = true → exec (.plainGranule src) s =
      .next (cmdWait (postDcEvent { z with plain := { z.plain with granules := tset z.plain.granules g p } } g true) c.src)) ∧
  (∀ (s : State) (src : DeskSrc) (c : RunCmd) (p : PlainGran), Serves s src 0x0309 c →
    let w := leaveSleep s
    let g := arg c 3
    arg c 0 ≠ 0 → tget w.plain.granules g = some p →
    (p.state = .inService → granInWindow w g = false → p.accessedAt ≠ some w.now → exec (.plainGranule src) s = .next (cmdWait (postDcEvent { w with plain := { w.plain with
      granules := tset w.plain.granules g { p with state := .removing c.src w.now } } } g false) c.src)) ∧
    (leavingFor p c.src = false → p.state ≠ .inService ∨ granInWindow w g = true ∨ p.accessedAt = some w.now → exec (.plainGranule src) s =
      .next (failWith w c rcConflict)) ∧
    (leavingFor p c.src = true → p.state ≠ .leaving c.src w.now →
      w.plain.waits.any (fun x => decide (x.off / gib ≤ g) && decide (g ≤ (x.off + x.len - 1) / gib)) = false → exec (.plainGranule src) s =
      .next (complete (granuleGone (dropGranules w g 1) g p) c rcDone []))) ∧
  (∀ (s : State) (g : Nat) (p : PlainGran) (src : DeskSrc) (since : Nat), mailUp s = true → tget s.plain.granules g = some p →
    p.state = .adding src since →
    (s.now ≤ since + 160000000000 → exec (.addDynamicCapacityResponse g true) s = .next (mailAnswer (completeSrc { s with
      plain := { s.plain with granules := tset s.plain.granules g { p with state := .inService, tick := some s.now } }
      host := { s.host with dcExtents := s.host.dcExtents ++ [g] } } src rcDone []) cxlSuccess [])) ∧
    exec (.addDynamicCapacityResponse g false) s = .next (mailAnswer (completeSrc (granuleGone s g p) src rcConflict []) cxlSuccess [])) ∧
  (∀ (s : State) (g : Nat) (p : PlainGran) (src : DeskSrc) (since : Nat), mailUp s = true → tget s.plain.granules g = some p →
    p.state = .removing src since → exec (.releaseDynamicCapacity g) s = .next (mailAnswer { s with
      plain := { s.plain with granules := tset s.plain.granules g { p with state := .leaving src s.now } }
      cp := { s.cp with running := s.cp.running.map (fun c => if c.src = src then { c with waiting := false } else c) } } cxlSuccess [])) ∧
  (∀ (s : State) (g : Nat) (p : PlainGran) (src : DeskSrc) (since : Nat), tget s.plain.granules g = some p → since + 160000000000 ≤ s.now →
    (p.state = .adding src since → exec (.dynamicCapacityTimeout g) s = .next (completeSrc (granuleGone s g p) src rcConflict [])) ∧
    (p.state = .removing src since → exec (.dynamicCapacityTimeout g) s = .next { s with
      plain := { s.plain with granules := tset s.plain.granules g { p with state := .leaving src s.now } }
      cp := { s.cp with running := s.cp.running.map (fun c => if c.src = src then { c with waiting := false } else c) } })) ∧
  (∀ (s : State) (src : DeskSrc) (c : RunCmd), Serves s src 0x030A c →
    let w := leaveSleep s
    (topFree w .h0 (arg c 0) = true → topFree w .h1 (arg c 1) = true →
      let t := runWaits (setShare (setShare w .h0 (arg c 0)) .h1 (arg c 1))
      exec (.plainCache src) s = .next (complete { t with plain := { t.plain with period := arg c 2 } } c rcDone [])) ∧
    (topFree w .h0 (arg c 0) = false ∨ topFree w .h1 (arg c 1) = false → exec (.plainCache src) s = .next (failWith w c rcNoSpace))) ∧
  (∀ (s : State) (src : DeskSrc) (c : RunCmd), Serves s src 0x030B c →
    let w := leaveSleep s
    c.mid = 1 ∨ (∀ i, i < arg c 1 → ∃ p, granAt w ((arg c 0 + i) * gib) = some p ∧ ((granAccess p c.mid).1 = true ∨ (granAccess p c.mid).2 = true)) →
    exec (.plainFlush src) s = .next (complete (flushGranules w (arg c 0) (arg c 1)) c rcDone []))

/-- TENSOR_ACCESSION that passes its checks joins the queue, drops reports of its TAG and answers how many requests
are ahead; with 16 waiting behind the running one, none passes. TENSOR_STATUS tells the accession's or the tensor's
state, TENSOR_GUARDS the guard record, which OP 1 clears, TENSOR_ORIGIN sets declared copies, and TENSOR_UNLOAD drops
the tensor. ACCESSION_START runs the first request: its coded form is written, or its destinations are zeroed and it
is FAILED. ACCESSION_END loads a tensor whose digest and signature pass, else it is FAILED. -/
def Obligations.AccessionCommands : Prop :=
  (∀ (s w : State) (src : DeskSrc) (c : RunCmd) (r : AccReq), Serves s src 0x0401 c → w = leaveSleep s → r = accRequest c →
    let keep := fun x : AccReport => !(x.master == c.mid && x.tag == r.params.tag)
    (accCode w c = rcAccepted → exec (.tensorAccession src) s = .next (complete { w with acc := { w.acc with
      queue := w.acc.queue ++ [r], failed := w.acc.failed.filter keep, done := w.acc.done.filter keep } } c rcAccepted
      [.u 4 r.params.tag, .u 1 ((if w.acc.running.isSome then 1 else 0) + w.acc.queue.length)])) ∧
    (accCode w c ≠ rcAccepted → exec (.tensorAccession src) s =
      .next (failAddrs w c ([r.src, r.pbase, r.cbase] ++ (if r.params.ntab = 0 then [] else [r.tbase])) (accCode w c))) ∧
    (w.acc.running ≠ none → 16 ≤ w.acc.queue.countP (fun x => x.window.isNone) → accCode w c ≠ rcAccepted)) ∧
  (∀ (s w : State) (src : DeskSrc) (c : RunCmd), Serves s src 0x0402 c → w = leaveSleep s → w.acc.running = none →
    (w.acc.queue.any (reqIs c.mid (arg c 0)) = true → exec (.tensorStatus src) s =
      .next (complete w c rcDone (statusVals w 1 0 1 { master := c.mid, tag := arg c 0 } (tensorByTag w c.mid (arg c 0)) (zeros 32)))) ∧
    (∀ t, w.acc.queue.any (reqIs c.mid (arg c 0)) = false → tensorByTag w c.mid (arg c 0) = some t →
      let rep := (w.acc.done.find? (fun x => x.master == c.mid && x.tag == arg c 0)).getD { master := c.mid, tag := arg c 0, nt := nTiles t.params }
      (t.damaged = false → exec (.tensorStatus src) s = .next (complete w c rcDone (statusVals w 3 0 0 rep (some t) t.digest))) ∧
      (t.damaged = true → exec (.tensorStatus src) s = .next (complete w c rcDone (statusVals w 4 0 rcPoisoned rep (some t) t.digest)))) ∧
    (∀ rep, w.acc.queue.any (reqIs c.mid (arg c 0)) = false → tensorByTag w c.mid (arg c 0) = none →
      w.acc.failed.find? (fun x => x.master == c.mid && x.tag == arg c 0) = some rep →
      exec (.tensorStatus src) s = .next (complete w c rcDone (statusVals w 5 0 rep.rc rep none rep.digest)))) ∧
  (∀ (s w : State) (src : DeskSrc) (c : RunCmd) (t : Tensor), Serves s src 0x0403 c → w = leaveSleep s → tensorByTag w c.mid (arg c 0) = some t →
    (boundBy w t.id = 0 → inAccession w c.mid t.params.tag = false → windowNames w t = false →
      exec (.tensorUnload src) s = .next (complete (unloadTensor w t) c rcDone [])) ∧
    (0 < boundBy w t.id ∨ inAccession w c.mid t.params.tag = true ∨ windowNames w t = true →
      exec (.tensorUnload src) s = .next (failWith w c rcConflict)) ∧
    tget (unloadTensor w t).tensors t.id = none) ∧
  (∀ (s w : State) (src : DeskSrc) (c : RunCmd) (t : Tensor), Serves s src 0x0408 c → w = leaveSleep s → tensorByTag w c.mid (arg c 0) = some t →
    (arg c 1 ≠ 1 → exec (.tensorGuards src) s = .next (completeOut w c rcDone (guardBytes t.guard.toGuardRec) [])) ∧
    (arg c 1 = 1 → exec (.tensorGuards src) s = .next (completeOut { w with
      tensors := tmod w.tensors t.id (fun t => { t with guard := guardClear w.now t.guard }) } c rcDone
        (guardBytes (guardShown w.now t.guard)) [])) ∧
    (let g := guardShown w.now (guardClear w.now t.guard)
     g.osat = 0 ∧ g.wsat = 0 ∧ g.ononfin = 0 ∧ g.expStall = 0 ∧ g.wsatPos = (guardShown w.now t.guard).wsatPos ∧
     g.lastProbe = (guardShown w.now t.guard).lastProbe)) ∧
  (∀ (s w : State) (src : DeskSrc) (c : RunCmd) (t : Tensor), Serves s src 0x0409 c → w = leaveSleep s → tensorByTag w c.mid (arg c 0) = some t →
    originCode w t (arg c 1) (arg c 2) = rcDone → originCode w t (arg c 3) (arg c 4) = rcDone →
    exec (.tensorOrigin src) s = .next (complete { w with tensors := tmod w.tensors t.id (fun t => { t with
      origin := { repP := arg c 1, repC := arg c 2, orgP := arg c 3, orgC := arg c 4 } }) } c rcDone [])) ∧
  (∀ (s : State) (t : Tensor), originCode s t 0 0 = rcDone ∧ (∀ p, p ≠ 0 → originCode s t p 0 = rcBadField) ∧
    (∀ p, p ≠ 0 → originCode s t 0 p = rcBadField)) ∧
  (∀ (s w : State) (remote : RemoteRead) (r : AccReq) (q : List AccReq) (img : Bytes) (bad : List Nat), s.acc.running = none → s.acc.queue = r :: q →
    r.window = none → r.coded = false → s.ras.moduleFault = false → accOpen s r = true →
    readSource (chargeSource { s with acc := { s.acc with queue := q } } r) r remote = (w, img, bad) →
    (∀ rc tile, runEncode r.params img.toArray bad r.src = .failed rc tile → exec (.accessionStart remote) s =
      .next (accFail w r { master := r.master, tag := r.params.tag, nt := nTiles r.params, failTile := tile } rc)) ∧
    (∀ tables tiles round clamp, runEncode r.params img.toArray bad r.src = .coded tables tiles round clamp →
      let v := writeAll w r.master (codedWrites r tables tiles)
      let rep : AccReport := { master := r.master, tag := r.params.tag, nt := nTiles r.params, tilesDone := tiles.length
                               ingestRound := round, ingestClamp := clamp, steps := stepCounts tiles
                               wsatPos := (tiles.map (·.clamps)).foldl (· + ·) 0, digest := tensorDigest r.paramBytes tables tiles }
      exec (.accessionStart remote) s = .next { v with acc := { v.acc with running := some (r, rep) } })) ∧
  (∀ (s : State) (r : AccReq) (rep : AccReport), s.acc.running = some (r, rep) → s.ras.moduleFault = false →
    (∀ e, r.expect = some e → e ≠ rep.digest → exec .accessionEnd s = .next (accFail s r rep rcHashMismatch)) ∧
    (r.expect = none ∨ r.expect = some rep.digest → r.signed = true → accSigned s r rep.digest = false →
      exec .accessionEnd s = .next (accFail s r rep rcSignatureFail)) ∧
    (r.expect = none ∨ r.expect = some rep.digest → r.signed = false ∨ accSigned s r rep.digest = true → r.window = none → s.acc.held = [] →
      tensorByTag s r.master r.params.tag = none → exec .accessionEnd s = .next { s with
        tensors := tset s.tensors s.nextTensor { id := s.nextTensor, master := r.master, params := r.params, pbase := r.pbase, cbase := r.cbase,
                                                 tbase := r.tbase, digest := rep.digest, guard := { wsatPos := sat32 rep.wsatPos }, window := none }
        nextTensor := s.nextTensor + 1, acc := { s.acc with running := none, held := [], done := s.acc.done ++ [{ rep with rc := 0 }] } }))

/-- WINDOW_DECLARE of a window that passes R568 takes the lowest free number. WINDOW_SEAL of a FILLING window puts its
encoding on the list; REOPEN of a READY or FAILED window empties its staging and its coverage; CLOSE of a window that
is not encoding drops it; each is CONFLICT otherwise. A read of a window by a master with access carries the window's
bytes, as poison where no coded form exists. -/
def Obligations.WeightWindows : Prop :=
  (∀ (s w : State) (src : DeskSrc) (c : RunCmd) (x : WeightWin) (n : Nat), Serves s src 0x0404 c → w = leaveSleep s → windowOf w c = .ok x →
    windowLen x.kind x.params ≤ x.count * gib → windowAccess w c.mid x.g x.count x.kind = true →
    (∀ i g, i < x.count → tget w.plain.granules (x.g + i) = some g → g.protect = false) →
    ((∀ i, i < x.count → granInWindow w (x.g + i) = false) → leastFrom (fun n => !thas w.plain.windows n) 64 0 = some n →
      let v := runWaits (dropGranules w x.g x.count)
      exec (.windowDeclare src) s =
        .next (complete { v with plain := { v.plain with windows := tset v.plain.windows n x } } c rcDone [.u 2 n])) ∧
    ((∃ i, i < x.count ∧ granInWindow w (x.g + i) = true) → exec (.windowDeclare src) s = .next (failWith w c rcConflict))) ∧
  (∀ (s w : State) (src : DeskSrc) (c : RunCmd) (x : WeightWin), Serves s src 0x0405 c → w = leaveSleep s →
    tget w.plain.windows (arg c 0) = some x → x.master = c.mid → x.kind = .ingest →
    (x.state = .filling → exec (.windowSeal src) s = .next (complete (sealWindow w (arg c 0) x) c rcDone [])) ∧
    (x.state ≠ .filling → exec (.windowSeal src) s = .next (failWith w c rcConflict))) ∧
  (∀ (s w : State) (src : DeskSrc) (c : RunCmd) (x : WeightWin), Serves s src 0x0406 c → w = leaveSleep s →
    tget w.plain.windows (arg c 0) = some x → x.master = c.mid → x.kind = .ingest →
    let v := emptyStaging w x
    (x.state = .ready ∨ x.state = .failed → exec (.windowReopen src) s = .next (complete { v with plain := { v.plain with
      windows := tmod v.plain.windows (arg c 0) (fun w => { w with state := .filling, covered := [], part := [] }) } } c rcDone [])) ∧
    (x.state = .filling ∨ x.state = .encoding → exec (.windowReopen src) s = .next (failWith w c rcConflict))) ∧
  (∀ (s w : State) (src : DeskSrc) (c : RunCmd) (x : WeightWin), Serves s src 0x0407 c → w = leaveSleep s →
    tget w.plain.windows (arg c 0) = some x → x.master = c.mid →
    (x.state = .encoding → exec (.windowClose src) s = .next (failWith w c rcConflict)) ∧
    (x.state ≠ .encoding → exec (.windowClose src) s = .next (complete (closeWindow w (arg c 0) x) c rcDone [])) ∧
    tget (closeWindow w (arg c 0) x).plain.windows (arg c 0) = none) ∧
  (∀ (s w t : State) (mid : Nat) (path : PlainPath) (off n i : Nat) (x : WeightWin) (b : Bytes) (bad : Bool), tierServed s = true →
    w = leaveSleep s → (windowAt s off).isSome = true → 0 < n →
    let v := granTouch w off n
    let r : CacheWait := { mid := mid, dest := (pathTo path mid).1, die := replyDie w (pathTo path mid).1, off := off, len := n, write := none }
    (plainAllowed w mid off n false = true → behindWait v off n false = false → plainOpen v r = true → windowAt v off = some (i, x) →
      n ≤ (x.g + x.count) * gib - off → windowBytes v x off n = (t, b, bad) → exec (.weightWindowRead mid path off n) s =
      .next (replyRead (chargeHostTx (charges t (tierCross x.half r.die) 2 (roundUp n 64)) 2 mid n) r.dest off b
        ((if bad then (allLines off n).map (· + off / 64) else []).map (· - off / 64)) 0)) ∧
    (plainAllowed w mid off n false = false → exec (.weightWindowRead mid path off n) s = .next (replyRead
      (logRefused w mid (daMk 8 off) (pathTo path mid).2 rcNotPermitted) (pathTo path mid).1 off (List.replicate n 0xFF) (allLines off n) 0x20))) ∧
  (∀ (s : State) (x : WeightWin) (off n : Nat), windowForm s x = none → windowBytes s x off n = (s, zeros n, true))

/-- A plain read or write by a master with access is served or waits on a block; one without access is answered with
ones and poison, or dropped, and logged. A fill puts a line into its FILLING block; an eviction writes its block home
and frees the way; a sweep ages every VALID way, writes back those that reach 8 and evicts those at 15; a bindery
entry retires 2 us after its allocation. -/
def Obligations.PlainRequests : Prop :=
  (∀ (s w : State) (mid : Nat) (path : PlainPath) (off n : Nat), tierServed s = true → 0 < n → w = leaveSleep s →
    let v := granTouch w off n
    let r : CacheWait := { mid := mid, dest := (pathTo path mid).1, die := replyDie w (pathTo path mid).1, off := off, len := n, write := none }
    (∀ t b bad, plainAllowed w mid off n false = true → behindWait v off n false = false → plainOpen v r = true →
      plainGet r.die false [] n v off n = (t, some (b, bad)) →
      exec (.plainRead mid path off n) s = .next (replyRead (chargeHostTx t 2 mid n) r.dest off b (bad.map (· - off / 64)) 0)) ∧
    (∀ t u l, plainAllowed w mid off n false = true → behindWait v off n false = false → plainOpen v r = true →
      plainGet r.die false [] n v off n = (t, none) → windowForms n t off n = (u, l) →
      exec (.plainRead mid path off n) s = .next (parkWait u { stalledNow v t r with forms := l })) ∧
    (∀ u l, plainAllowed w mid off n false = true → behindWait v off n false = true ∨ plainOpen v r = false → windowForms n v off n = (u, l) →
      exec (.plainRead mid path off n) s = .next (parkWait u { r with forms := l })) ∧
    (plainAllowed w mid off n false = false → exec (.plainRead mid path off n) s = .next (replyRead
      (logRefused w mid (daMk 8 off) (pathTo path mid).2 rcNotPermitted) (pathTo path mid).1 off (List.replicate n 0xFF) (allLines off n) 0x20))) ∧
  (∀ (s w : State) (mid : Nat) (path : PlainPath) (off : Nat) (b : Bytes), tierServed s = true → b ≠ [] →
    w = leaveSleep (chargeHostRx s 2 mid b.length) →
    let v := granTouch w off b.length
    let r : CacheWait := { mid := mid, dest := (pathTo path mid).1, die := replyDie w (pathTo path mid).1, off := off, len := b.length, write := some b }
    (∀ t, plainAllowed w mid off b.length true = true → anyFenced v = false → behindWait v off b.length true = false → plainOpen v r = true →
      plainSet r.die false b.length v mid off b = (t, none) → exec (.plainWrite mid path off b) s = .next (replyWrite t r.dest 0)) ∧
    (∀ t o l, plainAllowed w mid off b.length true = true → anyFenced v = false → behindWait v off b.length true = false → plainOpen v r = true →
      plainSet r.die false b.length v mid off b = (t, some (o, l)) → exec (.plainWrite mid path off b) s =
      .next (parkWait t { stalledNow v t r with off := o, len := l.length, write := some l })) ∧
    (plainAllowed w mid off b.length true = true → anyFenced v = false → behindWait v off b.length true = true ∨ plainOpen v r = false →
      exec (.plainWrite mid path off b) s = .next (parkWait v r)) ∧
    (plainAllowed w mid off b.length true = true → anyFenced v = true →
      exec (.plainWrite mid path off b) s = .next (replyWrite v r.dest rcPoisoned)) ∧
    (plainAllowed w mid off b.length true = false → exec (.plainWrite mid path off b) s =
      .next (replyWrite (logRefused w mid (daMk 8 off) (pathTo path mid).2 rcNotPermitted) (pathTo path mid).1 0x20))) ∧
  (∀ (s : State) (d : Die) (p : PlainGran) (off : Nat), tget s.plain.granules (off / gib) = some p → off % 64 = 0 → windowAt s off = none →
    entryOf s p.half (daMk 8 off) = none → cacheable s p off = false → (s.halves.get p.half).fenced = false →
    plainGet d false [] 64 s off 64 =
      (let r := plainLine (chargeRead s 2 (homeOf s off) 64 d) p off
       (r.1, some (((lineOver r.1 p.half off r.2.1).drop 0).take 64 ++ [], (if r.2.2 then [off / 64] else []) ++ [])))) ∧
  (∀ (s : State) (h : Half) (set way line : Nat), (wayAt s h (set, way)).state = .filling → line < 64 →
    (wayAt s h (set, way)).valid.getLsbD line = false → fillOpen s h (wayAt s h (set, way)) line = true →
    let w := wayAt s h (set, way)
    let home := homeOf s (w.block * 4096 + 64 * line)
    let cls := if w.demand = some line then 2 else 5
    let t := physRead (chargeWrite (chargeRead s cls home 64 (.tier h)) cls (t1Of h) 64 (.tier h)) home 64 0
    exec (.cacheLineFill h set way line) s = .next (runWaits (putWay t.1 h (set, way) (waySettle { w with
      data := cellsPut w.data (64 * line) t.2.1, valid := bitSet w.valid line true, poison := bitSet w.poison line (!t.2.2.isEmpty) })))) ∧
  (∀ (s : State) (h : Half) (set way : Nat), (wayAt s h (set, way)).state = .evicting → evictOpen s h (wayAt s h (set, way)) = true →
    exec (.cacheEvictComplete h set way) s = .next (runWaits (dropWay (writeBackWay s h (set, way)) h (set, way)))) ∧
  (∀ (s : State), tierServed s = true → s.plain.lastSweep + usT (64 * 2 ^ s.plain.period) ≤ s.now →
    let t := (waysInOrder s .h0).foldl (fun s k => sweepWay s .h0 k) s
    let u := (waysInOrder t .h1).foldl (fun s k => sweepWay s .h1 k) t
    exec .weedingSweep s = .next { u with plain := { u.plain with lastSweep := u.now } }) ∧
  (∀ (s : State) (h : Half) (k : Nat × Nat) (w : Way), wayAt s h k = w → w.state = .valid →
    (w.age < 7 → sweepWay s h k = putWay s h k { w with age := w.age + 1 }) ∧
    (7 ≤ w.age → w.age < 14 → w.dirty ≠ 0 → evictOpen (putWay s h k { w with age := w.age + 1 }) h w = true → sweepWay s h k = writeBackWay (putWay s h k { w with age := w.age + 1 }) h k)) ∧
  (∀ (s : State) (h : Half) (line : Nat) (e : BinderyEntry), entryOf s h line = some e → e.since + 32000 ≤ s.now →
    exec (.binderyTimeout h line) s = .next (retireEntry s h e))

/-- VOLUME_LOAD of an image that passes R225 places the volume and answers its reserve and pins where its signature
verifies, else SIGNATURE_FAIL; a malformed image is BAD_FIELD. VOLUME_UNLOAD of a volume that no call slip uses drops
it, else CONFLICT. VOLUME_STATUS counts. QUEUE_CREATE takes the lowest free number, QUEUE_DESTROY drops an idle queue,
else CONFLICT. A runtime access within the sender's regions reads or writes tier memory; one refused is answered with
poison and the code, and a refused write does nothing. -/
def Obligations.VolumesAndQueues : Prop :=
  (∀ (s w t : State) (src : DeskSrc) (c : RunCmd) (remote : RemoteRead) (img : Bytes) (bad : List Nat), Serves s src 0x0501 c →
    w = leaveSleep s → 192 ≤ arg c 1 → deskCode w c.mid (arg c 0) (arg c 1) false = rcDone → touchesProtected w (arg c 0) (arg c 1) = false → readAny w c.mid (arg c 0) (arg c 1) remote = (t, img, bad) →
    rtPoison bad (arg c 0) (arg c 1) = false →
    (∀ v, parseVolume t c.mid (img.take (arg c 1 - 64)) = some v → volumeOf t c.mid v.volumeId = none →
      (∀ x ∈ v.slots, inAccession t c.mid x.params.tag = false ∧ (tget t.tensors x.tensor).map (·.digest) = some x.digest) → t.volumes.length < 256 →
      v.vuAlloc.h0 ≤ 2 ^ 25 → v.vuAlloc.h1 ≤ 2 ^ 25 →
      let pins := sliceSums v (pinTiles t v)
      let reserve := loadReserve t v (pinTiles t v)
      (∀ m, m < 128 → pinGranules t m + pins.getD m 0 + reserve.getD m 0 ≤ 7168) →
      exec (.volumeLoad src remote) s = .next (if volumeSigned t c img then complete { t with
          volumes := tset t.volumes t.nextVolume { v with key := t.nextVolume, reserve := reserve, pinGranules := pins }, nextVolume := t.nextVolume + 1 } c rcDone
          [.u 4 v.volumeId, .u 2 (listMax reserve), .u 2 (listMax pins)] else failWith t c rcSignatureFail)) ∧
    (parseVolume t c.mid (img.take (arg c 1 - 64)) = none → exec (.volumeLoad src remote) s =
      .next (failWith t c (if volumeSigned t c img then rcBadField else rcSignatureFail)))) ∧
  (∀ (s w : State) (src : DeskSrc) (c : RunCmd) (v : Volume), Serves s src 0x0502 c → w = leaveSleep s → volumeOf w c.mid (arg c 0) = some v →
    (volumeSlips w v.key = (0, 0) → exec (.volumeUnload src) s =
      .next (complete (dropPins { w with volumes := tdel w.volumes v.key } v) c rcDone [])) ∧
    (volumeSlips w v.key ≠ (0, 0) → exec (.volumeUnload src) s = .next (failWith w c rcConflict))) ∧
  (∀ (s w : State) (src : DeskSrc) (c : RunCmd) (v : Volume), Serves s src 0x0505 c → w = leaveSleep s → volumeOf w c.mid (arg c 0) = some v →
    exec (.volumeStatus src) s = .next (complete w c rcDone [.u 2 (volumeSlips w v.key).1, .u 2 (volumeSlips w v.key).2, .u 4 v.steps.length
      , .u 8 v.tokens, .u 4 v.split, .u 4 v.unsplit])) ∧
  (∀ (s w : State) (src : DeskSrc) (c : RunCmd), Serves s src 0x0503 c → w = leaveSleep s →
    (∀ n, (arg c 0 = 1 ∨ arg c 0 = 2) → tenantOf w (arg c 0) = tenantOf w c.mid → leastFrom (fun n => !thas w.queues n) 256 0 = some n →
      exec (.queueCreate src) s = .next (complete { w with queues := tset w.queues n { master := c.mid, poster := arg c 0, window := none } } c rcDone
        [.u 2 n])) ∧
    (tenantOf w (arg c 0) ≠ tenantOf w c.mid → exec (.queueCreate src) s = .next (failWith w c rcBadField)) ∧
    (canPost (arg c 0) = true → tenantOf w (arg c 0) = tenantOf w c.mid → leastFrom (fun n => !thas w.queues n) 256 0 = none →
      exec (.queueCreate src) s = .next (failWith w c rcNoSpace))) ∧
  (∀ (s w : State) (src : DeskSrc) (c : RunCmd) (q : Queue), Serves s src 0x0504 c → w = leaveSleep s → tget w.queues (arg c 0) = some q → q.master = c.mid →
    (queueBusy w (arg c 0) q = false → exec (.queueDestroy src) s = .next (complete { w with queues := tdel w.queues (arg c 0) } c rcDone [])) ∧
    (queueBusy w (arg c 0) q = true → exec (.queueDestroy src) s = .next (failWith w c rcConflict))) ∧
  (∀ (s : State) (mid da n : Nat) (remote : RemoteRead), tierServed s = true → 0 < n → daRange da ≤ 2 →
    runtimeOpen s 1 mid da false = true →
    (addrCode s mid da n false = rcDone → anyFenced s = false →
      ∀ (t : State) (b : Bytes) (bad : List Nat), rtRead (chargeRead (leaveSleep s) 1 da n (masterDie s mid)) da n 0 = (t, b, bad) →
      exec (.runtimeAccess mid da (.read n) remote) s =
        .next (emit t (.runtimeData mid da b (rtPoison bad da n) (if rtPoison bad da n then rcPoisoned else rcDone)))) ∧
    (addrCode s mid da n false = rcNotPermitted →
      exec (.runtimeAccess mid da (.read n) remote) s = .next (emit s (.runtimeData mid da (zeros n) true rcNotPermitted)))) ∧
  (∀ (s : State) (mid da : Nat) (b : Bytes) (remote : RemoteRead), tierServed s = true → b ≠ [] → daRange da ≤ 2 → runtimeOpen s 1 mid da true = true →
    (addrCode s mid da b.length true = rcDone → anyFenced s = false → exec (.runtimeAccess mid da (.write b) remote) s =
      .next (rtWrite (chargeWrite (leaveSleep s) 1 da b.length (masterDie s mid)) mid da b)) ∧
    (addrCode s mid da b.length true = rcNotPermitted → exec (.runtimeAccess mid da (.write b) remote) s = .next s))

/-- A slot write stores its bytes. A doorbell with the next sequence takes the slip: one that fails a check of R248 is
refused with a record, one that passes waits, and a HALT of a waiting slip ends it HALTED. Any other doorbell is
counted and ignored, as is one with 16 waiting. The first queue from the pointer whose head fits gives it a context. A
context past its deadline is LATE with one log record. A stopped context with no step under way writes its record and
is freed. -/
def Obligations.CallSlips : Prop :=
  (∀ (s : State) (n slot off : Nat) (b : Bytes), slot < 16 → off + b.length ≤ 64 → b ≠ [] → exec (.queueSlotWrite n slot off b) s = .next { s with
    queues := tmod s.queues n (fun q => { q with slots := tset q.slots slot (place (tgetD q.slots slot []) off b) }) }) ∧
  (∀ (s : State) (n : Nat) (full : Bool) (value : BitVec 64) (consumed : HostRead) (input : RemoteRead) (q : Queue), tget s.queues n = some q →
    (full = false ∨ value.toNat ≠ q.taken + 1 → exec (.queDoorbell n full value consumed input) s = .next { s with
      queues := tmod s.queues n (fun q => { q with ignored := sat16 (q.ignored + 1), bad := stickySet s.now }) }) ∧
    (full = true → value.toNat = q.taken + 1 → 16 ≤ q.waiting.length → exec (.queDoorbell n full value consumed input) s = .next { s with
      queues := tmod s.queues n (fun q => { q with ignored := sat16 (q.ignored + 1), full := stickySet s.now }) })) ∧
  (∀ (s w : State) (n : Nat) (value : BitVec 64) (consumed : HostRead) (input : RemoteRead) (q : Queue) (raw : Bytes) (sl : Slip), tget s.queues n = some q →
    value.toNat = q.taken + 1 → q.waiting.length < 16 → readMay s q.poster = true → s.ras.moduleFault = false →
    raw = fit 64 (tgetD q.slots (value.toNat % 16) []) → sl = parseSlip raw →
    w = { s with queues := tmod s.queues n (fun q => { q with taken := value.toNat }) } →
    (∀ (t : State) (v : Volume) (b : Bytes) (poison : Bool), sl.halt = false → volumeOf w q.master sl.volumeId = some v →
      takeBlock w q.master sl.input v false input = (t, some (b, poison)) →
      (takeCode t q raw sl (some v) (some (b, poison)) ≠ rcDone → exec (.queDoorbell n true value consumed input) s =
        .next (endUnrun t q sl (devNs t) { rc := takeCode t q raw sl (some v) (some (b, poison)), ending := .refused })) ∧
      (takeCode t q raw sl (some v) (some (b, poison)) = rcDone → v.haltPolicy = true → lateAtTake t sl = true →
        exec (.queDoorbell n true value consumed input) s =
          .next (endUnrun t q sl (devNs t) { rc := rcDone, ending := .deadline, late := true })) ∧
      (takeCode t q raw sl (some v) (some (b, poison)) = rcDone → v.haltPolicy = false → loopOf v.steps = none →
        exec (.queDoorbell n true value consumed input) s =
          .next (queueSlip t n { slip := sl, block := parseInput v.nkv b, volume := v.key, queue := n, poster := q.poster, takenAt := devNs t
                                 consumed := 0, reserve := slipReserve t v (parseInput v.nkv b).kv }))) ∧
    (∀ x, sl.halt = true → anyFenced w = false → slipReservedOk raw = true → sl.result % 64 = 0 → sl.mid = q.master → sl.targetSeq < sl.seq →
      q.waiting.find? (fun t => t.slip.seq == sl.targetSeq) = some x →
      let u := { w with queues := tmod w.queues n (fun q => { q with waiting := q.waiting.filter (fun t => t.slip.seq != sl.targetSeq) }) }
      let y : Verdict := { rc := rcDone, ending := .halted, late := x.late || lateAtTake u x.slip }
      exec (.queDoorbell n true value consumed input) s = .next (haltRecord
        (if x.late then recordWrite u q.poster x.slip.result x.slip.seq x.takenAt y else endUnrun u q x.slip x.takenAt y) q sl rcDone))) ∧
  (∀ (t : Taken) (a b : Nat), newCtx t a b =
    { job := t, pc := t.slip.entry, token := t.block.startToken, vuBase := ⟨a, b⟩, consumed := t.consumed, late := t.late, lateLogged := t.late }) ∧
  (∀ (t : State) (n : Nat) (x : Taken), queueSlip t n x = { t with
    power := { t.power with idleSince := t.now, noSlipSince := t.now }
    queues := tmod t.queues n (fun q => { q with waiting := q.waiting ++ [x] }) }) ∧
  (∀ (s : State) (k m n a b : Nat) (q : Queue) (t : Taken) (r : List Taken) (v : Volume),
    leastFrom (fun k => canAdmit s ((s.eng.admitPointer + k) % 256)) 256 0 = some k → m = (s.eng.admitPointer + k) % 256 → tget s.queues m = some q →
    q.waiting = t :: r → tget s.volumes t.volume = some v → placeRun s v t.reserve = some (n, a, b) →
    exec .callSlipAdmit s = .next (startWake (sendStarts { s with
      queues := tmod s.queues m (fun q => { q with waiting := q.waiting.drop 1 })
      eng := { s.eng with ctxs := tset s.eng.ctxs n (newCtx t a b)
                          admitPointer := (s.eng.admitPointer + 1) % 256 } } n t v))) ∧
  (∀ (s w : State) (n : Nat) (x : Ctx) (v : Volume), w = lateWaiting s → tget w.eng.ctxs n = some x → ctxVol w x = some v → v.haltPolicy = false →
    (isLate w x = true → exec (.deadlinePass n) s = .next (ctxMod
      (if x.lateLogged then w else logLate w x.job.slip.mid x.job.slip.volumeId x.job.slip.seq (deadlineOf w x)) n
      (fun x => { x with late := true, lateLogged := true }))) ∧
    (isLate w x = false → exec (.deadlinePass n) s = .next w)) ∧
  (∀ (s w : State) (n : Nat) (t : Taken) (v : Volume), t.late = false → lateAtTake s t.slip = true →
    w = logLate s t.slip.mid t.slip.volumeId t.slip.seq t.slip.deadline → tget w.volumes t.volume = some v →
    (v.haltPolicy = true → lateTaken n s t = recordWrite { w with queues := tmod w.queues n (fun q => { q with waiting := q.waiting.filter (· != t) }) }
      t.poster t.slip.result t.slip.seq t.takenAt { rc := rcDone, ending := .deadline, late := true }) ∧
    (v.haltPolicy = false → lateTaken n s t = { w with queues := tmod w.queues n (fun q => { q with
      waiting := q.waiting.map (fun y => if y = t then { y with late := true } else y) }) })) ∧
  (∀ (s : State) (n : Nat) (x : Ctx) (e : EndCode), tget s.eng.ctxs n = some x → x.stop = some e → x.pending = [] →
    s.ras.moduleFault = false → isLate s x = false → capOpen s 1 (if x.lead.isSome then [] else hostRes s x.job.poster true) = true →
    exec (.callSlipEnd n) s = .next (freeCtx (ctxRecord (endHalts s x (if e = .halted then rcDone else rcConflict)) x e) n))

/-- A released ELEMWISE, RMSNORM, LAYERNORM, SOFTMAX, ROPE, ACT or MERGE step on inputs that are not poison writes the
rows that its function gives to its outputs and completes DONE; TOPK writes the best pairs in rank order. A poisoned
input poisons the outputs, an address that R738 refuses ends the step without outputs, and while the engine clocks do
not run the step wakes the device. A NaN operand of a sum or a product gives the canonical NaN. -/
def Obligations.VectorSteps : Prop :=
  (∀ (s t : State) (n : Nat) (v : Volume) (x : Ctx) (st : VStep) (ins : List VecIn), clocksRun s = true → readVecs s n v (stepInputs st) = (t, ins, false) →
    refusedAddr s v x st = none → homesFree s v x st.opc = true →
    (Released s n opElem v x st →
      exec (.elemwise n) s = .next (doneStep (writeRows t n v x st [(st.opc, [elemRows (stFunc st) st.param ins])]) n x rcDone)) ∧
    (Released s n opRms v x st → exec (.rmsnorm n) s = .next (doneStep (writeRows t n v x st
      [(st.opc, (rowsOf st (vin ins 0)).map (rmsRow st.param (vecAll (vin ins 1))))]) n x rcDone)) ∧
    (Released s n opLayer v x st → exec (.layernorm n) s = .next (doneStep (writeRows t n v x st
      [(st.opc, (rowsOf st (vin ins 0)).map (layerRow st.param (vecAll (vin ins 1)) (vecAll (vin ins 2))))]) n x rcDone)) ∧
    (Released s n opSoftmax v x st → homesFree s v x st.opd = true →
      let rs := (rowsOf st (vin ins 0)).map (softRow st.param)
      exec (.softmax n) s = .next (doneStep (writeRows t n v x st [(st.opc, rs.map (·.1)), (st.opd, [rs.map (·.2)])]) n x rcDone)) ∧
    (Released s n opRope v x st → exec (.rope n) s = .next (doneStep (writeRows t n v x st [(st.opc, (rowsOf st (vin ins 0)).map
      (ropeRow (st.flags.getLsbD 1) ((x.job.block.position + x.iter) % 2 ^ 32) (vecAll (vin ins 1)).toArray))]) n x rcDone)) ∧
    (Released s n opAct v x st → exec (.act n) s = .next (doneStep (writeRows t n v x st
      [(st.opc, [actRows (stFunc st) (st.flags.getLsbD 2) ins])]) n x rcDone)) ∧
    (Released s n opMerge v x st → exec (.merge n) s = .next (doneStep (writeRows t n v x st
      [(st.opc, [mergeRows st.batch ins])]) n x rcDone)) ∧
    (Released s n opTopk v x st →
      let pairs := ((vecAll (vin ins 0)).zipIdx).map (fun p => (if isNanW p.1 then nanWord else p.1, (st.param + p.2) % 2 ^ 32))
      exec (.topk n) s = .next (doneStep (putOper t n v x st.opc
        [(0, candBytes ((topCands st.opd pairs).take (operOf v st.opc).length))]) n x rcDone))) ∧
  (∀ (s t : State) (n : Nat) (v : Volume) (x : Ctx) (st : VStep) (ins : List VecIn), clocksRun s = true → Released s n opElem v x st →
    homesFree s v x st.opc = true →
    (refusedAddr s v x st = none → readVecs s n v (stepInputs st) = (t, ins, true) → exec (.elemwise n) s = .next (poisonStep t n v x [st.opc])) ∧
    (∀ a rc, refusedAddr s v x st = some (a, rc) → exec (.elemwise n) s = .next (refuseStep s n x a rc))) ∧
  (∀ (s : State) (n : Nat) (v : Volume) (x : Ctx) (st : VStep), clocksRun s = false →
    (Released s n opElem v x st → exec (.elemwise n) s = .next (startWake s)) ∧
    (Released s n opMatvec v x st → exec (.matvec n .none) s = .next (startWake s))) ∧
  (∀ a b, isNanW a = true → fpAdd a b = 0x7FC00000 ∧ fpAdd b a = 0x7FC00000 ∧ fpMul a b = 0x7FC00000 ∧ fpMul b a = 0x7FC00000)

/-- A released MATVEC whose folios are RESIDENT, whose tiles expand and whose activation is clean multiplies and
consumes its activation; on a spoilt tensor it completes POISONED, and it waits for its activation. ATTN_SCORE and
ATTN_VALUE run on RESIDENT pages in the same way, complete BAD_FIELD for a head the object lacks, and log a limit of
R201. KV_APPEND appends a row of each run to every head. -/
def Obligations.MatrixSteps : Prop :=
  (∀ (s u w z : State) (n : Nat) (remote : RemoteRead) (v : Volume) (x : Ctx) (st : VStep) (sl : VSlot), clocksRun s = true →
    Released s n opMatvec v x st → (stepSlot v.opers st).bind (fun i => v.slots[i]?) = some sl → homesFree s v x st.opc = true →
    (actsFull v x [st.opb] = false → exec (.matvec n remote) s = .next s) ∧
    (∀ (t : Tensor) (list : List (Nat × Nat)) (keys : List (Nat × FolioId)), actsFull v x [st.opb] = true → tget s.tensors sl.tensor = some t →
      list = stepTileList s t.params st → keys = list.map (fun p => (p.1, FolioId.tile t.id p.2)) →
      u = (if copyUse s n x keys = .ready then keys.foldl copyWords s else s) →
      w = noteTensor (((list.map (·.1)).eraseDups).foldl probeYield u) n t.id →
      (slotSpoilt u sl = true → exec (.matvec n remote) s = .next (stepSpoilt w n v x st)) ∧
      (slotSpoilt u sl = false → copyUse u n x keys = .wait → exec (.matvec n remote) s = .next u) ∧
      (slotSpoilt u sl = false → copyUse u n x keys = .doomed → exec (.matvec n remote) s = .next (stepSpoilt w n v x st)) ∧
      (∀ (exp : List ((Nat × FolioId) × Option ExpTile)) (act : Bytes), slotSpoilt u sl = false → copyUse u n x keys = .ready → refusedAddr w v x st = none →
        exp = (list.zip keys).map (fun p => (p.2, expandTile t.params (st.flags.getLsbD 0) p.1.1 (p.1.2 % (tileRows t.params * tileCols t.params) / tileCols t.params)
          (p.1.2 % (tileRows t.params * tileCols t.params) % tileCols t.params) (copyBytes w p.2))) →
        exp.filter (fun e => e.2.isNone) = [] → readOper w n v st.opb remote = (z, act, false) →
        resetNow (consumeAct z n st.opb) ((exp.filterMap (·.2)).map (·.unit)) = false →
        exec (.matvec n remote) s = .next (matvecRun (consumeAct z n st.opb) n v x st t (exp.filterMap (·.2)) act (actWiped x st.opb))))) ∧
  (∀ (s u w z : State) (n op : Nat) (remote : RemoteRead) (v : Volume) (x : Ctx) (st : VStep) (k : KvObj)
      (run : Host.Outcome State Fault Refusal), clocksRun s = true → Released s n op v x st →
    (op = opScore ∧ run = exec (.attnScore n remote) s ∨ op = opValue ∧ run = exec (.attnValue n remote) s) →
    (stepObj s v x st).map (objSeen s.now n) = some k → k.lost = false → actsFull v x [st.opb] = true → homesFree s v x st.opc = true →
    (k.nh ≤ st.opd → run = .next (doneStep (consumeAct s n st.opb) n x rcBadField)) ∧
    (∀ (r l p0 : Nat) (pages : List (Nat × Nat)) (keys : List (Nat × FolioId)) (act : Bytes), st.opd < k.nh → r = (if st.opcode = opScore then 0 else 1) →
      l = runLength k st.opd r → p0 = windowStart l st.param → pages = stepPages s k st → refusedAddr s v x st = none →
      (∀ p ∈ pages, addrCode s x.job.slip.mid (pageAddr (pageOf k st.opd r p.2)) (pageBytes k) false = rcDone) →
      keys = pages.map (fun p => (p.1, FolioId.page k.idx st.opd r p.2)) →
      u = (if copyUse s n x keys = .ready then keys.foldl copyWords s else s) → w = ((pages.map (·.1)).eraseDups).foldl probeYield u →
      (attnOver s v k st (l - p0) = true → run = .next (attnLimit (consumeAct s n st.opb) n x st k (l - p0))) ∧
      (attnOver s v k st (l - p0) = false → copyUse u n x keys = .doomed → run = .next (poisonStep (consumeAct w n st.opb) n v x [st.opc])) ∧
      (attnOver s v k st (l - p0) = false → copyUse u n x keys = .ready →
        readOper w n v st.opb remote = (z, act, false) → ∀ ins : List PageIn, ins = (pages.zip keys).map (fun p =>
          { unit := p.1.1, entry := p.1.2, bytes := (copyBytes w p.2).toArray, tau := (pageOf k st.opd r p.1.2).tau }) →
        resetNow (consumeAct z n st.opb) (ins.map (·.unit)) = false →
        run = .next (attnRun (consumeAct z n st.opb) n v x st k ins p0 (l - p0) act (actWiped x st.opb))))) ∧
  (∀ (s t u : State) (n : Nat) (v : Volume) (x : Ctx) (st : VStep) (k : KvObj) (kb vb : Bytes), clocksRun s = true →
    Released s n opAppend v x st → stepObj s v x st = some k → k.lost = false →
    s.eng.copies.any (fun c => c.2.state == .arriving && (appendPages k).any (fun p => c.1.2 == .page k.idx p.1 p.2.1 p.2.2)) = false →
    (∀ p ∈ appendPages k, addrCode s x.job.slip.mid (pageOf k p.1 p.2.1 p.2.2).pda (pageBytes k) true = rcDone) →
    readOper s n v st.opb .none = (t, kb, false) → readOper t n v st.opc .none = (u, vb, false) →
    let r := (List.range k.nh).foldl (fun r h => ((appendHead r.1 n x k h (fp32Words kb) (fp32Words vb) false).1,
      r.2 && (appendHead r.1 n x k h (fp32Words kb) (fp32Words vb) false).2)) (u, true)
    exec (.kvAppend n) s = .next (doneStep r.1 n x (if r.2 then rcDone else rcNoSpace)))

/-- A released EMBED whose token's tiles are RESIDENT writes the row and notes its token. SAMPLE draws from the
candidates that its record keeps; a record out of range or candidates that are all NaN end the call slip with FAULT. A
token whose ring entry is taken is held, CONSUMED is read each 1 us, and the read that frees its entry lets it out.
LOOP begins the next iteration at its target with the routers clear, once its SAMPLE has completed. ROUTE selects the
indices of its first candidates. A conditional step whose expert is not selected completes without effect. -/
def Obligations.TokenSteps : Prop :=
  (∀ (s t : State) (n : Nat) (remote : RemoteRead) (v : Volume) (x : Ctx) (st : VStep) (sl : VSlot) (m : Tensor) (b : Bytes), clocksRun s = true →
    Released s n opEmbed v x st → refusedAddr s v x st = none → (stepSlot v.opers st).bind (fun i => v.slots[i]?) = some sl →
    slotSpoilt s sl = false → x.embedTok = none → readOper s n v st.opb remote = (t, b, false) → tget t.tensors sl.tensor = some m →
    (m.params.rows ≤ leVal (fit 4 b) → exec (.embed n remote) s = .next (doneStep t n x rcBadField)) ∧
    (leVal (fit 4 b) < m.params.rows → exec (.embed n remote) s =
      .next (embedTiled n (ctxMod t n (fun x => { x with embedTok := some (leVal (fit 4 b)) })) v x st m (leVal (fit 4 b))))) ∧
  (∀ (s u w : State) (n tok : Nat) (v : Volume) (x : Ctx) (st : VStep) (t : Tensor) (keys : List (Nat × FolioId)) (got : List (List Nat × Nat × Nat)),
    (embedTiles t.params st.param tok).map (fun i => (embedHolder s (.tile t.id i)).map (fun m => (m, FolioId.tile t.id i))) = keys.map some →
    u = keys.foldl copyWords s → (∀ k ∈ keys, (tget u.eng.copies k).map (·.state) = some .resident) → w = noteTensor u n t.id →
    keys.map (fun k => embedRow t.params (tok % 128) (copyBytes w k)) = got.map some →
    let words := ((got.map (·.1)).flatten).take t.params.cols
    let clamps := (got.map (·.2.1)).foldl (· + ·) 0
    let z := satCount (tensorEvents w t.id { wsat := clamps, wflush := (got.map (·.2.2)).foldl (· + ·) 0 }) n v (.tensor t.id) clamps
    embedTiled n s v x st t tok = doneStep (writeEncoded z n v x st st.opc
      { pieces := [(0, (words.take (operOf v st.opc).length).flatMap (leBytes 4))] } words.length false) n x rcDone) ∧
  (∀ (s t u : State) (n : Nat) (remote : RemoteRead) (v : Volume) (x : Ctx) (st : VStep) (cb rb : Bytes), clocksRun s = true →
    Released s n opSample v x st → haltComing s x = false → x.lead = none → refusedAddr s v x st = none → readOper s n v st.opa remote = (t, cb, false) →
    readOper t n v st.opb remote = (u, rb, false) →
    (parseSampler rb = none → exec (.sample n remote) s = .next (stopCtx (doneStep u n x rcBadField) n .fault)) ∧
    (∀ sm, parseSampler rb = some sm → (topCands sm.topk (candsOf cb)).all (fun c => isNanW c.1) = true →
      exec (.sample n remote) s = .next (stopCtx (doneStep u n x rcPoisoned) n .fault)) ∧
    (∀ sm, parseSampler rb = some sm → (topCands sm.topk (candsOf cb)).all (fun c => isNanW c.1) = false → exec (.sample n remote) s =
      .next (sampleDone (drawToken u sm x.job.slip.seq x.iter).1 n v x
        (pickCand sm (topCands sm.topk (candsOf cb)) (drawToken u sm x.job.slip.seq x.iter).2).2))) ∧
  (∀ (s : State) (n tok : Nat) (v : Volume) (x : Ctx), (loopOf v.steps).isSome = true →
    (x.job.slip.ringLen ≤ x.iter - x.consumed → sampleDone s n v x tok = passStep (ctxMod s n (fun x => { x with
      pending := x.pending ++ [{ step := x.pc, iter := x.iter, due := 0, at_ := s.now }], held := some tok })) n) ∧
    (x.iter - x.consumed < x.job.slip.ringLen → sampleDone s n v x tok = passStep (emitToken s n v x.pc x.iter tok) n)) ∧
  (∀ (s : State) (n tok : Nat) (x : Ctx), tget s.eng.ctxs n = some x → x.held = some tok → x.readOutstanding = false → x.silenced = false →
    readMay s x.job.poster = true → (∀ t, x.consumedReadAt = some t → t + 16000 ≤ s.now) →
    exec (.consumedRead n) s = .next (ctxMod (ringReadStart s x.job.poster x.job.slip.ring) n (fun x => { x with
      consumedReadAt := some s.now, readOutstanding := true }))) ∧
  (∀ (s : State) (n : Nat) (v : Volume) (x : Ctx), tget s.eng.ctxs n = some x → x.readOutstanding = true → ctxVol s x = some v →
    (∀ b, exec (.consumedReadReturn n (.data b)) s =
      .next (consumedValue (readEnd s x.job.poster x.job.slip.ring (.data b)) n v (leVal (fit 8 b)))) ∧
    exec (.consumedReadReturn n .timeout) s = .next (consumedFail (readEnd s x.job.poster x.job.slip.ring .timeout) n)) ∧
  (∀ (s : State) (n : Nat) (v : Volume) (x : Ctx) (st : VStep), Released s n opLoop v x st →
    (heldSample x = none → let t := finishStep s n x.iter x.pc rcDone rcDone
      exec (.loop n) s = .next (ctxMod { t with eng := { t.eng with releasePointer := (t.eng.releasePointer + 1) % 64 } } n (fun x => { x with
        iter := x.iter + 1, pc := st.param, routers := [], embedTok := none }))) ∧
    (heldSample x ≠ none → exec (.loop n) s = .next s)) ∧
  (∀ (s t : State) (n : Nat) (v : Volume) (x : Ctx) (st : VStep) (b : Bytes), Released s n opRoute v x st → refusedAddr s v x st = none →
    readOper s n v st.opa .none = (t, b, false) →
    let ids := ((candsOf b).take st.batch).map (·.2)
    ((∀ i ∈ ids, i < 4096) → exec (.route n) s =
      .next (doneStep (ctxMod t n (fun x => { x with routers := tset x.routers (st.param % 8) ids })) n x rcDone)) ∧
    ((∃ i ∈ ids, 4096 ≤ i) → exec (.route n) s =
      .next (doneStep (ctxMod t n (fun x => { x with routers := tset x.routers (st.param % 8) [] })) n x rcBadField))) ∧
  (∀ (s : State) (n : Nat) (v : Volume) (x : Ctx) (st : VStep), tget s.eng.ctxs n = some x → ctxVol s x = some v → v.steps[x.pc]? = some st → x.stop = none →
    s.ras.moduleFault = false → isLate s x = false → waitOk v x st = true → condState v x x.iter x.pc st.cond = some false → exec (.conditionalSkip n) s = .next (doneStep s n x rcDone))

/-- A fetch grant goes to the first context from the half's pointer with a read to issue. REQUESTED becomes ARRIVING
with its data; complete data makes the copy RESIDENT where the entry checks pass, else POISONED. Within 2 ms recovery
replaces a POISONED copy from the first intact copy, logged; without one, or at 2 ms, its steps are doomed and its
tensor DAMAGED. A relay-reduce member sends its partials and completes; one that waits for flits stays pending. -/
def Obligations.FolioCopies : Prop :=
  (∀ (s t u : State) (h : Half) (k n : Nat) (x : Ctx) (g : Group), leastFrom (fun k => (fetchRequest s h ((s.eng.fetchPointer.get h + k) % 64)).isSome) 64 0 = some k →
    n = (s.eng.fetchPointer.get h + k) % 64 → fetchRequest s h n = some (x, g) →
    t = { s with eng := { s.eng with ctxs := tset s.eng.ctxs n x, fetchPointer := s.eng.fetchPointer.set h ((s.eng.fetchPointer.get h + 1) % 64) } } →
    u = attachAll t n g.wants →
    ∀ w, (missing t g).find? (fun w => sliceHalf w.slice == h && wantOpen u w) = some w →
      exec (.fetchIssue h) s = .next (issueWant u n g.head w)) ∧
  (∀ (s : State) (m : Nat) (f : FolioId) (c : FolioCopy), tget s.eng.copies (m, f) = some c → c.state = .requested →
    (c.bad = false → exec (.folioDataArrive m f) s = .next { s with eng := { s.eng with
      copies := tmod s.eng.copies (m, f) (fun c => { c with state := .arriving }) } }) ∧
    (c.bad = true → exec (.folioDataArrive m f) s = .next (poisonCopy s m f false))) ∧
  (∀ (s : State) (m i tile : Nat) (c : FolioCopy) (t : Tensor) (remote : RemoteRead), tget s.eng.copies (m, .tile i tile) = some c →
    c.state = .arriving → tget s.tensors i = some t → c.bytes ≠ [] →
    (c.bad = false → keptOk t.params tile c.bytes = true → exec (.folioArriveComplete m (.tile i tile) remote) s = .next (settleCopy s m (.tile i tile) c.bytes)) ∧
    (c.bad = false → keptOk t.params tile c.bytes = false → exec (.folioArriveComplete m (.tile i tile) remote) s = .next (poisonCopy s m (.tile i tile) true)) ∧
    (c.bad = true → exec (.folioArriveComplete m (.tile i tile) remote) s = .next (poisonCopy s m (.tile i tile) false))) ∧
  (∀ (s u : State) (m i tile : Nat) (c : FolioCopy) (t : Tensor) (tier mirror replica origin : RemoteRead), edgeOf m = none →
    tget s.eng.copies (m, .tile i tile) = some c →
    c.state = .poisoned → c.failed = false → s.now ≤ c.poisonedAt + 32000000 → tget s.tensors i = some t →
    (∀ code b, recoverTile s t tile tier mirror replica origin = (u, some (code, b)) →
      let v := chargeRead (logRecovery (if code = 0 then u else rewriteTile u t tile b) t tile code c.poisonedAt) 0 (masterTile t tile).1 (slotBytes t.params)
        (.compute (sliceHalf m))
      exec (.folioRecovery m (.tile i tile) ⟨tier, mirror⟩ replica origin) s = .next (copyMod v m (.tile i tile) (fun c => { c with
        state := .arriving, bytes := b, bad := false, fromWc := false }))) ∧
    (recoverTile s t tile tier mirror replica origin = (u, none) →
      exec (.folioRecovery m (.tile i tile) ⟨tier, mirror⟩ replica origin) s = .next (failRecovery u m (.tile i tile) c))) ∧
  (∀ (s u : State) (m i tile : Nat) (h : Half) (e : EdgePoison) (t : Tensor) (tier mirror replica origin : RemoteRead), edgeOf m = some h →
    tget (s.plain.edge.get h).poisoned (i, tile) = some e → e.failed = false → tget s.tensors i = some t →
    (∀ code b, s.now ≤ e.foundAt + 32000000 → recoverTile s t tile tier mirror replica origin = (u, some (code, b)) →
      exec (.folioRecovery m (.tile i tile) ⟨tier, mirror⟩ replica origin) s = .next (edgePoisonMod (chargeRead
        (logRecovery (if code = 0 then u else rewriteTile u t tile b) t tile code e.foundAt) 0 (masterTile t tile).1 (slotBytes t.params) (.compute h)) h (i, tile) none)) ∧
    (s.now ≤ e.foundAt + 32000000 → recoverTile s t tile tier mirror replica origin = (u, none) →
      exec (.folioRecovery m (.tile i tile) ⟨tier, mirror⟩ replica origin) s = .next (failEdge u h (i, tile) e)) ∧
    (e.foundAt + 32000000 ≤ s.now → exec (.recoveryBudgetExpiry m (.tile i tile)) s = .next (failEdge s h (i, tile) e))) ∧
  (∀ (s : State) (m i tile : Nat) (c : FolioCopy), edgeOf m = none → tget s.eng.copies (m, .tile i tile) = some c → c.state = .poisoned → c.failed = false →
    c.poisonedAt + 32000000 ≤ s.now → exec (.recoveryBudgetExpiry m (.tile i tile)) s = .next (failRecovery s m (.tile i tile) c)) ∧
  (∀ (s t u : State) (n : Nat) (v : Volume) (x : Ctx) (st : VStep) (b : Bytes), clocksRun s = true → Released s n opRelay v x st →
    homesFree s v x st.opc = true → refusedAddr s v x st = none → readOper s n v st.opa .none = (t, b, false) →
    u = (relayPeers t st).foldl (fun s j => redSend s j (redKey n x x.pc x.iter)
      (if relayMode st = 1 then slice b (4 * (slotRange st (b.length / 4) j).1) (4 * ((slotRange st (b.length / 4) j).2 - (slotRange st (b.length / 4) j).1))
        else if j = relayOwner st then b else [])) t →
    (relayWaits u st = false → exec (.relayReduce n) s = .next (doneStep u n x rcDone)) ∧
    (∀ p w, relayWaits u st = true →
      p = { step := x.pc, iter := x.iter, due := (relayPeers u st).length + 1, at_ := u.now, data := b
            homes := if (operOf v st.opc).kind = kAct then actHomes u v x st.opc else [] } →
      w = passStep (ctxMod (holdActs u p.homes) n (fun x => { x with pending := x.pending ++ [p] })) n →
      exec (.relayReduce n) s = .next (if relayCut w n v x st p then relayAbsent w n p else relayTry w n p)))

/-- PROBE_RUN starts the first eligible probe from the unit's pointer, which advances, and ends a run whose time is
over: it is counted, and a failed comparison opens an investigation; a step that needs the unit drops a run that is
not over uncounted. PROBE_FORCE runs one of a tensor fetched within 100 ms and not probed in that time. An output
passes within TOL steps of its reference, a NaN only against a NaN. Stage 1 passes: closed with outcome 1, else stage
2; stage 2 passes on the folio fetched again: outcome 2, else stage 3, and a folio that comes back bad is POISONED and
abandons it; stage 3 passes: outcome 3, else outcome 4, as when no other unit was free for 2 ms. -/
def Obligations.SentinelProbes : Prop :=
  (∀ (s u : State) (m k : Nat) (p : Nat × Probe) (t : Tensor) (c : FolioCopy), (muOf s m).probe = none →
    leastFrom (fun k => ((allProbes s)[((muOf s m).probePointer + k) % (allProbes s).length]?).any (probeEligible s m)) (allProbes s).length 0 = some k →
    (allProbes s)[((muOf s m).probePointer + k) % (allProbes s).length]? = some p →
    u = copyWords (muMod s m (fun u => { u with probePointer := ((muOf s m).probePointer + 1) % (allProbes s).length })) (m, .tile p.1 p.2.tile) →
    tget u.tensors p.1 = some t → tget u.eng.copies (m, .tile p.1 p.2.tile) = some c → c.state = .resident →
    (∀ r acc, probeRunOf u.now t.params p.1 p.2 m c.bytes = some (r, acc) → exec (.probeRun m) s =
      .next (muMod u m (fun x => { x with probe := some r, probeAcc := acc }))) ∧
    (probeRunOf u.now t.params p.1 p.2 m c.bytes = none → exec (.probeRun m) s = .next (poisonCopy u m (.tile p.1 p.2.tile) true))) ∧
  (∀ (s w : State) (m : Nat) (r : ProbeRun), (muOf s m).probe = some r → w = probeCount (probeFree s m) r.tensor r →
    (r.ends ≤ s.now → r.pass = true → exec (.probeRun m) s = .next w) ∧
    (r.ends ≤ s.now → r.pass = false → exec (.probeRun m) s = .next { w with tensors := tmod w.tensors r.tensor (fun t =>
      if t.investigation.isSome then t else { t with
        investigation := some { stage := 1, probe := r.probe, mu := m, firstFail := devNs w, stageAt := w.now }, guard := { t.guard with sentState := 1 } }) }) ∧
    (s.now < r.ends → exec (.probeRun m) s = .next s ∧
      probeYield s m = muMod s m (fun u => { u with probe := none, probeAcc := tmap u.probeAcc (fun _ e => { e with used := false }) }))) ∧
  (∀ (s u w : State) (i m : Nat) (t n : Tensor) (c : FolioCopy) (p : Probe) (r : ProbeRun) (acc : Tbl Nat AccEntry), tget s.tensors i = some t →
    (t.lastFetch = none → exec (.probeForce i) s = .next s) ∧
    (∀ f, t.lastFetch = some f → s.now ≤ f + 1600000000 → (∀ g, t.lastProbe = some g → g + 1600000000 < s.now) → forceChoice s i = some (m, p) →
      (muOf s m).probe = none → u = copyWords s (m, .tile i p.tile) → tget u.tensors i = some n → tget u.eng.copies (m, .tile i p.tile) = some c →
      c.state = .resident → probeRunOf u.now n.params i p m c.bytes = some (r, acc) →
      w = probeCount (probeFree (muMod u m (fun x => { x with probeAcc := acc })) m) i r →
      (r.pass = true → exec (.probeForce i) s = .next w) ∧ (r.pass = false → exec (.probeForce i) s = .next (openInvest w i m p)))) ∧
  (∀ (tol w ref : Nat), outPass tol w ref = true ↔ (isNanW w = true ∧ isNanW ref = true) ∨
    (isNanW w = false ∧ isNanW ref = false ∧ (orderKey w - orderKey ref).natAbs ≤ tol)) ∧
  (∀ (s u w : State) (i : Nat) (t n : Tensor) (v : Investigation) (c : FolioCopy) (r : ProbeRun) (acc : Tbl Nat AccEntry), tget s.tensors i = some t →
    t.investigation = some v → v.stage = 1 → probeEligible s v.mu (i, v.probe) = true → (muOf s v.mu).probe = none →
    u = copyWords s (v.mu, .tile i v.probe.tile) → tget u.tensors i = some n → tget u.eng.copies (v.mu, .tile i v.probe.tile) = some c → c.state = .resident →
    probeRunOf u.now n.params i v.probe v.mu c.bytes = some (r, acc) →
    w = probeCount (probeFree (muMod u v.mu (fun x => { x with probeAcc := acc })) v.mu) i r →
    (r.pass = true → exec (.investigationRerun i) s = .next (closeInvest w i 1)) ∧ (r.pass = false → exec (.investigationRerun i) s = .next (nextStage w i 2))) ∧
  (∀ (s u w y : State) (i : Nat) (remote : RemoteRead) (n : Tensor) (v : Investigation) (b : Bytes), tget s.tensors i = some n → n.investigation = some v →
    v.stage = 2 → v.fetched = none → investMay s = true → muUp s v.mu = true → (findGranules s v.mu n.params.q).isSome = true → investOpen s n v v.mu = true →
    (investFetch s n v.probe.tile v.mu remote = (u, b, true) →
      exec (.investigationRefetch i remote) s = .next (closeInvest (poisonCopy u v.mu (.tile i v.probe.tile) true) i 5)) ∧
    (investFetch s n v.probe.tile v.mu remote = (u, b, false) →
      w = { u with tensors := tmod u.tensors n.id (fun t => { t with investigation := t.investigation.map (fun v' => { v' with fetched := some (v.mu, b) }) }) } →
      (muOf w v.mu).probe = none →
      (clocksRun w = false → exec (.investigationRefetch i remote) s = .next w) ∧
      (∀ r acc, clocksRun w = true → probeRunOf w.now n.params i v.probe v.mu b = some (r, acc) →
        y = keepCopy (probeCount (probeFree (muMod w v.mu (fun x => { x with probeAcc := acc })) v.mu) i r) v.mu n.params.q (.tile i v.probe.tile) b →
        (r.pass = true → exec (.investigationRefetch i remote) s = .next (closeInvest y i 2)) ∧
        (r.pass = false → exec (.investigationRefetch i remote) s = .next (nextStage y i 3))))) ∧
  (∀ (s u w y : State) (i m : Nat) (remote : RemoteRead) (n : Tensor) (v : Investigation) (b : Bytes), tget s.tensors i = some n → n.investigation = some v →
    v.stage = 3 → v.fetched = none → otherMu s v.mu n.params.q = some m → investMay s = true → investOpen s n v m = true →
    (investFetch s n v.probe.tile m remote = (u, b, true) → exec (.investigationOtherMu i remote) s = .next (closeInvest u i 5)) ∧
    (∀ r acc, investFetch s n v.probe.tile m remote = (u, b, false) →
      w = { u with tensors := tmod u.tensors n.id (fun t => { t with investigation := t.investigation.map (fun v' => { v' with fetched := some (m, b) }) }) } →
      (muOf w m).probe = none → clocksRun w = true → probeRunOf w.now n.params i v.probe m b = some (r, acc) →
      y = probeCount (probeFree (muMod w m (fun x => { x with probeAcc := acc })) m) i r →
      (r.pass = true → exec (.investigationOtherMu i remote) s = .next (abandonOn (closeInvest y i 3) v.mu)) ∧
      (r.pass = false → exec (.investigationOtherMu i remote) s = .next (closeInvest y i 4)))) ∧
  (∀ (s : State) (i : Nat) (n : Tensor) (v : Investigation), tget s.tensors i = some n → n.investigation = some v → v.stage = 3 →
    v.stageAt + 32000000 ≤ s.now → v.fetched = none → otherMu s v.mu n.params.q = none → exec (.investigationTimeout i) s = .next (closeInvest s i 4))

/-- A bench operation in diagnostics mode on a line of a tenant-0 region reads its stored word into DATA and CHECK
with the decoder's verdict, corrects it, or stores DATA with the given, the right or the poison check bits; on a word
of a slice or a vector unit it does the same but for WRITE_POISON; any other target is REFUSED. A register write
writes the register that it names: a carrel's message area, doorbell and RW1C bits, a queue's slots and RW1C bits, the
global registers of PF0 and GLB_RELEASE of PF1; a write of any other size, or of no register, changes nothing. -/
def Obligations.BenchRegistersAndUnits : Prop :=
  (∀ (s t : State) (tgt : BitVec 4) (l : Nat), s.diag.mode = true → benchLine s tgt.toNat = some l →
    t = chargeRead s 7 l 64 (.tier (daHalf l)) →
    (exec (.readRaw tgt) s = .next (benchResult (benchLoad t (lineWord s l)) (lineVerdict (rsDecode (lineErrOf s.mem l))).1
        (lineVerdict (rsDecode (lineErrOf s.mem l))).2) ∧
      exec (.readCorrected tgt) s = .next (benchResult (benchLoad (lineCheck t l 2).1 (lineWord (lineCheck t l 2).1 l))
        (lineVerdict (rsDecode (lineErrOf s.mem l))).1 (lineVerdict (rsDecode (lineErrOf s.mem l))).2))) ∧
  (∀ (s t : State) (tgt : BitVec 4) (l : Nat), s.diag.mode = true → benchLine s tgt.toNat = some l →
    t = chargeWrite s 7 l 64 (.tier (daHalf l)) →
    exec (.writeRaw tgt) s = .next (benchWrote (putLineWord t l (benchBytes s ++ leBytes 4 s.diag.check.toNat))) ∧
    exec (.writePoison tgt) s = .next (benchWrote (putLineWord t l (xorBytes (benchBytes s ++ rsCheck (benchBytes s)) poisonPattern))) ∧
    (∀ w u, w = benchBytes s ++ rsCheck (benchBytes s) → u = { putLineWord t l w with
        diag := { (putLineWord t l w).diag with check := BitVec.ofNat 64 (leAt w 64 4) } } →
      exec (.writeEncoded tgt) s = .next (benchWrote (lineSettle u l (lineErrOf u.mem l))))) ∧
  (∀ (s : State) (tgt : BitVec 4) (k : Nat × Nat × Nat), s.diag.mode = true → benchLine s tgt.toNat = none → benchWord s tgt.toNat = some k →
    let d : BitVec 32 := (s.diag.data.getD 0 0).setWidth 32
    let syn := hsiaoCheck (storedWord s k).1 ^^^ (storedWord s k).2
    exec (.readRaw tgt) s = .next (benchResult (benchLoadWord s (storedWord s k)) (wordVerdict (hsiaoDecode syn)).1 (wordVerdict (hsiaoDecode syn)).2) ∧
    (hsiaoDecode syn = .clean → exec (.readCorrected tgt) s =
      .next (benchResult (benchLoadWord s (storedWord s k)) (wordVerdict .clean).1 (wordVerdict .clean).2)) ∧
    (hsiaoDecode syn = .uncorrectable → exec (.readCorrected tgt) s = .next (benchResult (benchLoadWord
      (sramEvent s k.1 k.2.1 k.2.2 false syn.toNat 0xFF 2) (storedWord s k)) (wordVerdict .uncorrectable).1 (wordVerdict .uncorrectable).2)) ∧
    exec (.writeRaw tgt) s = .next (benchWrote { s with
      eng := { s.eng with sram := tset s.eng.sram k (d, s.diag.check.setWidth 7) }
      diag := { s.diag with syndrome := hsiaoCheck d ^^^ s.diag.check.setWidth 7 } }) ∧
    exec (.writeEncoded tgt) s = .next (benchWrote { s with
      eng := { s.eng with sram := tset s.eng.sram k (d, hsiaoCheck d) }
      diag := { s.diag with check := (hsiaoCheck d).setWidth 64, syndrome := 0 } }) ∧
    exec (.writePoison tgt) s = .next (benchResult s 0xE 0xFF)) ∧
  (∀ (s : State) (tgt : BitVec 4), s.diag.mode = true → benchLine s tgt.toNat = none → benchWord s tgt.toNat = none →
    ∀ c ∈ [Instr.readRaw tgt, .readCorrected tgt, .writeRaw tgt, .writeEncoded tgt, .writePoison tgt], exec c s = .next (benchResult s 0xE 0xFF)) ∧
  (∀ (s : State) (n o : Nat) (b : Bytes) (fn : Fn) (off : Nat) (consumed : HostRead) (input : RemoteRead) (x : BindEntry), s.boot.stage ≠ .recovery →
    carrelSpot s fn off = some (n, o) → tget s.cp.binding n = some x →
    let k := carrelOf s n
    (∀ i, o = 0x100 + i → i + b.length ≤ 256 → b ≠ [] → i < 0x100 → k.state = .idle ∨ k.state = .running ∨ k.state = .lost →
      exec (.registerWrite fn off b consumed input) s = .next (carrelMod s n (fun c => { c with msg := place c.msg i b }))) ∧
    (o = 0x10 → b.length = 8 → doorbellLost s k true (BitVec.ofNat 64 (leVal b)) = false → doorbellOk s k true (BitVec.ofNat 64 (leVal b)) = true →
      exec (.registerWrite fn off b consumed input) s = .next (carrelMod s n (fun c => { c with state := .posted }))) ∧
    (o = 0x10 → b.length = 8 → doorbellLost s k true (BitVec.ofNat 64 (leVal b)) = false → doorbellOk s k true (BitVec.ofNat 64 (leVal b)) = false →
      exec (.registerWrite fn off b consumed input) s = .next (carrelMod s n (fun c => { carrelIgnore c with badDoorbell := stickySet s.now }))) ∧
    (o = 8 → b.length = 8 → exec (.registerWrite fn off b consumed input) s = .next (carrelMod s n (fun c => { c with
      lost := if natBit (ones 8 b) 3 then stickyClear c.lost s.now else c.lost
      badDoorbell := if natBit (ones 8 b) 2 then stickyClear c.badDoorbell s.now else c.badDoorbell })))) ∧
  (∀ (s : State) (n o : Nat) (b : Bytes) (fn : Fn) (off : Nat) (consumed : HostRead) (input : RemoteRead), s.boot.stage ≠ .recovery →
    carrelSpot s fn off = none → queueSpot s fn off = some (n, o) →
    (∀ slot i, slot < 16 → i < 64 → o = 0x400 + 64 * slot + i → i + b.length ≤ 64 → b ≠ [] → exec (.registerWrite fn off b consumed input) s = .next { s with
      queues := tmod s.queues n (fun q => { q with slots := tset q.slots slot (place (tgetD q.slots slot []) i b) }) }) ∧
    (∀ q, tget s.queues n = some q → o = 0x10 → b.length = 8 → (BitVec.ofNat 64 (leVal b)).toNat ≠ q.taken + 1 →
      exec (.registerWrite fn off b consumed input) s = .next { s with
        queues := tmod s.queues n (fun q => { q with ignored := sat16 (q.ignored + 1), bad := stickySet s.now }) }) ∧
    (o = 8 → b.length = 8 → exec (.registerWrite fn off b consumed input) s = .next { s with queues := tmod s.queues n (fun q => { q with
      full := if natBit (ones 8 b) 2 then stickyClear q.full s.now else q.full, bad := if natBit (ones 8 b) 1 then stickyClear q.bad s.now else q.bad }) })) ∧
  (∀ (s : State) (fn : Fn) (off : Nat) (b : Bytes) (consumed : HostRead) (input : RemoteRead), s.boot.stage ≠ .recovery → carrelSpot s fn off = none →
    queueSpot s fn off = none →
    (accessAligned off b.length = false → exec (.registerWrite fn off b consumed input) s = .next s) ∧
    ((∃ i, fn = .vf i) → exec (.registerWrite fn off b consumed input) s = .next s) ∧
    (fn = .pf1 → off ≠ 0x1A00 → off ≠ 0x1A04 → exec (.registerWrite fn off b consumed input) s = .next s) ∧
    (fn = .pf1 → off = 0x1A00 → b.length = 8 → tget s.cp.locks ((BitVec.ofNat 64 (leVal b)).toNat % 64) = some 2 → s.ras.moduleFault = false →
      exec (.registerWrite fn off b consumed input) s = .next { s with
        cp := { s.cp with locks := tdel s.cp.locks ((BitVec.ofNat 64 (leVal b)).toNat % 64), lockWon := none } })) ∧
  (∀ (s : State) (off : Nat) (b : Bytes) (consumed : HostRead) (input : RemoteRead), s.boot.stage ≠ .recovery → carrelSpot s .pf0 off = none →
    queueSpot s .pf0 off = none → accessAligned off b.length = true →
    (∀ p, p < 8 → off = 0x2000 + 0x100 * p → exec (.registerWrite .pf0 off b consumed input) s = .next (xlWrite s p (ones off b))) ∧
    (off = 0x1A00 → b.length = 8 → s.ras.moduleFault = false → exec (.registerWrite .pf0 off b consumed input) s = .next { s with
      cp := { s.cp with locks := tdel s.cp.locks ((BitVec.ofNat 64 (leVal b)).toNat % 64), lockWon := none } }) ∧
    (∀ r c, r < 26 → c < 8 → off = 0x300000 + 0x100 * r + 0x20 * c + 0x18 → exec (.registerWrite .pf0 off b consumed input) s = .next (bwMod s r c
      (fun x => { x with degraded := if natBit (ones off b) 62 then stickyClear x.degraded s.now else x.degraded }))) ∧
    (off = 0x400018 → exec (.registerWrite .pf0 off b consumed input) s = .next { s with
      ras := { s.ras with select := BitVec.ofNat 64 (putHalf s.ras.select.toNat off b) } }) ∧
    (off = 0x500010 → s.diag.mode = true → exec (.registerWrite .pf0 off b consumed input) s = .next { s with
      diag := { s.diag with addr := BitVec.ofNat 64 (putHalf s.diag.addr.toNat 16 b) } }) ∧
    (off = 0x500018 → s.diag.mode = true → exec (.registerWrite .pf0 off b consumed input) s = .next { s with
      diag := { s.diag with check := BitVec.ofNat 64 (putHalf s.diag.check.toNat 24 b) } }) ∧
    (∀ i, i < 8 → off = 0x500040 + 8 * i → s.diag.mode = true → exec (.registerWrite .pf0 off b consumed input) s = .next { s with
      diag := { s.diag with data := s.diag.data.set i (BitVec.ofNat 64 (putHalf (s.diag.data.getD i 0).toNat (0x40 + 8 * i) b)) } }) ∧
    (0x500000 ≤ off → off < 0x500080 → s.diag.mode = false → exec (.registerWrite .pf0 off b consumed input) s = .next s))

/-- ERRATA_READ answers log records in sequence from the number asked for: to PF0 and the management MCU every record,
which they then count as returned, to another sender its own tenant's; in place where the command has no buffer, else
in the buffer. RAS_STATUS answers the masks and counters. UNIT_SERVICE takes a unit out of or into service, but not
the last of its half out nor a retired one in. SCRUB_SET sets a period. -/
def Obligations.RasDeskCommands : Prop :=
  (∀ (s w u : State) (src : DeskSrc) (c : RunCmd) (first : Nat) (got : List ErrRec) (next : Nat), Serves s src 0x0901 c → w = leaveSleep s →
    first = ((logView w).head?.map (·.seq)).getD 0 →
    logWalk (fun r => decide (c.mid = 1 ∨ c.mid = 3) || r.tenant == some (cmdTenant w c)) ((logView w).filter (fun r => decide (max (arg c 0) first ≤ r.seq)))
      (if msgHasOut c.msg = true then min 16384 (msgOutLen c.msg / 64) else 3) (max (arg c 0) first) = (got, next) →
    u = (if c.mid = 1 ∨ c.mid = 3 then markReturned w (got.map (·.seq)) else w) →
    (msgHasOut c.msg = false → exec (.errataRead src) s = .next (complete u c rcDone
      [.u 8 first, .u 8 next, .u 2 got.length, .b (fit 192 (got.map recBytes).flatten)])) ∧
    (msgHasOut c.msg = true → exec (.errataRead src) s = .next (completeOut u c rcDone
      (packVals [.u 8 first, .u 8 next, .u 2 got.length, .b (zeros 192)]) (got.map recBytes).flatten))) ∧
  (∀ (s w : State) (src : DeskSrc) (c : RunCmd), Serves s src 0x0902 c → w = quietNow s →
    exec (.rasStatus src) s = .next (complete w c rcDone [.u 1 (bitN w.halves.h0.fenced), .u 1 (bitN w.halves.h1.fenced)
      , .u 1 (maskOf 8 (fun i => (w.halves.get (halfOf (i / 4))).hbm.contains (i % 4)))
      , .u 4 (maskOf 32 (fun i => (w.halves.get (halfOf (i / 16))).packages.contains (i % 16))), .u 4 (maskOf 32 (fun i => (vuOf w i).inService))
      , .b (leBytes 16 (maskOf 128 (fun i => (muOf w i).inService))), .u 8 w.ras.ce, .u 8 w.ras.ue, .u 4 w.ras.retired, .u 4 w.ras.spared])) ∧
  (∀ (s w : State) (src : DeskSrc) (c : RunCmd), Serves s src 0x0903 c → w = leaveSleep s → arg c 0 = 0 →
    let left := unitsLeft w true (halfOf (arg c 1 / 64))
    (arg c 2 = 0 → left = [arg c 1] → exec (.unitService src) s = .next (failWith w c rcConflict)) ∧
    (arg c 2 = 0 → left.contains (arg c 1) = false → exec (.unitService src) s = .next (complete w c rcDone [])) ∧
    (arg c 2 = 0 → left ≠ [arg c 1] → left.contains (arg c 1) = true → exec (.unitService src) s =
      .next (complete (muMod w (arg c 1) (fun m => { m with remapDue := true, cause := 3 })) c rcDone [])) ∧
    (arg c 2 ≠ 0 → (muOf w (arg c 1)).retired = true → exec (.unitService src) s = .next (failWith w c rcConflict)) ∧
    (arg c 2 ≠ 0 → (muOf w (arg c 1)).retired = false → exec (.unitService src) s =
      .next (complete (muMod w (arg c 1) (fun m => { m with inService := true, remapDue := false, cause := 0 })) c rcDone []))) ∧
  (∀ (s w : State) (src : DeskSrc) (c : RunCmd), Serves s src 0x0903 c → w = leaveSleep s → arg c 0 ≠ 0 →
    let left := unitsLeft w false (halfOf (arg c 1 / 16))
    (arg c 2 = 0 → left = [arg c 1] → exec (.unitService src) s = .next (failWith w c rcConflict)) ∧
    (arg c 2 = 0 → left.contains (arg c 1) = false → exec (.unitService src) s = .next (complete w c rcDone [])) ∧
    (arg c 2 = 0 → left ≠ [arg c 1] → left.contains (arg c 1) = true → exec (.unitService src) s =
      .next (complete (vuMod w (arg c 1) (fun m => { m with remapDue := true, cause := 3 })) c rcDone [])) ∧
    (arg c 2 ≠ 0 → (vuOf w (arg c 1)).retired = true → exec (.unitService src) s = .next (failWith w c rcConflict)) ∧
    (arg c 2 ≠ 0 → (vuOf w (arg c 1)).retired = false → exec (.unitService src) s =
      .next (complete (vuMod w (arg c 1) (fun m => { m with inService := true, remapDue := false, cause := 0 })) c rcDone []))) ∧
  (∀ (s w : State) (src : DeskSrc) (c : RunCmd), Serves s src 0x0904 c → w = leaveSleep s →
    (arg c 0 = 0 → exec (.scrubSet src) s = .next (complete { w with ras := { w.ras with scrubSram := arg c 1 } } c rcDone [])) ∧
    (arg c 0 = 1 → exec (.scrubSet src) s = .next (complete { w with ras := { w.ras with scrubT1 := arg c 1 } } c rcDone [])) ∧
    (arg c 0 = 2 → exec (.scrubSet src) s = .next (complete { w with ras := { w.ras with scrubT2 := arg c 1 } } c rcDone [])))

/-- A unit that is due leaves service at its step boundary with its windows and activation store dropped. An MU's
local reset zeroes its accumulators and wipes its activation store, counts and logs a DATAPATH_UE, and the third
within 1 s makes the MU due to leave. The end of a row repair checks the row's lines and records the repair. The
scrubber visits a usable line or on-chip word. A first lost stack empties the half's cache, loses tier-1 objects and
leaves 135 GiB; a first lost package loses tier-2 objects and drains the extents; a second of either fences the half,
as a failed TRNG does. A module fault stops every port and command. -/
def Obligations.FaultEvents : Prop :=
  (∀ (s u : State) (n : Nat), n < 128 → (muOf s n).remapDue = true → (muOf s n).inService = true →
    u = muMod s n (fun m => { m with remapDue := false, inService := false, act0 := .free, act1 := .free, probe := none }) →
    exec (.unitRemap (.mu n)) s = .next (abandonOn (logUnitOut { u with eng := { u.eng with ctxs := tmap u.eng.ctxs (fun _ x =>
      { x with acts := x.acts.map (fun a => { a with homes := a.homes.filter (fun p => p.1 != n) }) }) } } 1 n (muOf s n).cause) n)) ∧
  (∀ (s : State) (n : Nat), n < 32 → (vuOf s n).remapDue = true → (vuOf s n).inService = true →
    exec (.unitRemap (.vu n)) s = .next (logUnitOut (vuMod s n (fun v => { v with remapDue := false, inService := false })) 2 n (vuOf s n).cause)) ∧
  (∀ (s w : State) (n : Nat) (times : List Nat), n < 128 → (muOf s n).inService = true → s.boot.stage = .served → w = retireAll s →
    times = (muOf s n).errTimes.filter (fun t => decide (s.now < t + secT 1)) ++ [s.now] →
    ∃ m wipe, m.acc = [] ∧ m.probeAcc = [] ∧ m.probe = none ∧ m.errTimes = times ∧ m.resetAt = some s.now ∧
      (m.remapDue = true ↔ (muOf w n).remapDue = true ∨ 3 ≤ times.length) ∧ m.inService = (muOf w n).inService ∧
      (∀ a : ActBuf, (wipe a).wiped = if a.homes.any (fun p => p.1 == n) && !a.wiped.contains n then a.wiped ++ [n] else a.wiped) ∧
      exec (.muLocalReset n) s = .next (logNow { w with
        eng := { w.eng with
          mus := tset w.eng.mus n m
          ctxs := tmap w.eng.ctxs (fun _ x => { x with acts := x.acts.map wipe }) }
        ras := { w.ras with ue := w.ras.ue + 1 } }
          { kind := 0x0109, severity := 3, unit := errUnit 1 n, detail0 := times.length, detail1 := bitN (decide (3 ≤ times.length)) })) ∧
  (∀ (s u : State) (half : Half) (tier : Nat) (r : Half × Nat × Nat) (bad : List Nat),
    s.ras.rowHolds.find? (fun r => r.1 == half && r.2.1 == tier) = some r →
    linesCheck s 3 ((s.mem.lineErr.map (·.1)).filter (fun l => daRange l == tier && daHalf l == half && rowLoc s l == r.2.2)) = (u, bad) →
    exec (.rowSpareEnd half tier) s = .next (unitsJudge { u with
      ras := { u.ras with rowHolds := u.ras.rowHolds.erase r, spared := u.ras.spared + 1 }
      flash := { u.flash with repairs := u.flash.repairs ++ [r.2.2] } })) ∧
  (∀ (s : State) (addr : Nat) (replica origin : RemoteRead), tierServed s = true → s.power.state ≠ .sleep →
    (2 ^ 56 ≤ addr → exec (.patrolScrub addr replica origin) s = .next (scrubWord s (addr / 2 ^ 56) (addr / 2 ^ 48 % 256) (addr % 2 ^ 32))) ∧
    (addr < 2 ^ 56 → daRange addr = 1 → offUsable s 1 (daOff addr) = true → halfUp s (daHalf addr) = true →
      capOpen s 6 (readPath addr (.tier (daHalf addr))) = true →
      exec (.patrolScrub addr replica origin) s = .next (unitsJudge (scrubLine s (lineOf addr) replica origin)))) ∧
  (∀ (s u : State) (n : Nat) (h : Half), n < 8 → h = halfOf (n / 4) → halfUp s h = true → (s.halves.get h).hbm.contains (n % 4) = true →
    ((s.halves.get h).t1Remapped = true →
      exec (.stackFailure n) s = .next (fenceHalf (halfMod s h (fun x => { x with hbm := x.hbm.erase (n % 4) })) h)) ∧
    ((s.halves.get h).t1Remapped = false →
      u = cacheMod ((waysWhere s h (fun w => w.dirty != 0)).foldl (fun s k => rescueWay s h (n % 4) k) s) h (fun c => { c with ways := [], share := min c.share 135 }) →
      exec (.stackFailure n) s = .next (runWaits (logNow (copyLost (halfMod (tierLost { u with
        tensors := tmap u.tensors (fun _ t => { t with wc := t.wc.map (fun w => { w with
          present := w.present.filter (fun k => wcHalf w k != h), copying := w.copying.filter (fun k => wcHalf w k.1 != h) }) }) } 1 h) h
          (fun x => { x with hbm := x.hbm.erase (n % 4), t1Remapped := true, t1Cap := 135 })) h)
          { kind := 0x0202, severity := 3, unit := errUnit 3 n })))) ∧
  (∀ (s u v : State) (n : Nat) (h : Half), n < 32 → h = halfOf (n / 16) → halfUp s h = true → (s.halves.get h).packages.contains (n % 16) = true →
    ((s.halves.get h).packages.length < 16 →
      exec (.packageFailure n) s = .next (fenceHalf (halfMod s h (fun x => { x with packages := x.packages.erase (n % 16) })) h)) ∧
    (16 ≤ (s.halves.get h).packages.length → u = halfMod s h (fun x => { x with packages := x.packages.erase (n % 16), t2Failing := true }) →
      v = tierLost u 2 h →
      exec (.packageFailure n) s = .next ((halfExtents (logNow { v with
          plain := { v.plain with granules := tmap v.plain.granules (fun _ g => if g.half = h then { g with lost := true } else g) } }
        { kind := 0x0203, severity := 3, unit := errUnit 4 n }) h).foldl extentLost (logNow { v with
          plain := { v.plain with granules := tmap v.plain.granules (fun _ g => if g.half = h then { g with lost := true } else g) } }
        { kind := 0x0203, severity := 3, unit := errUnit 4 n })))) ∧
  (∀ (s : State) (h : Half), (s.halves.get h).t2Failing = true → halfUp s h = true →
    s.regions.any (fun r => r.lost && r.tier == 2 && r.half == h) = false → s.plain.granules.any (fun p => p.2.lost && p.2.half == h) = false →
    halfExtents s h = [] → exec (.packageRemap h) s = .next (halfMod s h (fun x => { x with t2Failing := false, t2Remapped := true, t2Cap := 900 }))) ∧
  (∀ (s u v : State) (h : Half), halfUp s h = true → u = halfMod s h (fun x => { x with fenced := true }) →
    v = fenceUnits (requestsPoisoned (logNow { u with ras := { u.ras with copyOk := u.ras.copyOk.set h false } } { kind := 0x0204, severity := 3, unit := errUnit 6 (halfNum h) })) h →
    exec (.halfFence h) s = .next ((List.range 8).foldl (fun s p => if portHalf p = h ∧ (portOf s p).state ≠ .off then portDown s p .down none else s) v)) ∧
  (∀ (s : State) (h : Half), s.sec.trngOk.get h = true → exec (.trngFail h) s =
    .next (fenceHalf (logNow { s with sec := { s.sec with trngOk := s.sec.trngOk.set h false } }
      { kind := 0x0803, severity := 3, unit := errUnit 8 (halfNum h), location := halfNum h }) h)) ∧
  (∀ (s u : State) (m : ModuleUnit), s.ras.moduleFault = false → s.pins.aux = true →
    u = (List.range 8).foldl (fun s p => if (portOf s p).state ≠ .off then portDown s p .down none else s)
      (logNow s { kind := 0x0205, severity := 4, unit := errUnit (moduleUnitKind m) 0 }) →
    exec (.moduleFault m) s = .next { u with
      ras := { u.ras with moduleFault := true }
      pins := { u.pins with faultN := false }
      cp := { u.cp with ready := false, restarting := none } })

/-- BW_SET admits a set of legal entries whose resources stay within their admission limits, to take effect with the
next window, and otherwise changes nothing, with BAD_FIELD or OVER_GUARANTEE. BW_STATUS writes 272 bytes per resource
to BUF_OUT. BW_URGENCY admits a port's settings where every masked resource stays within its limit. A window that ends
passes its counts into the last-window record, applies what was admitted and scales each derated resource. A level
takes effect when two samples agree. -/
def Obligations.BandwidthRegulation : Prop :=
  (∀ (s w : State) (src : DeskSrc) (c : RunCmd) (d b : Bytes), Serves s src 0x0801 c → 8 * arg c 0 ≤ msgInLen c.msg → bufOpen (leaveSleep s) c = true →
    w = bufRead (leaveSleep s) c d → b = fit (msgInLen c.msg) d →
    let l := bwEntries b (arg c 0)
    (bwEntriesOk b l = false → exec (.bwSet src (.data d)) s = .next (failWith w c rcBadField)) ∧
    (bwEntriesOk b l = true → l.all (fun e => bwAdmits w l (nextUrg w) e.r) = false → exec (.bwSet src (.data d)) s = .next (failWith w c rcOverGuarantee)) ∧
    (bwEntriesOk b l = true → l.all (fun e => bwAdmits w l (nextUrg w) e.r) = true → exec (.bwSet src (.data d)) s =
      .next (complete { w with bw := { w.bw with pending := w.bw.pending ++ l.map (fun e => (e.r, e.c, e.guar, e.cap)) } } c rcDone []))) ∧
  (∀ (s w : State) (src : DeskSrc) (c : RunCmd) (buf : HostRead), Serves s src 0x0801 c → w = leaveSleep s → msgInLen c.msg < 8 * arg c 0 →
    exec (.bwSet src buf) s = .next (failWith w c rcBadField)) ∧
  (∀ (s w : State) (src : DeskSrc) (c : RunCmd), Serves s src 0x0802 c → w = leaveSleep s →
    (msgOutLen c.msg < 272 * arg c 1 → exec (.bwStatus src) s = .next (failWith w c rcBadField)) ∧
    (272 * arg c 1 ≤ msgOutLen c.msg → exec (.bwStatus src) s =
      .next (completeOut w c rcDone [] (((List.range (arg c 1)).map (fun i => bwStatusBytes w (arg c 0 + i))).flatten)))) ∧
  (∀ (s w : State) (src : DeskSrc) (c : RunCmd) (u : PortUrg) (urg : Tbl Nat PortUrg), Serves s src 0x0803 c → w = leaveSleep s →
    u = { tgetD (nextUrg w) (arg c 0) {} with
      pins := natBit (arg c 1) 0, inBand := natBit (arg c 1) 1, boost := arg c 2, mask := BitVec.ofNat 32 (arg c 3) } →
    urg = tset (nextUrg w) (arg c 0) u →
    ((∀ r, r < 26 → natBit (arg c 3) r = true → bwAdmits w [] urg r = true) → exec (.bwUrgency src) s =
      .next (complete { w with bw := { w.bw with pendingUrg := tset w.bw.pendingUrg (arg c 0) u } } c rcDone [])) ∧
    (∀ r, r < 26 → natBit (arg c 3) r = true → bwAdmits w [] urg r = false → exec (.bwUrgency src) s = .next (failWith w c rcOverGuarantee))) ∧
  (∀ (s u : State), s.bw.lastWindow < s.now / 16000 → u = { s with
      bw := { s.bw with lastWindow := s.now / 16000, cells := tmap s.bw.cells (fun _ x => { x with
                demandLast := sat32 x.demand, delivLast := x.deliv, demand := 0, deliv := 0
                shortWin := if x.effGuar ≤ x.demand ∧ x.deliv < x.effGuar then satTo (2 ^ 24 - 1) (x.shortWin + 1) else x.shortWin }) }
      pool := { s.pool with caps := tmap s.pool.caps (fun _ c => { c with used := 0 }) } } →
    ∀ v, v = (List.range 8).foldl relayGo ((List.range 26).foldl bwScale (bwApply u)) →
    exec .ledgerWindow s = .next (v.link.sessions.foldl (fun s e => sessDrain e.2.unsent.length s e.1) v)) ∧
  (∀ (s : State), s.now / 16000 ≤ s.bw.lastWindow → exec .ledgerWindow s = .next s) ∧
  (∀ (s : State) (r : Nat), 1000 * derated s r < guarSum s r → s.bw.scaledRes.contains r = false →
    ∃ u : State, bwScale s r = logNow { u with bw := { u.bw with scaledRes := u.bw.scaledRes ++ [r] } }
      { kind := 0x0701, severity := 2, location := r, detail0 := derated s r, detail1 := guarSum s r / 1000 }) ∧
  (∀ (s u : State) (port : Nat) (level : BitVec 2) (x : PortUrg), s.pins.aux = true → x = tgetD s.link.urg port {} →
    u = { s with link := { s.link with urg := tset s.link.urg port (if x.sample = level then { x with level := level } else { x with sample := level }) } } →
    (2 ≤ urgLevel u port → exec (.urgLevelChange port level) s = .next (portWake u port)) ∧
    (urgLevel u port < 2 → exec (.urgLevelChange port level) s = .next u))

/-- POOL_OFFER takes extents from tier 2 or withdraws them. EXTENT_GRANT moves an IDLE extent to GRANTING, sends the
grant message and waits, with a failure code for this module's own node, a node without a path or session, or no IDLE
extent. LEASE_RENEW gives one status per extent. EXTENT_RECALL and a forwarded EXTENT_RETURN start draining.
MIRROR_RESOLVE copies each diverged block one way. POOL_LIMIT sets or removes a cap, POOL_STATUS pages a view, and
DEPOT_GRANT, DEPOT_REVOKE and the tray's events make, end, close and reopen grants. -/
def Obligations.PoolCommandsAtLender : Prop :=
  (∀ (s w t : State) (src : DeskSrc) (c : RunCmd), Serves s src 0x0601 c → w = leaveSleep s →
    (arg c 0 = 0 → tierClosed w 2 (halfOf (arg c 1)) = false → offerAll (arg c 2) w (halfOf (arg c 1)) = some t →
      exec (.poolOffer src) s = .next (complete t c rcDone [.u 2 (arg c 2), .u 2 0])) ∧
    (arg c 0 = 0 → tierClosed w 2 (halfOf (arg c 1)) = true → exec (.poolOffer src) s = .next (failWith w c rcNoSpace)) ∧
    (arg c 0 = 0 → offerAll (arg c 2) w (halfOf (arg c 1)) = none → exec (.poolOffer src) s = .next (failWith w c rcNoSpace)) ∧
    (∀ idle rest : List ((Half × Nat) × Extent), arg c 0 ≠ 0 →
      idle = ((extsOf w (halfOf (arg c 1))).filter (fun p => p.2.state == .idle)).take (arg c 2) →
      rest = ((extsOf w (halfOf (arg c 1))).filter (fun p => p.2.state != .idle && !p.2.withdraw)).take (arg c 2 - idle.length) →
      exec (.poolOffer src) s = .next (complete
        (rest.foldl (fun s p => extMod s p.1 (fun e => { e with withdraw := true })) (idle.foldl (fun s p => withdrawExtent s p.1) w))
        c rcDone [.u 2 idle.length, .u 2 rest.length]))) ∧
  (∀ (s w : State) (src : DeskSrc) (c : RunCmd) (node : Nat), Serves s src 0x0603 c → w = leaveSleep s → node = boardNode w (arg c 0) →
    (node = nodeId w → exec (.extentGrant src) s = .next (failWith w c rcBadField)) ∧
    (node ≠ nodeId w → hasPath w node = false → exec (.extentGrant src) s = .next (failWith w c rcPartnerAbsent)) ∧
    (node ≠ nodeId w → hasPath w node = true → systemOpen w node = false → exec (.extentGrant src) s = .next (failWith w c rcPartnerUntrusted)) ∧
    (node ≠ nodeId w → hasPath w node = true → systemOpen w node = true →
      (extsOf w (halfOf (arg c 3))).find? (fun p => p.2.state == .idle && !p.2.withdraw) = none → exec (.extentGrant src) s = .next (failWith w c rcNoSpace)) ∧
    (∀ k e, node ≠ nodeId w → hasPath w node = true → systemOpen w node = true →
      (extsOf w (halfOf (arg c 3))).find? (fun p => p.2.state == .idle && !p.2.withdraw) = some (k, e) →
      exec (.extentGrant src) s = .next (cmdWait (msgSend (extMod w k (fun e => { e with
        state := .granting, code := 0, borrower := node, request := arg c 5, role := arg c 1, index := arg c 2, set := arg c 4, since := w.now
        src := some c.src })) node 0x10 (grantBody (arg c 5) (arg c 1) (arg c 2) (arg c 4) (extCode k))) c.src))) ∧
  (∀ (s w t : State) (src : DeskSrc) (c : RunCmd) (buf : HostRead) (st : Bytes), Serves s src 0x0604 c → w = leaveSleep s →
    (c.mid = 4 ∨ isForward c.src = true) → renewAll w c (arg c 1) ((List.range (arg c 0)).map (argElem c 2 2)) = (t, st) →
    exec (.leaseRenew src buf) s = .next (complete t c (statusCode st) [.b st])) ∧
  (∀ (s : State) (c : RunCmd) (ext ms : Nat) (e : Extent), extOf s (codeExt ext) = some e → isForward c.src = false →
    ((e.state = .leased ∨ e.state = .grace) → leasedNow e = true →
      (recallComing s (codeExt ext) = false → renewOne s c ext ms = (renewExtent s (codeExt ext) ms, 0)) ∧
      (recallComing s (codeExt ext) = true → renewOne s c ext ms = (s, rcRecalled))) ∧
    ((e.state = .draining ∨ e.state = .erasing) → leasedNow e = false → renewOne s c ext ms = (s, if e.code = 0 then rcRecalled else e.code))) ∧
  (∀ (s w : State) (src : DeskSrc) (c : RunCmd), Serves s src 0x0605 c → w = leaveSleep s →
    (extOf w (codeExt (arg c 0)) = none → exec (.extentRecall src) s = .next (failWith w c rcNotPermitted)) ∧
    (∀ e, extOf w (codeExt (arg c 0)) = some e → leasedNow e = true → exec (.extentRecall src) s = .next
      (complete (sendNotice (enterDraining w (codeExt (arg c 0)) rcRecalled) e (codeExt (arg c 0)) rcRecalled) c rcDone []))) ∧
  (∀ (s w : State) (src : DeskSrc) (c : RunCmd) (e : Extent), Serves s src 0x0606 c → w = leaveSleep s → isForward c.src = true →
    extOf w (codeExt (arg c 0)) = some e →
    (heldBy e c.node c.mid = false → exec (.extentReturn src) s = .next (failWith w c rcNotPermitted)) ∧
    (heldBy e c.node c.mid = true → leasedNow e = true → exec (.extentReturn src) s =
      .next (complete (enterDraining w (codeExt (arg c 0)) rcRecalled) c rcDone []))) ∧
  (∀ (s w u : State) (src : DeskSrc) (c : RunCmd) (k : Half × Nat) (e : Extent), Serves s src 0x060D c → w = leaveSleep s → k = codeExt (arg c 0) →
    extOf w k = some e →
    (e.role ≠ 1 ∨ e.diverged = [] → exec (.mirrorResolve src) s = .next (failWith w c rcConflict)) ∧
    (e.role = 1 → e.diverged ≠ [] → arg c 1 = 0 →
      u = e.diverged.foldl (fun s b => blockSend s k e 3 b) w →
      exec (.mirrorResolve src) s = .next (complete (extMod u k (fun e => { e with diverged := [] })) c rcDone [])) ∧
    (e.role = 1 → e.diverged ≠ [] → arg c 1 ≠ 0 → u = e.diverged.foldl (fun s b => takeSecondary s k e b) w →
      exec (.mirrorResolve src) s = .next (complete (extMod u k (fun e => { e with diverged := [] })) c rcDone []))) ∧
  (∀ (s w : State) (src : DeskSrc) (c : RunCmd) (k : Nat × Nat), Serves s src 0x060E c → w = leaveSleep s → k = (boardNode w (arg c 0), arg c 1) →
    (arg c 2 = 0 → exec (.poolLimit src) s = .next (complete { w with pool := { w.pool with caps := tdel w.pool.caps k } } c rcDone [])) ∧
    (arg c 2 ≠ 0 → tget w.pool.caps k = none → exec (.poolLimit src) s =
      .next (complete { w with pool := { w.pool with caps := tset w.pool.caps k { gbps := arg c 2, used := 0 } } } c rcDone []))) ∧
  (∀ (s w : State) (src : DeskSrc) (c : RunCmd) (l r : List Nat), Serves s src 0x060F c → w = leaveSleep s →
    l = statusRecords w c (arg c 0) (arg c 1) → r = (l.drop (arg c 2)).take 12 →
    exec (.poolStatus src) s = .next (complete w c rcDone
      [.u 4 l.length, .u 4 (arg c 2 + r.length), .u 1 r.length, .b (fit 192 ((r.map (leBytes 16)).flatten))])) ∧
  (∀ (s w : State) (src : DeskSrc) (c : RunCmd) (t : Tenant) (n : Nat), Serves s src 0x0610 c → w = leaveSleep s →
    (List.range 8).any (fun p => (BitVec.ofNat 8 (arg c 2)).getLsbD p && (portOf w p).kind != .far) = false →
    (tenantOf w (arg c 0)).bind (fun t => tget w.tenants t) = some t →
    (t.depository = false → exec (.depotGrant src) s = .next (failWith w c rcNotPermitted)) ∧
    (t.depository = true → leastFrom (fun n => !thas (reapGrants w).pool.grants n) 4095 1 = some n →
      ∀ g : Grant, g = { holder := arg c 0, tray := arg c 1, far := BitVec.ofNat 8 (arg c 2), base := arg c 5, gib := arg c 4, protect := natBit (arg c 3) 0
                         nonce := trngBytes w.free 16 } →
        exec (.depotGrant src) s = .next (complete (poolOpen (grantPut (drew 16 (reapGrants w)) n g) (arg c 1) (arg c 0)) c rcDone [.u 2 n]))) ∧
  (∀ (s w : State) (src : DeskSrc) (c : RunCmd), Serves s src 0x0611 c → w = leaveSleep s →
    (tget w.pool.grants (arg c 0) = none → exec (.depotRevoke src) s = .next (failWith w c rcNotPermitted)) ∧
    (∀ g, tget w.pool.grants (arg c 0) = some g → g.state ≠ 2 → exec (.depotRevoke src) s =
      .next (complete (grantMod w (arg c 0) (fun g => { g with state := 2, nonce := [], endedAt := some w.now })) c rcDone []))) ∧
  (∀ (s : State) (n : Nat) (g : Grant), tget s.pool.grants n = some g →
    (g.state = 0 → exec (.trayTimeout n) s = .next (trayUnanswered s n)) ∧
    (∀ u, g.state = 1 → g.lastProbe + msT 10 ≤ s.now → u = emit s (.trayRead g.tray g.far (trayAddr g 0) 64) →
      exec (.trayProbe n true) s = .next (grantMod u n (fun g => { g with lastProbe := u.now, state := 0, unanswered := 0 })) ∧
      exec (.trayProbe n false) s = .next (grantMod u n (fun g => { g with lastProbe := u.now, state := 1 }))))

/-- EXTENT_REQUEST enters a PENDING request under the next number, within the tenant's quota and 64 requests.
LEASE_RENEW, EXTENT_RETURN, SHARE_CREATE, EDITION_OPEN, EDITION_PUBLISH, EDITION_CLOSE and NEAR_OP are checked at the
holder's module and forwarded to the lender, which acts on them. EXTENT_FLUSH waits until the holder's writes are
applied, and reports and clears the first refusal. A session that is not open gives PARTNER_ABSENT. -/
def Obligations.PoolCommandsAtHolder : Prop :=
  (∀ (s w : State) (src : DeskSrc) (c : RunCmd) (quota held asked pend : Nat) (mine : Nat → Bool), Serves s src 0x0602 c → w = leaveSleep s →
    (∀ m, mine m = (tenantOf w m == some (cmdTenant w c))) → quota = ((tget w.tenants (cmdTenant w c)).map (·.pool)).getD 0 →
    held = w.pool.handles.countP (fun p => mine p.2.master && p.2.view.isNone) →
    asked = ((w.pool.requests.filter (fun r => r.2.state == 0 && mine r.2.master)).map (fun r =>
      r.2.count - w.pool.handles.countP (fun p => p.2.request == r.1))).foldl (· + ·) 0 → pend = w.pool.requests.countP (fun r => r.2.state == 0) →
    (quota = 0 → exec (.extentRequest src) s = .next (failWith w c rcNotPermitted)) ∧
    (quota ≠ 0 → (quota < held + asked + arg c 0 ∨ 64 ≤ pend) → exec (.extentRequest src) s = .next (failWith w c rcNoSpace)) ∧
    (held + asked + arg c 0 ≤ quota → quota ≠ 0 → pend < 64 → exec (.extentRequest src) s = .next (complete { w with pool := { w.pool with
      requests := tset w.pool.requests w.pool.nextRequest
        { master := c.mid, count := arg c 0, protect := arg c 1, duration := arg c 2, timeoutAt := w.now + msT (arg c 3) }
      nextRequest := (w.pool.nextRequest + 1) % 2 ^ 32 } } c rcAccepted [.u 4 w.pool.nextRequest]))) ∧
  (∀ (s w : State) (src : DeskSrc) (c : RunCmd) (d : Bytes), c.mid ≠ 4 → isForward c.src = false → bufOpen (leaveSleep s) c = true →
    w = bufRead (leaveSleep s) c d →
    (Serves s src 0x0604 c → 4 * arg c 0 ≤ msgInLen c.msg → exec (.leaseRenew src (.data d)) s =
      .next (renewForward w c (bufWords (fit (msgInLen c.msg) d) (arg c 0)) (arg c 1))) ∧
    (Serves s src 0x0608 c → 4 * (arg c 0 + arg c 1 + arg c 2) ≤ msgInLen c.msg → exec (.shareCreate src (.data d)) s =
      .next (shareForward w c (arg c 0) (arg c 1) (bufWords (fit (msgInLen c.msg) d) (arg c 0 + arg c 1 + arg c 2)))) ∧
    (∀ hs : List (Nat × Handle), Serves s src 0x0607 c → 4 * arg c 0 ≤ msgInLen c.msg →
      hs = (bufWords d (arg c 0)).filterMap (fun x => ((tget (leaveSleep s).pool.handles x).filter (fun h => h.master == c.mid)).map (fun h => (x, h))) →
      hs.length = arg c 0 →
      (hs.any (fun p => writesOut (leaveSleep s) c.mid p.1 p.2) = true → exec (.extentFlush src (.data d)) s = .next (cmdHold (leaveSleep s) c)) ∧
      (hs.any (fun p => writesOut (leaveSleep s) c.mid p.1 p.2) = false → exec (.extentFlush src (.data d)) s =
        .next (complete (hs.foldl (fun s p => handleMod s p.1 (fun h => { h with refused := none })) w) c
          ((((hs.filterMap (fun p => p.2.refused.map (fun rc => (p.2.refusedAt, rc)))).mergeSort (fun a b => decide (a.1 ≤ b.1))).head?.map (·.2)).getD rcDone)
          [])))) ∧
  (∀ (s w u : State) (src : DeskSrc) (c : RunCmd) (h : Handle) (parts : List (Nat × Half × Nat)), Serves s src 0x0606 c → w = leaveSleep s →
    isForward c.src = false → heldHandle w c.mid (arg c 0) = some h → parts = (if h.lost then [] else handleParts h) ++ parityParts w (arg c 0) h →
    ((h.state = .recalled ∨ h.state = .expired) → exec (.extentReturn src) s = .next (complete (freeHandle w (arg c 0)) c rcDone [])) ∧
    (h.state = .live → parts.any (fun p => !systemOpen w p.1) = true → exec (.extentReturn src) s = .next (failWith w c rcPartnerAbsent)) ∧
    (h.state = .live → parts.any (fun p => !systemOpen w p.1) = false →
      u = parts.foldl (fun s p => forwardPart s c p.1 [] 0x0606 [.u 4 (extCode p.2)]) (freeHandle w (arg c 0)) →
      exec (.extentReturn src) s = .next (forwardDone u c.src (fun _ => [])))) ∧
  (∀ (s w : State) (src : DeskSrc) (c : RunCmd) (buf : HostRead) (words : List Nat), Serves s src 0x0608 c → w = leaveSleep s → isForward c.src = true →
    arg c 3 = 0 → words = (List.range (shareWords (arg c 0 + arg c 1 + arg c 2) 0)).map (argElem c 4 4) →
    (words.length = arg c 0 + arg c 1 + arg c 2 → exec (.shareCreate src buf) s = .next (shareMake w c (arg c 0) (arg c 1) words)) ∧
    (words.length ≠ arg c 0 + arg c 1 + arg c 2 → exec (.shareCreate src buf) s =
      .next (complete { w with pool := { w.pool with shareParts := tset w.pool.shareParts (c.node, c.mid) words } } c rcDone [.u 4 0]))) ∧
  (∀ (s w : State) (src : DeskSrc) (c : RunCmd), Serves s src 0x0609 c → w = leaveSleep s →
    (∀ node, isForward c.src = false → node = arg c 0 / 2 ^ 20 → node ≠ nodeId w →
      (systemOpen w node = false → exec (.editionOpen src) s = .next (failWith w c rcPartnerAbsent)) ∧
      (systemOpen w node = true → exec (.editionOpen src) s =
        .next (forwardPart w c node [] 0x0609 [.u 4 (arg c 0), .u 1 (arg c 1), .u 4 (arg c 2)]))) ∧
    (∀ (num n number key x : Nat) (r q : Shared) (m : Nat × Nat × Bool) (h : Half) (views : Tbl (Half × Nat) ViewExt), isForward c.src = true →
      num = arg c 0 % 2 ^ 20 → tget w.pool.shared num = some r → r.members.filter (fun m => m.1 == c.node && m.2.1 == c.mid) = [m] →
      arg c 1 = 0 → regionStatus w r w.now = 0 → q = reapEditions r w.now →
      (∀ k, q.before = some (w.now, k) → thas q.editions k = true → key = k) →
      ((∀ k, q.before = some (w.now, k) → thas q.editions k = false) → key = q.current) →
      n = q.dataExts.length → h = ((q.dataExts.head?).map (·.1)).getD .h0 → extRun w h n = some x →
      number = ((tget q.editions key).map (·.number)).getD 0 →
      views = (List.range n).foldl (fun t i => tset t (h, x + i) { region := num, key := key, index := i, node := c.node, mid := c.mid }) w.pool.views →
      exec (.editionOpen src) s = .next (complete { w with pool := { w.pool with
        shared := tset w.pool.shared num { q with editions := tmod q.editions key (fun e => { e with opens := e.opens + 1 }) }
        views := views } } c rcDone [.u 4 (n * 2 ^ 16 + extCode (h, x)), .u 4 number]))) ∧
  (∀ (s w : State) (src : DeskSrc) (c : RunCmd), Serves s src 0x060A c → w = leaveSleep s →
    (∀ h x n, isForward c.src = false → ownView w c.mid (arg c 0) = some h → h.view = some (x, n, true) →
      (writesOut w c.mid (arg c 0) h = true → exec (.editionPublish src) s = .next (cmdHold w c)) ∧
      (writesOut w c.mid (arg c 0) h = false → h.refusedCount = 0 → systemOpen w h.node = true → exec (.editionPublish src) s =
        .next (forwardPart w c h.node [] 0x060A [.u 4 (extCode (h.half, h.ext)), .u 4 (arg c 1)])) ∧
      (writesOut w c.mid (arg c 0) h = false → 0 < h.refusedCount → exec (.editionPublish src) s = .next (failWith w c rcNoSpace))) ∧
    (∀ v r e cur, isForward c.src = true → viewFor w c = some v → tget w.pool.shared v.region = some r → tget r.editions v.key = some e →
      cur = ((tget r.editions r.current).map (·.number)).getD 0 → e.draft = true → regionStatus w r w.now = 0 →
      (arg c 1 ≠ 0xFFFFFFFF → arg c 1 ≠ cur → exec (.editionPublish src) s = .next (failWith w c rcConflict)) ∧
      (arg c 1 ≠ 0xFFFFFFFF → arg c 1 = cur → e.number = cur → exec (.editionPublish src) s =
        .next (complete (sharedMod w v.region (fun _ => reapEditions { r with
          before := some (w.now, r.current), current := v.key, editions := tset r.editions v.key { e with number := cur + 1, draft := false, own := [] } }
          w.now)) c rcDone [.u 4 (cur + 1)])))) ∧
  (∀ (s w : State) (src : DeskSrc) (c : RunCmd), Serves s src 0x060B c → w = leaveSleep s →
    (∀ h, isForward c.src = false → ownView w c.mid (arg c 0) = some h → systemOpen w h.node = true → exec (.editionClose src) s =
      .next (forwardPart (freeHandle w (arg c 0)) c h.node [] 0x060B [.u 4 (extCode (h.half, h.ext))])) ∧
    (∀ v r k views, isForward c.src = true → viewFor w c = some v → tget w.pool.shared v.region = some r → k = codeExt (arg c 0) →
      views = (List.range r.dataExts.length).foldl (fun t i => tdel t (k.1, k.2 + i)) w.pool.views →
      exec (.editionClose src) s = .next (complete (sharedMod { w with pool := { w.pool with views := views } } v.region (fun r => reapEditions { r with
        editions := tfilter (tmod r.editions v.key (fun e => { e with opens := e.opens - 1 })) (fun key e => !(key == v.key && e.draft)) } w.now)) c rcDone []))) ∧
  (∀ (s w : State) (src : DeskSrc) (c : RunCmd) (srcs : List Nat) (dst : Option Nat), Serves s src 0x060C c → w = leaveSleep s → nearAddrs c = (srcs, dst) →
    (∀ rc node places, isForward c.src = false →
      rc = firstCode (srcs.map (fun a => nearCode w c.mid a (arg c 4) false) ++ (dst.map (fun a => nearCode w c.mid a (arg c 4) true)).toList) →
      places = (srcs ++ dst.toList).map (fun a => (nearAt w c.mid a (arg c 4)).1) → node = places.getD 0 0 →
      (rc ≠ rcDone → exec (.nearOp src) s = .next (failWith w c rc)) ∧
      (rc = rcDone → places.any (· != node) = true → exec (.nearOp src) s = .next (failWith w c rcBadField)) ∧
      (rc = rcDone → places.any (· != node) = false → systemOpen w node = true → exec (.nearOp src) s = .next (forwardPart w c node [] 0x060C
        [.u 1 (arg c 0), .u 1 (arg c 1), .u 1 (arg c 2), .u 1 (arg c 3), .u 4 (arg c 4), .u 8 (arg c 5)
        , .u 8 ((dst.map (fun a => (nearAt w c.mid a (arg c 4)).2)).getD 0)
        , .a 8 (srcs.map (fun a => (nearAt w c.mid a (arg c 4)).2) ++ List.replicate (7 - srcs.length) 0)]))) ∧
    (isForward c.src = true → exec (.nearOp src) s = .next (nearHere w c)))

/-- A lease past its due date enters GRACE with a record; 5 s later it drains with LEASE_EXPIRED and the borrower is
told. A draining extent with no running job, or after 100 µs, enters ERASING with a new key, and when zeroed becomes
IDLE or leaves the pool. A grant unanswered for 1 ms fails with PARTNER_ABSENT. The pool engine runs one job at a time
and completes its command. Resynchronisation copies the marked blocks; verification rewrites the older copy or the
parity line. -/
def Obligations.LenderEvents : Prop :=
  (∀ (s : State) (h : Half) (x : Nat) (e : Extent), extOf s (h, x) = some e →
    (e.state = .leased → e.due < s.now → exec (.dueDateExpiry h x) s = .next (logNow (extMod s (h, x) (fun e => { e with state := .grace }))
      { kind := 0x0401, severity := 0, location := extCode (h, x), detail0 := e.borrower, detail1 := e.due / 16 })) ∧
    (e.state = .leased → s.now ≤ e.due → exec (.dueDateExpiry h x) s = .next s) ∧
    (e.state = .grace → e.due + secT 5 ≤ s.now → exec (.graceEnd h x) s =
      .next (sendNotice (enterDraining s (h, x) rcLeaseExpired) e (h, x) rcLeaseExpired)) ∧
    (e.state = .draining → (jobsOf s .h0 ++ jobsOf s .h1).any (fun j => jobTouches s j (h, x)) = false → inboxNames s (h, x) e.since = false →
      s.pool.waits.any (fun w => w.on.any (fun p => p.1 == (h, x))) = false → exec (.drainEnd h x) s = .next (enterErasing s (h, x))) ∧
    (e.state = .draining → e.since + usT 100 ≤ s.now → exec (.drainEnd h x) s = .next (enterErasing s (h, x))) ∧
    (e.state = .erasing → e.region = none → e.withdraw = true → exec (.eraseEnd h x) s = .next (withdrawExtent s (h, x))) ∧
    (e.state = .erasing → e.region = none → e.withdraw = false → exec (.eraseEnd h x) s =
      .next (extMod s (h, x) (fun e => { base := e.base, key := e.key }))) ∧
    (∀ r, e.state = .erasing → e.region = some r → e.withdraw = false → exec (.eraseEnd h x) s =
      .next (extMod (dropShared s r) (h, x) (fun e => { base := e.base, key := e.key }))) ∧
    (∀ src, e.state = .granting → e.since + msT 1 ≤ s.now → e.src = some src → exec (.grantTimeout h x) s =
      .next (completeSrc (enterErasing s (h, x)) src rcPartnerAbsent []))) ∧
  (∀ (s t : State) (h : Half) (x : Nat) (e : Extent), extOf s (h, x) = some e → t = waitsEnd (stopJobs s (h, x) e.code) (h, x) e.code →
    ∃ u, u = extMod (drew 32 t) (h, x) (fun e => { e with
      state := .erasing, key := trngBytes t.free 32, since := t.now, stamps := [], diverged := [], single := false, marks := [], src := none
      sent := 0, taken := 0, ahead := [] }) ∧
      enterErasing s (h, x) = dramZero (entriesDrop (chargeWrite u 5 e.base gib (.tier h)) h e.base (e.base + gib)) e.base gib) ∧
  (∀ (s t : State) (h : Half) (j k : NearJob) (r : List NearJob), s.pool.engine.get h = (none, j :: r) →
    (nearEarlier s j = false → capOpen s 3 [22 + halfNum h] = true →
      runJob (charge (engineMod s h (fun _ => (none, r))) (22 + halfNum h) 3 (jobBytes j)) j = (t, k) →
      exec (.nearOpStart h) s = .next (engineMod t h (fun q => (some k, q.2)))) ∧
    ((nearEarlier s j = true ∨ capOpen s 3 [22 + halfNum h] = false) → exec (.nearOpStart h) s = .next s)) ∧
  (∀ (s : State) (h : Half) (j : NearJob) (r : List NearJob), s.pool.engine.get h = (some j, r) →
    exec (.nearOpStart h) s = .next s ∧
    (j.rc = 0 → exec (.nearOpEnd h) s = .next (completeSrc (engineMod s h (fun _ => (none, r))) j.src 0 [.u 1 j.outcome, .u 8 j.diffAt])) ∧
    (j.rc ≠ 0 → exec (.nearOpEnd h) s = .next (completeSrc (engineMod s h (fun _ => (none, r))) j.src j.rc []))) ∧
  (∀ (s u : State) (h : Half) (x : Nat) (e : Extent), extOf s (h, x) = some e → e.role = 1 →
    (∀ w : State, w = { s with pool := { s.pool with handles := tmap s.pool.handles (fun _ g =>
          if g.protect = 1 ∧ g.state = .single ∧ g.secondary.isSome ∧ g.half = h ∧ g.ext = x then { g with state := .live } else g) } } →
      (e.single = true → u = (resyncBlocks w e).foldl (fun s b => blockSend s (h, x) e 3 b) (bump w) →
        exec (.mirrorResyncEnd h x) s = .next (extMod u (h, x) (fun e => { e with single := false, marks := [] }))) ∧
      (e.single = false → exec (.mirrorResyncEnd h x) s = .next w)) ∧
    (∀ (b : Nat) (d : Bytes) (stamp : BitVec 64), e.single = false → leasedNow e = true → b < blocksPerExt →
      exec (.mirrorVerify h x b (.data d false) stamp) s = .next (verifyBlock s (h, x) e b (fit blockLen d) stamp))) ∧
  (∀ (s : State) (h : Half) (x line : Nat) (e : Extent) (a b c d : Bytes), extOf s (h, x) = some e → e.role = 4 → leasedNow e = true → line < gib / 64 →
    exec (.parityVerify h x line [.data a false, .data b false, .data c false, .data d false]) s =
      .next (parityCheck s (h, x) e (64 * line) (xorBytes (xorBytes (xorBytes (xorBytes (zeros 64) (fit 64 a)) (fit 64 b)) (fit 64 c)) (fit 64 d))))

/-- A grant message for an open role of a pending request is accepted under a handle, and any other is refused with
CONFLICT. ACCEPT leases the extent and completes EXTENT_GRANT; REFUSE erases it and passes on the code. A request past
its TIMEOUT ends NO_SPACE and returns the components of incomplete units. A notice ends an unprotected handle, which
is free 65 s later. A lost mirror part leaves the extent SINGLE or FAILED; a lost parity component leaves the set
DEGRADED or FAILED until it is rebuilt. The request window follows the latest LOAD within 64 to 4,096, once a
microsecond. -/
def Obligations.BorrowerEvents : Prop :=
  (∀ (s t : State) (m : Message) (g : GrantMsg), takeMsg s 0x10 = some (m, t) → g = parseGrant m.body →
    (∀ n h, replaceFor t m.node g = some (n, h) → exec .grantMessage s = .next (acceptReplacement t m.node g n h)) ∧
    (∀ r h, replaceFor t m.node g = none → tget t.pool.requests g.request = some r → roleOpen r m.node g = true → compHandle t r g = some h →
      exec .grantMessage s = .next (acceptComp t m.node r g h)) ∧
    (∀ r, replaceFor t m.node g = none → tget t.pool.requests g.request = some r → roleOpen r m.node g = true → compHandle t r g = none →
      exec .grantMessage s = .next (msgSend t m.node 0x12 (leBytes 4 g.request ++ leBytes 2 rcConflict))) ∧
    (∀ r, replaceFor t m.node g = none → tget t.pool.requests g.request = some r → roleOpen r m.node g = false →
      exec .grantMessage s = .next (msgSend t m.node 0x12 (leBytes 4 g.request ++ leBytes 2 rcConflict))) ∧
    (replaceFor t m.node g = none → tget t.pool.requests g.request = none →
      exec .grantMessage s = .next (msgSend t m.node 0x12 (leBytes 4 g.request ++ leBytes 2 rcConflict)))) ∧
  (∀ (s t u : State) (m : Message) (k : Half × Nat) (e : Extent) (src : DeskSrc), takeMsg s 0x11 = some (m, t) →
    grantingFor t m.node (leAt m.body 0 4) = some (k, e) → e.src = some src →
    u = extMod t k (fun e => { e with
      state := .leased, holder := leAt m.body 8 2 % 4096, duration := leAt m.body 12 4, due := t.now + msT (leAt m.body 12 4), src := none }) →
    (¬(e.withdraw = true ∧ (t.halves.get k.1).t2Failing = true) →
      exec .grantAccept s = .next (completeSrc u src rcDone [.u 2 (extCode k)])) ∧
    (e.withdraw = true ∧ (t.halves.get k.1).t2Failing = true →
      exec .grantAccept s = .next (completeSrc (sendNotice (enterDraining u k rcRecalled) { e with state := .leased } k rcRecalled) src rcDone [.u 2 (extCode k)]))) ∧
  (∀ (s t : State) (m : Message) (k : Half × Nat) (e : Extent) (src : DeskSrc), takeMsg s 0x12 = some (m, t) →
    grantingFor t m.node (leAt m.body 0 4) = some (k, e) → e.src = some src →
    exec .grantRefuse s = .next (completeSrc (enterErasing t k) src (leAt m.body 4 2) [])) ∧
  (∀ (s : State) (n : Nat) (r q : PoolReq), tget s.pool.requests n = some r → r.state = 0 → r.timeoutAt ≤ s.now →
    q = { r with state := 2, doneAt := s.now } →
    exec (.requestTimeout n) s = .next ((r.comps.filter (fun c => !setFull r c.unitIdx)).foldl (fun s c => returnPart s r.master (c.node, c.half, c.ext))
      { s with pool := { s.pool with
        requests := tset s.pool.requests n q
        freedAt := (r.comps.filter (fun c => !setFull r c.unitIdx)).foldl (fun t c => tset t c.handle s.now) s.pool.freedAt } })) ∧
  (∀ (s t : State) (m : Message), takeMsg s 0x13 = some (m, t) → exec .noticeReceive s = .next
    ((t.pool.handles.filter (fun p => p.2.view.isNone)).foldl (fun s p => noticeHandle s m.node (codeExt (leAt m.body 0 2)) (leAt m.body 2 2) p.1 p.2) t)) ∧
  (∀ (s : State) (node : Nat) (k : Half × Nat) (code n : Nat) (h : Handle), h.protect = 0 → h.node = node → (h.half, h.ext) = k →
    noticeHandle s node k code n h = handleMod s n (fun h => { h with
      state := if code = rcLeaseExpired then .expired else .recalled, noticeAt := some s.now })) ∧
  (∀ (s : State) (n t : Nat) (h : Handle), tget s.pool.handles n = some h → h.noticeAt = some t → (h.state = .recalled ∨ h.state = .expired) →
    (t + secT 65 ≤ s.now → exec (.handleFreeTimeout n) s = .next (freeHandle s n)) ∧
    (s.now < t + secT 65 → exec (.handleFreeTimeout n) s = .next s)) ∧
  (∀ (s : State) (n : Nat) (h : Handle), tget s.pool.handles n = some h → h.protect = 1 →
    (∀ p, h.secondary = some p →
      exec (.mirrorComponentLoss n .secondary) s = .next (handleMod s n (fun h => { h with secondary := none, state := .single })) ∧
      exec (.mirrorComponentLoss n .primary) s = .next (reissue (handleMod s n (fun h => { h with
        node := p.1, half := p.2.1, ext := p.2.2, secondary := none, state := .single })) n)) ∧
    (h.secondary = none → exec (.mirrorComponentLoss n .primary) s = .next (handleMod s n (fun h => { h with state := .failed, lost := true })))) ∧
  (∀ (s : State) (set i : Nat), i < 5 →
    (∀ n, tget s.pool.parity set = some .normal → i < 4 → (setHandles s set)[i]? = some n → exec (.parityComponentLoss set i) s =
      .next (paritySet (handleMod s n (fun h => { h with lost := true })) set (.degraded i))) ∧
    (∀ n j, tget s.pool.parity set = some (.degraded j) → j ≠ i → i < 4 → (setHandles s set)[i]? = some n → exec (.parityComponentLoss set i) s =
      .next (paritySet (handleMod s n (fun h => { h with lost := true })) set .failed)) ∧
    (∀ u, tget s.pool.parity set = some .normal → i = 4 → u = { s with pool := { s.pool with handles := tmap s.pool.handles (fun _ h =>
        if h.protect = 2 ∧ h.set = some set then { h with secondary := none } else h) } } →
      exec (.parityComponentLoss set i) s = .next (paritySet u set (.degraded i))) ∧
    (∀ n u, u = rebuildHere s set i → tget u.pool.parity set = some (.degraded i) → (setHandles u set)[i]? = some n → exec (.parityRebuildEnd set i) s =
      .next (paritySet (handleMod u n (fun h => { h with lost := false })) set .normal))) ∧
  (∀ (s : State) (lender w x : Nat), w = tgetD s.pool.window lender 1024 →
    (tget s.pool.load lender = some 3 → x = max 64 (w / 2)) → ((tget s.pool.load lender = some 2 ∨ tget s.pool.load lender = none) → x = w) →
    (∀ l, tget s.pool.load lender = some l → l ≠ 2 → l ≠ 3 → x = min 4096 (w + 128)) →
    (tgetD s.pool.adjusted lender 0 < s.now / usT 1 → exec (.poolWindowAdjust lender) s = .next (lenderGo { s with pool := { s.pool with
      window := tset s.pool.window lender x
      adjusted := tset s.pool.adjusted lender (s.now / usT 1) } } lender)) ∧
    (s.now / usT 1 ≤ tgetD s.pool.adjusted lender 0 → exec (.poolWindowAdjust lender) s = .next s) ∧
    (64 ≤ w → w ≤ 4096 → 64 ≤ x ∧ x ≤ 4096))

/-- LINK_STATUS returns a port's state and counters. LINK_CONFIG sets a port's kind, low-power permission and partner
and restarts it, or all ports with a new board number. LINK_ANCHOR adds a verified anchor at a free index or removes
one, and takes measurement 4 again. SESSION_BIND adds or removes a binding of at most 64 per port, and SESSION_CLOSE
closes a session at once or once nothing waits for acknowledgement. WINDOW_SET sets a checked window and completes
when no request of the old one is outstanding. ROUTE_SET changes the port mask of a node, and PORT_RESET restarts a
port. -/
def Obligations.LinkCommands : Prop :=
  (∀ (s w : State) (src : DeskSrc) (c : RunCmd) (q : Port), Serves s src 0x0701 c → w = quietNow s → q = portOf w (arg c 0) →
    exec (.linkStatus src) s = .next (complete w c rcDone
      [.u 1 (portCode q.state), .u 1 (portKindCode q.kind), .u 1 (portWidth q), .u 1 (lpCode q.lp), .u 2 q.partner, .u 2 q.refusal
      , .u 8 (sessionMask w (arg c 0)), .u 8 q.counters.corrected, .u 4 q.counters.uncorr, .u 4 q.counters.naks, .u 4 q.counters.retrains
      , .u 4 q.counters.tagFail, .u 4 q.counters.malformed])) ∧
  (∀ (s w u : State) (src : DeskSrc) (c : RunCmd), Serves s src 0x0702 c → w = leaveSleep s → arg c 0 ≠ 0xFF →
    u = portMod w (arg c 0) (fun q => { q with kind := codePortKind (arg c 1), lpPermit := BitVec.ofNat 2 (arg c 2), partnerCfg := arg c 5 }) →
    (natBit (arg c 3) 0 = false → exec (.linkConfig src) s = .next (complete (portStart u (arg c 0)) c rcDone [])) ∧
    (natBit (arg c 3) 0 = true → exec (.linkConfig src) s = .next (complete (boardSet u (arg c 4)) c rcDone []))) ∧
  (∀ (s w : State) (src : DeskSrc) (c : RunCmd), Serves s src 0x0702 c → w = leaveSleep s → arg c 0 = 0xFF → natBit (arg c 3) 0 = true →
    exec (.linkConfig src) s = .next (complete (boardSet w (arg c 4)) c rcDone [])) ∧
  (∀ (s w : State) (src : DeskSrc) (c : RunCmd) (buf : HostRead), Serves s src 0x0703 c → w = leaveSleep s → arg c 0 = 1 →
    (thas w.sec.anchors (arg c 1) = false → exec (.linkAnchor src buf) s = .next (failWith w c rcNotPermitted)) ∧
    (∀ u, thas w.sec.anchors (arg c 1) = true → u = { w with sec := { w.sec with anchors := tdel w.sec.anchors (arg c 1) } } →
      exec (.linkAnchor src buf) s = .next (complete (measTake u 4 (anchorBytes u)) c rcDone []))) ∧
  (∀ (s w : State) (src : DeskSrc) (c : RunCmd) (d b : Bytes), Serves s src 0x0703 c → arg c 0 ≠ 1 → msgInLen c.msg ≤ 2048 →
    bufOpen (leaveSleep s) c = true → w = bufRead (leaveSleep s) c d → b = fit (msgInLen c.msg) d →
    (thas w.sec.anchors (arg c 1) = true → exec (.linkAnchor src (.data d)) s = .next (failWith w c rcConflict)) ∧
    (thas w.sec.anchors (arg c 1) = false → exec (.linkAnchor src (.data d)) s = .next
      (if Config.anchorOk b then complete (anchorsSet w (tset w.sec.anchors (arg c 1) b)) c rcDone [] else failWith w c rcSignatureFail))) ∧
  (∀ (s w : State) (src : DeskSrc) (c : RunCmd) (b : Binding), Serves s src 0x0704 c → w = leaveSleep s →
    b = { tenant := cmdTenant w c, port := arg c 1, node := arg c 2, mid := arg c 3 } →
    (arg c 0 = 0 → w.link.bindings.contains b = true → exec (.sessionBind src) s = .next (failWith w c rcConflict)) ∧
    (arg c 0 = 0 → w.link.bindings.contains b = false → 64 ≤ w.link.bindings.countP (fun y => y.port == b.port) →
      exec (.sessionBind src) s = .next (failWith w c rcNoSpace)) ∧
    (arg c 0 = 0 → w.link.bindings.contains b = false → w.link.bindings.countP (fun y => y.port == b.port) < 64 →
      exec (.sessionBind src) s = .next (complete { w with link := { w.link with bindings := w.link.bindings ++ [b] } } c rcDone [])) ∧
    (arg c 0 ≠ 0 → w.link.bindings.contains b = false → exec (.sessionBind src) s = .next (failWith w c rcNotPermitted)) ∧
    (arg c 0 ≠ 0 → w.link.bindings.contains b = true → exec (.sessionBind src) s = .next (complete ((boundSessions w b).foldl sessionClose
      { w with link := { w.link with bindings := w.link.bindings.erase b } }) c rcDone []))) ∧
  (∀ (s w : State) (src : DeskSrc) (c : RunCmd) (k : Nat × Nat) (x : Session), Serves s src 0x0705 c → w = leaveSleep s → k = (arg c 0, arg c 1) →
    sessOf w k = some x →
    (¬(c.mid = 1 ∨ (x.kind ≠ .system ∧ tenantOf w x.localMid = some (cmdTenant w c))) → exec (.sessionClose src) s = .next (failWith w c rcNotPermitted)) ∧
    ((c.mid = 1 ∨ (x.kind ≠ .system ∧ tenantOf w x.localMid = some (cmdTenant w c))) → x.state = .opened → x.unacked = [] → x.unsent = [] →
      exec (.sessionClose src) s = .next (complete (sessionLost (sctlSend w k 12 []) k) c rcDone [])) ∧
    ((c.mid = 1 ∨ (x.kind ≠ .system ∧ tenantOf w x.localMid = some (cmdTenant w c))) → x.state = .opened → x.unsent ≠ [] →
      exec (.sessionClose src) s = .next (complete (sessMod w k (fun x => { x with state := .closing })) c rcDone []))) ∧
  (∀ (s w u : State) (src : DeskSrc) (c : RunCmd), Serves s src 0x0706 c → w = leaveSleep s → arg c 2 = 1 → c.acc = [] →
    (windowFieldsOk w c = false → exec (.windowSet src) s = .next (failAddrs w c (if arg c 3 = 0 then [arg c 5] else []) rcBadField)) ∧
    (windowFieldsOk w c = true → tenantOf w c.mid ≠ none →
      ((tgetD w.link.windows (arg c 0, arg c 1) {}).enable = true → some (tgetD w.link.windows (arg c 0, arg c 1) {}).tenant = tenantOf w c.mid) →
      ∀ x : InWin, x = { enable := true, queue := arg c 3 == 1, rights := BitVec.ofNat 2 (arg c 4), base := arg c 5, size := arg c 6
                         sessions := BitVec.ofNat 64 (arg c 7), tenant := cmdTenant w c } →
      u = { w with link := { w.link with
        windows := tset w.link.windows (arg c 0, arg c 1) x
        windowsBefore := tset w.link.windowsBefore (arg c 0, arg c 1) (w.now, winOf w (arg c 0) (arg c 1)) } } →
      (portRequests u (arg c 0) = false → exec (.windowSet src) s = .next (complete u c rcDone [])) ∧
      (portRequests u (arg c 0) = true → exec (.windowSet src) s = .next (runningSet u c (fun r => { r with acc := [1] }))))) ∧
  (∀ (s w u : State) (src : DeskSrc) (c : RunCmd) (old : InWin), Serves s src 0x0706 c → w = leaveSleep s → arg c 2 ≠ 1 → c.acc = [] →
    old = tgetD w.link.windows (arg c 0, arg c 1) {} →
    (c.mid = 1 ∨ old.enable = false ∨ some old.tenant = tenantOf w c.mid) →
    u = { w with link := { w.link with
      windows := tset w.link.windows (arg c 0, arg c 1) { old with enable := false }
      windowsBefore := tset w.link.windowsBefore (arg c 0, arg c 1) (w.now, winOf w (arg c 0) (arg c 1)) } } →
    (portRequests u (arg c 0) = false → exec (.windowSet src) s = .next (complete u c rcDone [])) ∧
    (portRequests u (arg c 0) = true → exec (.windowSet src) s = .next (runningSet u c (fun r => { r with acc := [1] })))) ∧
  (∀ (s w : State) (src : DeskSrc) (c : RunCmd), Serves s src 0x0706 c → w = leaveSleep s → c.acc ≠ [] →
    (portRequests w (arg c 0) = false → exec (.windowSet src) s = .next (complete w c rcDone [])) ∧
    (portRequests w (arg c 0) = true → exec (.windowSet src) s = .next w)) ∧
  (∀ (s w u : State) (src : DeskSrc) (c : RunCmd), Serves s src 0x0707 c → w = leaveSleep s →
    u = { w with link := { w.link with routes := tset w.link.routes (arg c 0) (BitVec.ofNat 8 (arg c 1)) } } →
    exec (.routeSet src) s = .next (complete (repath w u) c rcDone [])) ∧
  (∀ (s w : State) (src : DeskSrc) (c : RunCmd), Serves s src 0x0708 c → w = leaveSleep s →
    exec (.portReset src) s = .next (complete (portStart w (arg c 0)) c rcDone []))

/-- At start-up a configured port sends training frames. Equalisation runs it on all lanes, or on four good ones, or
takes it DOWN for 1 s. Flit lock sends HELLO, and a HELLO that follows the wiring and the kind leads to
authentication, of which the lower node sends its certificate first; any other takes the port DOWN for 10 s. The
certificate, key exchange and confirmation follow in order, and a failed check leaves the port untrusted. AUTH_DONE
leads to the first TIME exchange. A step that lasts too long fails. -/
def Obligations.PortEntry : Prop :=
  (∀ (s : State) (p : Nat) (q : Port), q = portOf s p →
    (p < 8 → s.boot.stage = .served → q.kind ≠ .off → q.state = .down → q.step = 0 → q.retryAt = none →
      exec (.portEnable p) s = .next (portStart (portMod s p (fun q => { q with downSince := s.now })) p)) ∧
    (∀ lanes, q.state = .training → q.step ≤ 2 →
      (∀ l, lanesUsed lanes = some l → exec (.equalisationDone p lanes) s = .next (portMod s p (fun q => { q with lanes := l, step := 3, stepSince := s.now }))) ∧
      (lanesUsed lanes = none → exec (.equalisationDone p lanes) s = .next (portDown s p .down (some (s.now + secT 1))))) ∧
    (∀ t, q.retryAt = some t →
      (t ≤ s.now → exec (.portRetryTimer p) s = .next (portStart s p)) ∧ (s.now < t → exec (.portRetryTimer p) s = .next s)) ∧
    (∀ u, q.state = .training → q.step = 3 →
      u = flowMod (portMod s p (fun q => { q with step := 4, stepSince := s.now })) p (fun f => { f with
        replay := f.replay.map (fun x => { x with resends := 0 }) }) →
      exec (.flitLock p) s = .next (portSettle (lctlSend (replayFrom u p (firstKept q)) p 1 (helloBody u p)) p)) ∧
    ((q.state = .training ∨ q.state = .authenticating) → ∀ t, stepLimit q.step = some t → q.stepSince + t ≤ s.now →
      (q.step = 5 → exec (.trainingTimeout p) s = .next (portUntrusted s p)) ∧
      (q.step = 4 → exec (.trainingTimeout p) s = .next (portDown (linkLog s p 1 0) p .down (some (s.now + secT 10)))) ∧
      (q.step < 4 → exec (.trainingTimeout p) s = .next (portDown (linkLog s p 1 0) p .down (some (s.now + secT 1)))))) ∧
  (∀ (s t : State) (p : Nat) (f : Flit) (b : Bytes), inboxHead s p (isLctl 1) = some f → t = inboxPop s p → (portOf s p).state = .training → (portOf s p).step = 4 →
    b = ctlOne f →
    (∀ v u, helloCheck t p b = (true, true) → (portOf s p).key = none → v = portMod t p (fun q => { q with partner := leAt b 2 2 }) →
      u = portMod v p (fun q => { q with state := .authenticating, step := 5, stepSince := v.now }) →
      (nodeId u < leAt b 2 2 → exec (.hello p) s = .next (authStart u p)) ∧ (leAt b 2 2 ≤ nodeId u → exec (.hello p) s = .next u)) ∧
    (∀ k, helloCheck t p b = (true, true) → (portOf s p).key = some k →
      exec (.hello p) s = .next (awaitTime (portMod t p (fun q => { q with partner := leAt b 2 2 })) p)) ∧
    (∀ k, helloCheck t p b = (false, k) → exec (.hello p) s = .next (portDown (linkLog (portMod t p (fun q => { q with mismatch := stickySet t.now })) p 1 0) p .down
      (some (t.now + secT 10)))) ∧
    (helloCheck t p b = (true, false) → exec (.hello p) s = .next (portDown (linkLog t p 1 0) p .down (some (t.now + secT 10))))) ∧
  (∀ (s t u : State) (p : Nat) (f : Flit) (q : Port), t = inboxPop s p → q = portOf t p → q.state = .authenticating → q.step = 5 →
    t.sec.krOk = true → t.sec.debugUnlocked = false →
    (∀ total b cert, inboxHead s p (isLctl 2) = some f → ctlBody f = (0, total, b) → cert = b → u = portMod t p (fun _ => { q with certIn := cert, stepSince := t.now }) →
      (cert.length < total → exec (.authCert p) s = .next u) ∧
      (total ≤ cert.length → q.partner < nodeId u → exec (.authCert p) s = .next
        (if Config.chainTrusted (anchorList u) cert (kindNum q.kind) then lctlSend u p 2 (certChain u) else portUntrusted u p)) ∧
      (total ≤ cert.length → nodeId u ≤ q.partner → exec (.authCert p) s = .next (if Config.chainTrusted (anchorList u) cert (kindNum q.kind) then
        lctlSend (portMod (drawEph u).1 p (fun q => { q with eph := (drawEph u).2 })) p 3 (vbytes (Config.ecPoint (drawEph u).2)) else portUntrusted u p))) ∧
    (∀ e x v, inboxHead s p (isLctl 3) = some f → q.certIn ≠ [] → q.partner ≤ nodeId t → drawEph t = (v, e) → x = { q with pointIn := slice (ctlOne f) 0 64, eph := e } →
      exec (.keyxA p) s = .next (lctlSend (portMod v p (fun _ => x)) p 4
        (vbytes (Config.ecPoint e) ++ vbytes (Config.confirmMake (ownSeed (portMod v p (fun _ => x))) (peerOf x) e false)))) ∧
    (∀ x, inboxHead s p (isLctl 4) = some f → q.eph ≠ [] → nodeId t ≤ q.partner → x = { q with pointIn := slice (ctlOne f) 0 64 } → u = portMod t p (fun _ => x) →
      exec (.keyxB p) s = .next (if Config.confirmOk (ownSeed u) (peerOf x) x.eph (slice (ctlOne f) 64 32) then
        portKeyed (lctlSend u p 5 (vbytes (Config.confirmMake (ownSeed u) (peerOf x) x.eph true))) p else portUntrusted u p)) ∧
    (inboxHead s p (isLctl 5) = some f → q.pointIn ≠ [] → q.partner ≤ nodeId t →
      exec (.confA p) s = .next (if Config.confirmOk (ownSeed t) (peerOf q) q.eph (slice (ctlOne f) 0 32) then lctlSend (portKeyed t p) p 6 [] else portUntrusted t p)) ∧
    (∀ k, inboxHead s p (isLctl 6) = some f → q.key = some k →
      (nodeId t < q.partner → exec (.authDone p) s = .next (awaitTime (lctlSend t p 6 []) p)) ∧
      (q.partner ≤ nodeId t → exec (.authDone p) s = .next (awaitTime t p))))

/-- A flit with a failed check or an unexpected LSEQ is discarded, and the first after an accepted one is answered by
a NAK. An accepted one counts the symbols corrected in it, advances LSEQ, frees the flits that LACK covers, returns
credits, and is taken by its type. A NAK or 2 µs without progress sends kept flits again, and the ninth time retrains
the port. Credit withheld on an empty channel is logged after 1 ms and holds the port DOWN after 100 ms. A port that
loses its link is DOWN for 1 s; back in service for 1 s, it has its sessions again; after 60 s DOWN it has failed. -/
def Obligations.PortService : Prop :=
  (∀ (s t : State) (p : Nat) (raw : Bytes) (bad : Bool), portUp (portOf s p) = true →
    t = (if bad then countPort s p (fun c => { c with uncorr := sat32 (c.uncorr + 1) }) else s) →
    ((bad = true ∨ raw.length ≠ 256 ∨ leAt raw 0xFC 4 ≠ (crc32c (slice raw 0 252)).toNat ∨ leAt raw 0xF8 4 % 4096 ≠ (portOf s p).flow.rxLseq) →
      exec (.flitReceive p raw bad) s = .next (flitDiscard t p)) ∧
    (∀ u, bad = false → raw.length = 256 → leAt raw 0xFC 4 = (crc32c (slice raw 0 252)).toNat → leAt raw 0xF8 4 % 4096 = (portOf s p).flow.rxLseq →
      ctlWaits s p = false → u = flowMod s p (fun f => { f with
        nakSent := false, rxLseq := if byteAt raw 0 &&& 0x0F == 0 then f.rxLseq else (f.rxLseq + 1) % 4096 }) →
      exec (.flitReceive p raw bad) s = .next (flitTake (flitAck (symbolsCorrected u p) p (leAt raw 0xF8 4)) p raw))) ∧
  (∀ (s : State) (p : Nat) (raw : Bytes) (bad : Bool), portUp (portOf s p) = false → exec (.flitReceive p raw bad) s = .next s) ∧
  (∀ (s t : State) (p : Nat) (f : Flit) (n : Nat) (x : Sent), inboxHead s p (isLctl 7) = some f → t = inboxPop s p → n = leAt (ctlOne f) 0 2 % 4096 →
    (portOf t p).flow.replay.find? (fun x => x.lseq == n) = some x →
    (x.resends < 8 → exec (.linkNak p) s = .next (replayFrom t p n)) ∧ (8 ≤ x.resends → exec (.linkNak p) s = .next (portRetrain t p))) ∧
  (∀ (s : State) (p : Nat) (q : Port), q = portOf s p →
    (portUp q = true → q.flow.replay ≠ [] → q.flow.lackAt + usT 2 ≤ s.now → exec (.replayTimeout p) s = .next (replayFrom s p (firstKept q))) ∧
    (q.state = .inService → q.flow.replay.any (fun x => decide (8 ≤ x.resends)) = true → exec (.portRetrain p) s = .next (portRetrain s p)) ∧
    (q.state = .inService → exec (.portLeaveService p) s = .next (portDown s p .down (some (s.now + secT 1)))) ∧
    (∀ t, q.inServiceSince = some t → q.returned = false → t + secT 1 ≤ s.now →
      ∃ u, u = portMod s p (fun q => { q with returned := true }) ∧ exec (.pathReturnTimer p) s = .next (repath s u)) ∧
    (q.kind ≠ .off → q.state = .down → q.failed = false → s.boot.stage = .served → q.downSince + secT 60 ≤ s.now →
      exec (.portFailureTimeout p) s = .next (portMod s p (fun q => { q with failed := true }))) ∧
    (∀ ch t, tget q.flow.withheldSince ch = some t → q.state = .inService → q.flow.credits.getD ch 0 = 0 →
      (t + msT 100 ≤ s.now → exec (.creditWithheldTimeout p ch) s = .next (portHold s p 6)) ∧
      (s.now < t + msT 100 → t + msT 1 ≤ s.now → q.flow.withheldLogged.contains ch = false → exec (.creditWithheldTimeout p ch) s =
        .next (flowMod (linkLog s p 5 0) p (fun f => { f with withheldLogged := f.withheldLogged ++ [ch] }))) ∧
      (s.now < t + msT 1 → exec (.creditWithheldTimeout p ch) s = .next s)))

/-- The master pulses SYNC_OUT for 20 ns at each multiple of 65,536 ns. A falling edge, or a master's TIME flit where
no pulse comes, gives the offset that device time follows, by one step forward at first and then by slewing; beyond
±20 ns for 1 ms sets SYNC_ERR. The lowest slot among those heard that hears no master for 1 ms becomes it, and one
that has just become it yields to another. TIME flits leave every 10 µs. A port asks for the deepest low-power state
that its conditions allow, and answers, takes or drops a request; a wake returns it to L0. -/
def Obligations.BoardTimeAndLowPower : Prop :=
  (∀ (s u : State), s.link.sync.master = true → s.pins.pwrOk = true → s.pins.perstN = true →
    (s.link.sync.lastPulse.getD 0 < s.now / syncPeriod → u = syncMod s (fun y => { y with lastPulse := some (s.now / syncPeriod) }) →
      exec .syncPulse s = .next { u with pins := { s.pins with syncOutLowUntil := some (s.now + nsT 20) } }) ∧
    (s.now / syncPeriod ≤ s.link.sync.lastPulse.getD 0 → exec .syncPulse s = .next s)) ∧
  (∀ (s : State) (t d : Int), s.pins.perstN = true → s.power.state ≠ .auxOnly → s.link.sync.master = false →
    t = (s.now : Int) - s.link.sync.skew.getD s.ident.slot.toNat 0 → d = nearestPulse (t + masterTheta s) - t →
    exec .syncInEdge s = .next (follow (syncMod s (fun y => { y with heardMasterAt := s.now, pulseAt := some s.now })) d)) ∧
  (∀ (s u : State) (d : Int), u = syncMod s (fun y => { y with stepped := true, phase := 0 }) →
    (s.link.sync.stepped = false → s.link.sync.locked = false → s.eng.ctxs = [] → 0 ≤ d →
      follow s d = offsetSeen { u with now := ((s.now : Int) + d).toNat } 0) ∧
    ((s.link.sync.stepped = true ∨ s.link.sync.locked = true ∨ d < 0) → follow s d = offsetSeen (syncMod s (fun y => { y with stepped := true, phase := d })) d)) ∧
  (∀ (s : State) (t : Nat), s.link.sync.awaySince = some t → s.link.sync.syncErr.val = false → s.link.sync.master = false →
    (t + msT 1 ≤ s.now → exec .syncErrTimeout s = .next (logNow (syncMod s (fun y => { y with syncErr := stickySet s.now }))
      { kind := 0x0502, severity := 2, detail0 := signedIn 64 (s.link.sync.offset / 16) })) ∧
    (s.now < t + msT 1 → exec .syncErrTimeout s = .next s)) ∧
  (∀ s : State, s.boot.stage = .served → s.link.sync.master = false → s.link.sync.heardMasterAt + msT 1 ≤ s.now →
    (∀ h ∈ s.link.sync.heardSlots, s.now ≤ h.2.1 + msT 1 → s.ident.slot.toNat < h.1) → (∃ h ∈ s.link.sync.heardSlots, s.now ≤ h.2.1 + msT 1) →
    exec .masterElection s = .next (syncMod s (fun y => { y with
      master := true, masterSince := s.now, phase := 0, awaySince := none, lastPulse := some (s.now / syncPeriod) }))) ∧
  (∀ (s t : State) (p : Nat) (q : Port) (b : Bytes), q = portOf s p → q.state = .inService → q.lp ≠ .ls → q.time.lastSent + usT 10 ≤ s.now →
    portSeal s p true (ownFlit 2 3 25 (fit 224 (timePayload s q))) = (t, b) →
    exec (.timeFlitSend p) s = .next (keyRenew (portEnterIf (portPut (portMod t p (fun q => { q with time := { q.time with lastSent := t.now } })) p (some 3) b) p) p)) ∧
  (∀ (s t u v : State) (p rx tx : Nat) (f : Flit) (q : Port), inboxHead s p (fun f => f.type == 2) = some f → t = inboxPop s p → tx = leAt f.payload 0 8 →
    leAt f.payload 8 8 ≠ 0 →
    u = portMod t p (fun q => { q with time := { q.time with
      echoTx := tx, echoRx := rx, theta := theta (leAt f.payload 8 8) (leAt f.payload 0x10 8) tx rx, heard := true } }) → q = portOf u p →
    (q.kind ≠ .mesh → exec (.timeFlitReceive p rx) s = .next (portEnterIf u p)) ∧
    (q.kind = .mesh → q.partner / 8 = u.ident.board →
      v = slotHeard u (q.partner % 8) (natBit (leAt f.payload 0x18 1) 0) →
      (natBit (leAt f.payload 0x18 1) 0 = false → exec (.timeFlitReceive p rx) s = .next (portEnterIf v p)) ∧
      (∀ w z, natBit (leAt f.payload 0x18 1) 0 = true → w = masterYields v → z = syncMod w (fun y => { y with heardMasterAt := w.now }) →
        (w.link.sync.master = true → exec (.timeFlitReceive p rx) s = .next (portEnterIf w p)) ∧
        (w.link.sync.master = false → (∀ k, w.link.sync.pulseAt = some k → k + 2 * syncPeriod < w.now) → exec (.timeFlitReceive p rx) s =
          .next (portEnterIf (follow z (theta (leAt f.payload 8 8) (leAt f.payload 0x10 8) tx rx)) p)) ∧
        (∀ k, w.link.sync.master = false → w.link.sync.pulseAt = some k → w.now ≤ k + 2 * syncPeriod → exec (.timeFlitReceive p rx) s =
          .next (portEnterIf z p))))) ∧
  (∀ (s t : State) (p : Nat) (l : LpState), l = lpDeepest s p → lpCode (portOf s p).lp < lpCode l → (portOf s p).lpAsked = none →
    t = lctlSend s p 8 (leBytes 1 (lpCode l)) →
    exec (.lpIdleTimer p) s = .next (portMod t p (fun q => { q with lpAsked := some l, lpIdleSince := (portOf s p).lpIdleSince }))) ∧
  (∀ (s t : State) (p : Nat) (f : Flit) (l : LpState), inboxHead s p (isLctl 8) = some f → t = inboxPop s p → l = codeLp (leAt (ctlOne f) 0 1) →
    (∀ mine, (portOf t p).lpAsked = some mine → exec (.lpReq p) s = .next (portMod t p (fun q => { q with lp := lpShallow mine l, lpAsked := none }))) ∧
    ((portOf t p).lpAsked = none → lpHolds t p l = true → l ≠ .l0 → exec (.lpReq p) s =
      .next (portMod (lctlSend t p 9 (leBytes 1 (lpCode l))) p (fun q => { q with lp := l, lpAsked := none, lpIdleSince := (portOf t p).lpIdleSince }))) ∧
    ((portOf t p).lpAsked = none → lpHolds t p l = false → exec (.lpReq p) s =
      .next (portMod (lctlSend t p 10 []) p (fun q => { q with lpIdleSince := (portOf t p).lpIdleSince })))) ∧
  (∀ (s t : State) (p : Nat) (f : Flit), t = inboxPop s p →
    (∀ l, inboxHead s p (isLctl 9) = some f → (portOf t p).lpAsked = some l → exec (.lpAck p) s = .next (portMod t p (fun q => { q with lp := l, lpAsked := none }))) ∧
    (inboxHead s p (isLctl 10) = some f → exec (.lpNak p) s = .next (portMod t p (fun q => { q with lpAsked := none }))) ∧
    (inboxHead s p (isLctl 11) = some f → exec (.wake p) s = .next (portMod t p (fun q => { q with lp := .l0, lpAsked := none }))) ∧
    (inboxHead s p (isLctl 11) = none → (portOf s p).lp = .ls → exec (.wake p) s = .next (portMod s p (fun q => { q with lp := .l0, lpAsked := none }))))

/-- The parts of PAIR_CERT are gathered; a whole chain that is trusted is answered by this module's own, and by its
point where its node ID is the lower. B answers a point with its own and S_B, A answers with S_A, and each side's
check establishes the secret or fails the pair. OPEN is answered by ACCEPT with a free master ID of the home port, or
by REFUSE with the code that R429 names; ACCEPT gives both ends their keys, and REFUSE ends the attempt. Key exchange
results are Config's (log 8). -/
def Obligations.PairAndSessionOpening : Prop :=
  (∀ (s t u v w : State) (p : Nat) (f : Flit) (part total : Nat) (b cert : Bytes), inboxHead s p (isSctl 1) = some f → t = inboxPop s p →
    ctlBody f = (part, total, b) → cert = (if part = 0 then [] else (pairOf t f.src).certIn) ++ b →
    u = pairMod t f.src (fun x => { x with certIn := cert }) →
    v = (if thas t.link.pairStage f.src = true ∧ (pairOf u f.src).step ≠ 0 then u
         else pairPart (pairMod u f.src (fun x => { x with step := 1 })) f.src 1 (certChain u)) → w = drew 32 v →
    (cert.length < total → exec (.pairCert p) s = .next u) ∧
    (total ≤ cert.length → exec (.pairCert p) s = .next (
      if Config.chainTrusted (anchorList u) cert (nodeKind u p f.src) then
        if nodeId v < f.src then
          pairPart (pairMod w f.src (fun x => { x with eph := trngBytes v.free 32, step := 2 })) f.src 2 (vbytes (Config.ecPoint (trngBytes v.free 32)))
        else v
      else pairFail u f.src))) ∧
  (∀ (s t u : State) (p : Nat) (f : Flit) (x y : PairExch) (e : Bytes), inboxHead s p (isSctl 2) = some f → t = inboxPop s p → x = pairOf t f.src →
    x.certIn ≠ [] → f.src ≤ nodeId t → u = drew 32 t → e = trngBytes t.free 32 →
    y = { x with pointIn := slice (ctlOne f) 0 64, eph := e, step := 3 } →
    exec (.pairXA p) s = .next (pairPart (pairMod u f.src (fun _ => y)) f.src 3
      (vbytes (Config.ecPoint e) ++ vbytes (Config.confirmMake (ownSeed u) (x.certIn ++ slice (ctlOne f) 0 64) e false)))) ∧
  (∀ (s t u : State) (p : Nat) (f : Flit) (x : PairExch) (peer : Bytes), t = inboxPop s p → x = pairOf t f.src →
    (inboxHead s p (isSctl 3) = some f → x.eph ≠ [] → nodeId t ≤ f.src → peer = x.certIn ++ slice (ctlOne f) 0 64 →
      u = pairMod t f.src (fun _ => { x with pointIn := slice (ctlOne f) 0 64 }) →
      exec (.pairXB p) s = .next (
        if Config.confirmOk (ownSeed u) peer x.eph (slice (ctlOne f) 64 32) then
          pairDone (pairPart u f.src 4 (vbytes (Config.confirmMake (ownSeed u) peer x.eph true))) f.src
        else pairFail u f.src)) ∧
    (inboxHead s p (isSctl 4) = some f → x.pointIn ≠ [] → f.src ≤ nodeId t →
      exec (.pairConf p) s = .next (
        if Config.confirmOk (ownSeed t) (x.certIn ++ x.pointIn) x.eph (slice (ctlOne f) 0 32) then pairDone t f.src else pairFail t f.src))) ∧
  (∀ (s : State) (p node sid mid : Nat),
    (s.link.bindings.any (fun b => b.node == node && b.mid == mid) = false → openCheck s p node sid mid .bound = (rcNotBound, none)) ∧
    (∀ b ∈ s.link.bindings, b.node = node → b.mid = mid → s.link.bindings.find? (fun b => b.node == node && b.mid == mid && b.port == homePort s p node) = none →
      openCheck s p node sid mid .bound = (rcNotPermitted, none)) ∧
    (64 < (recentOpens s node).length → openCheck s p node sid mid .pool = (rcNoSpace, none)) ∧
    (freeMid s (homePort s p node) = none → openCheck s p node sid mid .pool = (rcNoSpace, none)) ∧
    (∀ m, (recentOpens s node).length ≤ 64 → freeMid s (homePort s p node) = some m →
      openCheck s p node sid mid .pool = (rcDone, some (homePort s p node, m, none)) ∧ 0x80 + 64 * homePort s p node ≤ m ∧ m < 0x80 + 64 * homePort s p node + 64 ∧
      thas s.link.mids m = false)) ∧
  (∀ (s t u : State) (p rc : Nat) (f : Flit) (k : SessKind) (got : Option (Nat × Nat × Option Nat)), inboxHead s p (isSctl 5) = some f → t = inboxPop s p →
    k = codeKind (leAt (ctlOne f) 1 1) → openCheck t p f.src f.sid (leAt (ctlOne f) 2 2 % 4096) k = (rc, got) →
    u = { t with link := { t.link with openTimes := tset t.link.openTimes f.src (recentOpens t f.src) } } →
    ((thas t.link.sessions (f.src, f.sid) = true ∨ (f.sid < 8 ∧ k ≠ .system)) →
      exec (.sessionOpen p) s = .next (portMod (pairSend u f.src f.sid p (k == .system) true 7 (leBytes 2 rcNotPermitted)) p (fun q => { q with refusal := rcNotPermitted }))) ∧
    (thas t.link.sessions (f.src, f.sid) = false → (f.sid < 8 → k = .system) → got = none →
      exec (.sessionOpen p) s = .next (portMod (pairSend u f.src f.sid p (k == .system) true 7 (leBytes 2 rc)) p (fun q => { q with refusal := rc }))) ∧
    (∀ (v : State) (home m : Nat) (x : Session), thas t.link.sessions (f.src, f.sid) = false → (f.sid < 8 → k = .system) → rc = rcDone → k ≠ .system →
      got = some (home, m, none) → v = drew 16 u →
      x = { kind := k, state := .opened, initiator := false, remoteMid := leAt (ctlOne f) 2 2 % 4096, localMid := m, port := home, nonceI := slice (ctlOne f) 4 16,
            nonceT := trngBytes t.free 16 } →
      exec (.sessionOpen p) s = .next (sessionKeyed (pairSend { v with link := { v.link with mids := tset v.link.mids m (f.src, f.sid) } }
        f.src f.sid home false true 6 (leBytes 2 m ++ trngBytes t.free 16)) (f.src, f.sid) x))) ∧
  (∀ (s t : State) (p : Nat) (f : Flit) (x : Session), t = inboxPop s p → sessOf t (f.src, f.sid) = some x → x.state = .opening → x.initiator = true →
    (inboxHead s p (isSctl 6) = some f → exec (.sessionAccept p) s =
      .next (sessionKeyed t (f.src, f.sid) { x with remoteMid := leAt (ctlOne f) 0 2, nonceT := slice (ctlOne f) 2 16 })) ∧
    (inboxHead s p (isSctl 7) = some f → exec (.sessionRefuse p) s =
      .next (portMod (outstandingFail { t with link := { t.link with sessions := tdel t.link.sessions (f.src, f.sid) } } x.outstanding) p (fun q => { q with refusal := leAt (ctlOne f) 0 2 }))))

/-- A SACK frees the kept flits that it covers, and a session that waits to close then sends CLOSE and ends. 20 µs
without SACK progress sends the kept flits again. 10 ms of silence send PING; PONG ends the wait. A session is lost by
CLOSE, or after 10 ms without a SACK or a path, or 100 ms without PONG; its master ID is free 65 s later with its
queues destroyed. At SSEQ 0x8000_0000 or after an hour REKEY goes out and the next epoch's keys begin at SSEQ 1. -/
def Obligations.SessionLife : Prop :=
  (∀ (s t u : State) (p n : Nat) (f : Flit) (x : Session) (left : List (Nat × Bool × Bytes)), inboxHead s p (isSctl 8) = some f → t = inboxPop s p →
    n = leAt (ctlOne f) 0 4 → sessOf t (f.src, f.sid) = some x → x.unsent = [] → left = sackLeaves x.unacked n →
    u = (if left.length < x.unacked.length then sessMod t (f.src, f.sid) (fun x => { x with unacked := left, lastSack := t.now }) else t) →
    (x.state ≠ .closing → exec (.sack p) s = .next u) ∧
    (x.state = .closing → left.length < x.unacked.length → left.all (·.2.1) = true →
      exec (.sack p) s = .next (sessionLost (sctlSend u (f.src, f.sid) 12 []) (f.src, f.sid)))) ∧
  (∀ (s : State) (k : Nat × Nat) (x : Session), sessOf s k = some x →
    (x.unacked.any (fun u => !u.2.1) = true → max x.lastSack x.resentAt + usT 20 ≤ s.now →
      exec (.sessionResendTimeout k.1 k.2) s = .next (sessResend (sessMod s k (fun x => { x with resentAt := s.now })) k)) ∧
    (s.now < max x.lastSack x.resentAt + usT 20 → exec (.sessionResendTimeout k.1 k.2) s = .next s) ∧
    (x.state = .opened → x.pingAt = none → x.heardAt + msT 10 ≤ s.now →
      exec (.sessionSilencePing k.1 k.2) s = .next (sctlSend (sessMod s k (fun x => { x with pingAt := some s.now })) k 9 [])) ∧
    (s.now < x.heardAt + msT 10 → exec (.sessionSilencePing k.1 k.2) s = .next s) ∧
    (x.state ≠ .opening → ((x.unacked.any (fun u => !u.2.1) = true ∧ x.lastSack + msT 10 ≤ s.now) ∨ (∃ t, x.noPathSince = some t ∧ t + msT 10 ≤ s.now) ∨
        (∃ t, x.pingAt = some t ∧ t + msT 100 ≤ s.now)) →
      exec (.sessionLossTimeout k.1 k.2) s = .next (sessionLost s k)) ∧
    (x.unacked = [] → x.noPathSince = none → x.pingAt = none → exec (.sessionLossTimeout k.1 k.2) s = .next s)) ∧
  (∀ (s : State) (p : Nat) (f : Flit),
    (inboxHead s p (isSctl 9) = some f → exec (.ping p) s = .next (sctlSend (inboxPop s p) (f.src, f.sid) 10 [])) ∧
    (inboxHead s p (isSctl 10) = some f → exec (.pong p) s = .next (sessMod (inboxPop s p) (f.src, f.sid) (fun x => { x with pingAt := none }))) ∧
    (inboxHead s p (isSctl 12) = some f → exec (.close p) s = .next (sessionLost (inboxPop s p) (f.src, f.sid)))) ∧
  (∀ (s : State) (m t : Nat), tget s.link.midFreeing m = some t →
    (t ≤ s.now → ∃ u : State, exec (.masterIdFreeTimeout m) s = .next u ∧ u.masters = tdel s.masters m ∧ u.link.midFreeing = tdel s.link.midFreeing m ∧
      u.link.mids = tdel s.link.mids m ∧ u.queues = tfilter s.queues (fun _ q => q.poster != m) ∧
      u = { s with masters := u.masters, queues := u.queues, link := { s.link with midFreeing := u.link.midFreeing, mids := u.link.mids } }) ∧
    (s.now < t → exec (.masterIdFreeTimeout m) s = .next s)) ∧
  (∀ (s : State) (k : Nat × Nat) (x : Session), sessOf s k = some x → x.state = .opened → (0x80000000 ≤ x.txSseq ∨ x.keySince + secT 3600 ≤ s.now) →
    x.unsent = [] → sessMay s k x (mkFlit 3 3 0 0 false []) = true → ∃ t : State, t = sctlSend s k 11 (leBytes 4 (x.epochTx + 1)) ∧
    exec (.rekeyDue k.1 k.2) s = .next (sessMod t k (fun x => { x with
      epochTx := x.epochTx + 1, keyTx := (sessKeys t k.1 k.2 x (x.epochTx + 1)).1, txSseq := 1, keySince := t.now }))) ∧
  (∀ (s t : State) (p : Nat) (f : Flit), inboxHead s p (isSctl 11) = some f → t = inboxPop s p →
    exec (.rekey p) s = .next (sessMod t (f.src, f.sid) (fun x => { x with
      epochRx := x.epochRx + 1, keyRx := (sessKeys t f.src f.sid x (x.epochRx + 1)).2, rxSseq := 1 })))

/-- A request whose form its session does not carry is counted and answered NOT_PERMITTED. A pool-form request waits
for a near-memory operation that it meets and for its cap, and is then served; a window-form request goes to its
window: a disabled one answers NO_WINDOW, and one outside the window's sessions, rights or size NOT_PERMITTED. The
last part of a read's answer completes it, with poison where a line or the status says so; CMPL completes every write
up to the one it names, or drops and counts a refused one; a read unanswered for 1 ms completes with poison and
PARTNER_ABSENT. -/
def Obligations.PeerAccess : Prop :=
  (∀ (s : State) (p : Nat) (rs : List RemoteRead) (f : Flit) (x : Session) (k : Nat × Nat) (ds : List (Nat × Nat × Nat)), requestHead s p 4 = some (f, x) →
    k = (f.src, f.sid) → ds = descsOf f →
    (formOk x f = false → exec (.rdReq p rs) s = .next (ds.foldl (fun s d =>
      replyRead (outsideCount s p k 0x20) (.read k.1 k.2 d.1) 0 (zeros d.2.1) (allLines 0 d.2.1) 0x20) (inboxPop s p))) ∧
    (formOk x f = true → f.pool = true →
      (∃ d ∈ ds, poolWaits s k.1 x.remoteMid d.2.2 d.2.1 f.arrived = true ∨ portHolds s k 3 (poolAddr s d.2.2) false = true) → exec (.rdReq p rs) s = .next s) ∧
    (formOk x f = true → f.pool = true → capAllows s k.1 x.remoteMid ((ds.map (fun d => d.2.1)).foldl (· + ·) 0) = false → exec (.rdReq p rs) s = .next s) ∧
    (formOk x f = true → f.pool = true →
      (∀ d ∈ ds, poolWaits s k.1 x.remoteMid d.2.2 d.2.1 f.arrived = false ∧ portHolds s k 3 (poolAddr s d.2.2) false = false) →
      capAllows s k.1 x.remoteMid ((ds.map (fun d => d.2.1)).foldl (· + ·) 0) = true →
      exec (.rdReq p rs) s = .next (ds.foldl (fun s d => poolServe s k x f.arrived d) (leaveSleep (inboxPop s p)))) ∧
    (formOk x f = true → f.pool = false → (∃ d ∈ ds, portHolds s k 2 (winAddr s x d.2.2) false = true) → exec (.rdReq p rs) s = .next s) ∧
    (formOk x f = true → f.pool = false → (∀ d ∈ ds, portHolds s k 2 (winAddr s x d.2.2) false = false) →
      exec (.rdReq p rs) s = .next (windowReads (inboxPop s p) k x ds rs))) ∧
  (∀ (s : State) (p : Nat) (rs : List RemoteRead) (c : HostRead) (i : RemoteRead),
    (requestHead s p 4 = none → exec (.rdReq p rs) s = .next (dropOrphan s p 4)) ∧ (requestHead s p 5 = none → exec (.wr p c i) s = .next (dropOrphan s p 5))) ∧
  (∀ (s : State) (p : Nat) (c : HostRead) (i : RemoteRead) (f : Flit) (x : Session) (k : Nat × Nat) (h : Half) (e o : Nat), requestHead s p 5 = some (f, x) →
    k = (f.src, f.sid) → locSpot f.arg = (h, e, o) →
    (writeWaits s k = true → exec (.wr p c i) s = .next s) ∧
    (writeWaits s k = false → formOk x f = false →
      exec (.wr p c i) s = .next (replyWrite (outsideCount (inboxPop s p) p k 0x20) (.write k.1 k.2 f.sseq) 0x20)) ∧
    (writeWaits s k = false → formOk x f = true → f.pool = true →
      (poolWaits s k.1 x.remoteMid f.arg f.len f.arrived = true ∨ capAllows s k.1 x.remoteMid f.len = false ∨ portHolds s k 3 (poolAddr s f.arg) true = true) →
      exec (.wr p c i) s = .next s) ∧
    (∀ (t : State) (st : Nat), writeWaits s k = false → formOk x f = true → f.pool = true → poolWaits s k.1 x.remoteMid f.arg f.len f.arrived = false →
      capAllows s k.1 x.remoteMid f.len = true → portHolds s k 3 (poolAddr s f.arg) true = false →
      poolPut (leaveSleep (inboxPop s p)) k.1 x.remoteMid h e o (f.payload.take f.len) f.arrived = (t, st) →
      exec (.wr p c i) s = .next (peerReply (capUse t k.1 x.remoteMid f.len) k h f.sseq st (spotExts t h e))) ∧
    (writeWaits s k = false → formOk x f = true → f.pool = false → portHolds s k 2 (winAddr s x f.arg) true = true → exec (.wr p c i) s = .next s) ∧
    (writeWaits s k = false → formOk x f = true → f.pool = false → portHolds s k 2 (winAddr s x f.arg) true = false →
      exec (.wr p c i) s = .next (windowPut (inboxPop s p) k x (winOf s x.port (f.arg % 16)) (f.arg / 16) (f.payload.take f.len) f.sseq c i))) ∧
  (∀ (s : State) (k : Nat × Nat) (x : Session) (w : InWin) (off n tag : Nat) (r : RemoteRead) (b : Bytes) (q : Nat) (c : HostRead),
    (w.enable = false → windowGet s k x w off n tag r = replyRead (outsideCount s x.port k 0xE0) (.read k.1 k.2 tag) 0 (zeros n) (allLines 0 n) 0xE0 ∧
      windowPut s k x w off b q c r = replyWrite (outsideCount s x.port k 0xE0) (.write k.1 k.2 q) 0xE0) ∧
    (w.enable = true → (w.sessions.getLsbD ((x.localMid - 0x80) % 64) = false ∨ w.rights.getLsbD 0 = false ∨ winBytes w < off + n) →
      windowGet s k x w off n tag r = replyRead (outsideCount s x.port k 0x20) (.read k.1 k.2 tag) 0 (zeros n) (allLines 0 n) 0x20) ∧
    (w.enable = true → (w.sessions.getLsbD ((x.localMid - 0x80) % 64) = false ∨ w.rights.getLsbD 1 = false ∨ winBytes w < off + b.length) →
      windowPut s k x w off b q c r = replyWrite (outsideCount s x.port k 0x20) (.write k.1 k.2 q) 0x20)) ∧
  (∀ (s t : State) (p at' : Nat) (f : Flit) (k : Nat × Nat) (x : Session) (o o2 : Outst), inboxHead s p (fun f => f.type == 6) = some f → t = loadKeep (inboxPop s p) k f 37 →
    k = (f.src, f.sid) → sessOf t k = some x → x.outstanding.find? (fun o => !o.write && o.tag == natField f.arg 0 12) = some o → at' = natField f.arg 12 12 →
    o2 = { o with
      data := place o.data at' (f.payload.take f.len), poison := o.poison || natField f.arg 32 5 != 0, status := if o.status = 0 then natField f.arg 24 8 else o.status } →
    (64 * o.lines ≤ at' + f.len → exec (.rdRsp p) s = .next (lenderGo (emit
      (sessMod (handleSeen t o o2.status) k (fun x => { x with outstanding := x.outstanding.erase o }))
      (.runtimeData o.mid o.addr o2.data (o2.poison || o2.status != 0) (if o2.status ≠ 0 then o2.status else if o2.poison then rcPoisoned else rcDone))) k.1)) ∧
    (at' + f.len < 64 * o.lines → exec (.rdRsp p) s =
      .next (sessMod t k (fun x => { x with outstanding := x.outstanding.map (fun y => if y = o then o2 else y) })))) ∧
  (∀ (s t : State) (p n : Nat) (f : Flit) (k : Nat × Nat) (x : Session), inboxHead s p (fun f => f.type == 7) = some f →
    t = loadKeep (inboxPop s p) k f 40 → k = (f.src, f.sid) → sessOf t k = some x → n = natField f.arg 0 32 →
    (natField f.arg 32 8 = 0 → x.outstanding.any (fun o => o.write && o.tag == n) = true →
      ∃ u : State, sessOf u k = some { x with outstanding := cmplLeaves x.outstanding n } ∧ exec (.cmpl p) s = .next (lenderGo u k.1)) ∧
    (∀ (o : Outst) (u v : State), natField f.arg 32 8 ≠ 0 → x.outstanding.find? (fun o => o.write && o.tag == n) = some o →
      u = sessMod t k (fun x => { x with outstanding := x.outstanding.erase o }) → v = handleSeen u o (natField f.arg 32 8) →
      (∀ m h, masterHandle v o.mid o.addr o.data.length = some (m, h) → exec (.cmpl p) s = .next (lenderGo (poolRefused v m h (natField f.arg 32 8)) k.1)) ∧
      (masterHandle v o.mid o.addr o.data.length = none → exec (.cmpl p) s = .next (lenderGo v k.1))) ∧
    (natField f.arg 32 8 ≠ 0 → x.outstanding.find? (fun o => o.write && o.tag == n) = none → exec (.cmpl p) s = .next t)) ∧
  (∀ (s : State) (k : Nat × Nat) (f : Flit) (lo : Nat), f.pool = true → tget (loadKeep s k f lo).pool.load k.1 = some (natField f.arg lo 2)) ∧
  (∀ (s t : State) (k : Nat × Nat) (x : Session) (o : Outst), sessOf s k = some x → x.outstanding.find? (fun y => !y.write && y.tag == o.tag) = some o →
    t = sessMod s k (fun x => { x with outstanding := x.outstanding.erase o }) →
    (o.sentAt + msT 1 ≤ s.now → exec (.linkReadTimeout k.1 k.2 o.tag) s = .next (lenderGo (emit
      (linkLog t ((sessPort t k x).getD x.port) 7 rcPartnerAbsent) (.runtimeData o.mid o.addr (zeros (64 * o.lines)) true rcPartnerAbsent)) k.1)) ∧
    (s.now < o.sentAt + msT 1 → exec (.linkReadTimeout k.1 k.2 o.tag) s = .next s))

/-- A RED flit of a step not yet awaited stays in its port while the reduce buffer of the half, 2 MiB, is full; else
it joins its block, unless its sender is no member or has sent its share. START gives a member a context for the
volume of that ID, or is answered by STOP REFUSED. TOKEN reaches the member's SAMPLE. STOP ends a member's run, and a
refusal ends the lead's with FAULT and PARTNER_ABSENT. DESK joins the forward queue, or is answered NO_SPACE at 64;
DESK_REPLY answers the origin's command. -/
def Obligations.ReduceFlitsAndRunMessages : Prop :=
  (∀ (s t : State) (p n : Nat) (f : Flit) (a : RedArg), inboxHead s p (fun f => f.type == 8) = some f → a = parseRed f.arg → t = inboxPop s p →
    n = t.link.redSeen.countP (· == (f.src, a.ctx, a.step, a.iter, a.blk)) →
    (redAwaited s a = false → 2 ^ 21 < redHeld s (redHalf s p a) + f.len → exec (.red p) s = .next s) ∧
    (redGrant s (redHalf s p a) ≠ some p → exec (.red p) s = .next s) ∧
    (redGrant s (redHalf s p a) = some p → (redTimes t a ≤ n ∨ redMember t a f.src = false) → exec (.red p) s = .next t) ∧
    (∀ (u : State) (b : RedBlock), redGrant s (redHalf s p a) = some p → n < redTimes t a → redMember t a f.src = true →
      b = { node := f.src, ctx := a.ctx, step := a.step, iter := a.iter, blk := a.blk, nth := n, half := redHalf t p a, data := f.payload.take f.len } →
      u = { t with
        link := { t.link with reduce := t.link.reduce ++ [b], redSeen := t.link.redSeen ++ [(f.src, a.ctx, a.step, a.iter, a.blk)] }
        eng := { t.eng with reducePointer := t.eng.reducePointer.mod (redHalf t p a) (fun x => (x + 1) % 8) } } →
      (redRun u a = none → exec (.red p) s = .next u) ∧ (∀ e, redRun u a = some e → exec (.red p) s = .next (relayTryAll u e.1)))) ∧
  (∀ (s t u w : State) (r : RemoteRead) (m : Message) (ctx : Nat), takeRunMsg s 1 = some (m, t) → u = startWake (leaveSleep t) → ctx = leAt m.body 4 1 % 64 →
    (memberVolume u (leAt m.body 6 2 % 4096) (leAt m.body 0 4) = none → exec (.msgStart r) s = .next (memberRefuses u m.node ctx)) ∧
    (∀ v, memberVolume u (leAt m.body 6 2 % 4096) (leAt m.body 0 4) = some v →
      (takeBlock u v.master (leAt m.body 0x30 8) v true r = (w, none) → exec (.msgStart r) s = .next (memberRefuses w m.node ctx)) ∧
      (∀ (b : Bytes) (bad : Bool) (k : Taken), takeBlock u v.master (leAt m.body 0x30 8) v true r = (w, some (b, bad)) → k = memberTaken w v m.body b →
        ((bad = true ∨ anyFenced w = true ∨ memberBlockOk w v b k.slip.entry = false ∨ neverFits w k.reserve = true) →
          exec (.msgStart r) s = .next (memberRefuses w m.node ctx)) ∧
        (bad = false → anyFenced w = false → memberBlockOk w v b k.slip.entry = true → neverFits w k.reserve = false →
          (placeRun w v k.reserve = none → exec (.msgStart r) s = .next s) ∧
          (∀ n x y, placeRun w v k.reserve = some (n, x, y) → exec (.msgStart r) s = .next { w with
            eng := { w.eng with ctxs := tset w.eng.ctxs n { newCtx k x y with lead := some m.node, leadCtx := ctx } } }))))) ∧
  (∀ (s t : State) (m : Message),
    (takeRunMsg s 2 = some (m, t) → (∀ n, memberCtx t m.node (leAt m.body 0 1 % 64) = some n →
        exec .msgToken s = .next (ctxMod t n (fun x => { x with tokIn := tset x.tokIn (leAt m.body 4 4) (leAt m.body 8 4) }))) ∧
      (memberCtx t m.node (leAt m.body 0 1 % 64) = none → exec .msgToken s = .next t)) ∧
    (∀ (e : EndCode) (ctx : Nat), takeRunMsg s 3 = some (m, t) → e = codeEnd (leAt m.body 8 1) → ctx = leAt m.body 0 1 % 64 →
      (∀ n, memberCtx t m.node ctx = some n → exec .msgStop s = .next (stopCtx t n e)) ∧
      (∀ x v, memberCtx t m.node ctx = none → tget t.eng.ctxs ctx = some x → ctxVol t x = some v →
        (e = .refused → x.lead = none → (∃ k ∈ groupOthers t v, slotNode t k = m.node) → exec .msgStop s =
          .next (stopCtx (ctxMod t ctx (fun x => { x with rc := if x.rc = 0 then rcPartnerAbsent else x.rc })) ctx .fault)) ∧
        (e ≠ .refused → exec .msgStop s = .next t)))) ∧
  (∀ (s t : State) (m : Message) (b : Bytes) (n : Nat), b = fit 256 (m.body.drop 4) → n = leAt m.body 0 2 % 4096 →
    (takeMsg s 0x20 = some (m, t) → t.cp.fwdQueue.length < 64 → exec .desk s = .next { t with
      cp := { t.cp with fwdQueue := t.cp.fwdQueue ++ [{ id := t.cp.nextFwd, node := n, mid := leAt m.body 2 2 % 4096, msg := b }], nextFwd := t.cp.nextFwd + 1 } }) ∧
    (takeMsg s 0x20 = some (m, t) → 64 ≤ t.cp.fwdQueue.length →
      exec .desk s = .next (msgSend t n 0x21 (replyBytes (msgOp b) rcNoSpace 0 0 (devNs t) []))) ∧
    (takeMsg s 0x21 = some (m, t) → exec .deskReply s = .next (answerForward t m.node (leAt m.body 0 2) (leAt m.body 4 2) (slice m.body 0x20 224))))

/-- A memory request to a function that is being reset, before step 8 or beyond its BAR completes as Unsupported
Request; else a read of BAR0 returns the registers' bytes, taking a semaphore where it reads one, a write acts, and
PF0's BAR2 shows the CXL component registers. A configuration request meets Request Retry Status before step 8, and is
else served, during a reset too, with the IDs and class codes of R460. A reset silences the function's writes and ends
its call slips and messages; its end retires, returns and loses what the function held, and PF1's takes its VFs along
and disables them. VF Enable takes at most 63. -/
def Obligations.HostRequestsAndFunctionReset : Prop :=
  (∀ (s u : State) (fn : Fn) (d w : Bool) (off n : Nat) (b : Bytes) (c : HostRead) (i : RemoteRead), u = hostTouch s fn false (if w then b.length else 0) →
    ((endpointUp s = false ∨ fnPresent s fn = false) → exec (.pcieMemoryRequest fn w ⟨d, off⟩ n b c i) s = .next s) ∧
    (endpointUp s = true → fnPresent s fn = true →
      ((fnServed s = false ∨ thas s.host.flr fn = true ∨ barSize fn d < off + n) →
        exec (.pcieMemoryRequest fn w ⟨d, off⟩ n b c i) s = .next (if w then u else emit u (.completion fn none))) ∧
      (fnServed s = true → thas s.host.flr fn = false → off + n ≤ barSize fn d →
        (w = false → d = false → (off < 0x1800 ∨ 0x1A00 ≤ off ∨ isVf fn = true) →
          exec (.pcieMemoryRequest fn w ⟨d, off⟩ n b c i) s = .next (emit u (.completion fn (some (regBytes u fn off n))))) ∧
        (∀ k, w = false → d = false → isVf fn = false → u.boot.stage ≠ .recovery → k < 64 → off = 0x1800 + 8 * k → n = 8 →
          exec (.pcieMemoryRequest fn w ⟨d, off⟩ n b c i) s =
            .next (emit (lockRead u fn k).1 (.completion fn (some (leBytes 8 (lockRead u fn k).2))))) ∧
        (w = true → d = false → exec (.pcieMemoryRequest fn w ⟨d, off⟩ n b c i) s = regWrite u fn off b c i) ∧
        (d = true → exec (.pcieMemoryRequest fn w ⟨d, off⟩ n b c i) s = .next (if w then u else emit u (.completion fn (some (bar2Bytes u off n)))))))) ∧
  (∀ fn : Fn, barSize fn false = (if isVf fn then 2 ^ 20 else 2 ^ 26) ∧ barSize .pf0 true = 2 ^ 17 ∧ (fn ≠ .pf0 → barSize fn true = 0)) ∧
  (∀ (s : State) (fn : Fn) (w : Bool) (off : Nat) (v : BitVec 32), endpointUp s = true → fnPresent s fn = true →
    (∀ t, fnServed s = false → s.boot.perstRoseAt = some t → s.now ≤ t + secT 1 → exec (.configRequest fn w off v) s = .next (emit s (.retryStatus fn))) ∧
    (fnServed s = true → exec (.configRequest fn true off v) s = .next (emit (cfgWrite s fn off v) (.completion fn (some []))) ∧
      exec (.configRequest fn false off v) s = .next (emit s (.completion fn (some (leBytes 4 (cfgRead s fn off).toNat)))))) ∧
  (∀ (s : State) (k : Nat), cfgRead s .pf0 0 = 0x84001F3E#32 ∧ cfgRead s .pf1 0 = 0x84011F3E#32 ∧ cfgRead s (.vf k) 0 = 0x84021F3E#32 ∧
    (cfgRead s .pf0 8).toNat / 256 = 0x050210 ∧ (cfgRead s .pf1 8).toNat / 256 = 0x120000 ∧ (cfgRead s (.vf k) 8).toNat / 256 = 0x120000) ∧
  (∀ (s : State) (fn : Fn), endpointUp s = true → fnPresent s fn = true → fnServed s = true →
    (thas s.host.flr fn = true → exec (.initiateFlr fn) s = .next s) ∧
    (thas s.host.flr fn = false → fn ≠ .pf1 → exec (.initiateFlr fn) s = .next (resetSender (silencePoster
      (markTags (retireAll { s with host := { s.host with flr := tset s.host.flr fn s.now } }) fn) (fnMid fn)) (fnMid fn))) ∧
    (thas s.host.flr fn = false → fn = .pf1 → exec (.initiateFlr fn) s =
      .next ((enabledVfs s ++ [Fn.pf1]).foldl (fun s f => if thas s.host.flr f then s else flrBegin s f) s))) ∧
  (∀ (s t : State) (fn : Fn), thas s.host.flr fn = true →
    (fn ≠ .pf1 → exec (.flrComplete fn) s = .next (flrFinish s fn)) ∧
    (fn = .pf1 → t = (enabledVfs s ++ [Fn.pf1]).foldl flrFinish s →
      exec (.flrComplete fn) s = .next { t with host := { t.host with vfEnable := false, numVfs := 0 } })) ∧
  (∀ (s : State) (fn : Fn), thas s.host.flr fn = false → exec (.flrComplete fn) s = .next s) ∧
  (∀ (s : State) (on : Bool) (n : Nat), endpointUp s = true → fnPresent s .pf1 = true → fnServed s = true → thas s.host.flr .pf1 = false →
    (n ≤ 63 → exec (.vfEnable on n) s = .next { s with host := { s.host with vfEnable := on, numVfs := if on then n else 0 } }) ∧
    (63 < n → exec (.vfEnable on n) s = .next s))

/-- A completion for a quarantined tag is dropped and counted, one for a read of before the function's reset is
dropped, and any other reaches its read, as its timeout does once the function's completion timeout has passed. A
quarantined tag is free when its time ends. A link trains at a rate and width it supports. It asks for half its width
after 16 µs under 30 % load, never below ×4, and for full width on demand; after 200 µs in which nothing was carried
or outstanding and no call slip runs, for L1. -/
def Obligations.HostReadsAndLinkPower : Prop :=
  (∀ (s : State) (fn : Fn) (tag : Nat) (a : HostRead),
    (∀ d, tget s.host.tags (fn, tag) = some (.quarantined d) →
      exec (.hostReadCompletion fn tag a) s = .next { s with host := { s.host with lateCpl := sat32 (s.host.lateCpl + 1) } } ∧
      (d ≤ s.now → exec (.tagQuarantineEnd fn tag) s = .next { s with host := { s.host with tags := tdel s.host.tags (fn, tag) } }) ∧
      (s.now < d → exec (.tagQuarantineEnd fn tag) s = .next s)) ∧
    (∀ x y, tget s.host.tags (fn, tag) = some (.outstanding x y true) →
      exec (.hostReadCompletion fn tag a) s = .next { s with host := { s.host with tags := tdel s.host.tags (fn, tag) } }) ∧
    (∀ x y, tget s.host.tags (fn, tag) = some (.outstanding x y false) →
      (consumedCtx s fn y = none → exec (.hostReadCompletion fn tag a) s = .next (readEnd s (fnMid fn) y a) ∧
        (x + nsT (fnTimeout s fn) ≤ s.now → exec (.hostReadTimeout fn tag) s = .next (readEnd s (fnMid fn) y .timeout))) ∧
      (∀ n, consumedCtx s fn y = some n → exec (.hostReadCompletion fn tag a) s = exec (.consumedReadReturn n a) s ∧
        (x + nsT (fnTimeout s fn) ≤ s.now → exec (.hostReadTimeout fn tag) s = exec (.consumedReadReturn n .timeout) s)) ∧
      (s.now < x + nsT (fnTimeout s fn) → exec (.hostReadTimeout fn tag) s = .next s))) ∧
  (∀ (s : State) (fn : Fn), tget s.host.timeoutNs fn = none → nsT (fnTimeout s fn) = msT 10) ∧
  (∀ (s : State) (l r w : Nat), endpointUp s = true → l < 2 →
    (r ∈ [25, 50, 80, 160, 320, 640] → w ∈ [1, 2, 4, 8, 16] → w ≤ modeWidth s l → exec (.hostLinkTraining l r w) s = .next (hostLinkMod s l (fun x => { x with
      rate := r, width := w, lowWidth := 0, inL1 := false, lowSince := s.now, idleSince := s.now }))) ∧
    (modeWidth s l < w → exec (.hostLinkTraining l r w) s = .next s)) ∧
  (∀ (s : State) (l : Nat) (q : HostLink), endpointUp s = true → l < 2 → q = hostLinkOf s l →
    (q.l0pEnable = true →
      (q.lowWidth ≠ 0 → exec (.l0pRequest l true) s =
        .next (emit (hostLinkMod s l (fun x => { x with lowWidth := 0, lowSince := s.now })) (.linkPower l q.width))) ∧
      (underLoad s q = true → 8 ≤ widthNow q → exec (.l0pRequest l false) s =
        .next (emit (hostLinkMod s l (fun x => { x with lowWidth := widthNow q / 2, lowSince := s.now })) (.linkPower l (widthNow q / 2)))) ∧
      (widthNow q < 8 → exec (.l0pRequest l false) s = .next s)) ∧
    (q.l0pEnable = false → exec (.l0pRequest l false) s = .next s ∧ exec (.l0pRequest l true) s = .next s) ∧
    (q.l1Enable = true → q.inL1 = false → q.width ≠ 0 → q.idleSince + usT 200 ≤ s.now → linkOutstanding s l = false → s.eng.ctxs = [] →
      exec (.aspmL1Entry l) s = .next (emit (hostLinkMod s l (fun x => { x with inL1 := true })) (.linkPower l 0))) ∧
    ((q.l1Enable = false ∨ s.now < q.idleSince + usT 200 ∨ linkOutstanding s l = true ∨ s.eng.ctxs ≠ []) → exec (.aspmL1Entry l) s = .next s))

/-- With the mailbox in service, Identify reports static capacity 0, Get Event Records the records not yet cleared and
Clear Event Records removes those named or answers Invalid Handle, Get Poison List the poisoned lines of granules in
the range asked for, Get Dynamic Capacity Configuration one region of base 0, length 1,920 GiB and blocks of 1 GiB,
Get Dynamic Capacity Extent List the extents asked for; any opcode that R467 does not list answers Unsupported. The
layouts and the free bytes are the model's (log 40). -/
def Obligations.MailboxAnswers : Prop :=
  ∀ s : State,
    (mailUp s = true →
      exec .identifyMemoryDevice s = .next (emit s (.mailbox 0 (mailFree 1 16 ++ leBytes 8 0 ++ leBytes 8 0 ++ leBytes 8 0 ++ leBytes 8 0 ++ mailFree 2 21))) ∧
      exec .getEventRecords s = .next (emit s (.mailbox 0 (zeros 20 ++ leBytes 2 s.host.events.length ++ zeros 10 ++ (s.host.events.map eventBytes).flatten))) ∧
      (∀ hs : List Nat,
        ((∀ h ∈ hs, ∃ e ∈ s.host.events, e.1 = h) → ∃ t : State, exec (.clearEventRecords hs) s = .next t ∧
          t.host.events = s.host.events.filter (fun e => !hs.contains e.1) ∧ t.out = s.out ++ [.mailbox 0 []] ∧
          t = { s with out := t.out, host := { s.host with events := t.host.events } }) ∧
        (∀ h ∈ hs, (∀ e ∈ s.host.events, e.1 ≠ h) → exec (.clearEventRecords hs) s = .next (emit s (.mailbox 0xE [])))) ∧
      (∀ (start len : Nat) (l : List Nat),
        l = (((s.plain.granules.map (fun g => poisonIn s g.1 g.2)).flatten).filter (fun o => decide (start ≤ o) && decide (o < start + len))).mergeSort (· ≤ ·) →
        exec (.getPoisonList start len) s = .next (emit s (.mailbox 0 (zeros 10 ++ leBytes 2 l.length ++ zeros 20
          ++ (l.map (fun o => leBytes 8 o ++ leBytes 4 1 ++ zeros 4)).flatten)))) ∧
      exec .getHealthInfo s = .next (emit s (.mailbox 0 (mailFree 4 18))) ∧
      exec .getDynamicCapacityConfiguration s = .next (emit s (.mailbox 0 (leBytes 1 1 ++ leBytes 1 1 ++ zeros 6 ++ leBytes 8 0 ++ leBytes 8 (1920 * 4)
        ++ leBytes 8 (1920 * 2 ^ 30) ++ leBytes 8 (2 ^ 30) ++ mailFree 5 8 ++ mailFree 6 16))) ∧
      (∀ (start n : Nat) (l : List Nat), l = (s.host.dcExtents.drop start).take n →
        exec (.getDynamicCapacityExtentList start n) s = .next (emit s (.mailbox 0 (leBytes 4 l.length ++ leBytes 4 s.host.dcExtents.length
          ++ mailFree (64 + s.host.nextEvent) 4 ++ zeros 4 ++ (l.map dcExtent).flatten)))) ∧
      (∀ op, op ∉ [0x4000, 0x0100, 0x0101, 0x4300, 0x4200, 0x4800, 0x4801, 0x4802, 0x4803] → exec (.mailboxUnsupported op) s = .next (emit s (.mailbox 3 [])))) ∧
    (mailUp s = false → exec .identifyMemoryDevice s = .next s ∧ exec .getEventRecords s = .next s ∧ (∀ hs, exec (.clearEventRecords hs) s = .next s) ∧
      (∀ a n, exec (.getPoisonList a n) s = .next s ∧ exec (.getDynamicCapacityExtentList a n) s = .next s) ∧ exec .getHealthInfo s = .next s ∧
      exec .getDynamicCapacityConfiguration s = .next s ∧ ∀ op, exec (.mailboxUnsupported op) s = .next s)
end

