-- ==== Sys2Proof/Laws/Memory.lean ====
section
/-! SUPPORT. The canonical form of memory, and that every change of the cells and of the error patterns keeps it. -/

namespace Sys2Proof.Machine

set_option Elab.async false
set_option linter.all false

/-- The canonical form, as a pairwise property. -/
theorem canonical_iff {α : Type} (u : α → Bool) (c : List (Nat × α)) :
    canonical u c = true ↔ c.Pairwise (fun p q => p.1 < q.1) ∧ ∀ p ∈ c, u p.2 = false := by
  induction c with
  | nil => simp [canonical]
  | cons p r ih =>
    obtain ⟨a, x⟩ := p
    cases r with
    | nil => simp [canonical]
    | cons q r =>
      obtain ⟨b, y⟩ := q
      simp only [canonical, Bool.and_eq_true, decide_eq_true_eq, ih, Bool.not_eq_true', List.pairwise_cons, List.mem_cons]
      constructor
      · rintro ⟨⟨hx, hab⟩, ⟨hb, hr⟩, hn⟩
        refine ⟨⟨?_, hb, hr⟩, ?_⟩
        · rintro q (rfl | hq)
          · exact hab
          · exact Nat.lt_trans hab (hb q hq)
        · rintro q (rfl | hq)
          · exact hx
          · exact hn q hq
      · rintro ⟨⟨ha, hb, hr⟩, hn⟩
        exact ⟨⟨hn _ (.inl rfl), ha _ (.inl rfl)⟩, ⟨hb, hr⟩, fun q hq => hn q (.inr hq)⟩

/-- Dropping entries keeps the canonical form. -/
theorem canonical_filter {α : Type} (u : α → Bool) (c : List (Nat × α)) (p : Nat × α → Bool) (h : canonical u c = true) :
    canonical u (c.filter p) = true := by
  rw [canonical_iff] at *
  exact ⟨h.1.filter _, fun q hq => h.2 q (List.mem_filter.1 hq).1⟩

/-- The canonical form of cells, as a pairwise property. -/
theorem cellsWf_iff (c : List Host.Cell) :
    cellsWf c = true ↔ c.Pairwise (fun p q => p.1 < q.1) ∧ ∀ p ∈ c, p.2 ≠ 0 := by
  simp [cellsWf, canonical_iff]

/-- Cells listed for bytes lie among the bytes. -/
theorem cellsOf_range (a : Nat) (b : Bytes) : ∀ p ∈ cellsOf a b, a ≤ p.1 ∧ p.1 < a + b.length := by
  induction b generalizing a with
  | nil => simp [cellsOf]
  | cons x r ih =>
    intro p hp
    have tail : p ∈ cellsOf (a + 1) r → a ≤ p.1 ∧ p.1 < a + (x :: r).length := fun h => by
      have := ih (a + 1) p h
      simp only [List.length_cons]
      omega
    simp only [cellsOf] at hp
    split at hp
    · exact tail hp
    · rcases List.mem_cons.1 hp with rfl | h
      · simp
      · exact tail h

/-- Cells listed for bytes are in canonical form. -/
theorem cellsOf_wf (a : Nat) (b : Bytes) : cellsWf (cellsOf a b) = true := by
  rw [cellsWf_iff]
  induction b generalizing a with
  | nil => simp [cellsOf]
  | cons x r ih =>
    simp only [cellsOf]
    split
    · exact ih (a + 1)
    · rename_i h
      refine ⟨List.pairwise_cons.2 ⟨fun p hp => ?_, (ih (a + 1)).1⟩, ?_⟩
      · have := cellsOf_range (a + 1) r p hp
        exact this.1
      · intro p hp
        rcases List.mem_cons.1 hp with rfl | hp
        · exact h
        · exact (ih (a + 1)).2 p hp

/-- Replacing the cells of a range by canonical cells of that range keeps the canonical form. -/
theorem cellsSet_wf (c : List Host.Cell) (lo hi : Nat) (new : List Host.Cell) (hc : cellsWf c = true)
    (hn : cellsWf new = true) (hr : ∀ p ∈ new, lo ≤ p.1 ∧ p.1 < hi) (hl : lo ≤ hi) :
    cellsWf (cellsSet c lo hi new) = true := by
  rw [cellsWf_iff] at *
  refine ⟨?_, ?_⟩
  · refine List.pairwise_append.2 ⟨List.pairwise_append.2 ⟨hc.1.filter _, hn.1, ?_⟩, hc.1.filter _, ?_⟩
    · intro p hp q hq
      have := hr q hq
      have hp := (List.mem_filter.1 hp).2
      simp only [decide_eq_true_eq] at hp
      omega
    · intro p hp q hq
      have hq := (List.mem_filter.1 hq).2
      simp only [decide_eq_true_eq] at hq
      rcases List.mem_append.1 hp with hp | hp
      · have hp := (List.mem_filter.1 hp).2
        simp only [decide_eq_true_eq] at hp
        omega
      · have := hr p hp
        omega
  · intro p hp
    rcases List.mem_append.1 hp with hp | hp
    · rcases List.mem_append.1 hp with hp | hp
      · exact hc.2 p (List.mem_filter.1 hp).1
      · exact hn.2 p hp
    · exact hc.2 p (List.mem_filter.1 hp).1

/-- Storing bytes keeps the canonical form. -/
theorem cellsPut_wf (c : List Host.Cell) (a : Nat) (b : Bytes) (hc : cellsWf c = true) : cellsWf (cellsPut c a b) = true :=
  cellsSet_wf c a _ _ hc (cellsOf_wf a b) (cellsOf_range a b) (Nat.le_add_right _ _)

/-- Clearing a range keeps the canonical form. -/
theorem cellsClear_wf (c : List Host.Cell) (lo hi : Nat) (hc : cellsWf c = true) (h : lo ≤ hi) :
    cellsWf (cellsSet c lo hi []) = true :=
  cellsSet_wf c lo hi [] hc rfl (by simp) h

/-- The cells of a range moved to another place keep the canonical form. -/
theorem cellsShift_wf (c : List Host.Cell) (src dst n : Nat) (hc : cellsWf c = true) :
    cellsWf ((cellsIn c src (src + n)).map (fun p => (p.1 - src + dst, p.2))) = true := by
  rw [cellsWf_iff] at *
  have mem : ∀ p ∈ cellsIn c src (src + n), src ≤ p.1 ∧ p ∈ c := fun p hp => by
    have := (List.mem_filter.1 hp)
    simp only [Bool.and_eq_true, decide_eq_true_eq] at this
    exact ⟨this.2.1, this.1⟩
  refine ⟨?_, ?_⟩
  · rw [List.pairwise_map]
    refine (List.Pairwise.imp_of_mem ?_ (hc.1.filter _ : (cellsIn c src (src + n)).Pairwise _))
    intro p q hp hq h
    have := (mem p hp).1
    show p.1 - src + dst < q.1 - src + dst
    omega
  · intro p hp
    obtain ⟨q, hq, rfl⟩ := List.mem_map.1 hp
    exact hc.2 q (mem q hq).2

/-- Where the cells of a moved range lie. -/
theorem cellsShift_range (c : List Host.Cell) (src dst n : Nat) :
    ∀ p ∈ (cellsIn c src (src + n)).map (fun p => (p.1 - src + dst, p.2)), dst ≤ p.1 ∧ p.1 < dst + n := by
  intro p hp
  obtain ⟨q, hq, rfl⟩ := List.mem_map.1 hp
  have := (List.mem_filter.1 hq).2
  simp only [Bool.and_eq_true, decide_eq_true_eq] at this
  show dst ≤ q.1 - src + dst ∧ q.1 - src + dst < dst + n
  omega

/-! ### Reading a byte after a change -/

/-- A byte of memory is the one listed for its address, or zero. -/
theorem cellAt_eq_of_mem (c : List Host.Cell) (hc : cellsWf c = true) (p : Host.Cell) (hp : p ∈ c) : cellAt c p.1 = p.2 := by
  have h := ((cellsWf_iff c).1 hc).1
  clear hc
  induction c with
  | nil => simp at hp
  | cons q r ih =>
    simp only [cellAt, List.find?_cons]
    rcases List.mem_cons.1 hp with rfl | hp
    · simp
    · have hlt := (List.pairwise_cons.1 h).1 p hp
      have : (q.1 == p.1) = false := by simp; omega
      simpa [this, cellAt] using ih hp (List.pairwise_cons.1 h).2

/-- A byte that no cell lists is zero. -/
theorem cellAt_eq_zero (c : List Host.Cell) (a : Nat) (h : ∀ p ∈ c, p.1 ≠ a) : cellAt c a = 0 := by
  have : c.find? (fun p => p.1 == a) = none := by simpa [List.find?_eq_none] using h
  simp [cellAt, this]

/-- Whether a byte is zero or its cell is listed. -/
theorem cellAt_cases (c : List Host.Cell) (a : Nat) : cellAt c a = 0 ∨ (a, cellAt c a) ∈ c := by
  simp only [cellAt]
  cases h : c.find? (fun p => p.1 == a) with
  | none => simp
  | some p =>
    have h1 := List.find?_some h
    have h2 := List.mem_of_find?_eq_some h
    simp only [beq_iff_eq] at h1
    subst h1
    exact .inr (by simpa using h2)

/-- A byte that is not zero is listed. -/
theorem mem_cellsOf (b : Bytes) (a i : Nat) (h1 : a ≤ i) (h2 : i < a + b.length) (h3 : b.getD (i - a) 0 ≠ 0) :
    (i, b.getD (i - a) 0) ∈ cellsOf a b := by
  induction b generalizing a with
  | nil => simp at h2; omega
  | cons x r ih =>
    simp only [cellsOf]
    by_cases e : i = a
    · subst e
      simp only [Nat.sub_self, List.getD_cons_zero] at h3 ⊢
      rw [if_neg h3]
      exact List.mem_cons_self ..
    · have hs : i - a = (i - (a + 1)) + 1 := by omega
      rw [hs, List.getD_cons_succ] at h3 ⊢
      have := ih (a + 1) (by omega) (by simp at h2; omega) h3
      split
      · exact this
      · exact List.mem_cons_of_mem _ this

/-- A listed cell holds its byte. -/
theorem cellsOf_val (b : Bytes) (a : Nat) (p : Host.Cell) (hp : p ∈ cellsOf a b) : p.2 = b.getD (p.1 - a) 0 := by
  induction b generalizing a with
  | nil => simp [cellsOf] at hp
  | cons x r ih =>
    simp only [cellsOf] at hp
    have tail : p ∈ cellsOf (a + 1) r → p.2 = (x :: r).getD (p.1 - a) 0 := fun h => by
      have := cellsOf_range _ _ p h
      have hs : p.1 - a = (p.1 - (a + 1)) + 1 := by omega
      rw [hs, List.getD_cons_succ]
      exact ih _ h
    split at hp
    · exact tail hp
    · rcases List.mem_cons.1 hp with rfl | hp
      · simp
      · exact tail hp

/-- Which cells there are after bytes are stored. -/
theorem mem_cellsPut (c : List Host.Cell) (a : Nat) (b : Bytes) (p : Host.Cell) :
    p ∈ cellsPut c a b ↔ (p ∈ c ∧ (p.1 < a ∨ a + b.length ≤ p.1)) ∨ p ∈ cellsOf a b := by
  simp only [cellsPut, cellsSet, List.mem_append, List.mem_filter, decide_eq_true_eq]
  constructor
  · rintro ((h | h) | h)
    · exact .inl ⟨h.1, .inl h.2⟩
    · exact .inr h
    · exact .inl ⟨h.1, .inr h.2⟩
  · rintro (⟨h, g | g⟩ | h)
    · exact .inl (.inl ⟨h, g⟩)
    · exact .inr ⟨h, g⟩
    · exact .inl (.inr h)

/-- Bytes stored are read back, and every other byte reads as before. -/
theorem cellAt_cellsPut (c : List Host.Cell) (a : Nat) (b : Bytes) (i : Nat) (hc : cellsWf c = true) :
    cellAt (cellsPut c a b) i = if a ≤ i ∧ i < a + b.length then b.getD (i - a) 0 else cellAt c i := by
  have hw := cellsPut_wf c a b hc
  split
  · rename_i h
    by_cases z : b.getD (i - a) 0 = 0
    · rw [z]
      rcases cellAt_cases (cellsPut c a b) i with h0 | h0
      · exact h0
      · rcases (mem_cellsPut c a b _).1 h0 with ⟨-, h1⟩ | h1
        · simp only at h1
          omega
        · exact (cellsOf_val _ _ _ h1).trans z
    · exact cellAt_eq_of_mem _ hw _ ((mem_cellsPut ..).2 (.inr (mem_cellsOf b a i h.1 h.2 z)))
  · rename_i h
    rcases cellAt_cases c i with h0 | h0
    · rw [h0]
      refine cellAt_eq_zero _ _ fun p hp e => ?_
      rcases (mem_cellsPut c a b _).1 hp with ⟨h1, -⟩ | h1
      · refine ((cellsWf_iff c).1 hc).2 p h1 ?_
        rw [← cellAt_eq_of_mem c hc p h1, e, h0]
      · have := cellsOf_range _ _ p h1
        omega
    · exact cellAt_eq_of_mem _ hw _ ((mem_cellsPut ..).2 (.inl ⟨h0, by simp only; omega⟩))

/-! ### Changes of the whole memory -/

/-- Setting a line's pattern keeps the canonical form of the patterns. -/
theorem errPut_wf (t : Tbl Nat Bytes) (line : Nat) (e : Bytes) (h : errsWf t = true) : errsWf (errPut t line e) = true := by
  simp only [errsWf, canonical_iff] at *
  have cut : ∀ e', (e' = [] ∨ ∃ x, e' = [(line, x)] ∧ x.all (· == 0) = false) →
      (t.filter (fun p => decide (p.1 < line)) ++ (e' ++ t.filter (fun p => decide (line < p.1)))).Pairwise (fun p q => p.1 < q.1)
        ∧ ∀ p ∈ t.filter (fun p => decide (p.1 < line)) ++ (e' ++ t.filter (fun p => decide (line < p.1))), p.2.all (· == 0) = false := by
    intro e' he
    have at_ : ∀ q ∈ e', q.1 = line ∧ q.2.all (· == 0) = false := by
      rcases he with rfl | ⟨x, rfl, hx⟩ <;> simp
      simpa using hx
    refine ⟨List.pairwise_append.2 ⟨h.1.filter _, List.pairwise_append.2 ⟨?_, h.1.filter _, ?_⟩, ?_⟩, ?_⟩
    · rcases he with rfl | ⟨x, rfl, -⟩ <;> simp
    · intro p hp q hq
      have := (at_ p hp).1
      have := (List.mem_filter.1 hq).2
      simp only [decide_eq_true_eq] at this
      omega
    · intro p hp q hq
      have hp := (List.mem_filter.1 hp).2
      simp only [decide_eq_true_eq] at hp
      rcases List.mem_append.1 hq with hq | hq
      · have := (at_ q hq).1
        omega
      · have hq := (List.mem_filter.1 hq).2
        simp only [decide_eq_true_eq] at hq
        omega
    · intro p hp
      rcases List.mem_append.1 hp with hp | hp
      · exact h.2 p (List.mem_filter.1 hp).1
      · rcases List.mem_append.1 hp with hp | hp
        · exact (at_ p hp).2
        · exact h.2 p (List.mem_filter.1 hp).1
  unfold errPut
  simp only
  split
  · simpa using cut [] (.inl rfl)
  · rename_i hz
    exact cut [(line, e)] (.inr ⟨e, rfl, by simpa using hz⟩)

/-- Setting a line's pattern keeps memory canonical. -/
theorem Mem.setErr_wf (m : Mem) (line : Nat) (e : Bytes) (h : m.wf = true) : (m.setErr line e).wf = true := by
  simp only [Mem.wf, Mem.setErr, Bool.and_eq_true] at *
  exact ⟨h.1, errPut_wf _ _ _ h.2⟩

/-- Poisoning a line keeps memory canonical. -/
theorem Mem.poisonLine_wf (m : Mem) (line : Nat) (h : m.wf = true) : (m.poisonLine line).wf = true := Mem.setErr_wf m line _ h

/-- Poisoning lines keeps memory canonical. -/
theorem Mem.poisonLines_wf (l : List Nat) (m : Mem) (h : m.wf = true) : (l.foldl Mem.poisonLine m).wf = true := by
  induction l generalizing m with
  | nil => exact h
  | cons x r ih => exact ih _ (Mem.poisonLine_wf m x h)

/-- Memory whose cells are changed canonically and whose patterns are some of those before is canonical. -/
theorem Mem.wf_of (m n : Mem) (p : Nat × Bytes → Bool) (hm : m.wf = true) (hc : cellsWf m.cells = true → cellsWf n.cells = true)
    (he : n.lineErr = m.lineErr.filter p) : n.wf = true := by
  simp only [Mem.wf, Bool.and_eq_true] at *
  exact ⟨hc hm.1, by rw [he]; exact canonical_filter _ _ _ hm.2⟩

end Sys2Proof.Machine
end

