-- ==== Sys2Proof/Laws/Table.lean ====
section
/-! SUPPORT. What reading a table gives after each change of it. -/

namespace Sys2Proof.Machine

set_option Elab.async false
set_option linter.all false

section

variable {κ α : Type} [DecidableEq κ]

/-- A key just set reads as its value. -/
@[simp] theorem tget_tset_self (t : Tbl κ α) (k : κ) (v : α) : tget (tset t k v) k = some v := by
  induction t with
  | nil => simp [tset, tget]
  | cons p r ih =>
    obtain ⟨a, b⟩ := p
    by_cases h : a = k <;> simp [tset, tget, h, ih]

/-- Setting a key changes no other. -/
theorem tget_tset_ne (t : Tbl κ α) {k j : κ} (v : α) (h : j ≠ k) : tget (tset t k v) j = tget t j := by
  induction t with
  | nil => simp [tset, tget, Ne.symm h]
  | cons p r ih =>
    obtain ⟨a, b⟩ := p
    by_cases ha : a = k
    · subst ha; simp [tset, tget, Ne.symm h]
    · simp [tset, tget, ha, ih]

/-- A key just deleted is not listed. -/
@[simp] theorem tget_tdel_self (t : Tbl κ α) (k : κ) : tget (tdel t k) k = none := by
  induction t with
  | nil => simp [tdel, tget]
  | cons p r ih =>
    obtain ⟨a, b⟩ := p
    by_cases h : a = k <;> simp [tdel, tget, h, ih]

/-- Deleting a key changes no other. -/
theorem tget_tdel_ne (t : Tbl κ α) {k j : κ} (h : j ≠ k) : tget (tdel t k) j = tget t j := by
  induction t with
  | nil => simp [tdel, tget]
  | cons p r ih =>
    obtain ⟨a, b⟩ := p
    by_cases ha : a = k
    · subst ha; simp [tdel, tget, Ne.symm h, ih]
    · simp [tdel, tget, ha, ih]

/-- A key is listed after any key has been set, if it was listed before. -/
theorem thas_tset (t : Tbl κ α) (k j : κ) (v : α) (h : thas t j = true) : thas (tset t k v) j = true := by
  by_cases e : j = k
  · subst e; simp [thas]
  · simpa [thas, tget_tset_ne t v e] using h

/-- Changing every value leaves the listed keys listed. -/
theorem thas_tmap (t : Tbl κ α) (f : κ → α → α) (j : κ) : thas (tmap t f) j = thas t j := by
  induction t with
  | nil => rfl
  | cons p r ih =>
    obtain ⟨a, b⟩ := p
    by_cases h : a = j
    · simp [thas, tmap, tget, h]
    · simpa [thas, tmap, tget, h] using ih

/-- A change of a listed key is that change of its value. -/
theorem tget_tmod_self (t : Tbl κ α) (k : κ) (f : α → α) : tget (tmod t k f) k = (tget t k).map f := by
  unfold tmod
  cases h : tget t k <;> simp [h]

/-- A change of a key changes no other. -/
theorem tget_tmod_ne (t : Tbl κ α) {k j : κ} (f : α → α) (h : j ≠ k) : tget (tmod t k f) j = tget t j := by
  unfold tmod
  cases tget t k with
  | none => rfl
  | some v => exact tget_tset_ne t _ h

end

/-- A half just set reads as its value. -/
@[simp] theorem PerHalf.get_set_self {α : Type} (p : PerHalf α) (h : Half) (v : α) : (p.set h v).get h = v := by
  cases h <;> rfl

/-- Setting one half changes not the other. -/
theorem PerHalf.get_set_ne {α : Type} (p : PerHalf α) {h g : Half} (v : α) (e : g ≠ h) : (p.set h v).get g = p.get g := by
  cases h <;> cases g <;> first | rfl | exact absurd rfl e

end Sys2Proof.Machine
end

