-- ==== Sys2Proof/Laws/Kept.lean ====
section
/-! SUPPORT. What commands keep: two relations between the state before and the state after, and the ways to show
    them. -/

namespace Sys2Proof.Machine

set_option Elab.async false
set_option linter.all false

/-- What every command keeps, resets among them: the queue; device time, which never runs back (R663); MIN_SVN, which
    never falls
while its tag holds (R619); a retired granule stays retired (R641); the serial number; tenant 0 (R545); the canonical
    form of
memory. -/
structure Lasting (s t : State) : Prop where
  pending : t.pending = s.pending
  clock : s.now ≤ t.now
  svn : s.flash.minSvnTagOk = true → t.flash.minSvnTagOk = true ∧ s.flash.minSvn ≤ t.flash.minSvn
  retired : ∀ g ∈ s.flash.retiredGranules, g ∈ t.flash.retiredGranules
  serial : t.ident.serial = s.ident.serial
  tenant0 : thas s.tenants 0 = true → thas t.tenants 0 = true
  mem : s.mem.wf = true → t.mem.wf = true

/-- What a command keeps that is no cold reset and does not open the debug port: besides the above, the debug port's lock (R626),
and log sequence numbers, which never run back (R656). -/
structure Warm (s t : State) : Prop extends Lasting s t where
  unlocked : t.sec.debugUnlocked = s.sec.debugUnlocked
  seq : s.ras.nextSeq ≤ t.ras.nextSeq

/-- What a command keeps that neither resets nor starts up: besides the above, the carrel binding table (R514), the throttle
factors (R674), and that a fenced half stays fenced (R20). -/
structure Kept (s t : State) : Prop extends Warm s t where
  binding : t.cp.binding = s.cp.binding
  throttle : t.power.throttle = s.power.throttle
  fenced : ∀ h, (s.halves.get h).fenced = true → (t.halves.get h).fenced = true

theorem Lasting.refl (s : State) : Lasting s s :=
  ⟨rfl, Nat.le_refl _, fun h => ⟨h, Nat.le_refl _⟩, fun _ h => h, rfl, id, id⟩

theorem Lasting.trans {s t u : State} (h : Lasting s t) (g : Lasting t u) : Lasting s u :=
  ⟨g.pending.trans h.pending, Nat.le_trans h.clock g.clock,
    fun x => ⟨(g.svn (h.svn x).1).1, Nat.le_trans (h.svn x).2 (g.svn (h.svn x).1).2⟩,
    fun _ x => g.retired _ (h.retired _ x), g.serial.trans h.serial, fun x => g.tenant0 (h.tenant0 x), fun x => g.mem
        (h.mem x)⟩

theorem Warm.trans {s t u : State} (h : Warm s t) (g : Warm t u) : Warm s u :=
  ⟨h.toLasting.trans g.toLasting, g.unlocked.trans h.unlocked, Nat.le_trans h.seq g.seq⟩

theorem Kept.refl (s : State) : Kept s s := ⟨⟨.refl s, rfl, Nat.le_refl _⟩, rfl, rfl, fun _ h => h⟩

theorem Kept.trans {s t u : State} (h : Kept s t) (g : Kept t u) : Kept s u :=
  ⟨h.toWarm.trans g.toWarm, g.binding.trans h.binding, g.throttle.trans h.throttle, fun _ x => g.fenced _ (h.fenced _ x)⟩

/-- A change of any fields but the queue, given what the relation says of those it speaks of. -/
theorem lasting_mk {s t : State} {free : Nat} {out : List Emission} {now : Nat} {ident : Ident} {pins : Pins}
    {boot : Boot} {power : Power} {flash : Flash} {sec : Sec} {fw : Firmware} {cp : Cp} {tenants : Tbl Nat Tenant}
    {masters : Tbl Nat Nat} {mem : Mem} {regions : List Region} {zeroing : List Nat} {halves : PerHalf HalfState}
    {tensors : Tbl Nat Tensor} {nextTensor : Nat} {acc : Accession} {kvs : Tbl Nat KvObj} {kvGen : Tbl Nat Nat}
    {volumes : Tbl Nat Volume} {nextVolume : Nat} {queues : Tbl Nat Queue} {eng : Engines} {plain : Plain}
    {pool : Pool} {link : Link} {host : HostEp} {bw : Bw} {ras : Ras} {diag : Diag}
    (h : Lasting s t) (e1 : t.now ≤ now)
    (e4 : t.flash.minSvnTagOk = true → flash.minSvnTagOk = true ∧ t.flash.minSvn ≤ flash.minSvn)
    (e5 : flash.retiredGranules = t.flash.retiredGranules) (e8 : ident.serial = t.ident.serial)
    (e9 : thas t.tenants 0 = true → thas tenants 0 = true) (e10 : t.mem.wf = true → mem.wf = true) :
    Lasting s (State.mk t.pending free out now ident pins boot power flash sec fw cp tenants masters mem regions
        zeroing halves tensors nextTensor acc kvs kvGen volumes nextVolume queues eng plain pool link host bw ras
        diag) :=
  h.trans ⟨rfl, e1, e4, fun _ x => e5 ▸ x, e8, e9, e10⟩

/-- A change of any fields but the queue, given what the relation says of those it speaks of. -/
theorem warm_mk {s t : State} {free : Nat} {out : List Emission} {now : Nat} {ident : Ident} {pins : Pins}
    {boot : Boot} {power : Power} {flash : Flash} {sec : Sec} {fw : Firmware} {cp : Cp} {tenants : Tbl Nat Tenant}
    {masters : Tbl Nat Nat} {mem : Mem} {regions : List Region} {zeroing : List Nat} {halves : PerHalf HalfState}
    {tensors : Tbl Nat Tensor} {nextTensor : Nat} {acc : Accession} {kvs : Tbl Nat KvObj} {kvGen : Tbl Nat Nat}
    {volumes : Tbl Nat Volume} {nextVolume : Nat} {queues : Tbl Nat Queue} {eng : Engines} {plain : Plain}
    {pool : Pool} {link : Link} {host : HostEp} {bw : Bw} {ras : Ras} {diag : Diag}
    (h : Warm s t) (e1 : t.now ≤ now)
    (e4 : t.flash.minSvnTagOk = true → flash.minSvnTagOk = true ∧ t.flash.minSvn ≤ flash.minSvn)
    (e5 : flash.retiredGranules = t.flash.retiredGranules) (e8 : ident.serial = t.ident.serial)
    (e9 : thas t.tenants 0 = true → thas tenants 0 = true) (e10 : t.mem.wf = true → mem.wf = true)
    (e3 : sec.debugUnlocked = t.sec.debugUnlocked) (e6 : ras.nextSeq = t.ras.nextSeq) :
    Warm s (State.mk t.pending free out now ident pins boot power flash sec fw cp tenants masters mem regions
        zeroing halves tensors nextTensor acc kvs kvGen volumes nextVolume queues eng plain pool link host bw ras
        diag) :=
  ⟨lasting_mk h.toLasting e1 e4 e5 e8 e9 e10, e3.trans h.unlocked, Nat.le_trans h.seq (Nat.le_of_eq e6.symm)⟩

/-- A change of any fields but the queue and memory, given what the relation says of those it speaks of. -/
theorem kept_mk' {s t : State} {free : Nat} {out : List Emission} {now : Nat} {ident : Ident} {pins : Pins}
    {boot : Boot} {power : Power} {flash : Flash} {sec : Sec} {fw : Firmware} {cp : Cp} {tenants : Tbl Nat Tenant}
    {masters : Tbl Nat Nat} {regions : List Region} {zeroing : List Nat} {halves : PerHalf HalfState}
    {tensors : Tbl Nat Tensor} {nextTensor : Nat} {acc : Accession} {kvs : Tbl Nat KvObj} {kvGen : Tbl Nat Nat}
    {volumes : Tbl Nat Volume} {nextVolume : Nat} {queues : Tbl Nat Queue} {eng : Engines} {plain : Plain}
    {pool : Pool} {link : Link} {host : HostEp} {bw : Bw} {ras : Ras} {diag : Diag}
    (h : Kept s t) (e2 : cp.binding = t.cp.binding) (e3 : sec.debugUnlocked = t.sec.debugUnlocked)
    (e4 : flash.minSvn = t.flash.minSvn) (e4' : flash.minSvnTagOk = t.flash.minSvnTagOk)
    (e5 : flash.retiredGranules = t.flash.retiredGranules) (e6 : ras.nextSeq = t.ras.nextSeq)
    (e7 : power.throttle = t.power.throttle) (e8 : ident.serial = t.ident.serial)
    (e1 : t.now ≤ now) (e9 : thas t.tenants 0 = true → thas tenants 0 = true)
    (e10 : ∀ h, (t.halves.get h).fenced = true → (halves.get h).fenced = true) :
    Kept s (State.mk t.pending free out now ident pins boot power flash sec fw cp tenants masters t.mem regions
        zeroing halves tensors nextTensor acc kvs kvGen volumes nextVolume queues eng plain pool link host bw ras
        diag) :=
  h.trans ⟨⟨⟨rfl, e1, fun x => ⟨e4'.trans x, Nat.le_of_eq e4.symm⟩, fun _ x => e5 ▸ x, e8, e9, id⟩, e3, Nat.le_of_eq e6.symm⟩,
    e2, e7, e10⟩

/-- A change of fields that the relation does not speak of. -/
theorem kept_mk {s t : State} {free : Nat} {out : List Emission} {ident : Ident} {pins : Pins} {boot : Boot}
    {power : Power} {flash : Flash} {sec : Sec} {fw : Firmware} {cp : Cp} {masters : Tbl Nat Nat}
    {regions : List Region} {zeroing : List Nat} {tensors : Tbl Nat Tensor} {nextTensor : Nat} {acc : Accession}
    {kvs : Tbl Nat KvObj} {kvGen : Tbl Nat Nat} {volumes : Tbl Nat Volume} {nextVolume : Nat}
    {queues : Tbl Nat Queue} {eng : Engines} {plain : Plain} {pool : Pool} {link : Link} {host : HostEp} {bw : Bw}
    {ras : Ras} {diag : Diag}
    (h : Kept s t) (e2 : cp.binding = t.cp.binding) (e3 : sec.debugUnlocked = t.sec.debugUnlocked)
    (e4 : flash.minSvn = t.flash.minSvn) (e4' : flash.minSvnTagOk = t.flash.minSvnTagOk)
    (e5 : flash.retiredGranules = t.flash.retiredGranules) (e6 : ras.nextSeq = t.ras.nextSeq)
    (e7 : power.throttle = t.power.throttle) (e8 : ident.serial = t.ident.serial) :
    Kept s (State.mk t.pending free out t.now ident pins boot power flash sec fw cp t.tenants masters t.mem regions
        zeroing t.halves tensors nextTensor acc kvs kvGen volumes nextVolume queues eng plain pool link host bw ras
        diag) :=
  kept_mk' h e2 e3 e4 e4' e5 e6 e7 e8 (Nat.le_refl _) id fun _ x => x

/-- A change of memory that keeps its canonical form. -/
theorem kept_mem {s t : State} {m : Mem} (h : Kept s t) (hm : t.mem.wf = true → m.wf = true) : Kept s
    { t with mem := m } :=
  h.trans ⟨⟨⟨rfl, Nat.le_refl _, fun x => ⟨x, Nat.le_refl _⟩, fun _ x => x, rfl, id, hm⟩, rfl, Nat.le_refl _⟩, rfl, rfl,
    fun _ x => x⟩

/-- A fold of changes. -/
theorem kept_foldl {α : Type} {s t : State} {f : State → α → State} {l : List α} (hf : ∀ t x, Kept t (f t x)) (h :
    Kept s t) :
    Kept s (l.foldl f t) := by
  induction l generalizing t with
  | nil => exact h
  | cons x r ih => exact ih (h.trans (hf t x))

/-- A fold that carries a state with other things. -/
theorem kept_fold {α β : Type} {s : State} {r : β} {st : β → State} {f : β → α → β} {l : List α}
    (hf : ∀ r x, Kept (st r) (st (f r x))) (h : Kept s (st r)) : Kept s (st (l.foldl f r)) := by
  induction l generalizing r with
  | nil => exact h
  | cons x l ih => exact ih (h.trans (hf r x))

/-- A fold that carries a state and one more thing. -/
theorem kept_foldl_fst {α β : Type} {s : State} {r : State × β} {f : State × β → α → State × β} {l : List α}
    (hf : ∀ r x, Kept r.1 (f r x).1) (h : Kept s r.1) : Kept s (l.foldl f r).1 := kept_fold (st := Prod.fst) hf h

/-- The state of a pair. -/
theorem kept_fst {α : Type} {s u : State} {p : State × α} {a : α} (h : Kept s p.1) (e : p = (u, a)) : Kept s u := by
  rw [e] at h
  exact h

/-- A command answers a next state that keeps all this. -/
def KeptOut (s : State) (o : Out) : Prop := ∃ t, o = .next t ∧ Kept s t

/-- A command answers a next state that keeps what every command keeps. -/
def LastingOut (s : State) (o : Out) : Prop := ∃ t, o = .next t ∧ Lasting s t

theorem keptOut_next {s t : State} (h : Kept s t) : KeptOut s (.next t) := ⟨t, rfl, h⟩

theorem lastingOut_next {s t : State} (h : Lasting s t) : LastingOut s (.next t) := ⟨t, rfl, h⟩

theorem KeptOut.lasting {s : State} {o : Out} (h : KeptOut s o) : LastingOut s o := by
  obtain ⟨t, e, k⟩ := h
  exact ⟨t, e, k.toLasting⟩

theorem keptOut_ite {s : State} {c : Prop} [Decidable c] {a b : Out} (ha : KeptOut s a) (hb : KeptOut s b) :
    KeptOut s (if c then a else b) := by
  split
  · exact ha
  · exact hb

end Sys2Proof.Machine
end

