-- ==== Sys2Proof/Laws/KeptOps.lean ====
section
/-! SUPPORT. What the operations of Ops keep. -/

namespace Sys2Proof.Machine

set_option Elab.async false
set_option linter.all false

theorem kept_emit {s0 s : State} {e : Emission} (hk : Kept s0 s) : Kept s0 (emit s e) :=
  kept_mk hk rfl rfl rfl rfl rfl rfl rfl rfl

theorem kept_bump {s0 s : State} (hk : Kept s0 s) : Kept s0 (bump s) := kept_mk hk rfl rfl rfl rfl rfl rfl rfl rfl

theorem kept_drew {s0 : State} {n : Nat} {s : State} (hk : Kept s0 s) : Kept s0 (drew n s) :=
  kept_mk hk rfl rfl rfl rfl rfl rfl rfl rfl

theorem kept_alertEval {s0 s : State} (hk : Kept s0 s) : Kept s0 (alertEval s) :=
  kept_mk hk rfl rfl rfl rfl rfl rfl rfl rfl

theorem kept_cycleSort {s0 s : State} (hk : Kept s0 s) : Kept s0 (cycleSort s) := by
  unfold cycleSort
  try dsimp only
  repeat' first
    | with_reducible exact hk | with_reducible exact Kept.refl _ | intro _
    | with_reducible refine kept_mk ?_ rfl rfl rfl rfl rfl rfl rfl rfl | dsimp only

theorem kept_logAppend {s0 s : State} {r : ErrRec} (hk : Kept s0 s) : Kept s0 (logAppend s r) := by
  unfold logAppend
  dsimp only
  refine hk.trans ⟨⟨⟨rfl, Nat.le_refl _, ?_, ?_, rfl, id, id⟩, rfl, Nat.le_succ _⟩, rfl, rfl, fun _ x => x⟩
  · intro hg
    show (if _ then _ else _ : Flash).minSvnTagOk = true ∧ s.flash.minSvn ≤ (if _ then _ else _ : Flash).minSvn
    split <;> exact ⟨hg, Nat.le_refl _⟩
  · intro g hg
    show g ∈ (if _ then _ else _ : Flash).retiredGranules
    split <;> exact hg

theorem kept_logWrite {s0 s : State} {r : ErrRec} (hk : Kept s0 s) : Kept s0 (logWrite s r) := by
  unfold logWrite
  dsimp only
  split
  · exact kept_alertEval (kept_cycleSort (kept_logAppend hk))
  · exact kept_alertEval (kept_logAppend (kept_mk hk rfl rfl rfl rfl rfl rfl rfl rfl))

theorem kept_logCorrected {s0 s : State} {h : Half} {r : ErrRec} (hk : Kept s0 s) : Kept s0 (logCorrected s h r) := by
  unfold logCorrected
  try dsimp only
  repeat' first
    | with_reducible exact hk | with_reducible exact Kept.refl _ | intro _ | split | with_reducible apply kept_logWrite
    | with_reducible refine kept_mk ?_ rfl rfl rfl rfl rfl rfl rfl rfl | dsimp only

theorem kept_logRec {s0 s : State} {h : Half} {r : ErrRec} (hk : Kept s0 s) : Kept s0 (logRec s h r) := by
  unfold logRec
  repeat' first
    | with_reducible exact hk | split | with_reducible apply kept_logCorrected | with_reducible apply kept_logWrite

theorem kept_logNow {s0 s : State} {r : ErrRec} (hk : Kept s0 s) : Kept s0 (logNow s r) := kept_logWrite hk

theorem kept_linePlainPut {s0 s : State} {line : Nat} {p : Bytes} (hk : Kept s0 s) :
    Kept s0 (linePlainPut s line p) := by
  unfold linePlainPut
  split
  · refine kept_mem hk fun h => Mem.wf_of s.mem _ (fun _ => true) h (fun h => cellsPut_wf _ _ _ h) ?_
    show _ = List.filter _ _
    rw [List.filter_eq_self.2]
    exact fun _ _ => rfl
  · exact kept_mem hk id

theorem kept_lineSettle {s0 s : State} {line : Nat} {e : Bytes} (hk : Kept s0 s) : Kept s0 (lineSettle s line e) := by
  unfold lineSettle
  dsimp only
  split
  · exact kept_mem hk (Mem.setErr_wf _ _ _)
  · exact kept_linePlainPut (kept_mem hk (Mem.setErr_wf _ _ _))

theorem kept_bwMod {s0 s : State} {r c : Nat} {f : BwCell → BwCell} (hk : Kept s0 s) : Kept s0 (bwMod s r c f) :=
  kept_mk hk rfl rfl rfl rfl rfl rfl rfl rfl

theorem kept_charge {s0 s : State} {r c n : Nat} (hk : Kept s0 s) : Kept s0 (charge s r c n) := by
  unfold charge
  try dsimp only
  repeat' first
    | with_reducible exact hk | with_reducible exact Kept.refl _ | intro _ | split | with_reducible apply kept_bwMod
    | with_reducible refine kept_mk ?_ rfl rfl rfl rfl rfl rfl rfl rfl | dsimp only

theorem kept_retireRow {s0 s : State} {da : Nat} (hk : Kept s0 s) : Kept s0 (retireRow s da) := by
  unfold retireRow
  exact hk.trans ⟨⟨⟨rfl, Nat.le_refl _, fun x => ⟨x, Nat.le_refl _⟩, fun _ x => List.mem_append_left _ x, rfl, id, id⟩, rfl,
    Nat.le_refl _⟩, rfl, rfl, fun _ x => x⟩

theorem kept_lastingRow {s0 s : State} {da : Nat} {r : ErrRec} (hk : Kept s0 s) : Kept s0 (lastingRow s da r) := by
  unfold lastingRow
  try dsimp only
  repeat' first
    | with_reducible exact hk | split | with_reducible apply kept_logNow | with_reducible apply kept_retireRow
    | with_reducible refine kept_mk ?_ rfl rfl rfl rfl rfl rfl rfl rfl | dsimp only

theorem kept_unitCount {s0 s : State} {da : Nat} {row : Bool} (hk : Kept s0 s) : Kept s0 (unitCount s da row) := by
  unfold unitCount
  try dsimp only
  repeat' first
    | with_reducible exact hk | split | with_reducible refine kept_mk ?_ rfl rfl rfl rfl rfl rfl rfl rfl | dsimp only

theorem kept_rowCount {s0 s : State} {da : Nat} (hk : Kept s0 s) : Kept s0 (rowCount s da).1 := by
  unfold rowCount
  try dsimp only
  repeat' first
    | with_reducible exact hk | with_reducible refine kept_mk ?_ rfl rfl rfl rfl rfl rfl rfl rfl | dsimp only

theorem kept_rowCount_of {s0 s : State} {da : Nat} {r : State × Bool} (hk : Kept s0 s)
    (e : rowCount s da = r) : Kept s0 r.1 :=
  e ▸ kept_rowCount hk

theorem kept_errCount {s0 s : State} {corrected : Bool} (hk : Kept s0 s) : Kept s0 (errCount s corrected) := by
  unfold errCount
  repeat' first
    | with_reducible exact hk | split | with_reducible refine kept_mk ?_ rfl rfl rfl rfl rfl rfl rfl rfl

theorem kept_dramEvent {s0 s : State} {da : Nat} {corrected : Bool} {pos source : Nat} (hk : Kept s0 s) :
    Kept s0 (dramEvent s da corrected pos source) := by
  unfold dramEvent
  try dsimp only
  repeat' first
    | with_reducible exact hk | split | with_reducible apply kept_logRec | with_reducible apply kept_rowCount
    | with_reducible apply kept_errCount | with_reducible apply kept_unitCount | with_reducible apply kept_lastingRow
    | dsimp only

theorem kept_lineCheck {s0 s : State} {line source : Nat} (hk : Kept s0 s) : Kept s0 (lineCheck s line source).1 := by
  unfold lineCheck
  try dsimp only
  repeat' first
    | with_reducible exact hk | split | with_reducible apply kept_lineSettle | with_reducible apply kept_charge
    | with_reducible apply kept_dramEvent | with_reducible refine kept_fst ?_ (by assumption)
    | with_reducible refine kept_mk ?_ rfl rfl rfl rfl rfl rfl rfl rfl | dsimp only

theorem kept_lineCheck_of {s0 s : State} {line source : Nat} {r : State × Bool} (hk : Kept s0 s)
    (e : lineCheck s line source = r) : Kept s0 r.1 :=
  e ▸ kept_lineCheck hk

theorem kept_linesCheck {s0 s : State} {source : Nat} {y0 : List Nat} (hk : Kept s0 s) :
    Kept s0 (linesCheck s source y0).1 := by
  induction y0 generalizing s with
  | nil => exact hk
  | cons l r ih => exact ih (kept_lineCheck hk)

theorem kept_linesCheck_of {s0 s : State} {source : Nat} {y0 : List Nat} {r : State × List Nat} (hk : Kept s0 s)
    (e : linesCheck s source y0 = r) : Kept s0 r.1 :=
  e ▸ kept_linesCheck hk

theorem kept_dramRead {s0 s : State} {da n source : Nat} (hk : Kept s0 s) : Kept s0 (dramRead s da n source).1 :=
  kept_linesCheck hk

theorem kept_dramRead_of {s0 s : State} {da n source : Nat} {r : State × Bytes × List Nat} (hk : Kept s0 s)
    (e : dramRead s da n source = r) : Kept s0 r.1 :=
  e ▸ kept_dramRead hk

theorem kept_dramPut {s0 s : State} {da : Nat} {b : Bytes} (hk : Kept s0 s) : Kept s0 (dramPut s da b) := by
  unfold dramPut
  exact kept_mem hk fun h => Mem.wf_of s.mem _ _ h (fun h => cellsPut_wf _ _ _ h) rfl

theorem kept_dramPoison {s0 s : State} {da lines : Nat} (hk : Kept s0 s) : Kept s0 (dramPoison s da lines) := by
  induction lines generalizing s da with
  | zero => exact hk
  | succ n ih => exact ih (kept_mem hk (Mem.poisonLine_wf _ _))

theorem kept_dramZero {s0 s : State} {da n : Nat} (hk : Kept s0 s) : Kept s0 (dramZero s da n) := by
  unfold dramZero
  exact kept_mem hk fun h => Mem.wf_of s.mem _ _ h (fun h => cellsClear_wf _ _ _ h (Nat.le_add_right _ _)) rfl

theorem kept_dramMove {s0 s : State} {src dst n : Nat} (hk : Kept s0 s) : Kept s0 (dramMove s src dst n) := by
  unfold dramMove
  refine kept_mem hk fun h => Mem.poisonLines_wf _ _ (Mem.wf_of s.mem _ _ h (fun h => ?_) rfl)
  exact cellsSet_wf _ _ _ _ h (cellsShift_wf _ _ _ _ h) (cellsShift_range _ _ _ _) (Nat.le_add_right _ _)

end Sys2Proof.Machine
end

