-- ==== Sys2Proof/Laws/KeptLinkOps.lean ====
section
/-! SUPPORT. What the operations of LinkOps keep. -/

namespace Sys2Proof.Machine

set_option Elab.async false
set_option linter.all false

theorem kept_hostLinkMod {s0 s : State} {l : Nat} {f : HostLink → HostLink} (hk : Kept s0 s) :
    Kept s0 (hostLinkMod s l f) :=
  kept_mk hk rfl rfl rfl rfl rfl rfl rfl rfl

theorem kept_hostTouch {s0 s : State} {fn : Fn} {tx : Bool} {n : Nat} (hk : Kept s0 s) :
    Kept s0 (hostTouch s fn tx n) :=
  kept_mk hk rfl rfl rfl rfl rfl rfl rfl rfl

theorem kept_portMod {s0 s : State} {p : Nat} {f : Port → Port} (hk : Kept s0 s) : Kept s0 (portMod s p f) :=
  kept_mk hk rfl rfl rfl rfl rfl rfl rfl rfl

theorem kept_flowMod {s0 s : State} {p : Nat} {f : PortFlow → PortFlow} (hk : Kept s0 s) : Kept s0 (flowMod s p f) :=
  kept_mk hk rfl rfl rfl rfl rfl rfl rfl rfl

theorem kept_countPort {s0 s : State} {p : Nat} {f : PortCounters → PortCounters} (hk : Kept s0 s) :
    Kept s0 (countPort s p f) :=
  kept_mk hk rfl rfl rfl rfl rfl rfl rfl rfl

theorem kept_sessMod {s0 s : State} {k : Nat × Nat} {f : Session → Session} (hk : Kept s0 s) :
    Kept s0 (sessMod s k f) :=
  kept_mk hk rfl rfl rfl rfl rfl rfl rfl rfl

theorem kept_portEmit {s0 s : State} {p : Nat} {ch : Option Nat} {sealed : Bytes} (hk : Kept s0 s) :
    Kept s0 (portEmit s p ch sealed) :=
  kept_emit (kept_portMod (kept_flowMod hk))

theorem kept_portIdle {s0 s : State} {p : Nat} (hk : Kept s0 s) : Kept s0 (portIdle s p) := by
  unfold portIdle
  try dsimp only
  repeat' first
    | with_reducible exact hk | with_reducible exact Kept.refl _ | intro _ | split | with_reducible apply kept_emit
    | with_reducible apply kept_flowMod | with_reducible refine kept_fst ?_ (by assumption)
    | with_reducible refine kept_mk ?_ rfl rfl rfl rfl rfl rfl rfl rfl | dsimp only

theorem kept_portPut {s0 s : State} {p : Nat} {ch : Option Nat} {sealed : Bytes} (hk : Kept s0 s) :
    Kept s0 (portPut s p ch sealed) := by
  unfold portPut
  try dsimp only
  repeat' first
    | with_reducible exact hk | with_reducible exact Kept.refl _ | intro _ | split | with_reducible apply kept_portEmit
    | with_reducible apply kept_flowMod | with_reducible refine kept_fst ?_ (by assumption)
    | with_reducible refine kept_mk ?_ rfl rfl rfl rfl rfl rfl rfl rfl | dsimp only

theorem kept_portDrain {s0 : State} {fuel : Nat} {y1 : State} {y2 : Nat} (hk : Kept s0 y1) :
    Kept s0 (portDrain fuel y1 y2) := by
  induction fuel generalizing y1 with
  | zero => exact hk
  | succ n ih =>
    simp only [portDrain]
    split
    · exact hk
    · exact ih (kept_portEmit (kept_flowMod hk))

theorem kept_portSettle {s0 s : State} {p : Nat} (hk : Kept s0 s) : Kept s0 (portSettle s p) := by
  unfold portSettle
  try dsimp only
  repeat' first
    | with_reducible exact hk | with_reducible exact Kept.refl _ | intro _ | with_reducible apply kept_portDrain
    | with_reducible apply kept_flowMod | with_reducible refine kept_mk ?_ rfl rfl rfl rfl rfl rfl rfl rfl | dsimp only

theorem kept_portSeal {s0 s : State} {p : Nat} {keyed : Bool} {f : Flit} (hk : Kept s0 s) :
    Kept s0 (portSeal s p keyed f).1 := by
  unfold portSeal
  try dsimp only
  repeat' first
    | with_reducible exact hk | with_reducible exact Kept.refl _ | intro _ | split | with_reducible apply kept_flowMod
    | with_reducible refine kept_mk ?_ rfl rfl rfl rfl rfl rfl rfl rfl | dsimp only

theorem kept_portSeal_of {s0 s : State} {p : Nat} {keyed : Bool} {f : Flit} {r : State × Bytes} (hk : Kept s0 s)
    (e : portSeal s p keyed f = r) : Kept s0 r.1 :=
  e ▸ kept_portSeal hk

theorem kept_portWake {s0 s : State} {p : Nat} (hk : Kept s0 s) : Kept s0 (portWake s p) := by
  unfold portWake
  try dsimp only
  repeat' first
    | with_reducible exact hk | with_reducible exact Kept.refl _ | intro _ | split
    | with_reducible refine kept_portSeal_of ?_ (by assumption) | with_reducible apply kept_portSeal
    | with_reducible apply kept_portMod | with_reducible apply kept_portPut | with_reducible apply kept_emit
    | with_reducible refine kept_fst ?_ (by assumption)
    | with_reducible refine kept_mk ?_ rfl rfl rfl rfl rfl rfl rfl rfl | dsimp only

theorem kept_portTx {s0 s : State} {p : Nat} {ch : Option Nat} {sealed : Bytes} (hk : Kept s0 s) :
    Kept s0 (portTx s p ch sealed) :=
  kept_portPut (kept_portWake hk)

theorem kept_lctlPart {s0 s : State} {p : Nat} {part : Nat × Bytes} (hk : Kept s0 s) : Kept s0 (lctlPart s p part) := by
  unfold lctlPart
  try dsimp only
  repeat' first
    | with_reducible exact hk | split | with_reducible refine kept_portSeal_of ?_ (by assumption)
    | with_reducible apply kept_portSeal | with_reducible apply kept_portWake | with_reducible apply kept_portPut
    | with_reducible refine kept_fst ?_ (by assumption) | dsimp only

theorem kept_lctlSend {s0 s : State} {p sub : Nat} {body : Bytes} (hk : Kept s0 s) : Kept s0 (lctlSend s p sub body) :=
  kept_foldl (fun _ _ => kept_lctlPart (.refl _)) hk

theorem kept_demandAdd {s0 s : State} {r c n : Nat} (hk : Kept s0 s) : Kept s0 (demandAdd s r c n) := by
  unfold demandAdd
  try dsimp only
  repeat' first
    | with_reducible exact hk | with_reducible exact Kept.refl _ | intro _ | with_reducible apply kept_bwMod
    | with_reducible refine kept_mk ?_ rfl rfl rfl rfl rfl rfl rfl rfl | dsimp only

theorem kept_grantAdd {s0 s : State} {r c n : Nat} (hk : Kept s0 s) : Kept s0 (grantAdd s r c n) := by
  unfold grantAdd
  try dsimp only
  repeat' first
    | with_reducible exact hk | with_reducible exact Kept.refl _ | intro _ | with_reducible apply kept_bwMod
    | with_reducible refine kept_mk ?_ rfl rfl rfl rfl rfl rfl rfl rfl | dsimp only

theorem kept_sessEmit {s0 s : State} {k : Nat × Nat} {x : Session} {f : Flit} (hk : Kept s0 s) :
    Kept s0 (sessEmit s k x f) := by
  unfold sessEmit
  try dsimp only
  repeat' first
    | with_reducible exact hk | with_reducible exact Kept.refl _ | intro _ | split | with_reducible apply kept_sessMod
    | with_reducible apply kept_grantAdd | with_reducible apply kept_portTx
    | with_reducible refine kept_mk ?_ rfl rfl rfl rfl rfl rfl rfl rfl | dsimp only

theorem kept_sessSend {s0 s : State} {k : Nat × Nat} {f : Flit} (hk : Kept s0 s) : Kept s0 (sessSend s k f) := by
  unfold sessSend
  try dsimp only
  repeat' first
    | with_reducible exact hk | with_reducible exact Kept.refl _ | intro _ | split
    | with_reducible apply kept_demandAdd | with_reducible apply kept_sessEmit | with_reducible apply kept_sessMod
    | with_reducible refine kept_mk ?_ rfl rfl rfl rfl rfl rfl rfl rfl | dsimp only

theorem kept_sessDrain {s0 : State} {fuel : Nat} {y1 : State} {y2 : Nat × Nat} (hk : Kept s0 y1) :
    Kept s0 (sessDrain fuel y1 y2) := by
  induction fuel generalizing y1 with
  | zero => exact hk
  | succ n ih =>
    simp only [sessDrain]
    split
    · exact hk
    · split
      · exact hk
      · split
        · exact ih (kept_sessEmit (kept_sessMod hk))
        · exact hk

theorem kept_lenderDrain {s0 : State} {fuel : Nat} {y1 : State} {y2 : Nat} (hk : Kept s0 y1) :
    Kept s0 (lenderDrain fuel y1 y2) := by
  induction fuel generalizing y1 with
  | zero => exact hk
  | succ n ih =>
    simp only [lenderDrain]
    split
    · exact hk
    · exact ih (kept_mk (kept_sessDrain hk) rfl rfl rfl rfl rfl rfl rfl rfl)

theorem kept_lenderGo {s0 s : State} {node : Nat} (hk : Kept s0 s) : Kept s0 (lenderGo s node) := by
  unfold lenderGo
  try dsimp only
  repeat' first
    | with_reducible exact hk | with_reducible exact Kept.refl _ | intro _ | with_reducible apply kept_lenderDrain
    | with_reducible apply kept_foldl | with_reducible apply kept_foldl_fst | dsimp only

theorem kept_sctlSend {s0 s : State} {k : Nat × Nat} {sub : Nat} {body : Bytes} (hk : Kept s0 s) :
    Kept s0 (sctlSend s k sub body) :=
  kept_foldl (fun _ _ => kept_sessSend (.refl _)) hk

theorem kept_pairSend {s0 s : State} {node sid home : Nat} {system sealed : Bool} {sub : Nat} {body : Bytes} (hk :
    Kept s0 s) :
    Kept s0 (pairSend s node sid home system sealed sub body) := by
  unfold pairSend
  try dsimp only
  repeat' first
    | with_reducible exact hk | with_reducible exact Kept.refl _ | intro _ | split | with_reducible apply kept_portTx
    | with_reducible apply kept_foldl | with_reducible refine kept_fst ?_ (by assumption)
    | with_reducible apply kept_foldl_fst | with_reducible refine kept_mk ?_ rfl rfl rfl rfl rfl rfl rfl rfl
    | dsimp only

theorem kept_msgSend {s0 s : State} {node code : Nat} {body : Bytes} (hk : Kept s0 s) :
    Kept s0 (msgSend s node code body) := by
  unfold msgSend
  try dsimp only
  repeat' first
    | with_reducible exact hk | with_reducible exact Kept.refl _ | intro _ | split | with_reducible apply kept_emit
    | with_reducible apply kept_sessSend | with_reducible apply kept_foldl | with_reducible apply kept_foldl_fst
    | with_reducible refine kept_mk ?_ rfl rfl rfl rfl rfl rfl rfl rfl | dsimp only

theorem kept_poolRead {s0 s : State} {mid node : Nat} {half : Half} {ext off n : Nat} {wait : Bool} {addr : Nat} (hk
    : Kept s0 s) :
    Kept s0 (poolRead s mid node half ext off n wait addr) := by
  unfold poolRead
  try dsimp only
  repeat' first
    | with_reducible exact hk | with_reducible exact Kept.refl _ | intro _ | split | with_reducible apply kept_sessSend
    | with_reducible apply kept_sessMod | with_reducible apply kept_foldl
    | with_reducible refine kept_mk ?_ rfl rfl rfl rfl rfl rfl rfl rfl | dsimp only

theorem kept_poolWrite {s0 s : State} {cls mid node : Nat} {half : Half} {ext off : Nat} {b : Bytes} {addr : Nat} (hk
    : Kept s0 s) :
    Kept s0 (poolWrite s cls mid node half ext off b addr) := by
  unfold poolWrite
  try dsimp only
  repeat' first
    | with_reducible exact hk | with_reducible exact Kept.refl _ | intro _ | split | with_reducible apply kept_sessSend
    | with_reducible apply kept_sessMod | with_reducible apply kept_foldl | with_reducible apply kept_foldl_fst
    | with_reducible refine kept_mk ?_ rfl rfl rfl rfl rfl rfl rfl rfl | dsimp only

end Sys2Proof.Machine
end

