-- ==== Sys2Proof/Laws/KeptLedger.lean ====
section
/-! SUPPORT. What the operations of Ledger keep. -/

namespace Sys2Proof.Machine

set_option Elab.async false
set_option linter.all false

theorem kept_charges {s0 s : State} {rs : List Nat} {c n : Nat} (hk : Kept s0 s) : Kept s0 (charges s rs c n) :=
  kept_foldl (fun _ _ => kept_charge (.refl _)) hk

theorem kept_chargeHostTx {s0 s : State} {c mid n : Nat} (hk : Kept s0 s) : Kept s0 (chargeHostTx s c mid n) := by
  unfold chargeHostTx
  repeat' first
    | with_reducible exact hk | split | with_reducible apply kept_charge | with_reducible apply kept_hostTouch
    | with_reducible refine kept_mk ?_ rfl rfl rfl rfl rfl rfl rfl rfl

theorem kept_chargeHostRx {s0 s : State} {c mid n : Nat} (hk : Kept s0 s) : Kept s0 (chargeHostRx s c mid n) := by
  unfold chargeHostRx
  repeat' first
    | with_reducible exact hk | split | with_reducible apply kept_charge | with_reducible apply kept_hostTouch
    | with_reducible refine kept_mk ?_ rfl rfl rfl rfl rfl rfl rfl rfl

theorem kept_chargeRead {s0 s : State} {c da n : Nat} {d : Die} (hk : Kept s0 s) : Kept s0 (chargeRead s c da n d) := by
  unfold chargeRead
  repeat' first
    | with_reducible exact hk | split | with_reducible apply kept_charges

theorem kept_chargeWrite {s0 s : State} {c da n : Nat} {d : Die} (hk : Kept s0 s) :
    Kept s0 (chargeWrite s c da n d) := by
  unfold chargeWrite
  repeat' first
    | with_reducible exact hk | split | with_reducible apply kept_charges

theorem kept_chargeZero {s0 s : State} {da n : Nat} (hk : Kept s0 s) : Kept s0 (chargeZero s da n) := by
  unfold chargeZero
  repeat' first
    | with_reducible exact hk | with_reducible apply kept_chargeWrite

end Sys2Proof.Machine
end

