-- ==== Sys2Proof/Laws/KeptCarrel.lean ====
section
/-! SUPPORT. What the operations of Carrel keep. -/

namespace Sys2Proof.Machine

set_option Elab.async false
set_option linter.all false

theorem kept_carrelMod {s0 s : State} {n : Nat} {f : Carrel → Carrel} (hk : Kept s0 s) : Kept s0 (carrelMod s n f) :=
  kept_mk hk rfl rfl rfl rfl rfl rfl rfl rfl

theorem kept_execCarrelDoorbell {s0 : State} {carrel : Nat} {full : Bool} {value : BitVec 64} {s : State} (hk : Kept
    s0 s) :
    KeptOut s0 (execCarrelDoorbell carrel full value s) := by
  unfold execCarrelDoorbell
  try dsimp only
  repeat' first
    | with_reducible apply keptOut_next | with_reducible exact hk | with_reducible exact Kept.refl _ | intro _ | split
    | with_reducible apply kept_carrelMod | with_reducible refine kept_mk ?_ rfl rfl rfl rfl rfl rfl rfl rfl
    | dsimp only

theorem kept_execCarrelMessageWrite {s0 : State} {carrel off : Nat} {bytes : Bytes} {s : State} (hk : Kept s0 s) :
    KeptOut s0 (execCarrelMessageWrite carrel off bytes s) := by
  unfold execCarrelMessageWrite
  try dsimp only
  repeat' first
    | with_reducible apply keptOut_next | with_reducible exact hk | with_reducible exact Kept.refl _ | intro _ | split
    | with_reducible apply kept_carrelMod | with_reducible refine kept_mk ?_ rfl rfl rfl rfl rfl rfl rfl rfl
    | dsimp only

theorem kept_quietNow {s0 s : State} (hk : Kept s0 s) : Kept s0 (quietNow s) :=
  kept_mk hk rfl rfl rfl rfl rfl rfl rfl rfl

theorem kept_leaveSleep {s0 s : State} (hk : Kept s0 s) : Kept s0 (leaveSleep s) :=
  kept_mk hk rfl rfl rfl rfl rfl rfl rfl rfl

theorem kept_readStart {s0 s : State} {mid addr len : Nat} (hk : Kept s0 s) : Kept s0 (readStart s mid addr len) := by
  unfold readStart
  try dsimp only
  repeat' first
    | with_reducible exact hk | with_reducible exact Kept.refl _ | intro _ | split | with_reducible apply kept_emit
    | with_reducible refine kept_fst ?_ (by assumption)
    | with_reducible refine kept_mk ?_ rfl rfl rfl rfl rfl rfl rfl rfl | dsimp only

theorem kept_hostReadFail {s0 s : State} {mid addr why : Nat} (hk : Kept s0 s) :
    Kept s0 (hostReadFail s mid addr why) :=
  kept_logNow hk

theorem kept_readTimeout {s0 s : State} {fn : Fn} {t addr : Nat} (hk : Kept s0 s) : Kept s0 (readTimeout s fn t addr) :=
  kept_hostReadFail (kept_mk hk rfl rfl rfl rfl rfl rfl rfl rfl)

theorem kept_readEnd {s0 s : State} {mid addr : Nat} {answer : HostRead} (hk : Kept s0 s) :
    Kept s0 (readEnd s mid addr answer) := by
  unfold readEnd
  try dsimp only
  repeat' first
    | with_reducible exact hk | split | with_reducible apply kept_hostReadFail | with_reducible apply kept_readTimeout
    | with_reducible refine kept_fst ?_ (by assumption)
    | with_reducible refine kept_mk ?_ rfl rfl rfl rfl rfl rfl rfl rfl | dsimp only

theorem kept_readWhole {s0 s : State} {mid addr len : Nat} {answer : HostRead} (hk : Kept s0 s) :
    Kept s0 (readWhole s mid addr len answer) :=
  kept_readEnd (kept_readStart hk)

theorem kept_cmdDrop {s0 s : State} {src : DeskSrc} (hk : Kept s0 s) : Kept s0 (cmdDrop s src) :=
  kept_mk hk rfl rfl rfl rfl rfl rfl rfl rfl

theorem kept_completeOut {s0 s : State} {c : RunCmd} {rc : Nat} {result out : Bytes} (hk : Kept s0 s) :
    Kept s0 (completeOut s c rc result out) := by
  unfold completeOut
  try dsimp only
  repeat' first
    | with_reducible exact hk | with_reducible exact Kept.refl _ | intro _ | split | with_reducible apply kept_cmdDrop
    | with_reducible apply kept_chargeHostTx | with_reducible apply kept_emit | with_reducible apply kept_carrelMod
    | with_reducible apply kept_msgSend | with_reducible refine kept_mk ?_ rfl rfl rfl rfl rfl rfl rfl rfl | dsimp only

theorem kept_complete {s0 s : State} {c : RunCmd} {rc : Nat} {vals : List Val} (hk : Kept s0 s) :
    Kept s0 (complete s c rc vals) :=
  kept_completeOut hk

theorem kept_failWith {s0 s : State} {c : RunCmd} {rc : Nat} (hk : Kept s0 s) : Kept s0 (failWith s c rc) :=
  kept_completeOut hk

theorem kept_takeCmd {s0 s : State} {c : RunCmd} {forwarded : Bool} (hk : Kept s0 s) :
    Kept s0 (takeCmd s c forwarded) := by
  unfold takeCmd
  try dsimp only
  repeat' first
    | with_reducible exact hk | split | with_reducible apply kept_failWith
    | with_reducible refine kept_mk ?_ rfl rfl rfl rfl rfl rfl rfl rfl | dsimp only

theorem kept_messageTake {s0 s : State} (hk : Kept s0 s) : Kept s0 (messageTake s) := by
  unfold messageTake
  try dsimp only
  repeat' first
    | with_reducible exact hk | with_reducible exact Kept.refl _ | intro _ | split | with_reducible apply kept_takeCmd
    | with_reducible apply kept_carrelMod | with_reducible refine kept_mk ?_ rfl rfl rfl rfl rfl rfl rfl rfl
    | dsimp only

theorem kept_execMessageTake {s0 s : State} (hk : Kept s0 s) : KeptOut s0 (execMessageTake s) :=
  keptOut_next (kept_messageTake hk)

theorem kept_deskRun {s0 : State} {op : Nat} {f : State → RunCmd → State} {s : State} {src : DeskSrc} (h_f : ∀ a0 a1,
    Kept a0 (f a0 a1)) (hk : Kept s0 s) :
    Kept s0 (deskRun op f s src) := by
  unfold deskRun
  repeat' first
    | with_reducible exact hk | with_reducible exact Kept.refl _ | intro _ | split
    | with_reducible refine Kept.trans ?_ (h_f ..) | with_reducible apply kept_quietNow
    | with_reducible apply kept_leaveSleep | with_reducible refine kept_mk ?_ rfl rfl rfl rfl rfl rfl rfl rfl

theorem kept_cmdWait {s0 s : State} {src : DeskSrc} (hk : Kept s0 s) : Kept s0 (cmdWait s src) :=
  kept_mk hk rfl rfl rfl rfl rfl rfl rfl rfl

theorem kept_runningSet {s0 s : State} {c : RunCmd} {f : RunCmd → RunCmd} (hk : Kept s0 s) :
    Kept s0 (runningSet s c f) := by
  unfold runningSet
  try dsimp only
  repeat' first
    | with_reducible exact hk | with_reducible exact Kept.refl _ | intro _ | split
    | with_reducible refine kept_mk ?_ rfl rfl rfl rfl rfl rfl rfl rfl | dsimp only

theorem kept_cmdHold {s0 s : State} {c : RunCmd} (hk : Kept s0 s) : Kept s0 (cmdHold s c) := by
  unfold cmdHold
  try dsimp only
  repeat' first
    | with_reducible exact hk | with_reducible exact Kept.refl _ | intro _ | with_reducible apply kept_runningSet
    | with_reducible refine kept_mk ?_ rfl rfl rfl rfl rfl rfl rfl rfl | dsimp only

theorem kept_completeSrc {s0 s : State} {src : DeskSrc} {rc : Nat} {vals : List Val} (hk : Kept s0 s) :
    Kept s0 (completeSrc s src rc vals) := by
  unfold completeSrc
  repeat' first
    | with_reducible exact hk | split | with_reducible apply kept_complete
    | with_reducible refine kept_mk ?_ rfl rfl rfl rfl rfl rfl rfl rfl | dsimp only

theorem kept_withBuf {s0 s : State} {c : RunCmd} {buf : HostRead} {f : State → Bytes → State} (h_f : ∀ a0 a1, Kept a0
    (f a0 a1)) (hk : Kept s0 s) :
    Kept s0 (withBuf s c buf f) := by
  unfold withBuf
  try dsimp only
  repeat' first
    | with_reducible exact hk | with_reducible exact Kept.refl _ | intro _ | split
    | with_reducible refine Kept.trans ?_ (h_f ..) | with_reducible apply kept_cmdHold
    | with_reducible apply kept_readWhole | with_reducible apply kept_chargeHostRx | with_reducible apply kept_failWith
    | with_reducible refine kept_mk ?_ rfl rfl rfl rfl rfl rfl rfl rfl | dsimp only

theorem kept_carrelsAll {s0 s : State} {f : Nat → Carrel → Carrel} (hk : Kept s0 s) : Kept s0 (carrelsAll s f) :=
  kept_mk hk rfl rfl rfl rfl rfl rfl rfl rfl

theorem kept_restartBegin {s0 s : State} (hk : Kept s0 s) : Kept s0 (restartBegin s) := by
  unfold restartBegin
  try dsimp only
  repeat' first
    | with_reducible exact hk | with_reducible exact Kept.refl _ | intro _ | with_reducible apply kept_carrelsAll
    | with_reducible refine kept_mk ?_ rfl rfl rfl rfl rfl rfl rfl rfl | dsimp only

theorem kept_forwardsLost {s0 s : State} (hk : Kept s0 s) : Kept s0 (forwardsLost s) := by
  unfold forwardsLost
  try dsimp only
  repeat' first
    | with_reducible exact hk | with_reducible exact Kept.refl _ | intro _ | split | with_reducible apply kept_msgSend
    | with_reducible apply kept_foldl | with_reducible apply kept_foldl_fst
    | with_reducible refine kept_mk ?_ rfl rfl rfl rfl rfl rfl rfl rfl | dsimp only

theorem kept_restartEnd {s0 s : State} (hk : Kept s0 s) : Kept s0 (restartEnd s) := by
  unfold restartEnd
  try dsimp only
  repeat' first
    | with_reducible exact hk | with_reducible exact Kept.refl _ | intro _ | with_reducible apply kept_forwardsLost
    | with_reducible apply kept_carrelsAll | with_reducible refine kept_mk ?_ rfl rfl rfl rfl rfl rfl rfl rfl
    | dsimp only

theorem kept_resetSender {s0 s : State} {mid : Nat} (hk : Kept s0 s) : Kept s0 (resetSender s mid) :=
  kept_mk hk rfl rfl rfl rfl rfl rfl rfl rfl

theorem kept_execI3cTargetReset {s0 : State} {target : I3cTarget} {s : State} (hk : Kept s0 s) :
    KeptOut s0 (execI3cTargetReset target s) :=
  keptOut_next (kept_mk hk rfl rfl rfl rfl rfl rfl rfl rfl)

theorem kept_lockGive {s0 s : State} {fn : Fn} {n : Nat} (hk : Kept s0 s) : Kept s0 (lockGive s fn n) := by
  unfold lockGive
  repeat' first
    | with_reducible exact hk | split | with_reducible refine kept_mk ?_ rfl rfl rfl rfl rfl rfl rfl rfl

theorem kept_lockRead {s0 s : State} {fn : Fn} {n : Nat} (hk : Kept s0 s) : Kept s0 (lockRead s fn n).1 := by
  unfold lockRead
  try dsimp only
  repeat' first
    | with_reducible exact hk | split | with_reducible apply kept_lockGive
    | with_reducible refine kept_fst ?_ (by assumption)
    | with_reducible refine kept_mk ?_ rfl rfl rfl rfl rfl rfl rfl rfl | dsimp only

theorem kept_lockRead_of {s0 s : State} {fn : Fn} {n : Nat} {r : State × Nat} (hk : Kept s0 s)
    (e : lockRead s fn n = r) : Kept s0 r.1 :=
  e ▸ kept_lockRead hk

theorem kept_execGlbLockRead {s0 : State} {fn : Fn} {n : Nat} {coversLow : Bool} {s : State} (hk : Kept s0 s) :
    KeptOut s0 (execGlbLockRead fn n coversLow s) := by
  unfold execGlbLockRead
  try dsimp only
  repeat' first
    | with_reducible apply keptOut_next | with_reducible exact hk | split | with_reducible apply kept_lockRead
    | with_reducible apply kept_emit | dsimp only

theorem kept_execGlbRelease {s0 : State} {fn : Fn} {full : Bool} {value : BitVec 64} {s : State} (hk : Kept s0 s) :
    KeptOut s0 (execGlbRelease fn full value s) := by
  unfold execGlbRelease
  try dsimp only
  repeat' first
    | with_reducible apply keptOut_next | with_reducible exact hk | split
    | with_reducible refine kept_mk ?_ rfl rfl rfl rfl rfl rfl rfl rfl | dsimp only

end Sys2Proof.Machine
end

