-- ==== Sys2Proof/Laws/KeptDeskInfo.lean ====
section
/-! SUPPORT. What the operations of DeskInfo keep. -/

namespace Sys2Proof.Machine

set_option Elab.async false
set_option linter.all false

theorem kept_internalFault {s0 s : State} {c : RunCmd} (hk : Kept s0 s) : Kept s0 (internalFault s c) :=
  kept_failWith (kept_logNow hk)

theorem kept_deviceInfoBody {s0 s : State} {c : RunCmd} (hk : Kept s0 s) : Kept s0 (deviceInfoBody s c) :=
  kept_complete hk

theorem kept_execDeviceInfo {s0 : State} {src : DeskSrc} {s : State} (hk : Kept s0 s) :
    KeptOut s0 (execDeviceInfo src s) :=
  keptOut_next (kept_deskRun (fun _ _ => kept_deviceInfoBody (.refl _)) hk)

theorem kept_measTake {s0 s : State} {i : Nat} {b : Bytes} (hk : Kept s0 s) : Kept s0 (measTake s i b) := by
  unfold measTake
  try dsimp only
  repeat' first
    | with_reducible exact hk | split | with_reducible refine kept_mk ?_ rfl rfl rfl rfl rfl rfl rfl rfl | dsimp only

theorem kept_attestReportBody {s0 s : State} {c : RunCmd} (hk : Kept s0 s) : Kept s0 (attestReportBody s c) := by
  unfold attestReportBody
  try dsimp only
  repeat' first
    | with_reducible exact hk | with_reducible exact Kept.refl _ | intro _ | split
    | with_reducible apply kept_internalFault | with_reducible apply kept_carrelMod
    | with_reducible apply kept_failWith | with_reducible apply kept_completeOut | with_reducible apply kept_complete
    | with_reducible refine kept_mk ?_ rfl rfl rfl rfl rfl rfl rfl rfl | dsimp only

theorem kept_execAttestReport {s0 : State} {src : DeskSrc} {s : State} (hk : Kept s0 s) :
    KeptOut s0 (execAttestReport src s) :=
  keptOut_next (kept_deskRun (fun _ _ => kept_attestReportBody (.refl _)) hk)

theorem kept_certChainBody {s0 s : State} {c : RunCmd} (hk : Kept s0 s) : Kept s0 (certChainBody s c) := by
  unfold certChainBody
  try dsimp only
  repeat' first
    | with_reducible exact hk | split | with_reducible apply kept_internalFault | with_reducible apply kept_failWith
    | with_reducible apply kept_complete | dsimp only

theorem kept_execCertChain {s0 : State} {src : DeskSrc} {s : State} (hk : Kept s0 s) :
    KeptOut s0 (execCertChain src s) :=
  keptOut_next (kept_deskRun (fun _ _ => kept_certChainBody (.refl _)) hk)

end Sys2Proof.Machine
end

