-- ==== Sys2Proof/Laws/KeptAccess.lean ====
section
/-! SUPPORT. What the operations of Access keep. -/

namespace Sys2Proof.Machine

set_option Elab.async false
set_option linter.all false

theorem kept_logRefused {s0 s : State} {mid addr path rc : Nat} (hk : Kept s0 s) :
    Kept s0 (logRefused s mid addr path rc) :=
  kept_logNow hk

theorem kept_failAddrs {s0 s : State} {c : RunCmd} {das : List Nat} {rc : Nat} (hk : Kept s0 s) :
    Kept s0 (failAddrs s c das rc) := by
  unfold failAddrs
  repeat' first
    | with_reducible exact hk | split | with_reducible apply kept_failWith | with_reducible apply kept_logRefused
    | with_reducible refine kept_mk ?_ rfl rfl rfl rfl rfl rfl rfl rfl

theorem kept_failAddr {s0 s : State} {c : RunCmd} {da rc : Nat} (hk : Kept s0 s) : Kept s0 (failAddr s c da rc) := by
  unfold failAddr
  repeat' first
    | with_reducible exact hk | split | with_reducible apply kept_failWith | with_reducible apply kept_logRefused

theorem kept_wcStop {s0 s : State} {t : Tensor} (hk : Kept s0 s) : Kept s0 (wcStop s t) := by
  unfold wcStop
  repeat' first
    | with_reducible exact hk | split | with_reducible apply kept_completeSrc
    | with_reducible refine kept_mk ?_ rfl rfl rfl rfl rfl rfl rfl rfl | dsimp only

theorem kept_sectorFails {s0 s : State} {sec : Nat} (hk : Kept s0 s) : Kept s0 (sectorFails s sec) := by
  unfold sectorFails
  try dsimp only
  repeat' first
    | with_reducible exact hk | exact Mem.poisonLine_wf _ _ | exact Mem.setErr_wf _ _ _
    | exact (fun hm : Mem.wf _ = true => hm) | split | with_reducible apply kept_logNow
    | with_reducible refine kept_mem ?_ ?_ | with_reducible refine kept_mk ?_ rfl rfl rfl rfl rfl rfl rfl rfl
    | dsimp only

theorem kept_sectorCheck {s0 s : State} {sec : Nat} (hk : Kept s0 s) : Kept s0 (sectorCheck s sec) := by
  unfold sectorCheck
  repeat' first
    | with_reducible exact hk | split | with_reducible apply kept_sectorFails
    | with_reducible refine kept_mk ?_ rfl rfl rfl rfl rfl rfl rfl rfl

theorem kept_tagsRead {s0 s : State} {lo hi source : Nat} (hk : Kept s0 s) : Kept s0 (tagsRead s lo hi source) := by
  unfold tagsRead
  try dsimp only
  repeat' first
    | with_reducible exact hk | with_reducible exact Kept.refl _ | intro _ | split
    | with_reducible refine kept_linesCheck_of ?_ (by assumption) | with_reducible apply kept_linesCheck
    | with_reducible apply kept_sectorFails | with_reducible apply kept_foldl
    | with_reducible refine kept_fst ?_ (by assumption) | with_reducible apply kept_foldl_fst | dsimp only

theorem kept_physRead {s0 s : State} {da n source : Nat} (hk : Kept s0 s) : Kept s0 (physRead s da n source).1 := by
  unfold physRead
  try dsimp only
  repeat' first
    | with_reducible exact hk | with_reducible exact Kept.refl _ | intro _ | split
    | with_reducible refine kept_dramRead_of ?_ (by assumption) | with_reducible apply kept_dramRead
    | with_reducible apply kept_tagsRead | with_reducible apply kept_sectorCheck | with_reducible apply kept_foldl
    | with_reducible refine kept_fst ?_ (by assumption) | with_reducible apply kept_foldl_fst | dsimp only

theorem kept_physRead_of {s0 s : State} {da n source : Nat} {r : State × Bytes × List Nat} (hk : Kept s0 s)
    (e : physRead s da n source = r) : Kept s0 r.1 :=
  e ▸ kept_physRead hk

theorem kept_sectorMerge {s0 s : State} {x line : Nat} (hk : Kept s0 s) : Kept s0 (sectorMerge s x line) := by
  unfold sectorMerge
  try dsimp only
  repeat' first
    | with_reducible exact hk | exact Mem.poisonLine_wf _ _ | exact Mem.setErr_wf _ _ _
    | exact (fun hm : Mem.wf _ = true => hm) | split | with_reducible refine kept_physRead_of ?_ (by assumption)
    | with_reducible apply kept_physRead | with_reducible apply kept_logNow
    | with_reducible refine kept_fst ?_ (by assumption) | with_reducible refine kept_mem ?_ ?_
    | with_reducible refine kept_mk ?_ rfl rfl rfl rfl rfl rfl rfl rfl | dsimp only

theorem kept_physWrite {s0 s : State} {da : Nat} {b : Bytes} (hk : Kept s0 s) : Kept s0 (physWrite s da b) := by
  unfold physWrite
  try dsimp only
  repeat' first
    | with_reducible exact hk | with_reducible exact Kept.refl _ | exact Mem.poisonLine_wf _ _
    | exact Mem.setErr_wf _ _ _ | exact (fun hm : Mem.wf _ = true => hm) | intro _ | split
    | with_reducible apply kept_sectorMerge | with_reducible apply kept_dramPut | with_reducible apply kept_foldl
    | with_reducible refine kept_mem ?_ ?_ | with_reducible refine kept_mk ?_ rfl rfl rfl rfl rfl rfl rfl rfl
    | dsimp only

theorem kept_putWay {s0 s : State} {h : Half} {k : Nat × Nat} {w : Way} (hk : Kept s0 s) : Kept s0 (putWay s h k w) :=
  kept_mk hk rfl rfl rfl rfl rfl rfl rfl rfl

theorem kept_cacheMod {s0 s : State} {h : Half} {f : Cache → Cache} (hk : Kept s0 s) : Kept s0 (cacheMod s h f) :=
  kept_mk hk rfl rfl rfl rfl rfl rfl rfl rfl

theorem kept_writeBackLine {s0 s : State} {h : Half} {k : Nat × Nat} {i : Nat} (hk : Kept s0 s) :
    Kept s0 (writeBackLine s h k i) := by
  unfold writeBackLine
  try dsimp only
  repeat' first
    | with_reducible exact hk | exact Mem.poisonLine_wf _ _ | exact Mem.setErr_wf _ _ _
    | exact (fun hm : Mem.wf _ = true => hm) | split | with_reducible apply kept_putWay
    | with_reducible apply kept_chargeWrite | with_reducible apply kept_chargeRead
    | with_reducible apply kept_physWrite | with_reducible refine kept_mem ?_ ?_
    | with_reducible refine kept_mk ?_ rfl rfl rfl rfl rfl rfl rfl rfl | dsimp only

theorem kept_writeBackWay {s0 s : State} {h : Half} {k : Nat × Nat} (hk : Kept s0 s) : Kept s0 (writeBackWay s h k) :=
  kept_foldl (fun _ _ => kept_writeBackLine (.refl _)) hk

theorem kept_dropWay {s0 s : State} {h : Half} {k : Nat × Nat} (hk : Kept s0 s) : Kept s0 (dropWay s h k) :=
  kept_mk hk rfl rfl rfl rfl rfl rfl rfl rfl

theorem kept_countStall {s0 s : State} {h : Half} (hk : Kept s0 s) : Kept s0 (countStall s h) := by
  unfold countStall
  repeat' first
    | with_reducible exact hk | with_reducible refine kept_mk ?_ rfl rfl rfl rfl rfl rfl rfl rfl

theorem kept_allocWay {s0 s : State} {h : Half} {off : Nat} {read counted : Bool} (hk : Kept s0 s) :
    Kept s0 (allocWay s h off read counted).1 := by
  unfold allocWay
  try dsimp only
  repeat' first
    | with_reducible exact hk | split | with_reducible apply kept_countStall | with_reducible apply kept_putWay
    | with_reducible refine kept_fst ?_ (by assumption)
    | with_reducible refine kept_mk ?_ rfl rfl rfl rfl rfl rfl rfl rfl | dsimp only

theorem kept_allocWay_of {s0 s : State} {h : Half} {off : Nat} {read counted : Bool} {r : State × Option (Nat × Nat)}
    (hk : Kept s0 s)
    (e : allocWay s h off read counted = r) : Kept s0 r.1 :=
  e ▸ kept_allocWay hk

theorem kept_wayNow {s0 s : State} {h : Half} {off : Nat} {read : Bool} (hk : Kept s0 s) :
    Kept s0 (wayNow s h off read).1 := by
  unfold wayNow
  try dsimp only
  repeat' first
    | with_reducible exact hk | with_reducible exact Kept.refl _ | intro _ | split
    | with_reducible refine kept_allocWay_of ?_ (by assumption) | with_reducible apply kept_allocWay
    | with_reducible apply kept_dropWay | with_reducible apply kept_writeBackWay
    | with_reducible refine kept_fst ?_ (by assumption)
    | with_reducible refine kept_mk ?_ rfl rfl rfl rfl rfl rfl rfl rfl | dsimp only

theorem kept_wayNow_of {s0 s : State} {h : Half} {off : Nat} {read : Bool} {r : State × Option (Nat × Nat)} (hk :
    Kept s0 s)
    (e : wayNow s h off read = r) : Kept s0 r.1 :=
  e ▸ kept_wayNow hk

theorem kept_fillLine {s0 s : State} {h : Half} {k : Nat × Nat} {line : Nat} (hk : Kept s0 s) :
    Kept s0 (fillLine s h k line) := by
  unfold fillLine
  try dsimp only
  repeat' first
    | with_reducible exact hk | split | with_reducible apply kept_chargeWrite | with_reducible apply kept_chargeRead
    | with_reducible refine kept_physRead_of ?_ (by assumption) | with_reducible apply kept_physRead
    | with_reducible apply kept_putWay | with_reducible refine kept_fst ?_ (by assumption)
    | with_reducible refine kept_mk ?_ rfl rfl rfl rfl rfl rfl rfl rfl | dsimp only

theorem kept_plainLine {s0 s : State} {g : PlainGran} {off : Nat} (hk : Kept s0 s) : Kept s0 (plainLine s g off).1 := by
  unfold plainLine
  try dsimp only
  repeat' first
    | with_reducible exact hk | split | with_reducible refine kept_physRead_of ?_ (by assumption)
    | with_reducible apply kept_physRead | with_reducible refine kept_fst ?_ (by assumption)
    | with_reducible refine kept_mk ?_ rfl rfl rfl rfl rfl rfl rfl rfl | dsimp only

theorem kept_plainLine_of {s0 s : State} {g : PlainGran} {off : Nat} {r : State × Bytes × Bool} (hk : Kept s0 s)
    (e : plainLine s g off = r) : Kept s0 r.1 :=
  e ▸ kept_plainLine hk

theorem kept_plainPut {s0 s : State} {g : PlainGran} {off : Nat} {b : Bytes} (hk : Kept s0 s) :
    Kept s0 (plainPut s g off b) := by
  unfold plainPut
  try dsimp only
  repeat' first
    | with_reducible exact hk | split | with_reducible apply kept_physWrite | with_reducible apply kept_chargeWrite
    | with_reducible refine kept_wayNow_of ?_ (by assumption) | with_reducible apply kept_wayNow
    | with_reducible apply kept_putWay | with_reducible refine kept_fst ?_ (by assumption)
    | with_reducible refine kept_mk ?_ rfl rfl rfl rfl rfl rfl rfl rfl | dsimp only

theorem kept_plainLoad {s0 s : State} {g : PlainGran} {off : Nat} (hk : Kept s0 s) : Kept s0 (plainLoad s g off).1 := by
  unfold plainLoad
  try dsimp only
  repeat' first
    | with_reducible exact hk | split | with_reducible refine kept_plainLine_of ?_ (by assumption)
    | with_reducible apply kept_plainLine | with_reducible apply kept_chargeRead
    | with_reducible refine kept_wayNow_of ?_ (by assumption) | with_reducible apply kept_wayNow
    | with_reducible apply kept_fillLine | with_reducible refine kept_fst ?_ (by assumption)
    | with_reducible refine kept_mk ?_ rfl rfl rfl rfl rfl rfl rfl rfl | dsimp only

theorem kept_plainLoad_of {s0 s : State} {g : PlainGran} {off : Nat} {r : State × Bytes × Bool} (hk : Kept s0 s)
    (e : plainLoad s g off = r) : Kept s0 r.1 :=
  e ▸ kept_plainLoad hk

theorem kept_plainPoison {s0 s : State} {g : PlainGran} {off : Nat} (hk : Kept s0 s) :
    Kept s0 (plainPoison s g off) := by
  unfold plainPoison
  repeat' first
    | with_reducible exact hk | exact Mem.poisonLine_wf _ _ | exact Mem.setErr_wf _ _ _
    | exact (fun hm : Mem.wf _ = true => hm) | split | with_reducible apply kept_putWay
    | with_reducible refine kept_fst ?_ (by assumption) | with_reducible refine kept_mem ?_ ?_
    | with_reducible refine kept_mk ?_ rfl rfl rfl rfl rfl rfl rfl rfl

theorem kept_binderyMod {s0 s : State} {h : Half} {f : List BinderyEntry → List BinderyEntry} (hk : Kept s0 s) :
    Kept s0 (binderyMod s h f) :=
  kept_mk hk rfl rfl rfl rfl rfl rfl rfl rfl

theorem kept_entryDrop {s0 s : State} {h : Half} {line : Nat} (hk : Kept s0 s) : Kept s0 (entryDrop s h line) :=
  kept_mk hk rfl rfl rfl rfl rfl rfl rfl rfl

theorem kept_lineStore {s0 s : State} {line : Nat} {b : Bytes} (hk : Kept s0 s) : Kept s0 (lineStore s line b) := by
  unfold lineStore
  repeat' first
    | with_reducible exact hk | split | with_reducible apply kept_plainPut | with_reducible apply kept_physWrite
    | with_reducible refine kept_mk ?_ rfl rfl rfl rfl rfl rfl rfl rfl

theorem kept_lineLoad {s0 s : State} {line : Nat} (hk : Kept s0 s) : Kept s0 (lineLoad s line).1 := by
  unfold lineLoad
  try dsimp only
  repeat' first
    | with_reducible exact hk | split | with_reducible refine kept_plainLoad_of ?_ (by assumption)
    | with_reducible apply kept_plainLoad | with_reducible refine kept_physRead_of ?_ (by assumption)
    | with_reducible apply kept_physRead | with_reducible refine kept_fst ?_ (by assumption)
    | with_reducible refine kept_mk ?_ rfl rfl rfl rfl rfl rfl rfl rfl | dsimp only

theorem kept_lineLoad_of {s0 s : State} {line : Nat} {r : State × Bytes × Bool} (hk : Kept s0 s)
    (e : lineLoad s line = r) : Kept s0 r.1 :=
  e ▸ kept_lineLoad hk

theorem kept_linePoison {s0 s : State} {line : Nat} (hk : Kept s0 s) : Kept s0 (linePoison s line) := by
  unfold linePoison
  repeat' first
    | with_reducible exact hk | exact Mem.poisonLine_wf _ _ | exact Mem.setErr_wf _ _ _
    | exact (fun hm : Mem.wf _ = true => hm) | split | with_reducible apply kept_plainPoison
    | with_reducible refine kept_mem ?_ ?_ | with_reducible refine kept_mk ?_ rfl rfl rfl rfl rfl rfl rfl rfl

theorem kept_retireEntry {s0 s : State} {h : Half} {e : BinderyEntry} (hk : Kept s0 s) :
    Kept s0 (retireEntry s h e) := by
  unfold retireEntry
  try dsimp only
  repeat' first
    | with_reducible exact hk | split | with_reducible apply kept_entryDrop | with_reducible apply kept_lineStore
    | with_reducible refine kept_lineLoad_of ?_ (by assumption) | with_reducible apply kept_lineLoad
    | with_reducible apply kept_linePoison | with_reducible apply kept_logNow
    | with_reducible refine kept_fst ?_ (by assumption) | dsimp only

theorem kept_retireWhere {s0 s : State} {h : Half} {p : BinderyEntry → Bool} (hk : Kept s0 s) :
    Kept s0 (retireWhere s h p) :=
  kept_foldl (fun _ _ => kept_retireEntry (.refl _)) hk

theorem kept_retireAll {s0 s : State} (hk : Kept s0 s) : Kept s0 (retireAll s) := by
  unfold retireAll
  try dsimp only
  repeat' first
    | with_reducible exact hk | with_reducible exact Kept.refl _ | intro _ | with_reducible apply kept_retireWhere
    | dsimp only

theorem kept_binderyWrite {s0 s : State} {mid line off : Nat} {b : Bytes} (hk : Kept s0 s) :
    Kept s0 (binderyWrite s mid line off b) := by
  unfold binderyWrite
  try dsimp only
  repeat' first
    | with_reducible exact hk | with_reducible exact Kept.refl _ | intro _ | split
    | with_reducible apply kept_binderyMod | with_reducible apply kept_retireEntry
    | with_reducible refine kept_mk ?_ rfl rfl rfl rfl rfl rfl rfl rfl | dsimp only

theorem kept_fullWrite {s0 s : State} {line : Nat} {b : Bytes} (hk : Kept s0 s) : Kept s0 (fullWrite s line b) :=
  kept_lineStore (kept_entryDrop hk)

theorem kept_entriesDrop {s0 s : State} {h : Half} {lo hi : Nat} (hk : Kept s0 s) : Kept s0 (entriesDrop s h lo hi) :=
  kept_mk hk rfl rfl rfl rfl rfl rfl rfl rfl

theorem kept_rtWrite {s0 s : State} {mid da : Nat} {b : Bytes} (hk : Kept s0 s) : Kept s0 (rtWrite s mid da b) := by
  unfold rtWrite
  try dsimp only
  repeat' first
    | with_reducible exact hk | split | with_reducible apply kept_binderyWrite | with_reducible apply kept_physWrite
    | with_reducible apply kept_entriesDrop | dsimp only

theorem kept_rtRead {s0 s : State} {da n source : Nat} (hk : Kept s0 s) : Kept s0 (rtRead s da n source).1 := by
  rw [rtRead]
  repeat' first
    | with_reducible exact hk | with_reducible exact Kept.refl _ | intro _ | split
    | with_reducible refine kept_physRead_of ?_ (by assumption) | with_reducible apply kept_physRead
    | with_reducible apply kept_foldl | with_reducible refine kept_fst ?_ (by assumption)
    | with_reducible apply kept_foldl_fst | dsimp only

theorem kept_rtRead_of {s0 s : State} {da n source : Nat} {r : State × Bytes × List Nat} (hk : Kept s0 s)
    (e : rtRead s da n source = r) : Kept s0 r.1 :=
  e ▸ kept_rtRead hk

theorem kept_poolRefused {s0 s : State} {num : Nat} {h : Handle} {rc : Nat} (hk : Kept s0 s) :
    Kept s0 (poolRefused s num h rc) := by
  unfold poolRefused
  try dsimp only
  repeat' first
    | with_reducible exact hk | split | with_reducible apply kept_bump | with_reducible apply kept_logNow
    | with_reducible refine kept_mk ?_ rfl rfl rfl rfl rfl rfl rfl rfl | dsimp only

theorem kept_grantMod {s0 s : State} {g : Nat} {f : Grant → Grant} (hk : Kept s0 s) : Kept s0 (grantMod s g f) :=
  kept_mk hk rfl rfl rfl rfl rfl rfl rfl rfl

theorem kept_trayUnanswered {s0 s : State} {g : Nat} (hk : Kept s0 s) : Kept s0 (trayUnanswered s g) := by
  unfold trayUnanswered
  try dsimp only
  repeat' first
    | with_reducible exact hk | with_reducible exact Kept.refl _ | intro _ | split | with_reducible apply kept_grantMod
    | with_reducible apply kept_logNow | with_reducible refine kept_mk ?_ rfl rfl rfl rfl rfl rfl rfl rfl | dsimp only

theorem kept_grantRefused {s0 s : State} {n : Nat} {g : Grant} (hk : Kept s0 s) : Kept s0 (grantRefused s n g) := by
  unfold grantRefused
  try dsimp only
  repeat' first
    | with_reducible exact hk | with_reducible exact Kept.refl _ | intro _ | split | with_reducible apply kept_grantMod
    | with_reducible apply kept_logNow | with_reducible refine kept_mk ?_ rfl rfl rfl rfl rfl rfl rfl rfl | dsimp only

theorem kept_trayHeard {s0 s : State} {g : Nat} {remote : RemoteRead} (hk : Kept s0 s) :
    Kept s0 (trayHeard s g remote) := by
  unfold trayHeard
  try dsimp only
  repeat' first
    | with_reducible exact hk | with_reducible exact Kept.refl _ | intro _ | split
    | with_reducible apply kept_trayUnanswered | with_reducible apply kept_grantMod
    | with_reducible refine kept_mk ?_ rfl rfl rfl rfl rfl rfl rfl rfl | dsimp only

theorem kept_farBytes {s0 s : State} {n : Nat} (hk : Kept s0 s) : Kept s0 (farBytes s n).1 :=
  kept_mk hk rfl rfl rfl rfl rfl rfl rfl rfl

theorem kept_farBytes_of {s0 s : State} {n : Nat} {r : State × Bytes} (hk : Kept s0 s)
    (e : farBytes s n = r) : Kept s0 r.1 :=
  e ▸ kept_farBytes hk

theorem kept_farSectorBad {s0 s : State} {g : Grant} {sec : Nat} (hk : Kept s0 s) : Kept s0 (farSectorBad s g sec) := by
  unfold farSectorBad
  repeat' first
    | with_reducible exact hk | exact Mem.poisonLine_wf _ _ | exact Mem.setErr_wf _ _ _
    | exact (fun hm : Mem.wf _ = true => hm) | split | with_reducible apply kept_logNow
    | with_reducible refine kept_mem ?_ ?_ | with_reducible refine kept_mk ?_ rfl rfl rfl rfl rfl rfl rfl rfl

theorem kept_readTray {s0 s : State} {num : Nat} {g : Grant} {da n : Nat} {remote : RemoteRead} (hk : Kept s0 s) :
    Kept s0 (readTray s num g da n remote).1 := by
  unfold readTray
  try dsimp only
  repeat' first
    | with_reducible exact hk | with_reducible exact Kept.refl _ | intro _ | split
    | with_reducible apply kept_trayHeard | with_reducible apply kept_emit | with_reducible apply kept_farSectorBad
    | with_reducible apply kept_foldl | with_reducible refine kept_fst ?_ (by assumption)
    | with_reducible apply kept_foldl_fst | with_reducible refine kept_mk ?_ rfl rfl rfl rfl rfl rfl rfl rfl
    | dsimp only

theorem kept_readTray_of {s0 s : State} {num : Nat} {g : Grant} {da n : Nat} {remote : RemoteRead}
    {r : State × Bytes × Bool} (hk : Kept s0 s)
    (e : readTray s num g da n remote = r) : Kept s0 r.1 :=
  e ▸ kept_readTray hk

theorem kept_writeTray {s0 s : State} {g : Grant} {da : Nat} {b : Bytes} (hk : Kept s0 s) :
    Kept s0 (writeTray s g da b) := by
  unfold writeTray
  try dsimp only
  repeat' first
    | with_reducible exact hk | with_reducible exact Kept.refl _ | exact Mem.poisonLine_wf _ _
    | exact Mem.setErr_wf _ _ _ | exact (fun hm : Mem.wf _ = true => hm) | intro _ | split
    | with_reducible refine kept_farBytes_of ?_ (by assumption) | with_reducible apply kept_farBytes
    | with_reducible apply kept_emit | with_reducible apply kept_foldl
    | with_reducible refine kept_fst ?_ (by assumption) | with_reducible apply kept_foldl_fst
    | with_reducible refine kept_mem ?_ ?_ | with_reducible refine kept_mk ?_ rfl rfl rfl rfl rfl rfl rfl rfl
    | dsimp only

theorem kept_chargeTray {s0 s : State} {g : Grant} {cls n : Nat} (hk : Kept s0 s) : Kept s0 (chargeTray s g cls n) := by
  unfold chargeTray
  repeat' first
    | with_reducible exact hk | split | with_reducible apply kept_charge
    | with_reducible refine kept_mk ?_ rfl rfl rfl rfl rfl rfl rfl rfl

theorem kept_readFar {s0 s : State} {mid da n : Nat} {wait : Bool} {remote : RemoteRead} (hk : Kept s0 s) :
    Kept s0 (readFar s mid da n wait remote).1 := by
  unfold readFar
  try dsimp only
  repeat' first
    | with_reducible exact hk | split | with_reducible apply kept_poolRead | with_reducible apply kept_emit
    | with_reducible refine kept_readTray_of ?_ (by assumption) | with_reducible apply kept_readTray
    | with_reducible refine kept_fst ?_ (by assumption)
    | with_reducible refine kept_mk ?_ rfl rfl rfl rfl rfl rfl rfl rfl | dsimp only

theorem kept_readFar_of {s0 s : State} {mid da n : Nat} {wait : Bool} {remote : RemoteRead}
    {r : State × Bytes × Bool} (hk : Kept s0 s)
    (e : readFar s mid da n wait remote = r) : Kept s0 r.1 :=
  e ▸ kept_readFar hk

theorem kept_readAny {s0 s : State} {mid da n : Nat} {remote : RemoteRead} (hk : Kept s0 s) :
    Kept s0 (readAny s mid da n remote).1 := by
  unfold readAny
  try dsimp only
  repeat' first
    | with_reducible exact hk | with_reducible exact Kept.refl _ | intro _ | split
    | with_reducible refine kept_rtRead_of ?_ (by assumption) | with_reducible apply kept_rtRead
    | with_reducible refine kept_readFar_of ?_ (by assumption) | with_reducible apply kept_readFar
    | with_reducible refine kept_fst ?_ (by assumption) | dsimp only

theorem kept_readAny_of {s0 s : State} {mid da n : Nat} {remote : RemoteRead} {r : State × Bytes × List Nat} (hk :
    Kept s0 s)
    (e : readAny s mid da n remote = r) : Kept s0 r.1 :=
  e ▸ kept_readAny hk

theorem kept_writeFar {s0 s : State} {cls mid da : Nat} {b : Bytes} (hk : Kept s0 s) :
    Kept s0 (writeFar s cls mid da b) := by
  unfold writeFar
  try dsimp only
  repeat' first
    | with_reducible exact hk | split | with_reducible apply kept_poolRefused | with_reducible apply kept_poolWrite
    | with_reducible apply kept_emit | with_reducible apply kept_grantRefused | with_reducible apply kept_writeTray
    | with_reducible apply kept_chargeTray | with_reducible refine kept_fst ?_ (by assumption)
    | with_reducible refine kept_mk ?_ rfl rfl rfl rfl rfl rfl rfl rfl | dsimp only

theorem kept_writeAny {s0 s : State} {cls mid da : Nat} {b : Bytes} (hk : Kept s0 s) :
    Kept s0 (writeAny s cls mid da b) := by
  unfold writeAny
  repeat' first
    | with_reducible exact hk | split | with_reducible apply kept_rtWrite | with_reducible apply kept_writeFar

theorem kept_zeroAny {s0 s : State} {cls mid da n : Nat} (hk : Kept s0 s) : Kept s0 (zeroAny s cls mid da n) := by
  unfold zeroAny
  repeat' first
    | with_reducible exact hk | split | with_reducible apply kept_dramZero | with_reducible apply kept_entriesDrop
    | with_reducible apply kept_writeFar

theorem kept_startZeroing {s0 s : State} {base n : Nat} (hk : Kept s0 s) : Kept s0 (startZeroing s base n) := by
  unfold startZeroing
  try dsimp only
  repeat' first
    | with_reducible exact hk | with_reducible exact Kept.refl _ | intro _ | with_reducible apply kept_dramZero
    | with_reducible apply kept_entriesDrop | with_reducible refine kept_mk ?_ rfl rfl rfl rfl rfl rfl rfl rfl
    | dsimp only

end Sys2Proof.Machine
end

