-- ==== Sys2Proof/Laws/KeptDeskRegion.lean ====
section
/-! SUPPORT. What the operations of DeskRegion keep. -/

namespace Sys2Proof.Machine

set_option Elab.async false
set_option linter.all false

theorem kept_takeRegion {s0 s : State} {r : Region} (hk : Kept s0 s) : Kept s0 (takeRegion s r) := by
  unfold takeRegion
  repeat' first
    | with_reducible exact hk | with_reducible apply kept_chargeZero | with_reducible apply kept_dramZero
    | with_reducible refine kept_mk ?_ rfl rfl rfl rfl rfl rfl rfl rfl

theorem kept_regionAllocBody {s0 s : State} {c : RunCmd} (hk : Kept s0 s) : Kept s0 (regionAllocBody s c) := by
  rw [regionAllocBody]
  repeat' first
    | with_reducible exact hk | split | with_reducible apply kept_failWith | with_reducible apply kept_complete
    | with_reducible apply kept_takeRegion | with_reducible refine kept_mk ?_ rfl rfl rfl rfl rfl rfl rfl rfl
    | dsimp only

theorem kept_execRegionAlloc {s0 : State} {src : DeskSrc} {s : State} (hk : Kept s0 s) :
    KeptOut s0 (execRegionAlloc src s) :=
  keptOut_next (kept_deskRun (fun _ _ => kept_regionAllocBody (.refl _)) hk)

theorem kept_dropRegion {s0 s : State} {r : Region} (hk : Kept s0 s) : Kept s0 (dropRegion s r) :=
  kept_startZeroing (kept_mk hk rfl rfl rfl rfl rfl rfl rfl rfl)

theorem kept_regionFreeBody {s0 s : State} {c : RunCmd} (hk : Kept s0 s) : Kept s0 (regionFreeBody s c) := by
  unfold regionFreeBody
  try dsimp only
  repeat' first
    | with_reducible exact hk | with_reducible exact Kept.refl _ | intro _ | split | with_reducible apply kept_failAddr
    | with_reducible apply kept_failWith | with_reducible apply kept_complete | with_reducible apply kept_dropRegion
    | with_reducible refine kept_mk ?_ rfl rfl rfl rfl rfl rfl rfl rfl | dsimp only

theorem kept_execRegionFree {s0 : State} {src : DeskSrc} {s : State} (hk : Kept s0 s) :
    KeptOut s0 (execRegionFree src s) :=
  keptOut_next (kept_deskRun (fun _ _ => kept_regionFreeBody (.refl _)) hk)

theorem kept_tensorMod {s0 s : State} {id : Nat} {f : Tensor → Tensor} (hk : Kept s0 s) : Kept s0 (tensorMod s id f) :=
  kept_mk hk rfl rfl rfl rfl rfl rfl rfl rfl

theorem kept_wcTables {s0 s : State} {remote : RemoteRead} {t : Tensor} {w : WorkCopy} {cls : Nat} {h : Half} (hk :
    Kept s0 s) :
    Kept s0 (wcTables s remote t w cls h) := by
  unfold wcTables
  try dsimp only
  repeat' first
    | with_reducible exact hk | split | with_reducible refine kept_readAny_of ?_ (by assumption)
    | with_reducible apply kept_readAny | with_reducible apply kept_chargeRead | with_reducible apply kept_rtWrite
    | with_reducible apply kept_chargeWrite | with_reducible refine kept_fst ?_ (by assumption) | dsimp only

theorem kept_wcEnd {s0 s : State} {t : Tensor} (hk : Kept s0 s) : Kept s0 (wcEnd s t) := by
  unfold wcEnd
  try dsimp only
  repeat' first
    | with_reducible exact hk | with_reducible exact Kept.refl _ | intro _ | with_reducible apply kept_wcStop
    | with_reducible apply kept_tensorMod | with_reducible refine kept_mk ?_ rfl rfl rfl rfl rfl rfl rfl rfl
    | dsimp only

theorem kept_wcDropBody {s0 s : State} {c : RunCmd} {t : Tensor} (hk : Kept s0 s) : Kept s0 (wcDropBody s c t) := by
  unfold wcDropBody
  try dsimp only
  repeat' first
    | with_reducible exact hk | with_reducible exact Kept.refl _ | intro _ | split | with_reducible apply kept_wcEnd
    | with_reducible apply kept_runningSet | with_reducible apply kept_complete
    | with_reducible refine kept_mk ?_ rfl rfl rfl rfl rfl rfl rfl rfl | dsimp only

theorem kept_workingCopyBody {s0 : State} {remote : RemoteRead} {s : State} {c : RunCmd} (hk : Kept s0 s) :
    Kept s0 (workingCopyBody remote s c) := by
  unfold workingCopyBody
  try dsimp only
  repeat' first
    | with_reducible exact hk | with_reducible exact Kept.refl _ | intro _ | split | with_reducible apply kept_complete
    | with_reducible apply kept_failWith | with_reducible apply kept_wcDropBody | with_reducible apply kept_failAddrs
    | with_reducible apply kept_wcTables | with_reducible apply kept_tensorMod | with_reducible apply kept_cmdWait
    | with_reducible refine kept_mk ?_ rfl rfl rfl rfl rfl rfl rfl rfl | dsimp only

theorem kept_execWorkingCopy {s0 : State} {src : DeskSrc} {remote : RemoteRead} {s : State} (hk : Kept s0 s) :
    KeptOut s0 (execWorkingCopy src remote s) :=
  keptOut_next (kept_deskRun (fun _ _ => kept_workingCopyBody (.refl _)) hk)

theorem kept_kvMod {s0 s : State} {idx : Nat} {f : KvObj → KvObj} (hk : Kept s0 s) : Kept s0 (kvMod s idx f) :=
  kept_mk hk rfl rfl rfl rfl rfl rfl rfl rfl

theorem kept_kvPageSet {s0 s : State} {idx head run i : Nat} {f : PageEntry → PageEntry} (hk : Kept s0 s) :
    Kept s0 (kvPageSet s idx head run i f) := by
  unfold kvPageSet
  try dsimp only
  repeat' first
    | with_reducible exact hk | with_reducible exact Kept.refl _ | intro _ | split | with_reducible apply kept_dramPut
    | with_reducible apply kept_kvMod | with_reducible refine kept_fst ?_ (by assumption)
    | with_reducible refine kept_mk ?_ rfl rfl rfl rfl rfl rfl rfl rfl | dsimp only

theorem kept_kvCreateBody {s0 s : State} {c : RunCmd} (hk : Kept s0 s) : Kept s0 (kvCreateBody s c) := by
  unfold kvCreateBody
  try dsimp only
  repeat' first
    | with_reducible exact hk | with_reducible exact Kept.refl _ | intro _ | split | with_reducible apply kept_failWith
    | with_reducible apply kept_dramPut | with_reducible apply kept_chargeZero | with_reducible apply kept_dramZero
    | with_reducible apply kept_complete | with_reducible refine kept_mk ?_ rfl rfl rfl rfl rfl rfl rfl rfl
    | dsimp only

theorem kept_execKvCreate {s0 : State} {src : DeskSrc} {s : State} (hk : Kept s0 s) : KeptOut s0 (execKvCreate src s) :=
  keptOut_next (kept_deskRun (fun _ _ => kept_kvCreateBody (.refl _)) hk)

theorem kept_setPages {s0 s : State} {idx : Nat} {sets : List ((Nat × Nat × Nat) × Nat)} (hk : Kept s0 s) :
    Kept s0 (setPages s idx sets) := by
  unfold setPages
  try dsimp only
  repeat' first
    | with_reducible exact hk | with_reducible exact Kept.refl _ | intro _ | with_reducible apply kept_kvPageSet
    | with_reducible apply kept_foldl | with_reducible refine kept_mk ?_ rfl rfl rfl rfl rfl rfl rfl rfl | dsimp only

theorem kept_clearPages {s0 s : State} {idx : Nat} {keys : List (Nat × Nat × Nat)} (hk : Kept s0 s) :
    Kept s0 (clearPages s idx keys) := by
  unfold clearPages
  try dsimp only
  repeat' first
    | with_reducible exact hk | with_reducible exact Kept.refl _ | intro _ | with_reducible apply kept_kvPageSet
    | with_reducible apply kept_foldl | dsimp only

theorem kept_kvPagesBody {s0 s : State} {c : RunCmd} (hk : Kept s0 s) : Kept s0 (kvPagesBody s c) := by
  unfold kvPagesBody
  try dsimp only
  repeat' first
    | with_reducible exact hk | with_reducible exact Kept.refl _ | intro _ | split | with_reducible apply kept_failWith
    | with_reducible apply kept_failAddrs | with_reducible apply kept_complete | with_reducible apply kept_setPages
    | with_reducible apply kept_clearPages | with_reducible refine kept_fst ?_ (by assumption)
    | with_reducible refine kept_mk ?_ rfl rfl rfl rfl rfl rfl rfl rfl | dsimp only

theorem kept_execKvPages {s0 : State} {src : DeskSrc} {s : State} (hk : Kept s0 s) : KeptOut s0 (execKvPages src s) :=
  keptOut_next (kept_deskRun (fun _ _ => kept_kvPagesBody (.refl _)) hk)

theorem kept_kvMoveBody {s0 : State} {remote : RemoteRead} {s : State} {c : RunCmd} (hk : Kept s0 s) :
    Kept s0 (kvMoveBody remote s c) := by
  unfold kvMoveBody
  try dsimp only
  repeat' first
    | with_reducible exact hk | with_reducible exact Kept.refl _ | intro _ | split | with_reducible apply kept_failWith
    | with_reducible apply kept_complete | with_reducible apply kept_failAddrs
    | with_reducible refine kept_readAny_of ?_ (by assumption) | with_reducible apply kept_readAny
    | with_reducible apply kept_writeAny | with_reducible apply kept_chargeRead | with_reducible apply kept_linePoison
    | with_reducible apply kept_setPages | with_reducible apply kept_chargeWrite | with_reducible apply kept_runningSet
    | with_reducible apply kept_foldl | with_reducible refine kept_fst ?_ (by assumption)
    | with_reducible apply kept_foldl_fst | with_reducible refine kept_mk ?_ rfl rfl rfl rfl rfl rfl rfl rfl
    | dsimp only

theorem kept_execKvMove {s0 : State} {src : DeskSrc} {remote : RemoteRead} {s : State} (hk : Kept s0 s) :
    KeptOut s0 (execKvMove src remote s) :=
  keptOut_next (kept_deskRun (fun _ _ => kept_kvMoveBody (.refl _)) hk)

theorem kept_dropKv {s0 s : State} {k : KvObj} (hk : Kept s0 s) : Kept s0 (dropKv s k) :=
  kept_startZeroing (kept_mk hk rfl rfl rfl rfl rfl rfl rfl rfl)

theorem kept_kvFreeBody {s0 s : State} {c : RunCmd} (hk : Kept s0 s) : Kept s0 (kvFreeBody s c) := by
  unfold kvFreeBody
  repeat' first
    | with_reducible exact hk | split | with_reducible apply kept_failWith | with_reducible apply kept_complete
    | with_reducible apply kept_dropKv | with_reducible refine kept_mk ?_ rfl rfl rfl rfl rfl rfl rfl rfl | dsimp only

theorem kept_execKvFree {s0 : State} {src : DeskSrc} {s : State} (hk : Kept s0 s) : KeptOut s0 (execKvFree src s) :=
  keptOut_next (kept_deskRun (fun _ _ => kept_kvFreeBody (.refl _)) hk)

theorem kept_kvGuardsBody {s0 s : State} {c : RunCmd} (hk : Kept s0 s) : Kept s0 (kvGuardsBody s c) := by
  unfold kvGuardsBody
  try dsimp only
  repeat' first
    | with_reducible exact hk | with_reducible exact Kept.refl _ | intro _ | split | with_reducible apply kept_failWith
    | with_reducible apply kept_completeOut | with_reducible apply kept_kvMod
    | with_reducible refine kept_mk ?_ rfl rfl rfl rfl rfl rfl rfl rfl | dsimp only

theorem kept_execKvGuards {s0 : State} {src : DeskSrc} {s : State} (hk : Kept s0 s) : KeptOut s0 (execKvGuards src s) :=
  keptOut_next (kept_deskRun (fun _ _ => kept_kvGuardsBody (.refl _)) hk)

theorem kept_flushGranules {s0 s : State} {first count : Nat} (hk : Kept s0 s) :
    Kept s0 (flushGranules s first count) := by
  unfold flushGranules
  try dsimp only
  repeat' first
    | with_reducible exact hk | with_reducible exact Kept.refl _ | intro _ | with_reducible apply kept_retireWhere
    | with_reducible apply kept_writeBackWay | with_reducible apply kept_foldl | dsimp only

theorem kept_dropGranules {s0 s : State} {first count : Nat} (hk : Kept s0 s) :
    Kept s0 (dropGranules s first count) := by
  unfold dropGranules
  try dsimp only
  repeat' first
    | with_reducible exact hk | with_reducible exact Kept.refl _ | intro _ | with_reducible apply kept_flushGranules
    | with_reducible apply kept_dropWay | with_reducible apply kept_foldl | dsimp only

theorem kept_emptyCache {s0 s : State} {h : Half} (hk : Kept s0 s) : Kept s0 (emptyCache s h) :=
  kept_foldl (fun _ _ => kept_dropWay (kept_writeBackWay (.refl _))) hk

theorem kept_postDcEvent {s0 s : State} {g : Nat} {add : Bool} (hk : Kept s0 s) : Kept s0 (postDcEvent s g add) :=
  kept_emit (kept_mk hk rfl rfl rfl rfl rfl rfl rfl rfl)

theorem kept_granuleGone {s0 s : State} {g : Nat} {p : PlainGran} (hk : Kept s0 s) : Kept s0 (granuleGone s g p) :=
  kept_startZeroing (kept_mk hk rfl rfl rfl rfl rfl rfl rfl rfl)

theorem kept_granuleLeave {s0 s : State} {c : RunCmd} {g : Nat} {p : PlainGran} (hk : Kept s0 s) :
    Kept s0 (granuleLeave s c g p) := by
  unfold granuleLeave
  try dsimp only
  repeat' first
    | with_reducible exact hk | with_reducible exact Kept.refl _ | intro _ | split | with_reducible apply kept_complete
    | with_reducible apply kept_granuleGone | with_reducible apply kept_dropGranules | dsimp only

theorem kept_plainGranuleBody {s0 s : State} {c : RunCmd} (hk : Kept s0 s) : Kept s0 (plainGranuleBody s c) := by
  unfold plainGranuleBody
  try dsimp only
  repeat' first
    | with_reducible exact hk | with_reducible exact Kept.refl _ | intro _ | split | with_reducible apply kept_failWith
    | with_reducible apply kept_chargeZero | with_reducible apply kept_dramZero | with_reducible apply kept_cmdWait
    | with_reducible apply kept_postDcEvent | with_reducible apply kept_granuleLeave
    | with_reducible refine kept_mk ?_ rfl rfl rfl rfl rfl rfl rfl rfl | dsimp only

theorem kept_execPlainGranule {s0 : State} {src : DeskSrc} {s : State} (hk : Kept s0 s) :
    KeptOut s0 (execPlainGranule src s) :=
  keptOut_next (kept_deskRun (fun _ _ => kept_plainGranuleBody (.refl _)) hk)

theorem kept_plainFlushBody {s0 s : State} {c : RunCmd} (hk : Kept s0 s) : Kept s0 (plainFlushBody s c) := by
  unfold plainFlushBody
  try dsimp only
  repeat' first
    | with_reducible exact hk | with_reducible exact Kept.refl _ | intro _ | split | with_reducible apply kept_failWith
    | with_reducible apply kept_complete | with_reducible apply kept_flushGranules
    | with_reducible refine kept_mk ?_ rfl rfl rfl rfl rfl rfl rfl rfl | dsimp only

theorem kept_execPlainFlush {s0 : State} {src : DeskSrc} {s : State} (hk : Kept s0 s) :
    KeptOut s0 (execPlainFlush src s) :=
  keptOut_next (kept_deskRun (fun _ _ => kept_plainFlushBody (.refl _)) hk)

theorem kept_execGranuleZeroingEnd {s0 : State} {addr : Nat} {s : State} (hk : Kept s0 s) :
    KeptOut s0 (execGranuleZeroingEnd addr s) := by
  unfold execGranuleZeroingEnd
  try dsimp only
  repeat' first
    | with_reducible apply keptOut_next | with_reducible exact hk | with_reducible exact Kept.refl _ | intro _ | split
    | with_reducible apply kept_chargeZero | with_reducible refine kept_mk ?_ rfl rfl rfl rfl rfl rfl rfl rfl
    | dsimp only

end Sys2Proof.Machine
end

