-- ==== Sys2Proof/Laws/KeptFlags.lean ====
section
/-! SUPPORT. What the operations of Flags keep. -/

namespace Sys2Proof.Machine

set_option Elab.async false
set_option linter.all false

theorem kept_tensorEvents {s0 s : State} {id : Nat} {e : Events} (hk : Kept s0 s) : Kept s0 (tensorEvents s id e) :=
  kept_mk hk rfl rfl rfl rfl rfl rfl rfl rfl

theorem kept_kvEvents {s0 s : State} {idx : Nat} {e : Events} (hk : Kept s0 s) : Kept s0 (kvEvents s idx e) :=
  kept_mk hk rfl rfl rfl rfl rfl rfl rfl rfl

theorem kept_ctxMod {s0 s : State} {n : Nat} {f : Ctx → Ctx} (hk : Kept s0 s) : Kept s0 (ctxMod s n f) :=
  kept_mk hk rfl rfl rfl rfl rfl rfl rfl rfl

theorem kept_satAdd {s0 s : State} {ctx tensor limit n : Nat} (hk : Kept s0 s) :
    Kept s0 (satAdd s ctx tensor limit n) := by
  unfold satAdd
  try dsimp only
  repeat' first
    | with_reducible exact hk | with_reducible exact Kept.refl _ | intro _ | split | with_reducible apply kept_ctxMod
    | with_reducible apply kept_logNow | with_reducible refine kept_mk ?_ rfl rfl rfl rfl rfl rfl rfl rfl | dsimp only

theorem kept_muMod {s0 s : State} {n : Nat} {f : Mu → Mu} (hk : Kept s0 s) : Kept s0 (muMod s n f) :=
  kept_mk hk rfl rfl rfl rfl rfl rfl rfl rfl

theorem kept_vuMod {s0 s : State} {n : Nat} {f : Vu → Vu} (hk : Kept s0 s) : Kept s0 (vuMod s n f) :=
  kept_mk hk rfl rfl rfl rfl rfl rfl rfl rfl

theorem kept_sramUnitOut {s0 s : State} {array index : Nat} (hk : Kept s0 s) : Kept s0 (sramUnitOut s array index) := by
  unfold sramUnitOut
  try dsimp only
  repeat' first
    | with_reducible exact hk | with_reducible exact Kept.refl _ | intro _ | split | with_reducible apply kept_muMod
    | with_reducible apply kept_vuMod | with_reducible refine kept_mk ?_ rfl rfl rfl rfl rfl rfl rfl rfl | dsimp only

theorem kept_lastingWord {s0 s : State} {array index word : Nat} {r : ErrRec} (hk : Kept s0 s) :
    Kept s0 (lastingWord s array index word r) := by
  unfold lastingWord
  try dsimp only
  repeat' first
    | with_reducible exact hk | split | with_reducible apply kept_logNow | with_reducible apply kept_sramUnitOut
    | with_reducible refine kept_mk ?_ rfl rfl rfl rfl rfl rfl rfl rfl | dsimp only

theorem kept_countWord {s0 s : State} {array index word : Nat} {r : ErrRec} (hk : Kept s0 s) :
    Kept s0 (countWord s array index word r) := by
  unfold countWord
  try dsimp only
  repeat' first
    | with_reducible exact hk | split | with_reducible apply kept_lastingWord
    | with_reducible refine kept_fst ?_ (by assumption)
    | with_reducible refine kept_mk ?_ rfl rfl rfl rfl rfl rfl rfl rfl | dsimp only

theorem kept_sramEvent {s0 s : State} {array index word : Nat} {corrected : Bool} {syndrome bit source : Nat} (hk :
    Kept s0 s) :
    Kept s0 (sramEvent s array index word corrected syndrome bit source) := by
  unfold sramEvent
  try dsimp only
  repeat' first
    | with_reducible exact hk | split | with_reducible apply kept_logRec | with_reducible apply kept_countWord
    | with_reducible refine kept_mk ?_ rfl rfl rfl rfl rfl rfl rfl rfl | dsimp only

theorem kept_probesEnd {s0 s : State} {id : Nat} (hk : Kept s0 s) : Kept s0 (probesEnd s id) := by
  unfold probesEnd
  try dsimp only
  repeat' first
    | with_reducible exact hk | with_reducible exact Kept.refl _ | intro _ | split
    | with_reducible refine kept_mk ?_ rfl rfl rfl rfl rfl rfl rfl rfl | dsimp only

theorem kept_edgeFresh {s0 s : State} {id : Nat} (hk : Kept s0 s) : Kept s0 (edgeFresh s id) := by
  unfold edgeFresh
  try dsimp only
  repeat' first
    | with_reducible exact hk | with_reducible exact Kept.refl _ | intro _
    | with_reducible refine kept_mk ?_ rfl rfl rfl rfl rfl rfl rfl rfl | dsimp only

theorem kept_dropKept {s0 s : State} {id : Nat} (hk : Kept s0 s) : Kept s0 (dropKept s id) :=
  kept_mk hk rfl rfl rfl rfl rfl rfl rfl rfl

theorem kept_damageTensor {s0 s : State} {id : Nat} (hk : Kept s0 s) : Kept s0 (damageTensor s id) :=
  kept_dropKept (kept_tensorMod hk)

theorem kept_closeInvest {s0 s : State} {id outcome : Nat} (hk : Kept s0 s) : Kept s0 (closeInvest s id outcome) := by
  unfold closeInvest
  try dsimp only
  repeat' first
    | with_reducible exact hk | with_reducible exact Kept.refl _ | intro _ | split
    | with_reducible apply kept_tensorMod | with_reducible apply kept_logNow | with_reducible apply kept_countWord
    | with_reducible apply kept_muMod | with_reducible apply kept_damageTensor
    | with_reducible refine kept_mk ?_ rfl rfl rfl rfl rfl rfl rfl rfl | dsimp only

theorem kept_abandonOn {s0 s : State} {mu : Nat} (hk : Kept s0 s) : Kept s0 (abandonOn s mu) :=
  kept_foldl (fun _ _ => kept_closeInvest (.refl _)) hk

end Sys2Proof.Machine
end

