-- ==== Sys2Proof/Laws/KeptAccession.lean ====
section
/-! SUPPORT. What the operations of Accession keep. -/

namespace Sys2Proof.Machine

set_option Elab.async false
set_option linter.all false

theorem kept_dropReports {s0 s : State} {mid tag : Nat} (hk : Kept s0 s) : Kept s0 (dropReports s mid tag) :=
  kept_mk hk rfl rfl rfl rfl rfl rfl rfl rfl

theorem kept_tensorAccessionBody {s0 s : State} {c : RunCmd} (hk : Kept s0 s) : Kept s0 (tensorAccessionBody s c) := by
  unfold tensorAccessionBody
  try dsimp only
  repeat' first
    | with_reducible exact hk | split | with_reducible apply kept_failAddrs | with_reducible apply kept_dropReports
    | with_reducible apply kept_complete | with_reducible refine kept_mk ?_ rfl rfl rfl rfl rfl rfl rfl rfl
    | dsimp only

theorem kept_execTensorAccession {s0 : State} {src : DeskSrc} {s : State} (hk : Kept s0 s) :
    KeptOut s0 (execTensorAccession src s) :=
  keptOut_next (kept_deskRun (fun _ _ => kept_tensorAccessionBody (.refl _)) hk)

theorem kept_tensorStatusBody {s0 s : State} {c : RunCmd} (hk : Kept s0 s) : Kept s0 (tensorStatusBody s c) := by
  unfold tensorStatusBody
  try dsimp only
  repeat' first
    | with_reducible exact hk | with_reducible exact Kept.refl _ | intro _ | split | with_reducible apply kept_complete
    | with_reducible apply kept_failWith | with_reducible refine kept_fst ?_ (by assumption)
    | with_reducible refine kept_mk ?_ rfl rfl rfl rfl rfl rfl rfl rfl | dsimp only

theorem kept_execTensorStatus {s0 : State} {src : DeskSrc} {s : State} (hk : Kept s0 s) :
    KeptOut s0 (execTensorStatus src s) :=
  keptOut_next (kept_deskRun (fun _ _ => kept_tensorStatusBody (.refl _)) hk)

theorem kept_dropCopies {s0 s : State} {id : Nat} (hk : Kept s0 s) : Kept s0 (dropCopies s id) :=
  kept_mk hk rfl rfl rfl rfl rfl rfl rfl rfl

theorem kept_unloadTensor {s0 s : State} {t : Tensor} (hk : Kept s0 s) : Kept s0 (unloadTensor s t) := by
  unfold unloadTensor
  try dsimp only
  repeat' first
    | with_reducible exact hk | with_reducible apply kept_wcStop | with_reducible apply kept_probesEnd
    | with_reducible apply kept_edgeFresh | with_reducible apply kept_dropKept | with_reducible apply kept_dropCopies
    | with_reducible apply kept_closeInvest | with_reducible apply kept_dropReports
    | with_reducible refine kept_mk ?_ rfl rfl rfl rfl rfl rfl rfl rfl | dsimp only

theorem kept_tensorUnloadBody {s0 s : State} {c : RunCmd} (hk : Kept s0 s) : Kept s0 (tensorUnloadBody s c) := by
  unfold tensorUnloadBody
  repeat' first
    | with_reducible exact hk | split | with_reducible apply kept_failWith | with_reducible apply kept_complete
    | with_reducible apply kept_unloadTensor | with_reducible refine kept_mk ?_ rfl rfl rfl rfl rfl rfl rfl rfl
    | dsimp only

theorem kept_execTensorUnload {s0 : State} {src : DeskSrc} {s : State} (hk : Kept s0 s) :
    KeptOut s0 (execTensorUnload src s) :=
  keptOut_next (kept_deskRun (fun _ _ => kept_tensorUnloadBody (.refl _)) hk)

theorem kept_tensorGuardsBody {s0 s : State} {c : RunCmd} (hk : Kept s0 s) : Kept s0 (tensorGuardsBody s c) := by
  unfold tensorGuardsBody
  try dsimp only
  repeat' first
    | with_reducible exact hk | with_reducible exact Kept.refl _ | intro _ | split
    | with_reducible apply kept_completeOut | with_reducible apply kept_tensorMod | with_reducible apply kept_failWith
    | with_reducible refine kept_mk ?_ rfl rfl rfl rfl rfl rfl rfl rfl | dsimp only

theorem kept_execTensorGuards {s0 : State} {src : DeskSrc} {s : State} (hk : Kept s0 s) :
    KeptOut s0 (execTensorGuards src s) :=
  keptOut_next (kept_deskRun (fun _ _ => kept_tensorGuardsBody (.refl _)) hk)

theorem kept_tensorOriginBody {s0 s : State} {c : RunCmd} (hk : Kept s0 s) : Kept s0 (tensorOriginBody s c) := by
  unfold tensorOriginBody
  try dsimp only
  repeat' first
    | with_reducible exact hk | with_reducible exact Kept.refl _ | intro _ | split | with_reducible apply kept_failWith
    | with_reducible apply kept_failAddrs | with_reducible apply kept_complete | with_reducible apply kept_tensorMod
    | with_reducible refine kept_mk ?_ rfl rfl rfl rfl rfl rfl rfl rfl | dsimp only

theorem kept_execTensorOrigin {s0 : State} {src : DeskSrc} {s : State} (hk : Kept s0 s) :
    KeptOut s0 (execTensorOrigin src s) :=
  keptOut_next (kept_deskRun (fun _ _ => kept_tensorOriginBody (.refl _)) hk)

theorem kept_winMod {s0 s : State} {n : Nat} {f : WeightWin → WeightWin} (hk : Kept s0 s) : Kept s0 (winMod s n f) :=
  kept_mk hk rfl rfl rfl rfl rfl rfl rfl rfl

theorem kept_sealWindow {s0 s : State} {n : Nat} {w : WeightWin} (hk : Kept s0 s) : Kept s0 (sealWindow s n w) := by
  unfold sealWindow
  try dsimp only
  repeat' first
    | with_reducible exact hk | with_reducible exact Kept.refl _ | intro _ | with_reducible apply kept_retireWhere
    | with_reducible apply kept_winMod | with_reducible refine kept_mk ?_ rfl rfl rfl rfl rfl rfl rfl rfl | dsimp only

theorem kept_windowSealBody {s0 s : State} {c : RunCmd} (hk : Kept s0 s) : Kept s0 (windowSealBody s c) := by
  unfold windowSealBody
  repeat' first
    | with_reducible exact hk | split | with_reducible apply kept_failWith | with_reducible apply kept_complete
    | with_reducible apply kept_sealWindow | with_reducible refine kept_mk ?_ rfl rfl rfl rfl rfl rfl rfl rfl
    | dsimp only

theorem kept_execWindowSeal {s0 : State} {src : DeskSrc} {s : State} (hk : Kept s0 s) :
    KeptOut s0 (execWindowSeal src s) :=
  keptOut_next (kept_deskRun (fun _ _ => kept_windowSealBody (.refl _)) hk)

theorem kept_emptyStaging {s0 s : State} {w : WeightWin} (hk : Kept s0 s) : Kept s0 (emptyStaging s w) :=
  kept_foldl (fun _ _ => kept_dramZero (.refl _)) hk

theorem kept_windowReopenBody {s0 s : State} {c : RunCmd} (hk : Kept s0 s) : Kept s0 (windowReopenBody s c) := by
  unfold windowReopenBody
  try dsimp only
  repeat' first
    | with_reducible exact hk | with_reducible exact Kept.refl _ | intro _ | split | with_reducible apply kept_failWith
    | with_reducible apply kept_winMod | with_reducible apply kept_emptyStaging | with_reducible apply kept_complete
    | with_reducible refine kept_mk ?_ rfl rfl rfl rfl rfl rfl rfl rfl | dsimp only

theorem kept_execWindowReopen {s0 : State} {src : DeskSrc} {s : State} (hk : Kept s0 s) :
    KeptOut s0 (execWindowReopen src s) :=
  keptOut_next (kept_deskRun (fun _ _ => kept_windowReopenBody (.refl _)) hk)

theorem kept_closeWindow {s0 s : State} {n : Nat} {w : WeightWin} (hk : Kept s0 s) : Kept s0 (closeWindow s n w) := by
  unfold closeWindow
  try dsimp only
  repeat' first
    | with_reducible exact hk | split | with_reducible apply kept_dropKept
    | with_reducible refine kept_mk ?_ rfl rfl rfl rfl rfl rfl rfl rfl | dsimp only

theorem kept_windowCloseBody {s0 s : State} {c : RunCmd} (hk : Kept s0 s) : Kept s0 (windowCloseBody s c) := by
  unfold windowCloseBody
  repeat' first
    | with_reducible exact hk | split | with_reducible apply kept_failWith | with_reducible apply kept_complete
    | with_reducible apply kept_closeWindow | with_reducible refine kept_mk ?_ rfl rfl rfl rfl rfl rfl rfl rfl
    | dsimp only

theorem kept_execWindowClose {s0 : State} {src : DeskSrc} {s : State} (hk : Kept s0 s) :
    KeptOut s0 (execWindowClose src s) :=
  keptOut_next (kept_deskRun (fun _ _ => kept_windowCloseBody (.refl _)) hk)

theorem kept_writeAll {s0 s : State} {mid : Nat} {l : List (Nat × Bytes)} (hk : Kept s0 s) :
    Kept s0 (writeAll s mid l) := by
  unfold writeAll
  try dsimp only
  repeat' first
    | with_reducible exact hk | with_reducible exact Kept.refl _ | intro _ | with_reducible apply kept_writeAny
    | with_reducible apply kept_chargeWrite | with_reducible apply kept_foldl | dsimp only

theorem kept_chargeSource {s0 s : State} {r : AccReq} (hk : Kept s0 s) : Kept s0 (chargeSource s r) := by
  unfold chargeSource
  try dsimp only
  repeat' first
    | with_reducible exact hk | with_reducible exact Kept.refl _ | intro _ | split
    | with_reducible apply kept_chargeRead | with_reducible apply kept_foldl | with_reducible apply kept_foldl_fst
    | with_reducible refine kept_mk ?_ rfl rfl rfl rfl rfl rfl rfl rfl | dsimp only

theorem kept_readStaging {s0 s : State} {w : WeightWin} {n : Nat} (hk : Kept s0 s) : Kept s0 (readStaging s w n).1 := by
  unfold readStaging
  try dsimp only
  repeat' first
    | with_reducible exact hk | with_reducible exact Kept.refl _ | intro _ | split
    | with_reducible refine kept_physRead_of ?_ (by assumption) | with_reducible apply kept_physRead
    | with_reducible apply kept_foldl | with_reducible refine kept_fst ?_ (by assumption)
    | with_reducible apply kept_foldl_fst | dsimp only

theorem kept_readStaging_of {s0 s : State} {w : WeightWin} {n : Nat} {r : State × Bytes × List Nat} (hk : Kept s0 s)
    (e : readStaging s w n = r) : Kept s0 r.1 :=
  e ▸ kept_readStaging hk

theorem kept_readSource {s0 s : State} {r : AccReq} {remote : RemoteRead} (hk : Kept s0 s) :
    Kept s0 (readSource s r remote).1 := by
  unfold readSource
  try dsimp only
  repeat' first
    | with_reducible exact hk | split | with_reducible refine kept_readAny_of ?_ (by assumption)
    | with_reducible apply kept_readAny | with_reducible refine kept_readStaging_of ?_ (by assumption)
    | with_reducible apply kept_readStaging | with_reducible refine kept_fst ?_ (by assumption)
    | with_reducible refine kept_mk ?_ rfl rfl rfl rfl rfl rfl rfl rfl | dsimp only

theorem kept_readSource_of {s0 s : State} {r : AccReq} {remote : RemoteRead} {r_ : State × Bytes × List Nat} (hk :
    Kept s0 s)
    (e : readSource s r remote = r_) : Kept s0 r_.1 :=
  e ▸ kept_readSource hk

theorem kept_accFail {s0 s : State} {r : AccReq} {rep : AccReport} {rc : Nat} (hk : Kept s0 s) :
    Kept s0 (accFail s r rep rc) := by
  unfold accFail
  try dsimp only
  repeat' first
    | with_reducible exact hk | with_reducible exact Kept.refl _ | intro _ | split | with_reducible apply kept_zeroAny
    | with_reducible apply kept_chargeWrite | with_reducible apply kept_winMod | with_reducible apply kept_foldl
    | with_reducible refine kept_mk ?_ rfl rfl rfl rfl rfl rfl rfl rfl | dsimp only

theorem kept_accessionStart {s0 s : State} {remote : RemoteRead} (hk : Kept s0 s) :
    Kept s0 (accessionStart s remote) := by
  unfold accessionStart
  try dsimp only
  repeat' first
    | with_reducible exact hk | with_reducible exact Kept.refl _ | intro _ | split
    | with_reducible refine kept_readSource_of ?_ (by assumption) | with_reducible apply kept_readSource
    | with_reducible apply kept_chargeSource | with_reducible apply kept_accFail | with_reducible apply kept_writeAll
    | with_reducible apply kept_foldl | with_reducible refine kept_fst ?_ (by assumption)
    | with_reducible apply kept_foldl_fst | with_reducible refine kept_mk ?_ rfl rfl rfl rfl rfl rfl rfl rfl
    | dsimp only

theorem kept_execAccessionStart {s0 : State} {remote : RemoteRead} {s : State} (hk : Kept s0 s) :
    KeptOut s0 (execAccessionStart remote s) :=
  keptOut_next (kept_accessionStart hk)

theorem kept_loadTensor {s0 s : State} {r : AccReq} {rep : AccReport} (hk : Kept s0 s) :
    Kept s0 (loadTensor s r rep).1 := by
  unfold loadTensor
  try dsimp only
  repeat' first
    | with_reducible exact hk | with_reducible exact Kept.refl _ | intro _ | split
    | with_reducible apply kept_probesEnd | with_reducible apply kept_edgeFresh | with_reducible apply kept_dropKept
    | with_reducible apply kept_dropCopies | with_reducible apply kept_closeInvest
    | with_reducible apply kept_tensorMod | with_reducible refine kept_mk ?_ rfl rfl rfl rfl rfl rfl rfl rfl
    | dsimp only

theorem kept_loadTensor_of {s0 s : State} {r : AccReq} {rep : AccReport} {r_ : State × Nat} (hk : Kept s0 s)
    (e : loadTensor s r rep = r_) : Kept s0 r_.1 :=
  e ▸ kept_loadTensor hk

theorem kept_accessionEnd {s0 s : State} (hk : Kept s0 s) : Kept s0 (accessionEnd s) := by
  unfold accessionEnd
  try dsimp only
  repeat' first
    | with_reducible exact hk | with_reducible exact Kept.refl _ | intro _ | split | with_reducible apply kept_accFail
    | with_reducible apply kept_writeAll | with_reducible refine kept_loadTensor_of ?_ (by assumption)
    | with_reducible apply kept_loadTensor | with_reducible apply kept_winMod
    | with_reducible refine kept_fst ?_ (by assumption)
    | with_reducible refine kept_mk ?_ rfl rfl rfl rfl rfl rfl rfl rfl | dsimp only

theorem kept_execAccessionEnd {s0 s : State} (hk : Kept s0 s) : KeptOut s0 (execAccessionEnd s) :=
  keptOut_next (kept_accessionEnd hk)

end Sys2Proof.Machine
end

