-- ==== Sys2Proof/Laws/KeptVolume.lean ====
section
/-! SUPPORT. What the operations of Volume keep. -/

namespace Sys2Proof.Machine

set_option Elab.async false
set_option linter.all false

theorem kept_volMod {s0 s : State} {key : Nat} {f : Volume → Volume} (hk : Kept s0 s) : Kept s0 (volMod s key f) :=
  kept_mk hk rfl rfl rfl rfl rfl rfl rfl rfl

theorem kept_placeVolume {s0 s : State} {v : Volume} (hk : Kept s0 s) : Kept s0 (placeVolume s v) :=
  kept_mk hk rfl rfl rfl rfl rfl rfl rfl rfl

theorem kept_volumeLoadBody {s0 : State} {remote : RemoteRead} {s : State} {c : RunCmd} (hk : Kept s0 s) :
    Kept s0 (volumeLoadBody remote s c) := by
  unfold volumeLoadBody
  try dsimp only
  repeat' first
    | with_reducible exact hk | with_reducible exact Kept.refl _ | intro _ | split | with_reducible apply kept_failWith
    | with_reducible apply kept_failAddr | with_reducible refine kept_readAny_of ?_ (by assumption)
    | with_reducible apply kept_readAny | with_reducible apply kept_complete | with_reducible apply kept_placeVolume
    | with_reducible refine kept_fst ?_ (by assumption)
    | with_reducible refine kept_mk ?_ rfl rfl rfl rfl rfl rfl rfl rfl | dsimp only

theorem kept_execVolumeLoad {s0 : State} {src : DeskSrc} {remote : RemoteRead} {s : State} (hk : Kept s0 s) :
    KeptOut s0 (execVolumeLoad src remote s) :=
  keptOut_next (kept_deskRun (fun _ _ => kept_volumeLoadBody (.refl _)) hk)

theorem kept_passCharges {s0 s : State} (hk : Kept s0 s) : Kept s0 (passCharges s) := by
  unfold passCharges
  try dsimp only
  repeat' first
    | with_reducible exact hk | with_reducible exact Kept.refl _ | intro _ | split | with_reducible apply kept_charge
    | with_reducible apply kept_foldl | with_reducible refine kept_mk ?_ rfl rfl rfl rfl rfl rfl rfl rfl | dsimp only

theorem kept_dropUses {s0 s : State} {p : FolioUse → Bool} (hk : Kept s0 s) : Kept s0 (dropUses s p) :=
  kept_passCharges (kept_mk hk rfl rfl rfl rfl rfl rfl rfl rfl)

theorem kept_dropPins {s0 s : State} {v : Volume} (hk : Kept s0 s) : Kept s0 (dropPins s v) := by
  unfold dropPins
  try dsimp only
  repeat' first
    | with_reducible exact hk | with_reducible exact Kept.refl _ | intro _ | with_reducible apply kept_dropUses
    | with_reducible refine kept_mk ?_ rfl rfl rfl rfl rfl rfl rfl rfl | dsimp only

theorem kept_volumeUnloadBody {s0 s : State} {c : RunCmd} (hk : Kept s0 s) : Kept s0 (volumeUnloadBody s c) := by
  unfold volumeUnloadBody
  try dsimp only
  repeat' first
    | with_reducible exact hk | split | with_reducible apply kept_failWith | with_reducible apply kept_complete
    | with_reducible apply kept_dropPins | with_reducible refine kept_fst ?_ (by assumption)
    | with_reducible refine kept_mk ?_ rfl rfl rfl rfl rfl rfl rfl rfl | dsimp only

theorem kept_execVolumeUnload {s0 : State} {src : DeskSrc} {s : State} (hk : Kept s0 s) :
    KeptOut s0 (execVolumeUnload src s) :=
  keptOut_next (kept_deskRun (fun _ _ => kept_volumeUnloadBody (.refl _)) hk)

theorem kept_volumeStatusBody {s0 s : State} {c : RunCmd} (hk : Kept s0 s) : Kept s0 (volumeStatusBody s c) := by
  unfold volumeStatusBody
  try dsimp only
  repeat' first
    | with_reducible exact hk | split | with_reducible apply kept_failWith | with_reducible apply kept_complete
    | with_reducible refine kept_fst ?_ (by assumption)
    | with_reducible refine kept_mk ?_ rfl rfl rfl rfl rfl rfl rfl rfl | dsimp only

theorem kept_execVolumeStatus {s0 : State} {src : DeskSrc} {s : State} (hk : Kept s0 s) :
    KeptOut s0 (execVolumeStatus src s) :=
  keptOut_next (kept_deskRun (fun _ _ => kept_volumeStatusBody (.refl _)) hk)

theorem kept_queueCreateBody {s0 s : State} {c : RunCmd} (hk : Kept s0 s) : Kept s0 (queueCreateBody s c) := by
  unfold queueCreateBody
  try dsimp only
  repeat' first
    | with_reducible exact hk | with_reducible exact Kept.refl _ | intro _ | split | with_reducible apply kept_failWith
    | with_reducible apply kept_complete | with_reducible refine kept_mk ?_ rfl rfl rfl rfl rfl rfl rfl rfl
    | dsimp only

theorem kept_execQueueCreate {s0 : State} {src : DeskSrc} {s : State} (hk : Kept s0 s) :
    KeptOut s0 (execQueueCreate src s) :=
  keptOut_next (kept_deskRun (fun _ _ => kept_queueCreateBody (.refl _)) hk)

theorem kept_queueDestroyBody {s0 s : State} {c : RunCmd} (hk : Kept s0 s) : Kept s0 (queueDestroyBody s c) := by
  unfold queueDestroyBody
  repeat' first
    | with_reducible exact hk | split | with_reducible apply kept_failWith | with_reducible apply kept_complete
    | with_reducible refine kept_mk ?_ rfl rfl rfl rfl rfl rfl rfl rfl | dsimp only

theorem kept_execQueueDestroy {s0 : State} {src : DeskSrc} {s : State} (hk : Kept s0 s) :
    KeptOut s0 (execQueueDestroy src s) :=
  keptOut_next (kept_deskRun (fun _ _ => kept_queueDestroyBody (.refl _)) hk)

end Sys2Proof.Machine
end

