-- ==== Sys2Proof/Laws/KeptSched.lean ====
section
/-! SUPPORT. What the operations of Sched keep. -/

namespace Sys2Proof.Machine

set_option Elab.async false
set_option linter.all false

theorem kept_posterWrite {s0 s : State} {poster addr : Nat} {b : Bytes} (hk : Kept s0 s) :
    Kept s0 (posterWrite s poster addr b) := by
  unfold posterWrite
  repeat' first
    | with_reducible exact hk | split | with_reducible apply kept_emit

theorem kept_recordWrite {s0 s : State} {poster addr seq taken : Nat} {v : Verdict} (hk : Kept s0 s) :
    Kept s0 (recordWrite s poster addr seq taken v) := by
  unfold recordWrite
  repeat' first
    | with_reducible exact hk | with_reducible apply kept_posterWrite | with_reducible apply kept_chargeHostTx

theorem kept_logLate {s0 s : State} {mid volumeId seq deadline : Nat} (hk : Kept s0 s) :
    Kept s0 (logLate s mid volumeId seq deadline) :=
  kept_logNow hk

theorem kept_endUnrun {s0 s : State} {q : Queue} {sl : Slip} {taken : Nat} {v : Verdict} (hk : Kept s0 s) :
    Kept s0 (endUnrun s q sl taken v) := by
  unfold endUnrun
  try dsimp only
  repeat' first
    | with_reducible exact hk | split | with_reducible apply kept_logLate | with_reducible apply kept_recordWrite
    | dsimp only

theorem kept_queMod {s0 s : State} {n : Nat} {f : Queue → Queue} (hk : Kept s0 s) : Kept s0 (queMod s n f) :=
  kept_mk hk rfl rfl rfl rfl rfl rfl rfl rfl

theorem kept_takeBlock {s0 s : State} {mid input : Nat} {v : Volume} {member : Bool} {remote : RemoteRead} (hk : Kept
    s0 s) :
    Kept s0 (takeBlock s mid input v member remote).1 := by
  unfold takeBlock
  try dsimp only
  repeat' first
    | with_reducible exact hk | split | with_reducible refine kept_readAny_of ?_ (by assumption)
    | with_reducible apply kept_readAny | with_reducible apply kept_chargeRead | with_reducible apply kept_logRefused
    | with_reducible refine kept_fst ?_ (by assumption) | dsimp only

theorem kept_takeBlock_of {s0 s : State} {mid input : Nat} {v : Volume} {member : Bool} {remote : RemoteRead}
    {r : State × Option (Bytes × Bool)} (hk : Kept s0 s)
    (e : takeBlock s mid input v member remote = r) : Kept s0 r.1 :=
  e ▸ kept_takeBlock hk

theorem kept_ringReadStart {s0 s : State} {poster ring : Nat} (hk : Kept s0 s) :
    Kept s0 (ringReadStart s poster ring) := by
  unfold ringReadStart
  repeat' first
    | with_reducible exact hk | split | with_reducible apply kept_readStart | with_reducible apply kept_chargeHostRx
    | with_reducible apply kept_emit

theorem kept_queueSlip {s0 s : State} {n : Nat} {t : Taken} (hk : Kept s0 s) : Kept s0 (queueSlip s n t) :=
  kept_queMod (kept_mk hk rfl rfl rfl rfl rfl rfl rfl rfl)

theorem kept_takeSlip {s0 s : State} {n : Nat} {q : Queue} {raw : Bytes} {sl : Slip} {consumed : HostRead}
    {input : RemoteRead} (hk : Kept s0 s) :
    Kept s0 (takeSlip s n q raw sl consumed input) := by
  unfold takeSlip
  try dsimp only
  repeat' first
    | with_reducible exact hk | split | with_reducible refine kept_takeBlock_of ?_ (by assumption)
    | with_reducible apply kept_takeBlock | with_reducible apply kept_endUnrun | with_reducible apply kept_readEnd
    | with_reducible apply kept_ringReadStart | with_reducible apply kept_queueSlip
    | with_reducible refine kept_fst ?_ (by assumption)
    | with_reducible refine kept_mk ?_ rfl rfl rfl rfl rfl rfl rfl rfl | dsimp only

theorem kept_toMembers {s0 s : State} {x : Ctx} {code : Nat} {body : List Val} (hk : Kept s0 s) :
    Kept s0 (toMembers s x code body) := by
  unfold toMembers
  try dsimp only
  repeat' first
    | with_reducible exact hk | with_reducible exact Kept.refl _ | intro _ | split | with_reducible apply kept_msgSend
    | with_reducible apply kept_foldl | with_reducible apply kept_foldl_fst
    | with_reducible refine kept_mk ?_ rfl rfl rfl rfl rfl rfl rfl rfl | dsimp only

theorem kept_stopCtx {s0 s : State} {n : Nat} {e : EndCode} (hk : Kept s0 s) : Kept s0 (stopCtx s n e) := by
  unfold stopCtx
  try dsimp only
  repeat' first
    | with_reducible exact hk | with_reducible exact Kept.refl _ | intro _ | split | with_reducible apply kept_ctxMod
    | with_reducible apply kept_toMembers | with_reducible refine kept_mk ?_ rfl rfl rfl rfl rfl rfl rfl rfl
    | dsimp only

theorem kept_lateCtx {s0 s : State} {n : Nat} (hk : Kept s0 s) : Kept s0 (lateCtx s n) := by
  unfold lateCtx
  try dsimp only
  repeat' first
    | with_reducible exact hk | with_reducible exact Kept.refl _ | intro _ | split | with_reducible apply kept_logLate
    | with_reducible apply kept_ctxMod | with_reducible apply kept_stopCtx
    | with_reducible refine kept_mk ?_ rfl rfl rfl rfl rfl rfl rfl rfl | dsimp only

theorem kept_settleLate {s0 s : State} {n : Nat} (hk : Kept s0 s) : Kept s0 (settleLate s n) := by
  unfold settleLate
  repeat' first
    | with_reducible exact hk | split | with_reducible apply kept_lateCtx
    | with_reducible refine kept_mk ?_ rfl rfl rfl rfl rfl rfl rfl rfl

theorem kept_lateTaken {s0 : State} {n : Nat} {s : State} {t : Taken} (hk : Kept s0 s) : Kept s0 (lateTaken n s t) := by
  unfold lateTaken
  try dsimp only
  repeat' first
    | with_reducible exact hk | with_reducible exact Kept.refl _ | intro _ | split | with_reducible apply kept_logLate
    | with_reducible apply kept_recordWrite | with_reducible apply kept_queMod
    | with_reducible refine kept_mk ?_ rfl rfl rfl rfl rfl rfl rfl rfl | dsimp only

theorem kept_lateWaiting {s0 s : State} (hk : Kept s0 s) : Kept s0 (lateWaiting s) := by
  unfold lateWaiting
  try dsimp only
  repeat' first
    | with_reducible exact hk | with_reducible exact Kept.refl _ | intro _ | with_reducible apply kept_lateTaken
    | with_reducible apply kept_foldl | dsimp only

theorem kept_execDeadlinePass {s0 : State} {ctx : Nat} {s : State} (hk : Kept s0 s) :
    KeptOut s0 (execDeadlinePass ctx s) := by
  unfold execDeadlinePass
  repeat' first
    | with_reducible apply keptOut_next | with_reducible exact hk | with_reducible apply kept_settleLate
    | with_reducible apply kept_lateWaiting

theorem kept_ctxRecord {s0 s : State} {x : Ctx} {e : EndCode} (hk : Kept s0 s) : Kept s0 (ctxRecord s x e) := by
  unfold ctxRecord
  try dsimp only
  repeat' first
    | with_reducible exact hk | split | with_reducible apply kept_bump | with_reducible apply kept_recordWrite
    | with_reducible apply kept_writeAny | with_reducible refine kept_mk ?_ rfl rfl rfl rfl rfl rfl rfl rfl
    | dsimp only

theorem kept_endHalts {s0 s : State} {x : Ctx} {rc : Nat} (hk : Kept s0 s) : Kept s0 (endHalts s x rc) := by
  unfold endHalts
  try dsimp only
  repeat' first
    | with_reducible exact hk | with_reducible exact Kept.refl _ | intro _ | split
    | with_reducible apply kept_recordWrite | with_reducible apply kept_foldl | dsimp only

theorem kept_redPurge {s0 s : State} {n : Nat} (hk : Kept s0 s) : Kept s0 (redPurge s n) := by
  unfold redPurge
  try dsimp only
  repeat' first
    | with_reducible exact hk | with_reducible exact Kept.refl _ | intro _ | split
    | with_reducible refine kept_mk ?_ rfl rfl rfl rfl rfl rfl rfl rfl | dsimp only

theorem kept_countEvents {s0 s : State} {key : Nat} {b : Blame} {e : Events} (hk : Kept s0 s) :
    Kept s0 (countEvents s key b e) := by
  unfold countEvents
  try dsimp only
  repeat' first
    | with_reducible exact hk | with_reducible exact Kept.refl _ | intro _ | split
    | with_reducible apply kept_tensorEvents | with_reducible apply kept_kvEvents | with_reducible apply kept_volMod
    | with_reducible refine kept_mk ?_ rfl rfl rfl rfl rfl rfl rfl rfl | dsimp only

theorem kept_splitsPay {s0 s : State} {n key : Nat} {p : SplitDue → Bool} {who : SplitDue → Blame} (hk : Kept s0 s) :
    Kept s0 (splitsPay s n key p who) := by
  unfold splitsPay
  try dsimp only
  repeat' first
    | with_reducible exact hk | with_reducible exact Kept.refl _ | intro _ | split
    | with_reducible apply kept_countEvents | with_reducible apply kept_ctxMod | with_reducible apply kept_foldl
    | with_reducible refine kept_mk ?_ rfl rfl rfl rfl rfl rfl rfl rfl | dsimp only

theorem kept_setActHalf {s0 s : State} {m : Nat} {second : Bool} {a : ActHalf} (hk : Kept s0 s) :
    Kept s0 (setActHalf s m second a) :=
  kept_mk hk rfl rfl rfl rfl rfl rfl rfl rfl

theorem kept_runOver {s0 s : State} {n : Nat} (hk : Kept s0 s) : Kept s0 (runOver s n) := by
  unfold runOver
  try dsimp only
  repeat' first
    | with_reducible exact hk | with_reducible exact Kept.refl _ | intro _ | split
    | with_reducible apply kept_splitsPay | with_reducible apply kept_setActHalf | with_reducible apply kept_foldl
    | with_reducible refine kept_mk ?_ rfl rfl rfl rfl rfl rfl rfl rfl | dsimp only

theorem kept_freeCtx {s0 s : State} {n : Nat} (hk : Kept s0 s) : Kept s0 (freeCtx s n) := by
  unfold freeCtx
  try dsimp only
  repeat' first
    | with_reducible exact hk | with_reducible exact Kept.refl _ | intro _ | split | with_reducible apply kept_redPurge
    | with_reducible apply kept_runOver | with_reducible apply kept_dropUses
    | with_reducible refine kept_mk ?_ rfl rfl rfl rfl rfl rfl rfl rfl | dsimp only

theorem kept_callSlipEnd {s0 s : State} {n : Nat} (hk : Kept s0 s) : Kept s0 (callSlipEnd s n) := by
  unfold callSlipEnd
  try dsimp only
  repeat' first
    | with_reducible exact hk | split | with_reducible apply kept_settleLate | with_reducible apply kept_freeCtx
    | with_reducible apply kept_ctxRecord | with_reducible apply kept_endHalts
    | with_reducible refine kept_mk ?_ rfl rfl rfl rfl rfl rfl rfl rfl | dsimp only

theorem kept_execCallSlipEnd {s0 : State} {ctx : Nat} {s : State} (hk : Kept s0 s) :
    KeptOut s0 (execCallSlipEnd ctx s) :=
  keptOut_next (kept_callSlipEnd hk)

theorem kept_haltRecord {s0 s : State} {q : Queue} {h : Slip} {rc : Nat} (hk : Kept s0 s) :
    Kept s0 (haltRecord s q h rc) :=
  kept_recordWrite hk

theorem kept_haltCtx {s0 s : State} {q : Queue} {h : Slip} {n : Nat} {x : Ctx} (hk : Kept s0 s) :
    Kept s0 (haltCtx s q h n x) := by
  unfold haltCtx
  try dsimp only
  repeat' first
    | with_reducible exact hk | with_reducible exact Kept.refl _ | intro _ | split
    | with_reducible apply kept_haltRecord | with_reducible apply kept_ctxMod | with_reducible apply kept_stopCtx
    | with_reducible refine kept_mk ?_ rfl rfl rfl rfl rfl rfl rfl rfl | dsimp only

theorem kept_haltSlip {s0 s : State} {n : Nat} {q : Queue} {raw : Bytes} {h : Slip} (hk : Kept s0 s) :
    Kept s0 (haltSlip s n q raw h) := by
  unfold haltSlip
  try dsimp only
  repeat' first
    | with_reducible exact hk | with_reducible exact Kept.refl _ | intro _ | split | with_reducible apply kept_endUnrun
    | with_reducible apply kept_haltRecord | with_reducible apply kept_queMod | with_reducible apply kept_recordWrite
    | with_reducible apply kept_haltCtx | with_reducible refine kept_fst ?_ (by assumption)
    | with_reducible refine kept_mk ?_ rfl rfl rfl rfl rfl rfl rfl rfl | dsimp only

theorem kept_queIgnore {s0 s : State} {n : Nat} {full : Bool} (hk : Kept s0 s) : Kept s0 (queIgnore s n full) :=
  kept_mk hk rfl rfl rfl rfl rfl rfl rfl rfl

theorem kept_execQueDoorbell {s0 : State} {queue : Nat} {full : Bool} {value : BitVec 64} {consumed : HostRead}
    {input : RemoteRead} {s : State} (hk : Kept s0 s) :
    KeptOut s0 (execQueDoorbell queue full value consumed input s) := by
  unfold execQueDoorbell
  try dsimp only
  repeat' first
    | with_reducible apply keptOut_next | with_reducible exact hk | with_reducible exact Kept.refl _ | intro _ | split
    | with_reducible apply kept_queIgnore | with_reducible apply kept_queMod | with_reducible apply kept_haltSlip
    | with_reducible apply kept_takeSlip | with_reducible refine kept_mk ?_ rfl rfl rfl rfl rfl rfl rfl rfl
    | dsimp only

theorem kept_execQueueSlotWrite {s0 : State} {queue slot off : Nat} {bytes : Bytes} {s : State} (hk : Kept s0 s) :
    KeptOut s0 (execQueueSlotWrite queue slot off bytes s) := by
  unfold execQueueSlotWrite
  try dsimp only
  repeat' first
    | with_reducible apply keptOut_next | with_reducible exact hk | with_reducible exact Kept.refl _ | intro _ | split
    | with_reducible apply kept_queMod | with_reducible refine kept_mk ?_ rfl rfl rfl rfl rfl rfl rfl rfl | dsimp only

theorem kept_startWake {s0 s : State} (hk : Kept s0 s) : Kept s0 (startWake s) := by
  unfold startWake
  repeat' first
    | with_reducible exact hk | split | with_reducible refine kept_mk ?_ rfl rfl rfl rfl rfl rfl rfl rfl

theorem kept_sendStarts {s0 s : State} {n : Nat} {t : Taken} {v : Volume} (hk : Kept s0 s) :
    Kept s0 (sendStarts s n t v) :=
  kept_foldl (fun _ _ => kept_msgSend (.refl _)) hk

theorem kept_callSlipAdmit {s0 s : State} (hk : Kept s0 s) : Kept s0 (callSlipAdmit s) := by
  unfold callSlipAdmit
  try dsimp only
  repeat' first
    | with_reducible exact hk | with_reducible exact Kept.refl _ | intro _ | split | with_reducible apply kept_queMod
    | with_reducible apply kept_startWake | with_reducible apply kept_sendStarts
    | with_reducible refine kept_fst ?_ (by assumption)
    | with_reducible refine kept_mk ?_ rfl rfl rfl rfl rfl rfl rfl rfl | dsimp only

theorem kept_execCallSlipAdmit {s0 s : State} (hk : Kept s0 s) : KeptOut s0 (execCallSlipAdmit s) :=
  keptOut_next (kept_callSlipAdmit hk)

theorem kept_silencePoster {s0 s : State} {poster : Nat} (hk : Kept s0 s) : Kept s0 (silencePoster s poster) := by
  unfold silencePoster
  try dsimp only
  repeat' first
    | with_reducible exact hk | with_reducible exact Kept.refl _ | intro _ | split | with_reducible apply kept_stopCtx
    | with_reducible apply kept_ctxMod | with_reducible apply kept_foldl | with_reducible apply kept_foldl_fst
    | with_reducible refine kept_mk ?_ rfl rfl rfl rfl rfl rfl rfl rfl | dsimp only

end Sys2Proof.Machine
end

