-- ==== Sys2Proof/Laws/KeptFetch.lean ====
section
/-! SUPPORT. What the operations of Fetch keep. -/

namespace Sys2Proof.Machine

set_option Elab.async false
set_option linter.all false

theorem kept_readFolio {s0 s : State} {mid : Nat} {p : TParams} {pa ca ta : Nat} (hk : Kept s0 s) :
    Kept s0 (readFolio s mid p pa ca ta).1 := by
  unfold readFolio
  try dsimp only
  repeat' first
    | with_reducible exact hk | split | with_reducible refine kept_readAny_of ?_ (by assumption)
    | with_reducible apply kept_readAny | with_reducible refine kept_fst ?_ (by assumption) | dsimp only

theorem kept_readFolio_of {s0 s : State} {mid : Nat} {p : TParams} {pa ca ta : Nat} {r : State × Bytes × Bool} (hk :
    Kept s0 s)
    (e : readFolio s mid p pa ca ta = r) : Kept s0 r.1 :=
  e ▸ kept_readFolio hk

theorem kept_askTile {s0 s : State} {t : Tensor} {pa ca : Nat} (hk : Kept s0 s) : Kept s0 (askTile s t pa ca) := by
  unfold askTile
  repeat' first
    | with_reducible exact hk | with_reducible apply kept_readFar

theorem kept_releaseOld {s0 s : State} {n : Nat} {w : Want} (hk : Kept s0 s) : Kept s0 (releaseOld s n w) := by
  unfold releaseOld
  try dsimp only
  repeat' first
    | with_reducible exact hk | with_reducible exact Kept.refl _ | intro _ | split | with_reducible apply kept_dropUses
    | with_reducible refine kept_fst ?_ (by assumption)
    | with_reducible refine kept_mk ?_ rfl rfl rfl rfl rfl rfl rfl rfl | dsimp only

theorem kept_issueWant {s0 s : State} {n : Nat} {head : Bool} {w : Want} (hk : Kept s0 s) :
    Kept s0 (issueWant s n head w) := by
  unfold issueWant
  try dsimp only
  repeat' first
    | with_reducible exact hk | split | with_reducible apply kept_charge | with_reducible apply kept_releaseOld
    | with_reducible refine kept_readFolio_of ?_ (by assumption) | with_reducible apply kept_readFolio
    | with_reducible apply kept_chargeRead | with_reducible apply kept_askTile
    | with_reducible refine kept_readFar_of ?_ (by assumption) | with_reducible apply kept_readFar
    | with_reducible refine kept_fst ?_ (by assumption)
    | with_reducible refine kept_mk ?_ rfl rfl rfl rfl rfl rfl rfl rfl | dsimp only

theorem kept_attachAll {s0 s : State} {n : Nat} {l : List Want} (hk : Kept s0 s) : Kept s0 (attachAll s n l) := by
  unfold attachAll
  try dsimp only
  repeat' first
    | with_reducible exact hk | with_reducible exact Kept.refl _ | intro _ | split
    | with_reducible apply kept_releaseOld | with_reducible apply kept_foldl
    | with_reducible refine kept_mk ?_ rfl rfl rfl rfl rfl rfl rfl rfl | dsimp only

theorem kept_stageTile {s0 s : State} {t tile cls : Nat} (hk : Kept s0 s) : Kept s0 (stageTile s t tile cls) :=
  kept_mk hk rfl rfl rfl rfl rfl rfl rfl rfl

theorem kept_fetchIssue {s0 s : State} {h : Half} (hk : Kept s0 s) : Kept s0 (fetchIssue s h) := by
  unfold fetchIssue
  try dsimp only
  repeat' first
    | with_reducible exact hk | with_reducible exact Kept.refl _ | intro _ | split
    | with_reducible apply kept_attachAll | with_reducible apply kept_issueWant | with_reducible apply kept_stageTile
    | with_reducible refine kept_fst ?_ (by assumption)
    | with_reducible refine kept_mk ?_ rfl rfl rfl rfl rfl rfl rfl rfl | dsimp only

theorem kept_execFetchIssue {s0 : State} {half : Half} {s : State} (hk : Kept s0 s) :
    KeptOut s0 (execFetchIssue half s) :=
  keptOut_next (kept_fetchIssue hk)

theorem kept_copyMod {s0 s : State} {m : Nat} {f : FolioId} {g : FolioCopy → FolioCopy} (hk : Kept s0 s) :
    Kept s0 (copyMod s m f g) :=
  kept_mk hk rfl rfl rfl rfl rfl rfl rfl rfl

theorem kept_keptDrop {s0 s : State} {t tile : Nat} (hk : Kept s0 s) : Kept s0 (keptDrop s t tile) := by
  unfold keptDrop
  try dsimp only
  repeat' first
    | with_reducible exact hk | with_reducible exact Kept.refl _ | intro _
    | with_reducible refine kept_fst ?_ (by assumption)
    | with_reducible refine kept_mk ?_ rfl rfl rfl rfl rfl rfl rfl rfl | dsimp only

theorem kept_wcRestage {s0 s : State} {t tile cls : Nat} (hk : Kept s0 s) : Kept s0 (wcRestage s t tile cls) := by
  unfold wcRestage
  try dsimp only
  repeat' first
    | with_reducible exact hk | with_reducible exact Kept.refl _ | intro _ | with_reducible apply kept_tensorMod
    | with_reducible refine kept_mk ?_ rfl rfl rfl rfl rfl rfl rfl rfl | dsimp only

theorem kept_poisonCopy {s0 s : State} {m : Nat} {f : FolioId} {malformed : Bool} (hk : Kept s0 s) :
    Kept s0 (poisonCopy s m f malformed) := by
  unfold poisonCopy
  try dsimp only
  repeat' first
    | with_reducible exact hk | with_reducible exact Kept.refl _ | intro _ | split | with_reducible apply kept_copyMod
    | with_reducible apply kept_dropUses | with_reducible apply kept_closeInvest | with_reducible apply kept_keptDrop
    | with_reducible apply kept_wcRestage | with_reducible refine kept_fst ?_ (by assumption)
    | with_reducible refine kept_mk ?_ rfl rfl rfl rfl rfl rfl rfl rfl | dsimp only

theorem kept_sramFresh {s0 s : State} {m : Nat} {c : FolioCopy} (hk : Kept s0 s) : Kept s0 (sramFresh s m c) :=
  kept_mk hk rfl rfl rfl rfl rfl rfl rfl rfl

theorem kept_settleCopy {s0 s : State} {m : Nat} {f : FolioId} {b : Bytes} (hk : Kept s0 s) :
    Kept s0 (settleCopy s m f b) := by
  unfold settleCopy
  try dsimp only
  repeat' first
    | with_reducible exact hk | with_reducible exact Kept.refl _ | intro _ | split | with_reducible apply kept_copyMod
    | with_reducible apply kept_sramFresh | with_reducible apply kept_tensorMod | with_reducible apply kept_dropUses
    | with_reducible refine kept_fst ?_ (by assumption)
    | with_reducible refine kept_mk ?_ rfl rfl rfl rfl rfl rfl rfl rfl | dsimp only

theorem kept_execFolioDataArrive {s0 : State} {slice : Nat} {folio : FolioId} {s : State} (hk : Kept s0 s) :
    KeptOut s0 (execFolioDataArrive slice folio s) := by
  unfold execFolioDataArrive
  try dsimp only
  repeat' first
    | with_reducible apply keptOut_next | with_reducible exact hk | with_reducible exact Kept.refl _ | intro _ | split
    | with_reducible apply kept_poisonCopy | with_reducible apply kept_copyMod
    | with_reducible refine kept_fst ?_ (by assumption)
    | with_reducible refine kept_mk ?_ rfl rfl rfl rfl rfl rfl rfl rfl | dsimp only

theorem kept_folioArrive {s0 s : State} {m : Nat} {f : FolioId} {remote : RemoteRead} (hk : Kept s0 s) :
    Kept s0 (folioArrive s m f remote) := by
  rw [folioArrive]
  repeat' first
    | with_reducible exact hk | split | with_reducible apply kept_poisonCopy | with_reducible apply kept_settleCopy
    | with_reducible refine kept_rtRead_of ?_ (by assumption) | with_reducible apply kept_rtRead
    | with_reducible refine kept_fst ?_ (by assumption)
    | with_reducible refine kept_mk ?_ rfl rfl rfl rfl rfl rfl rfl rfl | dsimp only

theorem kept_execFolioArriveComplete {s0 : State} {slice : Nat} {folio : FolioId} {remote : RemoteRead} {s : State}
    (hk : Kept s0 s) :
    KeptOut s0 (execFolioArriveComplete slice folio remote s) :=
  keptOut_next (kept_folioArrive hk)

theorem kept_logRecovery {s0 s : State} {t : Tensor} {tile used foundAt : Nat} (hk : Kept s0 s) :
    Kept s0 (logRecovery s t tile used foundAt) :=
  kept_logNow hk

theorem kept_recoverRead {s0 s : State} {t : Tensor} {tile pbase cbase : Nat} {remote : RemoteRead} (hk : Kept s0 s) :
    Kept s0 (recoverRead s t tile pbase cbase remote).1 := by
  unfold recoverRead
  try dsimp only
  repeat' first
    | with_reducible exact hk | split | with_reducible refine kept_readFolio_of ?_ (by assumption)
    | with_reducible apply kept_readFolio | with_reducible refine kept_fst ?_ (by assumption) | dsimp only

theorem kept_recoverRead_of {s0 s : State} {t : Tensor} {tile pbase cbase : Nat} {remote : RemoteRead}
    {r : State × Option Bytes} (hk : Kept s0 s)
    (e : recoverRead s t tile pbase cbase remote = r) : Kept s0 r.1 :=
  e ▸ kept_recoverRead hk

theorem kept_recoverTile {s0 s : State} {t : Tensor} {tile : Nat} {tier mirror replica origin : RemoteRead} (hk :
    Kept s0 s) :
    Kept s0 (recoverTile s t tile tier mirror replica origin).1 := by
  unfold recoverTile
  repeat' first
    | with_reducible exact hk | split | with_reducible refine kept_recoverRead_of ?_ (by assumption)
    | with_reducible apply kept_recoverRead | with_reducible refine kept_fst ?_ (by assumption)
    | with_reducible refine kept_mk ?_ rfl rfl rfl rfl rfl rfl rfl rfl | dsimp only

theorem kept_recoverTile_of {s0 s : State} {t : Tensor} {tile : Nat} {tier mirror replica origin : RemoteRead}
    {r : State × Option (Nat × Bytes)} (hk : Kept s0 s)
    (e : recoverTile s t tile tier mirror replica origin = r) : Kept s0 r.1 :=
  e ▸ kept_recoverTile hk

theorem kept_rewriteTile {s0 s : State} {t : Tensor} {tile : Nat} {b : Bytes} (hk : Kept s0 s) :
    Kept s0 (rewriteTile s t tile b) := by
  unfold rewriteTile
  try dsimp only
  repeat' first
    | with_reducible exact hk | split | with_reducible apply kept_writeAny
    | with_reducible refine kept_fst ?_ (by assumption) | dsimp only

theorem kept_failRecovery {s0 s : State} {m : Nat} {f : FolioId} {c : FolioCopy} (hk : Kept s0 s) :
    Kept s0 (failRecovery s m f c) := by
  unfold failRecovery
  try dsimp only
  repeat' first
    | with_reducible exact hk | with_reducible exact Kept.refl _ | intro _ | split | with_reducible apply kept_copyMod
    | with_reducible apply kept_damageTensor | with_reducible apply kept_logRecovery
    | with_reducible refine kept_mk ?_ rfl rfl rfl rfl rfl rfl rfl rfl | dsimp only

theorem kept_edgePoisonMod {s0 s : State} {h : Half} {k : Nat × Nat} {f : Option EdgePoison} (hk : Kept s0 s) :
    Kept s0 (edgePoisonMod s h k f) := by
  unfold edgePoisonMod
  try dsimp only
  repeat' first
    | with_reducible exact hk | split | with_reducible refine kept_mk ?_ rfl rfl rfl rfl rfl rfl rfl rfl | dsimp only

theorem kept_failEdge {s0 s : State} {h : Half} {k : Nat × Nat} {e : EdgePoison} (hk : Kept s0 s) :
    Kept s0 (failEdge s h k e) := by
  unfold failEdge
  repeat' first
    | with_reducible exact hk | split | with_reducible apply kept_damageTensor | with_reducible apply kept_logRecovery
    | with_reducible apply kept_edgePoisonMod | with_reducible refine kept_mk ?_ rfl rfl rfl rfl rfl rfl rfl rfl

theorem kept_edgeRecovery {s0 s : State} {h : Half} {k : Nat × Nat} {tier mirror replica origin : RemoteRead} (hk :
    Kept s0 s) :
    Kept s0 (edgeRecovery s h k tier mirror replica origin) := by
  unfold edgeRecovery
  try dsimp only
  repeat' first
    | with_reducible exact hk | split | with_reducible refine kept_recoverTile_of ?_ (by assumption)
    | with_reducible apply kept_recoverTile | with_reducible apply kept_logRecovery
    | with_reducible apply kept_rewriteTile | with_reducible apply kept_edgePoisonMod
    | with_reducible apply kept_chargeRead | with_reducible apply kept_failEdge
    | with_reducible refine kept_fst ?_ (by assumption)
    | with_reducible refine kept_mk ?_ rfl rfl rfl rfl rfl rfl rfl rfl | dsimp only

theorem kept_folioRecovery {s0 s : State} {m : Nat} {f : FolioId} {tier mirror replica origin : RemoteRead} (hk :
    Kept s0 s) :
    Kept s0 (folioRecovery s m f tier mirror replica origin) := by
  rw [folioRecovery]
  repeat' first
    | with_reducible exact hk | with_reducible exact Kept.refl _ | intro _ | split
    | with_reducible refine kept_recoverTile_of ?_ (by assumption) | with_reducible apply kept_recoverTile
    | with_reducible apply kept_rewriteTile | with_reducible apply kept_logRecovery
    | with_reducible apply kept_chargeRead | with_reducible apply kept_copyMod | with_reducible apply kept_failRecovery
    | with_reducible refine kept_rtRead_of ?_ (by assumption) | with_reducible apply kept_rtRead
    | with_reducible refine kept_fst ?_ (by assumption)
    | with_reducible refine kept_mk ?_ rfl rfl rfl rfl rfl rfl rfl rfl | dsimp only

theorem kept_execFolioRecovery {s0 : State} {slice : Nat} {folio : FolioId} {reads : FirstReads}
    {replica origin : RemoteRead} {s : State} (hk : Kept s0 s) :
    KeptOut s0 (execFolioRecovery slice folio reads replica origin s) := by
  unfold execFolioRecovery
  repeat' first
    | with_reducible apply keptOut_next | with_reducible exact hk | split | with_reducible apply kept_edgeRecovery
    | with_reducible apply kept_folioRecovery | with_reducible refine kept_fst ?_ (by assumption)
    | with_reducible refine kept_mk ?_ rfl rfl rfl rfl rfl rfl rfl rfl

theorem kept_execRecoveryBudgetExpiry {s0 : State} {slice : Nat} {folio : FolioId} {s : State} (hk : Kept s0 s) :
    KeptOut s0 (execRecoveryBudgetExpiry slice folio s) := by
  unfold execRecoveryBudgetExpiry
  repeat' first
    | with_reducible apply keptOut_next | with_reducible exact hk | split | with_reducible apply kept_failEdge
    | with_reducible apply kept_failRecovery | with_reducible refine kept_fst ?_ (by assumption)
    | with_reducible refine kept_mk ?_ rfl rfl rfl rfl rfl rfl rfl rfl

theorem kept_wcComplete {s0 s : State} {id : Nat} (hk : Kept s0 s) : Kept s0 (wcComplete s id) := by
  unfold wcComplete
  try dsimp only
  repeat' first
    | with_reducible exact hk | with_reducible exact Kept.refl _ | intro _ | split
    | with_reducible apply kept_completeSrc | with_reducible apply kept_tensorMod
    | with_reducible refine kept_mk ?_ rfl rfl rfl rfl rfl rfl rfl rfl | dsimp only

theorem kept_wcTablesDue {s0 s : State} {remote : RemoteRead} {t : Tensor} {w : WorkCopy} {cls tile : Nat} (hk : Kept
    s0 s) :
    Kept s0 (wcTablesDue s remote t w cls tile) := by
  unfold wcTablesDue
  try dsimp only
  repeat' first
    | with_reducible exact hk | with_reducible exact Kept.refl _ | intro _ | split | with_reducible apply kept_wcTables
    | dsimp only

theorem kept_execTilePresenceSet {s0 : State} {tensor tile : Nat} {remote : RemoteRead} {s : State} (hk : Kept s0 s) :
    KeptOut s0 (execTilePresenceSet tensor tile remote s) := by
  unfold execTilePresenceSet
  try dsimp only
  repeat' first
    | with_reducible apply keptOut_next | with_reducible exact hk | with_reducible exact Kept.refl _ | intro _ | split
    | with_reducible refine kept_readFolio_of ?_ (by assumption) | with_reducible apply kept_readFolio
    | with_reducible apply kept_askTile | with_reducible apply kept_wcTablesDue | with_reducible apply kept_chargeRead
    | with_reducible apply kept_rtWrite | with_reducible apply kept_chargeWrite | with_reducible apply kept_tensorMod
    | with_reducible apply kept_wcComplete | with_reducible refine kept_fst ?_ (by assumption)
    | with_reducible refine kept_mk ?_ rfl rfl rfl rfl rfl rfl rfl rfl | dsimp only

end Sys2Proof.Machine
end

