-- ==== Sys2Proof/Laws/KeptStepCommon.lean ====
section
/-! SUPPORT. What the operations of StepCommon keep. -/

namespace Sys2Proof.Machine

set_option Elab.async false
set_option linter.all false

theorem kept_finishStep {s0 s : State} {n iter step rc recRc : Nat} (hk : Kept s0 s) :
    Kept s0 (finishStep s n iter step rc recRc) := by
  unfold finishStep
  try dsimp only
  repeat' first
    | with_reducible exact hk | with_reducible exact Kept.refl _ | intro _ | split | with_reducible apply kept_ctxMod
    | with_reducible apply kept_dropUses | with_reducible apply kept_stopCtx
    | with_reducible refine kept_fst ?_ (by assumption)
    | with_reducible refine kept_mk ?_ rfl rfl rfl rfl rfl rfl rfl rfl | dsimp only

theorem kept_passStep {s0 s : State} {n : Nat} (hk : Kept s0 s) : Kept s0 (passStep s n) := by
  unfold passStep
  try dsimp only
  repeat' first
    | with_reducible exact hk | with_reducible exact Kept.refl _ | intro _ | split | with_reducible apply kept_ctxMod
    | with_reducible apply kept_stopCtx | with_reducible refine kept_mk ?_ rfl rfl rfl rfl rfl rfl rfl rfl | dsimp only

theorem kept_doneStep {s0 s : State} {n : Nat} {x : Ctx} {rc : Nat} (hk : Kept s0 s) : Kept s0 (doneStep s n x rc) :=
  kept_passStep (kept_finishStep hk)

theorem kept_runStep {s0 s : State} {n op : Nat} {body : State → Volume → Ctx → VStep → State} (h_body : ∀ a0 a1 a2
    a3, Kept a0 (body a0 a1 a2 a3)) (hk : Kept s0 s) :
    Kept s0 (runStep s n op body) := by
  unfold runStep
  try dsimp only
  repeat' first
    | with_reducible exact hk | with_reducible exact Kept.refl _ | intro _ | split
    | with_reducible refine Kept.trans ?_ (h_body ..) | with_reducible apply kept_settleLate
    | with_reducible apply kept_startWake | with_reducible refine kept_fst ?_ (by assumption)
    | with_reducible refine kept_mk ?_ rfl rfl rfl rfl rfl rfl rfl rfl | dsimp only

theorem kept_schedStep {s0 s : State} {n op : Nat} {body : State → Volume → Ctx → VStep → State} (h_body : ∀ a0 a1 a2
    a3, Kept a0 (body a0 a1 a2 a3)) (hk : Kept s0 s) :
    Kept s0 (schedStep s n op body) := by
  unfold schedStep
  try dsimp only
  repeat' first
    | with_reducible exact hk | with_reducible exact Kept.refl _ | intro _ | split
    | with_reducible refine Kept.trans ?_ (h_body ..) | with_reducible apply kept_settleLate
    | with_reducible refine kept_fst ?_ (by assumption)
    | with_reducible refine kept_mk ?_ rfl rfl rfl rfl rfl rfl rfl rfl | dsimp only

theorem kept_sramWord {s0 s : State} {k : Nat × Nat × Nat} (hk : Kept s0 s) : Kept s0 (sramWord s k).1 := by
  unfold sramWord
  try dsimp only
  repeat' first
    | with_reducible exact hk | split | with_reducible apply kept_sramEvent
    | with_reducible refine kept_fst ?_ (by assumption)
    | with_reducible refine kept_mk ?_ rfl rfl rfl rfl rfl rfl rfl rfl | dsimp only

theorem kept_sramWord_of {s0 s : State} {k : Nat × Nat × Nat} {r : State × Option (BitVec 32)} (hk : Kept s0 s)
    (e : sramWord s k = r) : Kept s0 r.1 :=
  e ▸ kept_sramWord hk

theorem kept_vuWords {s0 s : State} {n : Nat} {h : Half} {l : List ((Nat × Nat × Nat) × Nat)} (hk : Kept s0 s) :
    Kept s0 (vuWords s n h l).1 := by
  unfold vuWords
  try dsimp only
  repeat' first
    | with_reducible exact hk | with_reducible exact Kept.refl _ | intro _ | split
    | with_reducible refine kept_sramWord_of ?_ (by assumption) | with_reducible apply kept_sramWord
    | with_reducible apply kept_ctxMod | with_reducible apply kept_foldl
    | with_reducible refine kept_fst ?_ (by assumption) | with_reducible apply kept_foldl_fst
    | with_reducible refine kept_mk ?_ rfl rfl rfl rfl rfl rfl rfl rfl | dsimp only

theorem kept_vuWords_of {s0 s : State} {n : Nat} {h : Half} {l : List ((Nat × Nat × Nat) × Nat)} {r : State × Bool}
    (hk : Kept s0 s)
    (e : vuWords s n h l = r) : Kept s0 r.1 :=
  e ▸ kept_vuWords hk

theorem kept_splitsRead {s0 s : State} {n : Nat} {v : Volume} {i : Nat} (hk : Kept s0 s) :
    Kept s0 (splitsRead s n v i) := by
  unfold splitsRead
  try dsimp only
  repeat' first
    | with_reducible exact hk | with_reducible exact Kept.refl _ | intro _ | split
    | with_reducible apply kept_splitsPay | with_reducible refine kept_mk ?_ rfl rfl rfl rfl rfl rfl rfl rfl
    | dsimp only

theorem kept_readOper {s0 s : State} {n : Nat} {v : Volume} {i : Nat} {remote : RemoteRead} (hk : Kept s0 s) :
    Kept s0 (readOper s n v i remote).1 := by
  unfold readOper
  try dsimp only
  repeat' first
    | with_reducible exact hk | split | with_reducible apply kept_splitsRead
    | with_reducible refine kept_vuWords_of ?_ (by assumption) | with_reducible apply kept_vuWords
    | with_reducible refine kept_readAny_of ?_ (by assumption) | with_reducible apply kept_readAny
    | with_reducible apply kept_chargeRead | with_reducible refine kept_fst ?_ (by assumption)
    | with_reducible refine kept_mk ?_ rfl rfl rfl rfl rfl rfl rfl rfl | dsimp only

theorem kept_readOper_of {s0 s : State} {n : Nat} {v : Volume} {i : Nat} {remote : RemoteRead}
    {r : State × Bytes × Bool} (hk : Kept s0 s)
    (e : readOper s n v i remote = r) : Kept s0 r.1 :=
  e ▸ kept_readOper hk

theorem kept_holdActs {s0 s : State} {homes : List (Nat × Bool)} (hk : Kept s0 s) : Kept s0 (holdActs s homes) := by
  unfold holdActs
  try dsimp only
  repeat' first
    | with_reducible exact hk | with_reducible exact Kept.refl _ | intro _ | with_reducible apply kept_setActHalf
    | with_reducible apply kept_muMod | with_reducible apply kept_foldl
    | with_reducible refine kept_mk ?_ rfl rfl rfl rfl rfl rfl rfl rfl | dsimp only

theorem kept_fillActs {s0 s : State} {n : Nat} {a : ActBuf} (hk : Kept s0 s) : Kept s0 (fillActs s n a) := by
  unfold fillActs
  try dsimp only
  repeat' first
    | with_reducible exact hk | with_reducible exact Kept.refl _ | intro _ | with_reducible apply kept_setActHalf
    | with_reducible apply kept_muMod | with_reducible apply kept_ctxMod | with_reducible apply kept_foldl
    | with_reducible refine kept_mk ?_ rfl rfl rfl rfl rfl rfl rfl rfl | dsimp only

theorem kept_consumeAct {s0 s : State} {n i : Nat} (hk : Kept s0 s) : Kept s0 (consumeAct s n i) := by
  unfold consumeAct
  try dsimp only
  repeat' first
    | with_reducible exact hk | with_reducible exact Kept.refl _ | intro _ | split
    | with_reducible apply kept_setActHalf | with_reducible apply kept_ctxMod | with_reducible apply kept_foldl
    | with_reducible refine kept_mk ?_ rfl rfl rfl rfl rfl rfl rfl rfl | dsimp only

theorem kept_resultWrite {s0 s : State} {x : Ctx} {off : Nat} {b : Bytes} {poison : Bool} (hk : Kept s0 s) :
    Kept s0 (resultWrite s x off b poison) := by
  unfold resultWrite
  try dsimp only
  repeat' first
    | with_reducible exact hk | split | with_reducible apply kept_chargeWrite | with_reducible apply kept_dramPoison
    | with_reducible apply kept_writeAny | with_reducible apply kept_emit | with_reducible apply kept_chargeHostTx
    | with_reducible refine kept_mk ?_ rfl rfl rfl rfl rfl rfl rfl rfl | dsimp only

theorem kept_putOperAt {s0 s : State} {n : Nat} {v : Volume} {homes : List (Nat × Bool)} {i : Nat}
    {pieces : List (Nat × Bytes)} (hk : Kept s0 s) :
    Kept s0 (putOperAt s n v homes i pieces) := by
  unfold putOperAt
  try dsimp only
  repeat' first
    | with_reducible exact hk | with_reducible exact Kept.refl _ | intro _ | split | with_reducible apply kept_ctxMod
    | with_reducible apply kept_fillActs | with_reducible apply kept_resultWrite
    | with_reducible apply kept_chargeWrite | with_reducible apply kept_writeAny | with_reducible apply kept_foldl
    | with_reducible refine kept_mk ?_ rfl rfl rfl rfl rfl rfl rfl rfl | dsimp only

theorem kept_putOper {s0 s : State} {n : Nat} {v : Volume} {x : Ctx} {i : Nat} {pieces : List (Nat × Bytes)} (hk :
    Kept s0 s) :
    Kept s0 (putOper s n v x i pieces) := by
  unfold putOper
  repeat' first
    | with_reducible exact hk | with_reducible apply kept_putOperAt

theorem kept_poisonOperAt {s0 s : State} {n : Nat} {v : Volume} {homes : List (Nat × Bool)} {i : Nat} (hk : Kept s0
    s) :
    Kept s0 (poisonOperAt s n v homes i) := by
  unfold poisonOperAt
  try dsimp only
  repeat' first
    | with_reducible exact hk | with_reducible exact Kept.refl _ | intro _ | split | with_reducible apply kept_ctxMod
    | with_reducible apply kept_fillActs | with_reducible apply kept_resultWrite | with_reducible apply kept_dramPoison
    | with_reducible refine kept_mk ?_ rfl rfl rfl rfl rfl rfl rfl rfl | dsimp only

theorem kept_poisonOper {s0 s : State} {n : Nat} {v : Volume} {x : Ctx} {i : Nat} (hk : Kept s0 s) :
    Kept s0 (poisonOper s n v x i) := by
  unfold poisonOper
  repeat' first
    | with_reducible exact hk | with_reducible apply kept_poisonOperAt

theorem kept_satCount {s0 s : State} {n : Nat} {v : Volume} {b : Blame} {k : Nat} (hk : Kept s0 s) :
    Kept s0 (satCount s n v b k) := by
  unfold satCount
  repeat' first
    | with_reducible exact hk | split | with_reducible apply kept_satAdd
    | with_reducible refine kept_mk ?_ rfl rfl rfl rfl rfl rfl rfl rfl

theorem kept_writeEncodedAt {s0 s : State} {n : Nat} {v : Volume} {x : Ctx} {st : VStep} {homes : List (Nat × Bool)}
    {i : Nat} {e : Encoded} {total : Nat} {own : Bool} (hk : Kept s0 s) :
    Kept s0 (writeEncodedAt s n v x st homes i e total own) := by
  unfold writeEncodedAt
  try dsimp only
  repeat' first
    | with_reducible exact hk | with_reducible exact Kept.refl _ | intro _ | split
    | with_reducible apply kept_putOperAt | with_reducible apply kept_ctxMod | with_reducible apply kept_countEvents
    | with_reducible apply kept_satCount | with_reducible apply kept_splitsPay
    | with_reducible refine kept_mk ?_ rfl rfl rfl rfl rfl rfl rfl rfl | dsimp only

theorem kept_writeEncoded {s0 s : State} {n : Nat} {v : Volume} {x : Ctx} {st : VStep} {i : Nat} {e : Encoded}
    {total : Nat} {own : Bool} (hk : Kept s0 s) :
    Kept s0 (writeEncoded s n v x st i e total own) := by
  unfold writeEncoded
  repeat' first
    | with_reducible exact hk | with_reducible apply kept_writeEncodedAt

theorem kept_refuseStep {s0 s : State} {n : Nat} {x : Ctx} {a rc : Nat} (hk : Kept s0 s) :
    Kept s0 (refuseStep s n x a rc) :=
  kept_doneStep (kept_logRefused hk)

theorem kept_poisonStep {s0 s : State} {n : Nat} {v : Volume} {x : Ctx} {outs : List Nat} (hk : Kept s0 s) :
    Kept s0 (poisonStep s n v x outs) := by
  unfold poisonStep
  try dsimp only
  repeat' first
    | with_reducible exact hk | with_reducible exact Kept.refl _ | intro _ | with_reducible apply kept_doneStep
    | with_reducible apply kept_poisonOper | with_reducible apply kept_foldl | dsimp only

end Sys2Proof.Machine
end

