-- ==== Sys2Proof/Laws/KeptLanes.lean ====
section
/-! SUPPORT. What the operations of Lanes keep. -/

namespace Sys2Proof.Machine

set_option Elab.async false
set_option linter.all false

theorem kept_copyWords {s0 s : State} {k : Nat × FolioId} (hk : Kept s0 s) : Kept s0 (copyWords s k) := by
  unfold copyWords
  try dsimp only
  repeat' first
    | with_reducible exact hk | with_reducible exact Kept.refl _ | intro _ | split
    | with_reducible refine kept_sramWord_of ?_ (by assumption) | with_reducible apply kept_sramWord
    | with_reducible apply kept_copyMod | with_reducible apply kept_poisonCopy | with_reducible apply kept_foldl
    | with_reducible refine kept_fst ?_ (by assumption) | with_reducible apply kept_foldl_fst
    | with_reducible refine kept_mk ?_ rfl rfl rfl rfl rfl rfl rfl rfl | dsimp only

end Sys2Proof.Machine
end

