-- ==== Sys2Proof/Laws/KeptProbe.lean ====
section
/-! SUPPORT. What the operations of Probe keep. -/

namespace Sys2Proof.Machine

set_option Elab.async false
set_option linter.all false

theorem kept_probeCount {s0 s : State} {id : Nat} {r : ProbeRun} (hk : Kept s0 s) : Kept s0 (probeCount s id r) :=
  kept_mk hk rfl rfl rfl rfl rfl rfl rfl rfl

theorem kept_openInvest {s0 s : State} {id m : Nat} {p : Probe} (hk : Kept s0 s) : Kept s0 (openInvest s id m p) :=
  kept_mk hk rfl rfl rfl rfl rfl rfl rfl rfl

theorem kept_probeOn {s0 s : State} {m id : Nat} {p : Probe} (hk : Kept s0 s) : Kept s0 (probeOn s m id p).1 := by
  unfold probeOn
  try dsimp only
  repeat' first
    | with_reducible exact hk | split | with_reducible apply kept_copyWords | with_reducible apply kept_poisonCopy
    | with_reducible refine kept_fst ?_ (by assumption)
    | with_reducible refine kept_mk ?_ rfl rfl rfl rfl rfl rfl rfl rfl | dsimp only

theorem kept_probeOn_of {s0 s : State} {m id : Nat} {p : Probe} {r : State × Option (ProbeRun × Tbl Nat AccEntry)}
    (hk : Kept s0 s)
    (e : probeOn s m id p = r) : Kept s0 r.1 :=
  e ▸ kept_probeOn hk

theorem kept_probeFree {s0 s : State} {m : Nat} (hk : Kept s0 s) : Kept s0 (probeFree s m) := by
  unfold probeFree
  try dsimp only
  repeat' first
    | with_reducible exact hk | with_reducible exact Kept.refl _ | intro _ | with_reducible apply kept_muMod
    | with_reducible refine kept_mk ?_ rfl rfl rfl rfl rfl rfl rfl rfl | dsimp only

theorem kept_probeDone {s0 s : State} {m : Nat} {r : ProbeRun} (hk : Kept s0 s) : Kept s0 (probeDone s m r) := by
  unfold probeDone
  try dsimp only
  repeat' first
    | with_reducible exact hk | split | with_reducible apply kept_probeCount | with_reducible apply kept_probeFree
    | with_reducible apply kept_openInvest | dsimp only

theorem kept_probeSettle {s0 s : State} {m : Nat} (hk : Kept s0 s) : Kept s0 (probeSettle s m) := by
  unfold probeSettle
  repeat' first
    | with_reducible exact hk | split | with_reducible apply kept_probeDone
    | with_reducible refine kept_mk ?_ rfl rfl rfl rfl rfl rfl rfl rfl

theorem kept_probeYield {s0 s : State} {m : Nat} (hk : Kept s0 s) : Kept s0 (probeYield s m) := by
  unfold probeYield
  try dsimp only
  repeat' first
    | with_reducible exact hk | split | with_reducible apply kept_probeSettle | with_reducible apply kept_probeFree
    | dsimp only

theorem kept_probeStart {s0 s : State} {m id : Nat} {p : Probe} (hk : Kept s0 s) : Kept s0 (probeStart s m id p) := by
  unfold probeStart
  try dsimp only
  repeat' first
    | with_reducible exact hk | with_reducible exact Kept.refl _ | intro _ | split
    | with_reducible refine kept_probeOn_of ?_ (by assumption) | with_reducible apply kept_probeOn
    | with_reducible apply kept_muMod | with_reducible refine kept_fst ?_ (by assumption)
    | with_reducible refine kept_mk ?_ rfl rfl rfl rfl rfl rfl rfl rfl | dsimp only

theorem kept_probeRun {s0 s : State} {m : Nat} (hk : Kept s0 s) : Kept s0 (probeRun s m) := by
  unfold probeRun
  try dsimp only
  repeat' first
    | with_reducible exact hk | with_reducible exact Kept.refl _ | intro _ | split
    | with_reducible apply kept_probeSettle | with_reducible apply kept_probeStart | with_reducible apply kept_muMod
    | with_reducible refine kept_mk ?_ rfl rfl rfl rfl rfl rfl rfl rfl | dsimp only

theorem kept_execProbeRun {s0 : State} {mu : Nat} {s : State} (hk : Kept s0 s) : KeptOut s0 (execProbeRun mu s) :=
  keptOut_next (kept_probeRun hk)

theorem kept_probeForced {s0 s : State} {m id : Nat} {p : Probe} (hk : Kept s0 s) :
    Kept s0 (probeForced s m id p).1 := by
  unfold probeForced
  try dsimp only
  repeat' first
    | with_reducible exact hk | with_reducible exact Kept.refl _ | intro _ | split
    | with_reducible apply kept_probeSettle | with_reducible refine kept_probeOn_of ?_ (by assumption)
    | with_reducible apply kept_probeOn | with_reducible apply kept_probeCount | with_reducible apply kept_probeFree
    | with_reducible apply kept_muMod | with_reducible refine kept_fst ?_ (by assumption)
    | with_reducible refine kept_mk ?_ rfl rfl rfl rfl rfl rfl rfl rfl | dsimp only

theorem kept_probeForced_of {s0 s : State} {m id : Nat} {p : Probe} {r : State × Option Bool} (hk : Kept s0 s)
    (e : probeForced s m id p = r) : Kept s0 r.1 :=
  e ▸ kept_probeForced hk

theorem kept_execProbeForce {s0 : State} {tensor : Nat} {s : State} (hk : Kept s0 s) :
    KeptOut s0 (execProbeForce tensor s) := by
  unfold execProbeForce
  repeat' first
    | with_reducible apply keptOut_next | with_reducible exact hk | split
    | with_reducible refine kept_probeForced_of ?_ (by assumption) | with_reducible apply kept_probeForced
    | with_reducible apply kept_openInvest | with_reducible refine kept_fst ?_ (by assumption)
    | with_reducible refine kept_mk ?_ rfl rfl rfl rfl rfl rfl rfl rfl

theorem kept_nextStage {s0 s : State} {id n : Nat} (hk : Kept s0 s) : Kept s0 (nextStage s id n) :=
  kept_mk hk rfl rfl rfl rfl rfl rfl rfl rfl

theorem kept_execInvestigationRerun {s0 : State} {tensor : Nat} {s : State} (hk : Kept s0 s) :
    KeptOut s0 (execInvestigationRerun tensor s) := by
  unfold execInvestigationRerun
  repeat' first
    | with_reducible apply keptOut_next | with_reducible exact hk | split
    | with_reducible refine kept_probeForced_of ?_ (by assumption) | with_reducible apply kept_probeForced
    | with_reducible apply kept_closeInvest | with_reducible apply kept_nextStage
    | with_reducible refine kept_fst ?_ (by assumption)
    | with_reducible refine kept_mk ?_ rfl rfl rfl rfl rfl rfl rfl rfl

theorem kept_investFetch {s0 s : State} {t : Tensor} {tile m : Nat} {remote : RemoteRead} (hk : Kept s0 s) :
    Kept s0 (investFetch s t tile m remote).1 := by
  unfold investFetch
  try dsimp only
  repeat' first
    | with_reducible exact hk | split | with_reducible refine kept_readFolio_of ?_ (by assumption)
    | with_reducible apply kept_readFolio | with_reducible apply kept_askTile | with_reducible apply kept_chargeRead
    | with_reducible apply kept_wcRestage | with_reducible refine kept_fst ?_ (by assumption) | dsimp only

theorem kept_investFetch_of {s0 s : State} {t : Tensor} {tile m : Nat} {remote : RemoteRead}
    {r : State × Bytes × Bool} (hk : Kept s0 s)
    (e : investFetch s t tile m remote = r) : Kept s0 r.1 :=
  e ▸ kept_investFetch hk

theorem kept_investFolio {s0 s : State} {t : Tensor} {v : Investigation} {m : Nat} {remote : RemoteRead} (hk : Kept
    s0 s) :
    Kept s0 (investFolio s t v m remote).1 := by
  unfold investFolio
  try dsimp only
  repeat' first
    | with_reducible exact hk | with_reducible exact Kept.refl _ | intro _ | split
    | with_reducible refine kept_investFetch_of ?_ (by assumption) | with_reducible apply kept_investFetch
    | with_reducible apply kept_tensorMod | with_reducible refine kept_fst ?_ (by assumption)
    | with_reducible refine kept_mk ?_ rfl rfl rfl rfl rfl rfl rfl rfl | dsimp only

theorem kept_investFolio_of {s0 s : State} {t : Tensor} {v : Investigation} {m : Nat} {remote : RemoteRead}
    {r : State × Bytes × Bool} (hk : Kept s0 s)
    (e : investFolio s t v m remote = r) : Kept s0 r.1 :=
  e ▸ kept_investFolio hk

theorem kept_probeFetched {s0 s : State} {m id : Nat} {t : TParams} {p : Probe} {b : Bytes} (hk : Kept s0 s) :
    Kept s0 (probeFetched s m id t p b).1 := by
  unfold probeFetched
  try dsimp only
  repeat' first
    | with_reducible exact hk | with_reducible exact Kept.refl _ | intro _ | split
    | with_reducible apply kept_probeSettle | with_reducible apply kept_probeCount
    | with_reducible apply kept_probeFree | with_reducible apply kept_muMod
    | with_reducible refine kept_fst ?_ (by assumption)
    | with_reducible refine kept_mk ?_ rfl rfl rfl rfl rfl rfl rfl rfl | dsimp only

theorem kept_probeFetched_of {s0 s : State} {m id : Nat} {t : TParams} {p : Probe} {b : Bytes}
    {r : State × Option (Option Bool)} (hk : Kept s0 s)
    (e : probeFetched s m id t p b = r) : Kept s0 r.1 :=
  e ▸ kept_probeFetched hk

theorem kept_keepCopy {s0 s : State} {m q : Nat} {f : FolioId} {b : Bytes} (hk : Kept s0 s) :
    Kept s0 (keepCopy s m q f b) := by
  unfold keepCopy
  try dsimp only
  repeat' first
    | with_reducible exact hk | with_reducible exact Kept.refl _ | intro _ | split | with_reducible apply kept_copyMod
    | with_reducible apply kept_charge | with_reducible refine kept_fst ?_ (by assumption)
    | with_reducible refine kept_mk ?_ rfl rfl rfl rfl rfl rfl rfl rfl | dsimp only

theorem kept_execInvestigationRefetch {s0 : State} {tensor : Nat} {remote : RemoteRead} {s : State} (hk : Kept s0 s) :
    KeptOut s0 (execInvestigationRefetch tensor remote s) := by
  unfold execInvestigationRefetch
  try dsimp only
  repeat' first
    | with_reducible apply keptOut_next | with_reducible exact hk | split
    | with_reducible refine kept_investFolio_of ?_ (by assumption) | with_reducible apply kept_investFolio
    | with_reducible apply kept_closeInvest | with_reducible apply kept_poisonCopy
    | with_reducible refine kept_probeFetched_of ?_ (by assumption) | with_reducible apply kept_probeFetched
    | with_reducible apply kept_keepCopy | with_reducible apply kept_nextStage
    | with_reducible refine kept_fst ?_ (by assumption)
    | with_reducible refine kept_mk ?_ rfl rfl rfl rfl rfl rfl rfl rfl | dsimp only

theorem kept_execInvestigationOtherMu {s0 : State} {tensor : Nat} {remote : RemoteRead} {s : State} (hk : Kept s0 s) :
    KeptOut s0 (execInvestigationOtherMu tensor remote s) := by
  unfold execInvestigationOtherMu
  try dsimp only
  repeat' first
    | with_reducible apply keptOut_next | with_reducible exact hk | split
    | with_reducible refine kept_investFolio_of ?_ (by assumption) | with_reducible apply kept_investFolio
    | with_reducible apply kept_closeInvest | with_reducible refine kept_probeFetched_of ?_ (by assumption)
    | with_reducible apply kept_probeFetched | with_reducible apply kept_abandonOn
    | with_reducible refine kept_fst ?_ (by assumption)
    | with_reducible refine kept_mk ?_ rfl rfl rfl rfl rfl rfl rfl rfl | dsimp only

theorem kept_execInvestigationTimeout {s0 : State} {tensor : Nat} {s : State} (hk : Kept s0 s) :
    KeptOut s0 (execInvestigationTimeout tensor s) := by
  unfold execInvestigationTimeout
  repeat' first
    | with_reducible apply keptOut_next | with_reducible exact hk | split | with_reducible apply kept_closeInvest
    | with_reducible refine kept_mk ?_ rfl rfl rfl rfl rfl rfl rfl rfl

end Sys2Proof.Machine
end

