-- ==== Sys2Proof/Laws/KeptStepMatrix.lean ====
section
/-! SUPPORT. What the operations of StepMatrix keep. -/

namespace Sys2Proof.Machine

set_option Elab.async false
set_option linter.all false

theorem kept_noteTensor {s0 s : State} {n id : Nat} (hk : Kept s0 s) : Kept s0 (noteTensor s n id) :=
  kept_mk hk rfl rfl rfl rfl rfl rfl rfl rfl

theorem kept_storeGrants {s0 s : State} {units : List Nat} (hk : Kept s0 s) : Kept s0 (storeGrants s units) :=
  kept_mk hk rfl rfl rfl rfl rfl rfl rfl rfl

theorem kept_keepAcc {s0 s : State} {shape passes : Nat} {cols : List (List (List (Nat × Lane)))} (hk : Kept s0 s) :
    Kept s0 (keepAcc s shape passes cols) := by
  unfold keepAcc
  try dsimp only
  repeat' first
    | with_reducible exact hk | with_reducible exact Kept.refl _ | intro _ | with_reducible apply kept_muMod
    | with_reducible apply kept_foldl | with_reducible apply kept_foldl_fst
    | with_reducible refine kept_mk ?_ rfl rfl rfl rfl rfl rfl rfl rfl | dsimp only

theorem kept_matrixOut {s0 s : State} {n : Nat} {v : Volume} {x : Ctx} {st : VStep}
    {lanes : List (List (List (Nat × Lane)))} (hk : Kept s0 s) :
    Kept s0 (matrixOut s n v x st lanes) := by
  unfold matrixOut
  try dsimp only
  repeat' first
    | with_reducible exact hk | with_reducible exact Kept.refl _ | intro _ | with_reducible apply kept_storeGrants
    | with_reducible apply kept_keepAcc | with_reducible apply kept_countEvents
    | with_reducible apply kept_writeEncoded | with_reducible apply kept_foldl | with_reducible apply kept_foldl_fst
    | dsimp only

theorem kept_matvecRun {s0 s : State} {n : Nat} {v : Volume} {x : Ctx} {st : VStep} {t : Tensor}
    {tiles : List ExpTile} {act : Bytes} {wiped : List Nat} (hk : Kept s0 s) :
    Kept s0 (matvecRun s n v x st t tiles act wiped) := by
  unfold matvecRun
  try dsimp only
  repeat' first
    | with_reducible exact hk | with_reducible exact Kept.refl _ | intro _ | split
    | with_reducible apply kept_tensorEvents | with_reducible apply kept_bump | with_reducible apply kept_satCount
    | with_reducible apply kept_doneStep | with_reducible apply kept_matrixOut | with_reducible apply kept_foldl
    | with_reducible apply kept_foldl_fst | dsimp only

theorem kept_stepSpoilt {s0 s : State} {n : Nat} {v : Volume} {x : Ctx} {st : VStep} (hk : Kept s0 s) :
    Kept s0 (stepSpoilt s n v x st) := by
  unfold stepSpoilt
  repeat' first
    | with_reducible exact hk | split | with_reducible apply kept_refuseStep | with_reducible apply kept_consumeAct
    | with_reducible apply kept_poisonStep | with_reducible refine kept_fst ?_ (by assumption)
    | with_reducible refine kept_mk ?_ rfl rfl rfl rfl rfl rfl rfl rfl

theorem kept_matvecBody {s0 : State} {n : Nat} {remote : RemoteRead} {s : State} {v : Volume} {x : Ctx} {st : VStep}
    (hk : Kept s0 s) :
    Kept s0 (matvecBody n remote s v x st) := by
  unfold matvecBody
  try dsimp only
  repeat' first
    | with_reducible exact hk | with_reducible exact Kept.refl _ | intro _ | split
    | with_reducible apply kept_stepSpoilt | with_reducible apply kept_noteTensor | with_reducible apply kept_copyWords
    | with_reducible apply kept_probeYield | with_reducible apply kept_refuseStep
    | with_reducible apply kept_consumeAct | with_reducible apply kept_poisonStep
    | with_reducible apply kept_poisonCopy | with_reducible refine kept_readOper_of ?_ (by assumption)
    | with_reducible apply kept_readOper | with_reducible apply kept_matvecRun | with_reducible apply kept_foldl
    | with_reducible refine kept_fst ?_ (by assumption) | with_reducible apply kept_foldl_fst
    | with_reducible refine kept_mk ?_ rfl rfl rfl rfl rfl rfl rfl rfl | dsimp only

theorem kept_execMatvec {s0 : State} {ctx : Nat} {remote : RemoteRead} {s : State} (hk : Kept s0 s) :
    KeptOut s0 (execMatvec ctx remote s) := by
  unfold execMatvec
  repeat' first
    | with_reducible apply keptOut_next | with_reducible exact hk | with_reducible exact Kept.refl _ | intro _
    | with_reducible apply kept_runStep | with_reducible apply kept_matvecBody

theorem kept_attnLimit {s0 s : State} {n : Nat} {x : Ctx} {st : VStep} {k : KvObj} {len : Nat} (hk : Kept s0 s) :
    Kept s0 (attnLimit s n x st k len) :=
  kept_doneStep (kept_logNow hk)

theorem kept_attnRun {s0 s : State} {n : Nat} {v : Volume} {x : Ctx} {st : VStep} {k : KvObj} {ps : List PageIn}
    {p0 len : Nat} {act : Bytes} {wiped : List Nat} (hk : Kept s0 s) :
    Kept s0 (attnRun s n v x st k ps p0 len act wiped) := by
  unfold attnRun
  try dsimp only
  repeat' first
    | with_reducible exact hk | with_reducible exact Kept.refl _ | intro _ | split | with_reducible apply kept_doneStep
    | with_reducible apply kept_matrixOut | with_reducible apply kept_foldl | dsimp only

theorem kept_attnBody {s0 : State} {n : Nat} {remote : RemoteRead} {s : State} {v : Volume} {x : Ctx} {st : VStep}
    (hk : Kept s0 s) :
    Kept s0 (attnBody n remote s v x st) := by
  unfold attnBody
  try dsimp only
  repeat' first
    | with_reducible exact hk | with_reducible exact Kept.refl _ | intro _ | split
    | with_reducible apply kept_stepSpoilt | with_reducible apply kept_doneStep | with_reducible apply kept_consumeAct
    | with_reducible apply kept_refuseStep | with_reducible apply kept_attnLimit | with_reducible apply kept_copyWords
    | with_reducible apply kept_poisonStep | with_reducible apply kept_probeYield
    | with_reducible refine kept_readOper_of ?_ (by assumption) | with_reducible apply kept_readOper
    | with_reducible apply kept_attnRun | with_reducible apply kept_foldl
    | with_reducible refine kept_fst ?_ (by assumption) | with_reducible apply kept_foldl_fst
    | with_reducible refine kept_mk ?_ rfl rfl rfl rfl rfl rfl rfl rfl | dsimp only

theorem kept_execAttnScore {s0 : State} {ctx : Nat} {remote : RemoteRead} {s : State} (hk : Kept s0 s) :
    KeptOut s0 (execAttnScore ctx remote s) := by
  unfold execAttnScore
  repeat' first
    | with_reducible apply keptOut_next | with_reducible exact hk | with_reducible exact Kept.refl _ | intro _
    | with_reducible apply kept_runStep | with_reducible apply kept_attnBody

theorem kept_execAttnValue {s0 : State} {ctx : Nat} {remote : RemoteRead} {s : State} (hk : Kept s0 s) :
    KeptOut s0 (execAttnValue ctx remote s) := by
  unfold execAttnValue
  repeat' first
    | with_reducible apply keptOut_next | with_reducible exact hk | with_reducible exact Kept.refl _ | intro _
    | with_reducible apply kept_runStep | with_reducible apply kept_attnBody

theorem kept_pageFill {s0 s : State} {n : Nat} {k : KvObj} {head run e fill : Nat} {tau : Option Int} (hk : Kept s0
    s) :
    Kept s0 (pageFill s n k head run e fill tau) := by
  unfold pageFill
  try dsimp only
  repeat' first
    | with_reducible exact hk | with_reducible exact Kept.refl _ | intro _ | split
    | with_reducible apply kept_kvPageSet | with_reducible refine kept_mk ?_ rfl rfl rfl rfl rfl rfl rfl rfl
    | dsimp only

theorem kept_appendRow {s0 s : State} {n : Nat} {k : KvObj} {head run e pos : Nat} {row : Bytes} {tau : Option Int}
    (hk : Kept s0 s) :
    Kept s0 (appendRow s n k head run e pos row tau) := by
  unfold appendRow
  try dsimp only
  repeat' first
    | with_reducible exact hk | with_reducible exact Kept.refl _ | intro _ | split
    | with_reducible apply kept_chargeWrite | with_reducible apply kept_writeAny | with_reducible apply kept_pageFill
    | with_reducible refine kept_mk ?_ rfl rfl rfl rfl rfl rfl rfl rfl | dsimp only

theorem kept_appendPoison {s0 s : State} {n : Nat} {k : KvObj} {head run e pos : Nat} (hk : Kept s0 s) :
    Kept s0 (appendPoison s n k head run e pos) := by
  unfold appendPoison
  try dsimp only
  repeat' first
    | with_reducible exact hk | with_reducible exact Kept.refl _ | intro _ | split
    | with_reducible apply kept_dramPoison | with_reducible apply kept_poisonCopy | with_reducible apply kept_pageFill
    | with_reducible apply kept_foldl | with_reducible apply kept_foldl_fst | dsimp only

theorem kept_appendHead {s0 s : State} {n : Nat} {x : Ctx} {k : KvObj} {head : Nat} {keys vals : List Nat}
    {poison : Bool} (hk : Kept s0 s) :
    Kept s0 (appendHead s n x k head keys vals poison).1 := by
  unfold appendHead
  try dsimp only
  repeat' first
    | with_reducible exact hk | split | with_reducible apply kept_appendPoison | with_reducible apply kept_appendRow
    | with_reducible apply kept_kvEvents | with_reducible apply kept_logNow
    | with_reducible refine kept_fst ?_ (by assumption)
    | with_reducible refine kept_mk ?_ rfl rfl rfl rfl rfl rfl rfl rfl | dsimp only

theorem kept_appendHead_of {s0 s : State} {n : Nat} {x : Ctx} {k : KvObj} {head : Nat} {keys vals : List Nat}
    {poison : Bool} {r : State × Bool} (hk : Kept s0 s)
    (e : appendHead s n x k head keys vals poison = r) : Kept s0 r.1 :=
  e ▸ kept_appendHead hk

theorem kept_appendBody {s0 : State} {n : Nat} {s : State} {v : Volume} {x : Ctx} {st : VStep} (hk : Kept s0 s) :
    Kept s0 (appendBody n s v x st) := by
  unfold appendBody
  try dsimp only
  repeat' first
    | with_reducible exact hk | with_reducible exact Kept.refl _ | intro _ | split
    | with_reducible apply kept_poisonStep | with_reducible apply kept_refuseStep
    | with_reducible refine kept_readOper_of ?_ (by assumption) | with_reducible apply kept_readOper
    | with_reducible refine kept_appendHead_of ?_ (by assumption) | with_reducible apply kept_appendHead
    | with_reducible apply kept_doneStep | with_reducible apply kept_foldl
    | with_reducible refine kept_fst ?_ (by assumption) | with_reducible apply kept_foldl_fst
    | with_reducible refine kept_mk ?_ rfl rfl rfl rfl rfl rfl rfl rfl | dsimp only

theorem kept_execKvAppend {s0 : State} {ctx : Nat} {s : State} (hk : Kept s0 s) : KeptOut s0 (execKvAppend ctx s) := by
  unfold execKvAppend
  repeat' first
    | with_reducible apply keptOut_next | with_reducible exact hk | with_reducible exact Kept.refl _ | intro _
    | with_reducible apply kept_runStep | with_reducible apply kept_appendBody

end Sys2Proof.Machine
end

