-- ==== Sys2Proof/Laws/KeptBench.lean ====
section
/-! SUPPORT. What the operations of Bench keep. -/

namespace Sys2Proof.Machine

set_option Elab.async false
set_option linter.all false

theorem kept_benchResult {s0 s : State} {result position : Nat} (hk : Kept s0 s) :
    Kept s0 (benchResult s result position) :=
  kept_mk hk rfl rfl rfl rfl rfl rfl rfl rfl

theorem kept_benchWrote {s0 s : State} (hk : Kept s0 s) : Kept s0 (benchWrote s) := kept_bump (kept_benchResult hk)

theorem kept_benchRefuse {s0 s : State} (hk : Kept s0 s) : Kept s0 (benchRefuse s) :=
  kept_mk hk rfl rfl rfl rfl rfl rfl rfl rfl

theorem kept_benchLoad {s0 s : State} {w : Bytes} (hk : Kept s0 s) : Kept s0 (benchLoad s w) :=
  kept_mk hk rfl rfl rfl rfl rfl rfl rfl rfl

theorem kept_benchLoadWord {s0 s : State} {w : BitVec 32 × BitVec 7} (hk : Kept s0 s) : Kept s0 (benchLoadWord s w) :=
  kept_mk hk rfl rfl rfl rfl rfl rfl rfl rfl

theorem kept_putLineWord {s0 s : State} {line : Nat} {w : Bytes} (hk : Kept s0 s) : Kept s0 (putLineWord s line w) := by
  unfold putLineWord
  try dsimp only
  repeat' first
    | with_reducible exact hk | exact Mem.poisonLine_wf _ _ | exact Mem.setErr_wf _ _ _
    | exact (fun hm : Mem.wf _ = true => hm) | split | with_reducible refine kept_mem ?_ ?_
    | with_reducible refine kept_mk ?_ rfl rfl rfl rfl rfl rfl rfl rfl | dsimp only

theorem kept_benchOn {s0 : State} {target : BitVec 4} {line : State → Nat → State}
    {word : State → Nat × Nat × Nat → State} {s : State} (h_line : ∀ a0 a1, Kept a0 (line a0 a1)) (h_word : ∀ a0 a1,
    Kept a0 (word a0 a1)) (hk : Kept s0 s) :
    KeptOut s0 (benchOn target line word s) := by
  unfold benchOn
  repeat' first
    | with_reducible apply keptOut_next | with_reducible exact hk | with_reducible exact Kept.refl _ | intro _ | split
    | with_reducible refine Kept.trans ?_ (h_line ..) | with_reducible refine Kept.trans ?_ (h_word ..)
    | with_reducible apply kept_benchRefuse | with_reducible refine kept_mk ?_ rfl rfl rfl rfl rfl rfl rfl rfl

theorem kept_benchRead {s0 s : State} {l : Nat} (hk : Kept s0 s) : Kept s0 (benchRead s l) := kept_chargeRead hk

theorem kept_benchWrite {s0 s : State} {l : Nat} (hk : Kept s0 s) : Kept s0 (benchWrite s l) := kept_chargeWrite hk

theorem kept_execReadRaw {s0 : State} {target : BitVec 4} {s : State} (hk : Kept s0 s) :
    KeptOut s0 (execReadRaw target s) := by
  unfold execReadRaw
  try dsimp only
  repeat' first
    | with_reducible apply keptOut_next | with_reducible exact hk | with_reducible exact Kept.refl _ | intro _
    | with_reducible apply kept_benchOn | with_reducible apply kept_benchResult | with_reducible apply kept_benchLoad
    | with_reducible apply kept_benchRead | with_reducible apply kept_benchLoadWord | dsimp only

theorem kept_benchFixWord {s0 s : State} {k : Nat × Nat × Nat} (hk : Kept s0 s) : Kept s0 (benchFixWord s k) := by
  unfold benchFixWord
  try dsimp only
  repeat' first
    | with_reducible exact hk | split | with_reducible apply kept_benchResult | with_reducible apply kept_benchLoadWord
    | with_reducible apply kept_sramEvent | with_reducible refine kept_fst ?_ (by assumption)
    | with_reducible refine kept_mk ?_ rfl rfl rfl rfl rfl rfl rfl rfl | dsimp only

theorem kept_execReadCorrected {s0 : State} {target : BitVec 4} {s : State} (hk : Kept s0 s) :
    KeptOut s0 (execReadCorrected target s) := by
  unfold execReadCorrected
  try dsimp only
  repeat' first
    | with_reducible apply keptOut_next | with_reducible exact hk | with_reducible exact Kept.refl _ | intro _ | split
    | with_reducible apply kept_benchOn | with_reducible refine kept_lineCheck_of ?_ (by assumption)
    | with_reducible apply kept_lineCheck | with_reducible apply kept_benchRead | with_reducible apply kept_benchResult
    | with_reducible apply kept_benchLoad | with_reducible apply kept_benchFixWord
    | with_reducible refine kept_fst ?_ (by assumption) | dsimp only

theorem kept_execWriteRaw {s0 : State} {target : BitVec 4} {s : State} (hk : Kept s0 s) :
    KeptOut s0 (execWriteRaw target s) := by
  unfold execWriteRaw
  try dsimp only
  repeat' first
    | with_reducible apply keptOut_next | with_reducible exact hk | with_reducible exact Kept.refl _ | intro _
    | with_reducible apply kept_benchOn | with_reducible apply kept_benchWrote | with_reducible apply kept_putLineWord
    | with_reducible apply kept_benchWrite | with_reducible refine kept_mk ?_ rfl rfl rfl rfl rfl rfl rfl rfl
    | dsimp only

theorem kept_execWriteEncoded {s0 : State} {target : BitVec 4} {s : State} (hk : Kept s0 s) :
    KeptOut s0 (execWriteEncoded target s) := by
  unfold execWriteEncoded
  try dsimp only
  repeat' first
    | with_reducible apply keptOut_next | with_reducible exact hk | with_reducible exact Kept.refl _ | intro _
    | with_reducible apply kept_benchOn | with_reducible apply kept_putLineWord | with_reducible apply kept_benchWrite
    | with_reducible apply kept_benchWrote | with_reducible apply kept_lineSettle
    | with_reducible refine kept_fst ?_ (by assumption)
    | with_reducible refine kept_mk ?_ rfl rfl rfl rfl rfl rfl rfl rfl | dsimp only

theorem kept_execWritePoison {s0 : State} {target : BitVec 4} {s : State} (hk : Kept s0 s) :
    KeptOut s0 (execWritePoison target s) := by
  unfold execWritePoison
  try dsimp only
  repeat' first
    | with_reducible apply keptOut_next | with_reducible exact hk | with_reducible exact Kept.refl _ | intro _
    | with_reducible apply kept_benchOn | with_reducible apply kept_benchWrote | with_reducible apply kept_putLineWord
    | with_reducible apply kept_benchWrite | with_reducible apply kept_benchRefuse | dsimp only

theorem kept_benchCommand {s0 : State} {v : Nat} {s : State} (hk : Kept s0 s) : KeptOut s0 (benchCommand v s) := by
  unfold benchCommand
  try dsimp only
  repeat' first
    | with_reducible apply keptOut_next | with_reducible exact hk | split | with_reducible apply kept_execReadRaw
    | with_reducible apply kept_execReadCorrected | with_reducible apply kept_execWriteRaw
    | with_reducible apply kept_execWriteEncoded | with_reducible apply kept_execWritePoison
    | with_reducible apply kept_benchRefuse | with_reducible refine kept_mk ?_ rfl rfl rfl rfl rfl rfl rfl rfl
    | dsimp only

end Sys2Proof.Machine
end

