-- ==== Sys2Proof/Laws/KeptPlainFace.lean ====
section
/-! SUPPORT. What the operations of PlainFace keep. -/

namespace Sys2Proof.Machine

set_option Elab.async false
set_option linter.all false

theorem kept_replyRead {s0 s : State} {dest : ReplyTo} {off : Nat} {b : Bytes} {bad : List Nat} {status : Nat} (hk :
    Kept s0 s) :
    Kept s0 (replyRead s dest off b bad status) := by
  unfold replyRead
  try dsimp only
  repeat' first
    | with_reducible exact hk | with_reducible exact Kept.refl _ | intro _ | split | with_reducible apply kept_emit
    | with_reducible apply kept_sessSend | with_reducible apply kept_foldl
    | with_reducible refine kept_fst ?_ (by assumption)
    | with_reducible refine kept_mk ?_ rfl rfl rfl rfl rfl rfl rfl rfl | dsimp only

theorem kept_replyWrite {s0 s : State} {dest : ReplyTo} {status : Nat} (hk : Kept s0 s) :
    Kept s0 (replyWrite s dest status) := by
  unfold replyWrite
  try dsimp only
  repeat' first
    | with_reducible exact hk | with_reducible exact Kept.refl _ | intro _ | split | with_reducible apply kept_emit
    | with_reducible apply kept_sessSend | with_reducible apply kept_sessMod
    | with_reducible refine kept_fst ?_ (by assumption)
    | with_reducible refine kept_mk ?_ rfl rfl rfl rfl rfl rfl rfl rfl | dsimp only

theorem kept_poolReplyRead {s0 s : State} {k : Nat × Nat} {h : Half} {tag : Nat} {b : Bytes} {bad : List Nat}
    {status : Nat} (hk : Kept s0 s) :
    Kept s0 (poolReplyRead s k h tag b bad status) := by
  unfold poolReplyRead
  try dsimp only
  repeat' first
    | with_reducible exact hk | with_reducible exact Kept.refl _ | intro _ | with_reducible apply kept_sessSend
    | with_reducible apply kept_foldl | with_reducible apply kept_foldl_fst | dsimp only

theorem kept_poolReplyWrite {s0 s : State} {k : Nat × Nat} {h : Half} {sseq status : Nat} (hk : Kept s0 s) :
    Kept s0 (poolReplyWrite s k h sseq status) := by
  unfold poolReplyWrite
  try dsimp only
  repeat' first
    | with_reducible exact hk | with_reducible exact Kept.refl _ | intro _ | split | with_reducible apply kept_sessMod
    | with_reducible apply kept_sessSend | with_reducible refine kept_mk ?_ rfl rfl rfl rfl rfl rfl rfl rfl
    | dsimp only

theorem kept_edgeMod {s0 s : State} {h : Half} {f : Edge → Edge} (hk : Kept s0 s) : Kept s0 (edgeMod s h f) :=
  kept_mk hk rfl rfl rfl rfl rfl rfl rfl rfl

theorem kept_edgeFetch {s0 s : State} {w : WeightWin} {t : Tensor} {tile : Nat} (hk : Kept s0 s) :
    Kept s0 (edgeFetch s w t tile).1 := by
  unfold edgeFetch
  try dsimp only
  repeat' first
    | with_reducible exact hk | with_reducible exact Kept.refl _ | intro _ | split
    | with_reducible apply kept_chargeRead | with_reducible apply kept_charge
    | with_reducible refine kept_readFolio_of ?_ (by assumption) | with_reducible apply kept_readFolio
    | with_reducible apply kept_edgeMod | with_reducible refine kept_fst ?_ (by assumption)
    | with_reducible refine kept_mk ?_ rfl rfl rfl rfl rfl rfl rfl rfl | dsimp only

theorem kept_edgeFetch_of {s0 s : State} {w : WeightWin} {t : Tensor} {tile : Nat} {r : State × Option EdgeTile} (hk
    : Kept s0 s)
    (e : edgeFetch s w t tile = r) : Kept s0 r.1 :=
  e ▸ kept_edgeFetch hk

theorem kept_edgeFetchAll {s0 s : State} {w : WeightWin} {t : Tensor} {y0 : List Nat} (hk : Kept s0 s) :
    Kept s0 (edgeFetchAll s w t y0).1 := by
  induction y0 generalizing s with
  | nil => exact hk
  | cons i r ih => exact ih (kept_edgeFetch hk)

theorem kept_edgeFetchAll_of {s0 s : State} {w : WeightWin} {t : Tensor} {y0 : List Nat}
    {r : State × List (Nat × Option EdgeTile)} (hk : Kept s0 s)
    (e : edgeFetchAll s w t y0 = r) : Kept s0 r.1 :=
  e ▸ kept_edgeFetchAll hk

theorem kept_windowBytes {s0 s : State} {w : WeightWin} {off n : Nat} (hk : Kept s0 s) :
    Kept s0 (windowBytes s w off n).1 := by
  unfold windowBytes
  try dsimp only
  repeat' first
    | with_reducible exact hk | with_reducible exact Kept.refl _ | intro _ | split
    | with_reducible refine kept_edgeFetchAll_of ?_ (by assumption) | with_reducible apply kept_edgeFetchAll
    | with_reducible apply kept_drew | with_reducible refine kept_fst ?_ (by assumption)
    | with_reducible refine kept_mk ?_ rfl rfl rfl rfl rfl rfl rfl rfl | dsimp only

theorem kept_windowBytes_of {s0 s : State} {w : WeightWin} {off n : Nat} {r : State × Bytes × Bool} (hk : Kept s0 s)
    (e : windowBytes s w off n = r) : Kept s0 r.1 :=
  e ▸ kept_windowBytes hk

theorem kept_plainCross {s0 s : State} {home : Nat} {d : Die} (hk : Kept s0 s) : Kept s0 (plainCross s home d) := by
  unfold plainCross
  repeat' first
    | with_reducible exact hk | with_reducible apply kept_charges

theorem kept_stageWrite {s0 s : State} {n : Nat} {w : WeightWin} {mid off : Nat} {b : Bytes} {d : Die} (hk : Kept s0
    s) :
    Kept s0 (stageWrite s n w mid off b d) := by
  unfold stageWrite
  try dsimp only
  repeat' first
    | with_reducible exact hk | with_reducible exact Kept.refl _ | intro _ | split
    | with_reducible apply kept_plainCross | with_reducible apply kept_fullWrite
    | with_reducible apply kept_binderyWrite | with_reducible apply kept_winMod
    | with_reducible refine kept_mk ?_ rfl rfl rfl rfl rfl rfl rfl rfl | dsimp only

theorem kept_autoSeal {s0 s : State} {n : Nat} (hk : Kept s0 s) : Kept s0 (autoSeal s n) := by
  unfold autoSeal
  try dsimp only
  repeat' first
    | with_reducible exact hk | with_reducible exact Kept.refl _ | intro _ | split
    | with_reducible apply kept_sealWindow | with_reducible refine kept_mk ?_ rfl rfl rfl rfl rfl rfl rfl rfl
    | dsimp only

theorem kept_discardWrite {s0 s : State} {n : Nat} {w : WeightWin} {mid off : Nat} (hk : Kept s0 s) :
    Kept s0 (discardWrite s n w mid off) := by
  unfold discardWrite
  try dsimp only
  repeat' first
    | with_reducible exact hk | with_reducible exact Kept.refl _ | intro _ | split | with_reducible apply kept_winMod
    | with_reducible apply kept_logNow | with_reducible refine kept_mk ?_ rfl rfl rfl rfl rfl rfl rfl rfl | dsimp only

theorem kept_touchBlock {s0 s : State} {h : Half} {off : Nat} (hk : Kept s0 s) : Kept s0 (touchBlock s h off) := by
  unfold touchBlock
  repeat' first
    | with_reducible exact hk | split | with_reducible apply kept_putWay
    | with_reducible refine kept_fst ?_ (by assumption)
    | with_reducible refine kept_mk ?_ rfl rfl rfl rfl rfl rfl rfl rfl

theorem kept_plainLineGet {s0 s : State} {g : PlainGran} {off : Nat} {d : Die} {counted : Bool} (hk : Kept s0 s) :
    Kept s0 (plainLineGet s g off d counted).1 := by
  unfold plainLineGet
  try dsimp only
  repeat' first
    | with_reducible exact hk | split | with_reducible apply kept_touchBlock | with_reducible apply kept_putWay
    | with_reducible apply kept_chargeRead | with_reducible refine kept_allocWay_of ?_ (by assumption)
    | with_reducible apply kept_allocWay | with_reducible refine kept_plainLine_of ?_ (by assumption)
    | with_reducible apply kept_plainLine | with_reducible refine kept_fst ?_ (by assumption)
    | with_reducible refine kept_mk ?_ rfl rfl rfl rfl rfl rfl rfl rfl | dsimp only

theorem kept_plainLineGet_of {s0 s : State} {g : PlainGran} {off : Nat} {d : Die} {counted : Bool}
    {r : State × Option (Bytes × Bool)} (hk : Kept s0 s)
    (e : plainLineGet s g off d counted = r) : Kept s0 r.1 :=
  e ▸ kept_plainLineGet hk

theorem kept_plainLinePut {s0 s : State} {g : PlainGran} {off : Nat} {b : Bytes} {d : Die} {counted : Bool} (hk :
    Kept s0 s) :
    Kept s0 (plainLinePut s g off b d counted).1 := by
  unfold plainLinePut
  try dsimp only
  repeat' first
    | with_reducible exact hk | split | with_reducible apply kept_putWay | with_reducible apply kept_entryDrop
    | with_reducible apply kept_chargeWrite | with_reducible refine kept_allocWay_of ?_ (by assumption)
    | with_reducible apply kept_allocWay | with_reducible apply kept_physWrite
    | with_reducible refine kept_fst ?_ (by assumption)
    | with_reducible refine kept_mk ?_ rfl rfl rfl rfl rfl rfl rfl rfl | dsimp only

theorem kept_plainLinePut_of {s0 s : State} {g : PlainGran} {off : Nat} {b : Bytes} {d : Die} {counted : Bool}
    {r : State × Bool} (hk : Kept s0 s)
    (e : plainLinePut s g off b d counted = r) : Kept s0 r.1 :=
  e ▸ kept_plainLinePut hk

theorem kept_plainNarrow {s0 s : State} {g : PlainGran} {mid off : Nat} {b : Bytes} {d : Die} (hk : Kept s0 s) :
    Kept s0 (plainNarrow s g mid off b d) := by
  unfold plainNarrow
  try dsimp only
  repeat' first
    | with_reducible exact hk | with_reducible apply kept_plainCross | with_reducible apply kept_touchBlock
    | with_reducible apply kept_binderyWrite | dsimp only

theorem kept_plainGet {s0 : State} {d : Die} {counted : Bool} {forms : List (Nat × Bytes × Bool)} {fuel : Nat}
    {y1 : State} {off n : Nat} (hk : Kept s0 y1) :
    Kept s0 (plainGet d counted forms fuel y1 off n).1 := by
  induction fuel generalizing y1 off n with
  | zero => exact hk
  | succ fuel ih =>
    simp only [plainGet]
    repeat' first
      | with_reducible exact hk
      | split
      | (with_reducible refine kept_fst (p := plainGet _ _ _ _ _ _ _) ?_ (by assumption))
      | with_reducible apply ih
      | with_reducible apply kept_charges
      | with_reducible apply kept_windowBytes
      | (with_reducible refine kept_plainLineGet_of ?_ (by assumption))

theorem kept_plainGet_of {s0 : State} {d : Die} {counted : Bool} {forms : List (Nat × Bytes × Bool)} {fuel : Nat}
    {y1 : State} {off n : Nat} {r : State × Option (Bytes × List Nat)} (hk : Kept s0 y1)
    (e : plainGet d counted forms fuel y1 off n = r) : Kept s0 r.1 :=
  e ▸ kept_plainGet hk

theorem kept_windowForms {s0 : State} {fuel : Nat} {y1 : State} {off n : Nat} (hk : Kept s0 y1) :
    Kept s0 (windowForms fuel y1 off n).1 := by
  induction fuel generalizing y1 off n with
  | zero => exact hk
  | succ m ih =>
    simp only [windowForms]
    split
    · exact hk
    · split
      · exact ih (kept_windowBytes hk)
      · exact ih hk

theorem kept_windowForms_of {s0 : State} {fuel : Nat} {y1 : State} {off n : Nat}
    {r : State × List (Nat × Bytes × Bool)} (hk : Kept s0 y1)
    (e : windowForms fuel y1 off n = r) : Kept s0 r.1 :=
  e ▸ kept_windowForms hk

theorem kept_stageLines {s0 : State} {n : Nat} {w : WeightWin} {mid : Nat} {d : Die} {fuel : Nat} {y1 : State}
    {off : Nat} {y3 : Bytes} (hk : Kept s0 y1) :
    Kept s0 (stageLines n w mid d fuel y1 off y3) := by
  induction fuel generalizing y1 off y3 with
  | zero => exact hk
  | succ m ih =>
    simp only [stageLines]
    split
    · exact hk
    · exact ih (kept_stageWrite hk)

theorem kept_plainSet {s0 : State} {d : Die} {counted : Bool} {fuel : Nat} {y1 : State} {mid off : Nat} {y3 : Bytes}
    (hk : Kept s0 y1) :
    Kept s0 (plainSet d counted fuel y1 mid off y3).1 := by
  induction fuel generalizing y1 off y3 with
  | zero => exact hk
  | succ fuel ih =>
    simp only [plainSet]
    repeat' first
      | with_reducible exact hk
      | split
      | with_reducible apply ih
      | with_reducible apply kept_autoSeal
      | with_reducible apply kept_stageLines
      | with_reducible apply kept_discardWrite
      | with_reducible apply kept_plainNarrow
      | (with_reducible refine kept_plainLinePut_of ?_ (by assumption))

theorem kept_plainSet_of {s0 : State} {d : Die} {counted : Bool} {fuel : Nat} {y1 : State} {mid off : Nat}
    {y3 : Bytes} {r : State × Option (Nat × Bytes)} (hk : Kept s0 y1)
    (e : plainSet d counted fuel y1 mid off y3 = r) : Kept s0 r.1 :=
  e ▸ kept_plainSet hk

theorem kept_parkWait {s0 s : State} {w : CacheWait} (hk : Kept s0 s) : Kept s0 (parkWait s w) :=
  kept_mk hk rfl rfl rfl rfl rfl rfl rfl rfl

theorem kept_serveRead {s0 s : State} {w : CacheWait} (hk : Kept s0 s) : Kept s0 (serveRead s w) := by
  unfold serveRead
  try dsimp only
  repeat' first
    | with_reducible exact hk | split | with_reducible refine kept_windowForms_of ?_ (by assumption)
    | with_reducible apply kept_windowForms | with_reducible apply kept_parkWait
    | with_reducible refine kept_plainGet_of ?_ (by assumption) | with_reducible apply kept_plainGet
    | with_reducible apply kept_replyRead | with_reducible apply kept_chargeHostTx
    | with_reducible refine kept_fst ?_ (by assumption)
    | with_reducible refine kept_mk ?_ rfl rfl rfl rfl rfl rfl rfl rfl | dsimp only

theorem kept_serveWrite {s0 s : State} {w : CacheWait} {b : Bytes} (hk : Kept s0 s) : Kept s0 (serveWrite s w b) := by
  unfold serveWrite
  repeat' first
    | with_reducible exact hk | split | with_reducible apply kept_replyWrite | with_reducible apply kept_parkWait
    | with_reducible refine kept_plainSet_of ?_ (by assumption) | with_reducible apply kept_plainSet
    | with_reducible refine kept_fst ?_ (by assumption)
    | with_reducible refine kept_mk ?_ rfl rfl rfl rfl rfl rfl rfl rfl

theorem kept_serveAgain {s0 s : State} {w : CacheWait} (hk : Kept s0 s) : Kept s0 (serveAgain s w) := by
  unfold serveAgain
  repeat' first
    | with_reducible exact hk | split | with_reducible apply kept_serveRead | with_reducible apply kept_serveWrite
    | with_reducible refine kept_mk ?_ rfl rfl rfl rfl rfl rfl rfl rfl

theorem kept_runWaits {s0 s : State} (hk : Kept s0 s) : Kept s0 (runWaits s) := by
  unfold runWaits
  try dsimp only
  repeat' first
    | with_reducible exact hk | with_reducible exact Kept.refl _ | intro _ | with_reducible apply kept_serveAgain
    | with_reducible apply kept_foldl | with_reducible refine kept_mk ?_ rfl rfl rfl rfl rfl rfl rfl rfl | dsimp only

theorem kept_granTouch {s0 s : State} {off n : Nat} (hk : Kept s0 s) : Kept s0 (granTouch s off n) := by
  unfold granTouch
  try dsimp only
  repeat' first
    | with_reducible exact hk | with_reducible exact Kept.refl _ | intro _ | with_reducible apply kept_foldl
    | with_reducible refine kept_mk ?_ rfl rfl rfl rfl rfl rfl rfl rfl | dsimp only

theorem kept_plainRead {s0 s : State} {mid : Nat} {dest : ReplyTo} {path off n : Nat} (hk : Kept s0 s) :
    Kept s0 (plainRead s mid dest path off n) := by
  unfold plainRead
  try dsimp only
  repeat' first
    | with_reducible exact hk | split | with_reducible apply kept_leaveSleep | with_reducible apply kept_serveRead
    | with_reducible apply kept_granTouch | with_reducible apply kept_logRefused | with_reducible apply kept_replyRead
    | dsimp only

theorem kept_plainWrite {s0 s : State} {mid : Nat} {dest : ReplyTo} {path off : Nat} {b : Bytes} (hk : Kept s0 s) :
    Kept s0 (plainWrite s mid dest path off b) := by
  unfold plainWrite
  try dsimp only
  repeat' first
    | with_reducible exact hk | split | with_reducible apply kept_leaveSleep | with_reducible apply kept_serveWrite
    | with_reducible apply kept_granTouch | with_reducible apply kept_replyWrite | with_reducible apply kept_logRefused
    | dsimp only

theorem kept_execWeightWindowRead {s0 : State} {mid : Nat} {path : PlainPath} {off len : Nat} {s : State} (hk : Kept
    s0 s) :
    KeptOut s0 (execWeightWindowRead mid path off len s) := by
  unfold execWeightWindowRead
  try dsimp only
  repeat' first
    | with_reducible apply keptOut_next | with_reducible exact hk | split | with_reducible apply kept_plainRead
    | with_reducible refine kept_fst ?_ (by assumption) | dsimp only

theorem kept_execPlainRead {s0 : State} {mid : Nat} {path : PlainPath} {off len : Nat} {s : State} (hk : Kept s0 s) :
    KeptOut s0 (execPlainRead mid path off len s) := by
  unfold execPlainRead
  try dsimp only
  repeat' first
    | with_reducible apply keptOut_next | with_reducible exact hk | split | with_reducible apply kept_plainRead
    | with_reducible refine kept_fst ?_ (by assumption) | dsimp only

theorem kept_execPlainWrite {s0 : State} {mid : Nat} {path : PlainPath} {off : Nat} {bytes : Bytes} {s : State} (hk :
    Kept s0 s) :
    KeptOut s0 (execPlainWrite mid path off bytes s) := by
  unfold execPlainWrite
  try dsimp only
  repeat' first
    | with_reducible apply keptOut_next | with_reducible exact hk | split | with_reducible apply kept_plainWrite
    | with_reducible apply kept_chargeHostRx | with_reducible refine kept_fst ?_ (by assumption) | dsimp only

theorem kept_execCacheLineFill {s0 : State} {half : Half} {set way line : Nat} {s : State} (hk : Kept s0 s) :
    KeptOut s0 (execCacheLineFill half set way line s) := by
  unfold execCacheLineFill
  try dsimp only
  repeat' first
    | with_reducible apply keptOut_next | with_reducible exact hk | split | with_reducible apply kept_runWaits
    | with_reducible apply kept_fillLine | with_reducible refine kept_fst ?_ (by assumption) | dsimp only

theorem kept_execCacheEvictComplete {s0 : State} {half : Half} {set way : Nat} {s : State} (hk : Kept s0 s) :
    KeptOut s0 (execCacheEvictComplete half set way s) := by
  unfold execCacheEvictComplete
  try dsimp only
  repeat' first
    | with_reducible apply keptOut_next | with_reducible exact hk | split | with_reducible apply kept_runWaits
    | with_reducible apply kept_dropWay | with_reducible apply kept_writeBackWay
    | with_reducible refine kept_fst ?_ (by assumption) | dsimp only

theorem kept_sweepWay {s0 s : State} {h : Half} {k : Nat × Nat} (hk : Kept s0 s) : Kept s0 (sweepWay s h k) := by
  unfold sweepWay
  try dsimp only
  repeat' first
    | with_reducible exact hk | split | with_reducible apply kept_putWay | with_reducible apply kept_writeBackWay
    | with_reducible refine kept_mk ?_ rfl rfl rfl rfl rfl rfl rfl rfl | dsimp only

theorem kept_execWeedingSweep {s0 s : State} (hk : Kept s0 s) : KeptOut s0 (execWeedingSweep s) := by
  unfold execWeedingSweep
  try dsimp only
  repeat' first
    | with_reducible apply keptOut_next | with_reducible exact hk | with_reducible exact Kept.refl _ | intro _ | split
    | with_reducible apply kept_sweepWay | with_reducible apply kept_foldl
    | with_reducible refine kept_mk ?_ rfl rfl rfl rfl rfl rfl rfl rfl | dsimp only

theorem kept_execBinderyTimeout {s0 : State} {half : Half} {line : Nat} {s : State} (hk : Kept s0 s) :
    KeptOut s0 (execBinderyTimeout half line s) := by
  unfold execBinderyTimeout
  repeat' first
    | with_reducible apply keptOut_next | with_reducible exact hk | split | with_reducible apply kept_retireEntry
    | with_reducible refine kept_mk ?_ rfl rfl rfl rfl rfl rfl rfl rfl

end Sys2Proof.Machine
end

