-- ==== Sys2Proof/Laws/KeptPlainDesk.lean ====
section
/-! SUPPORT. What the operations of PlainDesk keep. -/

namespace Sys2Proof.Machine

set_option Elab.async false
set_option linter.all false

theorem kept_setShare {s0 s : State} {h : Half} {share : Nat} (hk : Kept s0 s) : Kept s0 (setShare s h share) := by
  unfold setShare
  try dsimp only
  repeat' first
    | with_reducible exact hk | with_reducible exact Kept.refl _ | intro _ | split
    | with_reducible apply kept_emptyCache | with_reducible refine kept_mk ?_ rfl rfl rfl rfl rfl rfl rfl rfl
    | dsimp only

theorem kept_plainCacheBody {s0 s : State} {c : RunCmd} (hk : Kept s0 s) : Kept s0 (plainCacheBody s c) := by
  unfold plainCacheBody
  try dsimp only
  repeat' first
    | with_reducible exact hk | split | with_reducible apply kept_failWith | with_reducible apply kept_runWaits
    | with_reducible apply kept_setShare | with_reducible apply kept_complete
    | with_reducible refine kept_mk ?_ rfl rfl rfl rfl rfl rfl rfl rfl | dsimp only

theorem kept_execPlainCache {s0 : State} {src : DeskSrc} {s : State} (hk : Kept s0 s) :
    KeptOut s0 (execPlainCache src s) :=
  keptOut_next (kept_deskRun (fun _ _ => kept_plainCacheBody (.refl _)) hk)

theorem kept_windowDeclareBody {s0 s : State} {c : RunCmd} (hk : Kept s0 s) : Kept s0 (windowDeclareBody s c) := by
  unfold windowDeclareBody
  try dsimp only
  repeat' first
    | with_reducible exact hk | with_reducible exact Kept.refl _ | intro _ | split
    | with_reducible apply kept_failAddrs | with_reducible apply kept_failWith | with_reducible apply kept_runWaits
    | with_reducible apply kept_dropGranules | with_reducible apply kept_complete
    | with_reducible refine kept_mk ?_ rfl rfl rfl rfl rfl rfl rfl rfl | dsimp only

theorem kept_execWindowDeclare {s0 : State} {src : DeskSrc} {s : State} (hk : Kept s0 s) :
    KeptOut s0 (execWindowDeclare src s) :=
  keptOut_next (kept_deskRun (fun _ _ => kept_windowDeclareBody (.refl _)) hk)

end Sys2Proof.Machine
end

