-- ==== Sys2Proof/Laws/KeptLinkOpen.lean ====
section
/-! SUPPORT. What the operations of LinkOpen keep. -/

namespace Sys2Proof.Machine

set_option Elab.async false
set_option linter.all false

theorem kept_drawEph {s0 s : State} (hk : Kept s0 s) : Kept s0 (drawEph s).1 :=
  kept_mk hk rfl rfl rfl rfl rfl rfl rfl rfl

theorem kept_drawEph_of {s0 s : State} {r : State × Bytes} (hk : Kept s0 s) (e : drawEph s = r) : Kept s0 r.1 :=
  e ▸ kept_drawEph hk

theorem kept_pairMod {s0 s : State} {node : Nat} {f : PairExch → PairExch} (hk : Kept s0 s) :
    Kept s0 (pairMod s node f) :=
  kept_mk hk rfl rfl rfl rfl rfl rfl rfl rfl

theorem kept_pairPart {s0 s : State} {node sub : Nat} {body : Bytes} (hk : Kept s0 s) :
    Kept s0 (pairPart s node sub body) :=
  kept_pairSend hk

theorem kept_pairBegin {s0 s : State} {node : Nat} (hk : Kept s0 s) : Kept s0 (pairBegin s node) := by
  unfold pairBegin
  try dsimp only
  repeat' first
    | with_reducible exact hk | with_reducible exact Kept.refl _ | intro _ | split | with_reducible apply kept_pairPart
    | with_reducible apply kept_pairMod | with_reducible refine kept_mk ?_ rfl rfl rfl rfl rfl rfl rfl rfl | dsimp only

theorem kept_openSend {s0 s : State} {k : Nat × Nat} {x : Session} (hk : Kept s0 s) : Kept s0 (openSend s k x) :=
  kept_pairSend hk

theorem kept_sessionBegin {s0 s : State} {node sid : Nat} {kind : SessKind} {home mid : Nat} (hk : Kept s0 s) :
    Kept s0 (sessionBegin s node sid kind home mid) := by
  unfold sessionBegin
  try dsimp only
  repeat' first
    | with_reducible exact hk | split | with_reducible apply kept_drew | with_reducible apply kept_openSend
    | with_reducible apply kept_pairBegin | with_reducible refine kept_fst ?_ (by assumption)
    | with_reducible refine kept_mk ?_ rfl rfl rfl rfl rfl rfl rfl rfl | dsimp only

theorem kept_openWaiting {s0 s : State} {node : Nat} (hk : Kept s0 s) : Kept s0 (openWaiting s node) :=
  kept_foldl (fun _ _ => kept_openSend (.refl _)) hk

theorem kept_poolOpen {s0 s : State} {node mid : Nat} (hk : Kept s0 s) : Kept s0 (poolOpen s node mid) := by
  unfold poolOpen
  try dsimp only
  repeat' first
    | with_reducible exact hk | with_reducible exact Kept.refl _ | intro _ | split
    | with_reducible apply kept_sessionBegin | with_reducible refine kept_fst ?_ (by assumption)
    | with_reducible refine kept_mk ?_ rfl rfl rfl rfl rfl rfl rfl rfl | dsimp only

theorem kept_systemBegin {s0 s : State} {p : Nat} (hk : Kept s0 s) : Kept s0 (systemBegin s p) := by
  unfold systemBegin
  try dsimp only
  repeat' first
    | with_reducible exact hk | split | with_reducible apply kept_sessionBegin
    | with_reducible refine kept_fst ?_ (by assumption) | dsimp only

end Sys2Proof.Machine
end

