-- ==== Sys2Proof/Laws/KeptLinkPort.lean ====
section
/-! SUPPORT. What the operations of LinkPort keep. -/

namespace Sys2Proof.Machine

set_option Elab.async false
set_option linter.all false

theorem kept_linkLog {s0 s : State} {p row rc : Nat} (hk : Kept s0 s) : Kept s0 (linkLog s p row rc) := kept_logNow hk

theorem kept_inboxPop {s0 s : State} {p : Nat} (hk : Kept s0 s) : Kept s0 (inboxPop s p) := by
  unfold inboxPop
  try dsimp only
  repeat' first
    | with_reducible exact hk | with_reducible exact Kept.refl _ | intro _ | split | with_reducible apply kept_flowMod
    | with_reducible apply kept_portIdle | with_reducible refine kept_mk ?_ rfl rfl rfl rfl rfl rfl rfl rfl
    | dsimp only

theorem kept_sessResend {s0 s : State} {k : Nat × Nat} (hk : Kept s0 s) : Kept s0 (sessResend s k) := by
  unfold sessResend
  try dsimp only
  repeat' first
    | with_reducible exact hk | with_reducible exact Kept.refl _ | intro _ | split | with_reducible apply kept_sessMod
    | with_reducible apply kept_portTx | with_reducible apply kept_foldl | with_reducible apply kept_foldl_fst
    | with_reducible refine kept_mk ?_ rfl rfl rfl rfl rfl rfl rfl rfl | dsimp only

theorem kept_repath {s0 old s : State} (hk : Kept s0 s) : Kept s0 (repath old s) := by
  unfold repath
  try dsimp only
  repeat' first
    | with_reducible exact hk | with_reducible exact Kept.refl _ | intro _ | split
    | with_reducible apply kept_sessResend | with_reducible apply kept_foldl | dsimp only

theorem kept_portDown {s0 s : State} {p : Nat} {st : PortState} {retry : Option Nat} (hk : Kept s0 s) :
    Kept s0 (portDown s p st retry) := by
  unfold portDown
  try dsimp only
  repeat' first
    | with_reducible exact hk | with_reducible exact Kept.refl _ | intro _ | split | with_reducible apply kept_portMod
    | with_reducible apply kept_repath | with_reducible refine kept_mk ?_ rfl rfl rfl rfl rfl rfl rfl rfl | dsimp only

theorem kept_portHold {s0 s : State} {p row : Nat} (hk : Kept s0 s) : Kept s0 (portHold s p row) :=
  kept_portDown (kept_linkLog hk)

theorem kept_portUntrusted {s0 s : State} {p : Nat} (hk : Kept s0 s) : Kept s0 (portUntrusted s p) := by
  unfold portUntrusted
  try dsimp only
  repeat' first
    | with_reducible exact hk | with_reducible exact Kept.refl _ | intro _ | with_reducible apply kept_linkLog
    | with_reducible apply kept_portMod | with_reducible apply kept_portDown
    | with_reducible refine kept_mk ?_ rfl rfl rfl rfl rfl rfl rfl rfl | dsimp only

theorem kept_portStart {s0 s : State} {p : Nat} (hk : Kept s0 s) : Kept s0 (portStart s p) := by
  unfold portStart
  try dsimp only
  repeat' first
    | with_reducible exact hk | with_reducible exact Kept.refl _ | intro _ | split | with_reducible apply kept_portDown
    | with_reducible apply kept_portMod | with_reducible apply kept_emit
    | with_reducible refine kept_mk ?_ rfl rfl rfl rfl rfl rfl rfl rfl | dsimp only

theorem kept_execPortEnable {s0 : State} {port : Nat} {s : State} (hk : Kept s0 s) :
    KeptOut s0 (execPortEnable port s) := by
  unfold execPortEnable
  try dsimp only
  repeat' first
    | with_reducible apply keptOut_next | with_reducible exact hk | with_reducible exact Kept.refl _ | intro _ | split
    | with_reducible apply kept_portStart | with_reducible apply kept_portMod
    | with_reducible refine kept_mk ?_ rfl rfl rfl rfl rfl rfl rfl rfl | dsimp only

theorem kept_execPortRetryTimer {s0 : State} {port : Nat} {s : State} (hk : Kept s0 s) :
    KeptOut s0 (execPortRetryTimer port s) := by
  unfold execPortRetryTimer
  repeat' first
    | with_reducible apply keptOut_next | with_reducible exact hk | split | with_reducible apply kept_portStart
    | with_reducible refine kept_mk ?_ rfl rfl rfl rfl rfl rfl rfl rfl

theorem kept_execPortLeaveService {s0 : State} {port : Nat} {s : State} (hk : Kept s0 s) :
    KeptOut s0 (execPortLeaveService port s) := by
  unfold execPortLeaveService
  repeat' first
    | with_reducible apply keptOut_next | with_reducible exact hk | split | with_reducible apply kept_portDown

theorem kept_portRetrain {s0 s : State} {p : Nat} (hk : Kept s0 s) : Kept s0 (portRetrain s p) := by
  unfold portRetrain
  try dsimp only
  repeat' first
    | with_reducible exact hk | with_reducible exact Kept.refl _ | intro _ | split
    | with_reducible apply kept_countPort | with_reducible apply kept_portMod | with_reducible apply kept_portDown
    | with_reducible refine kept_mk ?_ rfl rfl rfl rfl rfl rfl rfl rfl | dsimp only

theorem kept_execPortRetrain {s0 : State} {port : Nat} {s : State} (hk : Kept s0 s) :
    KeptOut s0 (execPortRetrain port s) := by
  unfold execPortRetrain
  try dsimp only
  repeat' first
    | with_reducible apply keptOut_next | with_reducible exact hk | split | with_reducible apply kept_portRetrain
    | dsimp only

theorem kept_execEqualisationDone {s0 : State} {port : Nat} {lanes : LaneMask} {s : State} (hk : Kept s0 s) :
    KeptOut s0 (execEqualisationDone port lanes s) := by
  unfold execEqualisationDone
  try dsimp only
  repeat' first
    | with_reducible apply keptOut_next | with_reducible exact hk | with_reducible exact Kept.refl _ | intro _ | split
    | with_reducible apply kept_portDown | with_reducible apply kept_portMod
    | with_reducible refine kept_mk ?_ rfl rfl rfl rfl rfl rfl rfl rfl | dsimp only

theorem kept_replayFrom {s0 s : State} {p lseq : Nat} (hk : Kept s0 s) : Kept s0 (replayFrom s p lseq) := by
  unfold replayFrom
  try dsimp only
  repeat' first
    | with_reducible exact hk | with_reducible exact Kept.refl _ | intro _ | split | with_reducible apply kept_flowMod
    | with_reducible apply kept_emit | with_reducible apply kept_foldl
    | with_reducible refine kept_mk ?_ rfl rfl rfl rfl rfl rfl rfl rfl | dsimp only

theorem kept_execFlitLock {s0 : State} {port : Nat} {s : State} (hk : Kept s0 s) :
    KeptOut s0 (execFlitLock port s) := by
  unfold execFlitLock
  try dsimp only
  repeat' first
    | with_reducible apply keptOut_next | with_reducible exact hk | with_reducible exact Kept.refl _ | intro _ | split
    | with_reducible apply kept_portMod | with_reducible apply kept_flowMod | with_reducible apply kept_portSettle
    | with_reducible apply kept_lctlSend | with_reducible apply kept_replayFrom
    | with_reducible refine kept_mk ?_ rfl rfl rfl rfl rfl rfl rfl rfl | dsimp only

theorem kept_authStart {s0 s : State} {p : Nat} (hk : Kept s0 s) : Kept s0 (authStart s p) := by
  unfold authStart
  try dsimp only
  repeat' first
    | with_reducible exact hk | with_reducible exact Kept.refl _ | intro _ | split | with_reducible apply kept_lctlSend
    | with_reducible apply kept_portMod | with_reducible refine kept_mk ?_ rfl rfl rfl rfl rfl rfl rfl rfl | dsimp only

theorem kept_awaitTime {s0 s : State} {p : Nat} (hk : Kept s0 s) : Kept s0 (awaitTime s p) :=
  kept_mk hk rfl rfl rfl rfl rfl rfl rfl rfl

theorem kept_execHello {s0 : State} {port : Nat} {s : State} (hk : Kept s0 s) : KeptOut s0 (execHello port s) := by
  unfold execHello
  try dsimp only
  repeat' first
    | with_reducible apply keptOut_next | with_reducible exact hk | with_reducible exact Kept.refl _ | intro _ | split
    | with_reducible apply kept_inboxPop | with_reducible apply kept_portMod | with_reducible apply kept_awaitTime
    | with_reducible apply kept_authStart | with_reducible apply kept_portDown | with_reducible apply kept_linkLog
    | with_reducible refine kept_fst ?_ (by assumption)
    | with_reducible refine kept_mk ?_ rfl rfl rfl rfl rfl rfl rfl rfl | dsimp only

theorem kept_execAuthCert {s0 : State} {port : Nat} {s : State} (hk : Kept s0 s) :
    KeptOut s0 (execAuthCert port s) := by
  unfold execAuthCert
  try dsimp only
  repeat' first
    | with_reducible apply keptOut_next | with_reducible exact hk | with_reducible exact Kept.refl _ | intro _ | split
    | with_reducible apply kept_inboxPop | with_reducible apply kept_portMod | with_reducible apply kept_portUntrusted
    | with_reducible apply kept_lctlSend | with_reducible refine kept_drawEph_of ?_ (by assumption)
    | with_reducible apply kept_drawEph | with_reducible refine kept_fst ?_ (by assumption)
    | with_reducible refine kept_mk ?_ rfl rfl rfl rfl rfl rfl rfl rfl | dsimp only

theorem kept_execKeyxA {s0 : State} {port : Nat} {s : State} (hk : Kept s0 s) : KeptOut s0 (execKeyxA port s) := by
  unfold execKeyxA
  try dsimp only
  repeat' first
    | with_reducible apply keptOut_next | with_reducible exact hk | with_reducible exact Kept.refl _ | intro _ | split
    | with_reducible apply kept_inboxPop | with_reducible refine kept_drawEph_of ?_ (by assumption)
    | with_reducible apply kept_drawEph | with_reducible apply kept_portMod | with_reducible apply kept_lctlSend
    | with_reducible refine kept_fst ?_ (by assumption)
    | with_reducible refine kept_mk ?_ rfl rfl rfl rfl rfl rfl rfl rfl | dsimp only

theorem kept_portKeyed {s0 s : State} {p : Nat} (hk : Kept s0 s) : Kept s0 (portKeyed s p) :=
  kept_mk hk rfl rfl rfl rfl rfl rfl rfl rfl

theorem kept_execKeyxB {s0 : State} {port : Nat} {s : State} (hk : Kept s0 s) : KeptOut s0 (execKeyxB port s) := by
  unfold execKeyxB
  try dsimp only
  repeat' first
    | with_reducible apply keptOut_next | with_reducible exact hk | with_reducible exact Kept.refl _ | intro _ | split
    | with_reducible apply kept_inboxPop | with_reducible apply kept_portMod | with_reducible apply kept_portKeyed
    | with_reducible apply kept_lctlSend | with_reducible apply kept_portUntrusted
    | with_reducible refine kept_mk ?_ rfl rfl rfl rfl rfl rfl rfl rfl | dsimp only

theorem kept_execConfA {s0 : State} {port : Nat} {s : State} (hk : Kept s0 s) : KeptOut s0 (execConfA port s) := by
  unfold execConfA
  try dsimp only
  repeat' first
    | with_reducible apply keptOut_next | with_reducible exact hk | split | with_reducible apply kept_inboxPop
    | with_reducible apply kept_lctlSend | with_reducible apply kept_portKeyed
    | with_reducible apply kept_portUntrusted | with_reducible refine kept_mk ?_ rfl rfl rfl rfl rfl rfl rfl rfl
    | dsimp only

theorem kept_execAuthDone {s0 : State} {port : Nat} {s : State} (hk : Kept s0 s) :
    KeptOut s0 (execAuthDone port s) := by
  unfold execAuthDone
  try dsimp only
  repeat' first
    | with_reducible apply keptOut_next | with_reducible exact hk | split | with_reducible apply kept_inboxPop
    | with_reducible apply kept_awaitTime | with_reducible apply kept_lctlSend
    | with_reducible refine kept_mk ?_ rfl rfl rfl rfl rfl rfl rfl rfl | dsimp only

theorem kept_execTrainingTimeout {s0 : State} {port : Nat} {s : State} (hk : Kept s0 s) :
    KeptOut s0 (execTrainingTimeout port s) := by
  unfold execTrainingTimeout
  try dsimp only
  repeat' first
    | with_reducible apply keptOut_next | with_reducible exact hk | split | with_reducible apply kept_portUntrusted
    | with_reducible apply kept_portDown | with_reducible apply kept_linkLog
    | with_reducible refine kept_mk ?_ rfl rfl rfl rfl rfl rfl rfl rfl | dsimp only

theorem kept_portEnter {s0 s : State} {p : Nat} (hk : Kept s0 s) : Kept s0 (portEnter s p) := by
  unfold portEnter
  try dsimp only
  repeat' first
    | with_reducible exact hk | with_reducible exact Kept.refl _ | intro _ | split | with_reducible apply kept_portMod
    | with_reducible apply kept_repath | with_reducible apply kept_systemBegin | with_reducible apply kept_pairBegin
    | with_reducible refine kept_mk ?_ rfl rfl rfl rfl rfl rfl rfl rfl | dsimp only

theorem kept_portEnterIf {s0 s : State} {p : Nat} (hk : Kept s0 s) : Kept s0 (portEnterIf s p) := by
  unfold portEnterIf
  try dsimp only
  repeat' first
    | with_reducible exact hk | split | with_reducible apply kept_portEnter | dsimp only

theorem kept_execPathReturnTimer {s0 : State} {port : Nat} {s : State} (hk : Kept s0 s) :
    KeptOut s0 (execPathReturnTimer port s) := by
  unfold execPathReturnTimer
  try dsimp only
  repeat' first
    | with_reducible apply keptOut_next | with_reducible exact hk | with_reducible exact Kept.refl _ | intro _ | split
    | with_reducible apply kept_repath | with_reducible apply kept_portMod
    | with_reducible refine kept_mk ?_ rfl rfl rfl rfl rfl rfl rfl rfl | dsimp only

theorem kept_execLinkNak {s0 : State} {port : Nat} {s : State} (hk : Kept s0 s) : KeptOut s0 (execLinkNak port s) := by
  unfold execLinkNak
  try dsimp only
  repeat' first
    | with_reducible apply keptOut_next | with_reducible exact hk | with_reducible exact Kept.refl _ | intro _ | split
    | with_reducible apply kept_inboxPop | with_reducible apply kept_portRetrain | with_reducible apply kept_replayFrom
    | with_reducible refine kept_mk ?_ rfl rfl rfl rfl rfl rfl rfl rfl | dsimp only

theorem kept_execReplayTimeout {s0 : State} {port : Nat} {s : State} (hk : Kept s0 s) :
    KeptOut s0 (execReplayTimeout port s) := by
  unfold execReplayTimeout
  try dsimp only
  repeat' first
    | with_reducible apply keptOut_next | with_reducible exact hk | split | with_reducible apply kept_replayFrom
    | dsimp only

theorem kept_execCreditWithheldTimeout {s0 : State} {port channel : Nat} {s : State} (hk : Kept s0 s) :
    KeptOut s0 (execCreditWithheldTimeout port channel s) := by
  unfold execCreditWithheldTimeout
  try dsimp only
  repeat' first
    | with_reducible apply keptOut_next | with_reducible exact hk | with_reducible exact Kept.refl _ | intro _ | split
    | with_reducible apply kept_portHold | with_reducible apply kept_flowMod | with_reducible apply kept_linkLog
    | with_reducible refine kept_mk ?_ rfl rfl rfl rfl rfl rfl rfl rfl | dsimp only

theorem kept_execPortFailureTimeout {s0 : State} {port : Nat} {s : State} (hk : Kept s0 s) :
    KeptOut s0 (execPortFailureTimeout port s) := by
  unfold execPortFailureTimeout
  try dsimp only
  repeat' first
    | with_reducible apply keptOut_next | with_reducible exact hk | with_reducible exact Kept.refl _ | intro _ | split
    | with_reducible apply kept_portMod | with_reducible refine kept_mk ?_ rfl rfl rfl rfl rfl rfl rfl rfl | dsimp only

end Sys2Proof.Machine
end

