-- ==== Sys2Proof/Laws/KeptRuntime.lean ====
section
/-! SUPPORT. What the operations of Runtime keep. -/

namespace Sys2Proof.Machine

set_option Elab.async false
set_option linter.all false

theorem kept_accessCheck {s0 s : State} {mid da n path : Nat} {write : Bool} (hk : Kept s0 s) :
    Kept s0 (accessCheck s mid da n path write).1 := by
  unfold accessCheck
  try dsimp only
  repeat' first
    | with_reducible exact hk | split | with_reducible apply kept_logRefused | dsimp only

theorem kept_accessCheck_of {s0 s : State} {mid da n path : Nat} {write : Bool} {r : State × Nat} (hk : Kept s0 s)
    (e : accessCheck s mid da n path write = r) : Kept s0 r.1 :=
  e ▸ kept_accessCheck hk

theorem kept_runtimeRead {s0 s : State} {mid da n : Nat} {remote : RemoteRead} (hk : Kept s0 s) :
    Kept s0 (runtimeRead s mid da n remote) := by
  rw [runtimeRead]
  repeat' first
    | with_reducible exact hk | split | with_reducible refine kept_accessCheck_of ?_ (by assumption)
    | with_reducible apply kept_accessCheck | with_reducible apply kept_emit
    | with_reducible refine kept_rtRead_of ?_ (by assumption) | with_reducible apply kept_rtRead
    | with_reducible apply kept_chargeRead | with_reducible apply kept_leaveSleep
    | with_reducible refine kept_readFar_of ?_ (by assumption) | with_reducible apply kept_readFar
    | with_reducible refine kept_fst ?_ (by assumption) | dsimp only

theorem kept_runtimeWrite {s0 s : State} {mid da : Nat} {b : Bytes} (hk : Kept s0 s) :
    Kept s0 (runtimeWrite s mid da b) := by
  unfold runtimeWrite
  try dsimp only
  repeat' first
    | with_reducible exact hk | split | with_reducible refine kept_accessCheck_of ?_ (by assumption)
    | with_reducible apply kept_accessCheck | with_reducible apply kept_rtWrite | with_reducible apply kept_chargeWrite
    | with_reducible apply kept_leaveSleep | with_reducible apply kept_writeFar
    | with_reducible refine kept_fst ?_ (by assumption) | dsimp only

theorem kept_execRuntimeAccess {s0 : State} {mid addr : Nat} {op : AccessOp} {remote : RemoteRead} {s : State} (hk :
    Kept s0 s) :
    KeptOut s0 (execRuntimeAccess mid addr op remote s) := by
  unfold execRuntimeAccess
  repeat' first
    | with_reducible apply keptOut_next | with_reducible exact hk | split | with_reducible apply kept_runtimeRead
    | with_reducible apply kept_runtimeWrite | with_reducible refine kept_mk ?_ rfl rfl rfl rfl rfl rfl rfl rfl

theorem kept_copyPut {s0 s : State} {mid src dst : Nat} {b : Bytes} {bad : List Nat} (hk : Kept s0 s) :
    Kept s0 (copyPut s mid src dst b bad) := by
  unfold copyPut
  try dsimp only
  repeat' first
    | with_reducible exact hk | with_reducible exact Kept.refl _ | intro _ | split | with_reducible apply kept_writeAny
    | with_reducible apply kept_dramPoison | with_reducible apply kept_retireWhere | with_reducible apply kept_foldl
    | dsimp only

theorem kept_regionCopyBody {s0 : State} {host : HostRead} {remote : RemoteRead} {s : State} {c : RunCmd} (hk : Kept
    s0 s) :
    Kept s0 (regionCopyBody host remote s c) := by
  unfold regionCopyBody
  try dsimp only
  repeat' first
    | with_reducible exact hk | split | with_reducible apply kept_failAddr | with_reducible apply kept_failWith
    | with_reducible apply kept_cmdHold | with_reducible apply kept_readWhole | with_reducible apply kept_chargeHostRx
    | with_reducible apply kept_complete | with_reducible apply kept_chargeWrite | with_reducible apply kept_writeAny
    | with_reducible refine kept_readAny_of ?_ (by assumption) | with_reducible apply kept_readAny
    | with_reducible apply kept_chargeRead | with_reducible apply kept_chargeHostTx | with_reducible apply kept_emit
    | with_reducible apply kept_copyPut | with_reducible refine kept_fst ?_ (by assumption)
    | with_reducible refine kept_mk ?_ rfl rfl rfl rfl rfl rfl rfl rfl | dsimp only

theorem kept_execRegionCopy {s0 : State} {src : DeskSrc} {host : HostRead} {remote : RemoteRead} {s : State} (hk :
    Kept s0 s) :
    KeptOut s0 (execRegionCopy src host remote s) :=
  keptOut_next (kept_deskRun (fun _ _ => kept_regionCopyBody (.refl _)) hk)

end Sys2Proof.Machine
end

