-- ==== Sys2Proof/Laws/KeptStepVector.lean ====
section
/-! SUPPORT. What the operations of StepVector keep. -/

namespace Sys2Proof.Machine

set_option Elab.async false
set_option linter.all false

theorem kept_readVecs {s0 s : State} {n : Nat} {v : Volume} {y0 : List Nat} (hk : Kept s0 s) :
    Kept s0 (readVecs s n v y0).1 := by
  induction y0 generalizing s with
  | nil => exact hk
  | cons i r ih => exact ih (kept_readOper hk)

theorem kept_readVecs_of {s0 s : State} {n : Nat} {v : Volume} {y0 : List Nat} {r : State × List VecIn × Bool} (hk :
    Kept s0 s)
    (e : readVecs s n v y0 = r) : Kept s0 r.1 :=
  e ▸ kept_readVecs hk

theorem kept_writeRows {s0 s : State} {n : Nat} {v : Volume} {x : Ctx} {st : VStep}
    {outs : List (Nat × List (List Nat))} (hk : Kept s0 s) :
    Kept s0 (writeRows s n v x st outs) :=
  kept_foldl (fun _ _ => kept_writeEncoded (.refl _)) hk

theorem kept_vuBody {s0 : State} {n : Nat} {outs : VStep → List Nat}
    {f : Volume → Ctx → VStep → List VecIn → List (Nat × List (List Nat))} {s : State} {v : Volume} {x : Ctx}
    {st : VStep} (hk : Kept s0 s) :
    Kept s0 (vuBody n outs f s v x st) := by
  unfold vuBody
  try dsimp only
  repeat' first
    | with_reducible exact hk | with_reducible exact Kept.refl _ | intro _ | split
    | with_reducible apply kept_refuseStep | with_reducible refine kept_readVecs_of ?_ (by assumption)
    | with_reducible apply kept_readVecs | with_reducible apply kept_poisonStep | with_reducible apply kept_doneStep
    | with_reducible apply kept_writeRows | with_reducible refine kept_fst ?_ (by assumption)
    | with_reducible refine kept_mk ?_ rfl rfl rfl rfl rfl rfl rfl rfl | dsimp only

theorem kept_execElemwise {s0 : State} {ctx : Nat} {s : State} (hk : Kept s0 s) : KeptOut s0 (execElemwise ctx s) :=
  keptOut_next (kept_runStep (fun _ _ _ _ => kept_vuBody (.refl _)) hk)

theorem kept_execAct {s0 : State} {ctx : Nat} {s : State} (hk : Kept s0 s) : KeptOut s0 (execAct ctx s) :=
  keptOut_next (kept_runStep (fun _ _ _ _ => kept_vuBody (.refl _)) hk)

theorem kept_execRmsnorm {s0 : State} {ctx : Nat} {s : State} (hk : Kept s0 s) : KeptOut s0 (execRmsnorm ctx s) :=
  keptOut_next (kept_runStep (fun _ _ _ _ => kept_vuBody (.refl _)) hk)

theorem kept_execLayernorm {s0 : State} {ctx : Nat} {s : State} (hk : Kept s0 s) : KeptOut s0 (execLayernorm ctx s) :=
  keptOut_next (kept_runStep (fun _ _ _ _ => kept_vuBody (.refl _)) hk)

theorem kept_execSoftmax {s0 : State} {ctx : Nat} {s : State} (hk : Kept s0 s) : KeptOut s0 (execSoftmax ctx s) :=
  keptOut_next (kept_runStep (fun _ _ _ _ => kept_vuBody (.refl _)) hk)

theorem kept_execRope {s0 : State} {ctx : Nat} {s : State} (hk : Kept s0 s) : KeptOut s0 (execRope ctx s) :=
  keptOut_next (kept_runStep (fun _ _ _ _ => kept_vuBody (.refl _)) hk)

theorem kept_execMerge {s0 : State} {ctx : Nat} {s : State} (hk : Kept s0 s) : KeptOut s0 (execMerge ctx s) :=
  keptOut_next (kept_runStep (fun _ _ _ _ => kept_vuBody (.refl _)) hk)

theorem kept_topkBody {s0 : State} {n : Nat} {s : State} {v : Volume} {x : Ctx} {st : VStep} (hk : Kept s0 s) :
    Kept s0 (topkBody n s v x st) := by
  unfold topkBody
  try dsimp only
  repeat' first
    | with_reducible exact hk | with_reducible exact Kept.refl _ | intro _ | split
    | with_reducible apply kept_refuseStep | with_reducible refine kept_readVecs_of ?_ (by assumption)
    | with_reducible apply kept_readVecs | with_reducible apply kept_poisonStep | with_reducible apply kept_doneStep
    | with_reducible apply kept_putOper | with_reducible refine kept_fst ?_ (by assumption)
    | with_reducible refine kept_mk ?_ rfl rfl rfl rfl rfl rfl rfl rfl | dsimp only

theorem kept_execTopk {s0 : State} {ctx : Nat} {s : State} (hk : Kept s0 s) : KeptOut s0 (execTopk ctx s) :=
  keptOut_next (kept_runStep (fun _ _ _ _ => kept_topkBody (.refl _)) hk)

end Sys2Proof.Machine
end

