-- ==== Sys2Proof/Laws/KeptPoolLender.lean ====
section
/-! SUPPORT. What the operations of PoolLender keep. -/

namespace Sys2Proof.Machine

set_option Elab.async false
set_option linter.all false

theorem kept_extMod {s0 s : State} {k : Half × Nat} {f : Extent → Extent} (hk : Kept s0 s) : Kept s0 (extMod s k f) :=
  kept_mk hk rfl rfl rfl rfl rfl rfl rfl rfl

theorem kept_stopJobs {s0 s : State} {k : Half × Nat} {code : Nat} (hk : Kept s0 s) : Kept s0 (stopJobs s k code) := by
  unfold stopJobs
  try dsimp only
  repeat' first
    | with_reducible exact hk | with_reducible exact Kept.refl _ | intro _ | with_reducible apply kept_completeSrc
    | with_reducible apply kept_foldl | with_reducible refine kept_mk ?_ rfl rfl rfl rfl rfl rfl rfl rfl | dsimp only

theorem kept_waitsGo {s0 : State} {y0 : List PeerWait} {y1 : State} (hk : Kept s0 y1) : Kept s0 (waitsGo y0 y1) := by
  induction y0 generalizing y1 with
  | nil => exact hk
  | cons w r ih =>
    simp only [waitsGo]
    refine ih ?_
    split
    · exact kept_poolReplyWrite (kept_mk hk rfl rfl rfl rfl rfl rfl rfl rfl)
    · exact hk

theorem kept_peerReply {s0 s : State} {k : Nat × Nat} {h : Half} {sseq status : Nat} {exts : List (Half × Nat)} (hk :
    Kept s0 s) :
    Kept s0 (peerReply s k h sseq status exts) := by
  unfold peerReply
  try dsimp only
  repeat' first
    | with_reducible exact hk | with_reducible exact Kept.refl _ | intro _ | split
    | with_reducible apply kept_poolReplyWrite | with_reducible refine kept_fst ?_ (by assumption)
    | with_reducible refine kept_mk ?_ rfl rfl rfl rfl rfl rfl rfl rfl | dsimp only

theorem kept_waitsEnd {s0 s : State} {k : Half × Nat} {code : Nat} (hk : Kept s0 s) : Kept s0 (waitsEnd s k code) := by
  unfold waitsEnd
  try dsimp only
  repeat' first
    | with_reducible exact hk | with_reducible exact Kept.refl _ | intro _ | with_reducible apply kept_poolReplyWrite
    | with_reducible apply kept_foldl | with_reducible apply kept_foldl_fst
    | with_reducible refine kept_mk ?_ rfl rfl rfl rfl rfl rfl rfl rfl | dsimp only

theorem kept_enterErasing {s0 s : State} {k : Half × Nat} (hk : Kept s0 s) : Kept s0 (enterErasing s k) := by
  unfold enterErasing
  try dsimp only
  repeat' first
    | with_reducible exact hk | with_reducible exact Kept.refl _ | intro _ | split | with_reducible apply kept_waitsEnd
    | with_reducible apply kept_stopJobs | with_reducible apply kept_extMod | with_reducible apply kept_drew
    | with_reducible apply kept_chargeWrite | with_reducible apply kept_dramZero
    | with_reducible apply kept_entriesDrop | with_reducible refine kept_mk ?_ rfl rfl rfl rfl rfl rfl rfl rfl
    | dsimp only

theorem kept_sendNotice {s0 s : State} {e : Extent} {k : Half × Nat} {code : Nat} (hk : Kept s0 s) :
    Kept s0 (sendNotice s e k code) :=
  kept_msgSend hk

theorem kept_enterDraining {s0 s : State} {k : Half × Nat} {code : Nat} (hk : Kept s0 s) :
    Kept s0 (enterDraining s k code) :=
  kept_mk hk rfl rfl rfl rfl rfl rfl rfl rfl

theorem kept_withdrawExtent {s0 s : State} {k : Half × Nat} (hk : Kept s0 s) : Kept s0 (withdrawExtent s k) := by
  unfold withdrawExtent
  repeat' first
    | with_reducible exact hk | split | with_reducible apply kept_startZeroing
    | with_reducible refine kept_mk ?_ rfl rfl rfl rfl rfl rfl rfl rfl

theorem kept_renewExtent {s0 s : State} {k : Half × Nat} {ms : Nat} (hk : Kept s0 s) : Kept s0 (renewExtent s k ms) :=
  kept_mk hk rfl rfl rfl rfl rfl rfl rfl rfl

theorem kept_execDueDateExpiry {s0 : State} {half : Half} {ext : Nat} {s : State} (hk : Kept s0 s) :
    KeptOut s0 (execDueDateExpiry half ext s) := by
  unfold execDueDateExpiry
  try dsimp only
  repeat' first
    | with_reducible apply keptOut_next | with_reducible exact hk | with_reducible exact Kept.refl _ | intro _ | split
    | with_reducible apply kept_logNow | with_reducible apply kept_extMod
    | with_reducible refine kept_fst ?_ (by assumption)
    | with_reducible refine kept_mk ?_ rfl rfl rfl rfl rfl rfl rfl rfl | dsimp only

theorem kept_execGraceEnd {s0 : State} {half : Half} {ext : Nat} {s : State} (hk : Kept s0 s) :
    KeptOut s0 (execGraceEnd half ext s) := by
  unfold execGraceEnd
  repeat' first
    | with_reducible apply keptOut_next | with_reducible exact hk | split | with_reducible apply kept_sendNotice
    | with_reducible apply kept_enterDraining | with_reducible refine kept_fst ?_ (by assumption)
    | with_reducible refine kept_mk ?_ rfl rfl rfl rfl rfl rfl rfl rfl

theorem kept_execDrainEnd {s0 : State} {half : Half} {ext : Nat} {s : State} (hk : Kept s0 s) :
    KeptOut s0 (execDrainEnd half ext s) := by
  unfold execDrainEnd
  try dsimp only
  repeat' first
    | with_reducible apply keptOut_next | with_reducible exact hk | with_reducible exact Kept.refl _ | intro _ | split
    | with_reducible apply kept_enterErasing | with_reducible refine kept_fst ?_ (by assumption)
    | with_reducible refine kept_mk ?_ rfl rfl rfl rfl rfl rfl rfl rfl | dsimp only

theorem kept_dropShared {s0 s : State} {r : Nat} (hk : Kept s0 s) : Kept s0 (dropShared s r) :=
  kept_mk hk rfl rfl rfl rfl rfl rfl rfl rfl

theorem kept_execEraseEnd {s0 : State} {half : Half} {ext : Nat} {s : State} (hk : Kept s0 s) :
    KeptOut s0 (execEraseEnd half ext s) := by
  unfold execEraseEnd
  try dsimp only
  repeat' first
    | with_reducible apply keptOut_next | with_reducible exact hk | with_reducible exact Kept.refl _ | intro _ | split
    | with_reducible apply kept_dropShared | with_reducible apply kept_withdrawExtent
    | with_reducible apply kept_extMod | with_reducible refine kept_fst ?_ (by assumption)
    | with_reducible refine kept_mk ?_ rfl rfl rfl rfl rfl rfl rfl rfl | dsimp only

theorem kept_execGrantTimeout {s0 : State} {half : Half} {ext : Nat} {s : State} (hk : Kept s0 s) :
    KeptOut s0 (execGrantTimeout half ext s) := by
  unfold execGrantTimeout
  try dsimp only
  repeat' first
    | with_reducible apply keptOut_next | with_reducible exact hk | split | with_reducible apply kept_enterErasing
    | with_reducible apply kept_completeSrc | with_reducible refine kept_fst ?_ (by assumption)
    | with_reducible refine kept_mk ?_ rfl rfl rfl rfl rfl rfl rfl rfl | dsimp only

theorem kept_sharedMod {s0 s : State} {n : Nat} {f : Shared → Shared} (hk : Kept s0 s) : Kept s0 (sharedMod s n f) :=
  kept_mk hk rfl rfl rfl rfl rfl rfl rfl rfl

theorem kept_stampBlock {s0 s : State} {k : Half × Nat} {blk : Nat} {draft : Option Nat} (hk : Kept s0 s) :
    Kept s0 (stampBlock s k blk draft) :=
  kept_mk hk rfl rfl rfl rfl rfl rfl rfl rfl

theorem kept_repairLine {s0 s : State} {e : Extent} {line : Nat} (hk : Kept s0 s) :
    Kept s0 (repairLine s e line).1 := by
  unfold repairLine
  try dsimp only
  repeat' first
    | with_reducible exact hk | split | with_reducible apply kept_emit | with_reducible apply kept_bump
    | with_reducible refine kept_farBytes_of ?_ (by assumption) | with_reducible apply kept_farBytes
    | with_reducible apply kept_physWrite | with_reducible refine kept_fst ?_ (by assumption) | dsimp only

theorem kept_repairLine_of {s0 s : State} {e : Extent} {line : Nat} {r : State × Bool} (hk : Kept s0 s)
    (e : repairLine s e line = r) : Kept s0 r.1 :=
  e ▸ kept_repairLine hk

theorem kept_repairLines {s0 s : State} {e : Extent} {y0 : List Nat} (hk : Kept s0 s) :
    Kept s0 (repairLines s e y0).1 := by
  induction y0 generalizing s with
  | nil => exact hk
  | cons l r ih => exact ih (kept_repairLine hk)

theorem kept_repairLines_of {s0 s : State} {e : Extent} {y0 : List Nat} {r : State × List Nat} (hk : Kept s0 s)
    (e : repairLines s e y0 = r) : Kept s0 r.1 :=
  e ▸ kept_repairLines hk

theorem kept_extRead {s0 s : State} {e : Extent} {da n : Nat} (hk : Kept s0 s) : Kept s0 (extRead s e da n).1 := by
  unfold extRead
  try dsimp only
  repeat' first
    | with_reducible exact hk | split | with_reducible apply kept_chargeRead
    | with_reducible refine kept_rtRead_of ?_ (by assumption) | with_reducible apply kept_rtRead
    | with_reducible refine kept_repairLines_of ?_ (by assumption) | with_reducible apply kept_repairLines
    | with_reducible refine kept_fst ?_ (by assumption) | dsimp only

theorem kept_extRead_of {s0 s : State} {e : Extent} {da n : Nat} {r : State × Bytes × List Nat} (hk : Kept s0 s)
    (e : extRead s e da n = r) : Kept s0 r.1 :=
  e ▸ kept_extRead hk

theorem kept_peerForward {s0 s : State} {k : Half × Nat} {e : Extent} {off : Nat} {new old : Bytes} (hk : Kept s0 s) :
    Kept s0 (peerForward s k e off new old) := by
  unfold peerForward
  try dsimp only
  repeat' first
    | with_reducible exact hk | with_reducible exact Kept.refl _ | intro _ | split | with_reducible apply kept_extMod
    | with_reducible apply kept_emit | with_reducible refine kept_mk ?_ rfl rfl rfl rfl rfl rfl rfl rfl | dsimp only

theorem kept_extWrite {s0 s : State} {k : Half × Nat} {e : Extent} {da : Nat} {b : Bytes} {draft : Option Nat} (hk :
    Kept s0 s) :
    Kept s0 (extWrite s k e da b draft) := by
  rw [extWrite]
  repeat' first
    | with_reducible exact hk | split | with_reducible apply kept_chargeWrite | with_reducible apply kept_stampBlock
    | with_reducible refine kept_rtRead_of ?_ (by assumption) | with_reducible apply kept_rtRead
    | with_reducible apply kept_peerForward | with_reducible apply kept_rtWrite
    | with_reducible refine kept_fst ?_ (by assumption) | dsimp only

theorem kept_blockCopy {s0 s : State} {k : Half × Nat} {e : Extent} {a b : Nat} (hk : Kept s0 s) :
    Kept s0 (blockCopy s k e a b) := by
  unfold blockCopy
  try dsimp only
  repeat' first
    | with_reducible exact hk | with_reducible exact Kept.refl _ | intro _ | split
    | with_reducible apply kept_chargeWrite | with_reducible apply kept_chargeRead
    | with_reducible apply kept_retireWhere | with_reducible apply kept_extMod | with_reducible apply kept_dramMove
    | with_reducible apply kept_peerForward | with_reducible refine kept_mk ?_ rfl rfl rfl rfl rfl rfl rfl rfl
    | dsimp only

theorem kept_mapForward {s0 s : State} {r : Shared} {e : Edition} {index blk x : Nat} (hk : Kept s0 s) :
    Kept s0 (mapForward s r e index blk x) := by
  unfold mapForward
  try dsimp only
  repeat' first
    | with_reducible exact hk | split | with_reducible apply kept_peerForward
    | with_reducible refine kept_fst ?_ (by assumption)
    | with_reducible refine kept_mk ?_ rfl rfl rfl rfl rfl rfl rfl rfl | dsimp only

theorem kept_ownBlock {s0 s : State} {v : ViewExt} {index blk : Nat} (hk : Kept s0 s) :
    Kept s0 (ownBlock s v index blk).1 := by
  unfold ownBlock
  try dsimp only
  repeat' first
    | with_reducible exact hk | with_reducible exact Kept.refl _ | intro _ | split
    | with_reducible apply kept_blockCopy | with_reducible apply kept_sharedMod | with_reducible apply kept_mapForward
    | with_reducible refine kept_fst ?_ (by assumption)
    | with_reducible refine kept_mk ?_ rfl rfl rfl rfl rfl rfl rfl rfl | dsimp only

theorem kept_ownBlock_of {s0 s : State} {v : ViewExt} {index blk : Nat} {r : State × Option Nat} (hk : Kept s0 s)
    (e : ownBlock s v index blk = r) : Kept s0 r.1 :=
  e ▸ kept_ownBlock hk

theorem kept_viewRead {s0 s : State} {v : ViewExt} {r : Shared} {e : Edition} {y0 : List (Nat × Nat)} (hk : Kept s0
    s) :
    Kept s0 (viewRead s v r e y0).1 := by
  induction y0 generalizing s with
  | nil => exact hk
  | cons p rest ih =>
    refine ih ?_
    split
    · exact hk
    · exact kept_extRead hk

theorem kept_viewRead_of {s0 s : State} {v : ViewExt} {r : Shared} {e : Edition} {y0 : List (Nat × Nat)}
    {r_ : State × Bytes × List Nat} (hk : Kept s0 s)
    (e : viewRead s v r e y0 = r_) : Kept s0 r_.1 :=
  e ▸ kept_viewRead hk

theorem kept_parityRead {s0 s : State} {e : Extent} {off n : Nat} (hk : Kept s0 s) :
    Kept s0 (parityRead s e off n).1 := by
  have hr : Kept s0 (rtRead (chargeRead s 3 (e.base + off) n (.tier (daHalf e.base))) (e.base + off) n 0).1 :=
    kept_rtRead (kept_chargeRead hk)
  unfold parityRead
  generalize rtRead (chargeRead s 3 (e.base + off) n (.tier (daHalf e.base))) (e.base + off) n 0 = r at *
  obtain ⟨s1, own, bad⟩ := r
  exact kept_farBytes (kept_emit (kept_bump hr))

theorem kept_parityRead_of {s0 s : State} {e : Extent} {off n : Nat} {r : State × Bytes × List Nat} (hk : Kept s0 s)
    (e : parityRead s e off n = r) : Kept s0 r.1 :=
  e ▸ kept_parityRead hk

theorem kept_promoted {s0 s : State} {k : Half × Nat} {e : Extent} {node : Nat} (hk : Kept s0 s) :
    Kept s0 (promoted s k e node).1 := by
  unfold promoted
  try dsimp only
  repeat' first
    | with_reducible exact hk | with_reducible exact Kept.refl _ | intro _ | split | with_reducible apply kept_extMod
    | with_reducible refine kept_fst ?_ (by assumption)
    | with_reducible refine kept_mk ?_ rfl rfl rfl rfl rfl rfl rfl rfl | dsimp only

theorem kept_promoted_of {s0 s : State} {k : Half × Nat} {e : Extent} {node : Nat} {r : State × Extent} (hk : Kept s0
    s)
    (e : promoted s k e node = r) : Kept s0 r.1 :=
  e ▸ kept_promoted hk

theorem kept_poolGet {s0 s : State} {node mid : Nat} {half : Half} {ext off n arrived : Nat} (hk : Kept s0 s) :
    Kept s0 (poolGet s node mid half ext off n arrived).1 := by
  unfold poolGet
  try dsimp only
  repeat' first
    | with_reducible exact hk | with_reducible exact Kept.refl _ | intro _ | split
    | with_reducible refine kept_parityRead_of ?_ (by assumption) | with_reducible apply kept_parityRead
    | with_reducible refine kept_promoted_of ?_ (by assumption) | with_reducible apply kept_promoted
    | with_reducible refine kept_extRead_of ?_ (by assumption) | with_reducible apply kept_extRead
    | with_reducible refine kept_viewRead_of ?_ (by assumption) | with_reducible apply kept_viewRead
    | with_reducible refine kept_fst ?_ (by assumption)
    | with_reducible refine kept_mk ?_ rfl rfl rfl rfl rfl rfl rfl rfl | dsimp only

theorem kept_poolGet_of {s0 s : State} {node mid : Nat} {half : Half} {ext off n arrived : Nat}
    {r : State × Nat × Bytes × List Nat} (hk : Kept s0 s)
    (e : poolGet s node mid half ext off n arrived = r) : Kept s0 r.1 :=
  e ▸ kept_poolGet hk

theorem kept_viewWrite {s0 s : State} {v : ViewExt} {b : Bytes} {off : Nat} {y0 : List (Nat × Nat)} (hk : Kept s0 s) :
    Kept s0 (viewWrite s v b off y0).1 := by
  induction y0 generalizing s with
  | nil => exact hk
  | cons p rest ih =>
    simp only [viewWrite]
    repeat' first
      | with_reducible exact hk
      | split
      | with_reducible apply ih
      | with_reducible apply kept_extWrite
      | (with_reducible refine kept_ownBlock_of ?_ (by assumption))

theorem kept_viewWrite_of {s0 s : State} {v : ViewExt} {b : Bytes} {off : Nat} {y0 : List (Nat × Nat)}
    {r : State × Nat} (hk : Kept s0 s)
    (e : viewWrite s v b off y0 = r) : Kept s0 r.1 :=
  e ▸ kept_viewWrite hk

theorem kept_peerPut {s0 s : State} {k : Half × Nat} {e : Extent} {off : Nat} {b : Bytes} (hk : Kept s0 s) :
    Kept s0 (peerPut s k e off b) := by
  unfold peerPut
  repeat' first
    | with_reducible exact hk | with_reducible apply kept_stampBlock | with_reducible apply kept_rtWrite
    | with_reducible apply kept_chargeWrite

theorem kept_poolPut {s0 s : State} {node mid : Nat} {half : Half} {ext off : Nat} {b : Bytes} {arrived : Nat} (hk :
    Kept s0 s) :
    Kept s0 (poolPut s node mid half ext off b arrived).1 := by
  rw [poolPut]
  repeat' first
    | with_reducible exact hk | split | with_reducible refine kept_rtRead_of ?_ (by assumption)
    | with_reducible apply kept_rtRead | with_reducible apply kept_peerPut
    | with_reducible refine kept_promoted_of ?_ (by assumption) | with_reducible apply kept_promoted
    | with_reducible apply kept_extWrite | with_reducible refine kept_viewWrite_of ?_ (by assumption)
    | with_reducible apply kept_viewWrite | with_reducible refine kept_fst ?_ (by assumption)
    | with_reducible refine kept_mk ?_ rfl rfl rfl rfl rfl rfl rfl rfl | dsimp only

theorem kept_poolPut_of {s0 s : State} {node mid : Nat} {half : Half} {ext off : Nat} {b : Bytes} {arrived : Nat}
    {r : State × Nat} (hk : Kept s0 s)
    (e : poolPut s node mid half ext off b arrived = r) : Kept s0 r.1 :=
  e ▸ kept_poolPut hk

theorem kept_capUse {s0 s : State} {node mid n : Nat} (hk : Kept s0 s) : Kept s0 (capUse s node mid n) :=
  kept_mk hk rfl rfl rfl rfl rfl rfl rfl rfl

theorem kept_jobRead {s0 s : State} {j : NearJob} {y0 : List (Half × Nat × Nat)} (hk : Kept s0 s) :
    Kept s0 (jobRead s j y0).1 := by
  induction y0 generalizing s with
  | nil => exact hk
  | cons l r ih =>
    simp only [jobRead]
    split
    · exact ih (kept_poolGet hk)
    · exact kept_poolGet hk

theorem kept_jobRead_of {s0 s : State} {j : NearJob} {y0 : List (Half × Nat × Nat)} {r : State × Nat × List Bytes}
    (hk : Kept s0 s)
    (e : jobRead s j y0 = r) : Kept s0 r.1 :=
  e ▸ kept_jobRead hk

theorem kept_runJob {s0 s : State} {j : NearJob} (hk : Kept s0 s) : Kept s0 (runJob s j).1 := by
  unfold runJob
  try dsimp only
  repeat' first
    | with_reducible exact hk | split | with_reducible refine kept_poolPut_of ?_ (by assumption)
    | with_reducible apply kept_poolPut | with_reducible refine kept_jobRead_of ?_ (by assumption)
    | with_reducible apply kept_jobRead | with_reducible refine kept_fst ?_ (by assumption)
    | with_reducible refine kept_mk ?_ rfl rfl rfl rfl rfl rfl rfl rfl | dsimp only

theorem kept_runJob_of {s0 s : State} {j : NearJob} {r : State × NearJob} (hk : Kept s0 s)
    (e : runJob s j = r) : Kept s0 r.1 :=
  e ▸ kept_runJob hk

theorem kept_engineMod {s0 s : State} {h : Half} {f : Option NearJob × List NearJob → Option NearJob × List NearJob}
    (hk : Kept s0 s) :
    Kept s0 (engineMod s h f) :=
  kept_mk hk rfl rfl rfl rfl rfl rfl rfl rfl

theorem kept_execNearOpStart {s0 : State} {half : Half} {s : State} (hk : Kept s0 s) :
    KeptOut s0 (execNearOpStart half s) := by
  unfold execNearOpStart
  try dsimp only
  repeat' first
    | with_reducible apply keptOut_next | with_reducible exact hk | with_reducible exact Kept.refl _ | intro _ | split
    | with_reducible apply kept_charge | with_reducible apply kept_engineMod
    | with_reducible refine kept_runJob_of ?_ (by assumption) | with_reducible apply kept_runJob
    | with_reducible refine kept_fst ?_ (by assumption)
    | with_reducible refine kept_mk ?_ rfl rfl rfl rfl rfl rfl rfl rfl | dsimp only

theorem kept_execNearOpEnd {s0 : State} {half : Half} {s : State} (hk : Kept s0 s) :
    KeptOut s0 (execNearOpEnd half s) := by
  unfold execNearOpEnd
  try dsimp only
  repeat' first
    | with_reducible apply keptOut_next | with_reducible exact hk | with_reducible exact Kept.refl _ | intro _ | split
    | with_reducible apply kept_engineMod | with_reducible apply kept_completeSrc
    | with_reducible refine kept_fst ?_ (by assumption)
    | with_reducible refine kept_mk ?_ rfl rfl rfl rfl rfl rfl rfl rfl | dsimp only

theorem kept_rangeSend {s0 s : State} {k : Half × Nat} {e : Extent} {cls off n : Nat} {stamp : BitVec 64} (hk : Kept
    s0 s) :
    Kept s0 (rangeSend s k e cls off n stamp) := by
  unfold rangeSend
  split
  exact kept_emit (kept_rtRead_of (kept_chargeRead hk) (by assumption))

theorem kept_blockSend {s0 s : State} {k : Half × Nat} {e : Extent} {cls blk : Nat} (hk : Kept s0 s) :
    Kept s0 (blockSend s k e cls blk) := by
  unfold blockSend
  repeat' first
    | with_reducible exact hk | with_reducible apply kept_rangeSend

theorem kept_execMirrorResyncEnd {s0 : State} {half : Half} {ext : Nat} {s : State} (hk : Kept s0 s) :
    KeptOut s0 (execMirrorResyncEnd half ext s) := by
  unfold execMirrorResyncEnd
  try dsimp only
  repeat' first
    | with_reducible apply keptOut_next | with_reducible exact hk | with_reducible exact Kept.refl _ | intro _ | split
    | with_reducible apply kept_blockSend | with_reducible apply kept_bump | with_reducible apply kept_extMod
    | with_reducible apply kept_foldl | with_reducible refine kept_fst ?_ (by assumption)
    | with_reducible refine kept_mk ?_ rfl rfl rfl rfl rfl rfl rfl rfl | dsimp only

theorem kept_peerStep {s0 s : State} {k : Half × Nat} (hk : Kept s0 s) : Kept s0 (peerStep s k) := by
  unfold peerStep
  try dsimp only
  repeat' first
    | with_reducible exact hk | with_reducible exact Kept.refl _ | intro _ | split | with_reducible apply kept_bump
    | with_reducible apply kept_extMod | with_reducible refine kept_mk ?_ rfl rfl rfl rfl rfl rfl rfl rfl | dsimp only

theorem kept_peerTick {s0 s : State} (hk : Kept s0 s) : Kept s0 (peerTick s) := by
  unfold peerTick
  try dsimp only
  repeat' first
    | with_reducible exact hk | with_reducible exact Kept.refl _ | intro _ | split | with_reducible apply kept_peerStep
    | with_reducible apply kept_waitsGo | with_reducible apply kept_foldl | with_reducible apply kept_foldl_fst
    | dsimp only

theorem kept_verifyBlock {s0 s : State} {k : Half × Nat} {e : Extent} {blk : Nat} {other : Bytes} {stamp : BitVec 64}
    (hk : Kept s0 s) :
    Kept s0 (verifyBlock s k e blk other stamp) := by
  rw [verifyBlock]
  repeat' first
    | with_reducible exact hk | with_reducible exact Kept.refl _ | intro _ | split
    | with_reducible refine kept_rtRead_of ?_ (by assumption) | with_reducible apply kept_rtRead
    | with_reducible apply kept_chargeRead | with_reducible apply kept_extMod | with_reducible apply kept_chargeWrite
    | with_reducible apply kept_rtWrite | with_reducible apply kept_emit | with_reducible apply kept_logNow
    | with_reducible refine kept_fst ?_ (by assumption)
    | with_reducible refine kept_mk ?_ rfl rfl rfl rfl rfl rfl rfl rfl | dsimp only

theorem kept_execMirrorVerify {s0 : State} {half : Half} {ext block : Nat} {secondary : RemoteRead}
    {stamp : BitVec 64} {s : State} (hk : Kept s0 s) :
    KeptOut s0 (execMirrorVerify half ext block secondary stamp s) := by
  unfold execMirrorVerify
  repeat' first
    | with_reducible apply keptOut_next | with_reducible exact hk | split | with_reducible apply kept_verifyBlock
    | with_reducible refine kept_fst ?_ (by assumption)
    | with_reducible refine kept_mk ?_ rfl rfl rfl rfl rfl rfl rfl rfl

theorem kept_parityCheck {s0 s : State} {k : Half × Nat} {e : Extent} {off : Nat} {sum : Bytes} (hk : Kept s0 s) :
    Kept s0 (parityCheck s k e off sum) := by
  have key : ∀ t : State, Kept s0 t → Kept s0 { t with ras := { t.ras with ce := t.ras.ce + 1 } } :=
    fun _ ht => kept_mk ht rfl rfl rfl rfl rfl rfl rfl rfl
  have hr : Kept s0 (rtRead (chargeRead s 6 (e.base + off) 64 (.tier k.1)) (e.base + off) 64 0).1 :=
    kept_rtRead (kept_chargeRead hk)
  unfold parityCheck
  generalize rtRead (chargeRead s 6 (e.base + off) 64 (.tier k.1)) (e.base + off) 64 0 = r at *
  obtain ⟨s1, old, bad⟩ := r
  dsimp only at *
  split
  · apply kept_logCorrected
    refine key _ ?_
    exact kept_rtWrite hr
  · exact hr

theorem kept_execParityVerify {s0 : State} {half : Half} {ext line : Nat} {dataLines : List RemoteRead} {s : State}
    (hk : Kept s0 s) :
    KeptOut s0 (execParityVerify half ext line dataLines s) := by
  rw [execParityVerify]
  repeat' first
    | with_reducible apply keptOut_next | with_reducible exact hk | with_reducible exact Kept.refl _ | intro _ | split
    | with_reducible apply kept_parityCheck | with_reducible apply kept_foldl
    | with_reducible refine kept_fst ?_ (by assumption)
    | with_reducible refine kept_mk ?_ rfl rfl rfl rfl rfl rfl rfl rfl | dsimp only

end Sys2Proof.Machine
end

