-- ==== Sys2Proof/Laws/KeptPoolBorrower.lean ====
section
/-! SUPPORT. What the operations of PoolBorrower keep. -/

namespace Sys2Proof.Machine

set_option Elab.async false
set_option linter.all false

theorem kept_deskSend {s0 s : State} {node mid op : Nat} {vals : List Val} (hk : Kept s0 s) :
    Kept s0 (deskSend s node mid op vals) :=
  kept_msgSend hk

theorem kept_forwardPart {s0 s : State} {c : RunCmd} {node : Nat} {idx : List Nat} {op : Nat} {vals : List Val} (hk :
    Kept s0 s) :
    Kept s0 (forwardPart s c node idx op vals) := by
  unfold forwardPart
  try dsimp only
  repeat' first
    | with_reducible exact hk | with_reducible apply kept_deskSend | with_reducible apply kept_cmdWait
    | with_reducible refine kept_mk ?_ rfl rfl rfl rfl rfl rfl rfl rfl | dsimp only

theorem kept_forwardDone {s0 s : State} {src : DeskSrc} {vals : RunCmd → List Val} (hk : Kept s0 s) :
    Kept s0 (forwardDone s src vals) := by
  unfold forwardDone
  try dsimp only
  repeat' first
    | with_reducible exact hk | with_reducible exact Kept.refl _ | intro _ | split | with_reducible apply kept_complete
    | with_reducible refine kept_mk ?_ rfl rfl rfl rfl rfl rfl rfl rfl | dsimp only

theorem kept_runMod {s0 s : State} {src : DeskSrc} {f : RunCmd → RunCmd} (hk : Kept s0 s) : Kept s0 (runMod s src f) :=
  kept_mk hk rfl rfl rfl rfl rfl rfl rfl rfl

theorem kept_handleMod {s0 s : State} {h : Nat} {f : Handle → Handle} (hk : Kept s0 s) : Kept s0 (handleMod s h f) :=
  kept_mk hk rfl rfl rfl rfl rfl rfl rfl rfl

theorem kept_freeHandle {s0 s : State} {n : Nat} (hk : Kept s0 s) : Kept s0 (freeHandle s n) := by
  unfold freeHandle
  try dsimp only
  repeat' first
    | with_reducible exact hk | with_reducible exact Kept.refl _ | intro _ | split | with_reducible apply kept_foldl
    | with_reducible refine kept_mk ?_ rfl rfl rfl rfl rfl rfl rfl rfl | dsimp only

theorem kept_returnPart {s0 s : State} {mid : Nat} {p : Nat × Half × Nat} (hk : Kept s0 s) :
    Kept s0 (returnPart s mid p) :=
  kept_deskSend hk

theorem kept_returnMaster {s0 s : State} {mid : Nat} (hk : Kept s0 s) : Kept s0 (returnMaster s mid) := by
  unfold returnMaster
  try dsimp only
  repeat' first
    | with_reducible exact hk | with_reducible exact Kept.refl _ | intro _ | split
    | with_reducible apply kept_freeHandle | with_reducible apply kept_deskSend | with_reducible apply kept_returnPart
    | with_reducible apply kept_foldl | with_reducible apply kept_foldl_fst | dsimp only

theorem kept_execHandleFreeTimeout {s0 : State} {handle : Nat} {s : State} (hk : Kept s0 s) :
    KeptOut s0 (execHandleFreeTimeout handle s) := by
  unfold execHandleFreeTimeout
  repeat' first
    | with_reducible apply keptOut_next | with_reducible exact hk | split | with_reducible apply kept_freeHandle
    | with_reducible refine kept_mk ?_ rfl rfl rfl rfl rfl rfl rfl rfl

theorem kept_putHandles {s0 s : State} {l : List (Nat × Handle)} (hk : Kept s0 s) : Kept s0 (putHandles s l) :=
  kept_mk hk rfl rfl rfl rfl rfl rfl rfl rfl

theorem kept_acceptComp {s0 s : State} {node : Nat} {r : PoolReq} {g : GrantMsg} {h : Nat} (hk : Kept s0 s) :
    Kept s0 (acceptComp s node r g h) := by
  unfold acceptComp
  try dsimp only
  repeat' first
    | with_reducible exact hk | split | with_reducible apply kept_putHandles | with_reducible apply kept_poolOpen
    | with_reducible apply kept_msgSend | with_reducible refine kept_mk ?_ rfl rfl rfl rfl rfl rfl rfl rfl | dsimp only

theorem kept_acceptReplacement {s0 s : State} {node : Nat} {g : GrantMsg} {n : Nat} {h : Handle} (hk : Kept s0 s) :
    Kept s0 (acceptReplacement s node g n h) := by
  unfold acceptReplacement
  try dsimp only
  repeat' first
    | with_reducible exact hk | with_reducible exact Kept.refl _ | intro _ | split
    | with_reducible apply kept_handleMod | with_reducible apply kept_poolOpen | with_reducible apply kept_msgSend
    | with_reducible refine kept_fst ?_ (by assumption)
    | with_reducible refine kept_mk ?_ rfl rfl rfl rfl rfl rfl rfl rfl | dsimp only

theorem kept_takeMsg_of {s0 s u : State} {code : Nat} {m : Message} (hk : Kept s0 s) (e : takeMsg s code = some (m, u)) :
    Kept s0 u := by
  unfold takeMsg at e
  split at e
  · cases e
  · cases e
    exact kept_mk hk rfl rfl rfl rfl rfl rfl rfl rfl

theorem kept_execGrantMessage {s0 s : State} (hk : Kept s0 s) : KeptOut s0 (execGrantMessage s) := by
  unfold execGrantMessage
  try dsimp only
  repeat' first
    | with_reducible apply keptOut_next | with_reducible exact hk | split
    | with_reducible refine kept_takeMsg_of ?_ (by assumption) | with_reducible apply kept_msgSend
    | with_reducible apply kept_acceptReplacement | with_reducible apply kept_acceptComp
    | with_reducible refine kept_fst ?_ (by assumption)
    | with_reducible refine kept_mk ?_ rfl rfl rfl rfl rfl rfl rfl rfl | dsimp only

theorem kept_execGrantAccept {s0 s : State} (hk : Kept s0 s) : KeptOut s0 (execGrantAccept s) := by
  unfold execGrantAccept
  try dsimp only
  repeat' first
    | with_reducible apply keptOut_next | with_reducible exact hk | with_reducible exact Kept.refl _ | intro _ | split
    | with_reducible refine kept_takeMsg_of ?_ (by assumption) | with_reducible apply kept_extMod
    | with_reducible apply kept_sendNotice | with_reducible apply kept_enterDraining
    | with_reducible apply kept_completeSrc | with_reducible refine kept_fst ?_ (by assumption)
    | with_reducible refine kept_mk ?_ rfl rfl rfl rfl rfl rfl rfl rfl | dsimp only

theorem kept_execGrantRefuse {s0 s : State} (hk : Kept s0 s) : KeptOut s0 (execGrantRefuse s) := by
  unfold execGrantRefuse
  try dsimp only
  repeat' first
    | with_reducible apply keptOut_next | with_reducible exact hk | split
    | with_reducible refine kept_takeMsg_of ?_ (by assumption) | with_reducible apply kept_enterErasing
    | with_reducible apply kept_completeSrc | with_reducible refine kept_fst ?_ (by assumption)
    | with_reducible refine kept_mk ?_ rfl rfl rfl rfl rfl rfl rfl rfl | dsimp only

theorem kept_requestEnd {s0 s : State} {request : Nat} {r : PoolReq} (hk : Kept s0 s) :
    Kept s0 (requestEnd s request r) := by
  unfold requestEnd
  try dsimp only
  repeat' first
    | with_reducible exact hk | with_reducible exact Kept.refl _ | intro _ | with_reducible apply kept_returnPart
    | with_reducible apply kept_foldl | with_reducible refine kept_mk ?_ rfl rfl rfl rfl rfl rfl rfl rfl | dsimp only

theorem kept_execRequestTimeout {s0 : State} {request : Nat} {s : State} (hk : Kept s0 s) :
    KeptOut s0 (execRequestTimeout request s) := by
  unfold execRequestTimeout
  repeat' first
    | with_reducible apply keptOut_next | with_reducible exact hk | split | with_reducible apply kept_requestEnd
    | with_reducible refine kept_mk ?_ rfl rfl rfl rfl rfl rfl rfl rfl

theorem kept_reissue {s0 s : State} {n : Nat} (hk : Kept s0 s) : Kept s0 (reissue s n) := by
  unfold reissue
  try dsimp only
  repeat' first
    | with_reducible exact hk | with_reducible exact Kept.refl _ | intro _ | split
    | with_reducible apply kept_poolWrite | with_reducible apply kept_poolRead | with_reducible apply kept_foldl
    | with_reducible apply kept_foldl_fst | with_reducible refine kept_mk ?_ rfl rfl rfl rfl rfl rfl rfl rfl
    | dsimp only

theorem kept_mirrorLoss {s0 s : State} {n : Nat} {part : MirrorPart} (hk : Kept s0 s) :
    Kept s0 (mirrorLoss s n part) := by
  unfold mirrorLoss
  try dsimp only
  repeat' first
    | with_reducible exact hk | with_reducible exact Kept.refl _ | intro _ | split
    | with_reducible apply kept_handleMod | with_reducible apply kept_reissue
    | with_reducible refine kept_fst ?_ (by assumption)
    | with_reducible refine kept_mk ?_ rfl rfl rfl rfl rfl rfl rfl rfl | dsimp only

theorem kept_execMirrorComponentLoss {s0 : State} {handle : Nat} {part : MirrorPart} {s : State} (hk : Kept s0 s) :
    KeptOut s0 (execMirrorComponentLoss handle part s) :=
  keptOut_next (kept_mirrorLoss hk)

theorem kept_paritySet {s0 s : State} {set : Nat} {st : ParityState} (hk : Kept s0 s) :
    Kept s0 (paritySet s set st) := by
  unfold paritySet
  try dsimp only
  repeat' first
    | with_reducible exact hk | with_reducible exact Kept.refl _ | intro _ | split
    | with_reducible apply kept_handleMod | with_reducible apply kept_foldl | with_reducible apply kept_foldl_fst
    | with_reducible refine kept_mk ?_ rfl rfl rfl rfl rfl rfl rfl rfl | dsimp only

theorem kept_parityLoss {s0 s : State} {set index : Nat} (hk : Kept s0 s) : Kept s0 (parityLoss s set index) := by
  unfold parityLoss
  try dsimp only
  repeat' first
    | with_reducible exact hk | with_reducible exact Kept.refl _ | intro _ | split
    | with_reducible apply kept_handleMod | with_reducible apply kept_paritySet
    | with_reducible refine kept_mk ?_ rfl rfl rfl rfl rfl rfl rfl rfl | dsimp only

theorem kept_execParityComponentLoss {s0 : State} {set index : Nat} {s : State} (hk : Kept s0 s) :
    KeptOut s0 (execParityComponentLoss set index s) := by
  unfold execParityComponentLoss
  repeat' first
    | with_reducible apply keptOut_next | with_reducible exact hk | split | with_reducible apply kept_parityLoss

theorem kept_rebuildRange {s0 s : State} {k : Half × Nat} {e : Extent} {index off n : Nat} (hk : Kept s0 s) :
    Kept s0 (rebuildRange s k e index off n) := by
  unfold rebuildRange
  split
  have hf := kept_farBytes_of (kept_emit hk) (by assumption)
  split
  · exact kept_rtWrite (kept_chargeWrite hf)
  · split
    exact kept_emit (kept_rtRead_of (kept_chargeRead hf) (by assumption))

theorem kept_rebuildBlock {s0 s : State} {k : Half × Nat} {e : Extent} {index blk : Nat} (hk : Kept s0 s) :
    Kept s0 (rebuildBlock s k e index blk) := by
  unfold rebuildBlock
  repeat' first
    | with_reducible exact hk | with_reducible apply kept_rebuildRange

theorem kept_rebuildHere {s0 s : State} {set index : Nat} (hk : Kept s0 s) : Kept s0 (rebuildHere s set index) := by
  unfold rebuildHere
  try dsimp only
  repeat' first
    | with_reducible exact hk | with_reducible exact Kept.refl _ | intro _ | split
    | with_reducible apply kept_rebuildBlock | with_reducible apply kept_extMod | with_reducible apply kept_foldl
    | with_reducible apply kept_foldl_fst | with_reducible refine kept_mk ?_ rfl rfl rfl rfl rfl rfl rfl rfl
    | dsimp only

theorem kept_execParityRebuildEnd {s0 : State} {set index : Nat} {s : State} (hk : Kept s0 s) :
    KeptOut s0 (execParityRebuildEnd set index s) := by
  unfold execParityRebuildEnd
  try dsimp only
  repeat' first
    | with_reducible apply keptOut_next | with_reducible exact hk | with_reducible exact Kept.refl _ | intro _ | split
    | with_reducible apply kept_rebuildHere | with_reducible apply kept_handleMod | with_reducible apply kept_paritySet
    | with_reducible refine kept_mk ?_ rfl rfl rfl rfl rfl rfl rfl rfl | dsimp only

theorem kept_noticeHandle {s0 s : State} {node : Nat} {k : Half × Nat} {code n : Nat} {h : Handle} (hk : Kept s0 s) :
    Kept s0 (noticeHandle s node k code n h) := by
  unfold noticeHandle
  try dsimp only
  repeat' first
    | with_reducible exact hk | with_reducible exact Kept.refl _ | intro _ | split
    | with_reducible apply kept_handleMod | with_reducible apply kept_mirrorLoss | with_reducible apply kept_parityLoss
    | with_reducible refine kept_fst ?_ (by assumption)
    | with_reducible refine kept_mk ?_ rfl rfl rfl rfl rfl rfl rfl rfl | dsimp only

theorem kept_execNoticeReceive {s0 s : State} (hk : Kept s0 s) : KeptOut s0 (execNoticeReceive s) := by
  unfold execNoticeReceive
  try dsimp only
  repeat' first
    | with_reducible apply keptOut_next | with_reducible exact hk | with_reducible exact Kept.refl _ | intro _ | split
    | with_reducible refine kept_takeMsg_of ?_ (by assumption) | with_reducible apply kept_noticeHandle
    | with_reducible apply kept_foldl | with_reducible refine kept_fst ?_ (by assumption)
    | with_reducible apply kept_foldl_fst | with_reducible refine kept_mk ?_ rfl rfl rfl rfl rfl rfl rfl rfl
    | dsimp only

theorem kept_execPoolWindowAdjust {s0 : State} {lender : Nat} {s : State} (hk : Kept s0 s) :
    KeptOut s0 (execPoolWindowAdjust lender s) := by
  unfold execPoolWindowAdjust
  try dsimp only
  repeat' first
    | with_reducible apply keptOut_next | with_reducible exact hk | split | with_reducible apply kept_lenderGo
    | with_reducible refine kept_mk ?_ rfl rfl rfl rfl rfl rfl rfl rfl | dsimp only

theorem kept_openView {s0 s : State} {c : RunCmd} {node base edition : Nat} (hk : Kept s0 s) :
    Kept s0 (openView s c node base edition).1 := by
  unfold openView
  try dsimp only
  repeat' first
    | with_reducible exact hk | split | with_reducible apply kept_putHandles
    | with_reducible refine kept_fst ?_ (by assumption)
    | with_reducible refine kept_mk ?_ rfl rfl rfl rfl rfl rfl rfl rfl | dsimp only

theorem kept_openView_of {s0 s : State} {c : RunCmd} {node base edition : Nat} {r : State × Option Nat} (hk : Kept s0
    s)
    (e : openView s c node base edition = r) : Kept s0 r.1 :=
  e ▸ kept_openView hk

theorem kept_answerPart {s0 s : State} {f : FwdOut} {c : RunCmd} {rc : Nat} {result : Bytes} (hk : Kept s0 s) :
    Kept s0 (answerPart s f c rc result) := by
  unfold answerPart
  try dsimp only
  repeat' first
    | with_reducible exact hk | with_reducible exact Kept.refl _ | intro _ | split | with_reducible apply kept_runMod
    | with_reducible apply kept_handleMod | with_reducible apply kept_forwardDone
    | with_reducible refine kept_openView_of ?_ (by assumption) | with_reducible apply kept_openView
    | with_reducible apply kept_poolOpen | with_reducible apply kept_completeSrc | with_reducible apply kept_foldl
    | with_reducible refine kept_fst ?_ (by assumption) | with_reducible apply kept_foldl_fst
    | with_reducible refine kept_mk ?_ rfl rfl rfl rfl rfl rfl rfl rfl | dsimp only

theorem kept_answerForward {s0 s : State} {node op rc : Nat} {result : Bytes} (hk : Kept s0 s) :
    Kept s0 (answerForward s node op rc result) := by
  unfold answerForward
  try dsimp only
  repeat' first
    | with_reducible exact hk | with_reducible exact Kept.refl _ | intro _ | split
    | with_reducible apply kept_answerPart | with_reducible refine kept_mk ?_ rfl rfl rfl rfl rfl rfl rfl rfl
    | dsimp only

theorem kept_forwardLost {s0 s : State} {node : Nat} (hk : Kept s0 s) : Kept s0 (forwardLost s node) :=
  kept_foldl (fun _ _ => kept_completeSrc (.refl _)) hk

end Sys2Proof.Machine
end

