-- ==== Sys2Proof/Laws/KeptDeskPool.lean ====
section
/-! SUPPORT. What the operations of DeskPool keep. -/

namespace Sys2Proof.Machine

set_option Elab.async false
set_option linter.all false

theorem kept_offerOne_of {s0 s u : State} {h : Half} (hk : Kept s0 s) (e : offerOne s h = some u) : Kept s0 u := by
  cases hg : gibRun s h <;> cases hx : extRun s h 1 <;> simp only [offerOne, hg, hx, reduceCtorEq, Option.some.injEq] at e
  rw [← e]
  refine kept_mk ?_ rfl rfl rfl rfl rfl rfl rfl rfl
  exact kept_drew hk

theorem kept_offerAll_of {s0 s u : State} {n : Nat} {h : Half} (hk : Kept s0 s) (e : offerAll n s h = some u) : Kept s0 u := by
  induction n generalizing s with
  | zero =>
    cases e
    exact hk
  | succ n ih =>
    simp only [offerAll, Option.bind_eq_some_iff] at e
    obtain ⟨v, h1, h2⟩ := e
    exact ih (kept_offerOne_of hk h1) h2

theorem kept_poolOfferBody {s0 s : State} {c : RunCmd} (hk : Kept s0 s) : Kept s0 (poolOfferBody s c) := by
  unfold poolOfferBody
  try dsimp only
  repeat' first
    | with_reducible exact hk | with_reducible exact Kept.refl _ | intro _ | split | with_reducible apply kept_failWith
    | with_reducible refine kept_offerAll_of ?_ (by assumption) | with_reducible apply kept_complete
    | with_reducible apply kept_withdrawExtent | with_reducible apply kept_extMod | with_reducible apply kept_foldl
    | with_reducible refine kept_mk ?_ rfl rfl rfl rfl rfl rfl rfl rfl | dsimp only

theorem kept_execPoolOffer {s0 : State} {src : DeskSrc} {s : State} (hk : Kept s0 s) :
    KeptOut s0 (execPoolOffer src s) :=
  keptOut_next (kept_deskRun (fun _ _ => kept_poolOfferBody (.refl _)) hk)

theorem kept_extentGrantBody {s0 s : State} {c : RunCmd} (hk : Kept s0 s) : Kept s0 (extentGrantBody s c) := by
  unfold extentGrantBody
  try dsimp only
  repeat' first
    | with_reducible exact hk | with_reducible exact Kept.refl _ | intro _ | split | with_reducible apply kept_failWith
    | with_reducible apply kept_extMod | with_reducible apply kept_cmdWait | with_reducible apply kept_msgSend
    | with_reducible refine kept_fst ?_ (by assumption)
    | with_reducible refine kept_mk ?_ rfl rfl rfl rfl rfl rfl rfl rfl | dsimp only

theorem kept_execExtentGrant {s0 : State} {src : DeskSrc} {s : State} (hk : Kept s0 s) :
    KeptOut s0 (execExtentGrant src s) :=
  keptOut_next (kept_deskRun (fun _ _ => kept_extentGrantBody (.refl _)) hk)

theorem kept_renewOne {s0 s : State} {c : RunCmd} {ext ms : Nat} (hk : Kept s0 s) :
    Kept s0 (renewOne s c ext ms).1 := by
  unfold renewOne
  try dsimp only
  repeat' first
    | with_reducible exact hk | split | with_reducible apply kept_renewExtent
    | with_reducible refine kept_fst ?_ (by assumption)
    | with_reducible refine kept_mk ?_ rfl rfl rfl rfl rfl rfl rfl rfl | dsimp only

theorem kept_renewOne_of {s0 s : State} {c : RunCmd} {ext ms : Nat} {r : State × Nat} (hk : Kept s0 s)
    (e : renewOne s c ext ms = r) : Kept s0 r.1 :=
  e ▸ kept_renewOne hk

theorem kept_renewAll {s0 s : State} {c : RunCmd} {ms : Nat} {y0 : List Nat} (hk : Kept s0 s) :
    Kept s0 (renewAll s c ms y0).1 := by
  induction y0 generalizing s with
  | nil => exact hk
  | cons x r ih => exact ih (kept_renewOne hk)

theorem kept_renewAll_of {s0 s : State} {c : RunCmd} {ms : Nat} {y0 : List Nat} {r : State × Bytes} (hk : Kept s0 s)
    (e : renewAll s c ms y0 = r) : Kept s0 r.1 :=
  e ▸ kept_renewAll hk

theorem kept_renewForward {s0 s : State} {c : RunCmd} {hs : List Nat} {ms : Nat} (hk : Kept s0 s) :
    Kept s0 (renewForward s c hs ms) := by
  unfold renewForward
  try dsimp only
  repeat' first
    | with_reducible exact hk | with_reducible exact Kept.refl _ | intro _ | split | with_reducible apply kept_runMod
    | with_reducible apply kept_forwardPart | with_reducible apply kept_forwardDone | with_reducible apply kept_foldl
    | with_reducible refine kept_mk ?_ rfl rfl rfl rfl rfl rfl rfl rfl | dsimp only

theorem kept_leaseRenewBody {s0 : State} {buf : HostRead} {s : State} {c : RunCmd} (hk : Kept s0 s) :
    Kept s0 (leaseRenewBody buf s c) := by
  unfold leaseRenewBody
  try dsimp only
  repeat' first
    | with_reducible exact hk | with_reducible exact Kept.refl _ | intro _ | split
    | with_reducible refine kept_renewAll_of ?_ (by assumption) | with_reducible apply kept_renewAll
    | with_reducible apply kept_complete | with_reducible apply kept_failWith | with_reducible apply kept_withBuf
    | with_reducible apply kept_renewForward | with_reducible refine kept_fst ?_ (by assumption)
    | with_reducible refine kept_mk ?_ rfl rfl rfl rfl rfl rfl rfl rfl | dsimp only

theorem kept_execLeaseRenew {s0 : State} {src : DeskSrc} {buf : HostRead} {s : State} (hk : Kept s0 s) :
    KeptOut s0 (execLeaseRenew src buf s) :=
  keptOut_next (kept_deskRun (fun _ _ => kept_leaseRenewBody (.refl _)) hk)

theorem kept_extentRecallBody {s0 s : State} {c : RunCmd} (hk : Kept s0 s) : Kept s0 (extentRecallBody s c) := by
  unfold extentRecallBody
  try dsimp only
  repeat' first
    | with_reducible exact hk | split | with_reducible apply kept_failWith | with_reducible apply kept_complete
    | with_reducible apply kept_sendNotice | with_reducible apply kept_enterDraining
    | with_reducible refine kept_mk ?_ rfl rfl rfl rfl rfl rfl rfl rfl | dsimp only

theorem kept_execExtentRecall {s0 : State} {src : DeskSrc} {s : State} (hk : Kept s0 s) :
    KeptOut s0 (execExtentRecall src s) :=
  keptOut_next (kept_deskRun (fun _ _ => kept_extentRecallBody (.refl _)) hk)

theorem kept_extentRequestBody {s0 s : State} {c : RunCmd} (hk : Kept s0 s) : Kept s0 (extentRequestBody s c) := by
  unfold extentRequestBody
  try dsimp only
  repeat' first
    | with_reducible exact hk | with_reducible exact Kept.refl _ | intro _ | split | with_reducible apply kept_failWith
    | with_reducible apply kept_complete | with_reducible apply kept_foldl | with_reducible apply kept_foldl_fst
    | with_reducible refine kept_mk ?_ rfl rfl rfl rfl rfl rfl rfl rfl | dsimp only

theorem kept_execExtentRequest {s0 : State} {src : DeskSrc} {s : State} (hk : Kept s0 s) :
    KeptOut s0 (execExtentRequest src s) :=
  keptOut_next (kept_deskRun (fun _ _ => kept_extentRequestBody (.refl _)) hk)

theorem kept_returnHere {s0 s : State} {c : RunCmd} (hk : Kept s0 s) : Kept s0 (returnHere s c) := by
  unfold returnHere
  try dsimp only
  repeat' first
    | with_reducible exact hk | split | with_reducible apply kept_failWith | with_reducible apply kept_complete
    | with_reducible apply kept_enterDraining | with_reducible refine kept_mk ?_ rfl rfl rfl rfl rfl rfl rfl rfl
    | dsimp only

theorem kept_extentReturnBody {s0 s : State} {c : RunCmd} (hk : Kept s0 s) : Kept s0 (extentReturnBody s c) := by
  unfold extentReturnBody
  try dsimp only
  repeat' first
    | with_reducible exact hk | with_reducible exact Kept.refl _ | intro _ | split
    | with_reducible apply kept_returnHere | with_reducible apply kept_failWith | with_reducible apply kept_complete
    | with_reducible apply kept_freeHandle | with_reducible apply kept_forwardPart
    | with_reducible apply kept_forwardDone | with_reducible apply kept_foldl
    | with_reducible refine kept_mk ?_ rfl rfl rfl rfl rfl rfl rfl rfl | dsimp only

theorem kept_execExtentReturn {s0 : State} {src : DeskSrc} {s : State} (hk : Kept s0 s) :
    KeptOut s0 (execExtentReturn src s) :=
  keptOut_next (kept_deskRun (fun _ _ => kept_extentReturnBody (.refl _)) hk)

theorem kept_extentFlushBody {s0 : State} {buf : HostRead} {s : State} {c : RunCmd} (hk : Kept s0 s) :
    Kept s0 (extentFlushBody buf s c) := by
  unfold extentFlushBody
  try dsimp only
  repeat' first
    | with_reducible exact hk | with_reducible exact Kept.refl _ | intro _ | split | with_reducible apply kept_failWith
    | with_reducible apply kept_cmdHold | with_reducible apply kept_withBuf | with_reducible apply kept_handleMod
    | with_reducible apply kept_complete | with_reducible apply kept_foldl
    | with_reducible refine kept_fst ?_ (by assumption)
    | with_reducible refine kept_mk ?_ rfl rfl rfl rfl rfl rfl rfl rfl | dsimp only

theorem kept_execExtentFlush {s0 : State} {src : DeskSrc} {buf : HostRead} {s : State} (hk : Kept s0 s) :
    KeptOut s0 (execExtentFlush src buf s) :=
  keptOut_next (kept_deskRun (fun _ _ => kept_extentFlushBody (.refl _)) hk)

theorem kept_shareMake {s0 s : State} {c : RunCmd} {n sh : Nat} {words : List Nat} (hk : Kept s0 s) :
    Kept s0 (shareMake s c n sh words) := by
  unfold shareMake
  try dsimp only
  repeat' first
    | with_reducible exact hk | with_reducible exact Kept.refl _ | intro _ | split | with_reducible apply kept_failWith
    | with_reducible apply kept_extMod | with_reducible apply kept_complete | with_reducible apply kept_foldl
    | with_reducible refine kept_fst ?_ (by assumption)
    | with_reducible refine kept_mk ?_ rfl rfl rfl rfl rfl rfl rfl rfl | dsimp only

theorem kept_shareHere {s0 s : State} {c : RunCmd} (hk : Kept s0 s) : Kept s0 (shareHere s c) := by
  unfold shareHere
  try dsimp only
  repeat' first
    | with_reducible exact hk | split | with_reducible apply kept_failWith | with_reducible apply kept_shareMake
    | with_reducible apply kept_complete | with_reducible refine kept_mk ?_ rfl rfl rfl rfl rfl rfl rfl rfl
    | dsimp only

theorem kept_shareForward {s0 s : State} {c : RunCmd} {n sh : Nat} {words : List Nat} (hk : Kept s0 s) :
    Kept s0 (shareForward s c n sh words) := by
  unfold shareForward
  try dsimp only
  repeat' first
    | with_reducible exact hk | with_reducible exact Kept.refl _ | intro _ | split | with_reducible apply kept_failWith
    | with_reducible apply kept_runMod | with_reducible apply kept_forwardPart | with_reducible apply kept_foldl
    | with_reducible refine kept_mk ?_ rfl rfl rfl rfl rfl rfl rfl rfl | dsimp only

theorem kept_shareCreateBody {s0 : State} {buf : HostRead} {s : State} {c : RunCmd} (hk : Kept s0 s) :
    Kept s0 (shareCreateBody buf s c) := by
  unfold shareCreateBody
  try dsimp only
  repeat' first
    | with_reducible exact hk | with_reducible exact Kept.refl _ | intro _ | split
    | with_reducible apply kept_shareHere | with_reducible apply kept_failWith | with_reducible apply kept_withBuf
    | with_reducible apply kept_shareForward | with_reducible refine kept_mk ?_ rfl rfl rfl rfl rfl rfl rfl rfl
    | dsimp only

theorem kept_execShareCreate {s0 : State} {src : DeskSrc} {buf : HostRead} {s : State} (hk : Kept s0 s) :
    KeptOut s0 (execShareCreate src buf s) :=
  keptOut_next (kept_deskRun (fun _ _ => kept_shareCreateBody (.refl _)) hk)

theorem kept_editionOpenHere {s0 s : State} {c : RunCmd} (hk : Kept s0 s) : Kept s0 (editionOpenHere s c) := by
  unfold editionOpenHere
  try dsimp only
  repeat' first
    | with_reducible exact hk | with_reducible exact Kept.refl _ | intro _ | split | with_reducible apply kept_failWith
    | with_reducible apply kept_complete | with_reducible apply kept_foldl
    | with_reducible refine kept_fst ?_ (by assumption)
    | with_reducible refine kept_mk ?_ rfl rfl rfl rfl rfl rfl rfl rfl | dsimp only

theorem kept_editionOpenBody {s0 s : State} {c : RunCmd} (hk : Kept s0 s) : Kept s0 (editionOpenBody s c) := by
  unfold editionOpenBody
  try dsimp only
  repeat' first
    | with_reducible exact hk | split | with_reducible apply kept_editionOpenHere | with_reducible apply kept_failWith
    | with_reducible apply kept_forwardPart | dsimp only

theorem kept_execEditionOpen {s0 : State} {src : DeskSrc} {s : State} (hk : Kept s0 s) :
    KeptOut s0 (execEditionOpen src s) :=
  keptOut_next (kept_deskRun (fun _ _ => kept_editionOpenBody (.refl _)) hk)

theorem kept_publishHere {s0 s : State} {c : RunCmd} (hk : Kept s0 s) : Kept s0 (publishHere s c) := by
  unfold publishHere
  try dsimp only
  repeat' first
    | with_reducible exact hk | with_reducible exact Kept.refl _ | intro _ | split | with_reducible apply kept_failWith
    | with_reducible apply kept_complete | with_reducible apply kept_sharedMod
    | with_reducible refine kept_mk ?_ rfl rfl rfl rfl rfl rfl rfl rfl | dsimp only

theorem kept_editionPublishBody {s0 s : State} {c : RunCmd} (hk : Kept s0 s) : Kept s0 (editionPublishBody s c) := by
  unfold editionPublishBody
  repeat' first
    | with_reducible exact hk | split | with_reducible apply kept_publishHere | with_reducible apply kept_failWith
    | with_reducible apply kept_cmdHold | with_reducible apply kept_forwardPart
    | with_reducible refine kept_mk ?_ rfl rfl rfl rfl rfl rfl rfl rfl

theorem kept_execEditionPublish {s0 : State} {src : DeskSrc} {s : State} (hk : Kept s0 s) :
    KeptOut s0 (execEditionPublish src s) :=
  keptOut_next (kept_deskRun (fun _ _ => kept_editionPublishBody (.refl _)) hk)

theorem kept_closeHere {s0 s : State} {c : RunCmd} (hk : Kept s0 s) : Kept s0 (closeHere s c) := by
  unfold closeHere
  try dsimp only
  repeat' first
    | with_reducible exact hk | with_reducible exact Kept.refl _ | intro _ | split | with_reducible apply kept_failWith
    | with_reducible apply kept_sharedMod | with_reducible apply kept_complete | with_reducible apply kept_foldl
    | with_reducible refine kept_mk ?_ rfl rfl rfl rfl rfl rfl rfl rfl | dsimp only

theorem kept_editionCloseBody {s0 s : State} {c : RunCmd} (hk : Kept s0 s) : Kept s0 (editionCloseBody s c) := by
  unfold editionCloseBody
  repeat' first
    | with_reducible exact hk | split | with_reducible apply kept_closeHere | with_reducible apply kept_failWith
    | with_reducible apply kept_forwardPart | with_reducible apply kept_freeHandle
    | with_reducible refine kept_mk ?_ rfl rfl rfl rfl rfl rfl rfl rfl

theorem kept_execEditionClose {s0 : State} {src : DeskSrc} {s : State} (hk : Kept s0 s) :
    KeptOut s0 (execEditionClose src s) :=
  keptOut_next (kept_deskRun (fun _ _ => kept_editionCloseBody (.refl _)) hk)

theorem kept_nearHere {s0 s : State} {c : RunCmd} (hk : Kept s0 s) : Kept s0 (nearHere s c) := by
  unfold nearHere
  try dsimp only
  repeat' first
    | with_reducible exact hk | with_reducible exact Kept.refl _ | intro _ | split | with_reducible apply kept_failWith
    | with_reducible apply kept_cmdWait | with_reducible apply kept_engineMod
    | with_reducible refine kept_fst ?_ (by assumption)
    | with_reducible refine kept_mk ?_ rfl rfl rfl rfl rfl rfl rfl rfl | dsimp only

theorem kept_nearOpBody {s0 s : State} {c : RunCmd} (hk : Kept s0 s) : Kept s0 (nearOpBody s c) := by
  unfold nearOpBody
  try dsimp only
  repeat' first
    | with_reducible exact hk | with_reducible exact Kept.refl _ | intro _ | split | with_reducible apply kept_nearHere
    | with_reducible apply kept_failWith | with_reducible apply kept_forwardPart
    | with_reducible refine kept_fst ?_ (by assumption) | dsimp only

theorem kept_execNearOp {s0 : State} {src : DeskSrc} {s : State} (hk : Kept s0 s) : KeptOut s0 (execNearOp src s) :=
  keptOut_next (kept_deskRun (fun _ _ => kept_nearOpBody (.refl _)) hk)

theorem kept_takeSecondary {s0 s : State} {k : Half × Nat} {e : Extent} {blk : Nat} (hk : Kept s0 s) :
    Kept s0 (takeSecondary s k e blk) := by
  unfold takeSecondary
  try dsimp only
  repeat' first
    | with_reducible exact hk | split | with_reducible refine kept_farBytes_of ?_ (by assumption)
    | with_reducible apply kept_farBytes | with_reducible apply kept_emit | with_reducible apply kept_chargeWrite
    | with_reducible apply kept_rtWrite | with_reducible refine kept_fst ?_ (by assumption) | dsimp only

theorem kept_mirrorResolveBody {s0 s : State} {c : RunCmd} (hk : Kept s0 s) : Kept s0 (mirrorResolveBody s c) := by
  unfold mirrorResolveBody
  try dsimp only
  repeat' first
    | with_reducible exact hk | with_reducible exact Kept.refl _ | intro _ | split | with_reducible apply kept_failWith
    | with_reducible apply kept_blockSend | with_reducible apply kept_takeSecondary
    | with_reducible apply kept_complete | with_reducible apply kept_extMod | with_reducible apply kept_foldl
    | with_reducible refine kept_mk ?_ rfl rfl rfl rfl rfl rfl rfl rfl | dsimp only

theorem kept_execMirrorResolve {s0 : State} {src : DeskSrc} {s : State} (hk : Kept s0 s) :
    KeptOut s0 (execMirrorResolve src s) :=
  keptOut_next (kept_deskRun (fun _ _ => kept_mirrorResolveBody (.refl _)) hk)

theorem kept_poolLimitBody {s0 s : State} {c : RunCmd} (hk : Kept s0 s) : Kept s0 (poolLimitBody s c) :=
  kept_complete (kept_mk hk rfl rfl rfl rfl rfl rfl rfl rfl)

theorem kept_execPoolLimit {s0 : State} {src : DeskSrc} {s : State} (hk : Kept s0 s) :
    KeptOut s0 (execPoolLimit src s) :=
  keptOut_next (kept_deskRun (fun _ _ => kept_poolLimitBody (.refl _)) hk)

theorem kept_poolStatusBody {s0 s : State} {c : RunCmd} (hk : Kept s0 s) : Kept s0 (poolStatusBody s c) :=
  kept_complete hk

theorem kept_execPoolStatus {s0 : State} {src : DeskSrc} {s : State} (hk : Kept s0 s) :
    KeptOut s0 (execPoolStatus src s) :=
  keptOut_next (kept_deskRun (fun _ _ => kept_poolStatusBody (.refl _)) hk)

theorem kept_reapGrants {s0 s : State} (hk : Kept s0 s) : Kept s0 (reapGrants s) :=
  kept_mk hk rfl rfl rfl rfl rfl rfl rfl rfl

theorem kept_sectorsNew {s0 s : State} {n : Nat} (hk : Kept s0 s) : Kept s0 (sectorsNew s n) := by
  unfold sectorsNew
  try dsimp only
  repeat' first
    | with_reducible exact hk | with_reducible exact Kept.refl _ | exact Mem.poisonLine_wf _ _
    | exact Mem.setErr_wf _ _ _ | exact (fun hm : Mem.wf _ = true => hm) | intro _
    | with_reducible refine kept_mem ?_ ?_ | with_reducible refine kept_mk ?_ rfl rfl rfl rfl rfl rfl rfl rfl
    | dsimp only

theorem kept_grantPut {s0 s : State} {n : Nat} {g : Grant} (hk : Kept s0 s) : Kept s0 (grantPut s n g) := by
  unfold grantPut
  repeat' first
    | with_reducible exact hk | with_reducible apply kept_sectorsNew
    | with_reducible refine kept_mk ?_ rfl rfl rfl rfl rfl rfl rfl rfl

theorem kept_depotGrantBody {s0 s : State} {c : RunCmd} (hk : Kept s0 s) : Kept s0 (depotGrantBody s c) := by
  unfold depotGrantBody
  try dsimp only
  repeat' first
    | with_reducible exact hk | with_reducible exact Kept.refl _ | intro _ | split | with_reducible apply kept_failWith
    | with_reducible apply kept_reapGrants | with_reducible apply kept_complete | with_reducible apply kept_poolOpen
    | with_reducible apply kept_grantPut | with_reducible apply kept_drew
    | with_reducible refine kept_mk ?_ rfl rfl rfl rfl rfl rfl rfl rfl | dsimp only

theorem kept_execDepotGrant {s0 : State} {src : DeskSrc} {s : State} (hk : Kept s0 s) :
    KeptOut s0 (execDepotGrant src s) :=
  keptOut_next (kept_deskRun (fun _ _ => kept_depotGrantBody (.refl _)) hk)

theorem kept_depotRevokeBody {s0 s : State} {c : RunCmd} (hk : Kept s0 s) : Kept s0 (depotRevokeBody s c) := by
  unfold depotRevokeBody
  try dsimp only
  repeat' first
    | with_reducible exact hk | with_reducible exact Kept.refl _ | intro _ | split | with_reducible apply kept_failWith
    | with_reducible apply kept_complete | with_reducible apply kept_grantMod
    | with_reducible refine kept_mk ?_ rfl rfl rfl rfl rfl rfl rfl rfl | dsimp only

theorem kept_execDepotRevoke {s0 : State} {src : DeskSrc} {s : State} (hk : Kept s0 s) :
    KeptOut s0 (execDepotRevoke src s) :=
  keptOut_next (kept_deskRun (fun _ _ => kept_depotRevokeBody (.refl _)) hk)

theorem kept_execTrayTimeout {s0 : State} {grant : Nat} {s : State} (hk : Kept s0 s) :
    KeptOut s0 (execTrayTimeout grant s) := by
  unfold execTrayTimeout
  repeat' first
    | with_reducible apply keptOut_next | with_reducible exact hk | split | with_reducible apply kept_trayUnanswered
    | with_reducible refine kept_mk ?_ rfl rfl rfl rfl rfl rfl rfl rfl

theorem kept_execTrayProbe {s0 : State} {grant : Nat} {answered : Bool} {s : State} (hk : Kept s0 s) :
    KeptOut s0 (execTrayProbe grant answered s) := by
  unfold execTrayProbe
  try dsimp only
  repeat' first
    | with_reducible apply keptOut_next | with_reducible exact hk | with_reducible exact Kept.refl _ | intro _ | split
    | with_reducible apply kept_emit | with_reducible apply kept_grantMod
    | with_reducible refine kept_mk ?_ rfl rfl rfl rfl rfl rfl rfl rfl | dsimp only

end Sys2Proof.Machine
end

