-- ==== Sys2Proof/Laws/KeptRelay.lean ====
section
/-! SUPPORT. What the operations of Relay keep. -/

namespace Sys2Proof.Machine

set_option Elab.async false
set_option linter.all false

theorem kept_redSend {s0 s : State} {slot : Nat} {k : RedKey} {b : Bytes} (hk : Kept s0 s) :
    Kept s0 (redSend s slot k b) := by
  unfold redSend
  try dsimp only
  repeat' first
    | with_reducible exact hk | with_reducible exact Kept.refl _ | intro _ | split | with_reducible apply kept_sessSend
    | with_reducible apply kept_foldl | with_reducible refine kept_mk ?_ rfl rfl rfl rfl rfl rfl rfl rfl | dsimp only

theorem kept_redClear {s0 s : State} {k : RedKey} (hk : Kept s0 s) : Kept s0 (redClear s k) :=
  kept_mk hk rfl rfl rfl rfl rfl rfl rfl rfl

theorem kept_relayEnds {s0 s : State} {n : Nat} {x : Ctx} {p : Pend} (hk : Kept s0 s) : Kept s0 (relayEnds s n x p) :=
  kept_redClear (kept_ctxMod hk)

theorem kept_relayPoison {s0 s : State} {n : Nat} {v : Volume} {x : Ctx} {st : VStep} {p : Pend} {recRc : Nat} (hk :
    Kept s0 s) :
    Kept s0 (relayPoison s n v x st p recRc) := by
  unfold relayPoison
  repeat' first
    | with_reducible exact hk | with_reducible apply kept_finishStep | with_reducible apply kept_poisonOperAt
    | with_reducible apply kept_relayEnds

theorem kept_relayDone {s0 s : State} {n : Nat} {v : Volume} {x : Ctx} {st : VStep} {p : Pend}
    {rs : List (Nat × Bytes)} (hk : Kept s0 s) :
    Kept s0 (relayDone s n v x st p rs) := by
  unfold relayDone
  try dsimp only
  repeat' first
    | with_reducible exact hk | with_reducible exact Kept.refl _ | intro _ | split
    | with_reducible apply kept_relayEnds | with_reducible apply kept_finishStep
    | with_reducible apply kept_poisonOperAt | with_reducible apply kept_writeEncodedAt
    | with_reducible apply kept_foldl | with_reducible refine kept_mk ?_ rfl rfl rfl rfl rfl rfl rfl rfl | dsimp only

theorem kept_trySum {s0 s : State} {n : Nat} {v : Volume} {x : Ctx} {st : VStep} {p : Pend} (hk : Kept s0 s) :
    Kept s0 (trySum s n v x st p) := by
  unfold trySum
  try dsimp only
  repeat' first
    | with_reducible exact hk | with_reducible exact Kept.refl _ | intro _ | split
    | with_reducible apply kept_relayPoison | with_reducible apply kept_relayDone
    | with_reducible refine kept_mk ?_ rfl rfl rfl rfl rfl rfl rfl rfl | dsimp only

theorem kept_tryTopk {s0 s : State} {n : Nat} {v : Volume} {x : Ctx} {st : VStep} {p : Pend} (hk : Kept s0 s) :
    Kept s0 (tryTopk s n v x st p) := by
  unfold tryTopk
  try dsimp only
  repeat' first
    | with_reducible exact hk | with_reducible exact Kept.refl _ | intro _ | split
    | with_reducible apply kept_relayPoison | with_reducible apply kept_relayEnds
    | with_reducible apply kept_finishStep | with_reducible apply kept_putOperAt
    | with_reducible refine kept_fst ?_ (by assumption) | dsimp only

theorem kept_allsumOwn {s0 s : State} {n : Nat} {v : Volume} {x : Ctx} {st : VStep} {p : Pend} (hk : Kept s0 s) :
    Kept s0 (allsumOwn s n v x st p).1 := by
  unfold allsumOwn
  try dsimp only
  repeat' first
    | with_reducible exact hk | with_reducible exact Kept.refl _ | intro _ | split | with_reducible apply kept_ctxMod
    | with_reducible apply kept_redSend | with_reducible apply kept_foldl
    | with_reducible refine kept_fst ?_ (by assumption) | with_reducible apply kept_foldl_fst
    | with_reducible refine kept_mk ?_ rfl rfl rfl rfl rfl rfl rfl rfl | dsimp only

theorem kept_allsumOwn_of {s0 s : State} {n : Nat} {v : Volume} {x : Ctx} {st : VStep} {p : Pend} {r : State × Pend}
    (hk : Kept s0 s)
    (e : allsumOwn s n v x st p = r) : Kept s0 r.1 :=
  e ▸ kept_allsumOwn hk

theorem kept_allsumAll {s0 s : State} {n : Nat} {v : Volume} {x : Ctx} {st : VStep} {p : Pend} (hk : Kept s0 s) :
    Kept s0 (allsumAll s n v x st p) := by
  unfold allsumAll
  try dsimp only
  repeat' first
    | with_reducible exact hk | with_reducible exact Kept.refl _ | intro _ | split
    | with_reducible apply kept_relayDone | with_reducible refine kept_mk ?_ rfl rfl rfl rfl rfl rfl rfl rfl
    | dsimp only

theorem kept_relayTry {s0 s : State} {n : Nat} {p : Pend} (hk : Kept s0 s) : Kept s0 (relayTry s n p) := by
  unfold relayTry
  try dsimp only
  repeat' first
    | with_reducible exact hk | with_reducible exact Kept.refl _ | intro _ | split | with_reducible apply kept_trySum
    | with_reducible refine kept_allsumOwn_of ?_ (by assumption) | with_reducible apply kept_allsumOwn
    | with_reducible apply kept_allsumAll | with_reducible apply kept_tryTopk
    | with_reducible refine kept_fst ?_ (by assumption)
    | with_reducible refine kept_mk ?_ rfl rfl rfl rfl rfl rfl rfl rfl | dsimp only

theorem kept_relayTryAll {s0 s : State} {n : Nat} (hk : Kept s0 s) : Kept s0 (relayTryAll s n) := by
  unfold relayTryAll
  try dsimp only
  repeat' first
    | with_reducible exact hk | with_reducible exact Kept.refl _ | intro _ | split | with_reducible apply kept_relayTry
    | with_reducible apply kept_foldl | with_reducible refine kept_mk ?_ rfl rfl rfl rfl rfl rfl rfl rfl | dsimp only

theorem kept_relayAbsent {s0 s : State} {n : Nat} {p : Pend} (hk : Kept s0 s) : Kept s0 (relayAbsent s n p) := by
  unfold relayAbsent
  try dsimp only
  repeat' first
    | with_reducible exact hk | with_reducible exact Kept.refl _ | intro _ | split | with_reducible apply kept_redSend
    | with_reducible apply kept_relayPoison | with_reducible apply kept_foldl
    | with_reducible refine kept_fst ?_ (by assumption)
    | with_reducible refine kept_mk ?_ rfl rfl rfl rfl rfl rfl rfl rfl | dsimp only

theorem kept_redLost {s0 s : State} (hk : Kept s0 s) : Kept s0 (redLost s) := by
  unfold redLost
  try dsimp only
  repeat' first
    | with_reducible exact hk | with_reducible exact Kept.refl _ | intro _ | split
    | with_reducible apply kept_relayAbsent | with_reducible apply kept_foldl
    | with_reducible refine kept_fst ?_ (by assumption)
    | with_reducible refine kept_mk ?_ rfl rfl rfl rfl rfl rfl rfl rfl | dsimp only

theorem kept_relayBody {s0 : State} {n : Nat} {s : State} {v : Volume} {x : Ctx} {st : VStep} (hk : Kept s0 s) :
    Kept s0 (relayBody n s v x st) := by
  unfold relayBody
  try dsimp only
  repeat' first
    | with_reducible exact hk | with_reducible exact Kept.refl _ | intro _ | split
    | with_reducible apply kept_refuseStep | with_reducible refine kept_readOper_of ?_ (by assumption)
    | with_reducible apply kept_readOper | with_reducible apply kept_redSend | with_reducible apply kept_passStep
    | with_reducible apply kept_ctxMod | with_reducible apply kept_holdActs | with_reducible apply kept_relayAbsent
    | with_reducible apply kept_relayTry | with_reducible apply kept_doneStep | with_reducible apply kept_foldl
    | with_reducible refine kept_fst ?_ (by assumption) | with_reducible apply kept_foldl_fst
    | with_reducible refine kept_mk ?_ rfl rfl rfl rfl rfl rfl rfl rfl | dsimp only

theorem kept_execRelayReduce {s0 : State} {ctx : Nat} {s : State} (hk : Kept s0 s) :
    KeptOut s0 (execRelayReduce ctx s) := by
  unfold execRelayReduce
  repeat' first
    | with_reducible apply keptOut_next | with_reducible exact hk | with_reducible exact Kept.refl _ | intro _
    | with_reducible apply kept_runStep | with_reducible apply kept_relayBody

end Sys2Proof.Machine
end

