-- ==== Sys2Proof/Laws/KeptLinkSession.lean ====
section
/-! SUPPORT. What the operations of LinkSession keep. -/

namespace Sys2Proof.Machine

set_option Elab.async false
set_option linter.all false

theorem kept_handlesLost {s0 s : State} {node mid : Nat} (hk : Kept s0 s) : Kept s0 (handlesLost s node mid) := by
  unfold handlesLost
  try dsimp only
  repeat' first
    | with_reducible exact hk | with_reducible exact Kept.refl _ | intro _ | split
    | with_reducible apply kept_mirrorLoss | with_reducible apply kept_parityLoss | with_reducible apply kept_foldl
    | with_reducible apply kept_foldl_fst | with_reducible refine kept_mk ?_ rfl rfl rfl rfl rfl rfl rfl rfl
    | dsimp only

theorem kept_handleSeen {s0 s : State} {o : Outst} {st : Nat} (hk : Kept s0 s) : Kept s0 (handleSeen s o st) := by
  unfold handleSeen
  repeat' first
    | with_reducible exact hk | split | with_reducible refine kept_fst ?_ (by assumption)
    | with_reducible refine kept_mk ?_ rfl rfl rfl rfl rfl rfl rfl rfl

theorem kept_writeRefused {s0 s : State} {o : Outst} {st : Nat} (hk : Kept s0 s) : Kept s0 (writeRefused s o st) := by
  unfold writeRefused
  try dsimp only
  repeat' first
    | with_reducible exact hk | split | with_reducible apply kept_handleSeen | with_reducible apply kept_poolRefused
    | with_reducible refine kept_fst ?_ (by assumption)
    | with_reducible refine kept_mk ?_ rfl rfl rfl rfl rfl rfl rfl rfl | dsimp only

theorem kept_outstandingFail {s0 s : State} {l : List Outst} (hk : Kept s0 s) : Kept s0 (outstandingFail s l) := by
  unfold outstandingFail
  try dsimp only
  repeat' first
    | with_reducible exact hk | with_reducible exact Kept.refl _ | intro _ | split | with_reducible apply kept_emit
    | with_reducible apply kept_writeRefused | with_reducible apply kept_foldl | dsimp only

theorem kept_forwardsDropped {s0 s : State} {node : Nat} (hk : Kept s0 s) : Kept s0 (forwardsDropped s node) :=
  kept_mk hk rfl rfl rfl rfl rfl rfl rfl rfl

theorem kept_midLost {s0 s : State} {mid : Nat} (hk : Kept s0 s) : Kept s0 (midLost s mid) :=
  kept_returnMaster (kept_silencePoster (kept_mk hk rfl rfl rfl rfl rfl rfl rfl rfl))

theorem kept_redsResend {s0 s : State} {node : Nat} {l : List Flit} (hk : Kept s0 s) :
    Kept s0 (redsResend s node l) := by
  unfold redsResend
  try dsimp only
  repeat' first
    | with_reducible exact hk | with_reducible exact Kept.refl _ | intro _ | split | with_reducible apply kept_sessSend
    | with_reducible apply kept_foldl | with_reducible refine kept_mk ?_ rfl rfl rfl rfl rfl rfl rfl rfl | dsimp only

theorem kept_sessionLost {s0 s : State} {k : Nat × Nat} (hk : Kept s0 s) : Kept s0 (sessionLost s k) := by
  unfold sessionLost
  try dsimp only
  repeat' first
    | with_reducible exact hk | with_reducible exact Kept.refl _ | intro _ | split
    | with_reducible apply kept_handlesLost | with_reducible apply kept_outstandingFail
    | with_reducible apply kept_midLost | with_reducible apply kept_redsResend | with_reducible apply kept_redLost
    | with_reducible apply kept_forwardLost | with_reducible apply kept_forwardsDropped
    | with_reducible refine kept_mk ?_ rfl rfl rfl rfl rfl rfl rfl rfl | dsimp only

theorem kept_sessionsLost {s0 s : State} {p : Nat × Nat → Session → Bool} (hk : Kept s0 s) :
    Kept s0 (sessionsLost s p) :=
  kept_foldl (fun _ _ => kept_sessionLost (.refl _)) hk

theorem kept_execSessionLossTimeout {s0 : State} {node sid : Nat} {s : State} (hk : Kept s0 s) :
    KeptOut s0 (execSessionLossTimeout node sid s) := by
  unfold execSessionLossTimeout
  try dsimp only
  repeat' first
    | with_reducible apply keptOut_next | with_reducible exact hk | split | with_reducible apply kept_sessionLost
    | with_reducible refine kept_fst ?_ (by assumption)
    | with_reducible refine kept_mk ?_ rfl rfl rfl rfl rfl rfl rfl rfl | dsimp only

theorem kept_postedQueuesEnd {s0 s : State} {mid : Nat} (hk : Kept s0 s) : Kept s0 (postedQueuesEnd s mid) :=
  kept_mk hk rfl rfl rfl rfl rfl rfl rfl rfl

theorem kept_execMasterIdFreeTimeout {s0 : State} {mid : Nat} {s : State} (hk : Kept s0 s) :
    KeptOut s0 (execMasterIdFreeTimeout mid s) := by
  unfold execMasterIdFreeTimeout
  repeat' first
    | with_reducible apply keptOut_next | with_reducible exact hk | split | with_reducible apply kept_postedQueuesEnd
    | with_reducible refine kept_mk ?_ rfl rfl rfl rfl rfl rfl rfl rfl

theorem kept_sackUpTo {s0 s : State} {k : Nat × Nat} {sseq : Nat} (hk : Kept s0 s) : Kept s0 (sackUpTo s k sseq) := by
  unfold sackUpTo
  try dsimp only
  repeat' first
    | with_reducible exact hk | with_reducible exact Kept.refl _ | intro _ | split | with_reducible apply kept_sessMod
    | with_reducible apply kept_sessDrain | with_reducible apply kept_sessionLost | with_reducible apply kept_sctlSend
    | with_reducible refine kept_mk ?_ rfl rfl rfl rfl rfl rfl rfl rfl | dsimp only

theorem kept_execSack {s0 : State} {port : Nat} {s : State} (hk : Kept s0 s) : KeptOut s0 (execSack port s) := by
  unfold execSack
  repeat' first
    | with_reducible apply keptOut_next | with_reducible exact hk | split | with_reducible apply kept_sackUpTo
    | with_reducible apply kept_inboxPop | with_reducible refine kept_mk ?_ rfl rfl rfl rfl rfl rfl rfl rfl

theorem kept_execSessionResendTimeout {s0 : State} {node sid : Nat} {s : State} (hk : Kept s0 s) :
    KeptOut s0 (execSessionResendTimeout node sid s) := by
  unfold execSessionResendTimeout
  try dsimp only
  repeat' first
    | with_reducible apply keptOut_next | with_reducible exact hk | with_reducible exact Kept.refl _ | intro _ | split
    | with_reducible apply kept_sessResend | with_reducible apply kept_sessMod
    | with_reducible refine kept_fst ?_ (by assumption)
    | with_reducible refine kept_mk ?_ rfl rfl rfl rfl rfl rfl rfl rfl | dsimp only

theorem kept_execSessionSilencePing {s0 : State} {node sid : Nat} {s : State} (hk : Kept s0 s) :
    KeptOut s0 (execSessionSilencePing node sid s) := by
  unfold execSessionSilencePing
  try dsimp only
  repeat' first
    | with_reducible apply keptOut_next | with_reducible exact hk | with_reducible exact Kept.refl _ | intro _ | split
    | with_reducible apply kept_sctlSend | with_reducible apply kept_sessMod
    | with_reducible refine kept_fst ?_ (by assumption)
    | with_reducible refine kept_mk ?_ rfl rfl rfl rfl rfl rfl rfl rfl | dsimp only

theorem kept_execPing {s0 : State} {port : Nat} {s : State} (hk : Kept s0 s) : KeptOut s0 (execPing port s) := by
  unfold execPing
  repeat' first
    | with_reducible apply keptOut_next | with_reducible exact hk | split | with_reducible apply kept_sctlSend
    | with_reducible apply kept_inboxPop | with_reducible refine kept_mk ?_ rfl rfl rfl rfl rfl rfl rfl rfl

theorem kept_execPong {s0 : State} {port : Nat} {s : State} (hk : Kept s0 s) : KeptOut s0 (execPong port s) := by
  unfold execPong
  try dsimp only
  repeat' first
    | with_reducible apply keptOut_next | with_reducible exact hk | with_reducible exact Kept.refl _ | intro _ | split
    | with_reducible apply kept_sessMod | with_reducible apply kept_inboxPop
    | with_reducible refine kept_mk ?_ rfl rfl rfl rfl rfl rfl rfl rfl | dsimp only

theorem kept_execClose {s0 : State} {port : Nat} {s : State} (hk : Kept s0 s) : KeptOut s0 (execClose port s) := by
  unfold execClose
  repeat' first
    | with_reducible apply keptOut_next | with_reducible exact hk | split | with_reducible apply kept_sessionLost
    | with_reducible apply kept_inboxPop | with_reducible refine kept_mk ?_ rfl rfl rfl rfl rfl rfl rfl rfl

theorem kept_execRekeyDue {s0 : State} {node sid : Nat} {s : State} (hk : Kept s0 s) :
    KeptOut s0 (execRekeyDue node sid s) := by
  unfold execRekeyDue
  try dsimp only
  repeat' first
    | with_reducible apply keptOut_next | with_reducible exact hk | with_reducible exact Kept.refl _ | intro _ | split
    | with_reducible apply kept_sctlSend | with_reducible apply kept_sessMod
    | with_reducible refine kept_fst ?_ (by assumption)
    | with_reducible refine kept_mk ?_ rfl rfl rfl rfl rfl rfl rfl rfl | dsimp only

theorem kept_execRekey {s0 : State} {port : Nat} {s : State} (hk : Kept s0 s) : KeptOut s0 (execRekey port s) := by
  unfold execRekey
  try dsimp only
  repeat' first
    | with_reducible apply keptOut_next | with_reducible exact hk | with_reducible exact Kept.refl _ | intro _ | split
    | with_reducible apply kept_inboxPop | with_reducible apply kept_sessMod
    | with_reducible refine kept_fst ?_ (by assumption)
    | with_reducible refine kept_mk ?_ rfl rfl rfl rfl rfl rfl rfl rfl | dsimp only

theorem kept_pairFail {s0 s : State} {node : Nat} (hk : Kept s0 s) : Kept s0 (pairFail s node) := by
  unfold pairFail
  try dsimp only
  repeat' first
    | with_reducible exact hk | with_reducible exact Kept.refl _ | intro _ | split
    | with_reducible apply kept_outstandingFail | with_reducible apply kept_portMod | with_reducible apply kept_linkLog
    | with_reducible refine kept_mk ?_ rfl rfl rfl rfl rfl rfl rfl rfl | dsimp only

theorem kept_execPairCert {s0 : State} {port : Nat} {s : State} (hk : Kept s0 s) :
    KeptOut s0 (execPairCert port s) := by
  unfold execPairCert
  try dsimp only
  repeat' first
    | with_reducible apply keptOut_next | with_reducible exact hk | with_reducible exact Kept.refl _ | intro _ | split
    | with_reducible apply kept_inboxPop | with_reducible apply kept_pairMod | with_reducible apply kept_pairFail
    | with_reducible apply kept_pairPart | with_reducible refine kept_drawEph_of ?_ (by assumption)
    | with_reducible apply kept_drawEph | with_reducible refine kept_fst ?_ (by assumption)
    | with_reducible refine kept_mk ?_ rfl rfl rfl rfl rfl rfl rfl rfl | dsimp only

theorem kept_execPairXA {s0 : State} {port : Nat} {s : State} (hk : Kept s0 s) : KeptOut s0 (execPairXA port s) := by
  unfold execPairXA
  try dsimp only
  repeat' first
    | with_reducible apply keptOut_next | with_reducible exact hk | with_reducible exact Kept.refl _ | intro _ | split
    | with_reducible apply kept_inboxPop | with_reducible refine kept_drawEph_of ?_ (by assumption)
    | with_reducible apply kept_drawEph | with_reducible apply kept_pairPart | with_reducible apply kept_pairMod
    | with_reducible refine kept_fst ?_ (by assumption)
    | with_reducible refine kept_mk ?_ rfl rfl rfl rfl rfl rfl rfl rfl | dsimp only

theorem kept_pairDone {s0 s : State} {node : Nat} (hk : Kept s0 s) : Kept s0 (pairDone s node) := by
  unfold pairDone
  try dsimp only
  repeat' first
    | with_reducible exact hk | with_reducible exact Kept.refl _ | intro _ | split
    | with_reducible apply kept_openWaiting | with_reducible apply kept_systemBegin | with_reducible apply kept_foldl
    | with_reducible refine kept_fst ?_ (by assumption)
    | with_reducible refine kept_mk ?_ rfl rfl rfl rfl rfl rfl rfl rfl | dsimp only

theorem kept_execPairXB {s0 : State} {port : Nat} {s : State} (hk : Kept s0 s) : KeptOut s0 (execPairXB port s) := by
  unfold execPairXB
  try dsimp only
  repeat' first
    | with_reducible apply keptOut_next | with_reducible exact hk | with_reducible exact Kept.refl _ | intro _ | split
    | with_reducible apply kept_inboxPop | with_reducible apply kept_pairMod | with_reducible apply kept_pairDone
    | with_reducible apply kept_pairPart | with_reducible apply kept_pairFail
    | with_reducible refine kept_mk ?_ rfl rfl rfl rfl rfl rfl rfl rfl | dsimp only

theorem kept_execPairConf {s0 : State} {port : Nat} {s : State} (hk : Kept s0 s) :
    KeptOut s0 (execPairConf port s) := by
  unfold execPairConf
  try dsimp only
  repeat' first
    | with_reducible apply keptOut_next | with_reducible exact hk | split | with_reducible apply kept_inboxPop
    | with_reducible apply kept_pairDone | with_reducible apply kept_pairFail
    | with_reducible refine kept_mk ?_ rfl rfl rfl rfl rfl rfl rfl rfl | dsimp only

theorem kept_sessionKeyed {s0 s : State} {k : Nat × Nat} {x : Session} (hk : Kept s0 s) :
    Kept s0 (sessionKeyed s k x) :=
  kept_sessDrain (kept_mk hk rfl rfl rfl rfl rfl rfl rfl rfl)

theorem kept_execSessionOpen {s0 : State} {port : Nat} {s : State} (hk : Kept s0 s) :
    KeptOut s0 (execSessionOpen port s) := by
  unfold execSessionOpen
  try dsimp only
  repeat' first
    | with_reducible apply keptOut_next | with_reducible exact hk | with_reducible exact Kept.refl _ | intro _ | split
    | with_reducible apply kept_inboxPop | with_reducible apply kept_portMod | with_reducible apply kept_pairSend
    | with_reducible apply kept_drew | with_reducible apply kept_sessionKeyed
    | with_reducible refine kept_fst ?_ (by assumption)
    | with_reducible refine kept_mk ?_ rfl rfl rfl rfl rfl rfl rfl rfl | dsimp only

theorem kept_execSessionAccept {s0 : State} {port : Nat} {s : State} (hk : Kept s0 s) :
    KeptOut s0 (execSessionAccept port s) := by
  unfold execSessionAccept
  try dsimp only
  repeat' first
    | with_reducible apply keptOut_next | with_reducible exact hk | split | with_reducible apply kept_inboxPop
    | with_reducible apply kept_sessionKeyed | with_reducible refine kept_mk ?_ rfl rfl rfl rfl rfl rfl rfl rfl
    | dsimp only

theorem kept_execSessionRefuse {s0 : State} {port : Nat} {s : State} (hk : Kept s0 s) :
    KeptOut s0 (execSessionRefuse port s) := by
  unfold execSessionRefuse
  try dsimp only
  repeat' first
    | with_reducible apply keptOut_next | with_reducible exact hk | with_reducible exact Kept.refl _ | intro _ | split
    | with_reducible apply kept_inboxPop | with_reducible apply kept_portMod
    | with_reducible apply kept_outstandingFail | with_reducible refine kept_mk ?_ rfl rfl rfl rfl rfl rfl rfl rfl
    | dsimp only

end Sys2Proof.Machine
end

