-- ==== Sys2Proof/Laws/KeptLinkFlit.lean ====
section
/-! SUPPORT. What the operations of LinkFlit keep. -/

namespace Sys2Proof.Machine

set_option Elab.async false
set_option linter.all false

theorem kept_malformed {s0 s : State} {p : Nat} (hk : Kept s0 s) : Kept s0 (malformed s p) := by
  unfold malformed
  try dsimp only
  repeat' first
    | with_reducible exact hk | with_reducible exact Kept.refl _ | intro _ | split
    | with_reducible apply kept_countPort | with_reducible apply kept_portMod | with_reducible apply kept_portHold
    | with_reducible refine kept_mk ?_ rfl rfl rfl rfl rfl rfl rfl rfl | dsimp only

theorem kept_portTagFail {s0 s : State} {p : Nat} (hk : Kept s0 s) : Kept s0 (portTagFail s p) := by
  unfold portTagFail
  try dsimp only
  repeat' first
    | with_reducible exact hk | with_reducible exact Kept.refl _ | intro _ | split
    | with_reducible apply kept_countPort | with_reducible apply kept_portMod | with_reducible apply kept_portHold
    | with_reducible refine kept_mk ?_ rfl rfl rfl rfl rfl rfl rfl rfl | dsimp only

theorem kept_sessTagFail {s0 s : State} {p : Nat} {k : Nat × Nat} (hk : Kept s0 s) : Kept s0 (sessTagFail s p k) := by
  unfold sessTagFail
  try dsimp only
  repeat' first
    | with_reducible exact hk | with_reducible exact Kept.refl _ | intro _ | split
    | with_reducible apply kept_countPort | with_reducible apply kept_sessMod | with_reducible apply kept_sessionLost
    | with_reducible apply kept_linkLog | with_reducible refine kept_mk ?_ rfl rfl rfl rfl rfl rfl rfl rfl | dsimp only

theorem kept_flitDiscard {s0 s : State} {p : Nat} (hk : Kept s0 s) : Kept s0 (flitDiscard s p) := by
  unfold flitDiscard
  try dsimp only
  repeat' first
    | with_reducible exact hk | with_reducible exact Kept.refl _ | intro _ | split
    | with_reducible apply kept_countPort | with_reducible apply kept_flowMod | with_reducible apply kept_lctlSend
    | with_reducible refine kept_mk ?_ rfl rfl rfl rfl rfl rfl rfl rfl | dsimp only

theorem kept_flitAck {s0 s : State} {p word : Nat} (hk : Kept s0 s) : Kept s0 (flitAck s p word) :=
  kept_portSettle (kept_flowMod hk)

theorem kept_creditOwe {s0 s : State} {p : Nat} {f : Flit} (hk : Kept s0 s) : Kept s0 (creditOwe s p f) := by
  unfold creditOwe
  try dsimp only
  repeat' first
    | with_reducible exact hk | with_reducible exact Kept.refl _ | intro _ | split | with_reducible apply kept_portIdle
    | with_reducible apply kept_flowMod | with_reducible refine kept_mk ?_ rfl rfl rfl rfl rfl rfl rfl rfl | dsimp only

theorem kept_relayFlit {s0 s : State} {sealed : Bytes} {f : Flit} (hk : Kept s0 s) :
    Kept s0 (relayFlit s sealed f) := by
  unfold relayFlit
  try dsimp only
  repeat' first
    | with_reducible exact hk | split | with_reducible apply kept_portTx | with_reducible apply kept_charge
    | with_reducible refine kept_mk ?_ rfl rfl rfl rfl rfl rfl rfl rfl | dsimp only

theorem kept_relayRun {s0 : State} {fuel : Nat} {y1 : State} {y2 : Nat} (hk : Kept s0 y1) :
    Kept s0 (relayRun fuel y1 y2) := by
  induction fuel generalizing y1 with
  | zero => exact hk
  | succ n ih =>
    simp only [relayRun]
    split
    · exact hk
    · split
      · exact hk
      · exact ih (kept_relayFlit (kept_creditOwe (kept_portMod hk)))

theorem kept_relayGo {s0 s : State} {p : Nat} (hk : Kept s0 s) : Kept s0 (relayGo s p) := by
  unfold relayGo
  repeat' first
    | with_reducible exact hk | with_reducible apply kept_relayRun

theorem kept_msgTake {s0 s : State} {f : Flit} (hk : Kept s0 s) : Kept s0 (msgTake s f) := by
  unfold msgTake
  try dsimp only
  repeat' first
    | with_reducible exact hk | with_reducible exact Kept.refl _ | intro _ | split
    | with_reducible refine kept_mk ?_ rfl rfl rfl rfl rfl rfl rfl rfl | dsimp only

theorem kept_inboxPut {s0 s : State} {p : Nat} {f : Flit} (hk : Kept s0 s) : Kept s0 (inboxPut s p f) :=
  kept_mk hk rfl rfl rfl rfl rfl rfl rfl rfl

theorem kept_sackBack {s0 s : State} {k : Nat × Nat} {f : Flit} (hk : Kept s0 s) : Kept s0 (sackBack s k f) := by
  unfold sackBack
  try dsimp only
  repeat' first
    | with_reducible exact hk | with_reducible exact Kept.refl _ | intro _ | split | with_reducible apply kept_sessMod
    | with_reducible apply kept_sctlSend | with_reducible refine kept_mk ?_ rfl rfl rfl rfl rfl rfl rfl rfl
    | dsimp only

theorem kept_sessAccept {s0 s : State} {p : Nat} {k : Nat × Nat} {f : Flit} (hk : Kept s0 s) :
    Kept s0 (sessAccept s p k f) := by
  unfold sessAccept
  try dsimp only
  repeat' first
    | with_reducible exact hk | with_reducible exact Kept.refl _ | intro _ | split
    | with_reducible apply kept_creditOwe | with_reducible apply kept_malformed | with_reducible apply kept_sessMod
    | with_reducible apply kept_msgTake | with_reducible apply kept_inboxPut | with_reducible apply kept_sackBack
    | with_reducible refine kept_mk ?_ rfl rfl rfl rfl rfl rfl rfl rfl | dsimp only

theorem kept_sessFlit {s0 s : State} {p : Nat} {tag : Bytes} {f : Flit} (hk : Kept s0 s) :
    Kept s0 (sessFlit s p tag f) := by
  unfold sessFlit
  try dsimp only
  repeat' first
    | with_reducible exact hk | with_reducible exact Kept.refl _ | intro _ | split
    | with_reducible apply kept_sessAccept | with_reducible apply kept_inboxPut | with_reducible apply kept_malformed
    | with_reducible apply kept_creditOwe | with_reducible apply kept_sessTagFail
    | with_reducible refine kept_fst ?_ (by assumption)
    | with_reducible refine kept_mk ?_ rfl rfl rfl rfl rfl rfl rfl rfl | dsimp only

theorem kept_portFlit {s0 s : State} {p : Nat} {tag : Bytes} {f : Flit} (hk : Kept s0 s) :
    Kept s0 (portFlit s p tag f) := by
  unfold portFlit
  try dsimp only
  repeat' first
    | with_reducible exact hk | with_reducible exact Kept.refl _ | intro _ | split | with_reducible apply kept_inboxPut
    | with_reducible apply kept_malformed | with_reducible apply kept_portTagFail | with_reducible apply kept_creditOwe
    | with_reducible apply kept_flowMod | with_reducible apply kept_portMod
    | with_reducible refine kept_fst ?_ (by assumption)
    | with_reducible refine kept_mk ?_ rfl rfl rfl rfl rfl rfl rfl rfl | dsimp only

theorem kept_flitTake {s0 s : State} {p : Nat} {raw : Bytes} (hk : Kept s0 s) : Kept s0 (flitTake s p raw) := by
  unfold flitTake
  try dsimp only
  repeat' first
    | with_reducible exact hk | with_reducible exact Kept.refl _ | intro _ | split | with_reducible apply kept_portMod
    | with_reducible apply kept_malformed | with_reducible apply kept_creditOwe | with_reducible apply kept_portFlit
    | with_reducible apply kept_relayGo | with_reducible apply kept_sessFlit
    | with_reducible refine kept_mk ?_ rfl rfl rfl rfl rfl rfl rfl rfl | dsimp only

theorem kept_symbolsCorrected {s0 s : State} {p : Nat} (hk : Kept s0 s) : Kept s0 (symbolsCorrected s p) := by
  unfold symbolsCorrected
  try dsimp only
  repeat' first
    | with_reducible exact hk | with_reducible exact Kept.refl _ | intro _ | with_reducible apply kept_countPort
    | with_reducible apply kept_drew | with_reducible apply kept_foldl | with_reducible apply kept_foldl_fst
    | with_reducible refine kept_mk ?_ rfl rfl rfl rfl rfl rfl rfl rfl | dsimp only

theorem kept_execFlitReceive {s0 : State} {port : Nat} {raw : Bytes} {uncorrectable : Bool} {s : State} (hk : Kept s0
    s) :
    KeptOut s0 (execFlitReceive port raw uncorrectable s) := by
  unfold execFlitReceive
  try dsimp only
  repeat' first
    | with_reducible apply keptOut_next | with_reducible exact hk | with_reducible exact Kept.refl _ | intro _ | split
    | with_reducible apply kept_countPort | with_reducible apply kept_flitDiscard | with_reducible apply kept_flowMod
    | with_reducible apply kept_flitTake | with_reducible apply kept_flitAck
    | with_reducible apply kept_symbolsCorrected | with_reducible refine kept_mk ?_ rfl rfl rfl rfl rfl rfl rfl rfl
    | dsimp only

end Sys2Proof.Machine
end

