-- ==== Sys2Proof/Laws/KeptRegs.lean ====
section
/-! SUPPORT. What the operations of Regs keep. -/

namespace Sys2Proof.Machine

set_option Elab.async false
set_option linter.all false

theorem kept_regRead {s0 s : State} {fn : Fn} {off len : Nat} (hk : Kept s0 s) : Kept s0 (regRead s fn off len).1 := by
  unfold regRead
  try dsimp only
  repeat' first
    | with_reducible exact hk | split | with_reducible apply kept_lockRead
    | with_reducible refine kept_fst ?_ (by assumption) | dsimp only

theorem kept_regRead_of {s0 s : State} {fn : Fn} {off len : Nat} {r : State × Bytes} (hk : Kept s0 s)
    (e : regRead s fn off len = r) : Kept s0 r.1 :=
  e ▸ kept_regRead hk

theorem kept_carrelWrite {s0 s : State} {n o : Nat} {b : Bytes} (hk : Kept s0 s) :
    KeptOut s0 (carrelWrite s n o b) := by
  unfold carrelWrite
  try dsimp only
  repeat' first
    | with_reducible apply keptOut_next | with_reducible exact hk | with_reducible exact Kept.refl _ | intro _ | split
    | with_reducible apply kept_execCarrelMessageWrite | with_reducible apply kept_execCarrelDoorbell
    | with_reducible apply kept_carrelMod | with_reducible refine kept_mk ?_ rfl rfl rfl rfl rfl rfl rfl rfl
    | dsimp only

theorem kept_queueWrite {s0 s : State} {n o : Nat} {b : Bytes} {consumed : HostRead} {input : RemoteRead} (hk : Kept
    s0 s) :
    KeptOut s0 (queueWrite s n o b consumed input) := by
  unfold queueWrite
  try dsimp only
  repeat' first
    | with_reducible apply keptOut_next | with_reducible exact hk | with_reducible exact Kept.refl _ | intro _ | split
    | with_reducible apply kept_execQueueSlotWrite | with_reducible apply kept_execQueDoorbell
    | with_reducible apply kept_queMod | with_reducible refine kept_mk ?_ rfl rfl rfl rfl rfl rfl rfl rfl | dsimp only

theorem kept_xlWrite {s0 s : State} {p w : Nat} (hk : Kept s0 s) : Kept s0 (xlWrite s p w) := by
  unfold xlWrite
  try dsimp only
  repeat' first
    | with_reducible exact hk | with_reducible exact Kept.refl _ | intro _ | with_reducible apply kept_portMod
    | with_reducible refine kept_mk ?_ rfl rfl rfl rfl rfl rfl rfl rfl | dsimp only

theorem kept_diagWrite {s0 s : State} {o : Nat} {b : Bytes} (hk : Kept s0 s) : KeptOut s0 (diagWrite s o b) := by
  unfold diagWrite
  try dsimp only
  repeat' first
    | with_reducible apply keptOut_next | with_reducible exact hk | split | with_reducible apply kept_benchCommand
    | with_reducible refine kept_mk ?_ rfl rfl rfl rfl rfl rfl rfl rfl | dsimp only

theorem kept_pf0Write {s0 s : State} {off : Nat} {b : Bytes} (hk : Kept s0 s) : KeptOut s0 (pf0Write s off b) := by
  unfold pf0Write
  try dsimp only
  repeat' first
    | with_reducible apply keptOut_next | with_reducible exact hk | with_reducible exact Kept.refl _ | intro _ | split
    | with_reducible apply kept_xlWrite | with_reducible apply kept_bwMod | with_reducible apply kept_diagWrite
    | with_reducible refine kept_mk ?_ rfl rfl rfl rfl rfl rfl rfl rfl | dsimp only

theorem kept_regWrite {s0 s : State} {fn : Fn} {off : Nat} {b : Bytes} {consumed : HostRead} {input : RemoteRead} (hk
    : Kept s0 s) :
    KeptOut s0 (regWrite s fn off b consumed input) := by
  unfold regWrite
  repeat' first
    | with_reducible apply keptOut_next | with_reducible exact hk | split | with_reducible apply kept_carrelWrite
    | with_reducible apply kept_queueWrite | with_reducible apply kept_execGlbRelease
    | with_reducible apply kept_pf0Write | with_reducible refine kept_fst ?_ (by assumption)
    | with_reducible refine kept_mk ?_ rfl rfl rfl rfl rfl rfl rfl rfl

theorem kept_execRegisterWrite {s0 : State} {fn : Fn} {off : Nat} {bytes : Bytes} {consumed : HostRead}
    {input : RemoteRead} {s : State} (hk : Kept s0 s) :
    KeptOut s0 (execRegisterWrite fn off bytes consumed input s) := by
  unfold execRegisterWrite
  repeat' first
    | with_reducible apply keptOut_next | with_reducible exact hk | with_reducible apply kept_regWrite

end Sys2Proof.Machine
end

