-- ==== Sys2Proof/Laws/KeptLinkAccess.lean ====
section
/-! SUPPORT. What the operations of LinkAccess keep. -/

namespace Sys2Proof.Machine

set_option Elab.async false
set_option linter.all false

theorem kept_outState {s0 s : State} {o : Out} (h : KeptOut s0 o) : Kept s0 (outState o s) := by
  obtain ⟨t, rfl, ht⟩ := h
  exact ht

theorem kept_outsideCount {s0 s : State} {p : Nat} {k : Nat × Nat} {st : Nat} (hk : Kept s0 s) :
    Kept s0 (outsideCount s p k st) :=
  kept_linkLog (kept_sessMod hk)

theorem kept_refuseRead {s0 s : State} {k : Nat × Nat} {tag n st : Nat} (hk : Kept s0 s) :
    Kept s0 (refuseRead s k tag n st) :=
  kept_replyRead hk

theorem kept_windowGet {s0 s : State} {k : Nat × Nat} {x : Session} {w : InWin} {off n tag : Nat}
    {remote : RemoteRead} (hk : Kept s0 s) :
    Kept s0 (windowGet s k x w off n tag remote) := by
  unfold windowGet
  try dsimp only
  repeat' first
    | with_reducible exact hk | with_reducible exact Kept.refl _ | intro _ | split
    | with_reducible apply kept_refuseRead | with_reducible apply kept_outsideCount
    | with_reducible apply kept_replyRead | with_reducible apply kept_logRefused | with_reducible apply kept_plainRead
    | with_reducible refine kept_readAny_of ?_ (by assumption) | with_reducible apply kept_readAny
    | with_reducible apply kept_chargeRead | with_reducible apply kept_leaveSleep
    | with_reducible refine kept_fst ?_ (by assumption)
    | with_reducible refine kept_mk ?_ rfl rfl rfl rfl rfl rfl rfl rfl | dsimp only

theorem kept_windowPut {s0 s : State} {k : Nat × Nat} {x : Session} {w : InWin} {off : Nat} {b : Bytes} {sseq : Nat}
    {consumed : HostRead} {input : RemoteRead} (hk : Kept s0 s) :
    Kept s0 (windowPut s k x w off b sseq consumed input) := by
  unfold windowPut
  try dsimp only
  repeat' first
    | with_reducible exact hk | split | with_reducible apply kept_replyWrite | with_reducible apply kept_outsideCount
    | with_reducible apply kept_outState | with_reducible apply kept_queueWrite | with_reducible apply kept_logRefused
    | with_reducible apply kept_plainWrite | with_reducible apply kept_writeAny | with_reducible apply kept_chargeWrite
    | with_reducible apply kept_leaveSleep | with_reducible refine kept_mk ?_ rfl rfl rfl rfl rfl rfl rfl rfl
    | dsimp only

theorem kept_poolServe {s0 s : State} {k : Nat × Nat} {x : Session} {arrived : Nat} {d : Nat × Nat × Nat} (hk : Kept
    s0 s) :
    Kept s0 (poolServe s k x arrived d) := by
  unfold poolServe
  try dsimp only
  repeat' first
    | with_reducible exact hk | split | with_reducible refine kept_poolGet_of ?_ (by assumption)
    | with_reducible apply kept_poolGet | with_reducible apply kept_poolReplyRead | with_reducible apply kept_capUse
    | with_reducible refine kept_fst ?_ (by assumption) | dsimp only

theorem kept_dropOrphan {s0 s : State} {p type : Nat} (hk : Kept s0 s) : Kept s0 (dropOrphan s p type) := by
  unfold dropOrphan
  try dsimp only
  repeat' first
    | with_reducible exact hk | with_reducible exact Kept.refl _ | intro _ | split | with_reducible apply kept_inboxPop
    | with_reducible refine kept_mk ?_ rfl rfl rfl rfl rfl rfl rfl rfl | dsimp only

theorem kept_windowReads {s0 s : State} {k : Nat × Nat} {x : Session} {y0 : List (Nat × Nat × Nat)}
    {y1 : List RemoteRead} (hk : Kept s0 s) :
    Kept s0 (windowReads s k x y0 y1) := by
  induction y0 generalizing s y1 with
  | nil => exact hk
  | cons d r ih => exact ih (kept_windowGet hk)

theorem kept_execRdReq {s0 : State} {port : Nat} {remotes : List RemoteRead} {s : State} (hk : Kept s0 s) :
    KeptOut s0 (execRdReq port remotes s) := by
  unfold execRdReq
  try dsimp only
  repeat' first
    | with_reducible apply keptOut_next | with_reducible exact hk | with_reducible exact Kept.refl _ | intro _ | split
    | with_reducible apply kept_dropOrphan | with_reducible apply kept_refuseRead
    | with_reducible apply kept_outsideCount | with_reducible apply kept_inboxPop | with_reducible apply kept_poolServe
    | with_reducible apply kept_leaveSleep | with_reducible apply kept_windowReads | with_reducible apply kept_foldl
    | with_reducible refine kept_fst ?_ (by assumption)
    | with_reducible refine kept_mk ?_ rfl rfl rfl rfl rfl rfl rfl rfl | dsimp only

theorem kept_execWr {s0 : State} {port : Nat} {consumed : HostRead} {input : RemoteRead} {s : State} (hk : Kept s0 s)
    :
    KeptOut s0 (execWr port consumed input s) := by
  unfold execWr
  try dsimp only
  repeat' first
    | with_reducible apply keptOut_next | with_reducible exact hk | split | with_reducible apply kept_dropOrphan
    | with_reducible apply kept_replyWrite | with_reducible apply kept_outsideCount
    | with_reducible apply kept_inboxPop | with_reducible refine kept_poolPut_of ?_ (by assumption)
    | with_reducible apply kept_poolPut | with_reducible apply kept_leaveSleep | with_reducible apply kept_peerReply
    | with_reducible apply kept_capUse | with_reducible apply kept_windowPut
    | with_reducible refine kept_fst ?_ (by assumption)
    | with_reducible refine kept_mk ?_ rfl rfl rfl rfl rfl rfl rfl rfl | dsimp only

theorem kept_readDone {s0 s : State} {o : Outst} (hk : Kept s0 s) : Kept s0 (readDone s o) :=
  kept_mk hk rfl rfl rfl rfl rfl rfl rfl rfl

theorem kept_loadKeep {s0 s : State} {k : Nat × Nat} {f : Flit} {lo : Nat} (hk : Kept s0 s) :
    Kept s0 (loadKeep s k f lo) := by
  unfold loadKeep
  repeat' first
    | with_reducible exact hk | split | with_reducible refine kept_mk ?_ rfl rfl rfl rfl rfl rfl rfl rfl

theorem kept_execRdRsp {s0 : State} {port : Nat} {s : State} (hk : Kept s0 s) : KeptOut s0 (execRdRsp port s) := by
  unfold execRdRsp
  try dsimp only
  repeat' first
    | with_reducible apply keptOut_next | with_reducible exact hk | with_reducible exact Kept.refl _ | intro _ | split
    | with_reducible apply kept_loadKeep | with_reducible apply kept_inboxPop | with_reducible apply kept_lenderGo
    | with_reducible apply kept_readDone | with_reducible apply kept_sessMod | with_reducible apply kept_handleSeen
    | with_reducible refine kept_mk ?_ rfl rfl rfl rfl rfl rfl rfl rfl | dsimp only

theorem kept_execCmpl {s0 : State} {port : Nat} {s : State} (hk : Kept s0 s) : KeptOut s0 (execCmpl port s) := by
  unfold execCmpl
  try dsimp only
  repeat' first
    | with_reducible apply keptOut_next | with_reducible exact hk | with_reducible exact Kept.refl _ | intro _ | split
    | with_reducible apply kept_loadKeep | with_reducible apply kept_inboxPop | with_reducible apply kept_lenderGo
    | with_reducible apply kept_sessMod | with_reducible apply kept_writeRefused
    | with_reducible refine kept_mk ?_ rfl rfl rfl rfl rfl rfl rfl rfl | dsimp only

theorem kept_execLinkReadTimeout {s0 : State} {node sid tag : Nat} {s : State} (hk : Kept s0 s) :
    KeptOut s0 (execLinkReadTimeout node sid tag s) := by
  unfold execLinkReadTimeout
  try dsimp only
  repeat' first
    | with_reducible apply keptOut_next | with_reducible exact hk | with_reducible exact Kept.refl _ | intro _ | split
    | with_reducible apply kept_sessMod | with_reducible apply kept_lenderGo | with_reducible apply kept_emit
    | with_reducible apply kept_linkLog | with_reducible refine kept_fst ?_ (by assumption)
    | with_reducible refine kept_mk ?_ rfl rfl rfl rfl rfl rfl rfl rfl | dsimp only

end Sys2Proof.Machine
end

