-- ==== Sys2Proof/Laws/KeptStepToken.lean ====
section
/-! SUPPORT. What the operations of StepToken keep. -/

namespace Sys2Proof.Machine

set_option Elab.async false
set_option linter.all false

theorem kept_embedTiled {s0 : State} {n : Nat} {s : State} {v : Volume} {x : Ctx} {st : VStep} {t : Tensor}
    {tok : Nat} (hk : Kept s0 s) :
    Kept s0 (embedTiled n s v x st t tok) := by
  unfold embedTiled
  try dsimp only
  repeat' first
    | with_reducible exact hk | with_reducible exact Kept.refl _ | intro _ | split
    | with_reducible apply kept_poisonStep | with_reducible apply kept_noteTensor | with_reducible apply kept_copyWords
    | with_reducible apply kept_poisonCopy | with_reducible apply kept_satCount
    | with_reducible apply kept_tensorEvents | with_reducible apply kept_doneStep
    | with_reducible apply kept_writeEncoded | with_reducible apply kept_foldl
    | with_reducible refine kept_fst ?_ (by assumption) | dsimp only

theorem kept_embedBody {s0 : State} {n : Nat} {remote : RemoteRead} {s : State} {v : Volume} {x : Ctx} {st : VStep}
    (hk : Kept s0 s) :
    Kept s0 (embedBody n remote s v x st) := by
  unfold embedBody
  try dsimp only
  repeat' first
    | with_reducible exact hk | with_reducible exact Kept.refl _ | intro _ | split
    | with_reducible apply kept_refuseStep | with_reducible apply kept_poisonStep
    | with_reducible apply kept_noteTensor | with_reducible refine kept_readOper_of ?_ (by assumption)
    | with_reducible apply kept_readOper | with_reducible apply kept_doneStep | with_reducible apply kept_embedTiled
    | with_reducible apply kept_ctxMod | with_reducible refine kept_fst ?_ (by assumption)
    | with_reducible refine kept_mk ?_ rfl rfl rfl rfl rfl rfl rfl rfl | dsimp only

theorem kept_execEmbed {s0 : State} {ctx : Nat} {remote : RemoteRead} {s : State} (hk : Kept s0 s) :
    KeptOut s0 (execEmbed ctx remote s) := by
  unfold execEmbed
  repeat' first
    | with_reducible apply keptOut_next | with_reducible exact hk | with_reducible exact Kept.refl _ | intro _
    | with_reducible apply kept_runStep | with_reducible apply kept_embedBody

theorem kept_drawToken {s0 s : State} {sm : Sampler} {seq idx : Nat} (hk : Kept s0 s) :
    Kept s0 (drawToken s sm seq idx).1 := by
  unfold drawToken
  repeat' first
    | with_reducible exact hk | split | with_reducible apply kept_drew
    | with_reducible refine kept_fst ?_ (by assumption) | dsimp only

theorem kept_drawToken_of {s0 s : State} {sm : Sampler} {seq idx : Nat} {r : State × Nat} (hk : Kept s0 s)
    (e : drawToken s sm seq idx = r) : Kept s0 r.1 :=
  e ▸ kept_drawToken hk

theorem kept_tokenOut {s0 s : State} {n : Nat} {v : Volume} {x : Ctx} {iter tok : Nat} {late last : Bool} (hk : Kept
    s0 s) :
    Kept s0 (tokenOut s n v x iter tok late last) := by
  unfold tokenOut
  try dsimp only
  repeat' first
    | with_reducible exact hk | with_reducible exact Kept.refl _ | intro _ | split
    | with_reducible apply kept_posterWrite | with_reducible apply kept_chargeHostTx
    | with_reducible apply kept_toMembers | with_reducible apply kept_ctxMod | with_reducible apply kept_volMod
    | with_reducible refine kept_mk ?_ rfl rfl rfl rfl rfl rfl rfl rfl | dsimp only

theorem kept_emitToken {s0 s : State} {n : Nat} {v : Volume} {step iter tok : Nat} (hk : Kept s0 s) :
    Kept s0 (emitToken s n v step iter tok) := by
  unfold emitToken
  try dsimp only
  repeat' first
    | with_reducible exact hk | split | with_reducible apply kept_lateCtx | with_reducible apply kept_tokenOut
    | with_reducible apply kept_finishStep | with_reducible apply kept_stopCtx
    | with_reducible refine kept_mk ?_ rfl rfl rfl rfl rfl rfl rfl rfl | dsimp only

theorem kept_noToken {s0 s : State} {n : Nat} {x : Ctx} {rc : Nat} (hk : Kept s0 s) : Kept s0 (noToken s n x rc) :=
  kept_stopCtx (kept_doneStep hk)

theorem kept_sampleDone {s0 s : State} {n : Nat} {v : Volume} {x : Ctx} {tok : Nat} (hk : Kept s0 s) :
    Kept s0 (sampleDone s n v x tok) := by
  unfold sampleDone
  try dsimp only
  repeat' first
    | with_reducible exact hk | with_reducible exact Kept.refl _ | intro _ | split | with_reducible apply kept_passStep
    | with_reducible apply kept_ctxMod | with_reducible apply kept_emitToken
    | with_reducible refine kept_mk ?_ rfl rfl rfl rfl rfl rfl rfl rfl | dsimp only

theorem kept_sampleBody {s0 : State} {n : Nat} {remote : RemoteRead} {s : State} {v : Volume} {x : Ctx} {st : VStep}
    (hk : Kept s0 s) :
    Kept s0 (sampleBody n remote s v x st) := by
  unfold sampleBody
  try dsimp only
  repeat' first
    | with_reducible exact hk | with_reducible exact Kept.refl _ | intro _ | split | with_reducible apply kept_doneStep
    | with_reducible apply kept_ctxMod | with_reducible apply kept_refuseStep
    | with_reducible refine kept_readOper_of ?_ (by assumption) | with_reducible apply kept_readOper
    | with_reducible apply kept_noToken | with_reducible refine kept_drawToken_of ?_ (by assumption)
    | with_reducible apply kept_drawToken | with_reducible apply kept_sampleDone
    | with_reducible refine kept_fst ?_ (by assumption)
    | with_reducible refine kept_mk ?_ rfl rfl rfl rfl rfl rfl rfl rfl | dsimp only

theorem kept_execSample {s0 : State} {ctx : Nat} {remote : RemoteRead} {s : State} (hk : Kept s0 s) :
    KeptOut s0 (execSample ctx remote s) := by
  unfold execSample
  repeat' first
    | with_reducible apply keptOut_next | with_reducible exact hk | with_reducible exact Kept.refl _ | intro _ | split
    | with_reducible apply kept_runStep | with_reducible apply kept_sampleBody
    | with_reducible refine kept_mk ?_ rfl rfl rfl rfl rfl rfl rfl rfl

theorem kept_execConsumedRead {s0 : State} {ctx : Nat} {s : State} (hk : Kept s0 s) :
    KeptOut s0 (execConsumedRead ctx s) := by
  unfold execConsumedRead
  try dsimp only
  repeat' first
    | with_reducible apply keptOut_next | with_reducible exact hk | with_reducible exact Kept.refl _ | intro _ | split
    | with_reducible apply kept_ctxMod | with_reducible apply kept_ringReadStart
    | with_reducible refine kept_mk ?_ rfl rfl rfl rfl rfl rfl rfl rfl | dsimp only

theorem kept_heldEnds {s0 s : State} {n : Nat} {p : Pend} (hk : Kept s0 s) : Kept s0 (heldEnds s n p) :=
  kept_mk hk rfl rfl rfl rfl rfl rfl rfl rfl

theorem kept_consumedValue {s0 s : State} {n : Nat} {v : Volume} {c : Nat} (hk : Kept s0 s) :
    Kept s0 (consumedValue s n v c) := by
  unfold consumedValue
  try dsimp only
  repeat' first
    | with_reducible exact hk | with_reducible exact Kept.refl _ | intro _ | split | with_reducible apply kept_ctxMod
    | with_reducible apply kept_emitToken | with_reducible apply kept_heldEnds
    | with_reducible refine kept_mk ?_ rfl rfl rfl rfl rfl rfl rfl rfl | dsimp only

theorem kept_consumedFail {s0 s : State} {n : Nat} (hk : Kept s0 s) : Kept s0 (consumedFail s n) := by
  unfold consumedFail
  try dsimp only
  repeat' first
    | with_reducible exact hk | with_reducible exact Kept.refl _ | intro _ | split | with_reducible apply kept_ctxMod
    | with_reducible apply kept_finishStep | with_reducible apply kept_heldEnds | with_reducible apply kept_stopCtx
    | with_reducible refine kept_mk ?_ rfl rfl rfl rfl rfl rfl rfl rfl | dsimp only

theorem kept_execConsumedReadReturn {s0 : State} {ctx : Nat} {answer : HostRead} {s : State} (hk : Kept s0 s) :
    KeptOut s0 (execConsumedReadReturn ctx answer s) := by
  unfold execConsumedReadReturn
  try dsimp only
  repeat' first
    | with_reducible apply keptOut_next | with_reducible exact hk | with_reducible exact Kept.refl _ | intro _ | split
    | with_reducible apply kept_readEnd | with_reducible apply kept_consumedValue
    | with_reducible apply kept_consumedFail | with_reducible apply kept_ctxMod
    | with_reducible refine kept_mk ?_ rfl rfl rfl rfl rfl rfl rfl rfl | dsimp only

theorem kept_loopBody {s0 : State} {n : Nat} {s : State} {_v : Volume} {x : Ctx} {st : VStep} (hk : Kept s0 s) :
    Kept s0 (loopBody n s _v x st) := by
  unfold loopBody
  try dsimp only
  repeat' first
    | with_reducible exact hk | with_reducible exact Kept.refl _ | intro _ | split
    | with_reducible apply kept_finishStep | with_reducible apply kept_ctxMod
    | with_reducible refine kept_mk ?_ rfl rfl rfl rfl rfl rfl rfl rfl | dsimp only

theorem kept_execLoop {s0 : State} {ctx : Nat} {s : State} (hk : Kept s0 s) : KeptOut s0 (execLoop ctx s) :=
  keptOut_next (kept_schedStep (fun _ _ _ _ => kept_loopBody (.refl _)) hk)

theorem kept_setRouter {s0 s : State} {n r : Nat} {l : List Nat} (hk : Kept s0 s) : Kept s0 (setRouter s n r l) :=
  kept_mk hk rfl rfl rfl rfl rfl rfl rfl rfl

theorem kept_routeBody {s0 : State} {n : Nat} {s : State} {v : Volume} {x : Ctx} {st : VStep} (hk : Kept s0 s) :
    Kept s0 (routeBody n s v x st) := by
  unfold routeBody
  try dsimp only
  repeat' first
    | with_reducible exact hk | with_reducible exact Kept.refl _ | intro _ | split
    | with_reducible apply kept_refuseStep | with_reducible apply kept_setRouter
    | with_reducible refine kept_readOper_of ?_ (by assumption) | with_reducible apply kept_readOper
    | with_reducible apply kept_doneStep | with_reducible refine kept_fst ?_ (by assumption)
    | with_reducible refine kept_mk ?_ rfl rfl rfl rfl rfl rfl rfl rfl | dsimp only

theorem kept_execRoute {s0 : State} {ctx : Nat} {s : State} (hk : Kept s0 s) : KeptOut s0 (execRoute ctx s) := by
  unfold execRoute
  repeat' first
    | with_reducible apply keptOut_next | with_reducible exact hk | with_reducible exact Kept.refl _ | intro _
    | with_reducible apply kept_schedStep | with_reducible apply kept_routeBody

theorem kept_execConditionalSkip {s0 : State} {ctx : Nat} {s : State} (hk : Kept s0 s) :
    KeptOut s0 (execConditionalSkip ctx s) := by
  unfold execConditionalSkip
  try dsimp only
  repeat' first
    | with_reducible apply keptOut_next | with_reducible exact hk | with_reducible exact Kept.refl _ | intro _ | split
    | with_reducible apply kept_settleLate | with_reducible apply kept_doneStep
    | with_reducible refine kept_fst ?_ (by assumption)
    | with_reducible refine kept_mk ?_ rfl rfl rfl rfl rfl rfl rfl rfl | dsimp only

end Sys2Proof.Machine
end

