-- ==== Sys2Proof/Laws/KeptLinkMsg.lean ====
section
/-! SUPPORT. What the operations of LinkMsg keep. -/

namespace Sys2Proof.Machine

set_option Elab.async false
set_option linter.all false

theorem kept_redJoin {s0 s : State} {p : Nat} {f : Flit} {a : RedArg} (hk : Kept s0 s) : Kept s0 (redJoin s p f a) := by
  unfold redJoin
  try dsimp only
  repeat' first
    | with_reducible exact hk | with_reducible exact Kept.refl _ | intro _ | split
    | with_reducible apply kept_relayTryAll | with_reducible refine kept_mk ?_ rfl rfl rfl rfl rfl rfl rfl rfl
    | dsimp only

theorem kept_execRed {s0 : State} {port : Nat} {s : State} (hk : Kept s0 s) : KeptOut s0 (execRed port s) := by
  unfold execRed
  try dsimp only
  repeat' first
    | with_reducible apply keptOut_next | with_reducible exact hk | with_reducible exact Kept.refl _ | intro _ | split
    | with_reducible apply kept_redJoin | with_reducible apply kept_inboxPop
    | with_reducible refine kept_mk ?_ rfl rfl rfl rfl rfl rfl rfl rfl | dsimp only

theorem kept_takeRunMsg_of {s0 s u : State} {code : Nat} {m : Message} (hk : Kept s0 s)
    (e : takeRunMsg s code = some (m, u)) : Kept s0 u := by
  unfold takeRunMsg at e
  split at e
  · cases e
  · split at e
    · cases e
      exact kept_mk hk rfl rfl rfl rfl rfl rfl rfl rfl
    · cases e

theorem kept_memberRefuses {s0 s : State} {node ctx : Nat} (hk : Kept s0 s) : Kept s0 (memberRefuses s node ctx) :=
  kept_msgSend hk

theorem kept_execMsgStart {s0 : State} {remote : RemoteRead} {s : State} (hk : Kept s0 s) :
    KeptOut s0 (execMsgStart remote s) := by
  unfold execMsgStart
  try dsimp only
  repeat' first
    | with_reducible apply keptOut_next | with_reducible exact hk | split
    | with_reducible refine kept_takeRunMsg_of ?_ (by assumption) | with_reducible apply kept_startWake
    | with_reducible apply kept_leaveSleep | with_reducible apply kept_memberRefuses
    | with_reducible refine kept_takeBlock_of ?_ (by assumption) | with_reducible apply kept_takeBlock
    | with_reducible refine kept_fst ?_ (by assumption)
    | with_reducible refine kept_mk ?_ rfl rfl rfl rfl rfl rfl rfl rfl | dsimp only

theorem kept_execMsgToken {s0 s : State} (hk : Kept s0 s) : KeptOut s0 (execMsgToken s) := by
  unfold execMsgToken
  try dsimp only
  repeat' first
    | with_reducible apply keptOut_next | with_reducible exact hk | with_reducible exact Kept.refl _ | intro _ | split
    | with_reducible refine kept_takeRunMsg_of ?_ (by assumption) | with_reducible apply kept_ctxMod
    | with_reducible refine kept_fst ?_ (by assumption)
    | with_reducible refine kept_mk ?_ rfl rfl rfl rfl rfl rfl rfl rfl | dsimp only

theorem kept_leadFault {s0 s : State} {n : Nat} (hk : Kept s0 s) : Kept s0 (leadFault s n) :=
  kept_stopCtx (kept_ctxMod hk)

theorem kept_execMsgStop {s0 s : State} (hk : Kept s0 s) : KeptOut s0 (execMsgStop s) := by
  unfold execMsgStop
  try dsimp only
  repeat' first
    | with_reducible apply keptOut_next | with_reducible exact hk | with_reducible exact Kept.refl _ | intro _ | split
    | with_reducible refine kept_takeRunMsg_of ?_ (by assumption) | with_reducible apply kept_stopCtx
    | with_reducible apply kept_leadFault | with_reducible refine kept_fst ?_ (by assumption)
    | with_reducible refine kept_mk ?_ rfl rfl rfl rfl rfl rfl rfl rfl | dsimp only

theorem kept_execDesk {s0 s : State} (hk : Kept s0 s) : KeptOut s0 (execDesk s) := by
  unfold execDesk
  try dsimp only
  repeat' first
    | with_reducible apply keptOut_next | with_reducible exact hk | split
    | with_reducible refine kept_takeMsg_of ?_ (by assumption) | with_reducible apply kept_msgSend
    | with_reducible refine kept_fst ?_ (by assumption)
    | with_reducible refine kept_mk ?_ rfl rfl rfl rfl rfl rfl rfl rfl | dsimp only

theorem kept_execDeskReply {s0 s : State} (hk : Kept s0 s) : KeptOut s0 (execDeskReply s) := by
  unfold execDeskReply
  repeat' first
    | with_reducible apply keptOut_next | with_reducible exact hk | split
    | with_reducible refine kept_takeMsg_of ?_ (by assumption) | with_reducible apply kept_answerForward
    | with_reducible refine kept_fst ?_ (by assumption)
    | with_reducible refine kept_mk ?_ rfl rfl rfl rfl rfl rfl rfl rfl

end Sys2Proof.Machine
end

