-- ==== Sys2Proof/Laws/KeptLinkTime.lean ====
section
/-! SUPPORT. What the operations of LinkTime keep. -/

namespace Sys2Proof.Machine

set_option Elab.async false
set_option linter.all false

theorem kept_syncRelease {s0 s : State} (hk : Kept s0 s) : Kept s0 (syncRelease s) := by
  unfold syncRelease
  repeat' first
    | with_reducible exact hk | split | with_reducible refine kept_mk ?_ rfl rfl rfl rfl rfl rfl rfl rfl

theorem kept_powerTimers {s0 s : State} (hk : Kept s0 s) : Kept s0 (powerTimers s) :=
  kept_mk hk rfl rfl rfl rfl rfl rfl rfl rfl

theorem kept_idleTick {s0 s : State} (hk : Kept s0 s) : Kept s0 (idleTick s) := by
  unfold idleTick
  dsimp only
  split
  · apply kept_peerTick
    apply kept_powerTimers
    apply kept_syncRelease
    refine kept_mk' hk rfl rfl rfl rfl rfl rfl rfl rfl ?_ id fun _ x => x
    have : -1 ≤ slewStep s := by
      unfold slewStep
      repeat' split
      all_goals omega
    show s.now ≤ ((s.now : Int) + 10 + slewStep s).toNat
    omega
  · exact hk

theorem kept_syncMod {s0 s : State} {f : SyncState → SyncState} (hk : Kept s0 s) : Kept s0 (syncMod s f) :=
  kept_mk hk rfl rfl rfl rfl rfl rfl rfl rfl

theorem kept_execSyncPulse {s0 s : State} (hk : Kept s0 s) : KeptOut s0 (execSyncPulse s) := by
  unfold execSyncPulse
  try dsimp only
  repeat' first
    | with_reducible apply keptOut_next | with_reducible exact hk | with_reducible exact Kept.refl _ | intro _ | split
    | with_reducible apply kept_syncMod | with_reducible refine kept_mk ?_ rfl rfl rfl rfl rfl rfl rfl rfl | dsimp only

theorem kept_offsetSeen {s0 s : State} {d : Int} (hk : Kept s0 s) : Kept s0 (offsetSeen s d) :=
  kept_mk hk rfl rfl rfl rfl rfl rfl rfl rfl

theorem kept_follow {s0 s : State} {d : Int} (hk : Kept s0 s) : Kept s0 (follow s d) := by
  unfold follow
  dsimp only
  split
  · rename_i h
    apply kept_offsetSeen
    refine kept_mk' (kept_syncMod hk) rfl rfl rfl rfl rfl rfl rfl rfl ?_ id fun _ x => x
    show s.now ≤ ((s.now : Int) + d).toNat
    omega
  · exact kept_offsetSeen (kept_syncMod hk)

theorem kept_execSyncInEdge {s0 s : State} (hk : Kept s0 s) : KeptOut s0 (execSyncInEdge s) := by
  unfold execSyncInEdge
  try dsimp only
  repeat' first
    | with_reducible apply keptOut_next | with_reducible exact hk | with_reducible exact Kept.refl _ | intro _ | split
    | with_reducible apply kept_follow | with_reducible apply kept_syncMod
    | with_reducible refine kept_mk ?_ rfl rfl rfl rfl rfl rfl rfl rfl | dsimp only

theorem kept_execSyncErrTimeout {s0 s : State} (hk : Kept s0 s) : KeptOut s0 (execSyncErrTimeout s) := by
  unfold execSyncErrTimeout
  try dsimp only
  repeat' first
    | with_reducible apply keptOut_next | with_reducible exact hk | with_reducible exact Kept.refl _ | intro _ | split
    | with_reducible apply kept_logNow | with_reducible apply kept_syncMod
    | with_reducible refine kept_mk ?_ rfl rfl rfl rfl rfl rfl rfl rfl | dsimp only

theorem kept_execMasterElection {s0 s : State} (hk : Kept s0 s) : KeptOut s0 (execMasterElection s) := by
  unfold execMasterElection
  try dsimp only
  repeat' first
    | with_reducible apply keptOut_next | with_reducible exact hk | with_reducible exact Kept.refl _ | intro _ | split
    | with_reducible apply kept_syncMod | with_reducible refine kept_mk ?_ rfl rfl rfl rfl rfl rfl rfl rfl | dsimp only

theorem kept_keyRenew {s0 s : State} {p : Nat} (hk : Kept s0 s) : Kept s0 (keyRenew s p) := by
  unfold keyRenew
  try dsimp only
  repeat' first
    | with_reducible exact hk | with_reducible exact Kept.refl _ | intro _ | split
    | with_reducible apply kept_authStart | with_reducible apply kept_portMod
    | with_reducible refine kept_mk ?_ rfl rfl rfl rfl rfl rfl rfl rfl | dsimp only

theorem kept_execTimeFlitSend {s0 : State} {port : Nat} {s : State} (hk : Kept s0 s) :
    KeptOut s0 (execTimeFlitSend port s) := by
  unfold execTimeFlitSend
  try dsimp only
  repeat' first
    | with_reducible apply keptOut_next | with_reducible exact hk | with_reducible exact Kept.refl _ | intro _ | split
    | with_reducible refine kept_portSeal_of ?_ (by assumption) | with_reducible apply kept_portSeal
    | with_reducible apply kept_portPut | with_reducible apply kept_portMod | with_reducible apply kept_keyRenew
    | with_reducible apply kept_portEnterIf | with_reducible refine kept_fst ?_ (by assumption)
    | with_reducible refine kept_mk ?_ rfl rfl rfl rfl rfl rfl rfl rfl | dsimp only

theorem kept_slotHeard {s0 s : State} {slot : Nat} {isMaster : Bool} (hk : Kept s0 s) :
    Kept s0 (slotHeard s slot isMaster) := by
  unfold slotHeard
  try dsimp only
  repeat' first
    | with_reducible exact hk | with_reducible exact Kept.refl _ | intro _ | with_reducible apply kept_syncMod
    | with_reducible refine kept_mk ?_ rfl rfl rfl rfl rfl rfl rfl rfl | dsimp only

theorem kept_masterYields {s0 s : State} (hk : Kept s0 s) : Kept s0 (masterYields s) := by
  unfold masterYields
  try dsimp only
  repeat' first
    | with_reducible exact hk | with_reducible exact Kept.refl _ | intro _ | split | with_reducible apply kept_syncMod
    | with_reducible refine kept_mk ?_ rfl rfl rfl rfl rfl rfl rfl rfl | dsimp only

theorem kept_masterHeard {s0 s : State} {known : Bool} {th : Int} (hk : Kept s0 s) :
    Kept s0 (masterHeard s known th) := by
  unfold masterHeard
  try dsimp only
  repeat' first
    | with_reducible exact hk | with_reducible exact Kept.refl _ | intro _ | split
    | with_reducible apply kept_masterYields | with_reducible apply kept_syncMod | with_reducible apply kept_follow
    | with_reducible refine kept_mk ?_ rfl rfl rfl rfl rfl rfl rfl rfl | dsimp only

theorem kept_execTimeFlitReceive {s0 : State} {port rx : Nat} {s : State} (hk : Kept s0 s) :
    KeptOut s0 (execTimeFlitReceive port rx s) := by
  unfold execTimeFlitReceive
  try dsimp only
  repeat' first
    | with_reducible apply keptOut_next | with_reducible exact hk | with_reducible exact Kept.refl _ | intro _ | split
    | with_reducible apply kept_inboxPop | with_reducible apply kept_portMod | with_reducible apply kept_slotHeard
    | with_reducible apply kept_masterHeard | with_reducible apply kept_portEnterIf
    | with_reducible refine kept_mk ?_ rfl rfl rfl rfl rfl rfl rfl rfl | dsimp only

theorem kept_execLpIdleTimer {s0 : State} {port : Nat} {s : State} (hk : Kept s0 s) :
    KeptOut s0 (execLpIdleTimer port s) := by
  unfold execLpIdleTimer
  try dsimp only
  repeat' first
    | with_reducible apply keptOut_next | with_reducible exact hk | with_reducible exact Kept.refl _ | intro _ | split
    | with_reducible apply kept_lctlSend | with_reducible apply kept_portMod
    | with_reducible refine kept_mk ?_ rfl rfl rfl rfl rfl rfl rfl rfl | dsimp only

theorem kept_execLpReq {s0 : State} {port : Nat} {s : State} (hk : Kept s0 s) : KeptOut s0 (execLpReq port s) := by
  unfold execLpReq
  try dsimp only
  repeat' first
    | with_reducible apply keptOut_next | with_reducible exact hk | with_reducible exact Kept.refl _ | intro _ | split
    | with_reducible apply kept_inboxPop | with_reducible apply kept_portMod | with_reducible apply kept_lctlSend
    | with_reducible refine kept_mk ?_ rfl rfl rfl rfl rfl rfl rfl rfl | dsimp only

theorem kept_execLpAck {s0 : State} {port : Nat} {s : State} (hk : Kept s0 s) : KeptOut s0 (execLpAck port s) := by
  unfold execLpAck
  try dsimp only
  repeat' first
    | with_reducible apply keptOut_next | with_reducible exact hk | with_reducible exact Kept.refl _ | intro _ | split
    | with_reducible apply kept_inboxPop | with_reducible apply kept_portMod
    | with_reducible refine kept_mk ?_ rfl rfl rfl rfl rfl rfl rfl rfl | dsimp only

theorem kept_execLpNak {s0 : State} {port : Nat} {s : State} (hk : Kept s0 s) : KeptOut s0 (execLpNak port s) := by
  unfold execLpNak
  try dsimp only
  repeat' first
    | with_reducible apply keptOut_next | with_reducible exact hk | with_reducible exact Kept.refl _ | intro _ | split
    | with_reducible apply kept_portMod | with_reducible apply kept_inboxPop
    | with_reducible refine kept_mk ?_ rfl rfl rfl rfl rfl rfl rfl rfl | dsimp only

theorem kept_execWake {s0 : State} {port : Nat} {s : State} (hk : Kept s0 s) : KeptOut s0 (execWake port s) := by
  unfold execWake
  try dsimp only
  repeat' first
    | with_reducible apply keptOut_next | with_reducible exact hk | with_reducible exact Kept.refl _ | intro _ | split
    | with_reducible apply kept_portMod | with_reducible apply kept_inboxPop
    | with_reducible refine kept_mk ?_ rfl rfl rfl rfl rfl rfl rfl rfl | dsimp only

end Sys2Proof.Machine
end

