-- ==== Sys2Proof/Laws/KeptDeskLink.lean ====
section
/-! SUPPORT. What the operations of DeskLink keep. -/

namespace Sys2Proof.Machine

set_option Elab.async false
set_option linter.all false

theorem kept_linkStatusBody {s0 s : State} {c : RunCmd} (hk : Kept s0 s) : Kept s0 (linkStatusBody s c) :=
  kept_complete hk

theorem kept_execLinkStatus {s0 : State} {src : DeskSrc} {s : State} (hk : Kept s0 s) :
    KeptOut s0 (execLinkStatus src s) :=
  keptOut_next (kept_deskRun (fun _ _ => kept_linkStatusBody (.refl _)) hk)

theorem kept_boardSet {s0 s : State} {board : Nat} (hk : Kept s0 s) : Kept s0 (boardSet s board) := by
  unfold boardSet
  try dsimp only
  repeat' first
    | with_reducible exact hk | with_reducible exact Kept.refl _ | intro _ | with_reducible apply kept_sessionsLost
    | with_reducible apply kept_portStart | with_reducible apply kept_foldl
    | with_reducible refine kept_mk ?_ rfl rfl rfl rfl rfl rfl rfl rfl | dsimp only

theorem kept_linkConfigBody {s0 s : State} {c : RunCmd} (hk : Kept s0 s) : Kept s0 (linkConfigBody s c) := by
  unfold linkConfigBody
  try dsimp only
  repeat' first
    | with_reducible exact hk | with_reducible exact Kept.refl _ | intro _ | split | with_reducible apply kept_portMod
    | with_reducible apply kept_boardSet | with_reducible apply kept_portStart | with_reducible apply kept_complete
    | with_reducible refine kept_mk ?_ rfl rfl rfl rfl rfl rfl rfl rfl | dsimp only

theorem kept_execLinkConfig {s0 : State} {src : DeskSrc} {s : State} (hk : Kept s0 s) :
    KeptOut s0 (execLinkConfig src s) :=
  keptOut_next (kept_deskRun (fun _ _ => kept_linkConfigBody (.refl _)) hk)

theorem kept_portResetBody {s0 s : State} {c : RunCmd} (hk : Kept s0 s) : Kept s0 (portResetBody s c) :=
  kept_complete (kept_portStart hk)

theorem kept_execPortReset {s0 : State} {src : DeskSrc} {s : State} (hk : Kept s0 s) :
    KeptOut s0 (execPortReset src s) :=
  keptOut_next (kept_deskRun (fun _ _ => kept_portResetBody (.refl _)) hk)

theorem kept_anchorsSet {s0 s : State} {l : Tbl Nat Bytes} (hk : Kept s0 s) : Kept s0 (anchorsSet s l) :=
  kept_measTake (kept_mk hk rfl rfl rfl rfl rfl rfl rfl rfl)

theorem kept_linkAnchorBody {s0 : State} {buf : HostRead} {s : State} {c : RunCmd} (hk : Kept s0 s) :
    Kept s0 (linkAnchorBody buf s c) := by
  unfold linkAnchorBody
  try dsimp only
  repeat' first
    | with_reducible exact hk | with_reducible exact Kept.refl _ | intro _ | split | with_reducible apply kept_complete
    | with_reducible apply kept_anchorsSet | with_reducible apply kept_failWith | with_reducible apply kept_withBuf
    | with_reducible refine kept_mk ?_ rfl rfl rfl rfl rfl rfl rfl rfl | dsimp only

theorem kept_execLinkAnchor {s0 : State} {src : DeskSrc} {buf : HostRead} {s : State} (hk : Kept s0 s) :
    KeptOut s0 (execLinkAnchor src buf s) :=
  keptOut_next (kept_deskRun (fun _ _ => kept_linkAnchorBody (.refl _)) hk)

theorem kept_sessionClose {s0 s : State} {k : Nat × Nat} (hk : Kept s0 s) : Kept s0 (sessionClose s k) := by
  unfold sessionClose
  try dsimp only
  repeat' first
    | with_reducible exact hk | with_reducible exact Kept.refl _ | intro _ | split
    | with_reducible apply kept_sessionLost | with_reducible apply kept_sctlSend | with_reducible apply kept_sessMod
    | with_reducible refine kept_mk ?_ rfl rfl rfl rfl rfl rfl rfl rfl | dsimp only

theorem kept_sessionBindBody {s0 s : State} {c : RunCmd} (hk : Kept s0 s) : Kept s0 (sessionBindBody s c) := by
  unfold sessionBindBody
  try dsimp only
  repeat' first
    | with_reducible exact hk | with_reducible exact Kept.refl _ | intro _ | split | with_reducible apply kept_failWith
    | with_reducible apply kept_complete | with_reducible apply kept_sessionClose | with_reducible apply kept_foldl
    | with_reducible refine kept_mk ?_ rfl rfl rfl rfl rfl rfl rfl rfl | dsimp only

theorem kept_execSessionBind {s0 : State} {src : DeskSrc} {s : State} (hk : Kept s0 s) :
    KeptOut s0 (execSessionBind src s) :=
  keptOut_next (kept_deskRun (fun _ _ => kept_sessionBindBody (.refl _)) hk)

theorem kept_sessionCloseBody {s0 s : State} {c : RunCmd} (hk : Kept s0 s) : Kept s0 (sessionCloseBody s c) := by
  unfold sessionCloseBody
  try dsimp only
  repeat' first
    | with_reducible exact hk | split | with_reducible apply kept_failWith | with_reducible apply kept_complete
    | with_reducible apply kept_sessionClose | with_reducible refine kept_mk ?_ rfl rfl rfl rfl rfl rfl rfl rfl
    | dsimp only

theorem kept_execSessionClose {s0 : State} {src : DeskSrc} {s : State} (hk : Kept s0 s) :
    KeptOut s0 (execSessionClose src s) :=
  keptOut_next (kept_deskRun (fun _ _ => kept_sessionCloseBody (.refl _)) hk)

theorem kept_windowSetBody {s0 s : State} {c : RunCmd} (hk : Kept s0 s) : Kept s0 (windowSetBody s c) := by
  unfold windowSetBody
  try dsimp only
  repeat' first
    | with_reducible exact hk | with_reducible exact Kept.refl _ | intro _ | split | with_reducible apply kept_complete
    | with_reducible apply kept_failAddrs | with_reducible apply kept_failWith | with_reducible apply kept_runningSet
    | with_reducible refine kept_fst ?_ (by assumption)
    | with_reducible refine kept_mk ?_ rfl rfl rfl rfl rfl rfl rfl rfl | dsimp only

theorem kept_execWindowSet {s0 : State} {src : DeskSrc} {s : State} (hk : Kept s0 s) :
    KeptOut s0 (execWindowSet src s) :=
  keptOut_next (kept_deskRun (fun _ _ => kept_windowSetBody (.refl _)) hk)

theorem kept_routeSetBody {s0 s : State} {c : RunCmd} (hk : Kept s0 s) : Kept s0 (routeSetBody s c) :=
  kept_complete (kept_repath (kept_mk hk rfl rfl rfl rfl rfl rfl rfl rfl))

theorem kept_execRouteSet {s0 : State} {src : DeskSrc} {s : State} (hk : Kept s0 s) : KeptOut s0 (execRouteSet src s) :=
  keptOut_next (kept_deskRun (fun _ _ => kept_routeSetBody (.refl _)) hk)

end Sys2Proof.Machine
end

