-- ==== Sys2Proof/Laws/KeptDeskTenant.lean ====
section
/-! SUPPORT. What the operations of DeskTenant keep. -/

namespace Sys2Proof.Machine

set_option Elab.async false
set_option linter.all false

theorem kept_tenantCreateBody {s0 s : State} {c : RunCmd} (hk : Kept s0 s) : Kept s0 (tenantCreateBody s c) := by
  unfold tenantCreateBody
  dsimp only
  repeat' split
  all_goals first
    | exact kept_failWith hk
    | (apply kept_complete
       apply kept_drew
       exact kept_mk' hk rfl rfl rfl rfl rfl rfl rfl rfl (Nat.le_refl _) (thas_tset _ _ _ _) fun _ x => x)

theorem kept_execTenantCreate {s0 : State} {src : DeskSrc} {s : State} (hk : Kept s0 s) :
    KeptOut s0 (execTenantCreate src s) :=
  keptOut_next (kept_deskRun (fun _ _ => kept_tenantCreateBody (.refl _)) hk)

theorem kept_tenantSetBody {s0 s : State} {c : RunCmd} (hk : Kept s0 s) : Kept s0 (tenantSetBody s c) := by
  unfold tenantSetBody
  dsimp only
  repeat' split
  all_goals first
    | exact kept_failWith hk
    | (apply kept_complete
       exact kept_mk' hk rfl rfl rfl rfl rfl rfl rfl rfl (Nat.le_refl _) (thas_tset _ _ _ _) fun _ x => x)

theorem kept_execTenantSet {s0 : State} {src : DeskSrc} {s : State} (hk : Kept s0 s) :
    KeptOut s0 (execTenantSet src s) :=
  keptOut_next (kept_deskRun (fun _ _ => kept_tenantSetBody (.refl _)) hk)

theorem kept_tenantDrop {s0 s : State} {t : Nat} (ht : t ≠ 0) (hk : Kept s0 s) : Kept s0 (tenantDrop s t) := by
  unfold tenantDrop
  dsimp only
  refine kept_mk' hk rfl rfl rfl rfl rfl rfl rfl rfl (Nat.le_refl _) (fun x => ?_) fun _ x => x
  simpa [thas, tget_tdel_ne s.tenants ht.symm] using x

theorem kept_tenantDestroyBody {s0 s : State} {c : RunCmd} (hk : Kept s0 s) : Kept s0 (tenantDestroyBody s c) := by
  unfold tenantDestroyBody
  dsimp only
  split
  · exact kept_failWith hk
  · split
    · exact kept_failWith hk
    · split
      · exact kept_failWith hk
      · exact kept_complete (kept_tenantDrop ‹_› hk)

theorem kept_execTenantDestroy {s0 : State} {src : DeskSrc} {s : State} (hk : Kept s0 s) :
    KeptOut s0 (execTenantDestroy src s) :=
  keptOut_next (kept_deskRun (fun _ _ => kept_tenantDestroyBody (.refl _)) hk)

theorem kept_tenantStatusBody {s0 s : State} {c : RunCmd} (hk : Kept s0 s) : Kept s0 (tenantStatusBody s c) := by
  unfold tenantStatusBody
  try dsimp only
  repeat' first
    | with_reducible exact hk | with_reducible exact Kept.refl _ | intro _ | split | with_reducible apply kept_failWith
    | with_reducible apply kept_complete | with_reducible refine kept_mk ?_ rfl rfl rfl rfl rfl rfl rfl rfl
    | dsimp only

theorem kept_execTenantStatus {s0 : State} {src : DeskSrc} {s : State} (hk : Kept s0 s) :
    KeptOut s0 (execTenantStatus src s) :=
  keptOut_next (kept_deskRun (fun _ _ => kept_tenantStatusBody (.refl _)) hk)

theorem kept_accDrop {s0 s : State} {mid : Nat} (hk : Kept s0 s) : Kept s0 (accDrop s mid) :=
  kept_mk hk rfl rfl rfl rfl rfl rfl rfl rfl

theorem kept_requestsDrop {s0 s : State} {mid : Nat} (hk : Kept s0 s) : Kept s0 (requestsDrop s mid) := by
  unfold requestsDrop
  try dsimp only
  repeat' first
    | with_reducible exact hk | with_reducible exact Kept.refl _ | intro _ | with_reducible apply kept_requestEnd
    | with_reducible apply kept_foldl | with_reducible apply kept_foldl_fst | dsimp only

theorem kept_destroyObjects {s0 s : State} {mid : Nat} (hk : Kept s0 s) : Kept s0 (destroyObjects s mid) := by
  unfold destroyObjects
  try dsimp only
  repeat' first
    | with_reducible exact hk | with_reducible exact Kept.refl _ | intro _ | split
    | with_reducible apply kept_closeWindow | with_reducible apply kept_dropPins | with_reducible apply kept_accDrop
    | with_reducible apply kept_unloadTensor | with_reducible apply kept_returnMaster
    | with_reducible apply kept_requestsDrop | with_reducible apply kept_dropKv | with_reducible apply kept_dropRegion
    | with_reducible apply kept_foldl | with_reducible apply kept_foldl_fst
    | with_reducible refine kept_mk ?_ rfl rfl rfl rfl rfl rfl rfl rfl | dsimp only

theorem kept_unbindMaster {s0 s : State} {mid : Nat} (hk : Kept s0 s) : Kept s0 (unbindMaster s mid) :=
  kept_mk hk rfl rfl rfl rfl rfl rfl rfl rfl

theorem kept_masterBindBody {s0 s : State} {c : RunCmd} (hk : Kept s0 s) : Kept s0 (masterBindBody s c) := by
  unfold masterBindBody
  try dsimp only
  repeat' first
    | with_reducible exact hk | split | with_reducible apply kept_failWith | with_reducible apply kept_complete
    | with_reducible apply kept_unbindMaster | with_reducible apply kept_destroyObjects
    | with_reducible refine kept_mk ?_ rfl rfl rfl rfl rfl rfl rfl rfl | dsimp only

theorem kept_execMasterBind {s0 : State} {src : DeskSrc} {s : State} (hk : Kept s0 s) :
    KeptOut s0 (execMasterBind src s) :=
  keptOut_next (kept_deskRun (fun _ _ => kept_masterBindBody (.refl _)) hk)

theorem kept_volumeKeyBody {s0 s : State} {c : RunCmd} (hk : Kept s0 s) : Kept s0 (volumeKeyBody s c) := by
  unfold volumeKeyBody
  dsimp only
  repeat' split
  all_goals first
    | exact kept_failWith hk
    | exact kept_complete hk
    | (apply kept_complete
       exact kept_mk' hk rfl rfl rfl rfl rfl rfl rfl rfl (Nat.le_refl _) (thas_tset _ _ _ _) fun _ x => x)

theorem kept_execVolumeKey {s0 : State} {src : DeskSrc} {s : State} (hk : Kept s0 s) :
    KeptOut s0 (execVolumeKey src s) :=
  keptOut_next (kept_deskRun (fun _ _ => kept_volumeKeyBody (.refl _)) hk)

end Sys2Proof.Machine
end

