-- ==== Sys2Proof/Laws/KeptDeskBw.lean ====
section
/-! SUPPORT. What the operations of DeskBw keep. -/

namespace Sys2Proof.Machine

set_option Elab.async false
set_option linter.all false

theorem kept_bwSetBody {s0 : State} {buf : HostRead} {s : State} {c : RunCmd} (hk : Kept s0 s) :
    Kept s0 (bwSetBody buf s c) := by
  unfold bwSetBody
  try dsimp only
  repeat' first
    | with_reducible exact hk | with_reducible exact Kept.refl _ | intro _ | split | with_reducible apply kept_failWith
    | with_reducible apply kept_withBuf | with_reducible apply kept_complete
    | with_reducible refine kept_mk ?_ rfl rfl rfl rfl rfl rfl rfl rfl | dsimp only

theorem kept_execBwSet {s0 : State} {src : DeskSrc} {buf : HostRead} {s : State} (hk : Kept s0 s) :
    KeptOut s0 (execBwSet src buf s) :=
  keptOut_next (kept_deskRun (fun _ _ => kept_bwSetBody (.refl _)) hk)

theorem kept_bwStatusBody {s0 s : State} {c : RunCmd} (hk : Kept s0 s) : Kept s0 (bwStatusBody s c) := by
  unfold bwStatusBody
  try dsimp only
  repeat' first
    | with_reducible exact hk | with_reducible exact Kept.refl _ | intro _ | split | with_reducible apply kept_failWith
    | with_reducible apply kept_completeOut | dsimp only

theorem kept_execBwStatus {s0 : State} {src : DeskSrc} {s : State} (hk : Kept s0 s) : KeptOut s0 (execBwStatus src s) :=
  keptOut_next (kept_deskRun (fun _ _ => kept_bwStatusBody (.refl _)) hk)

theorem kept_bwUrgencyBody {s0 s : State} {c : RunCmd} (hk : Kept s0 s) : Kept s0 (bwUrgencyBody s c) := by
  unfold bwUrgencyBody
  try dsimp only
  repeat' first
    | with_reducible exact hk | with_reducible exact Kept.refl _ | intro _ | split | with_reducible apply kept_complete
    | with_reducible apply kept_failWith | with_reducible refine kept_mk ?_ rfl rfl rfl rfl rfl rfl rfl rfl
    | dsimp only

theorem kept_execBwUrgency {s0 : State} {src : DeskSrc} {s : State} (hk : Kept s0 s) :
    KeptOut s0 (execBwUrgency src s) :=
  keptOut_next (kept_deskRun (fun _ _ => kept_bwUrgencyBody (.refl _)) hk)

theorem kept_bwApply {s0 s : State} (hk : Kept s0 s) : Kept s0 (bwApply s) := by
  unfold bwApply
  try dsimp only
  repeat' first
    | with_reducible exact hk | with_reducible exact Kept.refl _ | intro _ | with_reducible apply kept_bwMod
    | with_reducible apply kept_foldl | with_reducible refine kept_mk ?_ rfl rfl rfl rfl rfl rfl rfl rfl | dsimp only

theorem kept_bwScale {s0 s : State} {r : Nat} (hk : Kept s0 s) : Kept s0 (bwScale s r) := by
  unfold bwScale
  try dsimp only
  repeat' first
    | with_reducible exact hk | with_reducible exact Kept.refl _ | intro _ | split | with_reducible apply kept_bwMod
    | with_reducible apply kept_logNow | with_reducible apply kept_foldl
    | with_reducible refine kept_mk ?_ rfl rfl rfl rfl rfl rfl rfl rfl | dsimp only

theorem kept_execLedgerWindow {s0 s : State} (hk : Kept s0 s) : KeptOut s0 (execLedgerWindow s) := by
  unfold execLedgerWindow
  try dsimp only
  repeat' first
    | with_reducible apply keptOut_next | with_reducible exact hk | with_reducible exact Kept.refl _ | intro _ | split
    | with_reducible apply kept_bwScale | with_reducible apply kept_bwApply | with_reducible apply kept_relayGo
    | with_reducible apply kept_sessDrain | with_reducible apply kept_foldl | with_reducible apply kept_foldl_fst
    | with_reducible refine kept_mk ?_ rfl rfl rfl rfl rfl rfl rfl rfl | dsimp only

theorem kept_execUrgLevelChange {s0 : State} {port : Nat} {level : BitVec 2} {s : State} (hk : Kept s0 s) :
    KeptOut s0 (execUrgLevelChange port level s) := by
  unfold execUrgLevelChange
  try dsimp only
  repeat' first
    | with_reducible apply keptOut_next | with_reducible exact hk | split | with_reducible apply kept_portWake
    | with_reducible refine kept_mk ?_ rfl rfl rfl rfl rfl rfl rfl rfl | dsimp only

end Sys2Proof.Machine
end

