-- ==== Sys2Proof/Laws/KeptRas.lean ====
section
/-! SUPPORT. What the operations of Ras keep. -/

namespace Sys2Proof.Machine

set_option Elab.async false
set_option linter.all false

theorem kept_markReturned {s0 s : State} {l : List Nat} (hk : Kept s0 s) : Kept s0 (markReturned s l) :=
  kept_alertEval (kept_mk hk rfl rfl rfl rfl rfl rfl rfl rfl)

theorem kept_errataReadBody {s0 s : State} {c : RunCmd} (hk : Kept s0 s) : Kept s0 (errataReadBody s c) := by
  unfold errataReadBody
  try dsimp only
  repeat' first
    | with_reducible exact hk | with_reducible exact Kept.refl _ | intro _ | split
    | with_reducible apply kept_markReturned | with_reducible apply kept_completeOut
    | with_reducible apply kept_complete | with_reducible refine kept_fst ?_ (by assumption) | dsimp only

theorem kept_execErrataRead {s0 : State} {src : DeskSrc} {s : State} (hk : Kept s0 s) :
    KeptOut s0 (execErrataRead src s) :=
  keptOut_next (kept_deskRun (fun _ _ => kept_errataReadBody (.refl _)) hk)

theorem kept_rasStatusBody {s0 s : State} {c : RunCmd} (hk : Kept s0 s) : Kept s0 (rasStatusBody s c) :=
  kept_complete hk

theorem kept_execRasStatus {s0 : State} {src : DeskSrc} {s : State} (hk : Kept s0 s) :
    KeptOut s0 (execRasStatus src s) :=
  keptOut_next (kept_deskRun (fun _ _ => kept_rasStatusBody (.refl _)) hk)

theorem kept_unitServiceBody {s0 s : State} {c : RunCmd} (hk : Kept s0 s) : Kept s0 (unitServiceBody s c) := by
  unfold unitServiceBody
  try dsimp only
  repeat' first
    | with_reducible exact hk | with_reducible exact Kept.refl _ | intro _ | split | with_reducible apply kept_failWith
    | with_reducible apply kept_complete | with_reducible apply kept_muMod | with_reducible apply kept_vuMod
    | with_reducible refine kept_mk ?_ rfl rfl rfl rfl rfl rfl rfl rfl | dsimp only

theorem kept_execUnitService {s0 : State} {src : DeskSrc} {s : State} (hk : Kept s0 s) :
    KeptOut s0 (execUnitService src s) :=
  keptOut_next (kept_deskRun (fun _ _ => kept_unitServiceBody (.refl _)) hk)

theorem kept_scrubSetBody {s0 s : State} {c : RunCmd} (hk : Kept s0 s) : Kept s0 (scrubSetBody s c) := by
  unfold scrubSetBody
  try dsimp only
  repeat' first
    | with_reducible exact hk | split | with_reducible apply kept_complete
    | with_reducible refine kept_mk ?_ rfl rfl rfl rfl rfl rfl rfl rfl | dsimp only

theorem kept_execScrubSet {s0 : State} {src : DeskSrc} {s : State} (hk : Kept s0 s) : KeptOut s0 (execScrubSet src s) :=
  keptOut_next (kept_deskRun (fun _ _ => kept_scrubSetBody (.refl _)) hk)

theorem kept_logUnitOut {s0 s : State} {kind i cause : Nat} (hk : Kept s0 s) : Kept s0 (logUnitOut s kind i cause) :=
  kept_logNow hk

theorem kept_execUnitRemap {s0 : State} {unit : UnitRef} {s : State} (hk : Kept s0 s) :
    KeptOut s0 (execUnitRemap unit s) := by
  unfold execUnitRemap
  try dsimp only
  repeat' first
    | with_reducible apply keptOut_next | with_reducible exact hk | with_reducible exact Kept.refl _ | intro _ | split
    | with_reducible apply kept_muMod | with_reducible apply kept_abandonOn | with_reducible apply kept_logUnitOut
    | with_reducible apply kept_vuMod | with_reducible refine kept_mk ?_ rfl rfl rfl rfl rfl rfl rfl rfl | dsimp only

theorem kept_execMuLocalReset {s0 : State} {mu : Nat} {s : State} (hk : Kept s0 s) :
    KeptOut s0 (execMuLocalReset mu s) := by
  unfold execMuLocalReset
  try dsimp only
  repeat' first
    | with_reducible apply keptOut_next | with_reducible exact hk | with_reducible exact Kept.refl _ | intro _ | split
    | with_reducible apply kept_muMod | with_reducible apply kept_retireAll | with_reducible apply kept_logNow
    | with_reducible refine kept_mk ?_ rfl rfl rfl rfl rfl rfl rfl rfl | dsimp only

theorem kept_scrubRecover {s0 s : State} {id tile : Nat} {replica origin : RemoteRead} (hk : Kept s0 s) :
    Kept s0 (scrubRecover s id tile replica origin) := by
  unfold scrubRecover
  repeat' first
    | with_reducible exact hk | split | with_reducible refine kept_recoverTile_of ?_ (by assumption)
    | with_reducible apply kept_recoverTile | with_reducible apply kept_logRecovery
    | with_reducible apply kept_rewriteTile | with_reducible apply kept_damageTensor
    | with_reducible refine kept_fst ?_ (by assumption)
    | with_reducible refine kept_mk ?_ rfl rfl rfl rfl rfl rfl rfl rfl

theorem kept_scrubLine {s0 s : State} {line : Nat} {replica origin : RemoteRead} (hk : Kept s0 s) :
    Kept s0 (scrubLine s line replica origin) := by
  unfold scrubLine
  try dsimp only
  repeat' first
    | with_reducible exact hk | with_reducible exact Kept.refl _ | exact Mem.poisonLine_wf _ _
    | exact Mem.setErr_wf _ _ _ | exact (fun hm : Mem.wf _ = true => hm) | intro _ | split
    | with_reducible apply kept_chargeRead | with_reducible refine kept_lineCheck_of ?_ (by assumption)
    | with_reducible apply kept_lineCheck | with_reducible apply kept_charge | with_reducible apply kept_scrubRecover
    | with_reducible apply kept_wcRestage | with_reducible apply kept_foldl
    | with_reducible refine kept_fst ?_ (by assumption) | with_reducible apply kept_foldl_fst
    | with_reducible refine kept_mem ?_ ?_ | with_reducible refine kept_mk ?_ rfl rfl rfl rfl rfl rfl rfl rfl
    | dsimp only

theorem kept_scrubWord {s0 s : State} {array index word : Nat} (hk : Kept s0 s) :
    Kept s0 (scrubWord s array index word) := by
  unfold scrubWord
  try dsimp only
  repeat' first
    | with_reducible exact hk | split | with_reducible apply kept_sramEvent | with_reducible apply kept_poisonCopy
    | with_reducible refine kept_fst ?_ (by assumption)
    | with_reducible refine kept_mk ?_ rfl rfl rfl rfl rfl rfl rfl rfl | dsimp only

theorem kept_halfMod {s0 s : State} {h : Half} {f : HalfState → HalfState} (hk : Kept s0 s)
    (hf : ∀ x, x.fenced = true → (f x).fenced = true) : Kept s0 (halfMod s h f) := by
  unfold halfMod
  refine kept_mk' hk rfl rfl rfl rfl rfl rfl rfl rfl (Nat.le_refl _) id fun g x => ?_
  by_cases e : g = h
  · subst e
    simpa [PerHalf.mod] using hf _ x
  · simpa [PerHalf.mod, PerHalf.get_set_ne _ _ e] using x

theorem kept_ctxPoisoned {s0 s : State} {n : Nat} (hk : Kept s0 s) : Kept s0 (ctxPoisoned s n) :=
  kept_stopCtx (kept_ctxMod hk)

theorem kept_waitingPoisoned {s0 s : State} {n : Nat} (hk : Kept s0 s) : Kept s0 (waitingPoisoned s n) := by
  unfold waitingPoisoned
  try dsimp only
  repeat' first
    | with_reducible exact hk | with_reducible exact Kept.refl _ | intro _ | split | with_reducible apply kept_queMod
    | with_reducible apply kept_endUnrun | with_reducible apply kept_foldl
    | with_reducible refine kept_mk ?_ rfl rfl rfl rfl rfl rfl rfl rfl | dsimp only

theorem kept_requestsPoisoned {s0 s : State} (hk : Kept s0 s) : Kept s0 (requestsPoisoned s) := by
  unfold requestsPoisoned
  try dsimp only
  repeat' first
    | with_reducible exact hk | with_reducible exact Kept.refl _ | intro _ | with_reducible apply kept_waitingPoisoned
    | with_reducible apply kept_ctxPoisoned | with_reducible apply kept_runWaits | with_reducible apply kept_foldl
    | with_reducible apply kept_foldl_fst | dsimp only

theorem kept_fenceUnits {s0 s : State} {h : Half} (hk : Kept s0 s) : Kept s0 (fenceUnits s h) := by
  unfold fenceUnits
  try dsimp only
  repeat' first
    | with_reducible exact hk | with_reducible exact Kept.refl _ | intro _ | split | with_reducible apply kept_muMod
    | with_reducible apply kept_abandonOn | with_reducible apply kept_foldl
    | with_reducible refine kept_mk ?_ rfl rfl rfl rfl rfl rfl rfl rfl | dsimp only

theorem kept_fenceHalf {s0 s : State} {h : Half} (hk : Kept s0 s) : Kept s0 (fenceHalf s h) := by
  unfold fenceHalf
  try dsimp only
  repeat' first
    | with_reducible exact hk | with_reducible exact Kept.refl _ | exact fun h => h | intro _ | split
    | with_reducible apply kept_halfMod | with_reducible apply kept_logNow | with_reducible apply kept_fenceUnits
    | with_reducible apply kept_requestsPoisoned | with_reducible apply kept_portDown | with_reducible apply kept_foldl
    | with_reducible apply kept_foldl_fst | with_reducible refine kept_mk ?_ rfl rfl rfl rfl rfl rfl rfl rfl
    | dsimp only

theorem kept_execHalfFence {s0 : State} {half : Half} {s : State} (hk : Kept s0 s) :
    KeptOut s0 (execHalfFence half s) := by
  unfold execHalfFence
  repeat' first
    | with_reducible apply keptOut_next | with_reducible exact hk | split | with_reducible apply kept_fenceHalf

theorem kept_execTrngFail {s0 : State} {half : Half} {s : State} (hk : Kept s0 s) :
    KeptOut s0 (execTrngFail half s) := by
  unfold execTrngFail
  try dsimp only
  repeat' first
    | with_reducible apply keptOut_next | with_reducible exact hk | split | with_reducible apply kept_logNow
    | with_reducible apply kept_fenceHalf | with_reducible refine kept_mk ?_ rfl rfl rfl rfl rfl rfl rfl rfl
    | dsimp only

theorem kept_execModuleFault {s0 : State} {unit : ModuleUnit} {s : State} (hk : Kept s0 s) :
    KeptOut s0 (execModuleFault unit s) := by
  unfold execModuleFault
  try dsimp only
  repeat' first
    | with_reducible apply keptOut_next | with_reducible exact hk | with_reducible exact Kept.refl _ | intro _ | split
    | with_reducible apply kept_logNow | with_reducible apply kept_portDown | with_reducible apply kept_foldl
    | with_reducible refine kept_mk ?_ rfl rfl rfl rfl rfl rfl rfl rfl | dsimp only

theorem kept_rescueWay {s0 s : State} {h : Half} {stack : Nat} {k : Nat × Nat} (hk : Kept s0 s) :
    Kept s0 (rescueWay s h stack k) := by
  unfold rescueWay
  try dsimp only
  repeat' first
    | with_reducible exact hk | with_reducible exact Kept.refl _ | intro _ | split | with_reducible apply kept_putWay
    | with_reducible apply kept_writeBackLine | with_reducible apply kept_foldl
    | with_reducible refine kept_mk ?_ rfl rfl rfl rfl rfl rfl rfl rfl | dsimp only

theorem kept_accLost {s0 s : State} {tier : Nat} {h : Half} (hk : Kept s0 s) : Kept s0 (accLost s tier h) := by
  unfold accLost
  try dsimp only
  repeat' first
    | with_reducible exact hk | with_reducible exact Kept.refl _ | intro _ | split | with_reducible apply kept_accFail
    | with_reducible refine kept_fst ?_ (by assumption)
    | with_reducible refine kept_mk ?_ rfl rfl rfl rfl rfl rfl rfl rfl | dsimp only

theorem kept_tierLost {s0 s : State} {tier : Nat} {h : Half} (hk : Kept s0 s) : Kept s0 (tierLost s tier h) := by
  unfold tierLost
  try dsimp only
  repeat' first
    | with_reducible exact hk | with_reducible exact Kept.refl _ | intro _ | split | with_reducible apply kept_accLost
    | with_reducible apply kept_damageTensor | with_reducible apply kept_foldl | with_reducible apply kept_foldl_fst
    | with_reducible refine kept_mk ?_ rfl rfl rfl rfl rfl rfl rfl rfl | dsimp only

theorem kept_copyLost {s0 s : State} {h : Half} (hk : Kept s0 s) : Kept s0 (copyLost s h) := by
  unfold copyLost
  repeat' first
    | with_reducible exact hk | split | with_reducible refine kept_mk ?_ rfl rfl rfl rfl rfl rfl rfl rfl

theorem kept_stackFails {s0 : State} {stack : Nat} {s : State} (hk : Kept s0 s) : Kept s0 (stackFails stack s) := by
  unfold stackFails
  try dsimp only
  repeat' first
    | with_reducible exact hk | with_reducible exact Kept.refl _ | exact fun h => h | intro _ | split
    | with_reducible apply kept_fenceHalf | with_reducible apply kept_halfMod | with_reducible apply kept_rescueWay
    | with_reducible apply kept_cacheMod | with_reducible apply kept_tierLost | with_reducible apply kept_logNow
    | with_reducible apply kept_copyLost | with_reducible apply kept_runWaits | with_reducible apply kept_foldl
    | with_reducible apply kept_foldl_fst | with_reducible refine kept_mk ?_ rfl rfl rfl rfl rfl rfl rfl rfl
    | dsimp only

theorem kept_execStackFailure {s0 : State} {stack : Nat} {s : State} (hk : Kept s0 s) :
    KeptOut s0 (execStackFailure stack s) := by
  unfold execStackFailure
  repeat' first
    | with_reducible apply keptOut_next | with_reducible exact hk | with_reducible apply kept_stackFails

theorem kept_extentLost {s0 s : State} {k : Half × Nat} (hk : Kept s0 s) : Kept s0 (extentLost s k) := by
  unfold extentLost
  try dsimp only
  repeat' first
    | with_reducible exact hk | with_reducible exact Kept.refl _ | intro _ | split | with_reducible apply kept_extMod
    | with_reducible apply kept_withdrawExtent | with_reducible apply kept_sendNotice
    | with_reducible apply kept_enterDraining | with_reducible refine kept_mk ?_ rfl rfl rfl rfl rfl rfl rfl rfl
    | dsimp only

theorem kept_packageFails {s0 : State} {pkg : Nat} {s : State} (hk : Kept s0 s) : Kept s0 (packageFails pkg s) := by
  unfold packageFails
  try dsimp only
  repeat' first
    | with_reducible exact hk | with_reducible exact Kept.refl _ | exact fun h => h | intro _ | split
    | with_reducible apply kept_fenceHalf | with_reducible apply kept_halfMod | with_reducible apply kept_tierLost
    | with_reducible apply kept_logNow | with_reducible apply kept_extentLost | with_reducible apply kept_foldl
    | with_reducible refine kept_mk ?_ rfl rfl rfl rfl rfl rfl rfl rfl | dsimp only

theorem kept_execPackageFailure {s0 : State} {pkg : Nat} {s : State} (hk : Kept s0 s) :
    KeptOut s0 (execPackageFailure pkg s) := by
  unfold execPackageFailure
  repeat' first
    | with_reducible apply keptOut_next | with_reducible exact hk | with_reducible apply kept_packageFails

theorem kept_execPackageRemap {s0 : State} {half : Half} {s : State} (hk : Kept s0 s) :
    KeptOut s0 (execPackageRemap half s) := by
  unfold execPackageRemap
  try dsimp only
  repeat' first
    | with_reducible apply keptOut_next | with_reducible exact hk | with_reducible exact Kept.refl _ | exact fun h => h
    | intro _ | split | with_reducible apply kept_halfMod
    | with_reducible refine kept_mk ?_ rfl rfl rfl rfl rfl rfl rfl rfl | dsimp only

theorem kept_unitsJudge {s0 s : State} (hk : Kept s0 s) : Kept s0 (unitsJudge s) := by
  unfold unitsJudge
  try dsimp only
  repeat' first
    | with_reducible exact hk | with_reducible exact Kept.refl _ | intro _ | split
    | with_reducible apply kept_stackFails | with_reducible apply kept_packageFails | with_reducible apply kept_foldl
    | with_reducible apply kept_foldl_fst | with_reducible refine kept_mk ?_ rfl rfl rfl rfl rfl rfl rfl rfl
    | dsimp only

theorem kept_execRowSpareEnd {s0 : State} {half : Half} {tier : Nat} {s : State} (hk : Kept s0 s) :
    KeptOut s0 (execRowSpareEnd half tier s) := by
  unfold execRowSpareEnd
  try dsimp only
  repeat' first
    | with_reducible apply keptOut_next | with_reducible exact hk | with_reducible exact Kept.refl _ | intro _ | split
    | with_reducible refine kept_linesCheck_of ?_ (by assumption) | with_reducible apply kept_linesCheck
    | with_reducible apply kept_unitsJudge | with_reducible refine kept_fst ?_ (by assumption)
    | with_reducible refine kept_mk ?_ rfl rfl rfl rfl rfl rfl rfl rfl | dsimp only

theorem kept_execPatrolScrub {s0 : State} {addr : Nat} {replica origin : RemoteRead} {s : State} (hk : Kept s0 s) :
    KeptOut s0 (execPatrolScrub addr replica origin s) := by
  unfold execPatrolScrub
  repeat' first
    | with_reducible apply keptOut_next | with_reducible exact hk | split | with_reducible apply kept_scrubWord
    | with_reducible apply kept_unitsJudge | with_reducible apply kept_scrubLine

end Sys2Proof.Machine
end

