-- ==== Sys2Proof/Laws/KeptPower.lean ====
section
/-! SUPPORT. What the operations of Power keep. -/

namespace Sys2Proof.Machine

set_option Elab.async false
set_option linter.all false

theorem kept_powerMod {s0 s : State} {f : Power → Power} (hk : Kept s0 s)
    (hf : ∀ p, (f p).throttle = p.throttle) : Kept s0 (powerMod s f) := by
  unfold powerMod
  exact kept_mk hk rfl rfl rfl rfl rfl rfl (hf _) rfl

theorem kept_wakeToFloor {s0 s : State} (hk : Kept s0 s) : Kept s0 (wakeToFloor s) := by
  unfold wakeToFloor
  try dsimp only
  repeat' first
    | with_reducible exact hk | with_reducible exact Kept.refl _ | with_reducible exact (rfl : Power.throttle _ = _)
    | intro _ | split | with_reducible apply kept_startWake | with_reducible apply kept_powerMod
    | with_reducible refine kept_mk ?_ rfl rfl rfl rfl rfl rfl rfl rfl | dsimp only

theorem kept_powerFloorBody {s0 s : State} {c : RunCmd} (hk : Kept s0 s) : Kept s0 (powerFloorBody s c) := by
  unfold powerFloorBody
  try dsimp only
  repeat' first
    | with_reducible exact hk | with_reducible exact Kept.refl _ | with_reducible exact (rfl : Power.throttle _ = _)
    | intro _ | with_reducible apply kept_wakeToFloor | with_reducible apply kept_powerMod
    | with_reducible apply kept_complete | with_reducible refine kept_mk ?_ rfl rfl rfl rfl rfl rfl rfl rfl
    | dsimp only

theorem kept_execPowerFloor {s0 : State} {src : DeskSrc} {s : State} (hk : Kept s0 s) :
    KeptOut s0 (execPowerFloor src s) :=
  keptOut_next (kept_deskRun (fun _ _ => kept_powerFloorBody (.refl _)) hk)

theorem kept_powerLimitBody {s0 s : State} {c : RunCmd} (hk : Kept s0 s) : Kept s0 (powerLimitBody s c) :=
  kept_complete (kept_powerMod hk fun _ => rfl)

theorem kept_execPowerLimit {s0 : State} {src : DeskSrc} {s : State} (hk : Kept s0 s) :
    KeptOut s0 (execPowerLimit src s) :=
  keptOut_next (kept_deskRun (fun _ _ => kept_powerLimitBody (.refl _)) hk)

theorem kept_powerStatusBody {s0 s : State} {c : RunCmd} (hk : Kept s0 s) : Kept s0 (powerStatusBody s c) :=
  kept_complete hk

theorem kept_execPowerStatus {s0 : State} {src : DeskSrc} {s : State} (hk : Kept s0 s) :
    KeptOut s0 (execPowerStatus src s) :=
  keptOut_next (kept_deskRun (fun _ _ => kept_powerStatusBody (.refl _)) hk)

theorem kept_execIdleToReady {s0 s : State} (hk : Kept s0 s) : KeptOut s0 (execIdleToReady s) := by
  unfold execIdleToReady
  try dsimp only
  repeat' first
    | with_reducible apply keptOut_next | with_reducible exact hk | with_reducible exact Kept.refl _
    | with_reducible exact (rfl : Power.throttle _ = _) | intro _ | split | with_reducible apply kept_powerMod
    | with_reducible refine kept_mk ?_ rfl rfl rfl rfl rfl rfl rfl rfl | dsimp only

theorem kept_execReadyToDoze {s0 s : State} (hk : Kept s0 s) : KeptOut s0 (execReadyToDoze s) := by
  unfold execReadyToDoze
  try dsimp only
  repeat' first
    | with_reducible apply keptOut_next | with_reducible exact hk | with_reducible exact Kept.refl _
    | with_reducible exact (rfl : Power.throttle _ = _) | intro _ | split | with_reducible apply kept_powerMod
    | with_reducible refine kept_mk ?_ rfl rfl rfl rfl rfl rfl rfl rfl | dsimp only

theorem kept_execDozeToSleep {s0 s : State} (hk : Kept s0 s) : KeptOut s0 (execDozeToSleep s) := by
  unfold execDozeToSleep
  try dsimp only
  repeat' first
    | with_reducible apply keptOut_next | with_reducible exact hk | with_reducible exact Kept.refl _
    | with_reducible exact (rfl : Power.throttle _ = _) | intro _ | split | with_reducible apply kept_powerMod
    | with_reducible refine kept_mk ?_ rfl rfl rfl rfl rfl rfl rfl rfl | dsimp only

theorem kept_execWakeComplete {s0 s : State} (hk : Kept s0 s) : KeptOut s0 (execWakeComplete s) := by
  unfold execWakeComplete
  try dsimp only
  repeat' first
    | with_reducible apply keptOut_next | with_reducible exact hk | with_reducible exact Kept.refl _
    | with_reducible exact (rfl : Power.throttle _ = _) | intro _ | split | with_reducible apply kept_powerMod
    | with_reducible refine kept_mk ?_ rfl rfl rfl rfl rfl rfl rfl rfl | dsimp only

theorem kept_execSleepToDoze {s0 s : State} (hk : Kept s0 s) : KeptOut s0 (execSleepToDoze s) := by
  unfold execSleepToDoze
  repeat' first
    | with_reducible apply keptOut_next | with_reducible exact hk | split | with_reducible apply kept_leaveSleep

theorem kept_execSleepScrubVisit {s0 s : State} (hk : Kept s0 s) : KeptOut s0 (execSleepScrubVisit s) := by
  unfold execSleepScrubVisit
  try dsimp only
  repeat' first
    | with_reducible apply keptOut_next | with_reducible exact hk | with_reducible exact Kept.refl _
    | with_reducible exact (rfl : Power.throttle _ = _) | intro _ | split | with_reducible apply kept_powerMod
    | with_reducible refine kept_mk ?_ rfl rfl rfl rfl rfl rfl rfl rfl | dsimp only

theorem kept_execThermalSample {s0 : State} {c0 t0 c1 t1 : Nat} {s : State} (hk : Kept s0 s) :
    KeptOut s0 (execThermalSample c0 t0 c1 t1 s) := by
  unfold execThermalSample
  exact keptOut_ite (keptOut_next (kept_powerMod hk fun _ => rfl)) (keptOut_next hk)

end Sys2Proof.Machine
end

