-- ==== Sys2Proof/Laws/KeptBoot.lean ====
section
/-! SUPPORT. What the operations of Boot keep. -/

namespace Sys2Proof.Machine

set_option Elab.async false
set_option linter.all false

theorem kept_runImage {s0 s : State} (hk : Kept s0 s) : Kept s0 (runImage s) :=
  kept_mk hk rfl rfl rfl rfl rfl rfl rfl rfl

theorem kept_cfgLink {s0 s : State} (hk : Kept s0 s) : Kept s0 (cfgLink s) := kept_mk hk rfl rfl rfl rfl rfl rfl rfl rfl

theorem kept_cfgShare {s0 s : State} {h : Half} {n : Nat} (hk : Kept s0 s) : Kept s0 (cfgShare s h n) := by
  unfold cfgShare
  repeat' first
    | with_reducible exact hk | split | with_reducible apply kept_setShare

theorem kept_cfgMemory {s0 s : State} (hk : Kept s0 s) : Kept s0 (cfgMemory s) := by
  have key : ∀ (t : State) (a b c d : Nat), Kept s0 t → Kept s0 { t with
      plain := { t.plain with period := a }, ras := { t.ras with scrubSram := b, scrubT1 := c, scrubT2 := d } } :=
    fun _ _ _ _ _ ht => kept_mk ht rfl rfl rfl rfl rfl rfl rfl rfl
  unfold cfgMemory
  exact key _ _ _ _ _ (kept_cfgShare (kept_cfgShare hk))

theorem kept_cfgPower {s0 s : State} (hk : Kept s0 s) : Kept s0 (cfgPower s) :=
  kept_mk hk rfl rfl rfl rfl rfl rfl rfl rfl

theorem kept_configure {s0 s : State} (hk : Kept s0 s) : Kept s0 (configure s) := by
  unfold configure
  try dsimp only
  repeat' first
    | with_reducible exact hk | with_reducible exact Kept.refl _ | intro _ | split | with_reducible apply kept_cfgPower
    | with_reducible apply kept_cfgMemory | with_reducible apply kept_cfgLink | with_reducible apply kept_logNow
    | with_reducible refine kept_mk ?_ rfl rfl rfl rfl rfl rfl rfl rfl | dsimp only

theorem kept_loadRing {s0 s : State} (hk : Kept s0 s) : Kept s0 (loadRing s) :=
  kept_mk hk rfl rfl rfl rfl rfl rfl rfl rfl

theorem kept_powerStart {s0 s : State} (hk : Kept s0 s) : Kept s0 (powerStart s) :=
  kept_wakeToFloor (kept_powerMod hk fun _ => rfl)

theorem kept_startLog {s0 s : State} {cold : Bool} (hk : Kept s0 s) : Kept s0 (startLog s cold) := by
  unfold startLog
  try dsimp only
  repeat' first
    | with_reducible exact hk | split | with_reducible apply kept_loadRing | with_reducible apply kept_logNow
    | dsimp only

theorem kept_servedNow {s0 s : State} (hk : Kept s0 s) : Kept s0 (servedNow s) :=
  kept_mk hk rfl rfl rfl rfl rfl rfl rfl rfl

theorem kept_timeStart {s0 s : State} (hk : Kept s0 s) : Kept s0 (timeStart s) := by
  unfold timeStart
  try dsimp only
  repeat' first
    | with_reducible exact hk | split | with_reducible refine kept_mk ?_ rfl rfl rfl rfl rfl rfl rfl rfl | dsimp only

end Sys2Proof.Machine
end

