-- ==== Sys2Proof/Laws/KeptPcie.lean ====
section
/-! SUPPORT. What the operations of Pcie keep. -/

namespace Sys2Proof.Machine

set_option Elab.async false
set_option linter.all false

theorem kept_pcieRequest {s0 : State} {fn : Fn} {bar2 write : Bool} {off len : Nat} {bytes : Bytes}
    {consumed : HostRead} {input : RemoteRead} {s : State} (hk : Kept s0 s) :
    KeptOut s0 (pcieRequest fn bar2 write off len bytes consumed input s) := by
  unfold pcieRequest
  try dsimp only
  repeat' first
    | with_reducible apply keptOut_next | with_reducible exact hk | split | with_reducible apply kept_hostTouch
    | with_reducible apply kept_emit | with_reducible apply kept_regWrite | with_reducible apply kept_regRead
    | dsimp only

theorem kept_execPcieMemoryRequest {s0 : State} {fn : Fn} {write : Bool} {place : BarPlace} {len : Nat}
    {bytes : Bytes} {consumed : HostRead} {input : RemoteRead} {s : State} (hk : Kept s0 s) :
    KeptOut s0 (execPcieMemoryRequest fn write place len bytes consumed input s) := by
  unfold execPcieMemoryRequest
  repeat' first
    | with_reducible apply keptOut_next | with_reducible exact hk | with_reducible apply kept_pcieRequest

theorem kept_markTags {s0 s : State} {fn : Fn} (hk : Kept s0 s) : Kept s0 (markTags s fn) :=
  kept_mk hk rfl rfl rfl rfl rfl rfl rfl rfl

theorem kept_flrBegin {s0 s : State} {fn : Fn} (hk : Kept s0 s) : Kept s0 (flrBegin s fn) := by
  unfold flrBegin
  try dsimp only
  repeat' first
    | with_reducible exact hk | with_reducible apply kept_resetSender | with_reducible apply kept_silencePoster
    | with_reducible apply kept_markTags | with_reducible apply kept_retireAll
    | with_reducible refine kept_mk ?_ rfl rfl rfl rfl rfl rfl rfl rfl | dsimp only

theorem kept_flrStart {s0 s : State} {fn : Fn} (hk : Kept s0 s) : Kept s0 (flrStart s fn) := by
  unfold flrStart
  try dsimp only
  repeat' first
    | with_reducible exact hk | with_reducible exact Kept.refl _ | intro _ | split | with_reducible apply kept_flrBegin
    | with_reducible apply kept_foldl | dsimp only

theorem kept_execInitiateFlr {s0 : State} {fn : Fn} {s : State} (hk : Kept s0 s) :
    KeptOut s0 (execInitiateFlr fn s) := by
  unfold execInitiateFlr
  repeat' first
    | with_reducible apply keptOut_next | with_reducible exact hk | split | with_reducible apply kept_flrStart

theorem kept_flrFinish {s0 s : State} {fn : Fn} (hk : Kept s0 s) : Kept s0 (flrFinish s fn) := by
  unfold flrFinish
  try dsimp only
  repeat' first
    | with_reducible exact hk | with_reducible exact Kept.refl _ | intro _ | split
    | with_reducible apply kept_retireWhere | with_reducible apply kept_returnMaster
    | with_reducible apply kept_sessionsLost | with_reducible apply kept_resetSender
    | with_reducible refine kept_mk ?_ rfl rfl rfl rfl rfl rfl rfl rfl | dsimp only

theorem kept_execFlrComplete {s0 : State} {fn : Fn} {s : State} (hk : Kept s0 s) :
    KeptOut s0 (execFlrComplete fn s) := by
  unfold execFlrComplete
  try dsimp only
  repeat' first
    | with_reducible apply keptOut_next | with_reducible exact hk | with_reducible exact Kept.refl _ | intro _ | split
    | with_reducible apply kept_flrFinish | with_reducible apply kept_foldl
    | with_reducible refine kept_mk ?_ rfl rfl rfl rfl rfl rfl rfl rfl | dsimp only

theorem kept_execVfEnable {s0 : State} {enable : Bool} {count : Nat} {s : State} (hk : Kept s0 s) :
    KeptOut s0 (execVfEnable enable count s) := by
  unfold execVfEnable
  repeat' first
    | with_reducible apply keptOut_next | with_reducible exact hk | split
    | with_reducible refine kept_mk ?_ rfl rfl rfl rfl rfl rfl rfl rfl

theorem kept_cfgAct {s0 s : State} {fn : Fn} {off : Nat} {value : BitVec 32} (hk : Kept s0 s) :
    Kept s0 (cfgAct s fn off value) := by
  unfold cfgAct
  try dsimp only
  repeat' first
    | with_reducible exact hk | with_reducible exact Kept.refl _ | intro _ | split | with_reducible apply kept_flrStart
    | with_reducible apply kept_hostLinkMod | with_reducible refine kept_mk ?_ rfl rfl rfl rfl rfl rfl rfl rfl
    | dsimp only

theorem kept_cfgWrite {s0 s : State} {fn : Fn} {off : Nat} {value : BitVec 32} (hk : Kept s0 s) :
    Kept s0 (cfgWrite s fn off value) := by
  unfold cfgWrite
  try dsimp only
  repeat' first
    | with_reducible exact hk | split | with_reducible apply kept_cfgAct
    | with_reducible refine kept_fst ?_ (by assumption)
    | with_reducible refine kept_mk ?_ rfl rfl rfl rfl rfl rfl rfl rfl | dsimp only

theorem kept_execConfigRequest {s0 : State} {fn : Fn} {write : Bool} {off : Nat} {value : BitVec 32} {s : State} (hk
    : Kept s0 s) :
    KeptOut s0 (execConfigRequest fn write off value s) := by
  unfold execConfigRequest
  try dsimp only
  repeat' first
    | with_reducible apply keptOut_next | with_reducible exact hk | split | with_reducible apply kept_emit
    | with_reducible apply kept_cfgWrite | with_reducible refine kept_mk ?_ rfl rfl rfl rfl rfl rfl rfl rfl
    | dsimp only

theorem kept_readAnswer {s0 s : State} {fn : Fn} {addr : Nat} {answer : HostRead} (hk : Kept s0 s) :
    KeptOut s0 (readAnswer s fn addr answer) := by
  unfold readAnswer
  repeat' first
    | with_reducible apply keptOut_next | with_reducible exact hk | split
    | with_reducible apply kept_execConsumedReadReturn | with_reducible apply kept_readEnd
    | with_reducible refine kept_mk ?_ rfl rfl rfl rfl rfl rfl rfl rfl

theorem kept_execHostReadCompletion {s0 : State} {fn : Fn} {tag : Nat} {answer : HostRead} {s : State} (hk : Kept s0
    s) :
    KeptOut s0 (execHostReadCompletion fn tag answer s) := by
  unfold execHostReadCompletion
  repeat' first
    | with_reducible apply keptOut_next | with_reducible exact hk | split | with_reducible apply kept_readAnswer
    | with_reducible refine kept_fst ?_ (by assumption)
    | with_reducible refine kept_mk ?_ rfl rfl rfl rfl rfl rfl rfl rfl

theorem kept_execHostReadTimeout {s0 : State} {fn : Fn} {tag : Nat} {s : State} (hk : Kept s0 s) :
    KeptOut s0 (execHostReadTimeout fn tag s) := by
  unfold execHostReadTimeout
  repeat' first
    | with_reducible apply keptOut_next | with_reducible exact hk | split | with_reducible apply kept_readAnswer
    | with_reducible refine kept_fst ?_ (by assumption)
    | with_reducible refine kept_mk ?_ rfl rfl rfl rfl rfl rfl rfl rfl

theorem kept_execTagQuarantineEnd {s0 : State} {fn : Fn} {tag : Nat} {s : State} (hk : Kept s0 s) :
    KeptOut s0 (execTagQuarantineEnd fn tag s) := by
  unfold execTagQuarantineEnd
  repeat' first
    | with_reducible apply keptOut_next | with_reducible exact hk | split
    | with_reducible refine kept_fst ?_ (by assumption)
    | with_reducible refine kept_mk ?_ rfl rfl rfl rfl rfl rfl rfl rfl

theorem kept_execHostLinkTraining {s0 : State} {link rate10 width : Nat} {s : State} (hk : Kept s0 s) :
    KeptOut s0 (execHostLinkTraining link rate10 width s) := by
  unfold execHostLinkTraining
  try dsimp only
  repeat' first
    | with_reducible apply keptOut_next | with_reducible exact hk | with_reducible exact Kept.refl _ | intro _ | split
    | with_reducible apply kept_hostLinkMod | with_reducible refine kept_mk ?_ rfl rfl rfl rfl rfl rfl rfl rfl
    | dsimp only

theorem kept_execL0pRequest {s0 : State} {link : Nat} {demand : Bool} {s : State} (hk : Kept s0 s) :
    KeptOut s0 (execL0pRequest link demand s) := by
  unfold execL0pRequest
  try dsimp only
  repeat' first
    | with_reducible apply keptOut_next | with_reducible exact hk | with_reducible exact Kept.refl _ | intro _ | split
    | with_reducible apply kept_emit | with_reducible apply kept_hostLinkMod
    | with_reducible refine kept_mk ?_ rfl rfl rfl rfl rfl rfl rfl rfl | dsimp only

theorem kept_execAspmL1Entry {s0 : State} {link : Nat} {s : State} (hk : Kept s0 s) :
    KeptOut s0 (execAspmL1Entry link s) := by
  unfold execAspmL1Entry
  try dsimp only
  repeat' first
    | with_reducible apply keptOut_next | with_reducible exact hk | with_reducible exact Kept.refl _ | intro _ | split
    | with_reducible apply kept_emit | with_reducible apply kept_hostLinkMod
    | with_reducible refine kept_mk ?_ rfl rfl rfl rfl rfl rfl rfl rfl | dsimp only

end Sys2Proof.Machine
end

