-- ==== Sys2Proof/Laws/KeptMailbox.lean ====
section
/-! SUPPORT. What the operations of Mailbox keep. -/

namespace Sys2Proof.Machine

set_option Elab.async false
set_option linter.all false

theorem kept_mailAnswer {s0 s : State} {code : Nat} {b : Bytes} (hk : Kept s0 s) : Kept s0 (mailAnswer s code b) :=
  kept_mk hk rfl rfl rfl rfl rfl rfl rfl rfl

theorem kept_granuleRejected {s0 s : State} {g : Nat} (hk : Kept s0 s) : Kept s0 (granuleRejected s g) := by
  unfold granuleRejected
  repeat' first
    | with_reducible exact hk | split | with_reducible apply kept_completeSrc | with_reducible apply kept_granuleGone
    | with_reducible refine kept_mk ?_ rfl rfl rfl rfl rfl rfl rfl rfl | dsimp only

theorem kept_granuleAccepted {s0 s : State} {g : Nat} (hk : Kept s0 s) : Kept s0 (granuleAccepted s g) := by
  unfold granuleAccepted
  try dsimp only
  repeat' first
    | with_reducible exact hk | split | with_reducible apply kept_granuleRejected
    | with_reducible apply kept_completeSrc | with_reducible refine kept_mk ?_ rfl rfl rfl rfl rfl rfl rfl rfl
    | dsimp only

theorem kept_granuleRemoved {s0 s : State} {g : Nat} (hk : Kept s0 s) : Kept s0 (granuleRemoved s g) := by
  unfold granuleRemoved
  try dsimp only
  repeat' first
    | with_reducible exact hk | with_reducible exact Kept.refl _ | intro _ | split
    | with_reducible refine kept_mk ?_ rfl rfl rfl rfl rfl rfl rfl rfl | dsimp only

theorem kept_execAddDynamicCapacityResponse {s0 : State} {granule : Nat} {accepted : Bool} {s : State} (hk : Kept s0
    s) :
    KeptOut s0 (execAddDynamicCapacityResponse granule accepted s) := by
  unfold execAddDynamicCapacityResponse
  repeat' first
    | with_reducible apply keptOut_next | with_reducible exact hk | split | with_reducible apply kept_mailAnswer
    | with_reducible apply kept_granuleAccepted | with_reducible apply kept_granuleRejected

theorem kept_execReleaseDynamicCapacity {s0 : State} {granule : Nat} {s : State} (hk : Kept s0 s) :
    KeptOut s0 (execReleaseDynamicCapacity granule s) := by
  unfold execReleaseDynamicCapacity
  repeat' first
    | with_reducible apply keptOut_next | with_reducible exact hk | split | with_reducible apply kept_mailAnswer
    | with_reducible apply kept_granuleRemoved

theorem kept_execDynamicCapacityTimeout {s0 : State} {granule : Nat} {s : State} (hk : Kept s0 s) :
    KeptOut s0 (execDynamicCapacityTimeout granule s) := by
  unfold execDynamicCapacityTimeout
  repeat' first
    | with_reducible apply keptOut_next | with_reducible exact hk | split | with_reducible apply kept_granuleRejected
    | with_reducible apply kept_granuleRemoved | with_reducible refine kept_mk ?_ rfl rfl rfl rfl rfl rfl rfl rfl

theorem kept_execIdentifyMemoryDevice {s0 s : State} (hk : Kept s0 s) : KeptOut s0 (execIdentifyMemoryDevice s) := by
  unfold execIdentifyMemoryDevice
  repeat' first
    | with_reducible apply keptOut_next | with_reducible exact hk | split | with_reducible apply kept_mailAnswer

theorem kept_execGetEventRecords {s0 s : State} (hk : Kept s0 s) : KeptOut s0 (execGetEventRecords s) := by
  unfold execGetEventRecords
  repeat' first
    | with_reducible apply keptOut_next | with_reducible exact hk | split | with_reducible apply kept_mailAnswer

theorem kept_execClearEventRecords {s0 : State} {handles : List Nat} {s : State} (hk : Kept s0 s) :
    KeptOut s0 (execClearEventRecords handles s) := by
  unfold execClearEventRecords
  try dsimp only
  repeat' first
    | with_reducible apply keptOut_next | with_reducible exact hk | with_reducible exact Kept.refl _ | intro _ | split
    | with_reducible apply kept_mailAnswer | with_reducible refine kept_mk ?_ rfl rfl rfl rfl rfl rfl rfl rfl
    | dsimp only

theorem kept_execGetPoisonList {s0 : State} {start len : Nat} {s : State} (hk : Kept s0 s) :
    KeptOut s0 (execGetPoisonList start len s) := by
  unfold execGetPoisonList
  try dsimp only
  repeat' first
    | with_reducible apply keptOut_next | with_reducible exact hk | with_reducible exact Kept.refl _ | intro _ | split
    | with_reducible apply kept_mailAnswer | dsimp only

theorem kept_execGetHealthInfo {s0 s : State} (hk : Kept s0 s) : KeptOut s0 (execGetHealthInfo s) := by
  unfold execGetHealthInfo
  repeat' first
    | with_reducible apply keptOut_next | with_reducible exact hk | split | with_reducible apply kept_mailAnswer

theorem kept_execGetDynamicCapacityConfiguration {s0 s : State} (hk : Kept s0 s) :
    KeptOut s0 (execGetDynamicCapacityConfiguration s) := by
  unfold execGetDynamicCapacityConfiguration
  repeat' first
    | with_reducible apply keptOut_next | with_reducible exact hk | split | with_reducible apply kept_mailAnswer

theorem kept_execGetDynamicCapacityExtentList {s0 : State} {start count : Nat} {s : State} (hk : Kept s0 s) :
    KeptOut s0 (execGetDynamicCapacityExtentList start count s) := by
  unfold execGetDynamicCapacityExtentList
  try dsimp only
  repeat' first
    | with_reducible apply keptOut_next | with_reducible exact hk | split | with_reducible apply kept_mailAnswer
    | dsimp only

theorem kept_execMailboxUnsupported {s0 : State} {opcode : Nat} {s : State} (hk : Kept s0 s) :
    KeptOut s0 (execMailboxUnsupported opcode s) := by
  unfold execMailboxUnsupported
  repeat' first
    | with_reducible apply keptOut_next | with_reducible exact hk | split | with_reducible apply kept_mailAnswer

end Sys2Proof.Machine
end

