-- ==== Sys2Proof/Laws/KeptReset.lean ====
section
/-! SUPPORT. What the operations of Reset keep. -/

namespace Sys2Proof.Machine

set_option Elab.async false
set_option linter.all false

theorem kept_rootKeys {s0 s : State} {pufOk : Bool} (hk : Kept s0 s) : Kept s0 (rootKeys s pufOk) :=
  kept_drew (kept_mk hk rfl rfl rfl rfl rfl rfl rfl rfl)

theorem kept_railsUp {s0 s : State} (hk : Kept s0 s) : Kept s0 (railsUp s) := by
  unfold railsUp
  try dsimp only
  repeat' first
    | with_reducible exact hk | with_reducible exact Kept.refl _ | with_reducible exact (rfl : Power.throttle _ = _)
    | intro _ | split | with_reducible apply kept_powerMod
    | with_reducible refine kept_mk ?_ rfl rfl rfl rfl rfl rfl rfl rfl | dsimp only

theorem kept_execMainInputInRange {s0 s : State} (hk : Kept s0 s) : KeptOut s0 (execMainInputInRange s) := by
  unfold execMainInputInRange
  repeat' first
    | with_reducible apply keptOut_next | with_reducible exact hk | split | with_reducible apply kept_railsUp
    | with_reducible refine kept_mk ?_ rfl rfl rfl rfl rfl rfl rfl rfl

theorem kept_fillAgain {s0 s : State} {r : AccReq} {w : Nat} (hk : Kept s0 s) : Kept s0 (fillAgain s r w) := by
  unfold fillAgain
  try dsimp only
  repeat' first
    | with_reducible exact hk | with_reducible exact Kept.refl _ | intro _ | with_reducible apply kept_zeroAny
    | with_reducible apply kept_winMod | with_reducible apply kept_foldl
    | with_reducible refine kept_mk ?_ rfl rfl rfl rfl rfl rfl rfl rfl | dsimp only

theorem kept_accReset {s0 s : State} {r : AccReq} {rep : AccReport} (hk : Kept s0 s) : Kept s0 (accReset s r rep) := by
  unfold accReset
  repeat' first
    | with_reducible exact hk | split | with_reducible apply kept_fillAgain | with_reducible apply kept_accFail
    | with_reducible refine kept_mk ?_ rfl rfl rfl rfl rfl rfl rfl rfl

theorem kept_accessionsReset {s0 s : State} (hk : Kept s0 s) : Kept s0 (accessionsReset s) := by
  unfold accessionsReset
  try dsimp only
  repeat' first
    | with_reducible exact hk | with_reducible exact Kept.refl _ | intro _ | split | with_reducible apply kept_accReset
    | with_reducible apply kept_foldl | with_reducible refine kept_fst ?_ (by assumption)
    | with_reducible refine kept_mk ?_ rfl rfl rfl rfl rfl rfl rfl rfl | dsimp only

theorem kept_copiesUndone {s0 s : State} (hk : Kept s0 s) : Kept s0 (copiesUndone s) :=
  kept_mk hk rfl rfl rfl rfl rfl rfl rfl rfl

theorem kept_granuleUndone {s0 s : State} {g : Nat} (hk : Kept s0 s) : Kept s0 (granuleUndone s g) := by
  unfold granuleUndone
  repeat' first
    | with_reducible exact hk | split | with_reducible apply kept_granuleGone | with_reducible apply kept_dropGranules
    | with_reducible refine kept_mk ?_ rfl rfl rfl rfl rfl rfl rfl rfl

theorem kept_granulesUndone {s0 s : State} (hk : Kept s0 s) : Kept s0 (granulesUndone s) :=
  kept_foldl (fun _ _ => kept_granuleUndone (.refl _)) hk

theorem kept_poolReset {s0 s : State} (hk : Kept s0 s) : Kept s0 (poolReset s) := by
  unfold poolReset
  try dsimp only
  repeat' first
    | with_reducible exact hk | with_reducible exact Kept.refl _ | intro _ | with_reducible apply kept_enterErasing
    | with_reducible apply kept_foldl | with_reducible apply kept_foldl_fst
    | with_reducible refine kept_mk ?_ rfl rfl rfl rfl rfl rfl rfl rfl | dsimp only

theorem kept_linkReset {s0 s : State} (hk : Kept s0 s) : Kept s0 (linkReset s) :=
  kept_mk hk rfl rfl rfl rfl rfl rfl rfl rfl

theorem kept_investsClosed {s0 s : State} (hk : Kept s0 s) : Kept s0 (investsClosed s) :=
  kept_foldl (fun _ _ => kept_closeInvest (.refl _)) hk

theorem kept_cpRestartStart {s0 s : State} (hk : Kept s0 s) : Kept s0 (cpRestartStart s) :=
  kept_restartBegin (kept_retireAll hk)

theorem kept_execCpRestart {s0 : State} {src : DeskSrc} {s : State} (hk : Kept s0 s) :
    KeptOut s0 (execCpRestart src s) :=
  keptOut_next (kept_deskRun (fun _ _ => kept_cpRestartStart (.refl _)) hk)

theorem kept_execCpWatchdogExpiry {s0 s : State} (hk : Kept s0 s) : KeptOut s0 (execCpWatchdogExpiry s) := by
  unfold execCpWatchdogExpiry
  repeat' first
    | with_reducible apply keptOut_next | with_reducible exact hk | split | with_reducible apply kept_cpRestartStart

theorem kept_leasesExtended {s0 s : State} {len : Nat} (hk : Kept s0 s) : Kept s0 (leasesExtended s len) :=
  kept_mk hk rfl rfl rfl rfl rfl rfl rfl rfl

theorem kept_poolUndone {s0 s : State} (hk : Kept s0 s) : Kept s0 (poolUndone s) :=
  kept_mk hk rfl rfl rfl rfl rfl rfl rfl rfl

theorem kept_execCpRestartEnd {s0 s : State} (hk : Kept s0 s) : KeptOut s0 (execCpRestartEnd s) := by
  unfold execCpRestartEnd
  repeat' first
    | with_reducible apply keptOut_next | with_reducible exact hk | split | with_reducible apply kept_restartEnd
    | with_reducible apply kept_poolUndone | with_reducible apply kept_granulesUndone
    | with_reducible apply kept_copiesUndone | with_reducible apply kept_leasesExtended
    | with_reducible refine kept_mk ?_ rfl rfl rfl rfl rfl rfl rfl rfl

end Sys2Proof.Machine
end

