-- ==== Sys2Proof/Laws/KeptFirmware.lean ====
section
/-! SUPPORT. What the operations of Firmware keep. -/

namespace Sys2Proof.Machine

set_option Elab.async false
set_option linter.all false

theorem kept_configWriteBody {s0 : State} {buf : HostRead} {s : State} {c : RunCmd} (hk : Kept s0 s) :
    Kept s0 (configWriteBody buf s c) := by
  unfold configWriteBody
  try dsimp only
  repeat' first
    | with_reducible exact hk | with_reducible exact Kept.refl _ | intro _ | split | with_reducible apply kept_failWith
    | with_reducible apply kept_withBuf | with_reducible apply kept_complete
    | with_reducible refine kept_mk ?_ rfl rfl rfl rfl rfl rfl rfl rfl | dsimp only

theorem kept_execConfigWrite {s0 : State} {src : DeskSrc} {buf : HostRead} {s : State} (hk : Kept s0 s) :
    KeptOut s0 (execConfigWrite src buf s) :=
  keptOut_next (kept_deskRun (fun _ _ => kept_configWriteBody (.refl _)) hk)

theorem kept_configStatusBody {s0 s : State} {c : RunCmd} (hk : Kept s0 s) : Kept s0 (configStatusBody s c) :=
  kept_complete hk

theorem kept_execConfigStatus {s0 : State} {src : DeskSrc} {s : State} (hk : Kept s0 s) :
    KeptOut s0 (execConfigStatus src s) :=
  keptOut_next (kept_deskRun (fun _ _ => kept_configStatusBody (.refl _)) hk)

theorem kept_fwInfoBody {s0 s : State} {c : RunCmd} (hk : Kept s0 s) : Kept s0 (fwInfoBody s c) := kept_complete hk

theorem kept_execFwInfo {s0 : State} {src : DeskSrc} {s : State} (hk : Kept s0 s) : KeptOut s0 (execFwInfo src s) :=
  keptOut_next (kept_deskRun (fun _ _ => kept_fwInfoBody (.refl _)) hk)

theorem kept_fwStageBody {s0 : State} {buf : HostRead} {s : State} {c : RunCmd} (hk : Kept s0 s) :
    Kept s0 (fwStageBody buf s c) := by
  unfold fwStageBody
  try dsimp only
  repeat' first
    | with_reducible exact hk | with_reducible exact Kept.refl _ | intro _ | split | with_reducible apply kept_failWith
    | with_reducible apply kept_withBuf | with_reducible apply kept_complete
    | with_reducible refine kept_mk ?_ rfl rfl rfl rfl rfl rfl rfl rfl | dsimp only

theorem kept_execFwStage {s0 : State} {src : DeskSrc} {buf : HostRead} {s : State} (hk : Kept s0 s) :
    KeptOut s0 (execFwStage src buf s) :=
  keptOut_next (kept_deskRun (fun _ _ => kept_fwStageBody (.refl _)) hk)

theorem kept_fwCommitBody {s0 s : State} {c : RunCmd} (hk : Kept s0 s) : Kept s0 (fwCommitBody s c) := by
  unfold fwCommitBody
  try dsimp only
  repeat' first
    | with_reducible exact hk | split | with_reducible apply kept_failWith | with_reducible apply kept_complete
    | with_reducible refine kept_mk ?_ rfl rfl rfl rfl rfl rfl rfl rfl | dsimp only

theorem kept_execFwCommit {s0 : State} {src : DeskSrc} {s : State} (hk : Kept s0 s) : KeptOut s0 (execFwCommit src s) :=
  keptOut_next (kept_deskRun (fun _ _ => kept_fwCommitBody (.refl _)) hk)

theorem kept_diagModeBody {s0 s : State} {c : RunCmd} (hk : Kept s0 s) : Kept s0 (diagModeBody s c) := by
  unfold diagModeBody
  try dsimp only
  repeat' first
    | with_reducible exact hk | with_reducible exact Kept.refl _ | intro _ | split | with_reducible apply kept_complete
    | with_reducible apply kept_failWith | with_reducible refine kept_mk ?_ rfl rfl rfl rfl rfl rfl rfl rfl
    | dsimp only

theorem kept_execDiagMode {s0 : State} {src : DeskSrc} {s : State} (hk : Kept s0 s) : KeptOut s0 (execDiagMode src s) :=
  keptOut_next (kept_deskRun (fun _ _ => kept_diagModeBody (.refl _)) hk)

theorem kept_execDebugChallenge {s0 s : State} (hk : Kept s0 s) : KeptOut s0 (execDebugChallenge s) := by
  unfold execDebugChallenge
  try dsimp only
  repeat' first
    | with_reducible apply keptOut_next | with_reducible exact hk | split | with_reducible apply kept_emit
    | with_reducible apply kept_drew | with_reducible refine kept_mk ?_ rfl rfl rfl rfl rfl rfl rfl rfl | dsimp only

theorem kept_linksClosed {s0 s : State} (hk : Kept s0 s) : Kept s0 (linksClosed s) := by
  unfold linksClosed
  try dsimp only
  repeat' first
    | with_reducible exact hk | with_reducible exact Kept.refl _ | intro _ | split
    | with_reducible apply kept_sessionsLost | with_reducible apply kept_portMod | with_reducible apply kept_portDown
    | with_reducible apply kept_foldl | with_reducible apply kept_foldl_fst
    | with_reducible refine kept_mk ?_ rfl rfl rfl rfl rfl rfl rfl rfl | dsimp only

theorem kept_execDebugIdentityRead {s0 s : State} (hk : Kept s0 s) : KeptOut s0 (execDebugIdentityRead s) := by
  unfold execDebugIdentityRead
  repeat' first
    | with_reducible apply keptOut_next | with_reducible exact hk | split | with_reducible apply kept_emit

theorem kept_execAuxStatusRead {s0 : State} {target : I3cTarget} {addr len : Nat} {s : State} (hk : Kept s0 s) :
    KeptOut s0 (execAuxStatusRead target addr len s) := by
  unfold execAuxStatusRead
  repeat' first
    | with_reducible apply keptOut_next | with_reducible exact hk | split | with_reducible apply kept_emit

end Sys2Proof.Machine
end

