-- ==== Sys2Proof/Laws/Lasting.lean ====
section
/-! SUPPORT. What start-up, the resets, the debug port and the throttle keep. -/

namespace Sys2Proof.Machine

set_option Elab.async false
set_option linter.all false

theorem Warm.kept {s t u : State} (h : Warm s t) (g : Kept t u) : Warm s u := h.trans g.toWarm

/-- Raising MIN_SVN never lowers it while its tag holds. -/
theorem warm_raiseSvn {s0 s : State} (h : Warm s0 s) : Warm s0 (raiseSvn s) := by
  unfold raiseSvn
  split
  · rename_i c
    refine warm_mk h (Nat.le_refl _) (fun x => ⟨rfl, ?_⟩) rfl rfl id id rfl rfl
    have := c.2
    simp only [minSvnNow, c.1, x, and_self, if_true] at this
    exact Nat.le_of_lt this
  · exact warm_mk h (Nat.le_refl _) (fun x => ⟨x, Nat.le_refl _⟩) rfl rfl id id rfl rfl

theorem warm_bindTable {s0 s : State} (h : Warm s0 s) : Warm s0 (bindTable s) := by
  have up : ∀ (t : State) (m : Tbl Nat BindEntry) (x : Tbl Nat Meas), Warm s0 t → Warm s0 { t with
      cp := { t.cp with binding := m, bindingLocked := true }, sec := { t.sec with meas := x } } := fun t m x ht =>
    warm_mk ht (Nat.le_refl _) (fun x => ⟨x, Nat.le_refl _⟩) rfl rfl id id rfl rfl
  rw [bindTable]
  split
  exact (up _ _ _ h).kept (kept_foldl (fun t x => kept_logNow (.refl t)) (.refl _))

theorem warm_recoveryPath {s0 s : State} (h : Warm s0 s) : Warm s0 (recoveryPath s) := by
  have h1 : Warm s0 (recoveryTables s) :=
    warm_mk h (Nat.le_refl _) (fun x => ⟨x, Nat.le_refl _⟩) rfl rfl id id rfl rfl
  exact h1.kept (kept_alertEval (kept_powerMod (.refl _) fun _ => rfl))

theorem warm_partsUp {s0 s : State} (h : Warm s0 s) : Warm s0 (partsUp s) :=
  warm_mk h (Nat.le_refl _) (fun x => ⟨x, Nat.le_refl _⟩) rfl rfl (fun x => (thas_tmap _ _ _).trans x) id rfl rfl

theorem warm_startImage {s0 s : State} (h : Warm s0 s) : Warm s0 (startImage s) := by
  have hc : Warm s0 (configure (runImage s)) := h.kept (kept_configure (kept_runImage (.refl s)))
  unfold startImage
  generalize configure (runImage s) = t at *
  have h1 := warm_bindTable ((warm_partsUp hc).kept (kept_startLog (cold := t.boot.coldStart) (.refl _)))
  have h2 := (warm_raiseSvn h1).kept (kept_alertEval (kept_powerStart (kept_timeStart (kept_servedNow (.refl _)))))
  exact h2.kept (kept_foldl (fun t x => kept_autoSeal (.refl t)) (.refl _))

theorem warm_startUp {s0 s : State} (h : Warm s0 s) : Warm s0 (startUp s) := by
  unfold startUp
  split
  · exact warm_startImage h
  · exact warm_recoveryPath h

theorem lasting_coldState {s0 s : State} (h : Lasting s0 s) : Lasting s0 (coldState s) :=
  h.trans ⟨rfl, Nat.le_refl _, fun x => ⟨x, Nat.le_refl _⟩, fun _ x => x, rfl, fun _ => rfl, fun _ => rfl⟩

theorem lasting_mainsOff {s0 s : State} {cause : Nat} (h : Lasting s0 s) : Lasting s0 (mainsOff s cause) := by
  unfold mainsOff
  split
  · exact lasting_mk (lasting_coldState h) (Nat.le_refl _) (fun x => ⟨x, Nat.le_refl _⟩) rfl rfl id id
  · exact h

theorem warm_carrelsGone {s0 s : State} (h : Warm s0 s) : Warm s0 (carrelsGone s) :=
  warm_mk h (Nat.le_refl _) (fun x => ⟨x, Nat.le_refl _⟩) rfl rfl id id rfl rfl

theorem warm_perstState {s0 s : State} (h : Warm s0 s) : Warm s0 (perstState s) :=
  warm_mk h (Nat.le_refl _) (fun x => ⟨x, Nat.le_refl _⟩) rfl rfl id id rfl rfl

theorem warm_perstReset {s0 s : State} (h : Warm s0 s) : Warm s0 (perstReset s) := by
  have h1 := warm_carrelsGone (h.kept (kept_retireAll (.refl s)))
  have h2 := h1.kept (kept_investsClosed (kept_accessionsReset (.refl _)))
  exact warm_perstState (h2.kept (kept_linkReset (kept_poolReset (kept_granulesUndone (kept_copiesUndone (.refl _))))))

/-- Tenant 0 is listed among the entries of tenant 0. -/
theorem thas_filter_zero (t : Tbl Nat Tenant) (h : thas t 0 = true) : thas (t.filter (fun p => p.1 == 0)) 0 = true := by
  induction t with
  | nil => exact h
  | cons p r ih =>
    obtain ⟨a, b⟩ := p
    by_cases e : a = 0
    · subst e
      simp [thas, tget]
    · have : thas r 0 = true := by simpa [thas, tget, e] using h
      simpa [e] using ih this

/-- The debug port's opening erases every table, and leaves the rest (R625). -/
theorem kept_keysErased {s0 s : State} (h : Kept s0 s) : Kept s0 (keysErased s) := by
  have h1 : Kept s0 (linksClosed s) := kept_linksClosed h
  unfold keysErased
  generalize linksClosed s = t at *
  apply kept_drew
  exact h1.trans ⟨⟨⟨rfl, Nat.le_refl _, fun x => ⟨x, Nat.le_refl _⟩, fun _ x => x, rfl, thas_filter_zero _, fun _ => rfl⟩, rfl,
    Nat.le_refl _⟩, rfl, rfl, fun _ x => x⟩

/-- DEBUG_RESPONSE keeps all but the debug port's lock. -/
theorem debugResponse_kept (sig : Bytes) (s : State) :
    ∃ t u : State, execDebugResponse sig s = .next t ∧ Kept s u ∧ (t = u ∨ t = { u with sec := { u.sec with debugUnlocked := true } }) := by
  have up : ∀ t : State, Kept s t → ∀ c, Kept s { t with sec := { t.sec with debugChallenge := c } } := fun t ht c =>
    kept_mk ht rfl rfl rfl rfl rfl rfl rfl rfl
  have fails : ∀ t : State, Kept s t → Kept s { t with sec := { t.sec with debugFails := t.sec.debugFails + 1 } } := fun t ht =>
    kept_mk ht rfl rfl rfl rfl rfl rfl rfl rfl
  unfold execDebugResponse
  split
  · exact ⟨_, _, rfl, .refl s, .inl rfl⟩
  · have hw := up _ (.refl s) none
    split
    · generalize ({ s with sec := { s.sec with debugChallenge := none } } : State) = w at *
      exact ⟨_, keysErased w, rfl, kept_keysErased hw, .inr rfl⟩
    · exact ⟨_, _, rfl, fails _ hw, .inl rfl⟩

/-- THROTTLE_UPDATE changes the power registers alone. -/
theorem throttleUpdate_power (watts : Nat) (s : State) : ∃ p : Power, execThrottleUpdate watts s = .next { s with power := p } := by
  unfold execThrottleUpdate
  split
  · exact ⟨_, rfl⟩
  · exact ⟨s.power, rfl⟩

theorem warmOut_bootRomStart (s : State) : ∃ t, execBootRomStart s = .next t ∧ Warm s t := by
  unfold execBootRomStart
  split
  · refine ⟨_, rfl, ?_⟩
    have h1 : ∀ b x, Warm s { s with boot := b, sec := { s.sec with meas := x } } := fun b x =>
      warm_mk (Kept.refl s).toWarm (Nat.le_refl _) (fun x => ⟨x, Nat.le_refl _⟩) rfl rfl id id rfl rfl
    dsimp only
    split
    · exact warm_startUp (h1 _ _)
    · exact h1 _ _
  · exact ⟨s, rfl, (Kept.refl s).toWarm⟩

theorem warmOut_perstRise (slot : BitVec 3) (s : State) : ∃ t, execPerstRise slot s = .next t ∧ Warm s t := by
  unfold execPerstRise
  split
  · exact ⟨s, rfl, (Kept.refl s).toWarm⟩
  · split
    · exact ⟨_, rfl, warm_mk (Kept.refl s).toWarm (Nat.le_refl _) (fun x => ⟨x, Nat.le_refl _⟩) rfl rfl id id rfl rfl⟩
    · refine ⟨_, rfl, ?_⟩
      have h1 : ∀ p i b, i.serial = s.ident.serial → Warm s { s with pins := p, ident := i, boot := b } := fun p i b hi =>
        warm_mk (Kept.refl s).toWarm (Nat.le_refl _) (fun x => ⟨x, Nat.le_refl _⟩) rfl hi id id rfl rfl
      dsimp only
      split
      · exact warm_startUp (h1 _ _ _ rfl)
      · exact h1 _ _ _ rfl

theorem warmOut_perstFall (s : State) : ∃ t, execPerstFall s = .next t ∧ Warm s t := by
  unfold execPerstFall
  split
  · exact ⟨s, rfl, (Kept.refl s).toWarm⟩
  · split
    · exact ⟨_, rfl, warm_perstReset (Kept.refl s).toWarm⟩
    · exact ⟨_, rfl, warm_mk (Kept.refl s).toWarm (Nat.le_refl _) (fun x => ⟨x, Nat.le_refl _⟩) rfl rfl id id rfl rfl⟩

theorem warmOut_fwCommitWriteEnd (ok : Bool) (s : State) : ∃ t, execFwCommitWriteEnd ok s = .next t ∧ Warm s t := by
  have h1 : ∀ f i c, Warm s { s with fw := f, flash := { s.flash with image := i, commitFailed := c } } := fun f i c =>
    warm_mk (Kept.refl s).toWarm (Nat.le_refl _) (fun x => ⟨x, Nat.le_refl _⟩) rfl rfl id id rfl rfl
  unfold execFwCommitWriteEnd
  split
  · exact ⟨s, rfl, (Kept.refl s).toWarm⟩
  · split
    · refine ⟨_, rfl, ?_⟩
      dsimp only
      split
      · exact warm_startUp (h1 _ _ _)
      · exact h1 _ _ _
    · exact ⟨_, rfl, warm_mk (Kept.refl s).toWarm (Nat.le_refl _) (fun x => ⟨x, Nat.le_refl _⟩) rfl rfl id id rfl rfl⟩

theorem lastingOut_auxPowerOff (s : State) : LastingOut s (execAuxPowerOff s) := by
  unfold execAuxPowerOff
  split
  · exact lastingOut_next (lasting_mk (lasting_coldState (lasting_mk (.refl s) (Nat.le_refl _) (fun x => ⟨x, Nat.le_refl _⟩) rfl rfl
      id id)) (Nat.le_refl _) (fun x => ⟨x, Nat.le_refl _⟩) rfl rfl id id)
  · exact lastingOut_next (.refl s)

theorem lastingOut_mainInputDeparture (s : State) : LastingOut s (execMainInputDeparture s) := by
  unfold execMainInputDeparture
  split
  · exact lastingOut_next (.refl s)
  · have h1 : ∀ p, Lasting s { s with pins := p } := fun p =>
      lasting_mk (.refl s) (Nat.le_refl _) (fun x => ⟨x, Nat.le_refl _⟩) rfl rfl id id
    have h2 : ∀ t : State, Lasting s t → ∀ b, Lasting s { t with boot := b } := fun t ht b =>
      lasting_mk ht (Nat.le_refl _) (fun x => ⟨x, Nat.le_refl _⟩) rfl rfl id id
    exact lastingOut_next (h2 _ (lasting_mainsOff (h1 _)) _)

theorem lastingOut_mainInputReturn (pufOk : Bool) (s : State) : LastingOut s (execMainInputReturn pufOk s) := by
  unfold execMainInputReturn
  split
  · refine lastingOut_next (Lasting.trans (lasting_coldState ?_) (kept_railsUp (kept_rootKeys (.refl _))).toLasting)
    exact lasting_mk (.refl s) (Nat.le_refl _) (fun x => ⟨x, Nat.le_refl _⟩) rfl rfl id id
  · exact lastingOut_next (.refl s)

theorem lastingOut_thermtrip (s : State) : LastingOut s (execThermtrip s) := by
  unfold execThermtrip
  split
  · have h2 : ∀ t : State, Lasting s t → ∀ b, Lasting s { t with pins := b } := fun t ht b =>
      lasting_mk ht (Nat.le_refl _) (fun x => ⟨x, Nat.le_refl _⟩) rfl rfl id id
    exact lastingOut_next (h2 _ (lasting_mainsOff (.refl s)) _)
  · exact lastingOut_next (.refl s)

theorem railsUp_now (s : State) : (railsUp s).now = s.now := by
  unfold railsUp
  split <;> rfl

/-- AUX_POWER_ON keeps what every command keeps, but that device time starts again (R663). -/
theorem lasting_auxPowerOn (slot : BitVec 3) (pufOk : Bool) (s : State) :
    ∃ t, execAuxPowerOn slot pufOk s = .next t ∧ (Lasting s t ∨ t.now = 0 ∧ Lasting { s with now := 0 } t) := by
  have up : ∀ s0 t : State, Lasting s0 t → ∀ i b, i.serial = t.ident.serial →
      Lasting s0 (railsUp (rootKeys { t with ident := i, boot := b } pufOk)) := fun s0 t ht i b e =>
    (lasting_mk ht (Nat.le_refl _) (fun x => ⟨x, Nat.le_refl _⟩) rfl e id id).trans
      (kept_railsUp (kept_rootKeys (.refl _))).toLasting
  have now : ∀ t : State, (railsUp (rootKeys t pufOk)).now = t.now := fun t => railsUp_now _
  unfold execAuxPowerOn
  split
  · refine ⟨_, rfl, ?_⟩
    dsimp only
    split
    · exact .inl (up _ _ (.refl s) _ _ rfl)
    · refine .inr ⟨now _, up _ _ ?_ _ _ rfl⟩
      exact ⟨rfl, Nat.le_refl _, fun x => ⟨x, Nat.le_refl _⟩, fun _ x => x, rfl, fun _ => rfl, fun _ => rfl⟩
  · exact ⟨s, rfl, .inl (.refl s)⟩

/-- AUX_POWER_ON on a device without AUX: device time starts at 0 (R663). -/
theorem auxPowerOn_now (slot : BitVec 3) (pufOk : Bool) (s : State) (h : s.pins.aux = false) :
    ∃ t, execAuxPowerOn slot pufOk s = .next t ∧ t.now = 0 := by
  unfold execAuxPowerOn
  rw [if_pos (.inl (by rw [h]; rfl))]
  refine ⟨_, rfl, ?_⟩
  dsimp only
  rw [h]
  exact railsUp_now _

end Sys2Proof.Machine
end

