-- ==== Sys2Proof/Laws/Exec.lean ====
section
/-! SUPPORT. What every command keeps, one lemma for all commands that are no reset, one for all but a cold reset, one for
    all. -/

namespace Sys2Proof.Machine

set_option Elab.async false
set_option linter.all false

/-- A command that is no reset, does not answer a debug challenge and does not set the throttle keeps all that Kept says. -/
theorem exec_kept (c : Instr) (s : State) (hr : ¬isReset c) (hd : ∀ b, c ≠ .debugResponse b)
    (ht : ∀ w, c ≠ .throttleUpdate w) : KeptOut s (exec c s) := by
  cases c with
  | carrelDoorbell => exact kept_execCarrelDoorbell (.refl s)
  | carrelMessageWrite => exact kept_execCarrelMessageWrite (.refl s)
  | messageTake => exact kept_execMessageTake (.refl s)
  | deviceInfo => exact kept_execDeviceInfo (.refl s)
  | attestReport => exact kept_execAttestReport (.refl s)
  | certChain => exact kept_execCertChain (.refl s)
  | tenantCreate => exact kept_execTenantCreate (.refl s)
  | tenantSet => exact kept_execTenantSet (.refl s)
  | tenantDestroy => exact kept_execTenantDestroy (.refl s)
  | masterBind => exact kept_execMasterBind (.refl s)
  | volumeKey => exact kept_execVolumeKey (.refl s)
  | tenantStatus => exact kept_execTenantStatus (.refl s)
  | regionAlloc => exact kept_execRegionAlloc (.refl s)
  | regionFree => exact kept_execRegionFree (.refl s)
  | regionCopy => exact kept_execRegionCopy (.refl s)
  | workingCopy => exact kept_execWorkingCopy (.refl s)
  | kvCreate => exact kept_execKvCreate (.refl s)
  | kvPages => exact kept_execKvPages (.refl s)
  | kvMove => exact kept_execKvMove (.refl s)
  | kvFree => exact kept_execKvFree (.refl s)
  | plainGranule => exact kept_execPlainGranule (.refl s)
  | plainCache => exact kept_execPlainCache (.refl s)
  | plainFlush => exact kept_execPlainFlush (.refl s)
  | kvGuards => exact kept_execKvGuards (.refl s)
  | tensorAccession => exact kept_execTensorAccession (.refl s)
  | tensorStatus => exact kept_execTensorStatus (.refl s)
  | tensorUnload => exact kept_execTensorUnload (.refl s)
  | windowDeclare => exact kept_execWindowDeclare (.refl s)
  | windowSeal => exact kept_execWindowSeal (.refl s)
  | windowReopen => exact kept_execWindowReopen (.refl s)
  | windowClose => exact kept_execWindowClose (.refl s)
  | tensorGuards => exact kept_execTensorGuards (.refl s)
  | tensorOrigin => exact kept_execTensorOrigin (.refl s)
  | volumeLoad => exact kept_execVolumeLoad (.refl s)
  | volumeUnload => exact kept_execVolumeUnload (.refl s)
  | queueCreate => exact kept_execQueueCreate (.refl s)
  | queueDestroy => exact kept_execQueueDestroy (.refl s)
  | volumeStatus => exact kept_execVolumeStatus (.refl s)
  | poolOffer => exact kept_execPoolOffer (.refl s)
  | extentRequest => exact kept_execExtentRequest (.refl s)
  | extentGrant => exact kept_execExtentGrant (.refl s)
  | leaseRenew => exact kept_execLeaseRenew (.refl s)
  | extentRecall => exact kept_execExtentRecall (.refl s)
  | extentReturn => exact kept_execExtentReturn (.refl s)
  | extentFlush => exact kept_execExtentFlush (.refl s)
  | shareCreate => exact kept_execShareCreate (.refl s)
  | editionOpen => exact kept_execEditionOpen (.refl s)
  | editionPublish => exact kept_execEditionPublish (.refl s)
  | editionClose => exact kept_execEditionClose (.refl s)
  | nearOp => exact kept_execNearOp (.refl s)
  | mirrorResolve => exact kept_execMirrorResolve (.refl s)
  | poolLimit => exact kept_execPoolLimit (.refl s)
  | poolStatus => exact kept_execPoolStatus (.refl s)
  | depotGrant => exact kept_execDepotGrant (.refl s)
  | depotRevoke => exact kept_execDepotRevoke (.refl s)
  | linkStatus => exact kept_execLinkStatus (.refl s)
  | linkConfig => exact kept_execLinkConfig (.refl s)
  | linkAnchor => exact kept_execLinkAnchor (.refl s)
  | sessionBind => exact kept_execSessionBind (.refl s)
  | sessionClose => exact kept_execSessionClose (.refl s)
  | windowSet => exact kept_execWindowSet (.refl s)
  | routeSet => exact kept_execRouteSet (.refl s)
  | portReset => exact kept_execPortReset (.refl s)
  | bwSet => exact kept_execBwSet (.refl s)
  | bwStatus => exact kept_execBwStatus (.refl s)
  | bwUrgency => exact kept_execBwUrgency (.refl s)
  | errataRead => exact kept_execErrataRead (.refl s)
  | rasStatus => exact kept_execRasStatus (.refl s)
  | unitService => exact kept_execUnitService (.refl s)
  | scrubSet => exact kept_execScrubSet (.refl s)
  | powerFloor => exact kept_execPowerFloor (.refl s)
  | powerLimit => exact kept_execPowerLimit (.refl s)
  | powerStatus => exact kept_execPowerStatus (.refl s)
  | configWrite => exact kept_execConfigWrite (.refl s)
  | configStatus => exact kept_execConfigStatus (.refl s)
  | fwInfo => exact kept_execFwInfo (.refl s)
  | fwStage => exact kept_execFwStage (.refl s)
  | fwCommit => exact kept_execFwCommit (.refl s)
  | fwCommitWriteEnd => exact absurd (by simp [isReset, isCold]) hr
  | diagMode => exact kept_execDiagMode (.refl s)
  | cpRestart => exact kept_execCpRestart (.refl s)
  | glbLockRead => exact kept_execGlbLockRead (.refl s)
  | glbRelease => exact kept_execGlbRelease (.refl s)
  | queDoorbell => exact kept_execQueDoorbell (.refl s)
  | queueSlotWrite => exact kept_execQueueSlotWrite (.refl s)
  | readRaw => exact kept_execReadRaw (.refl s)
  | readCorrected => exact kept_execReadCorrected (.refl s)
  | writeRaw => exact kept_execWriteRaw (.refl s)
  | writeEncoded => exact kept_execWriteEncoded (.refl s)
  | writePoison => exact kept_execWritePoison (.refl s)
  | registerWrite => exact kept_execRegisterWrite (.refl s)
  | callSlipAdmit => exact kept_execCallSlipAdmit (.refl s)
  | callSlipEnd => exact kept_execCallSlipEnd (.refl s)
  | deadlinePass => exact kept_execDeadlinePass (.refl s)
  | fetchIssue => exact kept_execFetchIssue (.refl s)
  | folioDataArrive => exact kept_execFolioDataArrive (.refl s)
  | folioArriveComplete => exact kept_execFolioArriveComplete (.refl s)
  | folioRecovery => exact kept_execFolioRecovery (.refl s)
  | recoveryBudgetExpiry => exact kept_execRecoveryBudgetExpiry (.refl s)
  | matvec => exact kept_execMatvec (.refl s)
  | attnScore => exact kept_execAttnScore (.refl s)
  | attnValue => exact kept_execAttnValue (.refl s)
  | kvAppend => exact kept_execKvAppend (.refl s)
  | elemwise => exact kept_execElemwise (.refl s)
  | rmsnorm => exact kept_execRmsnorm (.refl s)
  | layernorm => exact kept_execLayernorm (.refl s)
  | softmax => exact kept_execSoftmax (.refl s)
  | rope => exact kept_execRope (.refl s)
  | act => exact kept_execAct (.refl s)
  | embed => exact kept_execEmbed (.refl s)
  | merge => exact kept_execMerge (.refl s)
  | topk => exact kept_execTopk (.refl s)
  | sample => exact kept_execSample (.refl s)
  | relayReduce => exact kept_execRelayReduce (.refl s)
  | loop => exact kept_execLoop (.refl s)
  | route => exact kept_execRoute (.refl s)
  | conditionalSkip => exact kept_execConditionalSkip (.refl s)
  | consumedRead => exact kept_execConsumedRead (.refl s)
  | consumedReadReturn => exact kept_execConsumedReadReturn (.refl s)
  | probeRun => exact kept_execProbeRun (.refl s)
  | probeForce => exact kept_execProbeForce (.refl s)
  | investigationRerun => exact kept_execInvestigationRerun (.refl s)
  | investigationRefetch => exact kept_execInvestigationRefetch (.refl s)
  | investigationOtherMu => exact kept_execInvestigationOtherMu (.refl s)
  | investigationTimeout => exact kept_execInvestigationTimeout (.refl s)
  | accessionStart => exact kept_execAccessionStart (.refl s)
  | accessionEnd => exact kept_execAccessionEnd (.refl s)
  | weightWindowRead => exact kept_execWeightWindowRead (.refl s)
  | plainRead => exact kept_execPlainRead (.refl s)
  | plainWrite => exact kept_execPlainWrite (.refl s)
  | cacheLineFill => exact kept_execCacheLineFill (.refl s)
  | cacheEvictComplete => exact kept_execCacheEvictComplete (.refl s)
  | weedingSweep => exact kept_execWeedingSweep (.refl s)
  | binderyTimeout => exact kept_execBinderyTimeout (.refl s)
  | granuleZeroingEnd => exact kept_execGranuleZeroingEnd (.refl s)
  | runtimeAccess => exact kept_execRuntimeAccess (.refl s)
  | grantMessage => exact kept_execGrantMessage (.refl s)
  | grantAccept => exact kept_execGrantAccept (.refl s)
  | grantRefuse => exact kept_execGrantRefuse (.refl s)
  | grantTimeout => exact kept_execGrantTimeout (.refl s)
  | requestTimeout => exact kept_execRequestTimeout (.refl s)
  | dueDateExpiry => exact kept_execDueDateExpiry (.refl s)
  | graceEnd => exact kept_execGraceEnd (.refl s)
  | drainEnd => exact kept_execDrainEnd (.refl s)
  | eraseEnd => exact kept_execEraseEnd (.refl s)
  | noticeReceive => exact kept_execNoticeReceive (.refl s)
  | handleFreeTimeout => exact kept_execHandleFreeTimeout (.refl s)
  | nearOpStart => exact kept_execNearOpStart (.refl s)
  | nearOpEnd => exact kept_execNearOpEnd (.refl s)
  | mirrorComponentLoss => exact kept_execMirrorComponentLoss (.refl s)
  | mirrorResyncEnd => exact kept_execMirrorResyncEnd (.refl s)
  | mirrorVerify => exact kept_execMirrorVerify (.refl s)
  | parityComponentLoss => exact kept_execParityComponentLoss (.refl s)
  | parityRebuildEnd => exact kept_execParityRebuildEnd (.refl s)
  | parityVerify => exact kept_execParityVerify (.refl s)
  | poolWindowAdjust => exact kept_execPoolWindowAdjust (.refl s)
  | trayTimeout => exact kept_execTrayTimeout (.refl s)
  | trayProbe => exact kept_execTrayProbe (.refl s)
  | portEnable => exact kept_execPortEnable (.refl s)
  | equalisationDone => exact kept_execEqualisationDone (.refl s)
  | flitLock => exact kept_execFlitLock (.refl s)
  | hello => exact kept_execHello (.refl s)
  | authCert => exact kept_execAuthCert (.refl s)
  | keyxA => exact kept_execKeyxA (.refl s)
  | keyxB => exact kept_execKeyxB (.refl s)
  | confA => exact kept_execConfA (.refl s)
  | authDone => exact kept_execAuthDone (.refl s)
  | trainingTimeout => exact kept_execTrainingTimeout (.refl s)
  | portRetryTimer => exact kept_execPortRetryTimer (.refl s)
  | flitReceive => exact kept_execFlitReceive (.refl s)
  | linkNak => exact kept_execLinkNak (.refl s)
  | replayTimeout => exact kept_execReplayTimeout (.refl s)
  | portRetrain => exact kept_execPortRetrain (.refl s)
  | creditWithheldTimeout => exact kept_execCreditWithheldTimeout (.refl s)
  | pairCert => exact kept_execPairCert (.refl s)
  | pairXA => exact kept_execPairXA (.refl s)
  | pairXB => exact kept_execPairXB (.refl s)
  | pairConf => exact kept_execPairConf (.refl s)
  | sessionOpen => exact kept_execSessionOpen (.refl s)
  | sessionAccept => exact kept_execSessionAccept (.refl s)
  | sessionRefuse => exact kept_execSessionRefuse (.refl s)
  | sack => exact kept_execSack (.refl s)
  | sessionResendTimeout => exact kept_execSessionResendTimeout (.refl s)
  | sessionSilencePing => exact kept_execSessionSilencePing (.refl s)
  | ping => exact kept_execPing (.refl s)
  | pong => exact kept_execPong (.refl s)
  | sessionLossTimeout => exact kept_execSessionLossTimeout (.refl s)
  | close => exact kept_execClose (.refl s)
  | masterIdFreeTimeout => exact kept_execMasterIdFreeTimeout (.refl s)
  | rekeyDue => exact kept_execRekeyDue (.refl s)
  | rekey => exact kept_execRekey (.refl s)
  | portLeaveService => exact kept_execPortLeaveService (.refl s)
  | pathReturnTimer => exact kept_execPathReturnTimer (.refl s)
  | rdReq => exact kept_execRdReq (.refl s)
  | wr => exact kept_execWr (.refl s)
  | rdRsp => exact kept_execRdRsp (.refl s)
  | cmpl => exact kept_execCmpl (.refl s)
  | red => exact kept_execRed (.refl s)
  | msgStart => exact kept_execMsgStart (.refl s)
  | msgToken => exact kept_execMsgToken (.refl s)
  | msgStop => exact kept_execMsgStop (.refl s)
  | desk => exact kept_execDesk (.refl s)
  | deskReply => exact kept_execDeskReply (.refl s)
  | timeFlitSend => exact kept_execTimeFlitSend (.refl s)
  | timeFlitReceive => exact kept_execTimeFlitReceive (.refl s)
  | syncPulse => exact kept_execSyncPulse (.refl s)
  | syncInEdge => exact kept_execSyncInEdge (.refl s)
  | syncErrTimeout => exact kept_execSyncErrTimeout (.refl s)
  | masterElection => exact kept_execMasterElection (.refl s)
  | lpIdleTimer => exact kept_execLpIdleTimer (.refl s)
  | lpReq => exact kept_execLpReq (.refl s)
  | lpAck => exact kept_execLpAck (.refl s)
  | lpNak => exact kept_execLpNak (.refl s)
  | wake => exact kept_execWake (.refl s)
  | pcieMemoryRequest => exact kept_execPcieMemoryRequest (.refl s)
  | configRequest => exact kept_execConfigRequest (.refl s)
  | initiateFlr => exact kept_execInitiateFlr (.refl s)
  | flrComplete => exact kept_execFlrComplete (.refl s)
  | vfEnable => exact kept_execVfEnable (.refl s)
  | hostReadCompletion => exact kept_execHostReadCompletion (.refl s)
  | hostReadTimeout => exact kept_execHostReadTimeout (.refl s)
  | tagQuarantineEnd => exact kept_execTagQuarantineEnd (.refl s)
  | l0pRequest => exact kept_execL0pRequest (.refl s)
  | aspmL1Entry => exact kept_execAspmL1Entry (.refl s)
  | addDynamicCapacityResponse => exact kept_execAddDynamicCapacityResponse (.refl s)
  | releaseDynamicCapacity => exact kept_execReleaseDynamicCapacity (.refl s)
  | dynamicCapacityTimeout => exact kept_execDynamicCapacityTimeout (.refl s)
  | identifyMemoryDevice => exact kept_execIdentifyMemoryDevice (.refl s)
  | getEventRecords => exact kept_execGetEventRecords (.refl s)
  | clearEventRecords => exact kept_execClearEventRecords (.refl s)
  | getPoisonList => exact kept_execGetPoisonList (.refl s)
  | getHealthInfo => exact kept_execGetHealthInfo (.refl s)
  | getDynamicCapacityConfiguration => exact kept_execGetDynamicCapacityConfiguration (.refl s)
  | getDynamicCapacityExtentList => exact kept_execGetDynamicCapacityExtentList (.refl s)
  | mailboxUnsupported => exact kept_execMailboxUnsupported (.refl s)
  | ledgerWindow => exact kept_execLedgerWindow (.refl s)
  | urgLevelChange => exact kept_execUrgLevelChange (.refl s)
  | idleToReady => exact kept_execIdleToReady (.refl s)
  | readyToDoze => exact kept_execReadyToDoze (.refl s)
  | dozeToSleep => exact kept_execDozeToSleep (.refl s)
  | wakeComplete => exact kept_execWakeComplete (.refl s)
  | sleepToDoze => exact kept_execSleepToDoze (.refl s)
  | sleepScrubVisit => exact kept_execSleepScrubVisit (.refl s)
  | thermalSample => exact kept_execThermalSample (.refl s)
  | throttleUpdate w => exact absurd rfl (ht w)
  | thermtrip => exact absurd (by simp [isReset, isCold]) hr
  | auxPowerOn => exact absurd (by simp [isReset, isCold]) hr
  | auxPowerOff => exact absurd (by simp [isReset, isCold]) hr
  | mainInputInRange => exact kept_execMainInputInRange (.refl s)
  | mainInputDeparture => exact absurd (by simp [isReset, isCold]) hr
  | mainInputReturn => exact absurd (by simp [isReset, isCold]) hr
  | perstFall => exact absurd (by simp [isReset, isCold]) hr
  | perstRise => exact absurd (by simp [isReset, isCold]) hr
  | bootRomStart => exact absurd (by simp [isReset, isCold]) hr
  | cpWatchdogExpiry => exact kept_execCpWatchdogExpiry (.refl s)
  | cpRestartEnd => exact kept_execCpRestartEnd (.refl s)
  | muLocalReset => exact kept_execMuLocalReset (.refl s)
  | unitRemap => exact kept_execUnitRemap (.refl s)
  | rowSpareEnd => exact kept_execRowSpareEnd (.refl s)
  | patrolScrub => exact kept_execPatrolScrub (.refl s)
  | stackFailure => exact kept_execStackFailure (.refl s)
  | packageFailure => exact kept_execPackageFailure (.refl s)
  | packageRemap => exact kept_execPackageRemap (.refl s)
  | halfFence => exact kept_execHalfFence (.refl s)
  | moduleFault => exact kept_execModuleFault (.refl s)
  | trngFail => exact kept_execTrngFail (.refl s)
  | debugChallenge => exact kept_execDebugChallenge (.refl s)
  | debugResponse b => exact absurd rfl (hd b)
  | debugIdentityRead => exact kept_execDebugIdentityRead (.refl s)
  | i3cTargetReset => exact kept_execI3cTargetReset (.refl s)
  | auxStatusRead => exact kept_execAuxStatusRead (.refl s)
  | linkReadTimeout => exact kept_execLinkReadTimeout (.refl s)
  | hostLinkTraining => exact kept_execHostLinkTraining (.refl s)
  | portFailureTimeout => exact kept_execPortFailureTimeout (.refl s)
  | tilePresenceSet => exact kept_execTilePresenceSet (.refl s)

/-- THROTTLE_UPDATE keeps what a warm command keeps. -/
theorem warmOut_throttleUpdate (w : Nat) (s : State) : ∃ t, execThrottleUpdate w s = .next t ∧ Warm s t := by
  obtain ⟨p, e⟩ := throttleUpdate_power w s
  exact ⟨_, e, warm_mk (Kept.refl s).toWarm (Nat.le_refl _) (fun x => ⟨x, Nat.le_refl _⟩) rfl rfl id id rfl rfl⟩

/-- A command that is no cold reset and does not answer a debug challenge keeps what Warm says. -/
theorem exec_warm (c : Instr) (s : State) (hr : ¬isCold c) (hd : ∀ b, c ≠ .debugResponse b) :
    ∃ t, exec c s = .next t ∧ Warm s t := by
  by_cases h1 : isReset c
  · cases c with
    | bootRomStart => exact warmOut_bootRomStart s
    | perstRise slot => exact warmOut_perstRise slot s
    | perstFall => exact warmOut_perstFall s
    | fwCommitWriteEnd ok => exact warmOut_fwCommitWriteEnd ok s
    | _ => exact absurd h1 (by simp_all [isReset, isCold])
  · by_cases h2 : ∃ w, c = .throttleUpdate w
    · obtain ⟨w, rfl⟩ := h2
      exact warmOut_throttleUpdate w s
    · obtain ⟨t, e, k⟩ := exec_kept c s h1 hd (fun w e => h2 ⟨w, e⟩)
      exact ⟨t, e, k.toWarm⟩

/-- DEBUG_RESPONSE keeps what every command keeps. -/
theorem lastingOut_debugResponse (b : Bytes) (s : State) : LastingOut s (execDebugResponse b s) := by
  obtain ⟨t, u, e, k, rfl | rfl⟩ := debugResponse_kept b s
  · exact ⟨_, e, k.toLasting⟩
  · exact ⟨_, e, lasting_mk k.toLasting (Nat.le_refl _) (fun x => ⟨x, Nat.le_refl _⟩) rfl rfl id id⟩

/-- Every command answers a next state, and all but AUX_POWER_ON keep what Lasting says. -/
theorem exec_lasting (c : Instr) (s : State) (ha : ∀ a b, c ≠ .auxPowerOn a b) : LastingOut s (exec c s) := by
  by_cases h1 : isCold c
  · cases c with
    | auxPowerOn a b => exact absurd rfl (ha a b)
    | auxPowerOff => exact lastingOut_auxPowerOff s
    | mainInputDeparture => exact lastingOut_mainInputDeparture s
    | mainInputReturn p => exact lastingOut_mainInputReturn p s
    | thermtrip => exact lastingOut_thermtrip s
    | _ => exact absurd h1 (by simp [isCold])
  · by_cases h2 : ∃ b, c = .debugResponse b
    · obtain ⟨b, rfl⟩ := h2
      exact lastingOut_debugResponse b s
    · obtain ⟨t, e, k⟩ := exec_warm c s h1 (fun b e => h2 ⟨b, e⟩)
      exact ⟨t, e, k.toLasting⟩

/-- Every command answers a next state that keeps what Lasting says but of device time. -/
theorem exec_lasting' (c : Instr) (s : State) :
    ∃ t, exec c s = .next t ∧ (Lasting s t ∨ t.now = 0 ∧ Lasting { s with now := 0 } t) := by
  by_cases h : ∃ a b, c = .auxPowerOn a b
  · obtain ⟨a, b, rfl⟩ := h
    exact lasting_auxPowerOn a b s
  · obtain ⟨t, e, k⟩ := exec_lasting c s (fun a b e => h ⟨a, b, e⟩)
    exact ⟨t, e, .inl k⟩

/-- Every command leaves the queue alone. -/
theorem exec_queue (c : Instr) (s : State) : ∃ t, exec c s = .next t ∧ t.pending = s.pending := by
  obtain ⟨t, e, k | k⟩ := exec_lasting' c s
  · exact ⟨t, e, k.pending⟩
  · exact ⟨t, e, k.2.pending⟩

/-- A command that is no reset keeps the binding table, and a fenced half fenced. -/
theorem exec_safe (c : Instr) (s : State) (h : ¬isReset c) :
    ∃ t, exec c s = .next t ∧ t.cp.binding = s.cp.binding ∧
      ∀ x, (s.halves.get x).fenced = true → (t.halves.get x).fenced = true := by
  by_cases h1 : ∃ b, c = .debugResponse b
  · obtain ⟨b, rfl⟩ := h1
    obtain ⟨t, u, e, k, rfl | rfl⟩ := debugResponse_kept b s
    · exact ⟨_, e, k.binding, k.fenced⟩
    · exact ⟨_, e, k.binding, k.fenced⟩
  · by_cases h2 : ∃ w, c = .throttleUpdate w
    · obtain ⟨w, rfl⟩ := h2
      obtain ⟨p, e⟩ := throttleUpdate_power w s
      exact ⟨_, e, rfl, fun _ x => x⟩
    · obtain ⟨t, e, k⟩ := exec_kept c s h (fun b e => h1 ⟨b, e⟩) (fun w e => h2 ⟨w, e⟩)
      exact ⟨t, e, k.binding, k.fenced⟩

/-- What every step keeps that does not depend on device time. -/
structure Steady (s t : State) : Prop where
  svn : s.flash.minSvnTagOk = true → t.flash.minSvnTagOk = true ∧ s.flash.minSvn ≤ t.flash.minSvn
  retired : ∀ g ∈ s.flash.retiredGranules, g ∈ t.flash.retiredGranules
  tenant0 : thas s.tenants 0 = true → thas t.tenants 0 = true
  mem : s.mem.wf = true → t.mem.wf = true

/-- What every step keeps. -/
theorem step_steady (s : State) : ∃ t, step s = .next t ∧ Steady s t := by
  unfold step
  split
  · have k : Kept s (idleTick s) := kept_idleTick (.refl s)
    exact ⟨_, rfl, k.svn, k.retired, k.tenant0, k.mem⟩
  · rename_i c rest _
    obtain ⟨t, e, k | k⟩ := exec_lasting' c { s with pending := rest }
    · exact ⟨t, e, k.svn, k.retired, k.tenant0, k.mem⟩
    · exact ⟨t, e, k.2.svn, k.2.retired, k.2.tenant0, k.2.mem⟩

theorem step_mem (s : State) : ∃ t, step s = .next t ∧ (s.mem.wf = true → t.mem.wf = true) :=
  (step_steady s).imp fun _ h => ⟨h.1, h.2.mem⟩

theorem step_svn (s : State) : ∃ t, step s = .next t ∧
    (s.flash.minSvnTagOk = true → t.flash.minSvnTagOk = true ∧ s.flash.minSvn ≤ t.flash.minSvn) :=
  (step_steady s).imp fun _ h => ⟨h.1, h.2.svn⟩

theorem step_retired (s : State) : ∃ t, step s = .next t ∧ ∀ g ∈ s.flash.retiredGranules, g ∈ t.flash.retiredGranules :=
  (step_steady s).imp fun _ h => ⟨h.1, h.2.retired⟩

theorem step_tenant (s : State) : ∃ t, step s = .next t ∧ (thas s.tenants 0 = true → thas t.tenants 0 = true) :=
  (step_steady s).imp fun _ h => ⟨h.1, h.2.tenant0⟩

end Sys2Proof.Machine
end

