-- ==== Sys2Proof/Laws/State.lean ====
section
/-! SUPPORT. What each operation that changes one part of State leaves alone: one lemma for each field. -/

namespace Sys2Proof.Machine

section emit

variable (s : State) (e : Emission)

@[simp] theorem emit_pending : (emit s e).pending = s.pending := rfl
@[simp] theorem emit_free : (emit s e).free = s.free := rfl
@[simp] theorem emit_now : (emit s e).now = s.now := rfl
@[simp] theorem emit_ident : (emit s e).ident = s.ident := rfl
@[simp] theorem emit_pins : (emit s e).pins = s.pins := rfl
@[simp] theorem emit_boot : (emit s e).boot = s.boot := rfl
@[simp] theorem emit_power : (emit s e).power = s.power := rfl
@[simp] theorem emit_flash : (emit s e).flash = s.flash := rfl
@[simp] theorem emit_sec : (emit s e).sec = s.sec := rfl
@[simp] theorem emit_fw : (emit s e).fw = s.fw := rfl
@[simp] theorem emit_cp : (emit s e).cp = s.cp := rfl
@[simp] theorem emit_tenants : (emit s e).tenants = s.tenants := rfl
@[simp] theorem emit_masters : (emit s e).masters = s.masters := rfl
@[simp] theorem emit_mem : (emit s e).mem = s.mem := rfl
@[simp] theorem emit_regions : (emit s e).regions = s.regions := rfl
@[simp] theorem emit_zeroing : (emit s e).zeroing = s.zeroing := rfl
@[simp] theorem emit_halves : (emit s e).halves = s.halves := rfl
@[simp] theorem emit_tensors : (emit s e).tensors = s.tensors := rfl
@[simp] theorem emit_nextTensor : (emit s e).nextTensor = s.nextTensor := rfl
@[simp] theorem emit_acc : (emit s e).acc = s.acc := rfl
@[simp] theorem emit_kvs : (emit s e).kvs = s.kvs := rfl
@[simp] theorem emit_kvGen : (emit s e).kvGen = s.kvGen := rfl
@[simp] theorem emit_volumes : (emit s e).volumes = s.volumes := rfl
@[simp] theorem emit_nextVolume : (emit s e).nextVolume = s.nextVolume := rfl
@[simp] theorem emit_queues : (emit s e).queues = s.queues := rfl
@[simp] theorem emit_eng : (emit s e).eng = s.eng := rfl
@[simp] theorem emit_plain : (emit s e).plain = s.plain := rfl
@[simp] theorem emit_pool : (emit s e).pool = s.pool := rfl
@[simp] theorem emit_link : (emit s e).link = s.link := rfl
@[simp] theorem emit_host : (emit s e).host = s.host := rfl
@[simp] theorem emit_bw : (emit s e).bw = s.bw := rfl
@[simp] theorem emit_ras : (emit s e).ras = s.ras := rfl
@[simp] theorem emit_diag : (emit s e).diag = s.diag := rfl

end emit

section bump

variable (s : State)

@[simp] theorem bump_pending : (bump s).pending = s.pending := rfl
@[simp] theorem bump_out : (bump s).out = s.out := rfl
@[simp] theorem bump_now : (bump s).now = s.now := rfl
@[simp] theorem bump_ident : (bump s).ident = s.ident := rfl
@[simp] theorem bump_pins : (bump s).pins = s.pins := rfl
@[simp] theorem bump_boot : (bump s).boot = s.boot := rfl
@[simp] theorem bump_power : (bump s).power = s.power := rfl
@[simp] theorem bump_flash : (bump s).flash = s.flash := rfl
@[simp] theorem bump_sec : (bump s).sec = s.sec := rfl
@[simp] theorem bump_fw : (bump s).fw = s.fw := rfl
@[simp] theorem bump_cp : (bump s).cp = s.cp := rfl
@[simp] theorem bump_tenants : (bump s).tenants = s.tenants := rfl
@[simp] theorem bump_masters : (bump s).masters = s.masters := rfl
@[simp] theorem bump_mem : (bump s).mem = s.mem := rfl
@[simp] theorem bump_regions : (bump s).regions = s.regions := rfl
@[simp] theorem bump_zeroing : (bump s).zeroing = s.zeroing := rfl
@[simp] theorem bump_halves : (bump s).halves = s.halves := rfl
@[simp] theorem bump_tensors : (bump s).tensors = s.tensors := rfl
@[simp] theorem bump_nextTensor : (bump s).nextTensor = s.nextTensor := rfl
@[simp] theorem bump_acc : (bump s).acc = s.acc := rfl
@[simp] theorem bump_kvs : (bump s).kvs = s.kvs := rfl
@[simp] theorem bump_kvGen : (bump s).kvGen = s.kvGen := rfl
@[simp] theorem bump_volumes : (bump s).volumes = s.volumes := rfl
@[simp] theorem bump_nextVolume : (bump s).nextVolume = s.nextVolume := rfl
@[simp] theorem bump_queues : (bump s).queues = s.queues := rfl
@[simp] theorem bump_eng : (bump s).eng = s.eng := rfl
@[simp] theorem bump_plain : (bump s).plain = s.plain := rfl
@[simp] theorem bump_pool : (bump s).pool = s.pool := rfl
@[simp] theorem bump_link : (bump s).link = s.link := rfl
@[simp] theorem bump_host : (bump s).host = s.host := rfl
@[simp] theorem bump_bw : (bump s).bw = s.bw := rfl
@[simp] theorem bump_ras : (bump s).ras = s.ras := rfl
@[simp] theorem bump_diag : (bump s).diag = s.diag := rfl

end bump

section drew

variable (n : Nat) (s : State)

@[simp] theorem drew_pending : (drew n s).pending = s.pending := rfl
@[simp] theorem drew_out : (drew n s).out = s.out := rfl
@[simp] theorem drew_now : (drew n s).now = s.now := rfl
@[simp] theorem drew_ident : (drew n s).ident = s.ident := rfl
@[simp] theorem drew_pins : (drew n s).pins = s.pins := rfl
@[simp] theorem drew_boot : (drew n s).boot = s.boot := rfl
@[simp] theorem drew_power : (drew n s).power = s.power := rfl
@[simp] theorem drew_flash : (drew n s).flash = s.flash := rfl
@[simp] theorem drew_sec : (drew n s).sec = s.sec := rfl
@[simp] theorem drew_fw : (drew n s).fw = s.fw := rfl
@[simp] theorem drew_cp : (drew n s).cp = s.cp := rfl
@[simp] theorem drew_tenants : (drew n s).tenants = s.tenants := rfl
@[simp] theorem drew_masters : (drew n s).masters = s.masters := rfl
@[simp] theorem drew_mem : (drew n s).mem = s.mem := rfl
@[simp] theorem drew_regions : (drew n s).regions = s.regions := rfl
@[simp] theorem drew_zeroing : (drew n s).zeroing = s.zeroing := rfl
@[simp] theorem drew_halves : (drew n s).halves = s.halves := rfl
@[simp] theorem drew_tensors : (drew n s).tensors = s.tensors := rfl
@[simp] theorem drew_nextTensor : (drew n s).nextTensor = s.nextTensor := rfl
@[simp] theorem drew_acc : (drew n s).acc = s.acc := rfl
@[simp] theorem drew_kvs : (drew n s).kvs = s.kvs := rfl
@[simp] theorem drew_kvGen : (drew n s).kvGen = s.kvGen := rfl
@[simp] theorem drew_volumes : (drew n s).volumes = s.volumes := rfl
@[simp] theorem drew_nextVolume : (drew n s).nextVolume = s.nextVolume := rfl
@[simp] theorem drew_queues : (drew n s).queues = s.queues := rfl
@[simp] theorem drew_eng : (drew n s).eng = s.eng := rfl
@[simp] theorem drew_plain : (drew n s).plain = s.plain := rfl
@[simp] theorem drew_pool : (drew n s).pool = s.pool := rfl
@[simp] theorem drew_link : (drew n s).link = s.link := rfl
@[simp] theorem drew_host : (drew n s).host = s.host := rfl
@[simp] theorem drew_bw : (drew n s).bw = s.bw := rfl
@[simp] theorem drew_ras : (drew n s).ras = s.ras := rfl
@[simp] theorem drew_diag : (drew n s).diag = s.diag := rfl

end drew

section alertEval

variable (s : State)

@[simp] theorem alertEval_pending : (alertEval s).pending = s.pending := rfl
@[simp] theorem alertEval_free : (alertEval s).free = s.free := rfl
@[simp] theorem alertEval_out : (alertEval s).out = s.out := rfl
@[simp] theorem alertEval_now : (alertEval s).now = s.now := rfl
@[simp] theorem alertEval_ident : (alertEval s).ident = s.ident := rfl
@[simp] theorem alertEval_boot : (alertEval s).boot = s.boot := rfl
@[simp] theorem alertEval_power : (alertEval s).power = s.power := rfl
@[simp] theorem alertEval_flash : (alertEval s).flash = s.flash := rfl
@[simp] theorem alertEval_sec : (alertEval s).sec = s.sec := rfl
@[simp] theorem alertEval_fw : (alertEval s).fw = s.fw := rfl
@[simp] theorem alertEval_cp : (alertEval s).cp = s.cp := rfl
@[simp] theorem alertEval_tenants : (alertEval s).tenants = s.tenants := rfl
@[simp] theorem alertEval_masters : (alertEval s).masters = s.masters := rfl
@[simp] theorem alertEval_mem : (alertEval s).mem = s.mem := rfl
@[simp] theorem alertEval_regions : (alertEval s).regions = s.regions := rfl
@[simp] theorem alertEval_zeroing : (alertEval s).zeroing = s.zeroing := rfl
@[simp] theorem alertEval_halves : (alertEval s).halves = s.halves := rfl
@[simp] theorem alertEval_tensors : (alertEval s).tensors = s.tensors := rfl
@[simp] theorem alertEval_nextTensor : (alertEval s).nextTensor = s.nextTensor := rfl
@[simp] theorem alertEval_acc : (alertEval s).acc = s.acc := rfl
@[simp] theorem alertEval_kvs : (alertEval s).kvs = s.kvs := rfl
@[simp] theorem alertEval_kvGen : (alertEval s).kvGen = s.kvGen := rfl
@[simp] theorem alertEval_volumes : (alertEval s).volumes = s.volumes := rfl
@[simp] theorem alertEval_nextVolume : (alertEval s).nextVolume = s.nextVolume := rfl
@[simp] theorem alertEval_queues : (alertEval s).queues = s.queues := rfl
@[simp] theorem alertEval_eng : (alertEval s).eng = s.eng := rfl
@[simp] theorem alertEval_plain : (alertEval s).plain = s.plain := rfl
@[simp] theorem alertEval_pool : (alertEval s).pool = s.pool := rfl
@[simp] theorem alertEval_link : (alertEval s).link = s.link := rfl
@[simp] theorem alertEval_host : (alertEval s).host = s.host := rfl
@[simp] theorem alertEval_bw : (alertEval s).bw = s.bw := rfl
@[simp] theorem alertEval_ras : (alertEval s).ras = s.ras := rfl
@[simp] theorem alertEval_diag : (alertEval s).diag = s.diag := rfl

end alertEval

section quietNow

variable (s : State)

@[simp] theorem quietNow_pending : (quietNow s).pending = s.pending := rfl
@[simp] theorem quietNow_free : (quietNow s).free = s.free := rfl
@[simp] theorem quietNow_out : (quietNow s).out = s.out := rfl
@[simp] theorem quietNow_now : (quietNow s).now = s.now := rfl
@[simp] theorem quietNow_ident : (quietNow s).ident = s.ident := rfl
@[simp] theorem quietNow_pins : (quietNow s).pins = s.pins := rfl
@[simp] theorem quietNow_boot : (quietNow s).boot = s.boot := rfl
@[simp] theorem quietNow_flash : (quietNow s).flash = s.flash := rfl
@[simp] theorem quietNow_sec : (quietNow s).sec = s.sec := rfl
@[simp] theorem quietNow_fw : (quietNow s).fw = s.fw := rfl
@[simp] theorem quietNow_cp : (quietNow s).cp = s.cp := rfl
@[simp] theorem quietNow_tenants : (quietNow s).tenants = s.tenants := rfl
@[simp] theorem quietNow_masters : (quietNow s).masters = s.masters := rfl
@[simp] theorem quietNow_mem : (quietNow s).mem = s.mem := rfl
@[simp] theorem quietNow_regions : (quietNow s).regions = s.regions := rfl
@[simp] theorem quietNow_zeroing : (quietNow s).zeroing = s.zeroing := rfl
@[simp] theorem quietNow_halves : (quietNow s).halves = s.halves := rfl
@[simp] theorem quietNow_tensors : (quietNow s).tensors = s.tensors := rfl
@[simp] theorem quietNow_nextTensor : (quietNow s).nextTensor = s.nextTensor := rfl
@[simp] theorem quietNow_acc : (quietNow s).acc = s.acc := rfl
@[simp] theorem quietNow_kvs : (quietNow s).kvs = s.kvs := rfl
@[simp] theorem quietNow_kvGen : (quietNow s).kvGen = s.kvGen := rfl
@[simp] theorem quietNow_volumes : (quietNow s).volumes = s.volumes := rfl
@[simp] theorem quietNow_nextVolume : (quietNow s).nextVolume = s.nextVolume := rfl
@[simp] theorem quietNow_queues : (quietNow s).queues = s.queues := rfl
@[simp] theorem quietNow_eng : (quietNow s).eng = s.eng := rfl
@[simp] theorem quietNow_plain : (quietNow s).plain = s.plain := rfl
@[simp] theorem quietNow_pool : (quietNow s).pool = s.pool := rfl
@[simp] theorem quietNow_link : (quietNow s).link = s.link := rfl
@[simp] theorem quietNow_host : (quietNow s).host = s.host := rfl
@[simp] theorem quietNow_bw : (quietNow s).bw = s.bw := rfl
@[simp] theorem quietNow_ras : (quietNow s).ras = s.ras := rfl
@[simp] theorem quietNow_diag : (quietNow s).diag = s.diag := rfl

end quietNow

section leaveSleep

variable (s : State)

@[simp] theorem leaveSleep_pending : (leaveSleep s).pending = s.pending := rfl
@[simp] theorem leaveSleep_free : (leaveSleep s).free = s.free := rfl
@[simp] theorem leaveSleep_out : (leaveSleep s).out = s.out := rfl
@[simp] theorem leaveSleep_now : (leaveSleep s).now = s.now := rfl
@[simp] theorem leaveSleep_ident : (leaveSleep s).ident = s.ident := rfl
@[simp] theorem leaveSleep_pins : (leaveSleep s).pins = s.pins := rfl
@[simp] theorem leaveSleep_boot : (leaveSleep s).boot = s.boot := rfl
@[simp] theorem leaveSleep_flash : (leaveSleep s).flash = s.flash := rfl
@[simp] theorem leaveSleep_sec : (leaveSleep s).sec = s.sec := rfl
@[simp] theorem leaveSleep_fw : (leaveSleep s).fw = s.fw := rfl
@[simp] theorem leaveSleep_cp : (leaveSleep s).cp = s.cp := rfl
@[simp] theorem leaveSleep_tenants : (leaveSleep s).tenants = s.tenants := rfl
@[simp] theorem leaveSleep_masters : (leaveSleep s).masters = s.masters := rfl
@[simp] theorem leaveSleep_mem : (leaveSleep s).mem = s.mem := rfl
@[simp] theorem leaveSleep_regions : (leaveSleep s).regions = s.regions := rfl
@[simp] theorem leaveSleep_zeroing : (leaveSleep s).zeroing = s.zeroing := rfl
@[simp] theorem leaveSleep_halves : (leaveSleep s).halves = s.halves := rfl
@[simp] theorem leaveSleep_tensors : (leaveSleep s).tensors = s.tensors := rfl
@[simp] theorem leaveSleep_nextTensor : (leaveSleep s).nextTensor = s.nextTensor := rfl
@[simp] theorem leaveSleep_acc : (leaveSleep s).acc = s.acc := rfl
@[simp] theorem leaveSleep_kvs : (leaveSleep s).kvs = s.kvs := rfl
@[simp] theorem leaveSleep_kvGen : (leaveSleep s).kvGen = s.kvGen := rfl
@[simp] theorem leaveSleep_volumes : (leaveSleep s).volumes = s.volumes := rfl
@[simp] theorem leaveSleep_nextVolume : (leaveSleep s).nextVolume = s.nextVolume := rfl
@[simp] theorem leaveSleep_queues : (leaveSleep s).queues = s.queues := rfl
@[simp] theorem leaveSleep_eng : (leaveSleep s).eng = s.eng := rfl
@[simp] theorem leaveSleep_plain : (leaveSleep s).plain = s.plain := rfl
@[simp] theorem leaveSleep_pool : (leaveSleep s).pool = s.pool := rfl
@[simp] theorem leaveSleep_link : (leaveSleep s).link = s.link := rfl
@[simp] theorem leaveSleep_host : (leaveSleep s).host = s.host := rfl
@[simp] theorem leaveSleep_bw : (leaveSleep s).bw = s.bw := rfl
@[simp] theorem leaveSleep_ras : (leaveSleep s).ras = s.ras := rfl
@[simp] theorem leaveSleep_diag : (leaveSleep s).diag = s.diag := rfl

end leaveSleep

section powerMod

variable (s : State) (f : Power → Power)

@[simp] theorem powerMod_pending : (powerMod s f).pending = s.pending := rfl
@[simp] theorem powerMod_free : (powerMod s f).free = s.free := rfl
@[simp] theorem powerMod_out : (powerMod s f).out = s.out := rfl
@[simp] theorem powerMod_now : (powerMod s f).now = s.now := rfl
@[simp] theorem powerMod_ident : (powerMod s f).ident = s.ident := rfl
@[simp] theorem powerMod_pins : (powerMod s f).pins = s.pins := rfl
@[simp] theorem powerMod_boot : (powerMod s f).boot = s.boot := rfl
@[simp] theorem powerMod_flash : (powerMod s f).flash = s.flash := rfl
@[simp] theorem powerMod_sec : (powerMod s f).sec = s.sec := rfl
@[simp] theorem powerMod_fw : (powerMod s f).fw = s.fw := rfl
@[simp] theorem powerMod_cp : (powerMod s f).cp = s.cp := rfl
@[simp] theorem powerMod_tenants : (powerMod s f).tenants = s.tenants := rfl
@[simp] theorem powerMod_masters : (powerMod s f).masters = s.masters := rfl
@[simp] theorem powerMod_mem : (powerMod s f).mem = s.mem := rfl
@[simp] theorem powerMod_regions : (powerMod s f).regions = s.regions := rfl
@[simp] theorem powerMod_zeroing : (powerMod s f).zeroing = s.zeroing := rfl
@[simp] theorem powerMod_halves : (powerMod s f).halves = s.halves := rfl
@[simp] theorem powerMod_tensors : (powerMod s f).tensors = s.tensors := rfl
@[simp] theorem powerMod_nextTensor : (powerMod s f).nextTensor = s.nextTensor := rfl
@[simp] theorem powerMod_acc : (powerMod s f).acc = s.acc := rfl
@[simp] theorem powerMod_kvs : (powerMod s f).kvs = s.kvs := rfl
@[simp] theorem powerMod_kvGen : (powerMod s f).kvGen = s.kvGen := rfl
@[simp] theorem powerMod_volumes : (powerMod s f).volumes = s.volumes := rfl
@[simp] theorem powerMod_nextVolume : (powerMod s f).nextVolume = s.nextVolume := rfl
@[simp] theorem powerMod_queues : (powerMod s f).queues = s.queues := rfl
@[simp] theorem powerMod_eng : (powerMod s f).eng = s.eng := rfl
@[simp] theorem powerMod_plain : (powerMod s f).plain = s.plain := rfl
@[simp] theorem powerMod_pool : (powerMod s f).pool = s.pool := rfl
@[simp] theorem powerMod_link : (powerMod s f).link = s.link := rfl
@[simp] theorem powerMod_host : (powerMod s f).host = s.host := rfl
@[simp] theorem powerMod_bw : (powerMod s f).bw = s.bw := rfl
@[simp] theorem powerMod_ras : (powerMod s f).ras = s.ras := rfl
@[simp] theorem powerMod_diag : (powerMod s f).diag = s.diag := rfl

end powerMod

section carrelMod

variable (s : State) (n : Nat) (f : Carrel → Carrel)

@[simp] theorem carrelMod_pending : (carrelMod s n f).pending = s.pending := rfl
@[simp] theorem carrelMod_free : (carrelMod s n f).free = s.free := rfl
@[simp] theorem carrelMod_out : (carrelMod s n f).out = s.out := rfl
@[simp] theorem carrelMod_now : (carrelMod s n f).now = s.now := rfl
@[simp] theorem carrelMod_ident : (carrelMod s n f).ident = s.ident := rfl
@[simp] theorem carrelMod_pins : (carrelMod s n f).pins = s.pins := rfl
@[simp] theorem carrelMod_boot : (carrelMod s n f).boot = s.boot := rfl
@[simp] theorem carrelMod_power : (carrelMod s n f).power = s.power := rfl
@[simp] theorem carrelMod_flash : (carrelMod s n f).flash = s.flash := rfl
@[simp] theorem carrelMod_sec : (carrelMod s n f).sec = s.sec := rfl
@[simp] theorem carrelMod_fw : (carrelMod s n f).fw = s.fw := rfl
@[simp] theorem carrelMod_tenants : (carrelMod s n f).tenants = s.tenants := rfl
@[simp] theorem carrelMod_masters : (carrelMod s n f).masters = s.masters := rfl
@[simp] theorem carrelMod_mem : (carrelMod s n f).mem = s.mem := rfl
@[simp] theorem carrelMod_regions : (carrelMod s n f).regions = s.regions := rfl
@[simp] theorem carrelMod_zeroing : (carrelMod s n f).zeroing = s.zeroing := rfl
@[simp] theorem carrelMod_halves : (carrelMod s n f).halves = s.halves := rfl
@[simp] theorem carrelMod_tensors : (carrelMod s n f).tensors = s.tensors := rfl
@[simp] theorem carrelMod_nextTensor : (carrelMod s n f).nextTensor = s.nextTensor := rfl
@[simp] theorem carrelMod_acc : (carrelMod s n f).acc = s.acc := rfl
@[simp] theorem carrelMod_kvs : (carrelMod s n f).kvs = s.kvs := rfl
@[simp] theorem carrelMod_kvGen : (carrelMod s n f).kvGen = s.kvGen := rfl
@[simp] theorem carrelMod_volumes : (carrelMod s n f).volumes = s.volumes := rfl
@[simp] theorem carrelMod_nextVolume : (carrelMod s n f).nextVolume = s.nextVolume := rfl
@[simp] theorem carrelMod_queues : (carrelMod s n f).queues = s.queues := rfl
@[simp] theorem carrelMod_eng : (carrelMod s n f).eng = s.eng := rfl
@[simp] theorem carrelMod_plain : (carrelMod s n f).plain = s.plain := rfl
@[simp] theorem carrelMod_pool : (carrelMod s n f).pool = s.pool := rfl
@[simp] theorem carrelMod_link : (carrelMod s n f).link = s.link := rfl
@[simp] theorem carrelMod_host : (carrelMod s n f).host = s.host := rfl
@[simp] theorem carrelMod_bw : (carrelMod s n f).bw = s.bw := rfl
@[simp] theorem carrelMod_ras : (carrelMod s n f).ras = s.ras := rfl
@[simp] theorem carrelMod_diag : (carrelMod s n f).diag = s.diag := rfl

end carrelMod

section cmdWait

variable (s : State) (src : DeskSrc)

@[simp] theorem cmdWait_pending : (cmdWait s src).pending = s.pending := rfl
@[simp] theorem cmdWait_free : (cmdWait s src).free = s.free := rfl
@[simp] theorem cmdWait_out : (cmdWait s src).out = s.out := rfl
@[simp] theorem cmdWait_now : (cmdWait s src).now = s.now := rfl
@[simp] theorem cmdWait_ident : (cmdWait s src).ident = s.ident := rfl
@[simp] theorem cmdWait_pins : (cmdWait s src).pins = s.pins := rfl
@[simp] theorem cmdWait_boot : (cmdWait s src).boot = s.boot := rfl
@[simp] theorem cmdWait_power : (cmdWait s src).power = s.power := rfl
@[simp] theorem cmdWait_flash : (cmdWait s src).flash = s.flash := rfl
@[simp] theorem cmdWait_sec : (cmdWait s src).sec = s.sec := rfl
@[simp] theorem cmdWait_fw : (cmdWait s src).fw = s.fw := rfl
@[simp] theorem cmdWait_tenants : (cmdWait s src).tenants = s.tenants := rfl
@[simp] theorem cmdWait_masters : (cmdWait s src).masters = s.masters := rfl
@[simp] theorem cmdWait_mem : (cmdWait s src).mem = s.mem := rfl
@[simp] theorem cmdWait_regions : (cmdWait s src).regions = s.regions := rfl
@[simp] theorem cmdWait_zeroing : (cmdWait s src).zeroing = s.zeroing := rfl
@[simp] theorem cmdWait_halves : (cmdWait s src).halves = s.halves := rfl
@[simp] theorem cmdWait_tensors : (cmdWait s src).tensors = s.tensors := rfl
@[simp] theorem cmdWait_nextTensor : (cmdWait s src).nextTensor = s.nextTensor := rfl
@[simp] theorem cmdWait_acc : (cmdWait s src).acc = s.acc := rfl
@[simp] theorem cmdWait_kvs : (cmdWait s src).kvs = s.kvs := rfl
@[simp] theorem cmdWait_kvGen : (cmdWait s src).kvGen = s.kvGen := rfl
@[simp] theorem cmdWait_volumes : (cmdWait s src).volumes = s.volumes := rfl
@[simp] theorem cmdWait_nextVolume : (cmdWait s src).nextVolume = s.nextVolume := rfl
@[simp] theorem cmdWait_queues : (cmdWait s src).queues = s.queues := rfl
@[simp] theorem cmdWait_eng : (cmdWait s src).eng = s.eng := rfl
@[simp] theorem cmdWait_plain : (cmdWait s src).plain = s.plain := rfl
@[simp] theorem cmdWait_pool : (cmdWait s src).pool = s.pool := rfl
@[simp] theorem cmdWait_link : (cmdWait s src).link = s.link := rfl
@[simp] theorem cmdWait_host : (cmdWait s src).host = s.host := rfl
@[simp] theorem cmdWait_bw : (cmdWait s src).bw = s.bw := rfl
@[simp] theorem cmdWait_ras : (cmdWait s src).ras = s.ras := rfl
@[simp] theorem cmdWait_diag : (cmdWait s src).diag = s.diag := rfl

end cmdWait

section cmdDrop

variable (s : State) (src : DeskSrc)

@[simp] theorem cmdDrop_pending : (cmdDrop s src).pending = s.pending := rfl
@[simp] theorem cmdDrop_free : (cmdDrop s src).free = s.free := rfl
@[simp] theorem cmdDrop_out : (cmdDrop s src).out = s.out := rfl
@[simp] theorem cmdDrop_now : (cmdDrop s src).now = s.now := rfl
@[simp] theorem cmdDrop_ident : (cmdDrop s src).ident = s.ident := rfl
@[simp] theorem cmdDrop_pins : (cmdDrop s src).pins = s.pins := rfl
@[simp] theorem cmdDrop_boot : (cmdDrop s src).boot = s.boot := rfl
@[simp] theorem cmdDrop_power : (cmdDrop s src).power = s.power := rfl
@[simp] theorem cmdDrop_flash : (cmdDrop s src).flash = s.flash := rfl
@[simp] theorem cmdDrop_sec : (cmdDrop s src).sec = s.sec := rfl
@[simp] theorem cmdDrop_fw : (cmdDrop s src).fw = s.fw := rfl
@[simp] theorem cmdDrop_tenants : (cmdDrop s src).tenants = s.tenants := rfl
@[simp] theorem cmdDrop_masters : (cmdDrop s src).masters = s.masters := rfl
@[simp] theorem cmdDrop_mem : (cmdDrop s src).mem = s.mem := rfl
@[simp] theorem cmdDrop_regions : (cmdDrop s src).regions = s.regions := rfl
@[simp] theorem cmdDrop_zeroing : (cmdDrop s src).zeroing = s.zeroing := rfl
@[simp] theorem cmdDrop_halves : (cmdDrop s src).halves = s.halves := rfl
@[simp] theorem cmdDrop_tensors : (cmdDrop s src).tensors = s.tensors := rfl
@[simp] theorem cmdDrop_nextTensor : (cmdDrop s src).nextTensor = s.nextTensor := rfl
@[simp] theorem cmdDrop_acc : (cmdDrop s src).acc = s.acc := rfl
@[simp] theorem cmdDrop_kvs : (cmdDrop s src).kvs = s.kvs := rfl
@[simp] theorem cmdDrop_kvGen : (cmdDrop s src).kvGen = s.kvGen := rfl
@[simp] theorem cmdDrop_volumes : (cmdDrop s src).volumes = s.volumes := rfl
@[simp] theorem cmdDrop_nextVolume : (cmdDrop s src).nextVolume = s.nextVolume := rfl
@[simp] theorem cmdDrop_queues : (cmdDrop s src).queues = s.queues := rfl
@[simp] theorem cmdDrop_eng : (cmdDrop s src).eng = s.eng := rfl
@[simp] theorem cmdDrop_plain : (cmdDrop s src).plain = s.plain := rfl
@[simp] theorem cmdDrop_pool : (cmdDrop s src).pool = s.pool := rfl
@[simp] theorem cmdDrop_link : (cmdDrop s src).link = s.link := rfl
@[simp] theorem cmdDrop_host : (cmdDrop s src).host = s.host := rfl
@[simp] theorem cmdDrop_bw : (cmdDrop s src).bw = s.bw := rfl
@[simp] theorem cmdDrop_ras : (cmdDrop s src).ras = s.ras := rfl
@[simp] theorem cmdDrop_diag : (cmdDrop s src).diag = s.diag := rfl

end cmdDrop

section portMod

variable (s : State) (p : Nat) (f : Port → Port)

@[simp] theorem portMod_pending : (portMod s p f).pending = s.pending := rfl
@[simp] theorem portMod_free : (portMod s p f).free = s.free := rfl
@[simp] theorem portMod_out : (portMod s p f).out = s.out := rfl
@[simp] theorem portMod_now : (portMod s p f).now = s.now := rfl
@[simp] theorem portMod_ident : (portMod s p f).ident = s.ident := rfl
@[simp] theorem portMod_pins : (portMod s p f).pins = s.pins := rfl
@[simp] theorem portMod_boot : (portMod s p f).boot = s.boot := rfl
@[simp] theorem portMod_power : (portMod s p f).power = s.power := rfl
@[simp] theorem portMod_flash : (portMod s p f).flash = s.flash := rfl
@[simp] theorem portMod_sec : (portMod s p f).sec = s.sec := rfl
@[simp] theorem portMod_fw : (portMod s p f).fw = s.fw := rfl
@[simp] theorem portMod_cp : (portMod s p f).cp = s.cp := rfl
@[simp] theorem portMod_tenants : (portMod s p f).tenants = s.tenants := rfl
@[simp] theorem portMod_masters : (portMod s p f).masters = s.masters := rfl
@[simp] theorem portMod_mem : (portMod s p f).mem = s.mem := rfl
@[simp] theorem portMod_regions : (portMod s p f).regions = s.regions := rfl
@[simp] theorem portMod_zeroing : (portMod s p f).zeroing = s.zeroing := rfl
@[simp] theorem portMod_halves : (portMod s p f).halves = s.halves := rfl
@[simp] theorem portMod_tensors : (portMod s p f).tensors = s.tensors := rfl
@[simp] theorem portMod_nextTensor : (portMod s p f).nextTensor = s.nextTensor := rfl
@[simp] theorem portMod_acc : (portMod s p f).acc = s.acc := rfl
@[simp] theorem portMod_kvs : (portMod s p f).kvs = s.kvs := rfl
@[simp] theorem portMod_kvGen : (portMod s p f).kvGen = s.kvGen := rfl
@[simp] theorem portMod_volumes : (portMod s p f).volumes = s.volumes := rfl
@[simp] theorem portMod_nextVolume : (portMod s p f).nextVolume = s.nextVolume := rfl
@[simp] theorem portMod_queues : (portMod s p f).queues = s.queues := rfl
@[simp] theorem portMod_eng : (portMod s p f).eng = s.eng := rfl
@[simp] theorem portMod_plain : (portMod s p f).plain = s.plain := rfl
@[simp] theorem portMod_pool : (portMod s p f).pool = s.pool := rfl
@[simp] theorem portMod_host : (portMod s p f).host = s.host := rfl
@[simp] theorem portMod_bw : (portMod s p f).bw = s.bw := rfl
@[simp] theorem portMod_ras : (portMod s p f).ras = s.ras := rfl
@[simp] theorem portMod_diag : (portMod s p f).diag = s.diag := rfl

end portMod

section sessMod

variable (s : State) (k : Nat × Nat) (f : Session → Session)

@[simp] theorem sessMod_pending : (sessMod s k f).pending = s.pending := rfl
@[simp] theorem sessMod_free : (sessMod s k f).free = s.free := rfl
@[simp] theorem sessMod_out : (sessMod s k f).out = s.out := rfl
@[simp] theorem sessMod_now : (sessMod s k f).now = s.now := rfl
@[simp] theorem sessMod_ident : (sessMod s k f).ident = s.ident := rfl
@[simp] theorem sessMod_pins : (sessMod s k f).pins = s.pins := rfl
@[simp] theorem sessMod_boot : (sessMod s k f).boot = s.boot := rfl
@[simp] theorem sessMod_power : (sessMod s k f).power = s.power := rfl
@[simp] theorem sessMod_flash : (sessMod s k f).flash = s.flash := rfl
@[simp] theorem sessMod_sec : (sessMod s k f).sec = s.sec := rfl
@[simp] theorem sessMod_fw : (sessMod s k f).fw = s.fw := rfl
@[simp] theorem sessMod_cp : (sessMod s k f).cp = s.cp := rfl
@[simp] theorem sessMod_tenants : (sessMod s k f).tenants = s.tenants := rfl
@[simp] theorem sessMod_masters : (sessMod s k f).masters = s.masters := rfl
@[simp] theorem sessMod_mem : (sessMod s k f).mem = s.mem := rfl
@[simp] theorem sessMod_regions : (sessMod s k f).regions = s.regions := rfl
@[simp] theorem sessMod_zeroing : (sessMod s k f).zeroing = s.zeroing := rfl
@[simp] theorem sessMod_halves : (sessMod s k f).halves = s.halves := rfl
@[simp] theorem sessMod_tensors : (sessMod s k f).tensors = s.tensors := rfl
@[simp] theorem sessMod_nextTensor : (sessMod s k f).nextTensor = s.nextTensor := rfl
@[simp] theorem sessMod_acc : (sessMod s k f).acc = s.acc := rfl
@[simp] theorem sessMod_kvs : (sessMod s k f).kvs = s.kvs := rfl
@[simp] theorem sessMod_kvGen : (sessMod s k f).kvGen = s.kvGen := rfl
@[simp] theorem sessMod_volumes : (sessMod s k f).volumes = s.volumes := rfl
@[simp] theorem sessMod_nextVolume : (sessMod s k f).nextVolume = s.nextVolume := rfl
@[simp] theorem sessMod_queues : (sessMod s k f).queues = s.queues := rfl
@[simp] theorem sessMod_eng : (sessMod s k f).eng = s.eng := rfl
@[simp] theorem sessMod_plain : (sessMod s k f).plain = s.plain := rfl
@[simp] theorem sessMod_pool : (sessMod s k f).pool = s.pool := rfl
@[simp] theorem sessMod_host : (sessMod s k f).host = s.host := rfl
@[simp] theorem sessMod_bw : (sessMod s k f).bw = s.bw := rfl
@[simp] theorem sessMod_ras : (sessMod s k f).ras = s.ras := rfl
@[simp] theorem sessMod_diag : (sessMod s k f).diag = s.diag := rfl

end sessMod

section hostLinkMod

variable (s : State) (l : Nat) (f : HostLink → HostLink)

@[simp] theorem hostLinkMod_pending : (hostLinkMod s l f).pending = s.pending := rfl
@[simp] theorem hostLinkMod_free : (hostLinkMod s l f).free = s.free := rfl
@[simp] theorem hostLinkMod_out : (hostLinkMod s l f).out = s.out := rfl
@[simp] theorem hostLinkMod_now : (hostLinkMod s l f).now = s.now := rfl
@[simp] theorem hostLinkMod_ident : (hostLinkMod s l f).ident = s.ident := rfl
@[simp] theorem hostLinkMod_pins : (hostLinkMod s l f).pins = s.pins := rfl
@[simp] theorem hostLinkMod_boot : (hostLinkMod s l f).boot = s.boot := rfl
@[simp] theorem hostLinkMod_power : (hostLinkMod s l f).power = s.power := rfl
@[simp] theorem hostLinkMod_flash : (hostLinkMod s l f).flash = s.flash := rfl
@[simp] theorem hostLinkMod_sec : (hostLinkMod s l f).sec = s.sec := rfl
@[simp] theorem hostLinkMod_fw : (hostLinkMod s l f).fw = s.fw := rfl
@[simp] theorem hostLinkMod_cp : (hostLinkMod s l f).cp = s.cp := rfl
@[simp] theorem hostLinkMod_tenants : (hostLinkMod s l f).tenants = s.tenants := rfl
@[simp] theorem hostLinkMod_masters : (hostLinkMod s l f).masters = s.masters := rfl
@[simp] theorem hostLinkMod_mem : (hostLinkMod s l f).mem = s.mem := rfl
@[simp] theorem hostLinkMod_regions : (hostLinkMod s l f).regions = s.regions := rfl
@[simp] theorem hostLinkMod_zeroing : (hostLinkMod s l f).zeroing = s.zeroing := rfl
@[simp] theorem hostLinkMod_halves : (hostLinkMod s l f).halves = s.halves := rfl
@[simp] theorem hostLinkMod_tensors : (hostLinkMod s l f).tensors = s.tensors := rfl
@[simp] theorem hostLinkMod_nextTensor : (hostLinkMod s l f).nextTensor = s.nextTensor := rfl
@[simp] theorem hostLinkMod_acc : (hostLinkMod s l f).acc = s.acc := rfl
@[simp] theorem hostLinkMod_kvs : (hostLinkMod s l f).kvs = s.kvs := rfl
@[simp] theorem hostLinkMod_kvGen : (hostLinkMod s l f).kvGen = s.kvGen := rfl
@[simp] theorem hostLinkMod_volumes : (hostLinkMod s l f).volumes = s.volumes := rfl
@[simp] theorem hostLinkMod_nextVolume : (hostLinkMod s l f).nextVolume = s.nextVolume := rfl
@[simp] theorem hostLinkMod_queues : (hostLinkMod s l f).queues = s.queues := rfl
@[simp] theorem hostLinkMod_eng : (hostLinkMod s l f).eng = s.eng := rfl
@[simp] theorem hostLinkMod_plain : (hostLinkMod s l f).plain = s.plain := rfl
@[simp] theorem hostLinkMod_pool : (hostLinkMod s l f).pool = s.pool := rfl
@[simp] theorem hostLinkMod_link : (hostLinkMod s l f).link = s.link := rfl
@[simp] theorem hostLinkMod_bw : (hostLinkMod s l f).bw = s.bw := rfl
@[simp] theorem hostLinkMod_ras : (hostLinkMod s l f).ras = s.ras := rfl
@[simp] theorem hostLinkMod_diag : (hostLinkMod s l f).diag = s.diag := rfl

end hostLinkMod

section bwMod

variable (s : State) (r c : Nat) (f : BwCell → BwCell)

@[simp] theorem bwMod_pending : (bwMod s r c f).pending = s.pending := rfl
@[simp] theorem bwMod_free : (bwMod s r c f).free = s.free := rfl
@[simp] theorem bwMod_out : (bwMod s r c f).out = s.out := rfl
@[simp] theorem bwMod_now : (bwMod s r c f).now = s.now := rfl
@[simp] theorem bwMod_ident : (bwMod s r c f).ident = s.ident := rfl
@[simp] theorem bwMod_pins : (bwMod s r c f).pins = s.pins := rfl
@[simp] theorem bwMod_boot : (bwMod s r c f).boot = s.boot := rfl
@[simp] theorem bwMod_power : (bwMod s r c f).power = s.power := rfl
@[simp] theorem bwMod_flash : (bwMod s r c f).flash = s.flash := rfl
@[simp] theorem bwMod_sec : (bwMod s r c f).sec = s.sec := rfl
@[simp] theorem bwMod_fw : (bwMod s r c f).fw = s.fw := rfl
@[simp] theorem bwMod_cp : (bwMod s r c f).cp = s.cp := rfl
@[simp] theorem bwMod_tenants : (bwMod s r c f).tenants = s.tenants := rfl
@[simp] theorem bwMod_masters : (bwMod s r c f).masters = s.masters := rfl
@[simp] theorem bwMod_mem : (bwMod s r c f).mem = s.mem := rfl
@[simp] theorem bwMod_regions : (bwMod s r c f).regions = s.regions := rfl
@[simp] theorem bwMod_zeroing : (bwMod s r c f).zeroing = s.zeroing := rfl
@[simp] theorem bwMod_halves : (bwMod s r c f).halves = s.halves := rfl
@[simp] theorem bwMod_tensors : (bwMod s r c f).tensors = s.tensors := rfl
@[simp] theorem bwMod_nextTensor : (bwMod s r c f).nextTensor = s.nextTensor := rfl
@[simp] theorem bwMod_acc : (bwMod s r c f).acc = s.acc := rfl
@[simp] theorem bwMod_kvs : (bwMod s r c f).kvs = s.kvs := rfl
@[simp] theorem bwMod_kvGen : (bwMod s r c f).kvGen = s.kvGen := rfl
@[simp] theorem bwMod_volumes : (bwMod s r c f).volumes = s.volumes := rfl
@[simp] theorem bwMod_nextVolume : (bwMod s r c f).nextVolume = s.nextVolume := rfl
@[simp] theorem bwMod_queues : (bwMod s r c f).queues = s.queues := rfl
@[simp] theorem bwMod_eng : (bwMod s r c f).eng = s.eng := rfl
@[simp] theorem bwMod_plain : (bwMod s r c f).plain = s.plain := rfl
@[simp] theorem bwMod_pool : (bwMod s r c f).pool = s.pool := rfl
@[simp] theorem bwMod_link : (bwMod s r c f).link = s.link := rfl
@[simp] theorem bwMod_host : (bwMod s r c f).host = s.host := rfl
@[simp] theorem bwMod_ras : (bwMod s r c f).ras = s.ras := rfl
@[simp] theorem bwMod_diag : (bwMod s r c f).diag = s.diag := rfl

end bwMod

section binderyMod

variable (s : State) (h : Half) (f : List BinderyEntry → List BinderyEntry)

@[simp] theorem binderyMod_pending : (binderyMod s h f).pending = s.pending := rfl
@[simp] theorem binderyMod_free : (binderyMod s h f).free = s.free := rfl
@[simp] theorem binderyMod_out : (binderyMod s h f).out = s.out := rfl
@[simp] theorem binderyMod_now : (binderyMod s h f).now = s.now := rfl
@[simp] theorem binderyMod_ident : (binderyMod s h f).ident = s.ident := rfl
@[simp] theorem binderyMod_pins : (binderyMod s h f).pins = s.pins := rfl
@[simp] theorem binderyMod_boot : (binderyMod s h f).boot = s.boot := rfl
@[simp] theorem binderyMod_power : (binderyMod s h f).power = s.power := rfl
@[simp] theorem binderyMod_flash : (binderyMod s h f).flash = s.flash := rfl
@[simp] theorem binderyMod_sec : (binderyMod s h f).sec = s.sec := rfl
@[simp] theorem binderyMod_fw : (binderyMod s h f).fw = s.fw := rfl
@[simp] theorem binderyMod_cp : (binderyMod s h f).cp = s.cp := rfl
@[simp] theorem binderyMod_tenants : (binderyMod s h f).tenants = s.tenants := rfl
@[simp] theorem binderyMod_masters : (binderyMod s h f).masters = s.masters := rfl
@[simp] theorem binderyMod_mem : (binderyMod s h f).mem = s.mem := rfl
@[simp] theorem binderyMod_regions : (binderyMod s h f).regions = s.regions := rfl
@[simp] theorem binderyMod_zeroing : (binderyMod s h f).zeroing = s.zeroing := rfl
@[simp] theorem binderyMod_halves : (binderyMod s h f).halves = s.halves := rfl
@[simp] theorem binderyMod_tensors : (binderyMod s h f).tensors = s.tensors := rfl
@[simp] theorem binderyMod_nextTensor : (binderyMod s h f).nextTensor = s.nextTensor := rfl
@[simp] theorem binderyMod_acc : (binderyMod s h f).acc = s.acc := rfl
@[simp] theorem binderyMod_kvs : (binderyMod s h f).kvs = s.kvs := rfl
@[simp] theorem binderyMod_kvGen : (binderyMod s h f).kvGen = s.kvGen := rfl
@[simp] theorem binderyMod_volumes : (binderyMod s h f).volumes = s.volumes := rfl
@[simp] theorem binderyMod_nextVolume : (binderyMod s h f).nextVolume = s.nextVolume := rfl
@[simp] theorem binderyMod_queues : (binderyMod s h f).queues = s.queues := rfl
@[simp] theorem binderyMod_eng : (binderyMod s h f).eng = s.eng := rfl
@[simp] theorem binderyMod_pool : (binderyMod s h f).pool = s.pool := rfl
@[simp] theorem binderyMod_link : (binderyMod s h f).link = s.link := rfl
@[simp] theorem binderyMod_host : (binderyMod s h f).host = s.host := rfl
@[simp] theorem binderyMod_bw : (binderyMod s h f).bw = s.bw := rfl
@[simp] theorem binderyMod_ras : (binderyMod s h f).ras = s.ras := rfl
@[simp] theorem binderyMod_diag : (binderyMod s h f).diag = s.diag := rfl

end binderyMod

section grantMod

variable (s : State) (g : Nat) (f : Grant → Grant)

@[simp] theorem grantMod_pending : (grantMod s g f).pending = s.pending := rfl
@[simp] theorem grantMod_free : (grantMod s g f).free = s.free := rfl
@[simp] theorem grantMod_out : (grantMod s g f).out = s.out := rfl
@[simp] theorem grantMod_now : (grantMod s g f).now = s.now := rfl
@[simp] theorem grantMod_ident : (grantMod s g f).ident = s.ident := rfl
@[simp] theorem grantMod_pins : (grantMod s g f).pins = s.pins := rfl
@[simp] theorem grantMod_boot : (grantMod s g f).boot = s.boot := rfl
@[simp] theorem grantMod_power : (grantMod s g f).power = s.power := rfl
@[simp] theorem grantMod_flash : (grantMod s g f).flash = s.flash := rfl
@[simp] theorem grantMod_sec : (grantMod s g f).sec = s.sec := rfl
@[simp] theorem grantMod_fw : (grantMod s g f).fw = s.fw := rfl
@[simp] theorem grantMod_cp : (grantMod s g f).cp = s.cp := rfl
@[simp] theorem grantMod_tenants : (grantMod s g f).tenants = s.tenants := rfl
@[simp] theorem grantMod_masters : (grantMod s g f).masters = s.masters := rfl
@[simp] theorem grantMod_mem : (grantMod s g f).mem = s.mem := rfl
@[simp] theorem grantMod_regions : (grantMod s g f).regions = s.regions := rfl
@[simp] theorem grantMod_zeroing : (grantMod s g f).zeroing = s.zeroing := rfl
@[simp] theorem grantMod_halves : (grantMod s g f).halves = s.halves := rfl
@[simp] theorem grantMod_tensors : (grantMod s g f).tensors = s.tensors := rfl
@[simp] theorem grantMod_nextTensor : (grantMod s g f).nextTensor = s.nextTensor := rfl
@[simp] theorem grantMod_acc : (grantMod s g f).acc = s.acc := rfl
@[simp] theorem grantMod_kvs : (grantMod s g f).kvs = s.kvs := rfl
@[simp] theorem grantMod_kvGen : (grantMod s g f).kvGen = s.kvGen := rfl
@[simp] theorem grantMod_volumes : (grantMod s g f).volumes = s.volumes := rfl
@[simp] theorem grantMod_nextVolume : (grantMod s g f).nextVolume = s.nextVolume := rfl
@[simp] theorem grantMod_queues : (grantMod s g f).queues = s.queues := rfl
@[simp] theorem grantMod_eng : (grantMod s g f).eng = s.eng := rfl
@[simp] theorem grantMod_plain : (grantMod s g f).plain = s.plain := rfl
@[simp] theorem grantMod_link : (grantMod s g f).link = s.link := rfl
@[simp] theorem grantMod_host : (grantMod s g f).host = s.host := rfl
@[simp] theorem grantMod_bw : (grantMod s g f).bw = s.bw := rfl
@[simp] theorem grantMod_ras : (grantMod s g f).ras = s.ras := rfl
@[simp] theorem grantMod_diag : (grantMod s g f).diag = s.diag := rfl

end grantMod

section winMod

variable (s : State) (n : Nat) (f : WeightWin → WeightWin)

@[simp] theorem winMod_pending : (winMod s n f).pending = s.pending := rfl
@[simp] theorem winMod_free : (winMod s n f).free = s.free := rfl
@[simp] theorem winMod_out : (winMod s n f).out = s.out := rfl
@[simp] theorem winMod_now : (winMod s n f).now = s.now := rfl
@[simp] theorem winMod_ident : (winMod s n f).ident = s.ident := rfl
@[simp] theorem winMod_pins : (winMod s n f).pins = s.pins := rfl
@[simp] theorem winMod_boot : (winMod s n f).boot = s.boot := rfl
@[simp] theorem winMod_power : (winMod s n f).power = s.power := rfl
@[simp] theorem winMod_flash : (winMod s n f).flash = s.flash := rfl
@[simp] theorem winMod_sec : (winMod s n f).sec = s.sec := rfl
@[simp] theorem winMod_fw : (winMod s n f).fw = s.fw := rfl
@[simp] theorem winMod_cp : (winMod s n f).cp = s.cp := rfl
@[simp] theorem winMod_tenants : (winMod s n f).tenants = s.tenants := rfl
@[simp] theorem winMod_masters : (winMod s n f).masters = s.masters := rfl
@[simp] theorem winMod_mem : (winMod s n f).mem = s.mem := rfl
@[simp] theorem winMod_regions : (winMod s n f).regions = s.regions := rfl
@[simp] theorem winMod_zeroing : (winMod s n f).zeroing = s.zeroing := rfl
@[simp] theorem winMod_halves : (winMod s n f).halves = s.halves := rfl
@[simp] theorem winMod_tensors : (winMod s n f).tensors = s.tensors := rfl
@[simp] theorem winMod_nextTensor : (winMod s n f).nextTensor = s.nextTensor := rfl
@[simp] theorem winMod_acc : (winMod s n f).acc = s.acc := rfl
@[simp] theorem winMod_kvs : (winMod s n f).kvs = s.kvs := rfl
@[simp] theorem winMod_kvGen : (winMod s n f).kvGen = s.kvGen := rfl
@[simp] theorem winMod_volumes : (winMod s n f).volumes = s.volumes := rfl
@[simp] theorem winMod_nextVolume : (winMod s n f).nextVolume = s.nextVolume := rfl
@[simp] theorem winMod_queues : (winMod s n f).queues = s.queues := rfl
@[simp] theorem winMod_eng : (winMod s n f).eng = s.eng := rfl
@[simp] theorem winMod_pool : (winMod s n f).pool = s.pool := rfl
@[simp] theorem winMod_link : (winMod s n f).link = s.link := rfl
@[simp] theorem winMod_host : (winMod s n f).host = s.host := rfl
@[simp] theorem winMod_bw : (winMod s n f).bw = s.bw := rfl
@[simp] theorem winMod_ras : (winMod s n f).ras = s.ras := rfl
@[simp] theorem winMod_diag : (winMod s n f).diag = s.diag := rfl

end winMod

section tensorMod

variable (s : State) (id : Nat) (f : Tensor → Tensor)

@[simp] theorem tensorMod_pending : (tensorMod s id f).pending = s.pending := rfl
@[simp] theorem tensorMod_free : (tensorMod s id f).free = s.free := rfl
@[simp] theorem tensorMod_out : (tensorMod s id f).out = s.out := rfl
@[simp] theorem tensorMod_now : (tensorMod s id f).now = s.now := rfl
@[simp] theorem tensorMod_ident : (tensorMod s id f).ident = s.ident := rfl
@[simp] theorem tensorMod_pins : (tensorMod s id f).pins = s.pins := rfl
@[simp] theorem tensorMod_boot : (tensorMod s id f).boot = s.boot := rfl
@[simp] theorem tensorMod_power : (tensorMod s id f).power = s.power := rfl
@[simp] theorem tensorMod_flash : (tensorMod s id f).flash = s.flash := rfl
@[simp] theorem tensorMod_sec : (tensorMod s id f).sec = s.sec := rfl
@[simp] theorem tensorMod_fw : (tensorMod s id f).fw = s.fw := rfl
@[simp] theorem tensorMod_cp : (tensorMod s id f).cp = s.cp := rfl
@[simp] theorem tensorMod_tenants : (tensorMod s id f).tenants = s.tenants := rfl
@[simp] theorem tensorMod_masters : (tensorMod s id f).masters = s.masters := rfl
@[simp] theorem tensorMod_mem : (tensorMod s id f).mem = s.mem := rfl
@[simp] theorem tensorMod_regions : (tensorMod s id f).regions = s.regions := rfl
@[simp] theorem tensorMod_zeroing : (tensorMod s id f).zeroing = s.zeroing := rfl
@[simp] theorem tensorMod_halves : (tensorMod s id f).halves = s.halves := rfl
@[simp] theorem tensorMod_nextTensor : (tensorMod s id f).nextTensor = s.nextTensor := rfl
@[simp] theorem tensorMod_acc : (tensorMod s id f).acc = s.acc := rfl
@[simp] theorem tensorMod_kvs : (tensorMod s id f).kvs = s.kvs := rfl
@[simp] theorem tensorMod_kvGen : (tensorMod s id f).kvGen = s.kvGen := rfl
@[simp] theorem tensorMod_volumes : (tensorMod s id f).volumes = s.volumes := rfl
@[simp] theorem tensorMod_nextVolume : (tensorMod s id f).nextVolume = s.nextVolume := rfl
@[simp] theorem tensorMod_queues : (tensorMod s id f).queues = s.queues := rfl
@[simp] theorem tensorMod_eng : (tensorMod s id f).eng = s.eng := rfl
@[simp] theorem tensorMod_plain : (tensorMod s id f).plain = s.plain := rfl
@[simp] theorem tensorMod_pool : (tensorMod s id f).pool = s.pool := rfl
@[simp] theorem tensorMod_link : (tensorMod s id f).link = s.link := rfl
@[simp] theorem tensorMod_host : (tensorMod s id f).host = s.host := rfl
@[simp] theorem tensorMod_bw : (tensorMod s id f).bw = s.bw := rfl
@[simp] theorem tensorMod_ras : (tensorMod s id f).ras = s.ras := rfl
@[simp] theorem tensorMod_diag : (tensorMod s id f).diag = s.diag := rfl

end tensorMod

section kvMod

variable (s : State) (idx : Nat) (f : KvObj → KvObj)

@[simp] theorem kvMod_pending : (kvMod s idx f).pending = s.pending := rfl
@[simp] theorem kvMod_free : (kvMod s idx f).free = s.free := rfl
@[simp] theorem kvMod_out : (kvMod s idx f).out = s.out := rfl
@[simp] theorem kvMod_now : (kvMod s idx f).now = s.now := rfl
@[simp] theorem kvMod_ident : (kvMod s idx f).ident = s.ident := rfl
@[simp] theorem kvMod_pins : (kvMod s idx f).pins = s.pins := rfl
@[simp] theorem kvMod_boot : (kvMod s idx f).boot = s.boot := rfl
@[simp] theorem kvMod_power : (kvMod s idx f).power = s.power := rfl
@[simp] theorem kvMod_flash : (kvMod s idx f).flash = s.flash := rfl
@[simp] theorem kvMod_sec : (kvMod s idx f).sec = s.sec := rfl
@[simp] theorem kvMod_fw : (kvMod s idx f).fw = s.fw := rfl
@[simp] theorem kvMod_cp : (kvMod s idx f).cp = s.cp := rfl
@[simp] theorem kvMod_tenants : (kvMod s idx f).tenants = s.tenants := rfl
@[simp] theorem kvMod_masters : (kvMod s idx f).masters = s.masters := rfl
@[simp] theorem kvMod_mem : (kvMod s idx f).mem = s.mem := rfl
@[simp] theorem kvMod_regions : (kvMod s idx f).regions = s.regions := rfl
@[simp] theorem kvMod_zeroing : (kvMod s idx f).zeroing = s.zeroing := rfl
@[simp] theorem kvMod_halves : (kvMod s idx f).halves = s.halves := rfl
@[simp] theorem kvMod_tensors : (kvMod s idx f).tensors = s.tensors := rfl
@[simp] theorem kvMod_nextTensor : (kvMod s idx f).nextTensor = s.nextTensor := rfl
@[simp] theorem kvMod_acc : (kvMod s idx f).acc = s.acc := rfl
@[simp] theorem kvMod_kvGen : (kvMod s idx f).kvGen = s.kvGen := rfl
@[simp] theorem kvMod_volumes : (kvMod s idx f).volumes = s.volumes := rfl
@[simp] theorem kvMod_nextVolume : (kvMod s idx f).nextVolume = s.nextVolume := rfl
@[simp] theorem kvMod_queues : (kvMod s idx f).queues = s.queues := rfl
@[simp] theorem kvMod_eng : (kvMod s idx f).eng = s.eng := rfl
@[simp] theorem kvMod_plain : (kvMod s idx f).plain = s.plain := rfl
@[simp] theorem kvMod_pool : (kvMod s idx f).pool = s.pool := rfl
@[simp] theorem kvMod_link : (kvMod s idx f).link = s.link := rfl
@[simp] theorem kvMod_host : (kvMod s idx f).host = s.host := rfl
@[simp] theorem kvMod_bw : (kvMod s idx f).bw = s.bw := rfl
@[simp] theorem kvMod_ras : (kvMod s idx f).ras = s.ras := rfl
@[simp] theorem kvMod_diag : (kvMod s idx f).diag = s.diag := rfl

end kvMod

section ctxMod

variable (s : State) (n : Nat) (f : Ctx → Ctx)

@[simp] theorem ctxMod_pending : (ctxMod s n f).pending = s.pending := rfl
@[simp] theorem ctxMod_free : (ctxMod s n f).free = s.free := rfl
@[simp] theorem ctxMod_out : (ctxMod s n f).out = s.out := rfl
@[simp] theorem ctxMod_now : (ctxMod s n f).now = s.now := rfl
@[simp] theorem ctxMod_ident : (ctxMod s n f).ident = s.ident := rfl
@[simp] theorem ctxMod_pins : (ctxMod s n f).pins = s.pins := rfl
@[simp] theorem ctxMod_boot : (ctxMod s n f).boot = s.boot := rfl
@[simp] theorem ctxMod_power : (ctxMod s n f).power = s.power := rfl
@[simp] theorem ctxMod_flash : (ctxMod s n f).flash = s.flash := rfl
@[simp] theorem ctxMod_sec : (ctxMod s n f).sec = s.sec := rfl
@[simp] theorem ctxMod_fw : (ctxMod s n f).fw = s.fw := rfl
@[simp] theorem ctxMod_cp : (ctxMod s n f).cp = s.cp := rfl
@[simp] theorem ctxMod_tenants : (ctxMod s n f).tenants = s.tenants := rfl
@[simp] theorem ctxMod_masters : (ctxMod s n f).masters = s.masters := rfl
@[simp] theorem ctxMod_mem : (ctxMod s n f).mem = s.mem := rfl
@[simp] theorem ctxMod_regions : (ctxMod s n f).regions = s.regions := rfl
@[simp] theorem ctxMod_zeroing : (ctxMod s n f).zeroing = s.zeroing := rfl
@[simp] theorem ctxMod_halves : (ctxMod s n f).halves = s.halves := rfl
@[simp] theorem ctxMod_tensors : (ctxMod s n f).tensors = s.tensors := rfl
@[simp] theorem ctxMod_nextTensor : (ctxMod s n f).nextTensor = s.nextTensor := rfl
@[simp] theorem ctxMod_acc : (ctxMod s n f).acc = s.acc := rfl
@[simp] theorem ctxMod_kvs : (ctxMod s n f).kvs = s.kvs := rfl
@[simp] theorem ctxMod_kvGen : (ctxMod s n f).kvGen = s.kvGen := rfl
@[simp] theorem ctxMod_volumes : (ctxMod s n f).volumes = s.volumes := rfl
@[simp] theorem ctxMod_nextVolume : (ctxMod s n f).nextVolume = s.nextVolume := rfl
@[simp] theorem ctxMod_queues : (ctxMod s n f).queues = s.queues := rfl
@[simp] theorem ctxMod_plain : (ctxMod s n f).plain = s.plain := rfl
@[simp] theorem ctxMod_pool : (ctxMod s n f).pool = s.pool := rfl
@[simp] theorem ctxMod_link : (ctxMod s n f).link = s.link := rfl
@[simp] theorem ctxMod_host : (ctxMod s n f).host = s.host := rfl
@[simp] theorem ctxMod_bw : (ctxMod s n f).bw = s.bw := rfl
@[simp] theorem ctxMod_ras : (ctxMod s n f).ras = s.ras := rfl
@[simp] theorem ctxMod_diag : (ctxMod s n f).diag = s.diag := rfl

end ctxMod

section muMod

variable (s : State) (n : Nat) (f : Mu → Mu)

@[simp] theorem muMod_pending : (muMod s n f).pending = s.pending := rfl
@[simp] theorem muMod_free : (muMod s n f).free = s.free := rfl
@[simp] theorem muMod_out : (muMod s n f).out = s.out := rfl
@[simp] theorem muMod_now : (muMod s n f).now = s.now := rfl
@[simp] theorem muMod_ident : (muMod s n f).ident = s.ident := rfl
@[simp] theorem muMod_pins : (muMod s n f).pins = s.pins := rfl
@[simp] theorem muMod_boot : (muMod s n f).boot = s.boot := rfl
@[simp] theorem muMod_power : (muMod s n f).power = s.power := rfl
@[simp] theorem muMod_flash : (muMod s n f).flash = s.flash := rfl
@[simp] theorem muMod_sec : (muMod s n f).sec = s.sec := rfl
@[simp] theorem muMod_fw : (muMod s n f).fw = s.fw := rfl
@[simp] theorem muMod_cp : (muMod s n f).cp = s.cp := rfl
@[simp] theorem muMod_tenants : (muMod s n f).tenants = s.tenants := rfl
@[simp] theorem muMod_masters : (muMod s n f).masters = s.masters := rfl
@[simp] theorem muMod_mem : (muMod s n f).mem = s.mem := rfl
@[simp] theorem muMod_regions : (muMod s n f).regions = s.regions := rfl
@[simp] theorem muMod_zeroing : (muMod s n f).zeroing = s.zeroing := rfl
@[simp] theorem muMod_halves : (muMod s n f).halves = s.halves := rfl
@[simp] theorem muMod_tensors : (muMod s n f).tensors = s.tensors := rfl
@[simp] theorem muMod_nextTensor : (muMod s n f).nextTensor = s.nextTensor := rfl
@[simp] theorem muMod_acc : (muMod s n f).acc = s.acc := rfl
@[simp] theorem muMod_kvs : (muMod s n f).kvs = s.kvs := rfl
@[simp] theorem muMod_kvGen : (muMod s n f).kvGen = s.kvGen := rfl
@[simp] theorem muMod_volumes : (muMod s n f).volumes = s.volumes := rfl
@[simp] theorem muMod_nextVolume : (muMod s n f).nextVolume = s.nextVolume := rfl
@[simp] theorem muMod_queues : (muMod s n f).queues = s.queues := rfl
@[simp] theorem muMod_plain : (muMod s n f).plain = s.plain := rfl
@[simp] theorem muMod_pool : (muMod s n f).pool = s.pool := rfl
@[simp] theorem muMod_link : (muMod s n f).link = s.link := rfl
@[simp] theorem muMod_host : (muMod s n f).host = s.host := rfl
@[simp] theorem muMod_bw : (muMod s n f).bw = s.bw := rfl
@[simp] theorem muMod_ras : (muMod s n f).ras = s.ras := rfl
@[simp] theorem muMod_diag : (muMod s n f).diag = s.diag := rfl

end muMod

section vuMod

variable (s : State) (n : Nat) (f : Vu → Vu)

@[simp] theorem vuMod_pending : (vuMod s n f).pending = s.pending := rfl
@[simp] theorem vuMod_free : (vuMod s n f).free = s.free := rfl
@[simp] theorem vuMod_out : (vuMod s n f).out = s.out := rfl
@[simp] theorem vuMod_now : (vuMod s n f).now = s.now := rfl
@[simp] theorem vuMod_ident : (vuMod s n f).ident = s.ident := rfl
@[simp] theorem vuMod_pins : (vuMod s n f).pins = s.pins := rfl
@[simp] theorem vuMod_boot : (vuMod s n f).boot = s.boot := rfl
@[simp] theorem vuMod_power : (vuMod s n f).power = s.power := rfl
@[simp] theorem vuMod_flash : (vuMod s n f).flash = s.flash := rfl
@[simp] theorem vuMod_sec : (vuMod s n f).sec = s.sec := rfl
@[simp] theorem vuMod_fw : (vuMod s n f).fw = s.fw := rfl
@[simp] theorem vuMod_cp : (vuMod s n f).cp = s.cp := rfl
@[simp] theorem vuMod_tenants : (vuMod s n f).tenants = s.tenants := rfl
@[simp] theorem vuMod_masters : (vuMod s n f).masters = s.masters := rfl
@[simp] theorem vuMod_mem : (vuMod s n f).mem = s.mem := rfl
@[simp] theorem vuMod_regions : (vuMod s n f).regions = s.regions := rfl
@[simp] theorem vuMod_zeroing : (vuMod s n f).zeroing = s.zeroing := rfl
@[simp] theorem vuMod_halves : (vuMod s n f).halves = s.halves := rfl
@[simp] theorem vuMod_tensors : (vuMod s n f).tensors = s.tensors := rfl
@[simp] theorem vuMod_nextTensor : (vuMod s n f).nextTensor = s.nextTensor := rfl
@[simp] theorem vuMod_acc : (vuMod s n f).acc = s.acc := rfl
@[simp] theorem vuMod_kvs : (vuMod s n f).kvs = s.kvs := rfl
@[simp] theorem vuMod_kvGen : (vuMod s n f).kvGen = s.kvGen := rfl
@[simp] theorem vuMod_volumes : (vuMod s n f).volumes = s.volumes := rfl
@[simp] theorem vuMod_nextVolume : (vuMod s n f).nextVolume = s.nextVolume := rfl
@[simp] theorem vuMod_queues : (vuMod s n f).queues = s.queues := rfl
@[simp] theorem vuMod_plain : (vuMod s n f).plain = s.plain := rfl
@[simp] theorem vuMod_pool : (vuMod s n f).pool = s.pool := rfl
@[simp] theorem vuMod_link : (vuMod s n f).link = s.link := rfl
@[simp] theorem vuMod_host : (vuMod s n f).host = s.host := rfl
@[simp] theorem vuMod_bw : (vuMod s n f).bw = s.bw := rfl
@[simp] theorem vuMod_ras : (vuMod s n f).ras = s.ras := rfl
@[simp] theorem vuMod_diag : (vuMod s n f).diag = s.diag := rfl

end vuMod

section syncMod

variable (s : State) (f : SyncState → SyncState)

@[simp] theorem syncMod_pending : (syncMod s f).pending = s.pending := rfl
@[simp] theorem syncMod_free : (syncMod s f).free = s.free := rfl
@[simp] theorem syncMod_out : (syncMod s f).out = s.out := rfl
@[simp] theorem syncMod_now : (syncMod s f).now = s.now := rfl
@[simp] theorem syncMod_ident : (syncMod s f).ident = s.ident := rfl
@[simp] theorem syncMod_pins : (syncMod s f).pins = s.pins := rfl
@[simp] theorem syncMod_boot : (syncMod s f).boot = s.boot := rfl
@[simp] theorem syncMod_power : (syncMod s f).power = s.power := rfl
@[simp] theorem syncMod_flash : (syncMod s f).flash = s.flash := rfl
@[simp] theorem syncMod_sec : (syncMod s f).sec = s.sec := rfl
@[simp] theorem syncMod_fw : (syncMod s f).fw = s.fw := rfl
@[simp] theorem syncMod_cp : (syncMod s f).cp = s.cp := rfl
@[simp] theorem syncMod_tenants : (syncMod s f).tenants = s.tenants := rfl
@[simp] theorem syncMod_masters : (syncMod s f).masters = s.masters := rfl
@[simp] theorem syncMod_mem : (syncMod s f).mem = s.mem := rfl
@[simp] theorem syncMod_regions : (syncMod s f).regions = s.regions := rfl
@[simp] theorem syncMod_zeroing : (syncMod s f).zeroing = s.zeroing := rfl
@[simp] theorem syncMod_halves : (syncMod s f).halves = s.halves := rfl
@[simp] theorem syncMod_tensors : (syncMod s f).tensors = s.tensors := rfl
@[simp] theorem syncMod_nextTensor : (syncMod s f).nextTensor = s.nextTensor := rfl
@[simp] theorem syncMod_acc : (syncMod s f).acc = s.acc := rfl
@[simp] theorem syncMod_kvs : (syncMod s f).kvs = s.kvs := rfl
@[simp] theorem syncMod_kvGen : (syncMod s f).kvGen = s.kvGen := rfl
@[simp] theorem syncMod_volumes : (syncMod s f).volumes = s.volumes := rfl
@[simp] theorem syncMod_nextVolume : (syncMod s f).nextVolume = s.nextVolume := rfl
@[simp] theorem syncMod_queues : (syncMod s f).queues = s.queues := rfl
@[simp] theorem syncMod_eng : (syncMod s f).eng = s.eng := rfl
@[simp] theorem syncMod_plain : (syncMod s f).plain = s.plain := rfl
@[simp] theorem syncMod_pool : (syncMod s f).pool = s.pool := rfl
@[simp] theorem syncMod_host : (syncMod s f).host = s.host := rfl
@[simp] theorem syncMod_bw : (syncMod s f).bw = s.bw := rfl
@[simp] theorem syncMod_ras : (syncMod s f).ras = s.ras := rfl
@[simp] theorem syncMod_diag : (syncMod s f).diag = s.diag := rfl

end syncMod

section edgeMod

variable (s : State) (h : Half) (f : Edge → Edge)

@[simp] theorem edgeMod_pending : (edgeMod s h f).pending = s.pending := rfl
@[simp] theorem edgeMod_free : (edgeMod s h f).free = s.free := rfl
@[simp] theorem edgeMod_out : (edgeMod s h f).out = s.out := rfl
@[simp] theorem edgeMod_now : (edgeMod s h f).now = s.now := rfl
@[simp] theorem edgeMod_ident : (edgeMod s h f).ident = s.ident := rfl
@[simp] theorem edgeMod_pins : (edgeMod s h f).pins = s.pins := rfl
@[simp] theorem edgeMod_boot : (edgeMod s h f).boot = s.boot := rfl
@[simp] theorem edgeMod_power : (edgeMod s h f).power = s.power := rfl
@[simp] theorem edgeMod_flash : (edgeMod s h f).flash = s.flash := rfl
@[simp] theorem edgeMod_sec : (edgeMod s h f).sec = s.sec := rfl
@[simp] theorem edgeMod_fw : (edgeMod s h f).fw = s.fw := rfl
@[simp] theorem edgeMod_cp : (edgeMod s h f).cp = s.cp := rfl
@[simp] theorem edgeMod_tenants : (edgeMod s h f).tenants = s.tenants := rfl
@[simp] theorem edgeMod_masters : (edgeMod s h f).masters = s.masters := rfl
@[simp] theorem edgeMod_mem : (edgeMod s h f).mem = s.mem := rfl
@[simp] theorem edgeMod_regions : (edgeMod s h f).regions = s.regions := rfl
@[simp] theorem edgeMod_zeroing : (edgeMod s h f).zeroing = s.zeroing := rfl
@[simp] theorem edgeMod_halves : (edgeMod s h f).halves = s.halves := rfl
@[simp] theorem edgeMod_tensors : (edgeMod s h f).tensors = s.tensors := rfl
@[simp] theorem edgeMod_nextTensor : (edgeMod s h f).nextTensor = s.nextTensor := rfl
@[simp] theorem edgeMod_acc : (edgeMod s h f).acc = s.acc := rfl
@[simp] theorem edgeMod_kvs : (edgeMod s h f).kvs = s.kvs := rfl
@[simp] theorem edgeMod_kvGen : (edgeMod s h f).kvGen = s.kvGen := rfl
@[simp] theorem edgeMod_volumes : (edgeMod s h f).volumes = s.volumes := rfl
@[simp] theorem edgeMod_nextVolume : (edgeMod s h f).nextVolume = s.nextVolume := rfl
@[simp] theorem edgeMod_queues : (edgeMod s h f).queues = s.queues := rfl
@[simp] theorem edgeMod_eng : (edgeMod s h f).eng = s.eng := rfl
@[simp] theorem edgeMod_pool : (edgeMod s h f).pool = s.pool := rfl
@[simp] theorem edgeMod_link : (edgeMod s h f).link = s.link := rfl
@[simp] theorem edgeMod_host : (edgeMod s h f).host = s.host := rfl
@[simp] theorem edgeMod_bw : (edgeMod s h f).bw = s.bw := rfl
@[simp] theorem edgeMod_ras : (edgeMod s h f).ras = s.ras := rfl
@[simp] theorem edgeMod_diag : (edgeMod s h f).diag = s.diag := rfl

end edgeMod

section cacheMod

variable (s : State) (h : Half) (f : Cache → Cache)

@[simp] theorem cacheMod_pending : (cacheMod s h f).pending = s.pending := rfl
@[simp] theorem cacheMod_free : (cacheMod s h f).free = s.free := rfl
@[simp] theorem cacheMod_out : (cacheMod s h f).out = s.out := rfl
@[simp] theorem cacheMod_now : (cacheMod s h f).now = s.now := rfl
@[simp] theorem cacheMod_ident : (cacheMod s h f).ident = s.ident := rfl
@[simp] theorem cacheMod_pins : (cacheMod s h f).pins = s.pins := rfl
@[simp] theorem cacheMod_boot : (cacheMod s h f).boot = s.boot := rfl
@[simp] theorem cacheMod_power : (cacheMod s h f).power = s.power := rfl
@[simp] theorem cacheMod_flash : (cacheMod s h f).flash = s.flash := rfl
@[simp] theorem cacheMod_sec : (cacheMod s h f).sec = s.sec := rfl
@[simp] theorem cacheMod_fw : (cacheMod s h f).fw = s.fw := rfl
@[simp] theorem cacheMod_cp : (cacheMod s h f).cp = s.cp := rfl
@[simp] theorem cacheMod_tenants : (cacheMod s h f).tenants = s.tenants := rfl
@[simp] theorem cacheMod_masters : (cacheMod s h f).masters = s.masters := rfl
@[simp] theorem cacheMod_mem : (cacheMod s h f).mem = s.mem := rfl
@[simp] theorem cacheMod_regions : (cacheMod s h f).regions = s.regions := rfl
@[simp] theorem cacheMod_zeroing : (cacheMod s h f).zeroing = s.zeroing := rfl
@[simp] theorem cacheMod_halves : (cacheMod s h f).halves = s.halves := rfl
@[simp] theorem cacheMod_tensors : (cacheMod s h f).tensors = s.tensors := rfl
@[simp] theorem cacheMod_nextTensor : (cacheMod s h f).nextTensor = s.nextTensor := rfl
@[simp] theorem cacheMod_acc : (cacheMod s h f).acc = s.acc := rfl
@[simp] theorem cacheMod_kvs : (cacheMod s h f).kvs = s.kvs := rfl
@[simp] theorem cacheMod_kvGen : (cacheMod s h f).kvGen = s.kvGen := rfl
@[simp] theorem cacheMod_volumes : (cacheMod s h f).volumes = s.volumes := rfl
@[simp] theorem cacheMod_nextVolume : (cacheMod s h f).nextVolume = s.nextVolume := rfl
@[simp] theorem cacheMod_queues : (cacheMod s h f).queues = s.queues := rfl
@[simp] theorem cacheMod_eng : (cacheMod s h f).eng = s.eng := rfl
@[simp] theorem cacheMod_pool : (cacheMod s h f).pool = s.pool := rfl
@[simp] theorem cacheMod_link : (cacheMod s h f).link = s.link := rfl
@[simp] theorem cacheMod_host : (cacheMod s h f).host = s.host := rfl
@[simp] theorem cacheMod_bw : (cacheMod s h f).bw = s.bw := rfl
@[simp] theorem cacheMod_ras : (cacheMod s h f).ras = s.ras := rfl
@[simp] theorem cacheMod_diag : (cacheMod s h f).diag = s.diag := rfl

end cacheMod

section handleMod

variable (s : State) (h : Nat) (f : Handle → Handle)

@[simp] theorem handleMod_pending : (handleMod s h f).pending = s.pending := rfl
@[simp] theorem handleMod_free : (handleMod s h f).free = s.free := rfl
@[simp] theorem handleMod_out : (handleMod s h f).out = s.out := rfl
@[simp] theorem handleMod_now : (handleMod s h f).now = s.now := rfl
@[simp] theorem handleMod_ident : (handleMod s h f).ident = s.ident := rfl
@[simp] theorem handleMod_pins : (handleMod s h f).pins = s.pins := rfl
@[simp] theorem handleMod_boot : (handleMod s h f).boot = s.boot := rfl
@[simp] theorem handleMod_power : (handleMod s h f).power = s.power := rfl
@[simp] theorem handleMod_flash : (handleMod s h f).flash = s.flash := rfl
@[simp] theorem handleMod_sec : (handleMod s h f).sec = s.sec := rfl
@[simp] theorem handleMod_fw : (handleMod s h f).fw = s.fw := rfl
@[simp] theorem handleMod_cp : (handleMod s h f).cp = s.cp := rfl
@[simp] theorem handleMod_tenants : (handleMod s h f).tenants = s.tenants := rfl
@[simp] theorem handleMod_masters : (handleMod s h f).masters = s.masters := rfl
@[simp] theorem handleMod_mem : (handleMod s h f).mem = s.mem := rfl
@[simp] theorem handleMod_regions : (handleMod s h f).regions = s.regions := rfl
@[simp] theorem handleMod_zeroing : (handleMod s h f).zeroing = s.zeroing := rfl
@[simp] theorem handleMod_halves : (handleMod s h f).halves = s.halves := rfl
@[simp] theorem handleMod_tensors : (handleMod s h f).tensors = s.tensors := rfl
@[simp] theorem handleMod_nextTensor : (handleMod s h f).nextTensor = s.nextTensor := rfl
@[simp] theorem handleMod_acc : (handleMod s h f).acc = s.acc := rfl
@[simp] theorem handleMod_kvs : (handleMod s h f).kvs = s.kvs := rfl
@[simp] theorem handleMod_kvGen : (handleMod s h f).kvGen = s.kvGen := rfl
@[simp] theorem handleMod_volumes : (handleMod s h f).volumes = s.volumes := rfl
@[simp] theorem handleMod_nextVolume : (handleMod s h f).nextVolume = s.nextVolume := rfl
@[simp] theorem handleMod_queues : (handleMod s h f).queues = s.queues := rfl
@[simp] theorem handleMod_eng : (handleMod s h f).eng = s.eng := rfl
@[simp] theorem handleMod_plain : (handleMod s h f).plain = s.plain := rfl
@[simp] theorem handleMod_link : (handleMod s h f).link = s.link := rfl
@[simp] theorem handleMod_host : (handleMod s h f).host = s.host := rfl
@[simp] theorem handleMod_bw : (handleMod s h f).bw = s.bw := rfl
@[simp] theorem handleMod_ras : (handleMod s h f).ras = s.ras := rfl
@[simp] theorem handleMod_diag : (handleMod s h f).diag = s.diag := rfl

end handleMod

section extMod

variable (s : State) (k : Half × Nat) (f : Extent → Extent)

@[simp] theorem extMod_pending : (extMod s k f).pending = s.pending := rfl
@[simp] theorem extMod_free : (extMod s k f).free = s.free := rfl
@[simp] theorem extMod_out : (extMod s k f).out = s.out := rfl
@[simp] theorem extMod_now : (extMod s k f).now = s.now := rfl
@[simp] theorem extMod_ident : (extMod s k f).ident = s.ident := rfl
@[simp] theorem extMod_pins : (extMod s k f).pins = s.pins := rfl
@[simp] theorem extMod_boot : (extMod s k f).boot = s.boot := rfl
@[simp] theorem extMod_power : (extMod s k f).power = s.power := rfl
@[simp] theorem extMod_flash : (extMod s k f).flash = s.flash := rfl
@[simp] theorem extMod_sec : (extMod s k f).sec = s.sec := rfl
@[simp] theorem extMod_fw : (extMod s k f).fw = s.fw := rfl
@[simp] theorem extMod_cp : (extMod s k f).cp = s.cp := rfl
@[simp] theorem extMod_tenants : (extMod s k f).tenants = s.tenants := rfl
@[simp] theorem extMod_masters : (extMod s k f).masters = s.masters := rfl
@[simp] theorem extMod_mem : (extMod s k f).mem = s.mem := rfl
@[simp] theorem extMod_regions : (extMod s k f).regions = s.regions := rfl
@[simp] theorem extMod_zeroing : (extMod s k f).zeroing = s.zeroing := rfl
@[simp] theorem extMod_halves : (extMod s k f).halves = s.halves := rfl
@[simp] theorem extMod_tensors : (extMod s k f).tensors = s.tensors := rfl
@[simp] theorem extMod_nextTensor : (extMod s k f).nextTensor = s.nextTensor := rfl
@[simp] theorem extMod_acc : (extMod s k f).acc = s.acc := rfl
@[simp] theorem extMod_kvs : (extMod s k f).kvs = s.kvs := rfl
@[simp] theorem extMod_kvGen : (extMod s k f).kvGen = s.kvGen := rfl
@[simp] theorem extMod_volumes : (extMod s k f).volumes = s.volumes := rfl
@[simp] theorem extMod_nextVolume : (extMod s k f).nextVolume = s.nextVolume := rfl
@[simp] theorem extMod_queues : (extMod s k f).queues = s.queues := rfl
@[simp] theorem extMod_eng : (extMod s k f).eng = s.eng := rfl
@[simp] theorem extMod_plain : (extMod s k f).plain = s.plain := rfl
@[simp] theorem extMod_link : (extMod s k f).link = s.link := rfl
@[simp] theorem extMod_host : (extMod s k f).host = s.host := rfl
@[simp] theorem extMod_bw : (extMod s k f).bw = s.bw := rfl
@[simp] theorem extMod_ras : (extMod s k f).ras = s.ras := rfl
@[simp] theorem extMod_diag : (extMod s k f).diag = s.diag := rfl

end extMod

section sharedMod

variable (s : State) (n : Nat) (f : Shared → Shared)

@[simp] theorem sharedMod_pending : (sharedMod s n f).pending = s.pending := rfl
@[simp] theorem sharedMod_free : (sharedMod s n f).free = s.free := rfl
@[simp] theorem sharedMod_out : (sharedMod s n f).out = s.out := rfl
@[simp] theorem sharedMod_now : (sharedMod s n f).now = s.now := rfl
@[simp] theorem sharedMod_ident : (sharedMod s n f).ident = s.ident := rfl
@[simp] theorem sharedMod_pins : (sharedMod s n f).pins = s.pins := rfl
@[simp] theorem sharedMod_boot : (sharedMod s n f).boot = s.boot := rfl
@[simp] theorem sharedMod_power : (sharedMod s n f).power = s.power := rfl
@[simp] theorem sharedMod_flash : (sharedMod s n f).flash = s.flash := rfl
@[simp] theorem sharedMod_sec : (sharedMod s n f).sec = s.sec := rfl
@[simp] theorem sharedMod_fw : (sharedMod s n f).fw = s.fw := rfl
@[simp] theorem sharedMod_cp : (sharedMod s n f).cp = s.cp := rfl
@[simp] theorem sharedMod_tenants : (sharedMod s n f).tenants = s.tenants := rfl
@[simp] theorem sharedMod_masters : (sharedMod s n f).masters = s.masters := rfl
@[simp] theorem sharedMod_mem : (sharedMod s n f).mem = s.mem := rfl
@[simp] theorem sharedMod_regions : (sharedMod s n f).regions = s.regions := rfl
@[simp] theorem sharedMod_zeroing : (sharedMod s n f).zeroing = s.zeroing := rfl
@[simp] theorem sharedMod_halves : (sharedMod s n f).halves = s.halves := rfl
@[simp] theorem sharedMod_tensors : (sharedMod s n f).tensors = s.tensors := rfl
@[simp] theorem sharedMod_nextTensor : (sharedMod s n f).nextTensor = s.nextTensor := rfl
@[simp] theorem sharedMod_acc : (sharedMod s n f).acc = s.acc := rfl
@[simp] theorem sharedMod_kvs : (sharedMod s n f).kvs = s.kvs := rfl
@[simp] theorem sharedMod_kvGen : (sharedMod s n f).kvGen = s.kvGen := rfl
@[simp] theorem sharedMod_volumes : (sharedMod s n f).volumes = s.volumes := rfl
@[simp] theorem sharedMod_nextVolume : (sharedMod s n f).nextVolume = s.nextVolume := rfl
@[simp] theorem sharedMod_queues : (sharedMod s n f).queues = s.queues := rfl
@[simp] theorem sharedMod_eng : (sharedMod s n f).eng = s.eng := rfl
@[simp] theorem sharedMod_plain : (sharedMod s n f).plain = s.plain := rfl
@[simp] theorem sharedMod_link : (sharedMod s n f).link = s.link := rfl
@[simp] theorem sharedMod_host : (sharedMod s n f).host = s.host := rfl
@[simp] theorem sharedMod_bw : (sharedMod s n f).bw = s.bw := rfl
@[simp] theorem sharedMod_ras : (sharedMod s n f).ras = s.ras := rfl
@[simp] theorem sharedMod_diag : (sharedMod s n f).diag = s.diag := rfl

end sharedMod

section engineMod

variable (s : State) (h : Half) (f : Option NearJob × List NearJob → Option NearJob × List NearJob)

@[simp] theorem engineMod_pending : (engineMod s h f).pending = s.pending := rfl
@[simp] theorem engineMod_free : (engineMod s h f).free = s.free := rfl
@[simp] theorem engineMod_out : (engineMod s h f).out = s.out := rfl
@[simp] theorem engineMod_now : (engineMod s h f).now = s.now := rfl
@[simp] theorem engineMod_ident : (engineMod s h f).ident = s.ident := rfl
@[simp] theorem engineMod_pins : (engineMod s h f).pins = s.pins := rfl
@[simp] theorem engineMod_boot : (engineMod s h f).boot = s.boot := rfl
@[simp] theorem engineMod_power : (engineMod s h f).power = s.power := rfl
@[simp] theorem engineMod_flash : (engineMod s h f).flash = s.flash := rfl
@[simp] theorem engineMod_sec : (engineMod s h f).sec = s.sec := rfl
@[simp] theorem engineMod_fw : (engineMod s h f).fw = s.fw := rfl
@[simp] theorem engineMod_cp : (engineMod s h f).cp = s.cp := rfl
@[simp] theorem engineMod_tenants : (engineMod s h f).tenants = s.tenants := rfl
@[simp] theorem engineMod_masters : (engineMod s h f).masters = s.masters := rfl
@[simp] theorem engineMod_mem : (engineMod s h f).mem = s.mem := rfl
@[simp] theorem engineMod_regions : (engineMod s h f).regions = s.regions := rfl
@[simp] theorem engineMod_zeroing : (engineMod s h f).zeroing = s.zeroing := rfl
@[simp] theorem engineMod_halves : (engineMod s h f).halves = s.halves := rfl
@[simp] theorem engineMod_tensors : (engineMod s h f).tensors = s.tensors := rfl
@[simp] theorem engineMod_nextTensor : (engineMod s h f).nextTensor = s.nextTensor := rfl
@[simp] theorem engineMod_acc : (engineMod s h f).acc = s.acc := rfl
@[simp] theorem engineMod_kvs : (engineMod s h f).kvs = s.kvs := rfl
@[simp] theorem engineMod_kvGen : (engineMod s h f).kvGen = s.kvGen := rfl
@[simp] theorem engineMod_volumes : (engineMod s h f).volumes = s.volumes := rfl
@[simp] theorem engineMod_nextVolume : (engineMod s h f).nextVolume = s.nextVolume := rfl
@[simp] theorem engineMod_queues : (engineMod s h f).queues = s.queues := rfl
@[simp] theorem engineMod_eng : (engineMod s h f).eng = s.eng := rfl
@[simp] theorem engineMod_plain : (engineMod s h f).plain = s.plain := rfl
@[simp] theorem engineMod_link : (engineMod s h f).link = s.link := rfl
@[simp] theorem engineMod_host : (engineMod s h f).host = s.host := rfl
@[simp] theorem engineMod_bw : (engineMod s h f).bw = s.bw := rfl
@[simp] theorem engineMod_ras : (engineMod s h f).ras = s.ras := rfl
@[simp] theorem engineMod_diag : (engineMod s h f).diag = s.diag := rfl

end engineMod

section halfMod

variable (s : State) (h : Half) (f : HalfState → HalfState)

@[simp] theorem halfMod_pending : (halfMod s h f).pending = s.pending := rfl
@[simp] theorem halfMod_free : (halfMod s h f).free = s.free := rfl
@[simp] theorem halfMod_out : (halfMod s h f).out = s.out := rfl
@[simp] theorem halfMod_now : (halfMod s h f).now = s.now := rfl
@[simp] theorem halfMod_ident : (halfMod s h f).ident = s.ident := rfl
@[simp] theorem halfMod_pins : (halfMod s h f).pins = s.pins := rfl
@[simp] theorem halfMod_boot : (halfMod s h f).boot = s.boot := rfl
@[simp] theorem halfMod_power : (halfMod s h f).power = s.power := rfl
@[simp] theorem halfMod_flash : (halfMod s h f).flash = s.flash := rfl
@[simp] theorem halfMod_sec : (halfMod s h f).sec = s.sec := rfl
@[simp] theorem halfMod_fw : (halfMod s h f).fw = s.fw := rfl
@[simp] theorem halfMod_cp : (halfMod s h f).cp = s.cp := rfl
@[simp] theorem halfMod_tenants : (halfMod s h f).tenants = s.tenants := rfl
@[simp] theorem halfMod_masters : (halfMod s h f).masters = s.masters := rfl
@[simp] theorem halfMod_mem : (halfMod s h f).mem = s.mem := rfl
@[simp] theorem halfMod_regions : (halfMod s h f).regions = s.regions := rfl
@[simp] theorem halfMod_zeroing : (halfMod s h f).zeroing = s.zeroing := rfl
@[simp] theorem halfMod_tensors : (halfMod s h f).tensors = s.tensors := rfl
@[simp] theorem halfMod_nextTensor : (halfMod s h f).nextTensor = s.nextTensor := rfl
@[simp] theorem halfMod_acc : (halfMod s h f).acc = s.acc := rfl
@[simp] theorem halfMod_kvs : (halfMod s h f).kvs = s.kvs := rfl
@[simp] theorem halfMod_kvGen : (halfMod s h f).kvGen = s.kvGen := rfl
@[simp] theorem halfMod_volumes : (halfMod s h f).volumes = s.volumes := rfl
@[simp] theorem halfMod_nextVolume : (halfMod s h f).nextVolume = s.nextVolume := rfl
@[simp] theorem halfMod_queues : (halfMod s h f).queues = s.queues := rfl
@[simp] theorem halfMod_eng : (halfMod s h f).eng = s.eng := rfl
@[simp] theorem halfMod_plain : (halfMod s h f).plain = s.plain := rfl
@[simp] theorem halfMod_pool : (halfMod s h f).pool = s.pool := rfl
@[simp] theorem halfMod_link : (halfMod s h f).link = s.link := rfl
@[simp] theorem halfMod_host : (halfMod s h f).host = s.host := rfl
@[simp] theorem halfMod_bw : (halfMod s h f).bw = s.bw := rfl
@[simp] theorem halfMod_ras : (halfMod s h f).ras = s.ras := rfl
@[simp] theorem halfMod_diag : (halfMod s h f).diag = s.diag := rfl

end halfMod

section queMod

variable (s : State) (n : Nat) (f : Queue → Queue)

@[simp] theorem queMod_pending : (queMod s n f).pending = s.pending := rfl
@[simp] theorem queMod_free : (queMod s n f).free = s.free := rfl
@[simp] theorem queMod_out : (queMod s n f).out = s.out := rfl
@[simp] theorem queMod_now : (queMod s n f).now = s.now := rfl
@[simp] theorem queMod_ident : (queMod s n f).ident = s.ident := rfl
@[simp] theorem queMod_pins : (queMod s n f).pins = s.pins := rfl
@[simp] theorem queMod_boot : (queMod s n f).boot = s.boot := rfl
@[simp] theorem queMod_power : (queMod s n f).power = s.power := rfl
@[simp] theorem queMod_flash : (queMod s n f).flash = s.flash := rfl
@[simp] theorem queMod_sec : (queMod s n f).sec = s.sec := rfl
@[simp] theorem queMod_fw : (queMod s n f).fw = s.fw := rfl
@[simp] theorem queMod_cp : (queMod s n f).cp = s.cp := rfl
@[simp] theorem queMod_tenants : (queMod s n f).tenants = s.tenants := rfl
@[simp] theorem queMod_masters : (queMod s n f).masters = s.masters := rfl
@[simp] theorem queMod_mem : (queMod s n f).mem = s.mem := rfl
@[simp] theorem queMod_regions : (queMod s n f).regions = s.regions := rfl
@[simp] theorem queMod_zeroing : (queMod s n f).zeroing = s.zeroing := rfl
@[simp] theorem queMod_halves : (queMod s n f).halves = s.halves := rfl
@[simp] theorem queMod_tensors : (queMod s n f).tensors = s.tensors := rfl
@[simp] theorem queMod_nextTensor : (queMod s n f).nextTensor = s.nextTensor := rfl
@[simp] theorem queMod_acc : (queMod s n f).acc = s.acc := rfl
@[simp] theorem queMod_kvs : (queMod s n f).kvs = s.kvs := rfl
@[simp] theorem queMod_kvGen : (queMod s n f).kvGen = s.kvGen := rfl
@[simp] theorem queMod_volumes : (queMod s n f).volumes = s.volumes := rfl
@[simp] theorem queMod_nextVolume : (queMod s n f).nextVolume = s.nextVolume := rfl
@[simp] theorem queMod_eng : (queMod s n f).eng = s.eng := rfl
@[simp] theorem queMod_plain : (queMod s n f).plain = s.plain := rfl
@[simp] theorem queMod_pool : (queMod s n f).pool = s.pool := rfl
@[simp] theorem queMod_link : (queMod s n f).link = s.link := rfl
@[simp] theorem queMod_host : (queMod s n f).host = s.host := rfl
@[simp] theorem queMod_bw : (queMod s n f).bw = s.bw := rfl
@[simp] theorem queMod_ras : (queMod s n f).ras = s.ras := rfl
@[simp] theorem queMod_diag : (queMod s n f).diag = s.diag := rfl

end queMod

section volMod

variable (s : State) (key : Nat) (f : Volume → Volume)

@[simp] theorem volMod_pending : (volMod s key f).pending = s.pending := rfl
@[simp] theorem volMod_free : (volMod s key f).free = s.free := rfl
@[simp] theorem volMod_out : (volMod s key f).out = s.out := rfl
@[simp] theorem volMod_now : (volMod s key f).now = s.now := rfl
@[simp] theorem volMod_ident : (volMod s key f).ident = s.ident := rfl
@[simp] theorem volMod_pins : (volMod s key f).pins = s.pins := rfl
@[simp] theorem volMod_boot : (volMod s key f).boot = s.boot := rfl
@[simp] theorem volMod_power : (volMod s key f).power = s.power := rfl
@[simp] theorem volMod_flash : (volMod s key f).flash = s.flash := rfl
@[simp] theorem volMod_sec : (volMod s key f).sec = s.sec := rfl
@[simp] theorem volMod_fw : (volMod s key f).fw = s.fw := rfl
@[simp] theorem volMod_cp : (volMod s key f).cp = s.cp := rfl
@[simp] theorem volMod_tenants : (volMod s key f).tenants = s.tenants := rfl
@[simp] theorem volMod_masters : (volMod s key f).masters = s.masters := rfl
@[simp] theorem volMod_mem : (volMod s key f).mem = s.mem := rfl
@[simp] theorem volMod_regions : (volMod s key f).regions = s.regions := rfl
@[simp] theorem volMod_zeroing : (volMod s key f).zeroing = s.zeroing := rfl
@[simp] theorem volMod_halves : (volMod s key f).halves = s.halves := rfl
@[simp] theorem volMod_tensors : (volMod s key f).tensors = s.tensors := rfl
@[simp] theorem volMod_nextTensor : (volMod s key f).nextTensor = s.nextTensor := rfl
@[simp] theorem volMod_acc : (volMod s key f).acc = s.acc := rfl
@[simp] theorem volMod_kvs : (volMod s key f).kvs = s.kvs := rfl
@[simp] theorem volMod_kvGen : (volMod s key f).kvGen = s.kvGen := rfl
@[simp] theorem volMod_nextVolume : (volMod s key f).nextVolume = s.nextVolume := rfl
@[simp] theorem volMod_queues : (volMod s key f).queues = s.queues := rfl
@[simp] theorem volMod_eng : (volMod s key f).eng = s.eng := rfl
@[simp] theorem volMod_plain : (volMod s key f).plain = s.plain := rfl
@[simp] theorem volMod_pool : (volMod s key f).pool = s.pool := rfl
@[simp] theorem volMod_link : (volMod s key f).link = s.link := rfl
@[simp] theorem volMod_host : (volMod s key f).host = s.host := rfl
@[simp] theorem volMod_bw : (volMod s key f).bw = s.bw := rfl
@[simp] theorem volMod_ras : (volMod s key f).ras = s.ras := rfl
@[simp] theorem volMod_diag : (volMod s key f).diag = s.diag := rfl

end volMod

@[simp] theorem emit_out (s : State) (e : Emission) : (emit s e).out = s.out ++ [e] := rfl
@[simp] theorem drew_free (n : Nat) (s : State) : (drew n s).free = s.free + n := rfl
@[simp] theorem powerMod_power (s : State) (f : Power → Power) : (powerMod s f).power = f s.power := rfl

end Sys2Proof.Machine
end

