-- ==== Sys2Proof/WellFormed.lean ====
section
/-! DEFINITION. Which commands the interface can carry: the ranges of their operands (R12, R246, R249, R398,
R408, R411, R460, R510, R517, R702, R711). -/

namespace Sys2Proof

/-- PF0, PF1 and VF1 to VF63 (R460). -/
def fnWf (f : Fn) : Bool :=
  match f with
  | .pf0 => true
  | .pf1 => true
  | .vf n => decide (1 ≤ n ∧ n ≤ 63)

/-- A sender is one of the 1,024 carrels (R510) or a forwarded message. -/
def srcWf (s : DeskSrc) : Bool :=
  match s with
  | .carrel n => decide (n < 1024)
  | .forward _ => true

/-- A read brings at most 16 MiB (R590). -/
def readWf (r : HostRead) : Bool :=
  match r with
  | .data b => decide (b.length ≤ 2 ^ 24)
  | .timeout => true
  | .unsupported => true
  | .aborted => true
  | .dropped => true

/-- Matrix units 0 to 127, vector units 0 to 31 (R12). -/
def unitWf (u : UnitRef) : Bool :=
  match u with
  | .mu n => decide (n < 128)
  | .vu n => decide (n < 32)

/-- Whether a command's operands lie in the ranges of the interface. -/
def wellFormed (i : Instr) : Bool :=
  match i with
  | .carrelDoorbell carrel _ _ => decide (carrel < 1024)
  | .carrelMessageWrite carrel off bytes => decide (carrel < 1024 ∧ 1 ≤ bytes.length ∧ off + bytes.length ≤ 256)
  | .messageTake => true
  | .deviceInfo src => srcWf src
  | .attestReport src => srcWf src
  | .certChain src => srcWf src
  | .tenantCreate src => srcWf src
  | .tenantSet src => srcWf src
  | .tenantDestroy src => srcWf src
  | .masterBind src => srcWf src
  | .volumeKey src => srcWf src
  | .tenantStatus src => srcWf src
  | .regionAlloc src => srcWf src
  | .regionFree src => srcWf src
  | .regionCopy src host _ => srcWf src && readWf host
  | .workingCopy src _ => srcWf src
  | .kvCreate src => srcWf src
  | .kvPages src => srcWf src
  | .kvMove src _ => srcWf src
  | .kvFree src => srcWf src
  | .plainGranule src => srcWf src
  | .plainCache src => srcWf src
  | .plainFlush src => srcWf src
  | .kvGuards src => srcWf src
  | .tensorAccession src => srcWf src
  | .tensorStatus src => srcWf src
  | .tensorUnload src => srcWf src
  | .windowDeclare src => srcWf src
  | .windowSeal src => srcWf src
  | .windowReopen src => srcWf src
  | .windowClose src => srcWf src
  | .tensorGuards src => srcWf src
  | .tensorOrigin src => srcWf src
  | .volumeLoad src _ => srcWf src
  | .volumeUnload src => srcWf src
  | .queueCreate src => srcWf src
  | .queueDestroy src => srcWf src
  | .volumeStatus src => srcWf src
  | .poolOffer src => srcWf src
  | .extentRequest src => srcWf src
  | .extentGrant src => srcWf src
  | .leaseRenew src buf => srcWf src && readWf buf
  | .extentRecall src => srcWf src
  | .extentReturn src => srcWf src
  | .extentFlush src buf => srcWf src && readWf buf
  | .shareCreate src buf => srcWf src && readWf buf
  | .editionOpen src => srcWf src
  | .editionPublish src => srcWf src
  | .editionClose src => srcWf src
  | .nearOp src => srcWf src
  | .mirrorResolve src => srcWf src
  | .poolLimit src => srcWf src
  | .poolStatus src => srcWf src
  | .depotGrant src => srcWf src
  | .depotRevoke src => srcWf src
  | .linkStatus src => srcWf src
  | .linkConfig src => srcWf src
  | .linkAnchor src buf => srcWf src && readWf buf
  | .sessionBind src => srcWf src
  | .sessionClose src => srcWf src
  | .windowSet src => srcWf src
  | .routeSet src => srcWf src
  | .portReset src => srcWf src
  | .bwSet src buf => srcWf src && readWf buf
  | .bwStatus src => srcWf src
  | .bwUrgency src => srcWf src
  | .errataRead src => srcWf src
  | .rasStatus src => srcWf src
  | .unitService src => srcWf src
  | .scrubSet src => srcWf src
  | .powerFloor src => srcWf src
  | .powerLimit src => srcWf src
  | .powerStatus src => srcWf src
  | .configWrite src buf => srcWf src && readWf buf
  | .configStatus src => srcWf src
  | .fwInfo src => srcWf src
  | .fwStage src buf => srcWf src && readWf buf
  | .fwCommit src => srcWf src
  | .fwCommitWriteEnd _ => true
  | .diagMode src => srcWf src
  | .cpRestart src => srcWf src
  | .glbLockRead fn n _ => fnWf fn && decide (n < 64)
  | .glbRelease fn _ _ => fnWf fn
  | .queDoorbell queue _ _ consumed _ => decide (queue < 256) && readWf consumed
  | .queueSlotWrite queue slot off bytes => decide (queue < 256 ∧ slot < 16 ∧ 1 ≤ bytes.length ∧ off + bytes.length ≤ 64)
  | .readRaw _ => true
  | .readCorrected _ => true
  | .writeRaw _ => true
  | .writeEncoded _ => true
  | .writePoison _ => true
  | .registerWrite fn _ bytes consumed _ => fnWf fn && readWf consumed && decide (1 ≤ bytes.length)
  | .callSlipAdmit => true
  | .callSlipEnd ctx => decide (ctx < 64)
  | .deadlinePass ctx => decide (ctx < 64)
  | .fetchIssue _ => true
  | .folioDataArrive slice _ => decide (slice < 128)
  | .folioArriveComplete slice _ _ => decide (slice < 128)
  | .folioRecovery slice _ _ _ _ => decide (slice < 130)
  | .recoveryBudgetExpiry slice _ => decide (slice < 130)
  | .matvec ctx _ => decide (ctx < 64)
  | .attnScore ctx _ => decide (ctx < 64)
  | .attnValue ctx _ => decide (ctx < 64)
  | .kvAppend ctx => decide (ctx < 64)
  | .elemwise ctx => decide (ctx < 64)
  | .rmsnorm ctx => decide (ctx < 64)
  | .layernorm ctx => decide (ctx < 64)
  | .softmax ctx => decide (ctx < 64)
  | .rope ctx => decide (ctx < 64)
  | .act ctx => decide (ctx < 64)
  | .embed ctx _ => decide (ctx < 64)
  | .merge ctx => decide (ctx < 64)
  | .topk ctx => decide (ctx < 64)
  | .sample ctx _ => decide (ctx < 64)
  | .relayReduce ctx => decide (ctx < 64)
  | .loop ctx => decide (ctx < 64)
  | .route ctx => decide (ctx < 64)
  | .conditionalSkip ctx => decide (ctx < 64)
  | .consumedRead ctx => decide (ctx < 64)
  | .consumedReadReturn ctx answer => decide (ctx < 64) && readWf answer
  | .probeRun mu => decide (mu < 128)
  | .probeForce tensor => decide (tensor < 4096)
  | .investigationRerun tensor => decide (tensor < 4096)
  | .investigationRefetch tensor _ => decide (tensor < 4096)
  | .investigationOtherMu tensor _ => decide (tensor < 4096)
  | .investigationTimeout tensor => decide (tensor < 4096)
  | .accessionStart _ => true
  | .accessionEnd => true
  | .weightWindowRead mid _ _ _ => decide (mid < 4096)
  | .plainRead mid _ _ _ => decide (mid < 4096)
  | .plainWrite mid _ _ _ => decide (mid < 4096)
  | .cacheLineFill _ _ way _ => decide (way < 16)
  | .cacheEvictComplete _ _ way => decide (way < 16)
  | .weedingSweep => true
  | .binderyTimeout _ _ => true
  | .granuleZeroingEnd addr => decide (addr < 2 ^ 64)
  | .runtimeAccess mid addr _ _ => decide (mid < 4096) && decide (addr < 2 ^ 64)
  | .grantMessage => true
  | .grantAccept => true
  | .grantRefuse => true
  | .grantTimeout _ _ => true
  | .requestTimeout _ => true
  | .dueDateExpiry _ _ => true
  | .graceEnd _ _ => true
  | .drainEnd _ _ => true
  | .eraseEnd _ _ => true
  | .noticeReceive => true
  | .handleFreeTimeout _ => true
  | .nearOpStart _ => true
  | .nearOpEnd _ => true
  | .mirrorComponentLoss _ _ => true
  | .mirrorResyncEnd _ _ => true
  | .mirrorVerify _ _ _ _ _ => true
  | .parityComponentLoss _ _ => true
  | .parityRebuildEnd _ _ => true
  | .parityVerify _ _ _ _ => true
  | .poolWindowAdjust lender => decide (lender < 4096)
  | .trayTimeout grant => decide (grant < 4096)
  | .trayProbe grant _ => decide (grant < 4096)
  | .portEnable port => decide (port < 8)
  | .equalisationDone port _ => decide (port < 8)
  | .flitLock port => decide (port < 8)
  | .hello port => decide (port < 8)
  | .authCert port => decide (port < 8)
  | .keyxA port => decide (port < 8)
  | .keyxB port => decide (port < 8)
  | .confA port => decide (port < 8)
  | .authDone port => decide (port < 8)
  | .trainingTimeout port => decide (port < 8)
  | .portRetryTimer port => decide (port < 8)
  | .flitReceive port raw _ => decide (port < 8 ∧ raw.length = 256)
  | .linkNak port => decide (port < 8)
  | .replayTimeout port => decide (port < 8)
  | .portRetrain port => decide (port < 8)
  | .creditWithheldTimeout port channel => decide (port < 8) && decide (channel < 4)
  | .pairCert port => decide (port < 8)
  | .pairXA port => decide (port < 8)
  | .pairXB port => decide (port < 8)
  | .pairConf port => decide (port < 8)
  | .sessionOpen port => decide (port < 8)
  | .sessionAccept port => decide (port < 8)
  | .sessionRefuse port => decide (port < 8)
  | .sack port => decide (port < 8)
  | .sessionResendTimeout node sid => decide (node < 4096) && decide (sid < 64)
  | .sessionSilencePing node sid => decide (node < 4096) && decide (sid < 64)
  | .ping port => decide (port < 8)
  | .pong port => decide (port < 8)
  | .sessionLossTimeout node sid => decide (node < 4096) && decide (sid < 64)
  | .close port => decide (port < 8)
  | .masterIdFreeTimeout mid => decide (mid < 4096)
  | .rekeyDue node sid => decide (node < 4096) && decide (sid < 64)
  | .rekey port => decide (port < 8)
  | .portLeaveService port => decide (port < 8)
  | .pathReturnTimer port => decide (port < 8)
  | .rdReq port _ => decide (port < 8)
  | .wr port consumed _ => decide (port < 8) && readWf consumed
  | .rdRsp port => decide (port < 8)
  | .cmpl port => decide (port < 8)
  | .red port => decide (port < 8)
  | .msgStart _ => true
  | .msgToken => true
  | .msgStop => true
  | .desk => true
  | .deskReply => true
  | .timeFlitSend port => decide (port < 8)
  | .timeFlitReceive port _ => decide (port < 8)
  | .syncPulse => true
  | .syncInEdge => true
  | .syncErrTimeout => true
  | .masterElection => true
  | .lpIdleTimer port => decide (port < 8)
  | .lpReq port => decide (port < 8)
  | .lpAck port => decide (port < 8)
  | .lpNak port => decide (port < 8)
  | .wake port => decide (port < 8)
  | .pcieMemoryRequest fn write _ len bytes consumed _ => fnWf fn && readWf consumed && decide (1 ≤ len ∧ bytes.length = (if write then len else 0))
  | .configRequest fn _ off _ => fnWf fn && decide (off < 4096 ∧ off % 4 = 0)
  | .initiateFlr fn => fnWf fn
  | .flrComplete fn => fnWf fn
  | .vfEnable _ count => decide (count ≤ 63)
  | .hostReadCompletion fn tag answer => fnWf fn && decide (tag < 1024) && readWf answer
  | .hostReadTimeout fn tag => fnWf fn && decide (tag < 1024)
  | .tagQuarantineEnd fn tag => fnWf fn && decide (tag < 1024)
  | .l0pRequest link _ => decide (link < 2)
  | .aspmL1Entry link => decide (link < 2)
  | .addDynamicCapacityResponse granule _ => decide (granule < 1920)
  | .releaseDynamicCapacity granule => decide (granule < 1920)
  | .dynamicCapacityTimeout granule => decide (granule < 1920)
  | .identifyMemoryDevice => true
  | .getEventRecords => true
  | .clearEventRecords handles => handles.all (fun h => decide (h < 65536))
  | .getPoisonList _ _ => true
  | .getHealthInfo => true
  | .getDynamicCapacityConfiguration => true
  | .getDynamicCapacityExtentList _ _ => true
  | .mailboxUnsupported opcode => decide (opcode < 65536)
  | .ledgerWindow => true
  | .urgLevelChange port _ => decide (port < 8)
  | .idleToReady => true
  | .readyToDoze => true
  | .dozeToSleep => true
  | .wakeComplete => true
  | .sleepToDoze => true
  | .sleepScrubVisit => true
  | .thermalSample c0 t0 c1 t1 => decide (c0 < 256) && decide (t0 < 256) && decide (c1 < 256) && decide (t1 < 256)
  | .throttleUpdate watts => decide (watts < 2 ^ 16)
  | .thermtrip => true
  | .auxPowerOn _ _ => true
  | .auxPowerOff => true
  | .mainInputInRange => true
  | .mainInputDeparture => true
  | .mainInputReturn _ => true
  | .perstFall => true
  | .perstRise _ => true
  | .bootRomStart => true
  | .cpWatchdogExpiry => true
  | .cpRestartEnd => true
  | .muLocalReset mu => decide (mu < 128)
  | .unitRemap unit => unitWf unit
  | .rowSpareEnd _ tier => decide (1 ≤ tier ∧ tier ≤ 2)
  | .patrolScrub addr _ _ => decide (addr < 2 ^ 64)
  | .stackFailure stack => decide (stack < 8)
  | .packageFailure pkg => decide (pkg < 32)
  | .packageRemap _ => true
  | .halfFence _ => true
  | .moduleFault _ => true
  | .trngFail _ => true
  | .debugChallenge => true
  | .debugResponse sig => decide (sig.length = 64)
  | .debugIdentityRead => true
  | .i3cTargetReset _ => true
  | .auxStatusRead _ addr len => decide (addr < 2 ^ 16 ∧ 1 ≤ len)
  | .linkReadTimeout node sid tag => decide (node < 4096) && decide (sid < 64) && decide (tag < 4096)
  | .hostLinkTraining link _ _ => decide (link < 2)
  | .portFailureTimeout port => decide (port < 8)
  | .tilePresenceSet tensor tile _ => decide (tensor < 2 ^ 32 ∧ tile < 2 ^ 32)

end Sys2Proof
end

