-- ==== Sys2Proof/Tests/Slice0.lean ====
section
/-! SUPPORT. Tests of single steps, and for each statement that has hypotheses a state and operands that meet them. -/

namespace Sys2Proof.Tests

open Machine

set_option Elab.async false
set_option linter.all false

/-- A device that serves desk commands, with four carrels bound. -/
def up : State :=
  { State.reset with
    pins := { State.reset.pins with main := .inRange, perstN := true, pwrOk := true }
    boot := { stage := .served, recordRead := true }
    power := { state := .ready }
    cp := { ready := true, bindingLocked := true, binding := [(0, ⟨0, 0, 1⟩), (1, ⟨1, 0, 2⟩), (2, ⟨2, 0, 3⟩), (3, ⟨3, 0, 4⟩)] }
    halves := ⟨{ inService := true }, { inService := true }⟩
    sec := { krOk := true, kCp := some [], kFree := some [], tenantKeys := [(0, []), (5, [])] } }

/-- A message with its request fields. -/
def msg (op : Nat) (p : Bytes) : Bytes := leBytes 2 op ++ leBytes 2 p.length ++ zeros 28 ++ p

/-- The command that a carrel runs. -/
def cmd (mid op : Nat) (p : Bytes) : RunCmd := { src := .carrel 0, mid := mid, node := 0, seq := 1, msg := msg op p }

/-- A device on which a carrel's command runs. -/
def runs (mid op : Nat) (p : Bytes) : State := { up with cp := { up.cp with running := [cmd mid op p] } }

/-- The running command is the one that its row acts on. -/
theorem serves_runs (mid op : Nat) (p : Bytes) (h : op < 65536) : Serves (runs mid op p) (.carrel 0) op (cmd mid op p) := by
  have e : msgOp (cmd mid op p).msg = op := by
    simp [msgOp, cmd, msg, leBytes, leAt, leVal, slice, byteAt]
    omega
  have f : (fun c : RunCmd => c.src == .carrel 0 && msgOp c.msg == op && !c.waiting) (cmd mid op p) = true := by
    simp only [e]
    simp [cmd]
  have g : ((cmd mid op p).src == .carrel 0 || !cmdWaits (cmd mid op p)) = true := by simp [cmd]
  simp only [Serves, runningCmd, runs, up, Bool.not_true, Bool.false_eq_true, if_false, List.find?, g]
  simp only [Option.filter, f, if_true]

/-- A command with its fields in order. -/
def dcmd (mid op : Nat) (vs : List Val) : RunCmd := cmd mid op (packVals vs)

/-- A device with tenant 5, to which PF1 is bound, on which a command runs. -/
def desk (mid op : Nat) (vs : List Val) : State :=
  { runs mid op (packVals vs) with tenants := [(0, { t1 := 360, t2 := 1920 }), (5, { t1 := 1, t2 := 1 })], masters := [(1, 0), (2, 5)] }

theorem serves_desk (mid op : Nat) (vs : List Val) (h : op < 65536) : Serves (desk mid op vs) (.carrel 0) op (dcmd mid op vs) :=
  serves_runs mid op (packVals vs) h

theorem witness_StepRunsFrontCommand : ({ State.reset with pending := [.auxPowerOff] }).pending = .auxPowerOff :: [] := rfl

theorem witness_IdleStepIsOneCycle : up.pending = [] ∧ up.pins.aux = true ∧ up.link.sync.phase = 0 ∧ up.pool.waits = [] := by decide
theorem witness_IdleStepIsOneCycle_off : ({ State.reset with pins := { aux := false } }).pending = [] := rfl

theorem witness_StepKeepsMemoryForm : memSafe State.reset := rfl

theorem witness_QueueDrains : 1 ≤ ({ State.reset with pending := [.auxPowerOff] }).pending.length := by decide

theorem witness_DeviceTimeNeverDecreases : ({ State.reset with pins := { aux := false } }).pins.aux = false := rfl

theorem witness_MinSvnNeverFalls : State.reset.flash.minSvnTagOk = true := rfl

theorem witness_RetiredGranulesStay : 5 ∈ ({ State.reset with flash := { retiredGranules := [5] } }).flash.retiredGranules := by decide

theorem witness_OnlyColdResetLocksDebugPort : ¬isCold .perstFall ∧ ∀ sig, Instr.perstFall ≠ .debugResponse sig := by
  constructor
  · simp [isCold]
  · intro sig; simp
theorem witness_OnlyColdResetLocksDebugPort_open : ({ State.reset with sec := { debugUnlocked := true } }).sec.debugUnlocked = true := rfl

theorem witness_BindingTableLocked : ¬isReset (.glbRelease .pf0 true 0) := by simp [isReset, isCold]

theorem witness_FencedHalfStays :
    ¬isReset (.glbRelease .pf0 true 0) ∧
    ((({ State.reset with halves := ⟨{ fenced := true }, {}⟩ } : State).halves.get .h0).fenced = true) := by
  simp [isReset, isCold, PerHalf.get]

theorem witness_LogSequenceRises : ¬isCold (.cpRestartEnd) ∧ ∀ sig, Instr.cpRestartEnd ≠ .debugResponse sig := by
  constructor
  · simp [isCold]
  · intro sig; simp

theorem witness_TenantZeroStays : thas State.reset.tenants 0 = true := by decide

theorem witness_ThrottleOnlyByUpdate :
    ¬isReset .messageTake ∧ (∀ w, Instr.messageTake ≠ .throttleUpdate w) ∧ ∀ sig, Instr.messageTake ≠ .debugResponse sig := by
  refine ⟨?_, ?_, ?_⟩
  · simp [isReset, isCold]
  · intro w; simp
  · intro sig; simp

theorem witness_DoorbellAndMessageWrite :
    tget up.cp.binding 1 = some ⟨1, 0, 2⟩ ∧ up.cp.ready = true ∧ (carrelOf up 1).state = .idle ∧
    (1 : BitVec 64).toNat = seqSucc (carrelOf up 1).completed := by decide
theorem witness_DoorbellAndMessageWrite_top : seqSucc 0xFFFE = 0xFFFF ∧ ([0] : Bytes) ≠ [] ∧ 255 + ([0] : Bytes).length ≤ 256 := by decide
/-- A device on which a restart began in this cycle, carrel 1 being idle. -/
def restarted : State :=
  { carrelMod up 1 (fun c => { c with state := .restarting, before := .idle }) with cp :=
      { (carrelMod up 1 (fun c => { c with state := .restarting, before := .idle })).cp with ready := false, restarting := some 0 } }
theorem witness_DoorbellAndMessageWrite_lost : restarted.cp.restarting = some restarted.now ∧
    (carrelOf restarted 1).state = .restarting ∧ (carrelOf restarted 1).before = .idle ∧
    (1 : BitVec 64).toNat = seqSucc (carrelOf restarted 1).completed := by decide
theorem witness_DoorbellAndMessageWrite_posted : (carrelOf (carrelMod up 1 (fun c => { c with state := .posted })) 1).state = .posted := by decide
theorem test_doorbell_posts :
    exec (.carrelDoorbell 1 true 1) up = .next (carrelMod up 1 (fun c => { c with state := .posted })) := by rfl

/-- A device with a message posted on carrel 1. -/
def posted : State := carrelMod up 1 (fun c => { c with state := .posted })
theorem witness_MessageTakeAndCompletion :
    posted.cp.ready = true ∧ posted.cp.running.length < 64 ∧ nextPosted posted = some 1 ∧
    tget posted.cp.binding 1 = some ⟨1, 0, 2⟩ := by decide
theorem witness_MessageTakeAndCompletion_last :
    nextPosted { up with cp := { up.cp with pointer := 1020, fwdQueue := [⟨0, 0, 0, []⟩] } } = some 1024 := by decide
theorem witness_MessageTakeAndCompletion_done : (cmd 1 0x0101 []).src = .carrel 0 ∧ (cmd 1 0x0101 []).suppressed = false := by decide

/-- A device on which PF1 owns lock 63. -/
def locked63 : State := { up with cp := { up.cp with locks := [(63, 2)] } }
theorem witness_LockRelease : tget locked63.cp.locks ((63 : BitVec 64).toNat % 64) = some (fnMid .pf1) := by decide
theorem witness_LockRelease_other :
    ¬(Fn.vf 1 = .pf0 ∨ tget locked63.cp.locks ((63 : BitVec 64).toNat % 64) = some (fnMid (.vf 1))) := by decide

theorem witness_LockRead : tget up.cp.locks 0 = none ∧ 0 < 64 ∧ lockReadComes up .pf0 0 = false ∧ up.ras.moduleFault = false := by decide
theorem witness_LockRead_held : tget locked63.cp.locks 63 = some 2 ∧ 63 < 64 ∧ locked63.cp.lockWon ≠ some (63, 2, locked63.now) := by decide
theorem witness_LockRead_both :
    lockReadComes { up with pending := [.glbLockRead .pf0 63 true] } .pf0 63 = true ∧ up.cp.lockPointer = 0 := by decide
theorem witness_LockRead_won : ∃ s : State, tget s.cp.locks 63 = some (fnMid .pf1) ∧ s.cp.lockWon = some (63, fnMid .pf1, s.now) :=
  ⟨{ locked63 with cp := { locked63.cp with lockWon := some (63, 2, locked63.now) } }, by decide⟩
theorem witness_LockRead_fault : ({ up with ras := { up.ras with moduleFault := true } }).ras.moduleFault = true := rfl

theorem witness_ReceiverAndSenderReset : Serves (runs 1 0x0B05 []) (.carrel 0) 0x0B05 (cmd 1 0x0B05 []) := by
  unfold Serves; decide
theorem witness_ReceiverAndSenderReset_dog : up.cp.ready = true ∧ up.boot.stage = .served := by decide
theorem witness_ReceiverAndSenderReset_end :
    ((restartBegin posted).cp.restarting = some 0) ∧ tget (restartBegin posted).cp.binding 1 = some ⟨1, 0, 2⟩ ∧
    (carrelOf (restartBegin posted) 1).state = .restarting ∧ (carrelOf (restartBegin posted) 1).before = .posted ∧
    (carrelOf (restartBegin posted) 0).before = .idle := by decide
theorem witness_ReceiverAndSenderReset_running :
    (carrelOf (restartBegin (carrelMod up 1 (fun c => { c with state := .running, taken := 1 }))) 1).before = .running ∧
    (carrelOf (restartBegin (carrelMod up 1 (fun c => { c with state := .lost }))) 1).before = .lost := by decide
theorem witness_ReceiverAndSenderReset_i3c : (2, (⟨2, 0, 3⟩ : BindEntry)) ∈ up.cp.binding := by decide

theorem witness_InformationReplies_info : Serves (runs 1 0x0101 []) (.carrel 0) 0x0101 (cmd 1 0x0101 []) := by unfold Serves; decide
theorem witness_InformationReplies_config : Serves (runs 1 0x0A05 []) (.carrel 0) 0x0A05 (cmd 1 0x0A05 []) := by unfold Serves; decide
theorem witness_InformationReplies_power : Serves (runs 1 0x0A03 []) (.carrel 0) 0x0A03 (cmd 1 0x0A03 []) := by unfold Serves; decide
theorem witness_InformationReplies_fw :
    Serves (runs 1 0x0B01 []) (.carrel 0) 0x0B01 (cmd 1 0x0B01 []) ∧ (runs 1 0x0B01 []).boot.stage ≠ .recovery := by unfold Serves; decide
/-- A device with a device certificate, on which CERT_CHAIN runs. -/
def certRun (off : Nat) : State := { runs 1 0x0103 (leBytes 4 off) with flash := { deviceCert := [0x30] } }
theorem witness_InformationReplies_cert :
    Serves (certRun 0) (.carrel 0) 0x0103 (cmd 1 0x0103 (leBytes 4 0)) ∧ (certRun 0).sec.krOk = true ∧
    arg (cmd 1 0x0103 (leBytes 4 0)) 0 < (certChain (certRun 0)).length := by
  refine ⟨by unfold Serves; decide, rfl, ?_⟩
  have : arg (cmd 1 0x0103 (leBytes 4 0)) 0 = 0 := by decide
  rw [this]
  simp only [certChain, certRun, List.length_take, List.length_append, List.length_cons]
  omega
theorem witness_InformationReplies_certEnd :
    (certChain (certRun 4096)).length ≤ arg (cmd 1 0x0103 (leBytes 4 4096)) 0 := by
  have : arg (cmd 1 0x0103 (leBytes 4 4096)) 0 = 4096 := by decide
  rw [this]
  simp only [certChain, List.length_take]
  omega
/-- The fields of ATTEST_REPORT. -/
def attest (off : Nat) : Bytes := zeros 32 ++ leBytes 4 off
/-- A device on which ATTEST_REPORT runs, with a report kept. -/
def attestRun (off : Nat) : State :=
  carrelMod (runs 1 0x0102 (attest off)) 0 (fun k => { k with report := some (zeros 80) })
theorem witness_InformationReplies_report :
    Serves (attestRun 0) (.carrel 0) 0x0102 (cmd 1 0x0102 (attest 0)) ∧ arg (cmd 1 0x0102 (attest 0)) 1 = 0 ∧
    msgHasOut (cmd 1 0x0102 (attest 0)).msg = false ∧ (attestRun 0).sec.krOk = true := by unfold Serves; decide
theorem witness_InformationReplies_piece :
    arg (cmd 1 0x0102 (attest 64)) 1 ≠ 0 ∧ (carrelOf (attestRun 64) 0).report = some (zeros 80) ∧
    slice (zeros 80) 0x20 32 = argBytes (cmd 1 0x0102 (attest 64)) 0 ∧ arg (cmd 1 0x0102 (attest 64)) 1 < (zeros 80).length := by decide
theorem witness_InformationReplies_debug : railsOn up = true := by decide
theorem witness_InformationReplies_aux : State.reset.pins.aux = true ∧ State.reset.power.state = .auxOnly ∧ 0xF01F + 1 ≤ 0xF020 := ⟨rfl, rfl, by omega⟩

/-- The fields of TENANT_CREATE, and of TENANT_SET after the tenant. -/
def quotas : Bytes := leBytes 2 0 ++ leBytes 2 0 ++ leBytes 2 1 ++ leBytes 2 1
/-- The fields of MASTER_BIND: OP, MID and TENANT. -/
def bindFields (op mid t : Nat) : Bytes := leBytes 2 op ++ leBytes 2 mid ++ leBytes 2 t
/-- A device with tenant 5, to which PF1 is bound, and a command of PF0. -/
def five (op : Nat) (p : Bytes) : State :=
  { runs 1 op p with tenants := [(0, {}), (5, { t1 := 1, t2 := 1 })], masters := [(1, 0), (2, 5)] }
theorem witness_TenantsAndMasters_create :
    Serves (runs 1 0x0201 quotas) (.carrel 0) 0x0201 (cmd 1 0x0201 quotas) ∧ (runs 1 0x0201 quotas).sec.debugUnlocked = false ∧
    leastFrom (fun t => !thas (runs 1 0x0201 quotas).tenants t) 1023 1 = some 1 ∧ arg (cmd 1 0x0201 quotas) 0 ≠ 1 := by
  refine ⟨by unfold Serves; decide, rfl, rfl, by decide⟩
theorem witness_TenantsAndMasters_set :
    Serves (five 0x0202 (leBytes 2 5 ++ quotas)) (.carrel 0) 0x0202 (cmd 1 0x0202 (leBytes 2 5 ++ quotas)) ∧
    arg (cmd 1 0x0202 (leBytes 2 5 ++ quotas)) 0 = 5 ∧ arg (cmd 1 0x0202 (leBytes 2 5 ++ quotas)) 1 = 0 ∧
    poolHeld (five 0x0202 []) 5 = 0 ∧ tenantUsed (five 0x0202 []) 5 1 = 0 ∧ tenantUsed (five 0x0202 []) 5 2 = 0 := by unfold Serves; decide
theorem witness_TenantsAndMasters_low :
    arg (cmd 1 0x0202 (leBytes 2 5 ++ quotas)) 2 < poolHeld { five 0x0202 [] with pool := { handles := [(0, { master := 2, request := 1, protect := 0, node := 0, half := .h0, ext := 0 })] } } 5 := by decide
theorem witness_TenantsAndMasters_destroy :
    arg (cmd 1 0x0203 (leBytes 2 5)) 0 = 5 ∧ (∀ m ∈ [((1 : Nat), (0 : Nat))], m.2 ≠ 5) := by decide
theorem witness_TenantsAndMasters_bind :
    arg (cmd 1 0x0204 (bindFields 0 0x7F 5)) 0 = 0 ∧ bindable (arg (cmd 1 0x0204 (bindFields 0 0x7F 5)) 1) = true ∧
    tget (five 0x0204 (bindFields 0 0x7F 5)).masters 0x7F = none ∧ thas (five 0x0204 []).tenants 5 = true := by decide
theorem witness_TenantsAndMasters_unbind :
    arg (cmd 1 0x0204 (bindFields 1 2 5)) 0 = 1 ∧ arg (cmd 1 0x0204 (bindFields 2 2 5)) 0 = 2 ∧ tget (five 0x0204 []).masters 2 = some 5 ∧
    ownsObject (five 0x0204 []) 2 = false ∧ slipOf (five 0x0204 []) 2 = false := by decide
theorem witness_TenantsAndMasters_key :
    arg (cmd 2 0x0205 (leBytes 2 1 ++ zeros 128)) 0 = 1 ∧ cmdTenant (five 0x0205 []) (cmd 2 0x0205 []) = 5 := by decide

/-- A device in a power state since its start, a second ago, with a floor. -/
def idling (p floor : PowerState) : State := { up with now := 17000000000, power := { state := p, floor := floor } }
theorem witness_PowerStateMoves_floor :
    powerCode (runs 1 0x0A01 [3]).power.state ≤ powerCode (codePower (arg (cmd 1 0x0A01 [3]) 0)) ∧
    powerCode (codePower (arg (cmd 1 0x0A01 [0]) 0)) < powerCode (runs 1 0x0A01 [0]).power.state ∧
    codePower (arg (cmd 1 0x0A01 [0]) 0) = .active ∧ (runs 1 0x0A01 [0]).power.wake = none := by decide
theorem witness_PowerStateMoves_ready :
    (idling .active .ready).power.state = .active ∧ floorAllows (idling .active .ready) .ready = true ∧ stepBusy (idling .active .ready) = false ∧
    (idling .active .ready).power.idleSince + 160000 ≤ (idling .active .ready).now ∧ doorbellComes (idling .active .ready) = false := by decide
theorem witness_PowerStateMoves_doze :
    floorAllows (idling .ready .doze) .doze = true ∧ slipBusy (idling .ready .doze) = false ∧ (idling .ready .doze).power.wake = none ∧
    (idling .ready .doze).power.noSlipSince + 16000000 ≤ (idling .ready .doze).now := by decide
theorem witness_PowerStateMoves_sleep :
    floorAllows (idling .doze .sleep) .sleep = true ∧ serveBusy (idling .doze .sleep) = false ∧
    (idling .doze .sleep).power.quietSince + 1600000000 ≤ (idling .doze .sleep).now := by decide
theorem witness_PowerStateMoves_wake :
    ({ up with power := { up.power with wake := some ⟨.ready, 0⟩ } } : State).power.wake = some ⟨.ready, 0⟩ := rfl
theorem witness_PowerStateMoves_asleep :
    (idling .sleep .sleep).power.state = .sleep ∧ tierServed (idling .sleep .sleep) = true := by decide
theorem witness_PowerStateMoves_visit :
    ({ idling .sleep .sleep with now := 960000000000 } : State).power.lastScrubVisit + 960000000000 ≤ 960000000000 := by decide

theorem witness_ThermalAndThrottle : up.power.state ≠ .auxOnly ∧ up.pins.aux = true ∧ 128 ≤ up.power.throttle.get .h0 := by decide
theorem witness_ThermalAndThrottle_hot :
    max ({ up.power with tjC0 := 103 } : Power).tjC0 0 = 103 ∧ max ({ up.power with tjT1 := 100 } : Power).tjT1 0 = 100 ∧ up.power.limit < 951 := by decide
theorem test_throttle_128 :
    (throttleNew { up.power with tjC0 := 103, throttle := ⟨300, 1024⟩ } .h0) = 128 := by decide
theorem test_throttle_up : (throttleNew { up.power with tjC0 := 97, throttle := ⟨1000, 1024⟩ } .h0) = 1024 := by decide

theorem witness_PowerInputsAndResets_on :
    State.reset.pins.aux = true ∧ State.reset.boot.stage = .auxOnly ∧ State.reset.boot.recordRead = false ∧ State.reset.pins.main = .outOfRange := by decide
theorem witness_PowerInputsAndResets_rails :
    railsOn up = true ∧ up.pins.main = .inRange ∧ up.pins.aux = true ∧ up.pins.thermtripN = true ∧ up.pins.perstN = true ∧ up.boot.stage = .served := by decide
/-- A device in AUX_ONLY whose record has been read. -/
def auxOnly : State := { State.reset with pins := { main := .inRange }, boot := { recordRead := true } }
theorem witness_PowerInputsAndResets_step3 :
    auxOnly.pins.aux = true ∧ auxOnly.boot.recordRead = true ∧ auxOnly.pins.main = .inRange ∧ auxOnly.pins.thermtripN = true ∧
    auxOnly.boot.departed = false ∧ auxOnly.boot.stage = .auxOnly := by decide
theorem witness_PowerInputsAndResets_back :
    ({ auxOnly with boot := { auxOnly.boot with departed := true }, now := 160000000 } : State).boot.inRangeSince + 160000000 ≤ 160000000 := by decide
theorem witness_PowerInputsAndResets_trip : tripDue { up with power := { up.power with tjC1 := 110 } } = true := by decide
theorem witness_PowerInputsAndResets_rise :
    auxOnly.pins.perstN = false ∧ ({ auxOnly with boot := { auxOnly.boot with stage := .railsGood } } : State).boot.stage = .railsGood := by decide

/-- A command with a BUF_IN of 64 bytes. -/
def cmdIn (op : Nat) (p : Bytes) : RunCmd :=
  { src := .carrel 0, mid := 3, node := 0, seq := 1
    msg := leBytes 2 op ++ leBytes 2 p.length ++ leBytes 2 1 ++ zeros 2 ++ leBytes 8 0 ++ leBytes 4 64 ++ zeros 12 ++ p }
theorem witness_ConfigurationFirmwareAndDebug_config :
    arg (cmdIn 0x0A04 (leBytes 2 0 ++ leBytes 2 12)) 1 ≤ msgInLen (cmdIn 0x0A04 (leBytes 2 0 ++ leBytes 2 12)).msg ∧
    bufOpen up (cmdIn 0x0A04 (leBytes 2 0 ++ leBytes 2 12)) = true := by decide
theorem witness_ConfigurationFirmwareAndDebug_held :
    bufOpen { up with host := { up.host with tags := (List.range 1024).map (fun i => ((.pf0, i), .outstanding 0 0 false)) } }
      { cmdIn 0x0A04 (leBytes 2 0 ++ leBytes 2 12) with mid := 1 } = false := by decide +kernel
theorem witness_ConfigurationFirmwareAndDebug_stage :
    arg (cmdIn 0x0B02 (leBytes 4 0xFFFFC0 ++ leBytes 4 64)) 0 + arg (cmdIn 0x0B02 (leBytes 4 0xFFFFC0 ++ leBytes 4 64)) 1 ≤ 2 ^ 24 := by decide
theorem witness_ConfigurationFirmwareAndDebug_commit :
    up.fw.commit ≠ 1 ∧ ({ up with fw := { commit := 1 } } : State).fw.commit = 1 ∧ up.boot.stage ≠ .recovery := by decide
theorem witness_ConfigurationFirmwareAndDebug_diag :
    arg (cmd 1 0x0B04 [1]) 0 ≠ 0 ∧ arg (cmd 1 0x0B04 [0]) 0 = 0 ∧ ¬(∃ t ∈ up.tenants, t.1 ≠ 0) ∧ slipWaits up = false ∧ up.eng.ctxs = [] := by decide
theorem witness_ConfigurationFirmwareAndDebug_debug :
    railsOn up = true ∧ up.sec.debugUnlocked = false ∧ up.sec.debugFails < 3 ∧ ¬(up.sec.debugFails + 3 < 3) := by decide
theorem witness_ConfigurationFirmwareAndDebug_response :
    ({ up with sec := { debugChallenge := some [] } } : State).sec.debugChallenge = some [] := rfl

/-- The fields of REGION_ALLOC in tier 1 of H0. -/
def allocVals (n : Nat) : List Val := [.u 1 1, .u 1 0, .u 2 1, .u 4 n]
theorem witness_RegionCommands_alloc :
    tierClosed (leaveSleep (desk 2 0x0301 (allocVals 65))) 1 .h0 = false ∧ natBit (arg (dcmd 2 0x0301 (allocVals 65)) 2) 0 = true ∧
    findRun (leaveSleep (desk 2 0x0301 (allocVals 65))) 1 .h0 67 true = some (2 ^ 31) ∧
    zeroOpen (leaveSleep (desk 2 0x0301 (allocVals 65))) (2 ^ 31 * mib2) = true ∧
    tenantUsed (desk 2 0x0301 (allocVals 65)) 5 1 + 67 ≤ tenantQuota (desk 2 0x0301 (allocVals 65)) 5 1 := by decide
theorem witness_RegionCommands_quota :
    tenantQuota (desk 2 0x0301 (allocVals 513)) 5 1 < tenantUsed (desk 2 0x0301 (allocVals 513)) 5 1 + arg (dcmd 2 0x0301 (allocVals 513)) 3 := by decide
theorem witness_RegionCommands_full :
    findRun (desk 2 0x0301 (allocVals 92161)) 1 .h0 92161 true = none ∧ findRun (desk 2 0x0301 (allocVals 92161)) 1 .h0 92161 false = none := by decide
/-- A region of PF1 in tier 1 of H0. -/
def region0 : Region :=
  { base := 2 ^ 52, granules := 1, dataGranules := 1, tier := 1, half := .h0, master := 2, tenant := 5, protect := false }
/-- A device on which PF1 holds that region. -/
def withRegion (op : Nat) (vs : List Val) : State := { desk 2 op vs with regions := [region0] }
theorem witness_RegionCommands_free :
    daRefused (leaveSleep (withRegion 0x0302 [.u 8 (2 ^ 52)])) 2 (2 ^ 52) = false ∧ daRange (2 ^ 52) = 1 ∧
    (withRegion 0x0302 []).regions.find? (fun r => r.base == arg (dcmd 2 0x0302 [.u 8 (2 ^ 52)]) 0 && r.master == 2) = some region0 ∧
    rangeHolds (withRegion 0x0302 []) (region0.base, region0.granules * mib2) = false := by decide
/-- The fields of REGION_COPY: the direction, and 64 bytes at both ends of the region. -/
def copyVals (dir : Nat) : List Val := [.u 1 dir, .u 4 64, .u 8 0, .u 8 (2 ^ 52), .u 8 (2 ^ 52 + 2 ^ 21 - 64)]
theorem witness_RegionCommands_copy :
    arg (dcmd 2 0x0303 (copyVals 2)) 0 = 2 ∧ deskCode (leaveSleep (withRegion 0x0303 (copyVals 2))) 2 (2 ^ 52) 64 false = rcDone ∧
    deskCode (leaveSleep (withRegion 0x0303 (copyVals 2))) 2 (2 ^ 52 + 2 ^ 21 - 64) 64 true = rcDone ∧
    anyFenced (leaveSleep (withRegion 0x0303 (copyVals 2))) = false ∧
    runtimeOpen (leaveSleep (withRegion 0x0303 (copyVals 2))) 1 2 (2 ^ 52) false = true ∧
    runtimeOpen (leaveSleep (withRegion 0x0303 (copyVals 2))) 1 2 (2 ^ 52 + 2 ^ 21 - 64) true = true ∧
    capOpen (leaveSleep (withRegion 0x0303 (copyVals 1))) 1 (hostRes (leaveSleep (withRegion 0x0303 (copyVals 1))) 2 true) = true ∧
    bufOpen (leaveSleep (withRegion 0x0303 (copyVals 0))) (dcmd 2 0x0303 (copyVals 0)) = true ∧ arg (dcmd 2 0x0303 (copyVals 0)) 0 = 0 := by decide
/-- A bandwidth ledger in which the tiers are at their caps in classes 1 and 5. -/
def capped : Bw :=
  { cells := ((List.range 8).flatMap (fun r => [1, 5].map (fun c => ((r, c), { cap := 1, deliv := 1 })))) }
theorem witness_RegionCommands_held :
    runtimeOpen { leaveSleep (withRegion 0x0303 (copyVals 2)) with bw := capped } 1 2 (2 ^ 52) false = false ∧
    (copyCode { leaveSleep (withRegion 0x0303 (copyVals 2)) with bw := capped } (dcmd 2 0x0303 (copyVals 2)) 2 (2 ^ 52) (2 ^ 52 + 2 ^ 21 - 64) 64).2 = rcDone ∧
    zeroOpen { up with bw := capped } (2 ^ 31 * mib2) = false := by decide +kernel
theorem witness_RegionCommands_zeroing :
    ({ up with zeroing := [2 ^ 31] } : State).zeroing.contains (2 ^ 52 / 2 ^ 21) = true ∧ zeroOpen up (2 ^ 52 / 2 ^ 21 * 2 ^ 21) = true := by decide
theorem witness_RegionCommands_clean :
    rtPoison (readAny (chargeRead (leaveSleep (withRegion 0x0303 (copyVals 1))) 1 (2 ^ 52) 64 (.tier .h0)) 2 (2 ^ 52) 64 .none).2.2 (2 ^ 52) 64 = false ∧
    rtPoison [2 ^ 52] (2 ^ 52) 64 = true := by decide

/-- A tensor of PF1 with one tile, in tier 2, with a FULL working copy. -/
def tensor0 (wc : Option WorkCopy) : Tensor :=
  { id := 0, master := 2, params := { method := 0, alphabet := 0, rank := 0, q := 0, ntab := 0, nm := 1, rows := 32, cols := 32, tag := 7 }
    pbase := 2 ^ 53, cbase := 2 ^ 53 + 2 ^ 16, tbase := 0, digest := [], wc := wc }
/-- A device on which that tensor is loaded. -/
def withTensor (wc : Option WorkCopy) (op : Nat) (vs : List Val) : State := { withRegion op vs with tensors := [(0, tensor0 wc)] }
/-- The fields of WORKING_COPY of that tensor. -/
def wcVals (o : Nat) : List Val := [.u 4 7, .u 1 o, .u 1 0, .u 4 1, .u 8 (2 ^ 52), .u 8 0]
theorem witness_WorkingCopies :
    tensorByTag (leaveSleep (withTensor none 0x0304 (wcVals 1))) 2 (arg (dcmd 2 0x0304 (wcVals 1)) 0) = some (tensor0 none) ∧
    (dcmd 2 0x0304 (wcVals 1)).acc = [] ∧ arg (dcmd 2 0x0304 (wcVals 2)) 1 = 2 ∧
    daRange (tensor0 none).pbase ≠ 1 ∧ wcFetching (wcEnd (leaveSleep (withTensor none 0x0304 (wcVals 0))) (tensor0 none)) 0 = false ∧
    arg (dcmd 2 0x0304 (wcVals 0)) 1 = 0 := by decide
/-- The working copy that these fields name. -/
def wc0 : WorkCopy := { mode := .full, half := .h0, hs := 1, w0 := 2 ^ 52, w1 := 0, src := some (.carrel 0) }
/-- The same, with no command that waits for it. -/
def wc1 : WorkCopy := { mode := .staged, half := .h0, hs := 1, w0 := 2 ^ 52, w1 := 0, copying := [(0, 3)] }
/-- A device on which the tensor's working copy is being read. -/
def wcRead (c : RunCmd) : State :=
  { withTensor (some wc1) 0x0304 (wcVals 0) with
    cp := { (withTensor (some wc1) 0x0304 (wcVals 0)).cp with running := [c] }
    eng := { (withTensor (some wc1) 0x0304 (wcVals 0)).eng with
      copies := [((0, .tile 0 0), { state := .arriving, granule := 0, granules := 1, fromWc := true, users := [], charge := .pool, pin := false, cls := 0, requestedAt := 0 })] } }
theorem witness_WorkingCopies_full :
    wcPartCode (leaveSleep (withTensor none 0x0304 (wcVals 1))) 2 (tensor0 none).params wc0 .h0 = rcDone ∧
    wcPartCode (leaveSleep (withTensor none 0x0304 (wcVals 1))) 2 (tensor0 none).params wc0 .h1 = rcDone ∧
    (tensor0 (some wc0)).wc.isSome = true ∧ (tensor0 (some wc1)).wc.bind (·.src) = none := by decide
theorem witness_WorkingCopies_waits :
    wcFetching (wcEnd (leaveSleep (wcRead (dcmd 2 0x0304 (wcVals 0)))) (tensor0 (some wc1))) 0 = true ∧
    tget (wcRead (dcmd 2 0x0304 (wcVals 0))).tensors 0 = some (tensor0 (some wc1)) ∧
    ({ dcmd 2 0x0304 (wcVals 0) with acc := leBytes 8 0 }).acc ≠ [] ∧
    wcFetching (leaveSleep (withTensor none 0x0304 (wcVals 0))) (leVal (leBytes 8 0)) = false := by decide
theorem witness_WorkingCopies_waits_serves :
    Serves (wcRead { dcmd 2 0x0304 (wcVals 0) with acc := leBytes 8 0 }) (.carrel 0) 0x0304 { dcmd 2 0x0304 (wcVals 0) with acc := leBytes 8 0 } := by
  unfold Serves; decide
theorem witness_WorkingCopies_tile :
    tget (withTensor (some wc0) 0 []).tensors 0 = some (tensor0 (some wc0)) ∧ 0 < nTiles (tensor0 (some wc0)).params ∧ 0 ∉ wc0.present ∧
    daRange (masterTile (tensor0 (some wc0)) 0).1 ≤ 2 ∧ (tensor0 (some wc0)).damaged = false ∧ ¬0 + 1 < nTiles (tensor0 (some wc0)).params ∧
    spanUsable (withTensor (some wc0) 0 []) (wcTile (tensor0 none).params wc0 0).1 (slotBytes (tensor0 none).params) = true ∧
    spanUsable (withTensor (some wc0) 0 []) (wcTile (tensor0 none).params wc0 0).2 32 = true ∧
    capOpen (withTensor (some wc0) 0 []) 5 (readPath (masterTile (tensor0 none) 0).1 (.tier .h0) ++ writePath (wcTile (tensor0 none).params wc0 0).1 (.tier .h0)) = true ∧
    thas wc1.copying 0 = true ∧ wc1.mode ≠ .full ∧ thas wc1.copying 1 = false ∧
    (readFolio (withTensor (some wc0) 0 []) 2 (tensor0 none).params (2 ^ 53) (2 ^ 53 + 2 ^ 16) 0).2.2 = false := by decide

/-- The fields of KV_CREATE: one head, 128 wide, one page. -/
def kvVals : List Val := [.u 1 1, .u 1 0, .u 2 128, .u 2 1, .u 1 0]
theorem witness_KeyValueObjects_create :
    tierClosed (leaveSleep (desk 2 0x0305 kvVals)) 1 .h0 = false ∧ ceilDiv (arg (dcmd 2 0x0305 kvVals) 0 * 2 * arg (dcmd 2 0x0305 kvVals) 3 * 16) mib2 = 1 ∧
    findRun (leaveSleep (desk 2 0x0305 kvVals)) 1 .h0 1 true = some (2 ^ 31) ∧ zeroOpen (leaveSleep (desk 2 0x0305 kvVals)) (2 ^ 31 * mib2) = true ∧
    tenantUsed (desk 2 0x0305 kvVals) 5 1 + 1 ≤ tenantQuota (desk 2 0x0305 kvVals) 5 1 ∧
    leastFrom (fun i => !thas (desk 2 0x0305 kvVals).kvs i) 1 0 = some 0 := by decide
/-- A key/value object of PF1 with one page. -/
def kv0 (fill : Nat) : KvObj :=
  { idx := 0, gen := 1, master := 2, tenant := 5, nh := 1, d := 128, format := 0, maxPages := 1, half := .h0, tableBase := 2 ^ 52 + 2 ^ 21
    tableGranules := 1, pages := [((0, 0, 0), { pda := 2 ^ 52, valid := true, fill := fill })] }
/-- A device with that object and a region. -/
def withKv (fill op : Nat) (vs : List Val) : State := { withRegion op vs with kvs := [(0, kv0 fill)] }
/-- The fields of KV_PAGES for that page. -/
def pageVals (o a : Nat) : List Val := [.u 8 (2 ^ 32), .u 1 0, .u 1 0, .u 1 o, .u 2 0, .u 2 1] ++ (if o = 0 then [.a 8 [a]] else [])
theorem witness_KeyValueObjects_pages :
    kvOf (leaveSleep (withKv 0 0x0306 (pageVals 0 (2 ^ 52)))) 2 (arg (dcmd 2 0x0306 (pageVals 0 (2 ^ 52))) 0) = some (kv0 0) ∧
    pagesCode (leaveSleep (withKv 0 0x0306 (pageVals 0 (2 ^ 52)))) 2 (kv0 0) [(0, 0, 0)] [2 ^ 52] = rcDone ∧
    pagesCode (leaveSleep (withKv 0 0x0306 (pageVals 0 1))) 2 (kv0 0) [(0, 0, 0)] [1] ≠ rcDone ∧
    arg (dcmd 2 0x0306 (pageVals 0 (2 ^ 52))) 4 + arg (dcmd 2 0x0306 (pageVals 0 (2 ^ 52))) 5 ≤ (kv0 0).maxPages ∧
    arg (dcmd 2 0x0306 (pageVals 1 0)) 3 ≠ 0 ∧ kvInUse (withKv 0 0x0306 []) (kvHandle (kv0 0)) = false := by decide
theorem witness_KeyValueObjects_move :
    pagesCode (leaveSleep (withKv 128 0x0307 [])) 2 (kv0 128) [] [2 ^ 52 + 2 ^ 20] = rcDone ∧ (pageOf (kv0 128) 0 0 0).fill = 128 ∧
    (dcmd 2 0x0307 []).acc = [] ∧ pageFetching (withKv 128 0x0307 []) (.page 0 0 0 0) (2 ^ 52) = false ∧ daRange (2 ^ 52 + 2 ^ 20) ≤ 2 ∧
    (pageOf (kv0 127) 0 0 0).fill ≠ 128 ∧
    pageFetching { withKv 128 0x0307 [] with eng := { (withKv 128 0x0307 []).eng with copies := [((0, .page 0 0 0 0), { state := .arriving, granule := 0, granules := 1, users := [], charge := .pool, pin := false, cls := 0, addr := 2 ^ 52, requestedAt := 0 })] } }
      (.page 0 0 0 0) (leVal (leBytes 8 (2 ^ 52))) = true := by decide
/-- A call slip that names the key/value object. -/
def kvTaken : Taken :=
  { slip := parseSlip [], block := { parseInput 0 [] with kv := [kvHandle (kv0 128)] }, volume := 0, queue := 0, poster := 2, takenAt := 0, consumed := 0, reserve := [] }
theorem witness_KeyValueObjects_used :
    kvInUse { withKv 128 0x0306 [] with eng := { (withKv 128 0x0306 []).eng with ctxs := [(0, newCtx kvTaken 0 0)] } } (kvHandle (kv0 128)) = true ∧
    0 < (pageOf (kv0 128) 0 0 0).fill := by decide
theorem witness_KeyValueObjects_guards :
    arg (dcmd 2 0x030C [.u 8 (2 ^ 32), .u 1 0]) 1 = 0 ∧ arg (dcmd 2 0x030C [.u 8 (2 ^ 32), .u 1 1]) 1 = 1 := by decide

/-- The fields of PLAIN_GRANULE for granule 3 and PF1. -/
def granVals (o : Nat) : List Val := [.u 1 o, .u 1 0, .u 2 0, .u 2 3, .u 2 2, .u 1 0, .a 2 [0, 0, 0, 0, 0, 0, 0, 0]]
theorem witness_PlainGranulesAndCache_add :
    arg (dcmd 1 0x0309 (granVals 0)) 0 = 0 ∧ granFieldsOk (leaveSleep (desk 1 0x0309 (granVals 0))) (dcmd 1 0x0309 (granVals 0)) = true ∧
    tierClosed (leaveSleep (desk 1 0x0309 (granVals 0))) 2 .h0 = false ∧ arg (dcmd 1 0x0309 (granVals 0)) 3 = 3 ∧
    findRun (leaveSleep (desk 1 0x0309 (granVals 0))) 2 .h0 512 true = some (2 ^ 32) ∧
    zeroOpen (leaveSleep (desk 1 0x0309 (granVals 0))) (2 ^ 32 * mib2) = true := by decide
/-- A granule of PF1 in a state. -/
def gran0 (st : GranState) : PlainGran := { half := .h0, home := 2 ^ 53, owner := 2, tenant := 5, access := [], protect := false, state := st }
/-- A device with that granule. -/
def withGran (st : GranState) (op : Nat) (vs : List Val) : State :=
  { desk 1 op vs with plain := { (desk 1 op vs).plain with granules := [(3, gran0 st)] }, now := 160000000000 }
theorem witness_PlainGranulesAndCache_remove :
    arg (dcmd 1 0x0309 (granVals 1)) 0 ≠ 0 ∧ tget (leaveSleep (withGran .inService 0x0309 (granVals 1))).plain.granules 3 = some (gran0 .inService) ∧
    granInWindow (leaveSleep (withGran .inService 0x0309 (granVals 1))) 3 = false ∧
    (gran0 .inService).accessedAt ≠ some 160000000000 ∧ leavingFor (gran0 (.adding (.carrel 0) 0)) (.carrel 0) = false ∧
    leavingFor (gran0 (.leaving (.carrel 0) 3)) (dcmd 1 0x0309 (granVals 1)).src = true := by decide
theorem witness_PlainGranulesAndCache_host :
    mailUp { withGran (.adding (.carrel 0) 0) 0x0309 (granVals 0) with host := { x8x8 := false, link0 := { rate := 640, width := 16 } } } = true ∧
    tget (withGran (.adding (.carrel 0) 0) 0 []).plain.granules 3 = some (gran0 (.adding (.carrel 0) 0)) ∧
    0 + 160000000000 ≤ (withGran (.removing (.carrel 0) 0) 0 []).now := by decide
theorem witness_PlainGranulesAndCache_cache :
    topFree (leaveSleep (desk 1 0x030A [.u 2 180, .u 2 0, .u 1 0])) .h0 (arg (dcmd 1 0x030A [.u 2 180, .u 2 0, .u 1 0]) 0) = true ∧
    topFree (leaveSleep (desk 1 0x030A [.u 2 180, .u 2 0, .u 1 0])) .h1 0 = true ∧
    topFree (leaveSleep (desk 1 0x030A [.u 2 181, .u 2 0, .u 1 0])) .h0 181 = false := by decide
theorem witness_PlainGranulesAndCache_flush : (dcmd 1 0x030B [.u 2 0, .u 2 1]).mid = 1 := rfl

/-- A parameter record: PLAIN, E4M3, one matrix of 32 by 32 under TAG 7. -/
def pBytes : Bytes := [0, 0xC, 0, 33, 0] ++ zeros 3 ++ leBytes 4 1 ++ leBytes 4 32 ++ leBytes 4 32 ++ leBytes 4 7 ++ zeros 8
/-- The fields of TENSOR_ACCESSION whose source and destinations lie in region 0. -/
def accVals : List Val := [.b pBytes, .u 1 0, .u 2 0, .u 8 (2 ^ 52), .u 4 1056, .u 8 (2 ^ 52 + 2 ^ 16), .u 8 (2 ^ 52 + 2 ^ 17), .u 8 0, .b (zeros 32), .b (zeros 64)]
theorem witness_AccessionCommands_accept :
    accCode (leaveSleep (withRegion 0x0401 accVals)) (dcmd 2 0x0401 accVals) = rcAccepted := by decide
/-- The request of those fields. -/
def acc0 : AccReq := accRequest (dcmd 2 0x0401 accVals)
/-- Seventeen requests, one of them running. -/
def accBusy : State :=
  { withRegion 0x0401 accVals with acc := { running := some (acc0, { master := 2, tag := 7 }), queue := List.replicate 16 acc0 } }
theorem witness_AccessionCommands_full :
    (leaveSleep accBusy).acc.running ≠ none ∧ 16 ≤ (leaveSleep accBusy).acc.queue.countP (fun x => x.window.isNone) := by decide
theorem witness_AccessionCommands_status :
    (leaveSleep { withRegion 0x0402 [.u 4 7] with acc := { queue := [acc0] } }).acc.queue.any (reqIs 2 (arg (dcmd 2 0x0402 [.u 4 7]) 0)) = true ∧
    tensorByTag (leaveSleep (withTensor none 0x0402 [.u 4 7])) 2 (arg (dcmd 2 0x0402 [.u 4 7]) 0) = some (tensor0 none) ∧
    ({ withRegion 0x0402 [.u 4 7] with acc := { failed := [{ master := 2, tag := 7 }] } }).acc.failed.find?
      (fun x : AccReport => x.master == 2 && x.tag == arg (dcmd 2 0x0402 [.u 4 7]) 0) = some { master := 2, tag := 7 } := by decide
theorem witness_AccessionCommands_unload :
    tensorByTag (leaveSleep (withTensor none 0x0403 [.u 4 7])) 2 (arg (dcmd 2 0x0403 [.u 4 7]) 0) = some (tensor0 none) ∧
    boundBy (withTensor none 0x0403 [.u 4 7]) 0 = 0 ∧ inAccession (withTensor none 0x0403 [.u 4 7]) 2 7 = false ∧
    windowNames (withTensor none 0x0403 [.u 4 7]) (tensor0 none) = false ∧
    inAccession { withTensor none 0x0403 [.u 4 7] with acc := { queue := [acc0] } } 2 7 = true := by decide
theorem witness_AccessionCommands_guards :
    arg (dcmd 2 0x0408 [.u 4 7, .u 1 0]) 1 ≠ 1 ∧ arg (dcmd 2 0x0408 [.u 4 7, .u 1 1]) 1 = 1 ∧
    tensorByTag (leaveSleep (withTensor none 0x0408 [.u 4 7, .u 1 1])) 2 (arg (dcmd 2 0x0408 [.u 4 7, .u 1 1]) 0) = some (tensor0 none) := by decide
/-- The fields of TENSOR_ORIGIN that declare no copy. -/
def originVals : List Val := [.u 4 7, .u 8 0, .u 8 0, .u 8 0, .u 8 0]
theorem witness_AccessionCommands_origin :
    originCode (leaveSleep (withTensor none 0x0409 originVals)) (tensor0 none) (arg (dcmd 2 0x0409 originVals) 1) (arg (dcmd 2 0x0409 originVals) 2) = rcDone ∧
    originCode (leaveSleep (withTensor none 0x0409 originVals)) (tensor0 none) (arg (dcmd 2 0x0409 originVals) 3) (arg (dcmd 2 0x0409 originVals) 4) = rcDone ∧
    tensorByTag (leaveSleep (withTensor none 0x0409 originVals)) 2 (arg (dcmd 2 0x0409 originVals) 0) = some (tensor0 none) := by decide
/-- A PLAIN request of no tile, whose coded form is empty. -/
def accNone : AccReq := { acc0 with params := { acc0.params with nm := 0 } }
theorem witness_AccessionCommands_start :
    runEncode accNone.params #[] [] accNone.src = .coded [] [] 0 0 ∧ accNone.window = none ∧ accNone.coded = false ∧
    runEncode acc0.params #[] [acc0.src] acc0.src = .failed rcPoisoned 0 := ⟨rfl, rfl, rfl, by decide⟩
theorem witness_AccessionCommands_end :
    acc0.window = none ∧ acc0.expect = none ∧ acc0.signed = false ∧ tensorByTag (withRegion 0 []) acc0.master acc0.params.tag = none ∧
    ({ acc0 with expect := some [1] }).expect = some [1] ∧ [1] ≠ ({ master := 2, tag := 7 } : AccReport).digest ∧
    accSigned { withRegion 0 [] with masters := [] } { acc0 with signed := true } [] = false := by decide

/-- A PLAIN E4M3 tensor of one tile. -/
def tensor1 : Tensor := { tensor0 none with params := { (tensor0 none).params with alphabet := 0xC, q := 33 } }
/-- A window over granule 3 of PF1. -/
def win0 (k : WinKind) (st : WinState) (cur : Option Nat) : WeightWin :=
  { kind := k, state := st, master := 2, half := .h0, g := 3, count := 1, params := tensor1.params, paramBytes := [], pbase := 2 ^ 53
    cbase := 2 ^ 53 + 2 ^ 16, tbase := 0, autoseal := false, current := cur }
/-- A device with granule 3 in service and a tensor, and perhaps a window. -/
def withWin (ws : Tbl Nat WeightWin) (op : Nat) (vs : List Val) : State :=
  { desk 2 op vs with tensors := [(0, tensor1)]
                      plain := { (desk 2 op vs).plain with granules := [(3, gran0 .inService)], windows := ws } }
/-- The fields of WINDOW_DECLARE of a VIEW window. -/
def winVals : List Val := [.u 1 1, .u 1 0, .u 2 0, .u 2 3, .u 2 1, .u 4 7, .b (zeros 32), .u 8 0, .u 8 0, .u 8 0]
theorem witness_WeightWindows_declare :
    (windowOf (leaveSleep (withWin [] 0x0404 winVals)) (dcmd 2 0x0404 winVals)).toOption = some (win0 .view .ready (some 0)) ∧
    windowLen .view tensor1.params ≤ 1 * gib ∧ windowAccess (leaveSleep (withWin [] 0x0404 winVals)) 2 3 1 .view = true ∧
    (gran0 .inService).protect = false ∧ granInWindow (leaveSleep (withWin [] 0x0404 winVals)) 3 = false ∧
    leastFrom (fun n => !thas (leaveSleep (withWin [] 0x0404 winVals)).plain.windows n) 64 0 = some 0 ∧
    granInWindow (leaveSleep (withWin [(0, win0 .view .ready (some 0))] 0x0404 winVals)) 3 = true := by decide
theorem witness_WeightWindows_states :
    tget (leaveSleep (withWin [(0, win0 .ingest .filling none)] 0x0405 [.u 2 0])).plain.windows (arg (dcmd 2 0x0405 [.u 2 0]) 0) = some (win0 .ingest .filling none) ∧
    tget (leaveSleep (withWin [(0, win0 .ingest .ready none)] 0x0406 [.u 2 0])).plain.windows (arg (dcmd 2 0x0406 [.u 2 0]) 0) = some (win0 .ingest .ready none) ∧
    tget (leaveSleep (withWin [(0, win0 .ingest .encoding none)] 0x0407 [.u 2 0])).plain.windows (arg (dcmd 2 0x0407 [.u 2 0]) 0) = some (win0 .ingest .encoding none) ∧
    (win0 .ingest .filling none).master = (dcmd 2 0x0405 [.u 2 0]).mid := by decide
/-- A device on whose window PF1 may read. -/
def winUp : State := withWin [(0, win0 .view .ready none)] 0 []
/-- Its read of the window's first line. -/
def winRead : CacheWait := { mid := 2, dest := .cxl, die := replyDie (leaveSleep winUp) .cxl, off := 3 * gib, len := 64, write := none }
theorem witness_WeightWindows_read :
    tierServed winUp = true ∧ windowAt (granTouch (leaveSleep winUp) (3 * gib) 64) (3 * gib) = some (0, win0 .view .ready none) ∧
    64 ≤ (3 + 1) * gib - 3 * gib ∧ behindWait (granTouch (leaveSleep winUp) (3 * gib) 64) (3 * gib) 64 false = false ∧
    plainOpen (granTouch (leaveSleep winUp) (3 * gib) 64) winRead = true ∧ (windowAt winUp (3 * gib)).isSome = true ∧
    plainAllowed (leaveSleep winUp) 2 (3 * gib) 64 false = true ∧ plainAllowed (leaveSleep winUp) 3 (3 * gib) 64 false = false := by decide

/-- A read of 64 bytes at granule 3's first line. -/
def plainRead0 : CacheWait :=
  { mid := 2, dest := .cxl, die := replyDie (leaveSleep (withGran .inService 0 [])) .cxl, off := 3 * gib, len := 64, write := none }
theorem witness_PlainRequests_read :
    tierServed (withGran .inService 0 []) = true ∧ plainAllowed (leaveSleep (withGran .inService 0 [])) 2 (3 * gib) 64 false = true ∧
    plainAllowed (leaveSleep (withGran .inService 0 [])) 3 (3 * gib) 64 false = false ∧
    behindWait (granTouch (leaveSleep (withGran .inService 0 [])) (3 * gib) 64) (3 * gib) 64 false = false ∧
    plainOpen (granTouch (leaveSleep (withGran .inService 0 [])) (3 * gib) 64) plainRead0 = true ∧
    tget (withGran .inService 0 []).plain.granules (3 * gib / gib) = some (gran0 .inService) ∧ windowAt (withGran .inService 0 []) (3 * gib) = none ∧
    entryOf (withGran .inService 0 []) .h0 (daMk 8 (3 * gib)) = none ∧ cacheable (withGran .inService 0 []) (gran0 .inService) (3 * gib) = false ∧
    ((withGran .inService 0 []).halves.get .h0).fenced = false := by decide
/-- That device with a cache of 1 GiB in H0, and one way of it. -/
def withWay (w : Way) : State :=
  { withGran .inService 0 [] with plain := { (withGran .inService 0 []).plain with cache := ⟨{ share := 1, ways := [((0, 0), w)] }, {}⟩ } }
/-- That device with the granule's first block leaving the cache. -/
def withLeaving : State :=
  let k := (setOf (withWay {}) .h0 (3 * gib), 0)
  { withWay {} with plain := { (withWay {}).plain with
      cache := ⟨{ share := 1, ways := [(k, { block := 3 * 2 ^ 18, state := .evicting })] }, {}⟩ } }
/-- That device with the read waiting. -/
def withWait (w : CacheWait) : State :=
  { withGran .inService 0 [] with plain := { (withGran .inService 0 []).plain with waits := [w] } }
theorem witness_PlainRequests_wait :
    (plainGet (.tier .h0) false [] 64 (withWay {}) (3 * gib) 64).2 = none ∧ plainAllowed (withWay {}) 2 (3 * gib) 64 true = true ∧
    anyFenced (withWay {}) = false ∧ anyFenced { withWay {} with halves := ⟨{ fenced := true }, {}⟩ } = true ∧
    (plainSet (.tier .h0) false 64 withLeaving 2 (3 * gib) (zeros 64)).2.isSome = true ∧
    behindWait (granTouch (leaveSleep (withWait { plainRead0 with write := some (zeros 64) })) (3 * gib) 64) (3 * gib) 64 false = true ∧
    behindWait (granTouch (leaveSleep (withWait plainRead0)) (3 * gib) 64) (3 * gib) 64 true = true := by decide
theorem witness_PlainRequests_ways :
    (wayAt (withWay { state := .filling }) .h0 (0, 0)).state = .filling ∧ (wayAt (withWay { state := .filling }) .h0 (0, 0)).valid.getLsbD 63 = false ∧
    fillOpen (withWay { state := .filling }) .h0 (wayAt (withWay { state := .filling }) .h0 (0, 0)) 63 = true ∧
    evictOpen (withWay { state := .evicting }) .h0 (wayAt (withWay { state := .evicting }) .h0 (0, 0)) = true ∧
    (wayAt (withWay { state := .evicting }) .h0 (0, 0)).state = .evicting ∧ (wayAt (withWay { state := .valid, age := 6 }) .h0 (0, 0)).age < 7 ∧
    (wayAt (withWay { state := .valid, age := 7, dirty := 1 }) .h0 (0, 0)).dirty ≠ 0 ∧
    evictOpen (withWay { state := .valid, age := 7, dirty := 1 }) .h0 { state := .valid, age := 7, dirty := 1 } = true ∧ tierServed (withWay {}) = true ∧
    (withWay {}).plain.lastSweep + usT (64 * 2 ^ (withWay {}).plain.period) ≤ (withWay {}).now := by decide
/-- A bindery entry of that granule's first line. -/
def entry0 : BinderyEntry := { line := daMk 8 (3 * gib), mask := 1, data := zeros 64, since := 0, mid := 2 }
theorem witness_PlainRequests_bindery :
    entryOf { withGran .inService 0 [] with plain := { (withGran .inService 0 []).plain with bindery := ⟨[entry0], []⟩ } } .h0 (daMk 8 (3 * gib)) = some entry0 := by
  decide

/-- A volume image: one ACT step on FP32 in the VU buffer, and 64 bytes of signature. -/
def img0 : Bytes :=
  leBytes 2 1 ++ leBytes 2 128 ++ leBytes 4 9 ++ [1, 0] ++ leBytes 2 0 ++ leBytes 2 1 ++ leBytes 2 0 ++ leBytes 4 1 ++ zeros 12 ++ leBytes 4 0 ++ leBytes 4 128
    ++ leBytes 4 192 ++ zeros 12 ++ leBytes 4 256 ++ zeros 68 ++ ([0, 0, 0, 0] ++ leBytes 4 32 ++ zeros 8) ++ zeros 48
    ++ ([0x35, 0, 0, 0, 0, 0, 0xFF, 0xFF, 0, 0, 0xFF, 0xFF] ++ zeros 4 ++ [0, 1] ++ zeros 14) ++ zeros 32 ++ zeros 64
/-- The volume of that image. -/
def vol0 : Volume :=
  { key := 0, master := 2, volumeId := 9, group := 1, haltPolicy := false, nkv := 0, slots := []
    opers := [{ kind := 0, format := 0, splitIn := false, half := .h0, length := 32, addr := 0 }]
    steps := [{ opcode := 0x35, flags := 0, mode := 0, batch := 0, opa := 0, opb := 0xFFFF, opc := 0, opd := 0xFFFF, param := 0, unitFirst := 0, unitCount := 1
                cond := 0, set := 0, wait := 0 }]
    cats := [], probes := [], aux := [], reserve := [], pinGranules := [], vuAlloc := ⟨128, 0⟩ }
/-- The fields of VOLUME_LOAD of that image at the start of region 0. -/
def volVals : List Val := [.u 8 (2 ^ 52), .u 4 320]
theorem witness_VolumesAndQueues_load :
    parseVolume (withRegion 0x0501 volVals) 2 (img0.take 256) = some vol0 ∧ volumeOf (withRegion 0x0501 volVals) 2 9 = none ∧
    deskCode (leaveSleep (withRegion 0x0501 volVals)) 2 (arg (dcmd 2 0x0501 volVals) 0) (arg (dcmd 2 0x0501 volVals) 1) false = rcDone ∧
    touchesProtected (leaveSleep (withRegion 0x0501 volVals)) (2 ^ 52) 320 = false ∧
    rtPoison (readAny (leaveSleep (withRegion 0x0501 volVals)) 2 (2 ^ 52) 320 .none).2.2 (2 ^ 52) 320 = false ∧
    parseVolume (withRegion 0x0501 volVals) 2 (zeros 256) = none := by decide +kernel
theorem witness_VolumesAndQueues_fit :
    (∀ m, pinGranules (withRegion 0 []) m = 0) ∧ pinTiles (withRegion 0 []) vol0 = [] ∧ vol0.vuAlloc.h0 ≤ 2 ^ 25 ∧
    (loadReserve (withRegion 0 []) vol0 []).all (fun n => decide (n ≤ 7168)) = true := by
  refine ⟨fun m => rfl, ?_⟩; decide
/-- A device on which that volume is loaded, with one queue. -/
def withVol (q : Queue) (op : Nat) (vs : List Val) : State := { withRegion op vs with volumes := [(0, vol0)], queues := [(0, q)] }
/-- A queue of PF1 posted by it. -/
def que0 : Queue := { master := 2, poster := 2, window := none }
theorem witness_VolumesAndQueues_unload :
    volumeOf (leaveSleep (withVol que0 0x0502 [.u 4 9])) 2 (arg (dcmd 2 0x0502 [.u 4 9]) 0) = some vol0 ∧
    volumeSlips (withVol que0 0x0502 [.u 4 9]) 0 = (0, 0) := by decide
theorem witness_VolumesAndQueues_create :
    arg (dcmd 2 0x0503 [.u 2 2]) 0 = 2 ∧ leastFrom (fun n => !thas (withVol que0 0x0503 [.u 2 2]).queues n) 256 0 = some 1 ∧
    tenantOf (withVol que0 0x0503 [.u 2 1]) 1 ≠ tenantOf (withVol que0 0x0503 [.u 2 1]) 2 ∧ canPost 2 = true := by decide
theorem witness_VolumesAndQueues_destroy :
    tget (leaveSleep (withVol que0 0x0504 [.u 2 0])).queues (arg (dcmd 2 0x0504 [.u 2 0]) 0) = some que0 ∧ queueBusy (withVol que0 0x0504 []) 0 que0 = false := by decide
theorem witness_VolumesAndQueues_access :
    tierServed (withRegion 0 []) = true ∧ addrCode (withRegion 0 []) 2 (2 ^ 52) 64 true = rcDone ∧ addrCode (withRegion 0 []) 3 (2 ^ 52) 64 false = rcNotPermitted ∧
    anyFenced (withRegion 0 []) = false ∧ daRange (2 ^ 52) ≤ 2 ∧
    runtimeOpen (withRegion 0 []) 1 2 (2 ^ 52) true = true ∧ runtimeOpen (withRegion 0 []) 1 3 (2 ^ 52) false = true ∧
    runtimeOpen (withRegion 0 []) 1 2 (2 ^ 52) false = true := by decide

/-- A call slip of PF1 for that volume, in its slot of 64 bytes. -/
def slipBytes (halt : Nat) : Bytes :=
  leBytes 4 9 ++ zeros 4 ++ leBytes 8 (2 + halt) ++ leBytes 8 99 ++ leBytes 8 (2 ^ 52) ++ leBytes 8 0 ++ zeros 8 ++ leBytes 2 2 ++ leBytes 2 halt ++ zeros 4 ++ leBytes 8 (2 * halt) ++ zeros 8
/-- That call slip, taken. -/
def taken0 : Taken :=
  { slip := parseSlip (slipBytes 0), block := parseInput 0 (zeros 96), volume := 0, queue := 0, poster := 2, takenAt := 0, consumed := 0, reserve := [] }
/-- A device whose queue has that call slip in a slot and, with a HALT, taken. -/
def withSlip (halt : Nat) : State :=
  { withVol { que0 with taken := 2, slots := [(3, slipBytes halt)], waiting := if halt = 1 then [taken0] else [] } 0 [] with
    masters := [(1, 0), (2, 5)], host := { link0 := { rate := 640, width := 16 } } }
theorem witness_CallSlips_post :
    (tget (withSlip 0).queues 0).map (fun q => q.taken + 1) = some (3#64).toNat ∧ readMay (withSlip 0) 2 = true ∧ (withSlip 0).ras.moduleFault = false ∧
    (parseSlip (fit 64 (slipBytes 0))).halt = false ∧ volumeOf (withSlip 0) 2 (parseSlip (fit 64 (slipBytes 0))).volumeId = some vol0 ∧
    addrCode (withSlip 0) 2 (2 ^ 52) (inputLen (withSlip 0) vol0 false) false = rcDone := by decide
theorem witness_CallSlips_code :
    takeCode (withSlip 0) { que0 with taken := 2 } (fit 64 (slipBytes 0)) (parseSlip (fit 64 (slipBytes 0))) (some vol0) (some (zeros 96, false)) = rcDone ∧
    takeCode (withSlip 0) { que0 with taken := 2 } (fit 64 (slipBytes 0)) (parseSlip (fit 64 (slipBytes 0))) (some vol0) (some (zeros 96, true)) ≠ rcDone ∧
    loopOf vol0.steps = none ∧ vol0.haltPolicy = false ∧ lateAtTake { withSlip 0 with now := 16000 } (parseSlip (fit 64 (slipBytes 0))) = true := by decide +kernel
theorem witness_CallSlips_halt :
    (parseSlip (fit 64 (slipBytes 1))).halt = true ∧ slipReservedOk (fit 64 (slipBytes 1)) = true ∧ (parseSlip (fit 64 (slipBytes 1))).result % 64 = 0 ∧
    (parseSlip (fit 64 (slipBytes 1))).mid = 2 ∧ (parseSlip (fit 64 (slipBytes 1))).targetSeq < 3 ∧ taken0.slip.seq = 2 ∧
    (parseSlip (fit 64 (slipBytes 1))).targetSeq = 2 := by decide
theorem witness_CallSlips_admit :
    leastFrom (fun k => canAdmit (withSlip 1) (((withSlip 1).eng.admitPointer + k) % 256)) 256 0 = some 0 ∧
    placeRun (withSlip 1) vol0 taken0.reserve = some (0, 0, 0) := by decide +kernel
/-- A context of that call slip, with an END. -/
def ctx0 (stop : Option EndCode) : Ctx := { newCtx taken0 0 0 with stop := stop }
/-- A device that runs it. -/
def withCtx (x : Ctx) : State := { withSlip 0 with eng := { (withSlip 0).eng with ctxs := [(0, x)] } }
theorem witness_CallSlips_late :
    isLate { withCtx (ctx0 none) with now := 16000 } (ctx0 none) = true ∧ isLate (withCtx (ctx0 none)) (ctx0 none) = false ∧
    ctxVol (withCtx (ctx0 none)) (ctx0 none) = some vol0 := by decide
theorem witness_CallSlips_end :
    (ctx0 (some .listEnd)).stop = some .listEnd ∧ (ctx0 (some .listEnd)).pending = [] ∧ devNs (withCtx (ctx0 none)) ≤ deadlineOf (withCtx (ctx0 none)) (ctx0 none) := by
  decide

/-- A step of an opcode on FP32 in the VU buffer of H0. -/
def stepOf (op : Nat) (mode batch : Nat) (opb opd : Nat) : VStep :=
  { opcode := op, flags := 0, mode := BitVec.ofNat 8 mode, batch := batch, opa := 0, opb := opb, opc := 0, opd := opd, param := 0, unitFirst := 0
    unitCount := 1, cond := 0, set := 0, wait := 0 }
/-- A device, ACTIVE or not, whose context runs that step. -/
def withStep (st : VStep) (p : PowerState) (x : Ctx) : State :=
  { withCtx x with volumes := [(0, { vol0 with steps := [st] })], power := { state := p } }
theorem witness_VectorSteps_released :
    [(opElem, 3, 0, 0), (opRms, 0, 1, 0), (opLayer, 0, 1, 0), (opSoftmax, 0, 1, 0), (opRope, 0, 1, 0), (opAct, 0, 0, 0), (opMerge, 0, 1, 0), (opTopk, 0, 0, 1), (opMatvec, 0, 1, 0)].all
      (fun p =>
      let s := withStep (stepOf p.1 p.2.1 p.2.2.1 0 p.2.2.2) .active (ctx0 none)
      match releasable s 0 p.1 with
      | none => false
      | some (v, x, st) => !isLate s x && stepOpen s v x st) = true := by decide +kernel
theorem witness_VectorSteps_inputs :
    refusedAddr (withStep (stepOf opElem 3 0 0 0) .active (ctx0 none)) { vol0 with steps := [stepOf opElem 3 0 0 0] } (ctx0 none) (stepOf opElem 3 0 0 0) = none ∧
    (readVecs (withStep (stepOf opElem 3 0 0 0) .active (ctx0 none)) 0 vol0 (stepInputs (stepOf opElem 3 0 0 0))).2.2 = false ∧
    (readVecs (withStep (stepOf opElem 3 0 0 0) .active { ctx0 none with vuPoison := ⟨[(0, 4)], []⟩ }) 0 vol0 (stepInputs (stepOf opElem 3 0 0 0))).2.2 = true ∧
    homesFree (withStep (stepOf opElem 3 0 0 0) .active (ctx0 none)) vol0 (ctx0 none) 0 = true ∧ clocksRun (withStep (stepOf opElem 3 0 0 0) .active (ctx0 none)) = true ∧
    clocksRun (withStep (stepOf opElem 3 0 0 0) .ready (ctx0 none)) = false := by decide
/-- A volume whose output goes to the device address 0, which no master reaches. -/
def volDev : Volume := { vol0 with opers := [{ kind := 2, format := 0, splitIn := false, half := .h0, length := 32, addr := 0 }] }
theorem witness_VectorSteps_refused :
    (refusedAddr (withStep (stepOf opElem 3 0 0 0) .active (ctx0 none)) volDev (ctx0 none) (stepOf opElem 3 0 0 0)).isSome = true ∧
    isNanW 0x7F800001 = true := by decide

/-- A device on which PF1's context runs a matrix step: a tensor slot, a key/value slot and AUX data. -/
def withMat (op opa opd batch : Nat) (k : KvObj) (copies : List ((Nat × FolioId) × FolioCopy)) : State :=
  let vol : Volume := { vol0 with
    nkv := 1, aux := zeros 512, slots := [{ params := (tensor0 none).params, nprobe := 0, probeFirst := 0, satLimit := 0, digest := [], tensor := 0 }]
    opers := [{ kind := 6, format := 0, splitIn := false, half := .h0, length := 0, addr := 0 }, { kind := 8, format := 1, splitIn := false, half := .h0, length := 128, addr := 0 }
              , { kind := 7, format := 0, splitIn := false, half := .h0, length := 0, addr := 0 }, { kind := 0, format := 0, splitIn := false, half := .h0, length := 1024, addr := 0 }]
    steps := [{ stepOf op 0 batch 1 opd with opa := opa, opc := 3 }] }
  let job := { taken0 with block := { taken0.block with kv := [2 ^ 32] } }
  { withCtx (newCtx job 0 0) with
    volumes := [(0, vol)], power := { state := .active }, tensors := [(0, tensor0 none)], kvs := [(0, k)]
    halves := ⟨{ inService := true }, { inService := true }⟩
    eng := { (withCtx (newCtx job 0 0)).eng with copies := copies } }
/-- A RESIDENT copy attached to that step, with the bytes of an all-zero tile. -/
def copy0 : FolioCopy :=
  { state := .resident, granule := 0, granules := 33, bytes := leBytes 8 (2 ^ 28) ++ zeros 24, users := [{ ctx := 0, step := 0, iter := 0 }], charge := .pool
    pin := false, cls := 0, requestedAt := 0 }
/-- The volume, context and step that are released. -/
def rel (s : State) (op : Nat) : Option (Volume × Ctx × VStep) := (releasable s 0 op).filter (fun r => !isLate s r.2.1 && stepOpen s r.1 r.2.1 r.2.2)
theorem witness_MatrixSteps_matvec :
    (match rel (withMat opMatvec 0 0xFFFF 1 (kv0 0) [((0, .tile 0 0), copy0)]) opMatvec with
      | none => false
      | some (v, x, st) =>
        let s := withMat opMatvec 0 0xFFFF 1 (kv0 0) [((0, .tile 0 0), copy0)]
        let u := [((0, FolioId.tile 0 0) : Nat × FolioId)].foldl copyWords s
        let w := noteTensor (probeYield u 0) 0 0
        clocksRun s && homesFree s v x st.opc && actsFull v x [st.opb] && (v.slots.head?.map (slotSpoilt s) == some false)
          && (stepTileList s (tensor0 none).params st == [(0, 0)]) && (copyUse s 0 x [(0, .tile 0 0)] == .ready) && (copyUse u 0 x [(0, .tile 0 0)] == .ready)
          && (refusedAddr w v x st == none) && (expandTile (tensor0 none).params false 0 0 0 (copyBytes w (0, .tile 0 0))).isSome
          && !(readOper w 0 v st.opb .none).2.2 && !resetNow (consumeAct (readOper w 0 v st.opb .none).1 0 st.opb) [0]) = true := by decide +kernel
theorem witness_MatrixSteps_wait :
    (match rel (withMat opMatvec 0 0xFFFF 1 (kv0 0) []) opMatvec with
      | none => false
      | some (v, x, _) => !actsFull { v with opers := [{ kind := 1, format := 1, splitIn := false, half := .h0, length := 0, addr := 0 }] } x [0]
          && (v.slots.head?.map (slotSpoilt (withMat opMatvec 0 0xFFFF 1 (kv0 0) [])) == some false)
          && (copyUse (withMat opMatvec 0 0xFFFF 1 (kv0 0) []) 0 x [(0, .tile 0 0)] == .wait)
          && (copyUse (withMat opMatvec 0 0xFFFF 1 (kv0 0) [((0, .tile 0 0), { copy0 with state := .poisoned, users := [{ ctx := 0, step := 0, iter := 0, doomed := true }] })]) 0 x [(0, .tile 0 0)] == .doomed)) = true := by decide +kernel
/-- A key/value object with two pages of one token each. -/
def kv1 : KvObj :=
  { kv0 0 with pages := [((0, 0, 0), { pda := 2 ^ 52, valid := true, fill := 1 }), ((0, 1, 0), { pda := 2 ^ 52 + 2 ^ 17, valid := true, fill := 1 })] }
theorem witness_MatrixSteps_attn :
    (match rel (withMat opScore 2 0 1 kv1 [((0, .page 0 0 0 0), { copy0 with bytes := [] })]) opScore with
      | none => false
      | some (v, x, st) =>
        let s := withMat opScore 2 0 1 kv1 [((0, .page 0 0 0 0), { copy0 with bytes := [] })]
        (stepObj s v x st == some kv1) && actsFull v x [st.opb] && homesFree s v x st.opc && (stepPages s kv1 st == [(0, 0)])
          && (refusedAddr s v x st == none) && (addrCode s x.job.slip.mid (2 ^ 52) (pageBytes kv1) false == rcDone) && !attnOver s v kv1 st 1
          && attnOver s v kv1 st 2000 && (copyUse s 0 x [(0, .page 0 0 0 0)] == .ready)) = true := by decide +kernel
theorem witness_MatrixSteps_append :
    (match rel (withMat opAppend 2 0xFFFF 0 kv1 []) opAppend with
      | none => false
      | some (v, x, st) =>
        let s := withMat opAppend 2 0xFFFF 0 kv1 []
        (stepObj s v x st == some kv1) && (appendPages kv1 == [(0, 0, 0), (0, 1, 0)]) && !(readOper s 0 v st.opb .none).2.2
          && (addrCode s x.job.slip.mid (2 ^ 52 + 2 ^ 17) (pageBytes kv1) true == rcDone)) = true := by decide +kernel

/-- That device with other AUX data and another context. -/
def withAux (op batch : Nat) (aux : Bytes) (f : Ctx → Ctx) : State :=
  let s := withMat op 0 0xFFFF batch (kv0 0) [((0, .tile 0 0), copy0)]
  { s with volumes := tmod s.volumes 0 (fun v => { v with aux := aux }), eng := { s.eng with ctxs := tmod s.eng.ctxs 0 f } }
theorem witness_TokenSteps_embed :
    [0, 255].all (fun a => match rel (withAux opEmbed 0 (List.replicate 512 a) id) opEmbed with
      | none => false
      | some (v, x, st) =>
        let s := withAux opEmbed 0 (List.replicate 512 a) id
        (refusedAddr s v x st == none) && (v.slots.head?.map (slotSpoilt s) == some false) && (x.embedTok == none) && !(readOper s 0 v st.opb .none).2.2
          && ((stepSlot v.opers st).bind (fun i => v.slots[i]?) == v.slots.head?)
          && (decide (leVal (fit 4 (readOper s 0 v st.opb .none).2.1) < 32) == (a == 0))) = true := by decide +kernel
theorem witness_TokenSteps_row :
    embedTiles (tensor0 none).params 0 0 = [0] ∧ embedHolder (withAux opEmbed 0 [] id) (.tile 0 0) = some 0 ∧
    (embedRow (tensor0 none).params 0 copy0.bytes).isSome = true := by decide +kernel
/-- A sampler record that keeps one candidate. -/
def sampler0 : Bytes := leBytes 2 1 ++ zeros 2 ++ leBytes 4 0x3F800000 ++ leBytes 4 0x3F800000 ++ zeros 20
theorem witness_TokenSteps_sample :
    (match rel (withAux opSample 0 [] id) opSample with
      | none => false
      | some (v, x, st) => (x.lead == none) && !haltComing (withAux opSample 0 [] id) x && (refusedAddr (withAux opSample 0 [] id) v x st == none)
          && !(readOper (withAux opSample 0 [] id) 0 v st.opa .none).2.2 && !(readOper (withAux opSample 0 [] id) 0 v st.opb .none).2.2) = true ∧
    (parseSampler sampler0).isSome = true ∧ parseSampler (zeros 32) = none ∧
    (topCands 1 (candsOf (zeros 8))).all (fun c => isNanW c.1) = false ∧ (topCands 1 (candsOf [])).all (fun c => isNanW c.1) = true := by decide +kernel
/-- A volume of SAMPLE and LOOP. -/
def volLoop : Volume := { vol0 with steps := [stepOf opSample 0 0 0 0xFFFF, { stepOf opLoop 0 0 0xFFFF 0xFFFF with opa := 0xFFFF, unitCount := 0 }] }
/-- A context of it at LOOP, which holds a token or not. -/
def ctxLoop0 (held : Option Nat) : Ctx :=
  { newCtx { taken0 with slip := { taken0.slip with ringLen := 16 } } 0 0 with
    pc := 1, held := held, pending := if held.isSome then [{ step := 0, iter := 0, due := 0, at_ := 0 }] else [] }
/-- A device that runs it. -/
def withLoop (held : Option Nat) : State :=
  { withCtx (ctxLoop0 held) with volumes := [(0, volLoop)], power := { state := .active } }
theorem witness_TokenSteps_loop :
    (loopOf volLoop.steps).isSome = true ∧ releasable (withLoop none) 0 opLoop = some (volLoop, ctxLoop0 none, { stepOf opLoop 0 0 0xFFFF 0xFFFF with opa := 0xFFFF, unitCount := 0 }) ∧
    heldSample (ctxLoop0 none) = none ∧ releasable (withLoop (some 5)) 0 opLoop = some (volLoop, ctxLoop0 (some 5), { stepOf opLoop 0 0 0xFFFF 0xFFFF with opa := 0xFFFF, unitCount := 0 }) ∧
    heldSample (ctxLoop0 (some 5)) ≠ none ∧ (ctxLoop0 none).iter - (ctxLoop0 none).consumed < (ctxLoop0 none).job.slip.ringLen ∧
    (ctx0 none).job.slip.ringLen ≤ (ctx0 none).iter - (ctx0 none).consumed := by decide
theorem witness_TokenSteps_read :
    tget (withLoop (some 5)).eng.ctxs 0 = some (ctxLoop0 (some 5)) ∧ (ctxLoop0 (some 5)).readOutstanding = false ∧ (ctxLoop0 (some 5)).consumedReadAt = none ∧
    readMay (withLoop (some 5)) 2 = true ∧ (ctxLoop0 (some 5)).job.poster = 2 ∧ (ctxLoop0 (some 5)).silenced = false ∧
    ({ ctxLoop0 (some 5) with readOutstanding := true }).readOutstanding = true ∧
    ctxVol (withLoop (some 5)) { ctxLoop0 (some 5) with readOutstanding := true } = some volLoop := by decide
theorem witness_TokenSteps_route :
    [1, 255].all (fun a => match rel (withAux opRoute 1 (List.replicate 512 a) id) opRoute with
      | none => false
      | some (v, x, st) =>
        let s := withAux opRoute 1 (List.replicate 512 a) id
        (refusedAddr s v x st == none) && !(readOper s 0 v 1 .none).2.2) = true ∧
    ((candsOf (zeros 8)).take 1).map (·.2) = [0] ∧ ((candsOf (List.replicate 8 255)).take 1).map (·.2) = [0xFFFFFFFF] := by decide +kernel
/-- A conditional step after a ROUTE that selected no expert. -/
def volCond : Volume := { vol0 with steps := [stepOf opRoute 0 1 0xFFFF 0xFFFF, { stepOf opAct 0 0 0xFFFF 0xFFFF with cond := 0x8001 }] }
theorem witness_TokenSteps_skip :
    (volCond.steps[1]?).map (fun st => (waitOk volCond { ctx0 none with pc := 1 } st, condState volCond { ctx0 none with pc := 1 } 0 1 st.cond)) = some (true, some false) := by
  decide

theorem witness_FolioCopies_issue :
    (fetchRequest (withMat opEmbed 0 0xFFFF 0 (kv0 0) []) .h0 0).map (fun p => p.2.wants.length) = some 1 ∧
    (fetchRequest (withMat opEmbed 0 0xFFFF 0 (kv0 0) []) .h0 0).map (fun p => ((missing (withMat opEmbed 0 0xFFFF 0 (kv0 0) []) p.2).find? (fun w => sliceHalf w.slice == .h0
      && wantOpen (attachAll (withMat opEmbed 0 0xFFFF 0 (kv0 0) []) 0 p.2.wants) w)).isSome) = some true := by decide +kernel
theorem witness_FolioCopies_arrive :
    keptOk (tensor0 none).params 0 [1] = false ∧ tget (withMat opEmbed 0 0xFFFF 0 (kv0 0) []).tensors 0 = some (tensor0 none) ∧
    keptOk { (tensor0 none).params with tag := 0 } 0 (leBytes 8 (2 ^ 28) ++ zeros 20 ++ leBytes 4 (folioCheck (leBytes 8 (2 ^ 28) ++ zeros 20) [])) = true := by
  decide +kernel
theorem witness_FolioCopies_recover :
    (recoverTile (withTensor none 0 []) (tensor0 none) 0 .none .none .none .none).2 = none ∧ ({ copy0 with state := .poisoned } : FolioCopy).failed = false ∧
    edgeOf 0 = none := by decide +kernel
/-- A device whose edge expander of H1 found tile 0 of the tensor malformed at time 0. -/
def withEdge : State :=
  { withTensor none 0 [] with plain := { (withTensor none 0 []).plain with edge := ⟨{}, { poisoned := [((0, 0), { foundAt := 0 })] }⟩ } }
theorem witness_FolioCopies_edge :
    edgeOf 129 = some .h1 ∧ tget (withEdge.plain.edge.get .h1).poisoned (0, 0) = some { foundAt := 0 } ∧ tget withEdge.tensors 0 = some (tensor0 none) ∧
    withEdge.now ≤ 0 + 32000000 ∧ (recoverTile withEdge (tensor0 none) 0 .none .none .none .none).2 = none := by decide +kernel
theorem witness_FolioCopies_data :
    (tget (withMat opEmbed 0 0xFFFF 0 (kv0 0) [((0, .tile 0 0), { copy0 with state := .requested })]).eng.copies (0, .tile 0 0)).map
      (fun c => (c.state, c.bad)) = some (.requested, false) ∧
    (tget (withMat opEmbed 0 0xFFFF 0 (kv0 0) [((0, .tile 0 0), { copy0 with state := .requested, bad := true })]).eng.copies (0, .tile 0 0)).map
      (fun c => (c.state, c.bad)) = some (.requested, true) := by decide
theorem witness_FolioCopies_relay :
    (match rel (withMat opRelay 3 0xFFFF 0 (kv0 0) []) opRelay with
      | none => false
      | some (v, x, st) =>
        let s := withMat opRelay 3 0xFFFF 0 (kv0 0) []
        homesFree s v x st.opc && (refusedAddr s v x st == none) && !(readOper s 0 v st.opa .none).2.2 && relayWaits s st
          && !relayWaits s { st with param := 2 ^ 10 }) = true := by decide +kernel
theorem witness_FolioCopies_intact :
    (let t : Tensor := { tensor0 none with params := { (tensor0 none).params with tag := 0 } }
     let s := rtWrite (withTensor none 0 []) 2 t.cbase (leBytes 8 (2 ^ 28) ++ zeros 20 ++ leBytes 4 (folioCheck (leBytes 8 (2 ^ 28) ++ zeros 20) []))
     (recoverTile s t 0 .none .none .none .none).2.map (·.1)) = some 0 := by decide +kernel

/-- A probe of tile 0 with a list of references; an empty list is all zeros. -/
def probe0 (ref : List (BitVec 32)) : Probe := { tile := 0, probe := 0, tol := 0, e5m2 := false, code := false, act := zeros 128, ascale := zeros 4, ref := ref }
/-- A device with that probe in a loaded volume, its tile RESIDENT at MU 0, a run at MU 0, and an investigation of it at a stage. -/
def withProbe (run : Option ProbeRun) (stage : Option Nat) (ref : List (BitVec 32)) (fetched : Option Nat) : State :=
  let s := withMat opMatvec 0 0xFFFF 1 (kv0 0) [((0, .tile 0 0), { copy0 with bytes := copy0.bytes ++ zeros 16896 })]
  let t : Tensor := { tensor0 none with
    params := { (tensor0 none).params with tag := 0 }
    lastFetch := fetched, investigation := stage.map (fun n => { stage := n, probe := probe0 ref, mu := 0, firstFail := 0, stageAt := 0 }) }
  muMod { s with volumes := tmod s.volumes 0 (fun v => { v with slots := v.slots.map (fun sl => { sl with nprobe := 1 }), probes := [probe0 ref] })
                 tensors := [(0, t)], now := 32000000 } 0 (fun u => { u with probe := run })
/-- Its tensor. -/
def probeTensor (stage : Option Nat) (ref : List (BitVec 32)) (fetched : Option Nat) : Option Tensor := tget (withProbe none stage ref fetched).tensors 0
/-- The verdict of the run of a probe of the device's tile 0 at MU 0 after its words are checked. -/
def probeVerdict (s : State) (b : Option Bytes) (p : Probe) : Option Bool :=
  match tget s.tensors 0, tget s.eng.copies (0, .tile 0 0) with
  | some t, some c => if c.state = .resident then (probeRunOf s.now t.params 0 p 0 (b.getD c.bytes)).map (·.1.pass) else none
  | _, _ => none
theorem witness_SentinelProbes_start :
    (let s := withProbe none none [] none
     (muOf s 0).probe = none ∧
     leastFrom (fun k => ((allProbes s)[((muOf s 0).probePointer + k) % (allProbes s).length]?).any (probeEligible s 0)) (allProbes s).length 0 = some 0 ∧
     (allProbes s)[((muOf s 0).probePointer + 0) % (allProbes s).length]? = some (0, probe0 []) ∧
     (probeVerdict (copyWords (muMod s 0 (fun u => { u with probePointer := (0 + 1) % 1 })) (0, .tile 0 0)) none (probe0 [])).isSome = true) := by decide +kernel
/-- A run that ends at a time. -/
def run0 (ends : Nat) (pass : Bool) : ProbeRun := { tensor := 0, probe := probe0 [], ends := ends, pass := pass, clamps := 0, flushes := 0 }
theorem witness_SentinelProbes_end :
    (muOf (withProbe (some (run0 5 true)) none [] none) 0).probe = some (run0 5 true) ∧ (run0 5 true).ends ≤ (withProbe (some (run0 5 true)) none [] none).now ∧
    (muOf (withProbe (some (run0 5 false)) none [] none) 0).probe = some (run0 5 false) ∧ (run0 5 false).pass = false ∧
    (muOf (withProbe (some (run0 32000001 true)) none [] none) 0).probe = some (run0 32000001 true) ∧
    (withProbe (some (run0 32000001 true)) none [] none).now < (run0 32000001 true).ends := by decide +kernel
theorem witness_SentinelProbes_force :
    [([], true), ([1], false)].all (fun c =>
      let s := withProbe none none c.1 (some 0)
      ((probeTensor none c.1 (some 0)).bind (·.lastFetch) == some 0) && decide (s.now ≤ 0 + 1600000000) && ((probeTensor none c.1 (some 0)).map (·.lastProbe) == some none)
        && (forceChoice s 0 == some (0, probe0 c.1)) && ((muOf s 0).probe == none)
        && (probeVerdict (copyWords s (0, .tile 0 0)) none (probe0 c.1) == some c.2)) = true := by decide +kernel
theorem witness_SentinelProbes_rerun :
    [([], true), ([1], false)].all (fun c =>
      let s := withProbe none (some 1) c.1 none
      ((probeTensor (some 1) c.1 none).bind (·.investigation) == some { stage := 1, probe := probe0 c.1, mu := 0, firstFail := 0, stageAt := 0 })
        && probeEligible s 0 (0, probe0 c.1) && ((muOf s 0).probe == none)
        && (probeVerdict (copyWords s (0, .tile 0 0)) none (probe0 c.1) == some c.2)) = true := by decide +kernel
/-- That device with an intact master copy of the tile. -/
def withMaster (stage : Nat) (ref : List (BitVec 32)) : State :=
  rtWrite (withProbe none (some stage) ref none) 2 (tensor0 none).cbase (leBytes 8 (2 ^ 28) ++ zeros 20 ++ leBytes 4 (folioCheck (leBytes 8 (2 ^ 28) ++ zeros 20) []))
/-- The fetch of the tile for an investigation at a unit, without its state. -/
def fetchOf (s : State) (stage : Nat) (ref : List (BitVec 32)) (m : Nat) : Option (Bytes × Bool) :=
  (probeTensor (some stage) ref none).map (fun t => (investFetch s t 0 m .none).2)
theorem witness_SentinelProbes_refetch :
    [([], true), ([1], false)].all (fun c =>
      let s := withMaster 2 c.1
      match tget s.tensors 0, fetchOf s 2 c.1 0 with
      | some n, some (b, bad) =>
        investMay s && muUp s 0 && (findGranules s 0 n.params.q).isSome && investOpen s n { stage := 2, probe := probe0 c.1, mu := 0, firstFail := 0, stageAt := 0 } 0
          && (n.investigation == some { stage := 2, probe := probe0 c.1, mu := 0, firstFail := 0, stageAt := 0 }) && !bad && clocksRun s && ((muOf s 0).probe == none)
          && (probeVerdict s (some b) (probe0 c.1) == some c.2) && ((fetchOf (withProbe none (some 2) c.1 none) 2 c.1 0).map (·.2) == some true)
          && !clocksRun { s with power := { state := .ready } } && investMay { s with power := { state := .ready } }
      | _, _ => false) = true := by decide +kernel
theorem witness_SentinelProbes_other :
    [([], true), ([1], false)].all (fun c =>
      let s := withMaster 3 c.1
      match tget s.tensors 0, otherMu s 0 0 with
      | some n, some m =>
        match fetchOf s 3 c.1 m with
        | some (b, bad) => investMay s && investOpen s n { stage := 3, probe := probe0 c.1, mu := 0, firstFail := 0, stageAt := 0 } m
            && (n.investigation == some { stage := 3, probe := probe0 c.1, mu := 0, firstFail := 0, stageAt := 0 }) && !bad && clocksRun s && ((muOf s m).probe == none)
            && ((probeRunOf s.now n.params 0 (probe0 c.1) m b).map (·.1.pass) == some c.2)
            && ((fetchOf (withProbe none (some 3) c.1 none) 3 c.1 m).map (·.2) == some true)
        | none => false
      | _, _ => false) = true := by decide +kernel
theorem witness_SentinelProbes_timeout :
    (let s := { withProbe none (some 3) [] none with halves := ⟨{}, {}⟩ }
     ((tget s.tensors 0).bind (·.investigation) = some { stage := 3, probe := probe0 [], mu := 0, firstFail := 0, stageAt := 0 }) ∧ 0 + 32000000 ≤ s.now ∧
     otherMu s 0 0 = none ∧ otherMu s 0 (tensor0 none).params.q = none) := by decide +kernel

/-- A device in diagnostics mode with a region of tenant 0 and an address for the bench. -/
def bench (a : Nat) : State :=
  { withRegion 0 [] with regions := [{ region0 with master := 1, tenant := 0 }], diag := { (withRegion 0 []).diag with mode := true, addr := BitVec.ofNat 64 a } }
theorem witness_BenchRegistersAndUnits_line :
    (bench (2 ^ 52)).diag.mode = true ∧ benchLine (bench (2 ^ 52)) (1#4).toNat = some (2 ^ 52) := by decide
/-- That device with a stored word in slice 0. -/
def benchStored (w : BitVec 32 × BitVec 7) : State :=
  { bench (2 ^ 56) with eng := { (bench (2 ^ 56)).eng with sram := [((1, 0, 0), w)] } }
theorem witness_BenchRegistersAndUnits_word :
    (bench (2 ^ 56)).diag.mode = true ∧ benchLine (bench (2 ^ 56)) (8#4).toNat = none ∧ benchWord (bench (2 ^ 56)) (8#4).toNat = some (1, 0, 0) ∧
    benchWord (benchStored (0, 0)) (8#4).toNat = some (1, 0, 0) ∧ benchLine (benchStored (0, 3)) (8#4).toNat = none ∧
    hsiaoDecode (hsiaoCheck (storedWord (benchStored (0, 0)) (1, 0, 0)).1 ^^^ (storedWord (benchStored (0, 0)) (1, 0, 0)).2) = .clean ∧
    hsiaoDecode (hsiaoCheck (storedWord (benchStored (0, 3)) (1, 0, 0)).1 ^^^ (storedWord (benchStored (0, 3)) (1, 0, 0)).2) = .uncorrectable := by decide
theorem witness_BenchRegistersAndUnits_refused :
    (bench 0).diag.mode = true ∧ benchLine (bench 0) (1#4).toNat = none ∧ benchWord (bench 0) (1#4).toNat = none := by decide
theorem witness_BenchRegistersAndUnits_carrel :
    up.boot.stage ≠ .recovery ∧ carrelSpot up .pf0 0x100110 = some (0, 0x110) ∧ carrelSpot up .pf0 0x1001FF = some (0, 0x1FF) ∧
    carrelSpot up .pf0 0x100010 = some (0, 0x10) ∧ carrelSpot up .pf0 0x100008 = some (0, 8) ∧ tget up.cp.binding 0 = some ⟨0, 0, 1⟩ ∧
    (carrelOf up 0).state = .idle ∧ 0x10 + ([1] : Bytes).length ≤ 256 ∧ (leBytes 8 1).length = 8 ∧
    doorbellLost up (carrelOf up 0) true (BitVec.ofNat 64 (leVal (leBytes 8 1))) = false ∧
    doorbellOk up (carrelOf up 0) true (BitVec.ofNat 64 (leVal (leBytes 8 1))) = true ∧
    doorbellOk up (carrelOf up 0) true (BitVec.ofNat 64 (leVal (leBytes 8 2))) = false ∧
    doorbellLost up (carrelOf up 0) true (BitVec.ofNat 64 (leVal (leBytes 8 2))) = false := by decide
theorem witness_BenchRegistersAndUnits_queue :
    (withVol que0 0 []).boot.stage ≠ .recovery ∧ carrelSpot (withVol que0 0 []) .pf1 0x2007FF = none ∧ queueSpot (withVol que0 0 []) .pf1 0x2007FF = some (0, 0x7FF) ∧
    carrelSpot (withVol que0 0 []) .pf1 0x200010 = none ∧ queueSpot (withVol que0 0 []) .pf1 0x200010 = some (0, 0x10) ∧
    queueSpot (withVol que0 0 []) .pf1 0x200008 = some (0, 8) ∧ carrelSpot (withVol que0 0 []) .pf1 0x200008 = none ∧
    0x7FF = 0x400 + 64 * 15 + 63 ∧ 63 + ([1] : Bytes).length ≤ 64 ∧ tget (withVol que0 0 []).queues 0 = some que0 ∧
    (BitVec.ofNat 64 (leVal (leBytes 8 7))).toNat ≠ que0.taken + 1 := by decide
theorem witness_BenchRegistersAndUnits_none :
    carrelSpot up .pf1 0x1A00 = none ∧ queueSpot up .pf1 0x1A00 = none ∧ accessAligned 0x1A01 4 = false ∧ carrelSpot up (.vf 0) 0x20000 = none ∧
    queueSpot up (.vf 0) 0x20000 = none ∧ tget { up.cp with locks := [(7, 2)] }.locks ((BitVec.ofNat 64 (leVal (leBytes 8 7))).toNat % 64) = some 2 ∧
    up.ras.moduleFault = false := by decide
theorem witness_BenchRegistersAndUnits_registers :
    [0x2000, 0x2700, 0x1A00, 0x300018, 0x3019F8, 0x400018, 0x500010, 0x500018, 0x500040, 0x500078].all (fun off =>
      (carrelSpot (desk 1 0 []) .pf0 off).isNone && (queueSpot (desk 1 0 []) .pf0 off).isNone && accessAligned off 8) = true ∧
    0x3019F8 = 0x300000 + 0x100 * 25 + 0x20 * 7 + 0x18 ∧ (bench 0).diag.mode = true ∧ up.diag.mode = false ∧
    carrelSpot (bench 0) .pf0 0x500010 = none ∧ queueSpot (bench 0) .pf0 0x500010 = none := by decide

theorem witness_RasDeskCommands_errata :
    msgHasOut (dcmd 1 0x0901 [.u 8 0]).msg = false ∧ (dcmd 1 0x0901 [.u 8 0]).mid = 1 ∧ (dcmd 2 0x0901 [.u 8 0]).mid = 2 ∧
    msgHasOut { dcmd 1 0x0901 [.u 8 0] with msg := leBytes 2 0x0901 ++ leBytes 2 8 ++ leBytes 2 2 ++ zeros 34 }.msg = true := by decide
/-- The fields of UNIT_SERVICE for a unit 0. -/
def unitVals (k a : Nat) : List Val := [.u 1 k, .u 1 0, .u 1 a]
/-- H0 with one unit of a kind left in service. -/
def lastUnit : State :=
  (List.range 15).foldl (fun s i => vuMod s (i + 1) (fun m => { m with inService := false }))
    ((List.range 63).foldl (fun s i => muMod s (i + 1) (fun m => { m with inService := false })) (desk 1 0x0903 (unitVals 0 0)))
theorem witness_RasDeskCommands_units :
    arg (dcmd 1 0x0903 (unitVals 0 0)) 0 = 0 ∧ arg (dcmd 1 0x0903 (unitVals 1 0)) 0 ≠ 0 ∧ arg (dcmd 1 0x0903 (unitVals 0 0)) 2 = 0 ∧
    arg (dcmd 1 0x0903 (unitVals 1 0)) 2 = 0 ∧ arg (dcmd 1 0x0903 (unitVals 0 1)) 2 ≠ 0 ∧ arg (dcmd 1 0x0903 (unitVals 1 1)) 2 ≠ 0 ∧
    [true, false].all (fun mu =>
      let left := unitsLeft (leaveSleep (desk 1 0x0903 (unitVals 0 0))) mu .h0
      left != [0] && left.contains 0 && (unitsLeft (leaveSleep lastUnit) mu .h0 == [0]) && !(unitsLeft (leaveSleep lastUnit) mu .h0).contains 1) = true ∧
    (muOf (muMod (desk 1 0x0903 (unitVals 0 1)) 0 (fun m => { m with retired := true })) 0).retired = true ∧
    (vuOf (vuMod (desk 1 0x0903 (unitVals 1 1)) 0 (fun m => { m with retired := true })) 0).retired = true ∧
    (muOf (desk 1 0x0903 (unitVals 0 1)) 0).retired = false ∧ (vuOf (desk 1 0x0903 (unitVals 1 1)) 0).retired = false := by decide +kernel
theorem witness_RasDeskCommands_scrub :
    arg (dcmd 1 0x0904 [.u 1 0, .u 2 24]) 0 = 0 ∧ arg (dcmd 1 0x0904 [.u 1 1, .u 2 24]) 0 = 1 ∧ arg (dcmd 1 0x0904 [.u 1 2, .u 2 168]) 0 = 2 := by decide

theorem witness_FaultEvents_units :
    (muOf (muMod up 127 (fun m => { m with remapDue := true })) 127).remapDue = true ∧ (muOf (muMod up 127 (fun m => { m with remapDue := true })) 127).inService = true ∧
    (vuOf (vuMod up 31 (fun m => { m with remapDue := true })) 31).remapDue = true ∧ (vuOf (vuMod up 31 (fun m => { m with remapDue := true })) 31).inService = true ∧
    (muOf up 127).inService = true ∧ up.boot.stage = .served := by decide
theorem witness_FaultEvents_row :
    ({ up with ras := { up.ras with rowHolds := [(.h1, 2, 9)] } } : State).ras.rowHolds.find? (fun r => r.1 == .h1 && r.2.1 == 2) = some (.h1, 2, 9) := by decide
theorem witness_FaultEvents_scrub : tierServed up = true ∧ up.power.state ≠ .sleep ∧ daRange (2 ^ 52) = 1 ∧ offUsable up 1 (daOff (2 ^ 52)) = true ∧
    halfUp up (daHalf (2 ^ 52)) = true ∧ capOpen up 6 (readPath (2 ^ 52) (.tier (daHalf (2 ^ 52)))) = true := by decide
theorem witness_FaultEvents_lost :
    halfUp up .h1 = true ∧ halfOf (7 / 4) = .h1 ∧ (up.halves.get .h1).hbm.contains (7 % 4) = true ∧ (up.halves.get .h1).t1Remapped = false ∧
    halfOf (31 / 16) = .h1 ∧ (up.halves.get .h1).packages.contains (31 % 16) = true ∧ 16 ≤ (up.halves.get .h1).packages.length := by decide
/-- A device whose half H1 has lost a stack and a package. -/
def lost1 : State := halfMod up .h1 (fun x => { x with hbm := [0, 1, 2], t1Remapped := true, packages := List.range 15, t2Failing := true })
theorem witness_FaultEvents_second :
    halfUp lost1 .h1 = true ∧ (lost1.halves.get .h1).t1Remapped = true ∧ (lost1.halves.get .h1).packages.length < 16 ∧
    (lost1.halves.get .h1).packages.contains (16 % 16) = true ∧ (lost1.halves.get .h1).t2Failing = true ∧ halfExtents lost1 .h1 = [] := by decide
theorem witness_FaultEvents_trng : up.sec.trngOk.get .h0 = true ∧ up.ras.moduleFault = false ∧ up.pins.aux = true := by decide

/-- BW_SET of one entry, its command and its buffer. -/
def bwCmd : RunCmd := cmdIn 0x0801 [1]
theorem witness_BandwidthRegulation_set :
    8 * arg bwCmd 0 ≤ msgInLen bwCmd.msg ∧ bufOpen up bwCmd = true ∧ msgInLen (dcmd 1 0x0801 [.u 1 1]).msg < 8 * arg (dcmd 1 0x0801 [.u 1 1]) 0 ∧
    bwEntriesOk (fit 64 [25, 7, 0, 0, 1, 0, 0, 0]) (bwEntries (fit 64 [25, 7, 0, 0, 1, 0, 0, 0]) 1) = true ∧
    bwEntriesOk (fit 64 [26, 0, 0, 0, 1, 0, 0, 0]) (bwEntries (fit 64 [26, 0, 0, 0, 1, 0, 0, 0]) 1) = false ∧
    (bwEntries (fit 64 [0, 7, 0, 0, 1, 0, 0, 0]) 1).all (fun e => bwAdmits up (bwEntries (fit 64 [0, 7, 0, 0, 1, 0, 0, 0]) 1) (nextUrg up) e.r) = true ∧
    (bwEntries (fit 64 [0, 7, 0, 0, 0xFF, 0xFF, 0, 0]) 1).all (fun e => bwAdmits up (bwEntries (fit 64 [0, 7, 0, 0, 0xFF, 0xFF, 0, 0]) 1) (nextUrg up) e.r) = false := by
  decide +kernel
theorem witness_BandwidthRegulation_status :
    msgOutLen (dcmd 1 0x0802 [.u 1 0, .u 1 1]).msg < 272 * arg (dcmd 1 0x0802 [.u 1 0, .u 1 1]) 1 ∧
    272 * arg (dcmd 1 0x0802 [.u 1 0, .u 1 0]) 1 ≤ msgOutLen (dcmd 1 0x0802 [.u 1 0, .u 1 0]).msg := by decide
/-- The settings of port 0 with a boost of b GB/s on resource 0. -/
def urgWith (b : Nat) : Tbl Nat PortUrg := tset (nextUrg up) 0 { tgetD (nextUrg up) 0 {} with pins := true, inBand := true, boost := b, mask := 1 }
theorem witness_BandwidthRegulation_urgency :
    bwAdmits up [] (urgWith 0) 0 = true ∧ bwAdmits up [] (urgWith 65535) 0 = false ∧ natBit 1 0 = true := by decide +kernel
theorem witness_BandwidthRegulation_window :
    ({ up with now := 16000 } : State).bw.lastWindow < 16000 / 16000 ∧ up.now / 16000 ≤ up.bw.lastWindow := by decide
theorem witness_BandwidthRegulation_derated :
    ∃ s : State, 1000 * derated s 0 < guarSum s 0 ∧ s.bw.scaledRes.contains 0 = false :=
  ⟨bwMod up 0 7 (fun x => { x with guar := 10 ^ 9 }), by decide +kernel⟩
theorem witness_BandwidthRegulation_level :
    up.pins.aux = true ∧ urgLevel up 0 < 2 ∧ 
    2 ≤ urgLevel { up with link := { up.link with ports := [(0, { kind := .accel })], urg := [(0, { pins := true, level := 2, sample := 2 })] } } 0 := by decide

/-- The session with the node in slot 1, and port 1 in service to it. -/
def sess (k : SessKind) (remote : Nat) : Session := { kind := k, state := .opened, initiator := true, remoteMid := remote, localMid := 0, port := 1 }
def linked (s : State) : State :=
  { s with link := { s.link with ports := [(1, { state := .inService, partner := 1 })], sessions := [((1, 0), sess .system 0)] } }
/-- An extent of H0 for node 1 and its master 2. -/
def ext0 (st : ExtState) : Extent := { base := daMk 2 (2 ^ 30), state := st, borrower := 1, holder := 2, request := 1 }
def withExt (e : Extent) (mid op : Nat) (vs : List Val) : State :=
  linked { desk mid op vs with pool := { (desk mid op vs).pool with extents := [((.h0, 0), e)] } }
/-- A forwarded command for master 2 of node 1. -/
def fwdCmd (op : Nat) (p : Bytes) : RunCmd := { src := .forward 0, mid := 2, node := 1, seq := 1, msg := msg op p }
theorem witness_PoolCommandsAtLender_offer :
    arg (dcmd 4 0x0601 [.u 1 0, .u 1 1, .u 2 1]) 0 = 0 ∧ tierClosed up 2 .h1 = false ∧ (offerAll 1 up .h1).isSome = true ∧
    tierClosed lost1 2 .h1 = true ∧ offerAll 1 { up with halves := ⟨up.halves.h0, { up.halves.h1 with t2Cap := 0 }⟩ } .h1 = none ∧
    arg (dcmd 4 0x0601 [.u 1 1, .u 1 1, .u 2 1]) 0 ≠ 0 := by decide +kernel
theorem witness_PoolCommandsAtLender_grant :
    boardNode up 0 = nodeId up ∧ boardNode up 1 ≠ nodeId up ∧ hasPath up 1 = false ∧ hasPath (linked up) 1 = true ∧ systemOpen (linked up) 1 = true ∧
    systemOpen { linked up with link := { (linked up).link with sessions := [] } } 1 = false ∧ extsOf up .h0 = [] ∧
    (extsOf (withExt (ext0 .idle) 4 0x0603 []) .h0).find? (fun p => p.2.state == .idle && !p.2.withdraw) = some ((.h0, 0), ext0 .idle) := by decide +kernel
theorem witness_PoolCommandsAtLender_renew :
    (dcmd 4 0x0604 [.u 1 1, .u 4 9, .a 2 [0]]).mid = 4 ∧ isForward (fwdCmd 0x0604 []).src = true ∧ extOf (withExt (ext0 .grace) 4 0x0604 []) (codeExt 0) = some (ext0 .grace) ∧
    leasedNow (ext0 .grace) = true ∧ recallComing (withExt (ext0 .grace) 4 0x0604 []) (.h0, 0) = false ∧
    recallComing { withExt (ext0 .grace) 4 0x0605 [.u 2 0] with pending := [.extentRecall (.carrel 0)] } (.h0, 0) = true ∧ leasedNow (ext0 .draining) = false ∧ isForward (dcmd 4 0x0604 []).src = false := by decide
theorem witness_PoolCommandsAtLender_recall :
    arg (dcmd 4 0x0605 [.u 2 0]) 0 = 0 ∧ extOf up (codeExt 0) = none ∧ extOf (withExt (ext0 .leased) 4 0x0605 [.u 2 0]) (codeExt 0) = some (ext0 .leased) ∧
    leasedNow (ext0 .leased) = true := by decide
theorem witness_PoolCommandsAtLender_return :
    isForward (fwdCmd 0x0606 [0, 0, 0, 0]).src = true ∧ arg (fwdCmd 0x0606 [0, 0, 0, 0]) 0 = 0 ∧ heldBy (ext0 .leased) 1 2 = true ∧ heldBy (ext0 .idle) 1 2 = false := by decide
theorem witness_PoolCommandsAtLender_resolve :
    (ext0 .leased).role ≠ 1 ∧ ({ ext0 .leased with role := 1, diverged := [0] } : Extent).diverged ≠ [] ∧ arg (dcmd 4 0x060D [.u 2 0, .u 1 0]) 1 = 0 ∧
    arg (dcmd 4 0x060D [.u 2 0, .u 1 1]) 1 ≠ 0 := by decide
theorem witness_PoolCommandsAtLender_limit :
    arg (dcmd 4 0x060E [.u 1 1, .u 2 2, .u 2 0]) 2 = 0 ∧ arg (dcmd 4 0x060E [.u 1 1, .u 2 2, .u 2 5]) 2 ≠ 0 ∧ up.pool.caps = [] := by decide
/-- DEPOT_GRANT for master 1. -/
def depotVals : List Val := [.u 2 1, .u 2 9, .u 1 0, .u 1 0, .u 2 1, .u 8 0]
theorem witness_PoolCommandsAtLender_depot :
    (List.range 8).any (fun p => (BitVec.ofNat 8 (arg (dcmd 1 0x0610 depotVals) 2)).getLsbD p && (portOf up p).kind != .far) = false ∧
    (tenantOf (desk 1 0x0610 depotVals) (arg (dcmd 1 0x0610 depotVals) 0)).bind (fun t => tget (desk 1 0x0610 depotVals).tenants t) =
      some { t1 := 360, t2 := 1920 } ∧ leastFrom (fun n => !thas (reapGrants up).pool.grants n) 4095 1 = some 1 := by decide
/-- A grant. -/
def grant0 (st : Nat) : Grant := { holder := 1, tray := 9, far := 0, base := 0, gib := 1, protect := false, nonce := [], state := st }
theorem witness_PoolCommandsAtLender_tray :
    tget up.pool.grants 1 = none ∧ tget ([(1, grant0 0)] : Tbl Nat Grant) 1 = some (grant0 0) ∧ (grant0 1).state = 1 ∧ (grant0 1).lastProbe + msT 10 ≤ msT 10 := by decide

/-- Tenant 5 with a pool quota, and a state of the request table. -/
def pooled (q : Nat) (rs : Tbl Nat PoolReq) : State :=
  { desk 2 0x0602 [] with tenants := [(5, { t1 := 1, t2 := 1, pool := q })], pool := { (desk 2 0x0602 []).pool with requests := rs } }
def req0 : PoolReq := { master := 2, count := 1, protect := 0, duration := 1000, timeoutAt := 1 }
theorem witness_PoolCommandsAtHolder_request :
    cmdTenant (pooled 4 []) (dcmd 2 0x0602 [.u 2 4, .u 1 0, .u 4 1000, .u 4 1]) = 5 ∧ arg (dcmd 2 0x0602 [.u 2 4, .u 1 0, .u 4 1000, .u 4 1]) 0 = 4 ∧
    ((tget (pooled 4 []).tenants 5).map (·.pool)).getD 0 = 4 ∧ ((tget (pooled 0 []).tenants 5).map (·.pool)).getD 0 = 0 ∧
    ((pooled 4 [(1, req0)]).pool.requests.filter (fun r => r.2.state == 0 && tenantOf (pooled 4 [(1, req0)]) r.2.master == some 5)).map (·.2.count) = [1] := by decide
/-- A command of PF1 with a BUF_IN of 64 bytes. -/
def cmdIn2 (op : Nat) (p : Bytes) : RunCmd := { cmdIn op p with mid := 2 }
/-- A handle of PF1 on node 1. -/
def handle0 (st : HandleState) (p : Nat) (v : Option (Nat × Nat × Bool)) : Handle :=
  { master := 2, request := 1, protect := p, state := st, node := 1, half := .h0, ext := 0, view := v }
def withHandle (h : Handle) (op : Nat) (vs : List Val) : State :=
  linked { desk 2 op vs with pool := { (desk 2 op vs).pool with handles := [(1, h)] } }
theorem witness_PoolCommandsAtHolder_buffers :
    (cmdIn2 0x0604 [1, 0xE8, 3, 0, 0]).mid ≠ 4 ∧ isForward (cmdIn2 0x0604 [1, 0xE8, 3, 0, 0]).src = false ∧ bufOpen up (cmdIn2 0x0604 [1, 0xE8, 3, 0, 0]) = true ∧
    4 * arg (cmdIn2 0x0604 [1, 0xE8, 3, 0, 0]) 0 ≤ msgInLen (cmdIn2 0x0604 [1, 0xE8, 3, 0, 0]).msg ∧
    4 * (arg (cmdIn2 0x0608 [1, 0, 0, 0, 1]) 0 + arg (cmdIn2 0x0608 [1, 0, 0, 0, 1]) 1 + arg (cmdIn2 0x0608 [1, 0, 0, 0, 1]) 2) ≤ 64 ∧
    arg (cmdIn2 0x0607 [1]) 0 = 1 ∧
    ((bufWords (fit 64 [1]) 1).filterMap (fun x => ((tget (withHandle (handle0 .live 0 none) 0 []).pool.handles x).filter (fun h => h.master == 2)).map
      (fun h => (x, h)))) = [(1, handle0 .live 0 none)] ∧ writesOut (withHandle (handle0 .live 0 none) 0 []) 2 1 (handle0 .live 0 none) = false := by decide
/-- A write outstanding on the session with node 1. -/
def writing (s : State) : State :=
  { s with link := { s.link with sessions := [((1, 0), { sess .system 0 with outstanding := [{ tag := 0, write := true, addr := daMk 3 gib, mid := 2, lines := 1, sentAt := 0 }] })] } }
theorem witness_PoolCommandsAtHolder_writes :
    writesOut (writing (withHandle (handle0 .live 0 none) 0 [])) 2 1 (handle0 .live 0 none) = true ∧
    writesOut (writing (withHandle (handle0 .live 0 (some (1, 1, true))) 0 [])) 2 1 (handle0 .live 0 (some (1, 1, true))) = true := by decide
theorem witness_PoolCommandsAtHolder_return :
    heldHandle (withHandle (handle0 .live 0 none) 0x0606 [.u 4 1]) 2 1 = some (handle0 .live 0 none) ∧ arg (dcmd 2 0x0606 [.u 4 1]) 0 = 1 ∧
    (handleParts (handle0 .live 0 none) ++ parityParts (withHandle (handle0 .live 0 none) 0x0606 [.u 4 1]) 1 (handle0 .live 0 none)).any
      (fun p => !systemOpen (withHandle (handle0 .live 0 none) 0x0606 [.u 4 1]) p.1) = false ∧
    (handleParts (handle0 .live 0 none)).any (fun p => !systemOpen up p.1) = true := by decide +kernel
theorem witness_PoolCommandsAtHolder_share :
    arg (fwdCmd 0x0608 (packVals [.u 2 1, .u 2 0, .u 1 0, .u 2 0, .a 4 [0]])) 3 = 0 ∧ shareWords 1 0 = 1 ∧ shareWords 49 0 ≠ 49 ∧
    (dcmd 2 0x0608 []).src = .carrel 0 := by decide
/-- A shared region of extent 0 of H0, open to master 2 of node 1. -/
def region1 (draft : Option Nat) : Shared :=
  { dataExts := [(.h0, 0)], shadowExts := [], members := [(1, 2, true)], current := 1, nextKey := 3
    editions := [(1, { number := 1, draft := false, owner := (1, 2), opens := 0 })] ++
      (match draft with | none => [] | some n => [(2, { number := n, draft := true, owner := (1, 2), opens := 1 })]) }
def withShared (r : Shared) (views : Tbl (Half × Nat) ViewExt) : State :=
  { withExt (ext0 .leased) 2 0 [] with pool := { (withExt (ext0 .leased) 2 0 []).pool with shared := [(1, r)], views := views } }
def view0 : ViewExt := { region := 1, key := 2, index := 0, node := 1, mid := 2 }
theorem witness_PoolCommandsAtHolder_open :
    arg (dcmd 2 0x0609 [.u 4 (2 ^ 20), .u 1 0, .u 4 0]) 0 / 2 ^ 20 = 1 ∧ systemOpen (linked up) 1 = true ∧ systemOpen up 1 = false ∧ 1 ≠ nodeId up ∧
    arg (fwdCmd 0x0609 (packVals [.u 4 1, .u 1 0, .u 4 0])) 0 = 1 ∧ tget (withShared (region1 none) []).pool.shared 1 = some (region1 none) ∧
    (region1 none).members.filter (fun m => m.1 == 1 && m.2.1 == 2) = [(1, 2, true)] ∧ arg (fwdCmd 0x0609 (packVals [.u 4 1, .u 1 0, .u 4 0])) 1 = 0 ∧
    regionStatus (withShared (region1 none) []) (region1 none) (withShared (region1 none) []).now = 0 ∧ reapEditions (region1 none) 0 = region1 none ∧
    (withShared (region1 none) []).now = 0 ∧ (region1 none).before = none ∧
    reapEditions { region1 (some 1) with before := some (0, 2) } 0 = { region1 (some 1) with before := some (0, 2) } ∧ thas (region1 (some 1)).editions 2 = true ∧ extRun (withShared (region1 none) []) .h0 1 = some 1 := by decide +kernel
theorem witness_PoolCommandsAtHolder_publish :
    ownView (withHandle (handle0 .live 0 (some (1, 1, true))) 0 []) 2 1 = some (handle0 .live 0 (some (1, 1, true))) ∧
    (handle0 .live 0 (some (1, 1, true))).refusedCount = 0 ∧
    0 < ({ handle0 .live 0 (some (1, 1, true)) with refusedCount := 1 } : Handle).refusedCount ∧
    viewFor (withShared (region1 (some 1)) [((.h0, 1), view0)]) (fwdCmd 0x060A (packVals [.u 4 1, .u 4 1])) = some view0 ∧
    tget (region1 (some 1)).editions 2 = some { number := 1, draft := true, owner := (1, 2), opens := 1 } ∧
    ((tget (region1 (some 1)).editions (region1 (some 1)).current).map (·.number)).getD 0 = 1 ∧ regionStatus (withShared (region1 (some 1)) []) (region1 (some 1)) (withShared (region1 (some 1)) []).now = 0 ∧
    arg (fwdCmd 0x060A (packVals [.u 4 1, .u 4 1])) 1 = 1 ∧ arg (fwdCmd 0x060A (packVals [.u 4 1, .u 4 2])) 1 = 2 := by decide
theorem witness_PoolCommandsAtHolder_close :
    arg (fwdCmd 0x060B (packVals [.u 4 1])) 0 = 1 ∧ viewFor (withShared (region1 (some 1)) [((.h0, 1), view0)]) (fwdCmd 0x060B (packVals [.u 4 1])) = some view0 := by decide
/-- NEAR_OP that copies 64 bytes from one handle's address to another. -/
def nearVals (a b : Nat) : List Val := [.u 1 1, .u 1 0, .u 1 0, .u 1 1, .u 4 64, .u 8 0, .u 8 b, .a 8 [a, 0, 0, 0, 0, 0, 0]]
def near0 (a b : Nat) : RunCmd := dcmd 2 0x060C (nearVals a b)
def nearState : State :=
  linked { desk 2 0x060C [] with pool := { up.pool with handles := [(1, handle0 .live 0 none), (2, handle0 .live 0 none), (3, { handle0 .live 0 none with node := 2 })] } }
theorem witness_PoolCommandsAtHolder_near :
    nearAddrs (near0 (daMk 3 gib) (daMk 3 (2 * gib))) = ([daMk 3 gib], some (daMk 3 (2 * gib))) ∧ nearCode nearState 2 (daMk 3 gib) 64 false = rcDone ∧
    nearCode nearState 2 (daMk 3 (2 * gib)) 64 true = rcDone ∧ (nearAt nearState 2 (daMk 3 gib) 64).1 = 1 ∧ (nearAt nearState 2 (daMk 3 (3 * gib)) 64).1 = 2 ∧
    nearCode nearState 2 (daMk 3 (3 * gib)) 64 true = rcDone ∧ nearCode nearState 2 0 64 false ≠ rcDone := by decide +kernel

theorem witness_LenderEvents_lease :
    extOf (withExt { ext0 .leased with due := 5 } 4 0 []) (.h0, 0) = some { ext0 .leased with due := 5 } ∧ (ext0 .grace).due + secT 5 ≤ secT 5 ∧
    ({ withExt (ext0 .leased) 4 0 [] with now := 6 } : State).now = 6 ∧ up.now ≤ 5 ∧
    (jobsOf up .h0 ++ jobsOf up .h1).any (fun j => jobTouches up j (.h0, 0)) = false ∧ inboxNames up (.h0, 0) 0 = false ∧ up.pool.waits = [] ∧ (ext0 .draining).since + usT 100 ≤ usT 100 ∧
    ({ ext0 .erasing with region := some 1 } : Extent).state = .erasing ∧ ({ ext0 .erasing with withdraw := true } : Extent).region = none ∧
    ({ ext0 .granting with src := some (.carrel 0) } : Extent).since + msT 1 ≤ msT 1 := by decide
/-- A fill of 64 bytes. -/
def job0 (rc : Nat) : NearJob := { src := .carrel 0, node := 1, mid := 2, op := 0, ty := 0, rop := 0, bytes := 64, pattern := 0, dst := (.h0, 0, 0), srcs := [], rc := rc }
theorem witness_LenderEvents_engine :
    ({ up.pool with engine := ⟨(none, [job0 0]), (none, [])⟩ } : Pool).engine.get .h0 = (none, [job0 0]) ∧
    ({ up.pool with engine := ⟨(some (job0 1), []), (none, [])⟩ } : Pool).engine.get .h0 = (some (job0 1), []) ∧ (job0 0).rc = 0 ∧ (job0 1).rc ≠ 0 ∧
    nearEarlier { up with pool := { up.pool with engine := ⟨(none, [job0 0]), (none, [])⟩ } } (job0 0) = false ∧
    capOpen { up with pool := { up.pool with engine := ⟨(none, [job0 0]), (none, [])⟩ } } 3 [22] = true := by decide +kernel
theorem witness_LenderEvents_mirror :
    extOf (withExt { ext0 .leased with role := 1, single := true, marks := [3] } 4 0 []) (.h0, 0) = some { ext0 .leased with role := 1, single := true, marks := [3] } ∧
    leasedNow (ext0 .leased) = true ∧ 16383 < blocksPerExt ∧ extOf (withExt { ext0 .leased with role := 4 } 4 0 []) (.h0, 0) = some { ext0 .leased with role := 4 } ∧
    2 ^ 24 - 1 < gib / 64 := by decide

/-- A device to which node 1 sent a message. -/
def withMsg (s : State) (code : Nat) (b : Bytes) : State := { s with link := { s.link with msgs := [{ node := 1, code := code, body := b }] } }
/-- A device with one pending request for a plain extent. -/
def asking (st : Nat) : State := { linked up with pool := { up.pool with requests := [(1, { req0 with state := st })] } }
theorem witness_BorrowerEvents_grant :
    takeMsg (withMsg (asking 0) 0x10 (grantBody 1 0 0 0 5)) 0x10 = some ({ node := 1, code := 0x10, body := grantBody 1 0 0 0 5 }, asking 0) ∧
    parseGrant (grantBody 1 0 0 0 5) = { request := 1, role := 0, index := 0, set := 0, ext := 5 } ∧ replaceFor (asking 0) 1 (parseGrant (grantBody 1 0 0 0 5)) = none ∧
    roleOpen req0 1 (parseGrant (grantBody 1 0 0 0 5)) = true ∧ roleOpen { req0 with state := 2 } 1 (parseGrant (grantBody 1 0 0 0 5)) = false ∧
    compHandle (asking 0) req0 (parseGrant (grantBody 1 0 0 0 5)) = some 1 ∧ tget up.pool.requests 1 = none := by decide +kernel
/-- A mirrored handle of set 3. -/
def mirror0 (st : HandleState) (sec : Option (Nat × Half × Nat)) : Handle :=
  { master := 2, request := 1, protect := 1, state := st, node := 2, half := .h0, ext := 0, secondary := sec, set := some (setKey 1 3) }
theorem witness_BorrowerEvents_replace :
    replaceFor (withHandle (mirror0 .single none) 0 []) 1 (parseGrant (grantBody 1 2 0 3 5)) = some (1, mirror0 .single none) := by decide +kernel
theorem witness_BorrowerEvents_answer :
    takeMsg (withMsg (withExt { ext0 .granting with src := some (.carrel 0) } 4 0 []) 0x11 (acceptBody 1 1 2 1000)) 0x11 =
      some ({ node := 1, code := 0x11, body := acceptBody 1 1 2 1000 }, withExt { ext0 .granting with src := some (.carrel 0) } 4 0 []) ∧
    grantingFor (withExt { ext0 .granting with src := some (.carrel 0) } 4 0 []) 1 (leAt (acceptBody 1 1 2 1000) 0 4) = some ((.h0, 0), { ext0 .granting with src := some (.carrel 0) }) ∧
    takeMsg (withMsg (withExt { ext0 .granting with src := some (.carrel 0) } 4 0 []) 0x12 (leBytes 4 1 ++ leBytes 2 0x40)) 0x12 =
      some ({ node := 1, code := 0x12, body := leBytes 4 1 ++ leBytes 2 0x40 }, withExt { ext0 .granting with src := some (.carrel 0) } 4 0 []) ∧
    leAt (leBytes 4 1 ++ leBytes 2 0x40 : Bytes) 0 4 = 1 := by decide +kernel
theorem witness_BorrowerEvents_timeout :
    tget (asking 0).pool.requests 1 = some req0 ∧ req0.state = 0 ∧ req0.timeoutAt ≤ ({ asking 0 with now := 1 } : State).now := by decide
theorem witness_BorrowerEvents_notice :
    takeMsg (withMsg up 0x13 (leBytes 2 0 ++ leBytes 2 0x81)) 0x13 = some ({ node := 1, code := 0x13, body := leBytes 2 0 ++ leBytes 2 0x81 }, up) ∧
    (handle0 .live 0 none).node = 1 ∧ ((handle0 .live 0 none).half, (handle0 .live 0 none).ext) = codeExt 0 ∧
    ({ handle0 .recalled 0 none with noticeAt := some 0 } : Handle).noticeAt = some 0 ∧ 0 + secT 65 ≤ secT 65 ∧ up.now < 0 + secT 65 := by decide +kernel
theorem witness_BorrowerEvents_mirror :
    tget (withHandle (mirror0 .live (some (1, .h1, 4))) 0 []).pool.handles 1 = some (mirror0 .live (some (1, .h1, 4))) ∧
    (mirror0 .live (some (1, .h1, 4))).secondary = some (1, .h1, 4) ∧ (mirror0 .single none).secondary = none := by decide
/-- A parity set 3 whose four data extents are handles 1 to 4. -/
def parity0 (st : ParityState) : State :=
  let h (n : Nat) : Handle := { master := 2, request := 1, protect := 2, node := n, half := .h0, ext := 0, secondary := some (5, .h0, 0), set := some 3 }
  { up with pool := { up.pool with handles := [(1, h 1), (2, h 2), (3, h 3), (4, h 4)], parity := [(3, st)] } }
theorem setHandles_parity0 (st : ParityState) : (setHandles (parity0 st) 3).length = 4 := by
  simp [setHandles, List.length_mergeSort, parity0]
theorem witness_BorrowerEvents_parity (st : ParityState) (i : Nat) (hi : i < 4) :
    tget (parity0 st).pool.parity 3 = some st ∧ rebuildHere (parity0 st) 3 i = parity0 st ∧ ∃ n, (setHandles (parity0 st) 3)[i]? = some n :=
  ⟨by simp [parity0, tget], rfl, _, List.getElem?_eq_getElem (by rw [setHandles_parity0]; exact hi)⟩
theorem witness_BorrowerEvents_window : tget up.pool.load 1 = none ∧ tgetD up.pool.adjusted 1 0 < usT 1 / usT 1 ∧
    64 ≤ tgetD up.pool.window 1 1024 ∧ tgetD up.pool.window 1 1024 ≤ 4096 := by decide

def confVals (p has : Nat) : List Val := [.u 1 p, .u 1 0, .u 1 3, .u 1 has, .u 2 511, .u 2 5]
theorem witness_LinkCommands_config :
    arg (dcmd 1 0x0702 (confVals 7 0)) 0 ≠ 0xFF ∧ natBit (arg (dcmd 1 0x0702 (confVals 7 0)) 3) 0 = false ∧ natBit (arg (dcmd 1 0x0702 (confVals 7 1)) 3) 0 = true ∧
    arg (dcmd 1 0x0702 (confVals 0xFF 1)) 0 = 0xFF ∧ natBit (arg (dcmd 1 0x0702 (confVals 0xFF 1)) 3) 0 = true := by decide
theorem witness_LinkCommands_anchor :
    arg (dcmd 1 0x0703 [.u 1 1, .u 1 15]) 0 = 1 ∧ thas up.sec.anchors 15 = false ∧ thas ([(15, [])] : Tbl Nat Bytes) 15 = true ∧
    arg (cmdIn 0x0703 [0, 15]) 0 ≠ 1 ∧ msgInLen (cmdIn 0x0703 [0, 15]).msg ≤ 2048 ∧ bufOpen up (cmdIn 0x0703 [0, 15]) = true := by decide
def bind0 (o : Nat) : List Val := [.u 1 o, .u 1 7, .u 2 9, .u 2 2]
theorem witness_LinkCommands_bind :
    arg (dcmd 2 0x0704 (bind0 0)) 0 = 0 ∧ arg (dcmd 2 0x0704 (bind0 1)) 0 ≠ 0 ∧ up.link.bindings.contains { tenant := 5, port := 7, node := 9, mid := 2 } = false ∧
    ([{ tenant := 5, port := 7, node := 9, mid := 2 }] : List Binding).contains { tenant := 5, port := 7, node := 9, mid := 2 } = true ∧
    up.link.bindings.countP (fun y => y.port == 7) < 64 ∧
    64 ≤ ((List.range 64).map (fun i => ({ tenant := 6, port := 7, node := 9, mid := i } : Binding))).countP (fun y => y.port == 7) := by decide
theorem witness_LinkCommands_close :
    arg (dcmd 1 0x0705 [.u 2 1, .u 1 0]) 0 = 1 ∧ sessOf (linked up) (1, 0) = some (sess .system 0) ∧ (sess .system 0).state = .opened ∧ (sess .system 0).unacked = [] ∧
    (sess .system 0).unsent = [] ∧ ¬((dcmd 2 0x0705 [.u 2 1, .u 1 0]).mid = 1 ∨ ((sess .system 0).kind ≠ .system ∧ tenantOf up 0 = some 5)) := by decide
/-- A window of PF1's plain range for no session. -/
def winReg (on base : Nat) : List Val := [.u 1 7, .u 1 15, .u 1 on, .u 1 0, .u 1 3, .u 8 base, .u 8 mib2, .u 8 0]
theorem witness_LinkCommands_window :
    arg (dcmd 2 0x0706 (winReg 1 (2 ^ 52))) 2 = 1 ∧ windowFieldsOk (desk 2 0x0706 (winReg 1 (2 ^ 52))) (dcmd 2 0x0706 (winReg 1 (2 ^ 52))) = true ∧
    windowFieldsOk (desk 2 0x0706 (winReg 1 0)) (dcmd 2 0x0706 (winReg 1 0)) = false ∧ tenantOf (desk 2 0x0706 (winReg 1 (2 ^ 52))) 2 ≠ none ∧
    (tgetD (desk 2 0x0706 (winReg 1 (2 ^ 52))).link.windows (7, 15) {}).enable = false ∧ portRequests (desk 2 0x0706 (winReg 1 (2 ^ 52))) 7 = false ∧
    arg (dcmd 1 0x0706 (winReg 0 0)) 2 ≠ 1 ∧ (dcmd 1 0x0706 (winReg 0 0)).mid = 1 ∧ (dcmd 2 0x0706 (winReg 1 (2 ^ 52))).acc = [] ∧ ({ dcmd 1 0x0706 (winReg 0 0) with acc := [1] } : RunCmd).acc ≠ [] := by decide

/-- A control flit of a port as it waits in its inbox. -/
def lctl0 (sub : Nat) (b : Bytes) : Flit := { ownFlit 1 0 (8 + b.length) (ctlPayload sub 0 b.length b) with src := 1 }
/-- Port 1 of a device, with a flit in its inbox. -/
def withPort (q : Port) (fs : List Flit) : State :=
  { up with link := { up.link with ports := [(1, { q with flow := { q.flow with inbox := fs } })] } }
def port0 (st : PortState) (step : Nat) : Port := { state := st, step := step, partner := 1, certIn := [1], pointIn := [1], eph := [1] }
theorem witness_PortEntry_start :
    up.boot.stage = .served ∧ (portOf up 7).kind ≠ .off ∧ (portOf up 7).state = .down ∧ (portOf up 7).step = 0 ∧ (portOf up 7).retryAt = none ∧
    (portOf (withPort (port0 .training 2) []) 1).state = .training ∧ lanesUsed 0xFF = some 0xFF ∧ lanesUsed 0x1F = some 0x0F ∧ lanesUsed 0x77 = none ∧
    (portOf (withPort { port0 .down 0 with retryAt := some 0 } []) 1).retryAt = some 0 ∧ (portOf (withPort { port0 .down 0 with retryAt := some 5 } []) 1).retryAt = some 5 ∧
    (portOf (withPort (port0 .training 3) []) 1).step = 3 := by decide
theorem witness_PortEntry_timeout :
    stepLimit 5 = some (msT 5) ∧ stepLimit 4 = some (usT 10) ∧ stepLimit 3 = some (msT 1) ∧ (port0 .authenticating 5).state = .authenticating ∧
    (portOf (withPort (port0 .authenticating 5) []) 1).stepSince + msT 5 ≤ ({ withPort (port0 .authenticating 5) [] with now := secT 1 } : State).now := by decide
/-- The HELLO of mesh port `p` of slot `slot` on this board. -/
def hello0 (kind p slot : Nat) : Bytes := leBytes 1 kind ++ leBytes 1 p ++ leBytes 2 slot ++ leBytes 1 slot
def greeted (b : Bytes) (k : Option (Bytes × Bytes)) : State := withPort { port0 .training 4 with key := k } [lctl0 1 b]
theorem witness_PortEntry_hello :
    inboxHead (greeted (hello0 0 1 1) none) 1 (isLctl 1) = some (lctl0 1 (hello0 0 1 1)) ∧
    helloCheck (inboxPop (greeted (hello0 0 1 1) none) 1) 1 (ctlOne (lctl0 1 (hello0 0 1 1))) = (true, true) ∧ nodeId up = 0 ∧
    helloCheck (inboxPop (greeted (hello0 1 1 1) none) 1) 1 (ctlOne (lctl0 1 (hello0 1 1 1))) = (true, false) ∧
    helloCheck (inboxPop (greeted (hello0 0 2 1) none) 1) 1 (ctlOne (lctl0 1 (hello0 0 2 1))) = (false, true) ∧
    leAt (ctlOne (lctl0 1 (hello0 0 1 1))) 2 2 = 1 ∧ (portOf (greeted (hello0 0 1 1) (some ([], []))) 1).key = some ([], []) ∧
    leAt (ctlOne (lctl0 1 (hello0 1 1 0))) 2 2 ≤ nodeId up := by decide +kernel
def authing (sub : Nat) (b : Bytes) : State := withPort { port0 .authenticating 5 with key := some ([], []) } [lctl0 sub b]
theorem witness_PortEntry_auth :
    inboxHead (authing 2 [7]) 1 (isLctl 2) = some (lctl0 2 [7]) ∧ ctlBody (lctl0 2 [7]) = (0, 1, [7]) ∧
    (portOf (inboxPop (authing 2 [7]) 1) 1).state = .authenticating ∧ (portOf (inboxPop (authing 2 [7]) 1) 1).step = 5 ∧
    (inboxPop (authing 2 [7]) 1).sec.krOk = true ∧ (inboxPop (authing 2 [7]) 1).sec.debugUnlocked = false ∧
    inboxHead (authing 3 (zeros 64)) 1 (isLctl 3) = some (lctl0 3 (zeros 64)) ∧ inboxHead (authing 4 (zeros 96)) 1 (isLctl 4) = some (lctl0 4 (zeros 96)) ∧
    inboxHead (authing 5 (zeros 32)) 1 (isLctl 5) = some (lctl0 5 (zeros 32)) ∧ inboxHead (authing 6 []) 1 (isLctl 6) = some (lctl0 6 []) ∧
    (portOf (inboxPop (authing 6 []) 1) 1).key = some ([], []) ∧ (portOf (inboxPop (authing 4 (zeros 96)) 1) 1).eph ≠ [] ∧
    (portOf (inboxPop (authing 5 (zeros 32)) 1) 1).pointIn ≠ [] ∧ nodeId (inboxPop (authing 4 (zeros 96)) 1) ≤ (portOf (inboxPop (authing 4 (zeros 96)) 1) 1).partner := by
  decide +kernel
/-- The same module in slot 1, whose partner's node is the lower. -/
def slot1 (s : State) : State := { s with ident := { s.ident with slot := 2 } }
theorem witness_PortEntry_lower : (portOf (slot1 (authing 3 (zeros 64))) 1).partner ≤ nodeId (slot1 (authing 3 (zeros 64))) ∧
    (portOf (slot1 (authing 2 [7])) 1).partner < nodeId (slot1 (authing 2 [7])) := by decide

/-- A part of a string is a slice of it. -/
theorem slice_mid (a b c : Bytes) : slice (a ++ (b ++ c)) a.length b.length = b := by
  induction b generalizing a with
  | nil => rfl
  | cons x b ih =>
    have h := ih (a ++ [x])
    simp only [List.length_append, List.length_cons, List.length_nil, List.append_assoc, List.cons_append, List.nil_append, Nat.zero_add] at h ⊢
    show byteAt _ _ :: slice _ _ _ = _
    rw [h]
    simp [byteAt]
/-- Four bytes of a word give the word. -/
theorem leVal_word (w : Nat) (h : w < 2 ^ 32) : leVal (leBytes 4 w) = w := by
  simp only [leBytes, leVal, BitVec.toNat_ofNat]
  omega
/-- The fields of a flit that the link checks. -/
theorem rawFlit_fields (b : Bytes) (w : Nat) (h : b.length = 248) (hw : w < 2 ^ 32) :
    (rawFlit b w).length = 256 ∧ leAt (rawFlit b w) 0xF8 4 = w ∧ leAt (rawFlit b w) 0xFC 4 = (crc32c (slice (rawFlit b w) 0 252)).toNat := by
  have l (v : Nat) : (leBytes 4 v).length = 4 := rfl
  have e : slice (rawFlit b w) 0 252 = b ++ leBytes 4 w := by
    have m := slice_mid [] (b ++ leBytes 4 w) (leBytes 4 (crc32c (b ++ leBytes 4 w)).toNat)
    simp only [List.nil_append, List.length_append, h, l, List.length_nil] at m
    exact m
  refine ⟨by simp [rawFlit, h, l], ?_, ?_⟩
  · have m := slice_mid b (leBytes 4 w) (leBytes 4 (crc32c (b ++ leBytes 4 w)).toNat)
    rw [h, l, ← List.append_assoc] at m
    show leVal (slice _ 248 4) = w
    rw [show rawFlit b w = b ++ leBytes 4 w ++ leBytes 4 (crc32c (b ++ leBytes 4 w)).toNat from rfl, m, leVal_word w hw]
  · rw [e]
    have m := slice_mid (b ++ leBytes 4 w) (leBytes 4 (crc32c (b ++ leBytes 4 w)).toNat) []
    rw [List.append_nil, List.length_append, h, l, l] at m
    show leVal (slice _ 252 4) = _
    rw [show rawFlit b w = b ++ leBytes 4 w ++ leBytes 4 (crc32c (b ++ leBytes 4 w)).toNat from rfl, m, leVal_word _ (BitVec.isLt _)]
theorem witness_PortService_receive :
    portUp (portOf (linked up) 1) = true ∧ (rawFlit (zeros 248) 0).length = 256 ∧
    leAt (rawFlit (zeros 248) 0) 0xFC 4 = (crc32c (slice (rawFlit (zeros 248) 0) 0 252)).toNat ∧
    leAt (rawFlit (zeros 248) 0) 0xF8 4 % 4096 = (portOf (linked up) 1).flow.rxLseq ∧ ctlWaits (linked up) 1 = false ∧ portUp (portOf up 1) = false :=
  have z : (zeros 248).length = 248 := List.length_replicate
  have r := rawFlit_fields (zeros 248) 0 z (by decide)
  ⟨by decide, r.1, r.2.2, (congrArg (· % 4096) r.2.1).trans (by decide), by decide, by decide⟩
/-- A port with a kept flit that has been sent again n times. -/
def kept (n : Nat) : Port := { port0 .inService 6 with flow := { replay := [{ lseq := 3, raw := [], resends := n }] } }
theorem witness_PortService_replay :
    inboxHead (withPort (kept 7) [lctl0 7 [3, 0]]) 1 (isLctl 7) = some (lctl0 7 [3, 0]) ∧ leAt (ctlOne (lctl0 7 [3, 0])) 0 2 % 4096 = 3 ∧
    (portOf (inboxPop (withPort (kept 7) [lctl0 7 [3, 0]]) 1) 1).flow.replay.find? (fun x => x.lseq == 3) = some { lseq := 3, raw := [], resends := 7 } ∧
    (kept 8).flow.replay.any (fun x => decide (8 ≤ x.resends)) = true ∧ portUp (kept 0) = true ∧ (kept 0).flow.replay ≠ [] ∧
    (kept 0).flow.lackAt + usT 2 ≤ usT 2 := by decide +kernel
/-- A port without credits on channel 0, on which a flit has waited since reset. -/
def starved : Port := { port0 .inService 6 with returned := false, inServiceSince := some 0, flow := { credits := [0, 0, 0, 0], withheldSince := [(0, 0)] } }
theorem witness_PortService_credit :
    tget starved.flow.withheldSince 0 = some 0 ∧ starved.flow.credits.getD 0 0 = 0 ∧ 0 + msT 1 ≤ msT 1 ∧ msT 1 < 0 + msT 100 ∧ starved.flow.withheldLogged.contains 0 = false ∧
    starved.inServiceSince = some 0 ∧ starved.returned = false := by decide
theorem witness_PortService_failure :
    (port0 .down 0).kind ≠ .off ∧ (port0 .down 0).failed = false ∧ up.boot.stage = .served ∧ (port0 .down 0).downSince + secT 60 ≤ secT 60 := by decide

def synced (f : SyncState → SyncState) : State := syncMod { up with now := syncPeriod } f
theorem witness_BoardTimeAndLowPower_pulse :
    (synced (fun y => { y with master := true })).link.sync.lastPulse.getD 0 < (synced (fun y => { y with master := true })).now / syncPeriod ∧
    (synced (fun y => { y with master := true })).pins.pwrOk = true ∧ (synced (fun y => { y with master := true })).pins.perstN = true ∧
    (synced (fun y => { y with lastPulse := some 1 })).now / syncPeriod ≤ (synced (fun y => { y with lastPulse := some 1 })).link.sync.lastPulse.getD 0 ∧
    (synced id).link.sync.master = false ∧ (synced id).power.state ≠ .auxOnly := by decide
theorem witness_BoardTimeAndLowPower_follow :
    (synced id).link.sync.stepped = false ∧ (synced id).link.sync.locked = false ∧ (synced id).eng.ctxs = [] ∧
    (synced (fun y => { y with stepped := true })).link.sync.stepped = true := by decide
theorem witness_BoardTimeAndLowPower_away :
    (synced (fun y => { y with awaySince := some 0 })).link.sync.awaySince = some 0 ∧ 0 + msT 1 ≤ msT 1 ∧ (synced id).link.sync.syncErr.val = false ∧
    (synced id).now < syncPeriod + msT 1 := by decide
theorem witness_BoardTimeAndLowPower_election :
    (synced id).link.sync.heardMasterAt + msT 1 ≤ msT 1 ∧ (synced (fun y => { y with heardSlots := [(1, syncPeriod, false)] })).link.sync.heardSlots = [(1, syncPeriod, false)] ∧
    (synced id).now ≤ syncPeriod + msT 1 ∧ (synced id).ident.slot.toNat < 1 ∧ (synced id).boot.stage = .served := by decide
theorem witness_BoardTimeAndLowPower_send :
    (portOf (linked up) 1).state = .inService ∧ (portOf (linked up) 1).lp ≠ .ls ∧ (portOf (linked up) 1).time.lastSent + usT 10 ≤ usT 10 := by decide
/-- A TIME flit, of the master or not. -/
def time0 (m : Nat) : Flit := ownFlit 2 3 25 (leBytes 8 100 ++ leBytes 8 50 ++ leBytes 8 60 ++ leBytes 1 m)
theorem witness_BoardTimeAndLowPower_receive :
    inboxHead (withPort (port0 .inService 6) [time0 1]) 1 (fun f => f.type == 2) = some (time0 1) ∧ leAt (time0 1).payload 0 8 = 100 ∧ leAt (time0 1).payload 8 8 ≠ 0 ∧
    (portOf (inboxPop (withPort (port0 .inService 6) [time0 1]) 1) 1).kind = .mesh ∧ (portOf (inboxPop (withPort (port0 .inService 6) [time0 1]) 1) 1).partner / 8 = up.ident.board ∧
    natBit (leAt (time0 1).payload 0x18 1) 0 = true ∧ natBit (leAt (time0 0).payload 0x18 1) 0 = false ∧ up.link.sync.pulseAt = none ∧ (masterYields up).link.sync.master = false ∧
    (masterYields (synced (fun y => { y with master := true, masterSince := syncPeriod }))).link.sync.master = false ∧
    (masterYields { synced (fun y => { y with master := true }) with now := secT 1 }).link.sync.master = true ∧
    (masterYields (synced (fun y => { y with pulseAt := some 0 }))).link.sync.pulseAt = some 0 ∧ (synced id).now ≤ 0 + 2 * syncPeriod ∧
    (portOf (inboxPop (withPort { port0 .inService 6 with kind := .accel } [time0 1]) 1) 1).kind ≠ .mesh := by decide +kernel
/-- A quiet port that permits both low-power states. -/
def quiet0 (l : LpState) (a : Option LpState) : Port := { port0 .inService 6 with lp := l, lpAsked := a, lpPermit := 3 }
theorem witness_BoardTimeAndLowPower_idle :
    lpDeepest { withPort (quiet0 .l0 none) [] with now := usT 50 } 1 = .ls ∧ lpCode .l0 < lpCode .ls := by decide
theorem witness_BoardTimeAndLowPower_request :
    inboxHead (withPort (quiet0 .l0 none) [lctl0 8 [2]]) 1 (isLctl 8) = some (lctl0 8 [2]) ∧ codeLp (leAt (ctlOne (lctl0 8 [2])) 0 1) = .ls ∧
    lpHolds (inboxPop { withPort (quiet0 .l0 none) [lctl0 8 [2]] with now := usT 50 } 1) 1 .ls = true ∧
    lpHolds (inboxPop (withPort (quiet0 .l0 none) [lctl0 8 [2]]) 1) 1 .ls = false ∧
    (portOf (inboxPop (withPort (quiet0 .l0 (some .ls)) [lctl0 8 [2]]) 1) 1).lpAsked = some .ls ∧
    (portOf (inboxPop (withPort (quiet0 .l0 none) [lctl0 8 [2]]) 1) 1).lpAsked = none := by decide +kernel
theorem witness_BoardTimeAndLowPower_answer :
    inboxHead (withPort (quiet0 .l0 (some .ls)) [lctl0 9 [2]]) 1 (isLctl 9) = some (lctl0 9 [2]) ∧ inboxHead (withPort (quiet0 .l0 (some .ls)) [lctl0 10 []]) 1 (isLctl 10) = some (lctl0 10 []) ∧
    inboxHead (withPort (quiet0 .l0h none) [lctl0 11 []]) 1 (isLctl 11) = some (lctl0 11 []) ∧ inboxHead (withPort (quiet0 .ls none) []) 1 (isLctl 11) = none ∧
    (portOf (inboxPop (withPort (quiet0 .l0 (some .ls)) [lctl0 9 [2]]) 1) 1).lpAsked = some .ls := by decide +kernel

/-- A session control flit from node 1 as it waits in an inbox. -/
def sctl0 (sid sub : Nat) (b : Bytes) : Flit := { mkFlit 3 3 (8 + b.length) 0 false (ctlPayload sub 0 b.length b) with src := 1, sid := sid }
/-- A device in service on port 1, with a flit in its inbox, a pair exchange with node 1 and sessions with it. -/
def withSess (x : PairExch) (ss : Tbl (Nat × Nat) Session) (fs : List Flit) : State :=
  { withPort (port0 .inService 6) fs with link := { (withPort (port0 .inService 6) fs).link with pairStage := [(1, x)], sessions := ss } }
def pair0 (step : Nat) : PairExch := { step := step, eph := [1], certIn := [1], pointIn := [1] }
theorem witness_PairAndSessionOpening_cert :
    inboxHead (withSess (pair0 0) [] [sctl0 0 1 [7]]) 1 (isSctl 1) = some (sctl0 0 1 [7]) ∧ ctlBody (sctl0 0 1 [7]) = (0, 1, [7]) ∧ 1 ≤ ([7] : Bytes).length ∧
    ctlBody { sctl0 0 1 [7] with payload := ctlPayload 1 0 2 [7] } = (0, 2, [7]) ∧ thas (withSess (pair0 1) [] []).link.pairStage 1 = true ∧
    (pairOf (withSess (pair0 1) [] []) 1).step ≠ 0 ∧ nodeId (withSess (pair0 1) [] []) < 1 := by decide +kernel
theorem witness_PairAndSessionOpening_point :
    inboxHead (slot1 (withSess (pair0 1) [] [sctl0 0 2 (zeros 64)])) 1 (isSctl 2) = some (sctl0 0 2 (zeros 64)) ∧ (pair0 1).certIn ≠ [] ∧
    (sctl0 0 2 (zeros 64)).src ≤ nodeId (inboxPop (slot1 (withSess (pair0 1) [] [sctl0 0 2 (zeros 64)])) 1) ∧
    pairOf (inboxPop (withSess (pair0 2) [] [sctl0 0 3 (zeros 96)]) 1) 1 = pair0 2 ∧ inboxHead (withSess (pair0 2) [] [sctl0 0 3 (zeros 96)]) 1 (isSctl 3) = some (sctl0 0 3 (zeros 96)) ∧
    (pair0 2).eph ≠ [] ∧ nodeId (inboxPop (withSess (pair0 2) [] [sctl0 0 3 (zeros 96)]) 1) ≤ 1 ∧
    inboxHead (slot1 (withSess (pair0 3) [] [sctl0 0 4 (zeros 32)])) 1 (isSctl 4) = some (sctl0 0 4 (zeros 32)) ∧ (pair0 3).pointIn ≠ [] := by decide +kernel
def bound0 (p : Nat) (l : List Binding) : State := { withPort (port0 .inService 6) [] with link := { (withPort (port0 .inService 6) []).link with bindings := l } }
theorem witness_PairAndSessionOpening_check :
    (bound0 1 []).link.bindings.any (fun b => b.node == 1 && b.mid == 2) = false ∧ homePort (bound0 1 []) 1 1 = 1 ∧
    ([{ tenant := 5, port := 3, node := 1, mid := 2 }] : List Binding).find? (fun b => b.node == 1 && b.mid == 2 && b.port == 1) = none ∧
    64 < (recentOpens { up with link := { up.link with openTimes := [(1, List.replicate 64 0)] } } 1).length ∧
    freeMid (bound0 1 []) 1 = some 0xC0 ∧ (recentOpens (bound0 1 []) 1).length ≤ 64 ∧
    freeMid { up with link := { up.link with mids := (List.range 64).map (fun i => (0xC0 + i, (1, 8))) } } 1 = none := by decide +kernel
def open0 (kind : Nat) : Bytes := leBytes 1 2 ++ leBytes 1 kind ++ leBytes 2 2 ++ zeros 16
theorem witness_PairAndSessionOpening_open :
    inboxHead (withSess (pair0 0) [] [sctl0 8 5 (open0 1)]) 1 (isSctl 5) = some (sctl0 8 5 (open0 1)) ∧ codeKind (leAt (ctlOne (sctl0 8 5 (open0 1))) 1 1) = .pool ∧
    openCheck (inboxPop (withSess (pair0 0) [] [sctl0 8 5 (open0 1)]) 1) 1 1 8 2 .pool = (rcDone, some (1, 0xC0, none)) ∧
    openCheck (inboxPop (withSess (pair0 0) [] [sctl0 8 5 (open0 2)]) 1) 1 1 8 2 .bound = (rcNotBound, none) ∧
    thas (withSess (pair0 0) [] []).link.sessions (1, 8) = false ∧ thas (withSess (pair0 0) [((1, 8), sess .pool 2)] []).link.sessions (1, 8) = true := by decide +kernel
theorem witness_PairAndSessionOpening_answer :
    sessOf (inboxPop (withSess (pair0 0) [((1, 8), { sess .pool 2 with state := .opening })] [sctl0 8 6 (zeros 18)]) 1) (1, 8) = some { sess .pool 2 with state := .opening } ∧
    inboxHead (withSess (pair0 0) [] [sctl0 8 6 (zeros 18)]) 1 (isSctl 6) = some (sctl0 8 6 (zeros 18)) ∧
    inboxHead (withSess (pair0 0) [] [sctl0 8 7 [0x61, 0]]) 1 (isSctl 7) = some (sctl0 8 7 [0x61, 0]) ∧ (sess .pool 2).initiator = true := by decide +kernel

/-- A session with one kept flit. -/
def sess1 (st : SessState) : Session := { sess .pool 2 with state := st, unacked := [(3, false, [])] }
theorem witness_SessionLife_sack :
    inboxHead (withSess (pair0 0) [((1, 8), sess1 .closing)] [sctl0 8 8 [3, 0, 0, 0]]) 1 (isSctl 8) = some (sctl0 8 8 [3, 0, 0, 0]) ∧
    leAt (ctlOne (sctl0 8 8 [3, 0, 0, 0])) 0 4 = 3 ∧ sessOf (inboxPop (withSess (pair0 0) [((1, 8), sess1 .closing)] [sctl0 8 8 [3, 0, 0, 0]]) 1) (1, 8) = some (sess1 .closing) ∧
    sackLeaves (sess1 .closing).unacked 3 = [] ∧ (sess1 .closing).unsent = [] ∧ (sess1 .opened).state ≠ .closing := by decide +kernel
theorem witness_SessionLife_time :
    sessOf (withSess (pair0 0) [((1, 8), sess1 .opened)] []) (1, 8) = some (sess1 .opened) ∧ (sess1 .opened).unacked.any (fun u => !u.2.1) = true ∧
    max (sess1 .opened).lastSack (sess1 .opened).resentAt + usT 20 ≤ usT 20 ∧ (sess1 .opened).heardAt + msT 10 ≤ msT 10 ∧ (sess1 .opened).lastSack + msT 10 ≤ msT 10 ∧
    (sess .pool 2).unacked = [] ∧ (sess .pool 2).noPathSince = none ∧ (sess .pool 2).pingAt = none := by decide
theorem witness_SessionLife_control :
    inboxHead (withSess (pair0 0) [] [sctl0 8 9 []]) 1 (isSctl 9) = some (sctl0 8 9 []) ∧ inboxHead (withSess (pair0 0) [] [sctl0 8 10 []]) 1 (isSctl 10) = some (sctl0 8 10 []) ∧
    inboxHead (withSess (pair0 0) [] [sctl0 8 12 []]) 1 (isSctl 12) = some (sctl0 8 12 []) ∧ inboxHead (withSess (pair0 0) [] [sctl0 8 11 [1, 0, 0, 0]]) 1 (isSctl 11) = some (sctl0 8 11 [1, 0, 0, 0]) := by
  decide +kernel
theorem witness_SessionLife_free :
    tget { up.link with midFreeing := [(0xC0, 5)] }.midFreeing 0xC0 = some 5 ∧ 5 ≤ { up with now := 5 }.now ∧ { up with now := 4 }.now < 5 := by decide
theorem witness_SessionLife_rekey :
    0x80000000 ≤ ({ sess .pool 2 with txSseq := 0x80000000 } : Session).txSseq ∧
    sessMay (withSess (pair0 0) [((1, 8), { sess .pool 2 with txSseq := 0x80000000 })] []) (1, 8) { sess .pool 2 with txSseq := 0x80000000 } (mkFlit 3 3 0 0 false []) = true := by decide +kernel

/-- A device with a BOUND session that node 1 opened, and another kind of flit in port 1's inbox. -/
def serving (k : SessKind) (f : Flit) : State := { withSess (pair0 0) [((1, 8), { sess k 2 with initiator := false, localMid := 0xC0 })] [f] with boot := up.boot }
def accF (ty len arg : Nat) (pool : Bool) (b : Bytes) : Flit := { mkFlit ty 0 len arg pool b with src := 1, sid := 8 }
/-- The session as it is served. -/
def servedBy (k : SessKind) : Session := { sess k 2 with initiator := false, localMid := 0xC0 }
theorem witness_PeerAccess_request :
    requestHead (serving .pool (accF 4 8 0 true (zeros 8))) 1 4 = some (accF 4 8 0 true (zeros 8), servedBy .pool) ∧ formOk (servedBy .pool) (accF 4 8 0 true (zeros 8)) = true ∧
    formOk (servedBy .bound) (accF 4 8 0 true (zeros 8)) = false ∧ formOk (servedBy .bound) (accF 4 8 0 false (zeros 8)) = true ∧ descsOf (accF 4 8 0 true (zeros 8)) = [(0, 64, 0)] ∧
    poolWaits (serving .pool (accF 4 8 0 true (zeros 8))) 1 2 0 64 0 = false ∧ portHolds (serving .pool (accF 4 8 0 true (zeros 8))) (1, 8) 3 (poolAddr (serving .pool (accF 4 8 0 true (zeros 8))) 0) false = false ∧
    portHolds (serving .bound (accF 4 8 0 false (zeros 8))) (1, 8) 2 (winAddr (serving .bound (accF 4 8 0 false (zeros 8))) (servedBy .bound) 0) false = false ∧ capAllows (serving .pool (accF 4 8 0 true (zeros 8))) 1 2 64 = true ∧
    capAllows { up with pool := { up.pool with caps := [((1, 2), { gbps := 1, used := 1000 })] } } 1 2 64 = false := by decide +kernel
theorem witness_PeerAccess_write :
    requestHead (serving .pool (accF 5 8 0 true (zeros 8))) 1 5 = some (accF 5 8 0 true (zeros 8), servedBy .pool) ∧ locSpot 0 = (.h0, 0, 0) ∧
    writeWaits (serving .pool (accF 5 8 0 true (zeros 8))) (1, 8) = false ∧ poolWaits (serving .pool (accF 5 8 0 true (zeros 8))) 1 2 0 8 0 = false ∧
    portHolds (serving .pool (accF 5 8 0 true (zeros 8))) (1, 8) 3 (poolAddr (serving .pool (accF 5 8 0 true (zeros 8))) 0) true = false ∧ requestHead up 1 4 = none ∧
    requestHead up 1 5 = none ∧
    (poolPut (leaveSleep (inboxPop (serving .pool (accF 5 8 0 true (zeros 8))) 1)) 1 2 .h0 0 0 (zeros 8) 0).2 = 0x20 := by decide +kernel
theorem witness_PeerAccess_window :
    ({} : InWin).enable = false ∧ (0#64).getLsbD (((servedBy .bound).localMid - 0x80) % 64) = false ∧ winBytes { enable := true, size := 64 } < 64 + 64 := by decide
def reading (o : Outst) (f : Flit) : State := withSess (pair0 0) [((1, 8), { sess .pool 2 with outstanding := [o] })] [f]
theorem witness_PeerAccess_answers :
    inboxHead (reading (outRead 5 0 2 1 0) (accF 6 64 5 false (zeros 64))) 1 (fun f => f.type == 6) = some (accF 6 64 5 false (zeros 64)) ∧
    (sessOf (inboxPop (reading (outRead 5 0 2 1 0) (accF 6 64 5 false (zeros 64))) 1) (1, 8)).bind (fun x => x.outstanding.find? (fun o => !o.write && o.tag == 5)) = some (outRead 5 0 2 1 0) ∧
    64 * (outRead 5 0 2 1 0).lines ≤ natField 5 12 12 + 64 ∧ natField 5 12 12 + 64 < 64 * (outRead 5 0 2 2 0).lines ∧ (outRead 5 0 2 1 0).sentAt + msT 1 ≤ msT 1 := by decide +kernel
theorem witness_PeerAccess_complete :
    inboxHead (reading (outWrite 5 0 2 0 2 []) (accF 7 0 (5 + 0x20 * 2 ^ 32) false [])) 1 (fun f => f.type == 7) = some (accF 7 0 (5 + 0x20 * 2 ^ 32) false []) ∧
    natField (5 + 0x20 * 2 ^ 32) 0 32 = 5 ∧ natField (5 + 0x20 * 2 ^ 32) 32 8 ≠ 0 ∧ natField 5 32 8 = 0 ∧ ([outWrite 5 0 2 0 2 []] : List Outst).find? (fun o => o.write && o.tag == 5) = some (outWrite 5 0 2 0 2 []) ∧
    ([outWrite 5 0 2 0 2 []] : List Outst).any (fun o => o.write && o.tag == 5) = true ∧ (accF 7 0 5 true []).pool = true ∧
    masterHandle (reading (outWrite 5 0 2 0 2 []) (accF 7 0 5 false [])) 2 0 0 = none := by decide +kernel

/-- A RED flit of node 1 for block 0 of an unknown run. -/
def red0 : Flit := accF 8 64 0 false (zeros 64)
theorem witness_ReduceFlits :
    inboxHead (serving .system red0) 1 (fun f => f.type == 8) = some red0 ∧ redAwaited (serving .system red0) (parseRed 0) = false ∧ redHeld (serving .system red0) (redHalf (serving .system red0) 1 (parseRed 0)) + 64 ≤ 2 ^ 21 ∧
    redGrant (serving .system red0) (redHalf (serving .system red0) 1 (parseRed 0)) = some 1 ∧ redGrant (serving .system red0) .h1 ≠ some 1 ∧
    redMember (inboxPop (serving .system red0) 1) (parseRed 0) 1 = true ∧ redMember (inboxPop (serving .system red0) 1) (parseRed 0) 9 = false ∧
    (inboxPop (serving .system red0) 1).link.redSeen = [] ∧ redTimes (inboxPop (serving .system red0) 1) (parseRed 0) = 2 ∧ redRun (inboxPop (serving .system red0) 1) (parseRed 0) = none := by decide +kernel
theorem witness_ReduceFlits_full :
    2 ^ 21 < redHeld { up with link := { up.link with reduce := [{ node := 1, ctx := 0, step := 0, iter := 0, blk := 0, nth := 0, half := .h0, data := zeros 64 }] } } .h0 + 2 ^ 21 := by decide
/-- The body of a START for the volume and master of `withVol`, with its input block at the start of region 0. -/
def startBody : Bytes := leBytes 4 9 ++ [0, 0] ++ leBytes 2 2 ++ leBytes 8 2 ++ leBytes 8 0 ++ leBytes 8 0 ++ zeros 16 ++ leBytes 8 (2 ^ 52)
def starting (b : Bytes) : State := withMsg { withVol que0 0 [] with masters := [(1, 0), (2, 5)] } 1 b
theorem witness_RunMessages_start :
    takeRunMsg (starting startBody) 1 = some ({ node := 1, code := 1, body := startBody }, withMsg (starting startBody) 1 startBody |> fun s => { s with link := { s.link with msgs := [] } }) ∧
    memberVolume (starting startBody) 2 9 = some vol0 ∧ memberVolume (starting startBody) 2 8 = none ∧ leAt startBody 6 2 % 4096 = 2 ∧ leAt startBody 0 4 = 9 ∧
    addrCode (starting startBody) 2 (2 ^ 52) (inputLen (starting startBody) vol0 true) false = rcDone ∧ memberBlockOk (starting startBody) vol0 (zeros 0x60) 0 = false ∧
    (memberTaken (starting startBody) vol0 startBody (zeros 0x60)).reserve = [] ∧ anyFenced (starting startBody) = false ∧ placeRun (starting startBody) vol0 [] = some (0, 0, 0) := by decide +kernel
/-- The same device with an input block whose RESULT is the start of region 0. -/
def started : State := rtWrite (starting startBody) 2 (2 ^ 52 + 0x38) (leBytes 8 (2 ^ 52))
def block0 : Bytes := zeros 0x38 ++ leBytes 8 (2 ^ 52) ++ zeros 0x20
theorem witness_RunMessages_taken :
    (takeBlock started 2 (2 ^ 52) vol0 true .none).2 = some (block0, false) ∧ memberBlockOk started vol0 block0 0 = true ∧ (takeRunMsg started 1).isSome = true ∧
    memberVolume started 2 9 = some vol0 ∧ anyFenced (takeBlock started 2 (2 ^ 52) vol0 true .none).1 = false ∧ neverFits started [] = false ∧
    placeRun (takeBlock started 2 (2 ^ 52) vol0 true .none).1 vol0 [] = some (0, 0, 0) := by decide +kernel
/-- A member's run for node 1 and its context 3, and a lead's own in context 0. -/
def member0 (code : Nat) (b : Bytes) : State :=
  { withMsg (withCtx (ctx0 none)) code b with eng := { (withCtx (ctx0 none)).eng with ctxs := [(0, ctx0 none), (1, { ctx0 none with lead := some 1, leadCtx := 3 })] } }
theorem witness_RunMessages_token :
    (takeRunMsg (member0 2 [3]) 2).isSome = true ∧ memberCtx (member0 2 [3]) 1 3 = some 1 ∧ memberCtx (member0 2 [4]) 1 4 = none ∧ (takeRunMsg (member0 3 [3]) 3).isSome = true ∧
    memberCtx (member0 3 [0]) 1 0 = none ∧ tget (member0 3 [0]).eng.ctxs 0 = some (ctx0 none) ∧ ctxVol (member0 3 [0]) (ctx0 none) = some vol0 ∧ codeEnd 6 = .refused ∧ codeEnd 0 ≠ .refused ∧
    (∃ k ∈ groupOthers (member0 3 [0]) { vol0 with group := 3 }, slotNode (member0 3 [0]) k = 1) := by decide +kernel
theorem witness_RunMessages_desk :
    takeMsg (withMsg up 0x20 [1, 0, 2, 0]) 0x20 = some ({ node := 1, code := 0x20, body := [1, 0, 2, 0] }, up) ∧ up.cp.fwdQueue.length < 64 ∧
    takeMsg (withMsg up 0x21 (zeros 40)) 0x21 = some ({ node := 1, code := 0x21, body := zeros 40 }, up) ∧
    64 ≤ (List.replicate 64 ({ id := 0, node := 1, mid := 2, msg := [] } : FwdMsg)).length := by decide +kernel

/-- A device in use with a function being reset. -/
def resetting (fn : Fn) : State := { up with host := { up.host with flr := [(fn, 0)] } }
theorem witness_HostRequestsAndFunctionReset_served :
    endpointUp up = true ∧ fnPresent up .pf1 = true ∧ fnServed up = true ∧ thas up.host.flr .pf1 = false ∧ 0 + 8 ≤ barSize .pf1 false ∧ 0x1800 + 8 * 63 + 8 ≤ barSize .pf1 false ∧ up.boot.stage ≠ .recovery ∧
    0x1F000 + 8 ≤ barSize .pf0 true ∧ barSize .pf1 true < 0 + 8 ∧ thas (resetting .pf1).host.flr .pf1 = true ∧
    fnPresent up (.vf 1) = false ∧ fnPresent { up with host := { up.host with vfEnable := true, numVfs := 63 } } (.vf 63) = true ∧ barSize (.vf 1) false < 2 ^ 20 + 8 ∧
    endpointUp (resetting .pf0) = true ∧ fnPresent (resetting .pf0) .pf0 = true := by decide
theorem witness_HostRequestsAndFunctionReset_early :
    fnServed { up with boot := { up.boot with stage := .romWaiting, perstRoseAt := some 0 } } = false ∧ endpointUp { up with boot := { up.boot with stage := .romWaiting, perstRoseAt := some 0 } } = true ∧
    secT 1 ≤ 0 + secT 1 := by decide
/-- R460: the first word of PF0's configuration space is its Vendor ID 0x1F3E and Device ID 0x8400. -/
theorem test_pf0_ids : cfgRead up .pf0 0 = 0x84001F3E#32 := by decide

def tagged (u : TagUse) : State := { up with host := { up.host with tags := [((.pf1, 0), u)] } }
theorem witness_HostReadsAndLinkPower_tags :
    tget (tagged (.quarantined 7)).host.tags (.pf1, 0) = some (.quarantined 7) ∧ 7 ≤ { tagged (.quarantined 7) with now := 7 }.now ∧ (tagged (.quarantined 7)).now < 7 ∧
    tget (tagged (.outstanding 0 64 true)).host.tags (.pf1, 0) = some (.outstanding 0 64 true) ∧ tget (tagged (.outstanding 0 64 false)).host.tags (.pf1, 0) = some (.outstanding 0 64 false) ∧
    consumedCtx (tagged (.outstanding 0 64 false)) .pf1 64 = none ∧ 0 + nsT (fnTimeout (tagged (.outstanding 0 64 false)) .pf1) ≤ msT 10 ∧ tget up.host.timeoutNs .pf1 = none ∧
    consumedCtx { withCtx { ctx0 none with readOutstanding := true } with now := 0 } .pf1 taken0.slip.ring = some 0 := by decide +kernel
theorem witness_HostReadsAndLinkPower_training : endpointUp up = true ∧ 16 ≤ modeWidth up 0 ∧ modeWidth up 1 < 1 := by decide
/-- A device whose host link 0 has trained, and may save power. -/
def trained (low : Nat) : State :=
  { up with now := usT 200, host := { up.host with link0 := { rate := 640, width := 16, lowWidth := low, l0pEnable := true, l1Enable := true } } }
theorem witness_HostReadsAndLinkPower_power :
    endpointUp (trained 0) = true ∧ (hostLinkOf (trained 8) 0).lowWidth ≠ 0 ∧ underLoad (trained 0) (hostLinkOf (trained 0) 0) = true ∧ 8 ≤ widthNow (hostLinkOf (trained 8) 0) ∧
    widthNow (hostLinkOf (trained 4) 0) < 8 ∧ (hostLinkOf up 0).l0pEnable = false ∧ (hostLinkOf (trained 0) 0).inL1 = false ∧
    (hostLinkOf (trained 0) 0).idleSince + usT 200 ≤ (trained 0).now ∧ linkOutstanding (trained 0) 0 = false ∧ (trained 0).eng.ctxs = [] := by decide

def evented : State := { up with host := { up.host with events := [(4, 1)] } }
theorem witness_MailboxAnswers :
    mailUp evented = true ∧ (∀ h ∈ [4], ∃ e ∈ evented.host.events, e.1 = h) ∧ (∀ e ∈ evented.host.events, e.1 ≠ 5) ∧
    0x4102 ∉ [0x4000, 0x0100, 0x0101, 0x4300, 0x4200, 0x4800, 0x4801, 0x4802, 0x4803] ∧ mailUp (resetting .pf0) = false := by decide

/-! ### Well-formed commands -/

/-- A folio name and a sender for the tests of well-formedness. -/
def fol : FolioId := .tile 0 0
def src : DeskSrc := .carrel 1023
/-- A read of more than 16 MiB. -/
theorem test_wf_long_read (b : Bytes) (h : 2 ^ 24 < b.length) : readWf (.data b) = false := by
  simp only [readWf]
  exact decide_eq_false (by omega)
/-- One well-formed command for every check. -/
theorem test_wf_good :
    ([[.carrelDoorbell 0 true 0, .carrelMessageWrite 0 0 [0], .deviceInfo src, .attestReport src, .certChain src, .tenantCreate src, .tenantSet src, .tenantDestroy src, .masterBind src,
     .volumeKey src, .tenantStatus src, .regionAlloc src, .regionFree src, .regionCopy src .timeout .none, .workingCopy src .none, .kvCreate src, .kvPages src, .kvMove src .none,
     .kvFree src, .plainGranule src],
    [.plainCache src, .plainFlush src, .kvGuards src, .tensorAccession src, .tensorStatus src, .tensorUnload src, .windowDeclare src, .windowSeal src, .windowReopen src, .windowClose src,
     .tensorGuards src, .tensorOrigin src, .volumeLoad src .none, .volumeUnload src, .queueCreate src, .queueDestroy src, .volumeStatus src, .poolOffer src, .extentRequest src,
     .extentGrant src],
    [.leaseRenew src .timeout, .extentRecall src, .extentReturn src, .extentFlush src .timeout, .shareCreate src .timeout, .editionOpen src, .editionPublish src, .editionClose src,
     .nearOp src, .mirrorResolve src, .poolLimit src, .poolStatus src, .depotGrant src, .depotRevoke src, .linkStatus src, .linkConfig src, .linkAnchor src .timeout, .sessionBind src,
     .sessionClose src, .windowSet src],
    [.routeSet src, .portReset src, .bwSet src .timeout, .bwStatus src, .bwUrgency src, .errataRead src, .rasStatus src, .unitService src, .scrubSet src, .powerFloor src, .powerLimit src,
     .powerStatus src, .configWrite src .timeout, .configStatus src, .fwInfo src, .fwStage src .timeout, .fwCommit src, .diagMode src, .cpRestart src, .glbLockRead .pf0 0 true],
    [.glbRelease .pf0 true 0, .queDoorbell 0 true 0 .timeout .none, .queueSlotWrite 0 0 0 [0], .registerWrite .pf0 0 [0] .timeout .none, .callSlipEnd 0, .deadlinePass 0,
     .folioDataArrive 0 fol, .folioArriveComplete 0 fol .none, .folioRecovery 0 fol ⟨.none, .none⟩ .none .none, .recoveryBudgetExpiry 0 fol, .matvec 0 .none, .attnScore 0 .none,
     .attnValue 0 .none, .kvAppend 0, .elemwise 0, .rmsnorm 0, .layernorm 0, .softmax 0, .rope 0, .act 0],
    [.embed 0 .none, .merge 0, .topk 0, .sample 0 .none, .relayReduce 0, .loop 0, .route 0, .conditionalSkip 0, .consumedRead 0, .consumedReadReturn 0 .timeout, .probeRun 0, .probeForce 0,
     .investigationRerun 0, .investigationRefetch 0 .none, .investigationOtherMu 0 .none, .investigationTimeout 0, .weightWindowRead 0 .cxl 0 1, .plainRead 0 .cxl 0 1,
     .plainWrite 0 .cxl 0 [0], .cacheLineFill .h0 0 0 0],
    [.cacheEvictComplete .h0 0 0, .granuleZeroingEnd 0, .runtimeAccess 0 0 (.read 1) .none, .poolWindowAdjust 0, .trayTimeout 0, .trayProbe 0 true, .portEnable 0, .equalisationDone 0 0,
     .flitLock 0, .hello 0, .authCert 0, .keyxA 0, .keyxB 0, .confA 0, .authDone 0, .trainingTimeout 0, .portRetryTimer 0, .flitReceive 0 (zeros 256) true, .linkNak 0, .replayTimeout 0],
    [.portRetrain 0, .creditWithheldTimeout 0 0, .pairCert 0, .pairXA 0, .pairXB 0, .pairConf 0, .sessionOpen 0, .sessionAccept 0, .sessionRefuse 0, .sack 0, .sessionResendTimeout 0 0,
     .sessionSilencePing 0 0, .ping 0, .pong 0, .sessionLossTimeout 0 0, .close 0, .masterIdFreeTimeout 0, .rekeyDue 0 0, .rekey 0, .portLeaveService 0],
    [.pathReturnTimer 0, .rdReq 0 [], .wr 0 .timeout .none, .rdRsp 0, .cmpl 0, .red 0, .timeFlitSend 0, .timeFlitReceive 0 0, .lpIdleTimer 0, .lpReq 0, .lpAck 0, .lpNak 0, .wake 0,
     .pcieMemoryRequest .pf0 true ⟨false, 0⟩ 1 [0] .timeout .none, .configRequest .pf0 true 0 0, .initiateFlr .pf0, .flrComplete .pf0, .vfEnable true 0, .hostReadCompletion .pf0 0 .timeout,
     .hostReadTimeout .pf0 0],
    [.tagQuarantineEnd .pf0 0, .l0pRequest 0 true, .aspmL1Entry 0, .addDynamicCapacityResponse 0 true, .releaseDynamicCapacity 0, .dynamicCapacityTimeout 0, .clearEventRecords [],
     .mailboxUnsupported 0, .urgLevelChange 0 0, .thermalSample 0 0 0 0, .throttleUpdate 0, .muLocalReset 0, .unitRemap (.mu 0), .rowSpareEnd .h0 1, .patrolScrub 0 .none .none,
     .stackFailure 0, .packageFailure 0, .debugResponse (zeros 64), .auxStatusRead .bmc 0 1, .linkReadTimeout 0 0 0],
    [.hostLinkTraining 0 0 0, .portFailureTimeout 0, .tilePresenceSet 0 0 .none]] : List (List Instr)).flatten.all (fun i => wellFormed i) = true := by decide +kernel
/-- Desk commands of a carrel above 1,023. -/
theorem test_wf_bad_srcWf :
    ([[.deviceInfo (.carrel 1024), .attestReport (.carrel 1024), .certChain (.carrel 1024), .tenantCreate (.carrel 1024), .tenantSet (.carrel 1024), .tenantDestroy (.carrel 1024),
     .masterBind (.carrel 1024), .volumeKey (.carrel 1024), .tenantStatus (.carrel 1024), .regionAlloc (.carrel 1024), .regionFree (.carrel 1024), .regionCopy (.carrel 1024) .timeout .none,
     .workingCopy (.carrel 1024) .none, .kvCreate (.carrel 1024), .kvPages (.carrel 1024), .kvMove (.carrel 1024) .none, .kvFree (.carrel 1024), .plainGranule (.carrel 1024),
     .plainCache (.carrel 1024), .plainFlush (.carrel 1024)],
    [.kvGuards (.carrel 1024), .tensorAccession (.carrel 1024), .tensorStatus (.carrel 1024), .tensorUnload (.carrel 1024), .windowDeclare (.carrel 1024), .windowSeal (.carrel 1024),
     .windowReopen (.carrel 1024), .windowClose (.carrel 1024), .tensorGuards (.carrel 1024), .tensorOrigin (.carrel 1024), .volumeLoad (.carrel 1024) .none, .volumeUnload (.carrel 1024),
     .queueCreate (.carrel 1024), .queueDestroy (.carrel 1024), .volumeStatus (.carrel 1024), .poolOffer (.carrel 1024), .extentRequest (.carrel 1024), .extentGrant (.carrel 1024),
     .leaseRenew (.carrel 1024) .timeout, .extentRecall (.carrel 1024)],
    [.extentReturn (.carrel 1024), .extentFlush (.carrel 1024) .timeout, .shareCreate (.carrel 1024) .timeout, .editionOpen (.carrel 1024), .editionPublish (.carrel 1024),
     .editionClose (.carrel 1024), .nearOp (.carrel 1024), .mirrorResolve (.carrel 1024), .poolLimit (.carrel 1024), .poolStatus (.carrel 1024), .depotGrant (.carrel 1024),
     .depotRevoke (.carrel 1024), .linkStatus (.carrel 1024), .linkConfig (.carrel 1024), .linkAnchor (.carrel 1024) .timeout, .sessionBind (.carrel 1024), .sessionClose (.carrel 1024),
     .windowSet (.carrel 1024), .routeSet (.carrel 1024), .portReset (.carrel 1024)],
    [.bwSet (.carrel 1024) .timeout, .bwStatus (.carrel 1024), .bwUrgency (.carrel 1024), .errataRead (.carrel 1024), .rasStatus (.carrel 1024), .unitService (.carrel 1024),
     .scrubSet (.carrel 1024), .powerFloor (.carrel 1024), .powerLimit (.carrel 1024), .powerStatus (.carrel 1024), .configWrite (.carrel 1024) .timeout, .configStatus (.carrel 1024),
     .fwInfo (.carrel 1024), .fwStage (.carrel 1024) .timeout, .fwCommit (.carrel 1024), .diagMode (.carrel 1024),
     .cpRestart (.carrel 1024)]] : List (List Instr)).flatten.all (fun i => !wellFormed i) = true := by decide +kernel
/-- Commands of VF64. -/
theorem test_wf_bad_fnWf :
    ([[.glbLockRead (.vf 64) 0 true, .glbRelease (.vf 64) true 0, .registerWrite (.vf 64) 0 [0] .timeout .none, .pcieMemoryRequest (.vf 64) true ⟨false, 0⟩ 1 [0] .timeout .none,
     .configRequest (.vf 64) true 0 0, .initiateFlr (.vf 64), .flrComplete (.vf 64), .hostReadCompletion (.vf 64) 0 .timeout, .hostReadTimeout (.vf 64) 0,
     .tagQuarantineEnd (.vf 64) 0]] : List (List Instr)).flatten.all (fun i => !wellFormed i) = true := by decide +kernel
/-- Vector unit 32. -/
theorem test_wf_bad_unitWf :
    ([[.unitRemap (.vu 32)]] : List (List Instr)).flatten.all (fun i => !wellFormed i) = true := by decide +kernel
/-- Operands one past their range. -/
theorem test_wf_bad_range :
    ([[.carrelDoorbell 1024 true 0, .carrelMessageWrite 1024 0 [0], .carrelMessageWrite 0 256 [0], .glbLockRead .pf0 64 true, .queDoorbell 256 true 0 .timeout .none,
     .queueSlotWrite 256 0 0 [0], .queueSlotWrite 0 16 0 [0], .queueSlotWrite 0 0 64 [0], .callSlipEnd 64, .deadlinePass 64, .folioDataArrive 128 fol, .folioArriveComplete 128 fol .none,
     .folioRecovery 130 fol ⟨.none, .none⟩ .none .none, .recoveryBudgetExpiry 130 fol, .matvec 64 .none, .attnScore 64 .none, .attnValue 64 .none, .kvAppend 64, .elemwise 64, .rmsnorm 64],
    [.layernorm 64, .softmax 64, .rope 64, .act 64, .embed 64 .none, .merge 64, .topk 64, .sample 64 .none, .relayReduce 64, .loop 64, .route 64, .conditionalSkip 64, .consumedRead 64,
     .consumedReadReturn 64 .timeout, .probeRun 128, .probeForce 4096, .investigationRerun 4096, .investigationRefetch 4096 .none, .investigationOtherMu 4096 .none,
     .investigationTimeout 4096],
    [.weightWindowRead 4096 .cxl 0 1, .plainRead 4096 .cxl 0 1, .plainWrite 4096 .cxl 0 [0], .cacheLineFill .h0 0 16 0, .cacheEvictComplete .h0 0 16, .granuleZeroingEnd (2 ^ 64),
     .runtimeAccess 4096 0 (.read 1) .none, .runtimeAccess 0 (2 ^ 64) (.read 1) .none, .poolWindowAdjust 4096, .trayTimeout 4096, .trayProbe 4096 true, .portEnable 8, .equalisationDone 8 0,
     .flitLock 8, .hello 8, .authCert 8, .keyxA 8, .keyxB 8, .confA 8, .authDone 8],
    [.trainingTimeout 8, .portRetryTimer 8, .flitReceive 8 (zeros 256) true, .linkNak 8, .replayTimeout 8, .portRetrain 8, .creditWithheldTimeout 8 0, .creditWithheldTimeout 0 4,
     .pairCert 8, .pairXA 8, .pairXB 8, .pairConf 8, .sessionOpen 8, .sessionAccept 8, .sessionRefuse 8, .sack 8, .sessionResendTimeout 4096 0, .sessionResendTimeout 0 64,
     .sessionSilencePing 4096 0, .sessionSilencePing 0 64],
    [.ping 8, .pong 8, .sessionLossTimeout 4096 0, .sessionLossTimeout 0 64, .close 8, .masterIdFreeTimeout 4096, .rekeyDue 4096 0, .rekeyDue 0 64, .rekey 8, .portLeaveService 8,
     .pathReturnTimer 8, .rdReq 8 [], .wr 8 .timeout .none, .rdRsp 8, .cmpl 8, .red 8, .timeFlitSend 8, .timeFlitReceive 8 0, .lpIdleTimer 8, .lpReq 8],
    [.lpAck 8, .lpNak 8, .wake 8, .configRequest .pf0 true 4096 0, .vfEnable true (63 + 1), .hostReadCompletion .pf0 1024 .timeout, .hostReadTimeout .pf0 1024, .tagQuarantineEnd .pf0 1024,
     .l0pRequest 2 true, .aspmL1Entry 2, .addDynamicCapacityResponse 1920 true, .releaseDynamicCapacity 1920, .dynamicCapacityTimeout 1920, .clearEventRecords [65536],
     .mailboxUnsupported 65536, .urgLevelChange 8 0, .thermalSample 256 0 0 0, .thermalSample 0 256 0 0, .thermalSample 0 0 256 0, .thermalSample 0 0 0 256],
    [.throttleUpdate (2 ^ 16), .muLocalReset 128, .rowSpareEnd .h0 (2 + 1), .patrolScrub (2 ^ 64) .none .none, .stackFailure 8, .packageFailure 32, .auxStatusRead .bmc (2 ^ 16) 1,
     .linkReadTimeout 4096 0 0, .linkReadTimeout 0 64 0, .linkReadTimeout 0 0 4096, .hostLinkTraining 2 0 0, .portFailureTimeout 8, .tilePresenceSet (2 ^ 32) 0 .none,
     .tilePresenceSet 0 (2 ^ 32) .none]] : List (List Instr)).flatten.all (fun i => !wellFormed i) = true := by decide +kernel
/-- Operands below their range, or out of step. -/
theorem test_wf_bad_low :
    ([[.carrelMessageWrite 0 0 [], .queueSlotWrite 0 0 0 [], .registerWrite .pf0 0 [] .timeout .none, .pcieMemoryRequest .pf0 true ⟨false, 0⟩ 0 [0] .timeout .none,
     .configRequest .pf0 true 2 0, .rowSpareEnd .h0 0, .auxStatusRead .bmc 0 0]] : List (List Instr)).flatten.all (fun i => !wellFormed i) = true := by decide +kernel
/-- Byte strings of the wrong length. -/
theorem test_wf_bad_length :
    ([[.flitReceive 0 [] true, .pcieMemoryRequest .pf0 true ⟨false, 0⟩ 1 [] .timeout .none,
     .debugResponse []]] : List (List Instr)).flatten.all (fun i => !wellFormed i) = true := by decide +kernel
/-- Commands that bring a read of more than 16 MiB. -/
theorem test_wf_bad_read (big : HostRead) (h : readWf big = false) :
    wellFormed (.regionCopy src big .none) = false ∧
    wellFormed (.leaseRenew src big) = false ∧
    wellFormed (.extentFlush src big) = false ∧
    wellFormed (.shareCreate src big) = false ∧
    wellFormed (.linkAnchor src big) = false ∧
    wellFormed (.bwSet src big) = false ∧
    wellFormed (.configWrite src big) = false ∧
    wellFormed (.fwStage src big) = false ∧
    wellFormed (.queDoorbell 0 true 0 big .none) = false ∧
    wellFormed (.registerWrite .pf0 0 [0] big .none) = false ∧
    wellFormed (.consumedReadReturn 0 big) = false ∧
    wellFormed (.wr 0 big .none) = false ∧
    wellFormed (.pcieMemoryRequest .pf0 true ⟨false, 0⟩ 1 [0] big .none) = false ∧
    wellFormed (.hostReadCompletion .pf0 0 big) = false := by
  simp [wellFormed, h]

/-! ### Worked values of the spec -/

/-- R109: the check value of CRC-32C over the ASCII bytes "123456789". -/
theorem test_crc32c : crc32c [0x31, 0x32, 0x33, 0x34, 0x35, 0x36, 0x37, 0x38, 0x39] = 0xE3069283#32 := by decide +kernel
/-- The colophon of the spec's worked LRS decode. -/
theorem test_colophon_fields :
    parseColophon (leBytes 8 0x000000090007A221 ++ leBytes 8 0x5A3C001700001925 ++ zeros 16) =
      { method := 1, alphabet := 2, rank := 2, tb := -6, step := 0, etab := 0, zero := false, clamps := false, flushes := false, q := 9, tile := 6437, tag := 0x5A3C0017,
        check := 0, reservedOk := true } := by decide +kernel
/-- The payload bytes that the worked LRS decode names. -/
def lrsPay : Payload :=
  (((((zeros 0x1200).set 0xA2 0x9C).set 0x1005 0x3A).set 0x1109 0x44).set 0x1085 0xB1 |>.set 0x1189 0x2D).toArray
/-- The worked LRS decode: position 649 is the word 0x495, from code 3 and the scale 923,136. -/
theorem test_lrs_worked : lrsCode 2 lrsPay 649 = 3 ∧ lrsScale lrsPay 4096 2 5 9 2 = 923136 ∧ lrsEwf 2 2 lrsPay 649 = { word := 0x495 } := by decide +kernel
/-- The table image of the worked ENT decode. -/
def entHead : Bytes := [0x41, 0x53, 0, 0, 0x40, 0x53, 0, 0, 4, 8, 0, 0]
/-- The same with its CRC. -/
def entImg : Bytes := entHead ++ leBytes 4 (crc32c entHead).toNat
/-- The lane bytes of the worked ENT decode, at the start of lane 3, with the byte that holds d of block 48. -/
def entPay : Payload := ((zeros 0x140 ++ [0x8E, 0x6F, 0xB4]).set 0x18 0x0A).toArray
/-- The worked ENT decode: the first eight values of the lane and their words. -/
theorem test_ent_worked :
    tableOk entImg = true ∧
    (entValues entPay (8 * 0x143) (canonOf entImg) 8 (8 * 0x140)).map (fun r => r.1.map (fun v => (entEwf 8 entPay 1536 v.1).word)) =
      some [0x440, 0, 0x4C0, 0xC60, 0, 0xC00, 0, 0] := by decide +kernel
/-- R631 to R633: a line as it is encoded is clean, poisoned with its check bytes inverted, and uncorrectable with two wrong bytes. -/
theorem test_line_code :
    rsDecode (0x5A :: zeros 63 ++ rsCheck (0x5A :: zeros 63)) = .clean ∧ rsDecode (0x5A :: zeros 63 ++ (rsCheck (0x5A :: zeros 63)).map (fun b => ~~~b)) = .poisoned ∧
    rsDecode (0x5A :: 1 :: zeros 62 ++ rsCheck (0x5B :: zeros 63)) = .uncorrectable := by decide +kernel
/-- R628, R629: data bit 0 has column 0x07, and the last data bit 0x70; a wrong check bit is corrected, and two wrong bits are not. -/
theorem test_word_code :
    hsiaoCheck 1#32 = 0x07#7 ∧ hsiaoCheck 0x80000000#32 = 0x70#7 ∧ hsiaoDecode 0x70#7 = .corrected 31 ∧ hsiaoDecode 0x01#7 = .corrected 32 ∧ hsiaoDecode 0x03#7 = .uncorrectable := by decide

end Sys2Proof.Tests
end

section
/-! SUPPORT. What the bench's operations and a write to BAR0 do, one rule for each target and each register, and the
statement on them (R5, R6, R521, R524, R541, R633, R634, R645 to R648, R699 to R714). -/

namespace Sys2Proof.Machine

/-! ### The bench (R645 to R648) -/

section benchOn

variable {s : State} {tgt : BitVec 4} {line : State → Nat → State} {word : State → Nat × Nat × Nat → State}

theorem benchOn_line {l : Nat} (hm : s.diag.mode = true) (hl : benchLine s tgt.toNat = some l) :
    benchOn tgt line word s = .next (line s l) := by
  simp [benchOn, hm, hl]

theorem benchOn_word {k : Nat × Nat × Nat} (hm : s.diag.mode = true) (hl : benchLine s tgt.toNat = none)
    (hk : benchWord s tgt.toNat = some k) : benchOn tgt line word s = .next (word s k) := by
  simp [benchOn, hm, hl, hk]

theorem benchOn_refused (hm : s.diag.mode = true) (hl : benchLine s tgt.toNat = none)
    (hk : benchWord s tgt.toNat = none) : benchOn tgt line word s = .next (benchRefuse s) := by
  simp [benchOn, hm, hl, hk]

end benchOn

section execBench

variable (tgt : BitVec 4) (s : State)

theorem exec_readRaw : exec (.readRaw tgt) s = execReadRaw tgt s := rfl
theorem exec_readCorrected : exec (.readCorrected tgt) s = execReadCorrected tgt s := rfl
theorem exec_writeRaw : exec (.writeRaw tgt) s = execWriteRaw tgt s := rfl
theorem exec_writeEncoded : exec (.writeEncoded tgt) s = execWriteEncoded tgt s := rfl
theorem exec_writePoison : exec (.writePoison tgt) s = execWritePoison tgt s := rfl

end execBench

theorem benchFixWord_clean {s : State} {k : Nat × Nat × Nat}
    (h : hsiaoDecode (hsiaoCheck (storedWord s k).1 ^^^ (storedWord s k).2) = .clean) :
    benchFixWord s k = benchResult (benchLoadWord s (storedWord s k)) (wordVerdict .clean).1 (wordVerdict .clean).2 := by
  simp only [benchFixWord, h]

/-- Two wrong bits of a word are logged with DIAG set, and the word stays as it is (R629, R634). -/
theorem benchFixWord_uncorrectable {s : State} {k : Nat × Nat × Nat}
    (h : hsiaoDecode (hsiaoCheck (storedWord s k).1 ^^^ (storedWord s k).2) = .uncorrectable) :
    benchFixWord s k =
      benchResult (benchLoadWord
        (sramEvent s k.1 k.2.1 k.2.2 false (hsiaoCheck (storedWord s k).1 ^^^ (storedWord s k).2).toNat 0xFF 2) (storedWord s k))
        (wordVerdict .uncorrectable).1 (wordVerdict .uncorrectable).2 := by
  simp only [benchFixWord, h]

/-! ### Which register a write reaches (R699 to R702) -/

theorem exec_registerWrite (fn : Fn) (off : Nat) (b : Bytes) (consumed : HostRead) (input : RemoteRead) (s : State) :
    exec (.registerWrite fn off b consumed input) s = regWrite s fn off b consumed input := rfl

theorem accessAligned_eight {off : Nat} (ho : off % 8 = 0) : accessAligned off 8 = true := by
  simp [accessAligned, ho]

theorem mod_four_of_accessAligned {off len : Nat} (h : accessAligned off len = true) : off % 4 = 0 := by
  simp only [accessAligned, Bool.and_eq_true, Bool.or_eq_true, beq_iff_eq] at h
  obtain ⟨rfl | rfl, hmod⟩ := h <;> omega

section regWrite

variable {s : State} {fn : Fn} {off : Nat} {b : Bytes} {consumed : HostRead} {input : RemoteRead}

theorem regWrite_carrel {n o : Nat} (hs : s.boot.stage ≠ .recovery) (hc : carrelSpot s fn off = some (n, o)) :
    regWrite s fn off b consumed input = carrelWrite s n o b := by
  simp [regWrite, hs, hc]

theorem regWrite_queue {n o : Nat} (hs : s.boot.stage ≠ .recovery) (hc : carrelSpot s fn off = none)
    (hq : queueSpot s fn off = some (n, o)) :
    regWrite s fn off b consumed input = queueWrite s n o b consumed input := by
  simp [regWrite, hs, hc, hq]

theorem regWrite_misaligned (hs : s.boot.stage ≠ .recovery) (hc : carrelSpot s fn off = none)
    (hq : queueSpot s fn off = none) (ha : accessAligned off b.length = false) :
    regWrite s fn off b consumed input = .next s := by
  simp [regWrite, hs, hc, hq, ha]

theorem regWrite_vf (hs : s.boot.stage ≠ .recovery) (hc : carrelSpot s fn off = none)
    (hq : queueSpot s fn off = none) (hf : isVf fn = true) : regWrite s fn off b consumed input = .next s := by
  simp [regWrite, hs, hc, hq, hf]

/-- A write of eight bytes at GLB_RELEASE by PF0 or PF1. -/
theorem regWrite_release (hs : s.boot.stage ≠ .recovery) (hc : carrelSpot s fn 0x1A00 = none)
    (hq : queueSpot s fn 0x1A00 = none) (hf : isVf fn = false) (hb : b.length = 8) :
    regWrite s fn 0x1A00 b consumed input = execGlbRelease fn true (BitVec.ofNat 64 (leVal b)) s := by
  simp [regWrite, hs, hc, hq, hf, accessAligned_eight, hb]

/-- PF1 has no register of its own but GLB_RELEASE to write. -/
theorem regWrite_pf1_unnamed (hs : s.boot.stage ≠ .recovery) (hc : carrelSpot s .pf1 off = none)
    (hq : queueSpot s .pf1 off = none) (h0 : off ≠ 0x1A00) (h4 : off ≠ 0x1A04) :
    regWrite s .pf1 off b consumed input = .next s := by
  cases ha : accessAligned off b.length with
  | false => exact regWrite_misaligned hs hc hq ha
  | true =>
    have hoff : ¬(0x1A00 ≤ off ∧ off < 0x1A08) := by
      have := mod_four_of_accessAligned ha
      omega
    simp [regWrite, hs, hc, hq, hoff]

theorem regWrite_pf0 (hs : s.boot.stage ≠ .recovery) (hc : carrelSpot s .pf0 off = none)
    (hq : queueSpot s .pf0 off = none) (ha : accessAligned off b.length = true) (hoff : ¬(0x1A00 ≤ off ∧ off < 0x1A08)) :
    regWrite s .pf0 off b consumed input = pf0Write s off b := by
  simp [regWrite, hs, hc, hq, ha, hoff, isVf]

end regWrite

/-! ### Carrel windows and queue blocks (R519 to R524, R709, R710) -/

section carrelWrite

variable {s : State} {n : Nat} {b : Bytes} {x : BindEntry}

theorem carrelWrite_message {i : Nat} (hx : tget s.cp.binding n = some x) (hlen : i + b.length ≤ 256) (hb : b ≠ [])
    (hi : i < 0x100) (hst : (carrelOf s n).state = .idle ∨ (carrelOf s n).state = .running ∨ (carrelOf s n).state = .lost) :
    carrelWrite s n (0x100 + i) b = .next (carrelMod s n (fun c => { c with msg := place c.msg i b })) := by
  have hin : 0x100 ≤ 0x100 + i ∧ 0x100 + i < 0x200 := by omega
  have hopen : ¬((carrelOf s n).state = .posted ∨ (carrelOf s n).state = .restarting) := by
    rcases hst with h | h | h <;> simp [h]
  rw [carrelWrite, if_pos hin, Nat.add_sub_cancel_left]
  simp only [execCarrelMessageWrite, hx, hlen, hb, hopen, ne_eq, not_false_eq_true, and_self, if_true, if_false]

theorem carrelWrite_doorbell (hb : b.length = 8) :
    carrelWrite s n 0x10 b = execCarrelDoorbell n true (BitVec.ofNat 64 (leVal b)) s := by
  simp [carrelWrite, accessAligned_eight, hb]

theorem carrelWrite_status (hb : b.length = 8) :
    carrelWrite s n 8 b = .next (carrelMod s n (fun c => { c with
      lost := rw1c s c.lost (ones 8 b) 3, badDoorbell := rw1c s c.badDoorbell (ones 8 b) 2 })) := by
  simp [carrelWrite, accessAligned_eight, hb]

theorem execCarrelDoorbell_accepted {full : Bool} {v : BitVec 64} (hx : tget s.cp.binding n = some x)
    (hl : doorbellLost s (carrelOf s n) full v = false) (hok : doorbellOk s (carrelOf s n) full v = true) :
    execCarrelDoorbell n full v s = .next (carrelMod s n (fun c => { c with state := .posted })) := by
  simp [execCarrelDoorbell, hx, hl, hok]

theorem execCarrelDoorbell_ignored {full : Bool} {v : BitVec 64} (hx : tget s.cp.binding n = some x)
    (hl : doorbellLost s (carrelOf s n) full v = false) (hok : doorbellOk s (carrelOf s n) full v = false) :
    execCarrelDoorbell n full v s =
      .next (carrelMod s n (fun c => { carrelIgnore c with badDoorbell := stickySet s.now })) := by
  simp [execCarrelDoorbell, hx, hl, hok]

end carrelWrite

section queueWrite

variable {s : State} {n : Nat} {b : Bytes} {consumed : HostRead} {input : RemoteRead}

theorem queueWrite_slot {slot i : Nat} (hslot : slot < 16) (hi : i < 64) (hlen : i + b.length ≤ 64) (hb : b ≠ []) :
    queueWrite s n (0x400 + 64 * slot + i) b consumed input =
      .next (queMod s n (fun q => { q with slots := tset q.slots slot (place (tgetD q.slots slot []) i b) })) := by
  have hin : 0x400 ≤ 0x400 + 64 * slot + i ∧ 0x400 + 64 * slot + i < 0x800 := by omega
  have hdiv : (0x400 + 64 * slot + i - 0x400) / 64 = slot := by omega
  have hmod : (0x400 + 64 * slot + i) % 64 = i := by omega
  rw [queueWrite, if_pos hin, hdiv, hmod, execQueueSlotWrite, if_pos ⟨hslot, hlen, hb⟩]

/-- A doorbell that is not the next in sequence is counted and sets BAD_DOORBELL (R709). -/
theorem queueWrite_doorbell_ignored {q : Queue} (hq : tget s.queues n = some q) (hb : b.length = 8)
    (hv : (BitVec.ofNat 64 (leVal b)).toNat ≠ q.taken + 1) :
    queueWrite s n 0x10 b consumed input = .next (queIgnore s n false) := by
  have hbell : queueWrite s n 0x10 b consumed input =
      execQueDoorbell n true (BitVec.ofNat 64 (leVal b)) consumed input s := by
    simp [queueWrite, accessAligned_eight, hb]
  have hbad : (!true || (BitVec.ofNat 64 (leVal b)).toNat != q.taken + 1) = true := by simpa using hv
  rw [hbell, execQueDoorbell, hq]
  exact if_pos hbad

theorem queueWrite_status (hb : b.length = 8) :
    queueWrite s n 8 b consumed input = .next (queMod s n (fun q => { q with
      full := rw1c s q.full (ones 8 b) 2, bad := rw1c s q.bad (ones 8 b) 1 })) := by
  simp [queueWrite, accessAligned_eight, hb]

end queueWrite

/-! ### Lock release and the registers of PF0 (R541, R646, R705) -/

theorem execGlbRelease_pf0 {s : State} {v : BitVec 64} (hm : s.ras.moduleFault = false) :
    execGlbRelease .pf0 true v s =
      .next { s with cp := { s.cp with locks := tdel s.cp.locks (v.toNat % 64), lockWon := none } } := by
  simp [execGlbRelease, hm]

/-- PF1 releases the locks that it holds. -/
theorem execGlbRelease_pf1_holder {s : State} {v : BitVec 64} (hm : s.ras.moduleFault = false)
    (hl : tget s.cp.locks (v.toNat % 64) = some 2) :
    execGlbRelease .pf1 true v s =
      .next { s with cp := { s.cp with locks := tdel s.cp.locks (v.toNat % 64), lockWon := none } } := by
  simp [execGlbRelease, hm, hl, fnMid]

section pf0Write

variable {s : State} {b : Bytes}

theorem pf0Write_link {p : Nat} (hp : p < 8) : pf0Write s (0x2000 + 0x100 * p) b = .next (xlWrite s p (ones (0x2000 + 0x100 * p) b)) := by
  have hin : 0x2000 ≤ 0x2000 + 0x100 * p ∧ 0x2000 + 0x100 * p < 0x2800 ∧ (0x2000 + 0x100 * p) % 0x100 < 8 := by omega
  have hport : (0x2000 + 0x100 * p - 0x2000) / 0x100 = p := by omega
  rw [pf0Write, if_pos hin, hport]

theorem pf0Write_bandwidth {r c off : Nat} (hr : r < 26) (hc : c < 8) (ho : off = 0x300000 + 0x100 * r + 0x20 * c + 0x18) :
    pf0Write s off b = .next (bwMod s r c (fun x => { x with degraded := rw1c s x.degraded (ones off b) 62 })) := by
  have hlink : ¬(0x2000 ≤ off ∧ off < 0x2800 ∧ off % 0x100 < 8) := by omega
  have hin : 0x300000 ≤ off ∧ off < 0x301A00 ∧ off % 0x20 / 8 = 3 := by omega
  have hres : (off - 0x300000) / 0x100 = r := by omega
  have hcls : off % 0x100 / 0x20 = c := by omega
  rw [pf0Write, if_neg hlink, if_pos hin, hres, hcls]

theorem pf0Write_errata : pf0Write s 0x400018 b =
    .next { s with ras := { s.ras with select := BitVec.ofNat 64 (putHalf s.ras.select.toNat 0x400018 b) } } := by
  simp [pf0Write]

/-- The bench's registers, which are there in diagnostics mode only. -/
theorem pf0Write_bench {off : Nat} (hlo : 0x500000 ≤ off) (hhi : off < 0x500080) :
    pf0Write s off b = if s.diag.mode then diagWrite s (off - 0x500000) b else .next s := by
  have hlink : ¬(0x2000 ≤ off ∧ off < 0x2800 ∧ off % 0x100 < 8) := by omega
  have hbw : ¬(0x300000 ≤ off ∧ off < 0x301A00 ∧ off % 0x20 / 8 = 3) := by omega
  have herr : ¬(0x400018 ≤ off ∧ off < 0x400020) := by omega
  rw [pf0Write, if_neg hlink, if_neg hbw, if_neg herr]
  simp only [hlo, hhi, true_and]

theorem diagWrite_addr : diagWrite s 0x10 b =
    .next { s with diag := { s.diag with addr := BitVec.ofNat 64 (putHalf s.diag.addr.toNat 0x10 b) } } := by
  simp [diagWrite]

theorem diagWrite_check : diagWrite s 0x18 b =
    .next { s with diag := { s.diag with check := BitVec.ofNat 64 (putHalf s.diag.check.toNat 0x18 b) } } := by
  simp [diagWrite]

theorem diagWrite_data {i : Nat} (hi : i < 8) : diagWrite s (0x40 + 8 * i) b =
    .next { s with diag := { s.diag with
      data := s.diag.data.set i (BitVec.ofNat 64 (putHalf (s.diag.data.getD i 0).toNat (0x40 + 8 * i) b)) } } := by
  have hcmd : ¬(0x40 + 8 * i = 0 ∧ b.length = 8) := by omega
  have haddr : (0x40 + 8 * i) / 8 ≠ 2 := by omega
  have hcheck : (0x40 + 8 * i) / 8 ≠ 3 := by omega
  have hin : 0x40 ≤ 0x40 + 8 * i ∧ 0x40 + 8 * i < 0x80 := by omega
  have hword : (0x40 + 8 * i - 0x40) / 8 = i := by omega
  simp only [diagWrite, if_neg hcmd, if_neg haddr, if_neg hcheck, if_pos hin, hword]

end pf0Write

/-- Settles O42: each clause is the rule above for the target or the register that its hypotheses name. -/
theorem benchRegistersAndUnits : Obligations.BenchRegistersAndUnits := by
  unfold Obligations.BenchRegistersAndUnits
  refine ⟨?lineRead, ?lineWrite, ?word, ?refused, ?carrel, ?queue, ?unnamed, ?pf0⟩
  case lineRead =>
    rintro s _ tgt l hm hl rfl
    exact ⟨(exec_readRaw tgt s).trans (benchOn_line hm hl), (exec_readCorrected tgt s).trans (benchOn_line hm hl)⟩
  case lineWrite =>
    rintro s _ tgt l hm hl rfl
    refine ⟨(exec_writeRaw tgt s).trans (benchOn_line hm hl), (exec_writePoison tgt s).trans (benchOn_line hm hl), ?_⟩
    rintro _ _ rfl rfl
    exact (exec_writeEncoded tgt s).trans (benchOn_line hm hl)
  case word =>
    intro s tgt k hm hl hk d syn
    refine ⟨(exec_readRaw tgt s).trans (benchOn_word hm hl hk), fun hclean => ?_, fun hbad => ?_,
      (exec_writeRaw tgt s).trans (benchOn_word hm hl hk), (exec_writeEncoded tgt s).trans (benchOn_word hm hl hk),
      (exec_writePoison tgt s).trans (benchOn_word hm hl hk)⟩
    · rw [exec_readCorrected, execReadCorrected, benchOn_word hm hl hk, benchFixWord_clean hclean]
    · rw [exec_readCorrected, execReadCorrected, benchOn_word hm hl hk, benchFixWord_uncorrectable hbad]
  case refused =>
    intro s tgt hm hl hk c hc
    simp only [List.mem_cons, List.not_mem_nil, or_false] at hc
    obtain rfl | rfl | rfl | rfl | rfl := hc
    · exact (exec_readRaw tgt s).trans (benchOn_refused hm hl hk)
    · exact (exec_readCorrected tgt s).trans (benchOn_refused hm hl hk)
    · exact (exec_writeRaw tgt s).trans (benchOn_refused hm hl hk)
    · exact (exec_writeEncoded tgt s).trans (benchOn_refused hm hl hk)
    · exact (exec_writePoison tgt s).trans (benchOn_refused hm hl hk)
  case carrel =>
    intro s n o b fn off consumed input x hs hc hx k
    rw [exec_registerWrite, regWrite_carrel hs hc]
    refine ⟨?_, ?_, ?_, ?_⟩
    · rintro i rfl hlen hb hi hst
      exact carrelWrite_message hx hlen hb hi hst
    · rintro rfl hb hl hok
      rw [carrelWrite_doorbell hb]
      exact execCarrelDoorbell_accepted hx hl hok
    · rintro rfl hb hl hok
      rw [carrelWrite_doorbell hb]
      exact execCarrelDoorbell_ignored hx hl hok
    · rintro rfl hb
      exact carrelWrite_status hb
  case queue =>
    intro s n o b fn off consumed input hs hc hq
    rw [exec_registerWrite, regWrite_queue hs hc hq]
    refine ⟨?_, ?_, ?_⟩
    · rintro slot i hslot hi rfl hlen hb
      exact queueWrite_slot hslot hi hlen hb
    · rintro q hget rfl hb hv
      exact queueWrite_doorbell_ignored hget hb hv
    · rintro rfl hb
      exact queueWrite_status hb
  case unnamed =>
    intro s fn off b consumed input hs hc hq
    rw [exec_registerWrite]
    refine ⟨regWrite_misaligned hs hc hq, ?_, ?_, ?_⟩
    · rintro ⟨i, rfl⟩
      exact regWrite_vf hs hc hq rfl
    · rintro rfl h0 h4
      exact regWrite_pf1_unnamed hs hc hq h0 h4
    · rintro rfl rfl hb hl hfault
      rw [regWrite_release hs hc hq rfl hb, execGlbRelease_pf1_holder hfault hl]
  case pf0 =>
    intro s off b consumed input hs hc hq ha
    rw [exec_registerWrite]
    refine ⟨?_, ?_, ?_, ?_, ?_, ?_, ?_, ?_⟩
    · rintro p hp rfl
      rw [regWrite_pf0 hs hc hq ha (by omega), pf0Write_link hp]
    · rintro rfl hb hfault
      rw [regWrite_release hs hc hq rfl hb, execGlbRelease_pf0 hfault]
    · intro r c hr hcls ho
      rw [regWrite_pf0 hs hc hq ha (by omega), pf0Write_bandwidth hr hcls ho]
      rfl
    · rintro rfl
      rw [regWrite_pf0 hs hc hq ha (by omega), pf0Write_errata]
    · rintro rfl hm
      rw [regWrite_pf0 hs hc hq ha (by omega), pf0Write_bench (by omega) (by omega), if_pos hm]
      exact diagWrite_addr
    · rintro rfl hm
      rw [regWrite_pf0 hs hc hq ha (by omega), pf0Write_bench (by omega) (by omega), if_pos hm]
      exact diagWrite_check
    · rintro i hi rfl hm
      have hoff : 0x500040 + 8 * i - 0x500000 = 0x40 + 8 * i := by omega
      rw [regWrite_pf0 hs hc hq ha (by omega), pf0Write_bench (by omega) (by omega), if_pos hm, hoff, diagWrite_data hi]
    · intro hlo hhi hm
      rw [regWrite_pf0 hs hc hq ha (by omega), pf0Write_bench hlo hhi, if_neg (by simp [hm])]

end Sys2Proof.Machine
end

section
/-! SUPPORT. The statements on the whole device: what an idle cycle is, how the receiver and the senders are reset, and
what faults, scrubs and repairs do (R20 to R27, R280, R329, R446, R532 to R536, R640 to R644, R652, R654). -/

namespace Sys2Proof.Machine

/-! ### Tables -/

section

variable {κ α : Type} [DecidableEq κ]

/-- A table whose values are made anew from their keys lists the same keys. -/
theorem tget_map_key (t : Tbl κ α) {β : Type} (f : κ → β) (k : κ) :
    tget (t.map (fun p => (p.1, f p.1))) k = (tget t k).map (fun _ => f k) := by
  induction t with
  | nil => rfl
  | cons p r ih =>
    by_cases h : p.1 = k
    · simp [tget, h]
    · simpa [tget, h] using ih

theorem tget_foldl_tdel_ne (l : List κ) (t : Tbl κ α) {k : κ} (h : k ∉ l) : tget (l.foldl tdel t) k = tget t k := by
  induction l generalizing t with
  | nil => rfl
  | cons a l ih =>
    obtain ⟨ha, hl⟩ := not_or.mp (mt List.mem_cons.mpr h)
    exact (ih _ hl).trans (tget_tdel_ne t ha)

theorem tget_foldl_tdel_mem (l : List κ) (t : Tbl κ α) {k : κ} (h : k ∈ l) : tget (l.foldl tdel t) k = none := by
  induction l generalizing t with
  | nil => cases h
  | cons a l ih =>
    by_cases hl : k ∈ l
    · exact ih _ hl
    · obtain rfl := (List.mem_cons.mp h).resolve_right hl
      exact (tget_foldl_tdel_ne l _ hl).trans (tget_tdel_self t k)

end

theorem sat16_eq_min (n : Nat) : sat16 n = min 0xFFFF n := by
  unfold sat16 satTo
  split <;> omega

/-! ### An idle cycle (R446, R669) -/

theorem slewStep_le_one (s : State) : slewStep s ≤ 1 := by
  unfold slewStep
  repeat' split
  all_goals decide

theorem neg_one_le_slewStep (s : State) : -1 ≤ slewStep s := by
  unfold slewStep
  repeat' split
  all_goals decide

theorem slewStep_of_phase_zero {s : State} (h : s.link.sync.phase = 0) : slewStep s = 0 := by
  simp [slewStep, h]

theorem syncRelease_pins (s : State) :
    ∃ low, syncRelease s = { s with pins := { s.pins with syncOutLowUntil := low } } := by
  unfold syncRelease
  split
  · exact ⟨s.pins.syncOutLowUntil, rfl⟩
  · split
    · exact ⟨none, rfl⟩
    · exact ⟨s.pins.syncOutLowUntil, rfl⟩

/-- Where every forwarded write has been taken, a cycle brings nothing from the other lenders. -/
theorem peerTick_settled {s : State} (hw : s.pool.waits = []) (he : ∀ p ∈ s.pool.extents, p.2.sent ≤ p.2.taken) :
    peerTick s = s := by
  have hall : s.pool.extents.all (fun p => decide (p.2.sent ≤ p.2.taken)) = true := by simpa using he
  exact if_pos ⟨by simp [hw], hall⟩

theorem step_idle {s : State} (h : s.pending = []) : step s = .next (idleTick s) := by
  simp only [step, h]

/-- The clock alone, with the slewing of device time. -/
def clockTick (s : State) : State :=
  { s with now := ((s.now : Int) + 10 + slewStep s).toNat
           link := { s.link with sync := { s.link.sync with phase := s.link.sync.phase - slewStep s } } }

theorem idleTick_on {s : State} (h : s.pins.aux = true) :
    idleTick s = peerTick (powerTimers (syncRelease (clockTick s))) := if_pos h

theorem idleTick_off {s : State} (h : s.pins.aux = false) : idleTick s = s := if_neg (by simp [h])

/-! ### Control-processor restart and sender reset (R532, R536) -/

theorem exec_cpRestartEnd (s : State) : exec .cpRestartEnd s = execCpRestartEnd s := rfl

theorem deskRun_serves {s : State} {src : DeskSrc} {op : Nat} {c : RunCmd} (f : State → RunCmd → State)
    (h : Serves s src op c) : deskRun op f s src = f (awake s op) c := by
  simp only [deskRun, show runningCmd s src op = some c from h, awake]

theorem carrelOf_carrelsAll {s : State} {n : Nat} {b : BindEntry} (f : Nat → Carrel → Carrel)
    (h : tget s.cp.binding n = some b) : carrelOf (carrelsAll s f) n = f n (carrelOf s n) := by
  have hget : tget (carrelsAll s f).cp.carrels n = some (f n (carrelOf s n)) :=
    (tget_map_key s.cp.binding (fun k => f k (carrelOf s k)) n).trans (by rw [h]; rfl)
  rw [carrelOf, tgetD, hget, Option.getD_some]

theorem carrelOf_restartBegin {s : State} {n : Nat} {b : BindEntry} (h : tget s.cp.binding n = some b) :
    carrelOf (restartBegin s) n = carrelRestart (carrelOf s n) :=
  carrelOf_carrelsAll (fun _ c => carrelRestart c) h

theorem carrelOf_restartEnd {s : State} {n : Nat} {b : BindEntry} (h : tget s.cp.binding n = some b)
    (hcp : (forwardsLost s).cp = s.cp) :
    carrelOf (restartEnd s) n =
      carrelRestartEnd (forwardsLost s).now (devNs (forwardsLost s)) (carrelRunOp (forwardsLost s) n) (carrelOf s n) := by
  have hbound : tget (forwardsLost s).cp.binding n = some b := hcp ▸ h
  have hsame : carrelOf (forwardsLost s) n = carrelOf s n := by rw [carrelOf, hcp, carrelOf]
  exact hsame ▸ carrelOf_carrelsAll
    (fun n c => carrelRestartEnd (forwardsLost s).now (devNs (forwardsLost s)) (carrelRunOp (forwardsLost s) n) c) hbound

section carrelRestartEnd

variable {now t op : Nat} {c : Carrel} (hc : c.state = .restarting)
include hc

theorem carrelRestartEnd_restarts : (carrelRestartEnd now t op c).restarts = min 0xFFFF (c.restarts + 1) := by
  simp only [carrelRestartEnd, hc, bne_self_eq_false, Bool.false_eq_true, if_false]
  cases c.before <;> exact sat16_eq_min _

theorem carrelRestartEnd_idle (hb : c.before = .idle) :
    carrelRestartEnd now t op c = { c with restarts := sat16 (c.restarts + 1), state := .idle } := by
  simp only [carrelRestartEnd, hc, hb, bne_self_eq_false, Bool.false_eq_true, if_false]

theorem carrelRestartEnd_lost (hb : c.before = .lost) :
    carrelRestartEnd now t op c = { c with restarts := sat16 (c.restarts + 1), state := .lost } := by
  simp only [carrelRestartEnd, hc, hb, bne_self_eq_false, Bool.false_eq_true, if_false]

theorem carrelRestartEnd_posted (hb : c.before = .posted) :
    carrelRestartEnd now t op c =
      { c with restarts := sat16 (c.restarts + 1), rc := rcResetLost, state := .lost, lost := stickySet now } := by
  simp only [carrelRestartEnd, hc, hb, bne_self_eq_false, Bool.false_eq_true, if_false]

theorem carrelRestartEnd_running (hb : c.before = .running) :
    carrelRestartEnd now t op c =
      { c with restarts := sat16 (c.restarts + 1), reply := replyBytes op rcResetLost c.taken 0 t [], completed := c.taken
               rc := rcResetLost, state := .lost, lost := stickySet now } := by
  simp only [carrelRestartEnd, hc, hb, bne_self_eq_false, Bool.false_eq_true, if_false]

end carrelRestartEnd

/-- The carrels that the binding table gives to a sender. -/
def carrelsOfSender (s : State) (mid : Nat) : List Nat :=
  (s.cp.binding.filter (fun p => p.2.sender == mid)).map (·.1)

theorem mem_carrelsOfSender {s : State} {mid n : Nat} :
    n ∈ carrelsOfSender s mid ↔ ∃ p ∈ s.cp.binding, p.2.sender = mid ∧ p.1 = n := by
  simp [carrelsOfSender, and_assoc]

theorem resetSender_cp (s : State) (mid : Nat) :
    ∃ cp : Cp, resetSender s mid = { s with cp := cp } ∧ cp.binding = s.cp.binding ∧
      cp.carrels = (carrelsOfSender s mid).foldl tdel s.cp.carrels :=
  ⟨(resetSender s mid).cp, rfl, rfl, rfl⟩

/-- A sender's reset takes its carrels out of the table, so that they read as never used, and no other (R535). -/
theorem resetSender_carrels (s : State) (mid : Nat) : ∃ t, resetSender s mid = t ∧ t = { s with cp := t.cp } ∧
    t.cp.binding = s.cp.binding ∧ (∀ p ∈ s.cp.binding, p.2.sender = mid → carrelOf t p.1 = {}) ∧
    (∀ n, (∀ p ∈ s.cp.binding, p.2.sender = mid → p.1 ≠ n) → carrelOf t n = carrelOf s n) := by
  obtain ⟨cp, heq, hbind, htab⟩ := resetSender_cp s mid
  refine ⟨_, heq, rfl, hbind, fun p hp hm => ?_, fun n hn => ?_⟩
  · have hmem : p.1 ∈ carrelsOfSender s mid := mem_carrelsOfSender.mpr ⟨p, hp, hm, rfl⟩
    simp only [carrelOf, tgetD, htab, tget_foldl_tdel_mem _ _ hmem, Option.getD_none]
  · have hmem : n ∉ carrelsOfSender s mid := fun hin =>
      have ⟨p, hp, hm, hpn⟩ := mem_carrelsOfSender.mp hin
      hn p hp hm hpn
    simp only [carrelOf, tgetD, htab, tget_foldl_tdel_ne _ _ hmem]

/-! ### Faults (R20 to R23, R329, R654) -/

section

variable (s : State) (h : Half) (n : Nat)

theorem exec_unitRemap (u : UnitRef) : exec (.unitRemap u) s = execUnitRemap u s := rfl
theorem exec_muLocalReset : exec (.muLocalReset n) s = execMuLocalReset n s := rfl
theorem exec_rowSpareEnd : exec (.rowSpareEnd h n) s = execRowSpareEnd h n s := rfl
theorem exec_stackFailure : exec (.stackFailure n) s = .next (stackFails n s) := rfl
theorem exec_packageFailure : exec (.packageFailure n) s = .next (packageFails n s) := rfl
theorem exec_packageRemap : exec (.packageRemap h) s = execPackageRemap h s := rfl
theorem exec_halfFence : exec (.halfFence h) s = execHalfFence h s := rfl
theorem exec_trngFail : exec (.trngFail h) s = execTrngFail h s := rfl
theorem exec_moduleFault (m : ModuleUnit) : exec (.moduleFault m) s = execModuleFault m s := rfl

end

theorem not_fenced_of_halfUp {s : State} {h : Half} (hup : halfUp s h = true) : (s.halves.get h).fenced = false := by
  simp only [halfUp, Bool.and_eq_true, Bool.not_eq_true'] at hup
  exact hup.2

/-- What lets a failed stack be seen: it is one of the module's, in a half that serves, and was in use. -/
theorem not_stackFails_guard {s : State} {n : Nat} {h : Half} (hn : n < 8) (hup : halfUp s h = true)
    (hin : (s.halves.get h).hbm.contains (n % 4) = true) :
    ¬(8 ≤ n ∨ (!halfUp s h) = true ∨ (!(s.halves.get h).hbm.contains (n % 4)) = true) := by
  simp only [hup, hin, Bool.not_true, Bool.false_eq_true, or_false]
  omega

/-- What lets a failed package be seen. -/
theorem not_packageFails_guard {s : State} {n : Nat} {h : Half} (hn : n < 32) (hup : halfUp s h = true)
    (hin : (s.halves.get h).packages.contains (n % 16) = true) :
    ¬(32 ≤ n ∨ (!halfUp s h) = true ∨ (!(s.halves.get h).packages.contains (n % 16)) = true) := by
  simp only [hup, hin, Bool.not_true, Bool.false_eq_true, or_false]
  omega

/-- Settles O13: a fenced half is among what every command that is no reset keeps. -/
theorem fencedHalfStays : Obligations.FencedHalfStays := by
  intro c s h hreset hfenced
  obtain ⟨t, heq, -, hkept⟩ := exec_safe c s hreset
  exact ⟨t, heq, hkept h hfenced⟩

/-- Settles O2: an idle cycle is the clock, the end of a sync pulse and the timers, and then what the other lenders do. -/
theorem idleStepIsOneCycle : Obligations.IdleStepIsOneCycle := by
  intro s hq
  refine ⟨fun haux => ?_, fun haux => ?_⟩
  · rw [step_idle hq, idleTick_off haux]
  · obtain ⟨low, hlow⟩ := syncRelease_pins (clockTick s)
    have hstep : step s = .next (peerTick (powerTimers { clockTick s with
        pins := { s.pins with syncOutLowUntil := low } })) := by
      rw [step_idle hq, idleTick_on haux, hlow]
      rfl
    refine ⟨slewStep s, low, _, _, _, slewStep_le_one s, neg_one_le_slewStep s, slewStep_of_phase_zero, hstep, ?_⟩
    rintro ⟨hwaits, hext⟩
    exact hstep.trans (congrArg _ (peerTick_settled hwaits hext))

/-- Settles O21: the restart acts on each bound carrel by itself, and a sender's reset deletes its carrels. -/
theorem receiverAndSenderReset : Obligations.ReceiverAndSenderReset := by
  refine ⟨?command, ?watchdog, ?begins, ?ends, ?carrels, ?target⟩
  case command =>
    intro s src c h
    exact congrArg _ (deskRun_serves _ h)
  case watchdog =>
    intro s hready hstage
    exact if_pos ⟨hready, hstage⟩
  case begins =>
    intro s n b hb
    exact ⟨carrelOf_restartBegin hb, rfl⟩
  case ends =>
    intro s since h
    simp only [exec_cpRestartEnd, execCpRestartEnd, h]
  case carrels =>
    intro s n b hb hc hcp k e
    have he : e = _ := carrelOf_restartEnd hb hcp
    refine ⟨rfl, rfl, rfl, rfl, ?_, ?_, ?_, ?_, ?_, ?_⟩
    · rw [he, carrelRestartEnd_restarts hc]
    · intro hidle
      rw [he, carrelRestartEnd_idle hc hidle]
      exact ⟨rfl, rfl⟩
    · intro hlost
      rw [he, carrelRestartEnd_lost hc hlost]
    · rintro (hposted | hrun)
      · rw [he, carrelRestartEnd_posted hc hposted]
        exact ⟨rfl, rfl, rfl, rfl⟩
      · rw [he, carrelRestartEnd_running hc hrun]
        exact ⟨rfl, rfl, rfl, rfl⟩
    · intro hposted
      rw [he, carrelRestartEnd_posted hc hposted]
    · intro hrun
      rw [he, carrelRestartEnd_running hc hrun]
  case target =>
    intro s target mid h
    obtain ⟨t, heq, hrest⟩ := resetSender_carrels s mid
    refine ⟨t, ?_, hrest⟩
    obtain ⟨rfl, rfl⟩ | ⟨rfl, rfl⟩ := h <;> exact congrArg _ heq

/-- Settles O44: under its hypotheses each event takes the one branch of its meaning in which something happens. -/
theorem faultEvents : Obligations.FaultEvents := by
  refine ⟨?muOut, ?vuOut, ?muReset, ?rowEnd, ?scrub, ?stack, ?package, ?remap, ?fence, ?trng, ?module⟩
  case muOut =>
    rintro s _ n hn hdue hin rfl
    simp only [exec_unitRemap, execUnitRemap, hn, hdue, hin, and_self, if_true]
  case vuOut =>
    intro s n hn hdue hin
    simp only [exec_unitRemap, execUnitRemap, hn, hdue, hin, and_self, if_true]
  case muReset =>
    intro s w n times hn hin hstage hw htimes
    simp only [exec_muLocalReset, execMuLocalReset, hn, hin, hstage, and_self, if_true, ← hw, ← htimes]
    refine ⟨_, _, ?acc, ?probeAcc, ?probe, ?times, ?resetAt, ?due, ?service, ?wiped, rfl⟩
    case due => simp only [Bool.or_eq_true, decide_eq_true_eq]
    case wiped =>
      intro a
      simp only [Bool.and_eq_true]
      split <;> rfl
    all_goals rfl
  case rowEnd =>
    intro s u half tier r bad hfind hlines
    simp only [exec_rowSpareEnd, execRowSpareEnd, hfind, hlines]
  case scrub =>
    intro s addr replica origin hserved hawake
    have hvisits : ¬((!tierServed s) = true ∨ s.power.state = .sleep ∧ s.power.lastScrubVisit ≠ s.now) := by
      simp [hserved, hawake]
    refine ⟨fun hword => (if_neg hvisits).trans (if_pos hword), fun hline htier husable hup hcap => ?_⟩
    refine (if_neg hvisits).trans ((if_neg (Nat.not_le.mpr hline)).trans (if_pos ?_))
    simp [htier, husable, hup, hcap]
  case stack =>
    rintro s _ n h hn rfl hup hin
    refine ⟨fun hsecond => ?_, fun hfirst hu => ?_⟩
    · rw [exec_stackFailure]
      exact congrArg _ ((if_neg (not_stackFails_guard hn hup hin)).trans (if_pos hsecond))
    · rw [exec_stackFailure, hu]
      exact congrArg _ ((if_neg (not_stackFails_guard hn hup hin)).trans (if_neg (by simp [hfirst])))
  case package =>
    rintro s _ _ n h hn rfl hup hin
    refine ⟨fun hsecond => ?_, fun hfirst hu hv => ?_⟩
    · rw [exec_packageFailure]
      exact congrArg _ ((if_neg (not_packageFails_guard hn hup hin)).trans (if_pos hsecond))
    · rw [exec_packageFailure, hv, hu]
      exact congrArg _ ((if_neg (not_packageFails_guard hn hup hin)).trans (if_neg (Nat.not_lt.mpr hfirst)))
  case remap =>
    intro s h hfailing hup hregions hgranules hextents
    simp only [exec_packageRemap, execPackageRemap, hfailing, hup, hregions, hgranules, hextents,
      List.isEmpty_nil, Bool.not_false, and_self, if_true]
  case fence =>
    intro s u v h hup hu hv
    simp only [exec_halfFence, execHalfFence, hup, if_true, fenceHalf, not_fenced_of_halfUp hup,
      Bool.false_eq_true, if_false, hv, hu]
  case trng =>
    intro s h hok
    simp only [exec_trngFail, execTrngFail, hok, if_true]
  case module =>
    intro s u m hsound haux hu
    simp only [exec_moduleFault, execModuleFault, hsound, haux, Bool.not_true, Bool.false_eq_true, or_self, if_false, hu]

end Sys2Proof.Machine
end

section
/-! SUPPORT. What a desk command that needs tier memory acts on, what the commands on key/value objects do, one rule for each
branch, and the statement on them (R83 to R86, R303 to R307, R560, R561, R666, R667). -/

namespace Sys2Proof.Machine

/-! ### A command that needs tier memory, and the tables that it reads -/

/-- A desk command that is not served in SLEEP acts on the device once it is out of SLEEP (R666, R667). -/
theorem deskRun_leaveSleep {s : State} {src : DeskSrc} {op : Nat} {c : RunCmd} (f : State → RunCmd → State)
    (h : Serves s src op c) (hop : sleepOps.contains op = false) : deskRun op f s src = f (leaveSleep s) c := by
  rw [deskRun_serves f h, awake, if_neg (Bool.eq_false_iff.mp hop)]

@[simp] theorem dramZero_kvs (s : State) (da n : Nat) : (dramZero s da n).kvs = s.kvs := rfl

@[simp] theorem entriesDrop_kvs (s : State) (h : Half) (lo hi : Nat) : (entriesDrop s h lo hi).kvs = s.kvs := rfl

@[simp] theorem startZeroing_kvs (s : State) (base n : Nat) : (startZeroing s base n).kvs = s.kvs := by
  rw [startZeroing]
  dsimp only
  rw [dramZero_kvs, entriesDrop_kvs]

/-! ### Key/value objects (R303 to R307, R86) -/

section kvObjects

variable {s : State} {src : DeskSrc} {c : RunCmd}

theorem exec_kvCreate (h : Serves s src 0x0305 c) : exec (.kvCreate src) s = .next (kvCreateBody (leaveSleep s) c) :=
  congrArg _ (deskRun_leaveSleep _ h (by decide))

theorem exec_kvPages (h : Serves s src 0x0306 c) : exec (.kvPages src) s = .next (kvPagesBody (leaveSleep s) c) :=
  congrArg _ (deskRun_leaveSleep _ h (by decide))

theorem exec_kvMove (remote : RemoteRead) (h : Serves s src 0x0307 c) :
    exec (.kvMove src remote) s = .next (kvMoveBody remote (leaveSleep s) c) :=
  congrArg _ (deskRun_leaveSleep _ h (by decide))

theorem exec_kvFree (h : Serves s src 0x0308 c) : exec (.kvFree src) s = .next (kvFreeBody (leaveSleep s) c) :=
  congrArg _ (deskRun_leaveSleep _ h (by decide))

theorem exec_kvGuards (h : Serves s src 0x030C c) : exec (.kvGuards src) s = .next (kvGuardsBody (leaveSleep s) c) :=
  congrArg _ (deskRun_leaveSleep _ h (by decide))

end kvObjects

section kvBodies

variable {w : State} {c : RunCmd} {k : KvObj} (hk : kvOf w c.mid (arg c 0) = some k)

/-- KV_CREATE with a free run of granules, an index and room in the tenant's quota and in class 5. -/
theorem kvCreateBody_placed {g i : Nat} (hopen : tierClosed w 1 (halfOf (arg c 4)) = false)
    (hquota : tenantUsed w (cmdTenant w c) 1 + ceilDiv (arg c 0 * 2 * arg c 3 * 16) mib2 ≤ tenantQuota w (cmdTenant w c) 1)
    (hrun : findRun w 1 (halfOf (arg c 4)) (ceilDiv (arg c 0 * 2 * arg c 3 * 16) mib2) true = some g)
    (hidx : leastFrom (fun i => !thas w.kvs i) (w.kvs.length + 1) 0 = some i) (hzero : zeroOpen w (g * mib2) = true) :
    kvCreateBody w c =
      let n := ceilDiv (arg c 0 * 2 * arg c 3 * 16) mib2
      let gen := tgetD w.kvGen i 0 + 1
      let k : KvObj := { idx := i, gen := gen, master := c.mid, tenant := cmdTenant w c, nh := arg c 0, d := arg c 2
                         format := arg c 1, maxPages := arg c 3, half := halfOf (arg c 4), tableBase := g * mib2
                         tableGranules := n }
      complete { dramPut (chargeZero (dramZero w (g * mib2) (n * mib2)) (g * mib2) (n * mib2)) (g * mib2)
          (emptyTable (arg c 0 * 2 * arg c 3)) with kvs := tset w.kvs i k, kvGen := tset w.kvGen i gen } c rcDone
        [.u 8 (kvHandle k)] := by
  have hroom : ¬(tierClosed w 1 (halfOf (arg c 4)) = true ∨ tenantQuota w (cmdTenant w c) 1 <
      tenantUsed w (cmdTenant w c) 1 + ceilDiv (arg c 0 * 2 * arg c 3 * 16) mib2) := by
    simp only [hopen, Bool.false_eq_true, false_or]
    omega
  simp only [kvCreateBody, if_neg hroom, hrun, hzero, hidx, Option.getD_some, Bool.not_true, Bool.false_eq_true, if_false]

section kvPages

include hk

variable (hhead : arg c 1 < k.nh) (hlast : arg c 4 + arg c 5 ≤ k.maxPages)
include hhead hlast

/-- KV_PAGES on entries of the object: SET by the code of R304, else CLEAR. -/
theorem kvPagesBody_inside : kvPagesBody w c =
    let keys := (List.range (arg c 5)).map (fun i => (arg c 1, arg c 2, arg c 4 + i))
    let pdas := (List.range (arg c 5)).map (fun i => argElem c 6 8 i)
    if arg c 3 = 0 then
      if pagesCode w c.mid k keys pdas ≠ rcDone then failAddrs w c pdas (pagesCode w c.mid k keys pdas)
      else complete (setPages w k.idx (keys.zip pdas)) c rcDone []
    else if kvInUse w (kvHandle k) ∧ keys.any (fun e => decide (0 < (pageOf k e.1 e.2.1 e.2.2).fill)) then
      failWith w c rcConflict
    else complete (clearPages w k.idx keys) c rcDone [] := by
  have hin : ¬(k.nh ≤ arg c 1 ∨ k.maxPages < arg c 4 + arg c 5) := by omega
  simp only [kvPagesBody, hk, if_neg hin]

end kvPages

section kvMove

include hk

variable {remote : RemoteRead}

/-- KV_MOVE that has copied its page completes once no fetch from the old place is outstanding. -/
theorem kvMoveBody_copied (hacc : c.acc ≠ [])
    (hf : pageFetching w (.page k.idx (arg c 1) (arg c 2) (arg c 3)) (leVal c.acc) = false) :
    kvMoveBody remote w c = complete w c rcDone [] := by
  simp only [kvMoveBody, hk, List.isEmpty_eq_false_iff.mpr hacc, hf, Bool.not_false, Bool.false_eq_true, if_true, if_false]

variable (hacc : c.acc = []) (hhead : arg c 1 < k.nh) (hentry : arg c 3 < k.maxPages)
  (hrc : pagesCode w c.mid k [] [arg c 4] = rcDone)
include hacc hhead hentry hrc

theorem kvMoveBody_notFull (hfill : (pageOf k (arg c 1) (arg c 2) (arg c 3)).fill ≠ 128) :
    kvMoveBody remote w c = failWith w c rcConflict := by
  have hin : ¬(k.nh ≤ arg c 1 ∨ k.maxPages ≤ arg c 3) := by omega
  simp only [kvMoveBody, hk, hacc, List.isEmpty_nil, Bool.not_true, Bool.false_eq_true, if_false, if_neg hin, hrc, ne_eq,
    not_true_eq_false, if_pos hfill]

/-- KV_MOVE of a full page: the copy, the poison of its lines, the charges and the new PDA; the old place is kept in the
command while a fetch from it is outstanding. -/
theorem kvMoveBody_full (hfill : (pageOf k (arg c 1) (arg c 2) (arg c 3)).fill = 128) : kvMoveBody remote w c =
    let e := pageOf k (arg c 1) (arg c 2) (arg c 3)
    let n := pageBytes k
    let r := readAny w c.mid e.pda n remote
    let t := writeAny (chargeRead r.1 5 e.pda n (.tier k.half)) 5 c.mid (arg c 4) r.2.1
    let u := if daRange (arg c 4) ≤ 2 then (r.2.2.map (fun l => l - lineOf e.pda + arg c 4)).foldl linePoison t else t
    let v := setPages (chargeWrite u 5 (arg c 4) n (.tier k.half)) k.idx [((arg c 1, arg c 2, arg c 3), arg c 4)]
    if pageFetching v (.page k.idx (arg c 1) (arg c 2) (arg c 3)) e.pda then
      runningSet v c (fun r => { r with acc := leBytes 8 e.pda })
    else complete v c rcDone [] := by
  have hin : ¬(k.nh ≤ arg c 1 ∨ k.maxPages ≤ arg c 3) := by omega
  simp only [kvMoveBody, hk, hacc, List.isEmpty_nil, Bool.not_true, Bool.false_eq_true, if_false, if_neg hin, hrc, ne_eq,
    not_true_eq_false, hfill]

end kvMove

include hk

theorem kvFreeBody_eq : kvFreeBody w c =
    if kvInUse w (kvHandle k) then failWith w c rcConflict else complete (dropKv w k) c rcDone [] := by
  simp only [kvFreeBody, hk]

theorem kvGuardsBody_shown (hop : arg c 1 = 0) :
    kvGuardsBody w c = completeOut w c rcDone (guardBytes k.guard.toGuardRec) [] := by
  simp only [kvGuardsBody, hk, hop, Nat.zero_ne_one, if_false]

theorem kvGuardsBody_cleared (hop : arg c 1 = 1) :
    kvGuardsBody w c = completeOut (kvMod w k.idx (fun k => { k with guard := guardClear w.now k.guard })) c rcDone
      (guardBytes (guardShown w.now k.guard)) [] := by
  simp only [kvGuardsBody, hk, hop, if_true]

end kvBodies

/-- Settles O30: each clause is the rule above for the branch that its hypotheses name. -/
theorem keyValueObjects : Obligations.KeyValueObjects := by
  refine ⟨?create, ?pages, ?move, ?moved, ?free, ?dropped, ?guards⟩
  case create =>
    intro s src c g i h w hf n hopen hquota hrun hidx hzero gen k
    rw [exec_kvCreate h, kvCreateBody_placed hopen hquota hrun hidx hzero]
    rfl
  case pages =>
    intro s src c k h w hk hhead hlast keys pdas
    rw [exec_kvPages h, kvPagesBody_inside hk hhead hlast]
    refine ⟨fun hset hrc => ?_, fun hset hrc => ?_, fun hclear hfree => ?_, fun hclear huse hfill => ?_⟩
    · exact congrArg _ ((if_pos hset).trans (if_neg (not_not_intro hrc)))
    · exact congrArg _ ((if_pos hset).trans (if_pos hrc))
    · refine congrArg _ ((if_neg hclear).trans (if_neg ?_))
      rintro ⟨huse, hany⟩
      obtain ⟨e, he, hlt⟩ := List.any_eq_true.mp hany
      rcases hfree with hno | hzero
      · exact absurd huse (by simp [w, hno])
      · exact absurd (of_decide_eq_true hlt) (by simp [hzero e he])
    · obtain ⟨e, he, hlt⟩ := hfill
      exact congrArg _ ((if_neg hclear).trans (if_pos ⟨huse, List.any_eq_true.mpr ⟨e, he, decide_eq_true hlt⟩⟩))
  case move =>
    intro s src c k remote h w hk hacc hhead hentry hrc e n r t u v f
    rw [exec_kvMove remote h]
    refine ⟨fun hfill => ?_, fun hfill hidle => ?_, fun hfill hbusy => ?_⟩
    · exact congrArg _ (kvMoveBody_notFull hk hacc hhead hentry hrc hfill)
    · exact congrArg _ ((kvMoveBody_full hk hacc hhead hentry hrc hfill).trans (if_neg (Bool.eq_false_iff.mp hidle)))
    · exact congrArg _ ((kvMoveBody_full hk hacc hhead hentry hrc hfill).trans (if_pos hbusy))
  case moved =>
    intro s src c k remote h w hk hacc hidle
    rw [exec_kvMove remote h, kvMoveBody_copied hk hacc hidle]
  case free =>
    intro s src c k h w hk
    rw [exec_kvFree h, kvFreeBody_eq hk]
    exact ⟨fun hidle => congrArg _ (if_neg (Bool.eq_false_iff.mp hidle)), fun huse => congrArg _ (if_pos huse)⟩
  case dropped =>
    intro s k
    simp only [dropKv, startZeroing_kvs]
    exact ⟨tget_tdel_self _ _, fun i hi => tget_tdel_ne _ hi⟩
  case guards =>
    intro s src c k h w hk
    rw [exec_kvGuards h]
    exact ⟨fun hop => congrArg _ (kvGuardsBody_shown hk hop), fun hop => congrArg _ (kvGuardsBody_cleared hk hop)⟩

end Sys2Proof.Machine
end

section
/-! SUPPORT. What the desk commands on tensors and the two ends of an accession do, one rule for each branch, and the statement on
them (R84, R85, R99, R141 to R146, R564 to R569, R742). -/

namespace Sys2Proof.Machine

/-! ### The rows of the commands -/

section tensorCommands

variable {s : State} {src : DeskSrc} {c : RunCmd}

theorem exec_tensorAccession (h : Serves s src 0x0401 c) :
    exec (.tensorAccession src) s = .next (tensorAccessionBody (leaveSleep s) c) :=
  congrArg _ (deskRun_leaveSleep _ h (by decide))

theorem exec_tensorStatus (h : Serves s src 0x0402 c) :
    exec (.tensorStatus src) s = .next (tensorStatusBody (leaveSleep s) c) :=
  congrArg _ (deskRun_leaveSleep _ h (by decide))

theorem exec_tensorUnload (h : Serves s src 0x0403 c) :
    exec (.tensorUnload src) s = .next (tensorUnloadBody (leaveSleep s) c) :=
  congrArg _ (deskRun_leaveSleep _ h (by decide))

theorem exec_tensorGuards (h : Serves s src 0x0408 c) :
    exec (.tensorGuards src) s = .next (tensorGuardsBody (leaveSleep s) c) :=
  congrArg _ (deskRun_leaveSleep _ h (by decide))

theorem exec_tensorOrigin (h : Serves s src 0x0409 c) :
    exec (.tensorOrigin src) s = .next (tensorOriginBody (leaveSleep s) c) :=
  congrArg _ (deskRun_leaveSleep _ h (by decide))

end tensorCommands

theorem exec_accessionStart (s : State) (remote : RemoteRead) :
    exec (.accessionStart remote) s = .next (accessionStart s remote) := rfl

theorem exec_accessionEnd (s : State) : exec .accessionEnd s = .next (accessionEnd s) := rfl

/-! ### A full queue takes no request (R141) -/

theorem accFull_of_running {s : State} (hrun : s.acc.running ≠ none)
    (hwait : 16 ≤ s.acc.queue.countP (fun x => x.window.isNone)) : accFull s = true := by
  simp [accFull, Option.isSome_iff_ne_none.mpr hrun, hwait]

/-- No code of an address is the one that takes a request. -/
theorem deskCode_ne_accepted (s : State) (mid da n : Nat) (write : Bool) : deskCode s mid da n write ≠ rcAccepted := by
  simp only [deskCode, addrCode]
  repeat' split
  all_goals decide

theorem destCode_ne_accepted (s : State) (mid : Nat) (span : Nat × Nat) : destCode s mid span ≠ rcAccepted := by
  unfold destCode
  repeat' split
  all_goals decide

theorem firstCode_ne_accepted {l : List Nat} (h : ∀ x ∈ l, x ≠ rcAccepted) : firstCode l ≠ rcAccepted := by
  unfold firstCode
  cases hf : l.find? (· != rcDone) with
  | none => decide
  | some a => exact h a (List.mem_of_find?_eq_some hf)

theorem ite_ne {α : Type} {p : Prop} [Decidable p] {a b x : α} (ha : a ≠ x) (hb : b ≠ x) : (if p then a else b) ≠ x := by
  split <;> assumption

/-- Each check before that of the queue gives a code of its own. -/
theorem accCode_ne_accepted_of_full {s : State} (c : RunCmd) (hfull : accFull s = true) : accCode s c ≠ rcAccepted := by
  have hdest : ∀ l : List (Nat × Nat), firstCode (l.map (destCode s c.mid)) ≠ rcAccepted := fun l =>
    firstCode_ne_accepted (List.forall_mem_map.mpr (fun x _ => destCode_ne_accepted s c.mid x))
  unfold accCode
  refine ite_ne (by decide) (ite_ne (deskCode_ne_accepted _ _ _ _ _) (ite_ne (hdest _) (ite_ne (by decide) (ite_ne (by decide)
    (ite_ne (by decide) ?_)))))
  rw [if_pos hfull]
  decide

/-! ### TENSOR_STATUS, TENSOR_UNLOAD, TENSOR_GUARDS, TENSOR_ORIGIN -/

section tensorStatus

variable {w : State} {c : RunCmd} (hrun : w.acc.running = none)
include hrun

theorem tensorStatusBody_waiting (hq : w.acc.queue.any (reqIs c.mid (arg c 0)) = true) : tensorStatusBody w c =
    complete w c rcDone (statusVals w 1 0 1 { master := c.mid, tag := arg c 0 } (tensorByTag w c.mid (arg c 0)) (zeros 32)) := by
  simp only [tensorStatusBody, hrun, hq, if_true]

variable (hq : w.acc.queue.any (reqIs c.mid (arg c 0)) = false)
include hq

theorem tensorStatusBody_loaded {t : Tensor} (ht : tensorByTag w c.mid (arg c 0) = some t) : tensorStatusBody w c =
    let rep := (w.acc.done.find? (fun x => x.master == c.mid && x.tag == arg c 0)).getD
      { master := c.mid, tag := arg c 0, nt := nTiles t.params }
    complete w c rcDone
      (statusVals w (if t.damaged then 4 else 3) 0 (if t.damaged then rcPoisoned else 0) rep (some t) t.digest) := by
  simp only [tensorStatusBody, hrun, hq, ht, Bool.false_eq_true, if_false]

theorem tensorStatusBody_failed {rep : AccReport} (ht : tensorByTag w c.mid (arg c 0) = none)
    (hrep : w.acc.failed.find? (fun x => x.master == c.mid && x.tag == arg c 0) = some rep) :
    tensorStatusBody w c = complete w c rcDone (statusVals w 5 0 rep.rc rep none rep.digest) := by
  simp only [tensorStatusBody, hrun, hq, ht, hrep, Bool.false_eq_true, if_false]

end tensorStatus

section tensorBodies

variable {w : State} {c : RunCmd} {t : Tensor} (ht : tensorByTag w c.mid (arg c 0) = some t)
include ht

theorem tensorUnloadBody_eq : tensorUnloadBody w c =
    if 0 < boundBy w t.id ∨ inAccession w c.mid t.params.tag ∨ windowNames w t then failWith w c rcConflict
    else complete (unloadTensor w t) c rcDone [] := by
  simp only [tensorUnloadBody, ht]

theorem tensorGuardsBody_eq : tensorGuardsBody w c =
    if arg c 1 = 1 then
      completeOut (tensorMod w t.id (fun t => { t with guard := guardClear w.now t.guard })) c rcDone
        (guardBytes (guardShown w.now t.guard)) []
    else completeOut w c rcDone (guardBytes t.guard.toGuardRec) [] := by
  simp only [tensorGuardsBody, ht]

theorem tensorOriginBody_declared (hrep : originCode w t (arg c 1) (arg c 2) = rcDone)
    (horg : originCode w t (arg c 3) (arg c 4) = rcDone) : tensorOriginBody w c =
    complete (tensorMod w t.id (fun t => { t with
      origin := { repP := arg c 1, repC := arg c 2, orgP := arg c 3, orgC := arg c 4 } })) c rcDone [] := by
  have hcode : firstCode [rcDone, rcDone] = rcDone := by decide
  simp only [tensorOriginBody, ht, hrep, horg, hcode, ne_eq, not_true_eq_false, if_false]

end tensorBodies

/-- A tensor that is unloaded is no longer in the table (R567). -/
theorem unloadTensor_gone (s : State) (t : Tensor) : tget (unloadTensor s t).tensors t.id = none := tget_tdel_self _ _

/-- A guard record cleared shows in the same cycle only what CLEAR leaves (R85). -/
theorem guardShown_guardClear (now : Nat) (g : Guard) : guardShown now (guardClear now g) =
    { wsatPos := (guardShown now g).wsatPos, lastProbe := (guardShown now g).lastProbe
      lastOutcome := (guardShown now g).lastOutcome, sentState := (guardShown now g).sentState
      lastFailTime := (guardShown now g).lastFailTime } := if_pos rfl

/-! ### The two ends of an accession (R141 to R146) -/

section accessionStart

variable {s w : State} {remote : RemoteRead} {r : AccReq} {q : List AccReq} {img : Bytes} {bad : List Nat}
  (hrun : s.acc.running = none) (hq : s.acc.queue = r :: q) (hwin : r.window = none) (hcoded : r.coded = false)
  (hfault : s.ras.moduleFault = false) (hopen : accOpen s r = true)
  (hread : readSource (chargeSource { s with acc := { s.acc with queue := q } } r) r remote = (w, img, bad))
include hrun hq hcoded hfault hopen hread

theorem accessionStart_failed {rc tile : Nat} (henc : runEncode r.params img.toArray bad r.src = .failed rc tile) :
    accessionStart s remote =
      accFail w r { master := r.master, tag := r.params.tag, nt := nTiles r.params, failTile := tile } rc := by
  simp only [hrun] at hread
  simp only [accessionStart, hrun, hq, hfault, hopen, hread, hcoded, henc, Bool.not_true, Bool.or_self,
    Bool.false_eq_true, if_false]

include hwin

theorem accessionStart_coded {tables : List Bytes} {tiles : List Coded} {round clamp : Nat}
    (henc : runEncode r.params img.toArray bad r.src = .coded tables tiles round clamp) :
    accessionStart s remote =
      let v := writeAll w r.master (codedWrites r tables tiles)
      { v with acc := { v.acc with running := some (r, {
        master := r.master, tag := r.params.tag, nt := nTiles r.params, tilesDone := tiles.length
        ingestRound := round, ingestClamp := clamp, steps := stepCounts tiles
        wsatPos := (tiles.map (·.clamps)).foldl (· + ·) 0, digest := tensorDigest r.paramBytes tables tiles }) } } := by
  simp only [hrun] at hread
  simp only [accessionStart, hrun, hq, hfault, hopen, hread, hcoded, henc, hwin, Bool.not_true, Bool.or_self, Bool.false_eq_true,
    if_false]

end accessionStart

section accessionEnd

variable {s : State} {r : AccReq} {rep : AccReport} (hrun : s.acc.running = some (r, rep)) (hfault : s.ras.moduleFault = false)
include hrun hfault

theorem accessionEnd_hashMismatch {e : Bytes} (he : r.expect = some e) (hne : e ≠ rep.digest) :
    accessionEnd s = accFail s r rep rcHashMismatch := by
  simp only [accessionEnd, hrun, hfault, he, bne_iff_ne.mpr hne, Bool.false_eq_true, if_true, if_false]

variable (hexp : r.expect = none ∨ r.expect = some rep.digest)
include hexp

theorem accessionEnd_unsigned (hsig : r.signed = true) (hbad : accSigned s r rep.digest = false) :
    accessionEnd s = accFail s r rep rcSignatureFail := by
  obtain he | he := hexp <;>
    simp only [accessionEnd, hrun, hfault, he, hsig, hbad, bne_self_eq_false, Bool.not_false, Bool.and_self, Bool.false_eq_true,
      if_true, if_false]

/-- A tensor whose digest and signature pass is loaded under a new number. -/
theorem accessionEnd_loaded (hsig : r.signed = false ∨ accSigned s r rep.digest = true) (hwin : r.window = none)
    (hheld : s.acc.held = []) (hnew : tensorByTag s r.master r.params.tag = none) :
    accessionEnd s =
      { s with
        tensors := tset s.tensors s.nextTensor
          { id := s.nextTensor, master := r.master, params := r.params, pbase := r.pbase, cbase := r.cbase, tbase := r.tbase
            digest := rep.digest, guard := { wsatPos := sat32 rep.wsatPos }, window := none }
        nextTensor := s.nextTensor + 1
        acc := { s.acc with running := none, held := [], done := s.acc.done ++ [{ rep with rc := 0 }] } } := by
  have hpass : (r.signed && !accSigned s r rep.digest) = false := by
    obtain h | h := hsig <;> simp [h]
  have hwrite : writeAll s r.master [] = s := rfl
  obtain he | he := hexp <;>
    simp only [accessionEnd, hrun, hfault, he, hpass, hheld, hwrite, loadTensor, hnew, hwin, bne_self_eq_false,
      Bool.false_eq_true, if_false]

end accessionEnd

/-- Settles O32: each clause is the rule above for the branch that its hypotheses name. -/
theorem accessionCommands : Obligations.AccessionCommands := by
  refine ⟨?accession, ?status, ?unload, ?guards, ?origin, ?originCode, ?starts, ?ends⟩
  case accession =>
    rintro s _ src c _ h rfl rfl keep
    rw [exec_tensorAccession h]
    refine ⟨fun hok => ?_, fun hno => ?_, fun hrun hwait => ?_⟩
    · exact congrArg _ (if_neg (not_not_intro hok))
    · exact congrArg _ (if_pos hno)
    · exact accCode_ne_accepted_of_full c (accFull_of_running hrun hwait)
  case status =>
    rintro s _ src c h rfl hrun
    rw [exec_tensorStatus h]
    refine ⟨fun hq => ?_, fun t hq ht => ⟨fun hdam => ?_, fun hdam => ?_⟩, fun rep hq ht hrep => ?_⟩
    · rw [tensorStatusBody_waiting hrun hq]
    · rw [tensorStatusBody_loaded hrun hq ht, hdam]
      rfl
    · rw [tensorStatusBody_loaded hrun hq ht, hdam]
      rfl
    · rw [tensorStatusBody_failed hrun hq ht hrep]
  case unload =>
    rintro s _ src c t h rfl ht
    rw [exec_tensorUnload h, tensorUnloadBody_eq ht]
    refine ⟨fun hbound hacc hwin => ?_, fun hheld => congrArg _ (if_pos hheld), unloadTensor_gone _ t⟩
    exact congrArg _ (if_neg (by simp [hbound, hacc, hwin]))
  case guards =>
    rintro s _ src c t h rfl ht
    rw [exec_tensorGuards h, tensorGuardsBody_eq ht]
    refine ⟨fun hop => congrArg _ (if_neg hop), fun hop => congrArg _ (if_pos hop), ?_⟩
    intro g
    have hg : g = _ := guardShown_guardClear _ _
    rw [hg]
    exact ⟨rfl, rfl, rfl, rfl, rfl, rfl⟩
  case origin =>
    rintro s _ src c t h rfl ht hrep horg
    rw [exec_tensorOrigin h, tensorOriginBody_declared ht hrep horg]
    rfl
  case originCode =>
    intro s t
    exact ⟨if_pos ⟨rfl, rfl⟩, fun p hp => by simp [originCode, hp], fun p hp => by simp [originCode, hp]⟩
  case starts =>
    intro s w remote r q img bad hrun hq hwin hcoded hfault hopen hread
    refine ⟨fun rc tile henc => ?_, fun tables tiles round clamp henc => ?_⟩
    · rw [exec_accessionStart, accessionStart_failed hrun hq hcoded hfault hopen hread henc]
    · rw [exec_accessionStart, accessionStart_coded hrun hq hwin hcoded hfault hopen hread henc]
  case ends =>
    intro s r rep hrun hfault
    rw [exec_accessionEnd]
    refine ⟨fun e he hne => ?_, fun hexp hsig hbad => ?_, fun hexp hsig hwin hheld hnew => ?_⟩
    · rw [accessionEnd_hashMismatch hrun hfault he hne]
    · rw [accessionEnd_unsigned hrun hfault hexp hsig hbad]
    · rw [accessionEnd_loaded hrun hfault hexp hsig hwin hheld hnew]

end Sys2Proof.Machine
end

section
/-! SUPPORT. What the volume and queue commands and a runtime access do, one rule for each branch, and the statement on them
(R80, R222 to R227, R246, R259, R262, R294, R570, R571, R743). -/

namespace Sys2Proof.Machine

section volumeCommands

variable {s : State} {src : DeskSrc} {c : RunCmd}

theorem exec_volumeLoad (remote : RemoteRead) (h : Serves s src 0x0501 c) :
    exec (.volumeLoad src remote) s = .next (volumeLoadBody remote (leaveSleep s) c) :=
  congrArg _ (deskRun_leaveSleep _ h (by decide))

theorem exec_volumeUnload (h : Serves s src 0x0502 c) :
    exec (.volumeUnload src) s = .next (volumeUnloadBody (leaveSleep s) c) :=
  congrArg _ (deskRun_leaveSleep _ h (by decide))

theorem exec_volumeStatus (h : Serves s src 0x0505 c) :
    exec (.volumeStatus src) s = .next (volumeStatusBody (leaveSleep s) c) :=
  congrArg _ (deskRun_leaveSleep _ h (by decide))

theorem exec_queueCreate (h : Serves s src 0x0503 c) :
    exec (.queueCreate src) s = .next (queueCreateBody (leaveSleep s) c) :=
  congrArg _ (deskRun_leaveSleep _ h (by decide))

theorem exec_queueDestroy (h : Serves s src 0x0504 c) :
    exec (.queueDestroy src) s = .next (queueDestroyBody (leaveSleep s) c) :=
  congrArg _ (deskRun_leaveSleep _ h (by decide))

end volumeCommands

/-! ### VOLUME_LOAD (R222 to R227) -/

section volumeLoad

variable {w t : State} {c : RunCmd} {remote : RemoteRead} {img : Bytes} {bad : List Nat} (hlen : 192 ≤ arg c 1)
  (hrc : deskCode w c.mid (arg c 0) (arg c 1) false = rcDone) (hprot : touchesProtected w (arg c 0) (arg c 1) = false)
  (hread : readAny w c.mid (arg c 0) (arg c 1) remote = (t, img, bad)) (hclean : rtPoison bad (arg c 0) (arg c 1) = false)
include hlen hrc hprot hread hclean

theorem volumeLoadBody_unsigned (hsig : volumeSigned t c img = false) :
    volumeLoadBody remote w c = failWith t c rcSignatureFail := by
  simp only [volumeLoadBody, Nat.not_lt.mpr hlen, hrc, hprot, hread, hclean, hsig, ne_eq, not_true_eq_false, Bool.not_false,
    Bool.false_eq_true, if_true, if_false, Nat.reduceAdd]

theorem volumeLoadBody_malformed (hsig : volumeSigned t c img = true)
    (hparse : parseVolume t c.mid (img.take (arg c 1 - 64)) = none) : volumeLoadBody remote w c = failWith t c rcBadField := by
  simp only [volumeLoadBody, Nat.not_lt.mpr hlen, hrc, hprot, hread, hclean, hsig, hparse, ne_eq, not_true_eq_false, Bool.not_true,
    Bool.false_eq_true, if_false, Nat.reduceAdd]

/-- A signed image that passes R225 and fits is placed, with its reserves and pins. -/
theorem volumeLoadBody_placed {v : Volume} (hsig : volumeSigned t c img = true)
    (hparse : parseVolume t c.mid (img.take (arg c 1 - 64)) = some v) (hnew : volumeOf t c.mid v.volumeId = none)
    (hslots : ∀ x ∈ v.slots,
      inAccession t c.mid x.params.tag = false ∧ (tget t.tensors x.tensor).map (·.digest) = some x.digest)
    (hcount : t.volumes.length < 256) (h0 : v.vuAlloc.h0 ≤ 2 ^ 25) (h1 : v.vuAlloc.h1 ≤ 2 ^ 25)
    (hfit : ∀ m, m < 128 →
      pinGranules t m + (sliceSums v (pinTiles t v)).getD m 0 + (loadReserve t v (pinTiles t v)).getD m 0 ≤ 7168) :
    volumeLoadBody remote w c =
      complete (placeVolume t { v with
          key := t.nextVolume, reserve := loadReserve t v (pinTiles t v), pinGranules := sliceSums v (pinTiles t v) }) c rcDone
        [.u 4 v.volumeId, .u 2 (listMax (loadReserve t v (pinTiles t v))), .u 2 (listMax (sliceSums v (pinTiles t v)))] := by
  have hfree : ¬((volumeOf t c.mid v.volumeId).isSome = true ∨
      (v.slots.any (fun x => inAccession t c.mid x.params.tag)) = true) := by
    rw [hnew, List.any_eq_true]
    rintro (h | ⟨x, hx, h⟩)
    · cases h
    · exact absurd h (by simp [(hslots x hx).1])
  have hdigests : (v.slots.any (fun x => (tget t.tensors x.tensor).map (·.digest) != some x.digest)) = false :=
    List.any_eq_false.mpr (fun x hx => by simp [(hslots x hx).2])
  have hroom : ¬(256 ≤ t.volumes.length ∨ 2 ^ 25 < v.vuAlloc.h0 ∨ 2 ^ 25 < v.vuAlloc.h1 ∨
      ((List.range 128).any (fun m => decide
        (7168 < pinGranules t m + (sliceSums v (pinTiles t v)).getD m 0 + (loadReserve t v (pinTiles t v)).getD m 0))) = true) := by
    rw [List.any_eq_true]
    rintro (h | h | h | ⟨m, hm, h⟩)
    · exact absurd hcount (Nat.not_lt.mpr h)
    · exact absurd h0 (Nat.not_le.mpr h)
    · exact absurd h1 (Nat.not_le.mpr h)
    · exact absurd (hfit m (List.mem_range.mp hm)) (Nat.not_le.mpr (of_decide_eq_true h))
  simp only [volumeLoadBody, Nat.not_lt.mpr hlen, hrc, hprot, hread, hclean, hsig, hparse, if_neg hfree, hdigests, if_neg hroom, ne_eq,
    not_true_eq_false, Bool.not_true, Bool.false_eq_true, if_false, Nat.reduceAdd]

end volumeLoad

/-! ### VOLUME_UNLOAD and VOLUME_STATUS (R227, R259, R262, R570) -/

section volumes

variable {w : State} {c : RunCmd} {v : Volume} (hv : volumeOf w c.mid (arg c 0) = some v)
include hv

theorem volumeUnloadBody_unused (hidle : volumeSlips w v.key = (0, 0)) :
    volumeUnloadBody w c = complete (dropPins { w with volumes := tdel w.volumes v.key } v) c rcDone [] := by
  simp only [volumeUnloadBody, hv, hidle, Nat.lt_irrefl, or_self, if_false]

theorem volumeUnloadBody_used (hbusy : volumeSlips w v.key ≠ (0, 0)) : volumeUnloadBody w c = failWith w c rcConflict := by
  have hpos : 0 < (volumeSlips w v.key).1 ∨ 0 < (volumeSlips w v.key).2 :=
    Decidable.byContradiction fun h => hbusy (Prod.ext (by omega) (by omega))
  simp only [volumeUnloadBody, hv, hpos, if_true]

theorem volumeStatusBody_counts : volumeStatusBody w c =
    complete w c rcDone [.u 2 (volumeSlips w v.key).1, .u 2 (volumeSlips w v.key).2, .u 4 v.steps.length, .u 8 v.tokens,
      .u 4 v.split, .u 4 v.unsplit] := by
  simp only [volumeStatusBody, hv]

end volumes

/-! ### QUEUE_CREATE and QUEUE_DESTROY (R246, R571) -/

section queues

variable {w : State} {c : RunCmd}

theorem queueCreateBody_otherTenant (hten : tenantOf w (arg c 0) ≠ tenantOf w c.mid) :
    queueCreateBody w c = failWith w c rcBadField := if_pos (Or.inr hten)

section sameTenant

variable (hten : tenantOf w (arg c 0) = tenantOf w c.mid)
include hten

theorem queueCreateBody_full (hpost : canPost (arg c 0) = true) (hnone : leastFrom (fun n => !thas w.queues n) 256 0 = none) :
    queueCreateBody w c = failWith w c rcNoSpace := by
  simp only [queueCreateBody, hpost, hten, hnone, Bool.not_true, Bool.false_eq_true, ne_eq, not_true_eq_false, or_self, if_false]

/-- A queue of PF0 or PF1, which has no window (R571, R714). -/
theorem queueCreateBody_pf {n : Nat} (hpf : arg c 0 = 1 ∨ arg c 0 = 2)
    (hleast : leastFrom (fun n => !thas w.queues n) 256 0 = some n) : queueCreateBody w c =
      complete { w with queues := tset w.queues n { master := c.mid, poster := arg c 0, window := none } } c rcDone [.u 2 n] := by
  have hpost : canPost (arg c 0) = true := by
    obtain h | h := hpf <;> rw [h] <;> decide
  have hfn : midFn (arg c 0) = some .pf0 ∨ midFn (arg c 0) = some .pf1 := by
    obtain h | h := hpf <;> rw [h] <;> decide
  obtain h | h := hfn <;>
    simp only [queueCreateBody, hpost, hten, hleast, h, Bool.not_true, Bool.false_eq_true, ne_eq, not_true_eq_false, or_self,
      false_and, if_false]

end sameTenant

theorem queueDestroyBody_owned {q : Queue} (hq : tget w.queues (arg c 0) = some q) (hmid : q.master = c.mid) :
    queueDestroyBody w c = if queueBusy w (arg c 0) q then failWith w c rcConflict
      else complete { w with queues := tdel w.queues (arg c 0) } c rcDone [] := by
  simp only [queueDestroyBody, hq, hmid, ne_eq, not_true_eq_false, if_false]

end queues

/-! ### A runtime access (R294, R743) -/

section runtime

variable {s : State} {mid da : Nat} {remote : RemoteRead}

/-- Only an access that R17 refuses leaves a record. -/
theorem accessCheck_unlogged {n path : Nat} {write : Bool} (h : addrCode s mid da n write ≠ rcBadField) :
    accessCheck s mid da n path write = (s, addrCode s mid da n write) := by
  simp only [accessCheck, if_neg h]

theorem exec_runtimeAccess_read {n : Nat} (hserved : tierServed s = true) (hn : 0 < n)
    (hopen : runtimeOpen s 1 mid da false = true) :
    exec (.runtimeAccess mid da (.read n) remote) s = .next (runtimeRead s mid da n remote) := by
  have hgo : ¬(n = 0 ∨ (!runtimeOpen s 1 mid da false) = true) := by
    simp [hopen, Nat.ne_of_gt hn]
  exact (if_pos hserved).trans (if_neg hgo)

theorem exec_runtimeAccess_write {b : Bytes} (hserved : tierServed s = true) (hb : b ≠ [])
    (hopen : runtimeOpen s 1 mid da true = true) :
    exec (.runtimeAccess mid da (.write b) remote) s = .next (runtimeWrite s mid da b) := by
  have hgo : ¬(b = [] ∨ (!runtimeOpen s 1 mid da true) = true) := by
    simp [hopen, hb]
  exact (if_pos hserved).trans (if_neg hgo)

theorem runtimeRead_tier {n : Nat} {t : State} {b : Bytes} {bad : List Nat} (hcode : addrCode s mid da n false = rcDone)
    (hfence : anyFenced s = false) (htier : daRange da ≤ 2)
    (hread : rtRead (chargeRead (leaveSleep s) 1 da n (masterDie s mid)) da n 0 = (t, b, bad)) :
    runtimeRead s mid da n remote =
      emit t (.runtimeData mid da b (rtPoison bad da n) (if rtPoison bad da n then rcPoisoned else rcDone)) := by
  rw [runtimeRead, accessCheck_unlogged (by rw [hcode]; decide), hcode]
  refine (if_neg (not_not_intro rfl)).trans ((if_neg (Bool.eq_false_iff.mp hfence)).trans ((if_pos htier).trans ?_))
  rw [hread]

theorem runtimeRead_refused {n : Nat} (hcode : addrCode s mid da n false = rcNotPermitted) :
    runtimeRead s mid da n remote = emit s (.runtimeData mid da (zeros n) true rcNotPermitted) := by
  rw [runtimeRead, accessCheck_unlogged (by rw [hcode]; decide), hcode]
  exact if_pos (by decide)

theorem runtimeWrite_tier {b : Bytes} (hcode : addrCode s mid da b.length true = rcDone) (hfence : anyFenced s = false)
    (htier : daRange da ≤ 2) : runtimeWrite s mid da b =
      rtWrite (chargeWrite (leaveSleep s) 1 da b.length (masterDie s mid)) mid da b := by
  rw [runtimeWrite, accessCheck_unlogged (by rw [hcode]; decide), hcode]
  exact (if_neg (by simp [hfence])).trans (if_pos htier)

theorem runtimeWrite_refused {b : Bytes} (hcode : addrCode s mid da b.length true = rcNotPermitted) :
    runtimeWrite s mid da b = s := by
  rw [runtimeWrite, accessCheck_unlogged (by rw [hcode]; decide), hcode]
  exact if_pos (Or.inl (by decide))

end runtime

/-- Settles O35: each clause is the rule above for the branch that its hypotheses name. -/
theorem volumesAndQueues : Obligations.VolumesAndQueues := by
  refine ⟨?load, ?unload, ?status, ?create, ?destroy, ?read, ?write⟩
  case load =>
    rintro s _ t src c remote img bad h rfl hlen hrc hprot hread hclean
    rw [exec_volumeLoad remote h]
    constructor
    · intro v hparse hnew hslots hcount h0 h1 pins reserve hfit
      cases hsig : volumeSigned t c img with
      | false => rw [volumeLoadBody_unsigned hlen hrc hprot hread hclean hsig]; rfl
      | true => rw [volumeLoadBody_placed hlen hrc hprot hread hclean hsig hparse hnew hslots hcount h0 h1 hfit]; rfl
    · intro hparse
      cases hsig : volumeSigned t c img with
      | false => rw [volumeLoadBody_unsigned hlen hrc hprot hread hclean hsig]; rfl
      | true => rw [volumeLoadBody_malformed hlen hrc hprot hread hclean hsig hparse]; rfl
  case unload =>
    rintro s _ src c v h rfl hv
    rw [exec_volumeUnload h]
    exact ⟨fun hidle => congrArg _ (volumeUnloadBody_unused hv hidle),
      fun hbusy => congrArg _ (volumeUnloadBody_used hv hbusy)⟩
  case status =>
    rintro s _ src c v h rfl hv
    rw [exec_volumeStatus h, volumeStatusBody_counts hv]
  case create =>
    rintro s _ src c h rfl
    rw [exec_queueCreate h]
    refine ⟨fun n hpf hten hleast => ?_, fun hten => ?_, fun hpost hten hnone => ?_⟩
    · rw [queueCreateBody_pf hten hpf hleast]
    · rw [queueCreateBody_otherTenant hten]
    · rw [queueCreateBody_full hten hpost hnone]
  case destroy =>
    rintro s _ src c q h rfl hq hmid
    rw [exec_queueDestroy h, queueDestroyBody_owned hq hmid]
    exact ⟨fun hidle => congrArg _ (if_neg (Bool.eq_false_iff.mp hidle)), fun hbusy => congrArg _ (if_pos hbusy)⟩
  case read =>
    intro s mid da n remote hserved hn htier hopen
    rw [exec_runtimeAccess_read hserved hn hopen]
    exact ⟨fun hcode hfence t b bad hread => congrArg _ (runtimeRead_tier hcode hfence htier hread),
      fun hcode => congrArg _ (runtimeRead_refused hcode)⟩
  case write =>
    intro s mid da b remote hserved hb htier hopen
    rw [exec_runtimeAccess_write hserved hb hopen]
    exact ⟨fun hcode hfence => congrArg _ (runtimeWrite_tier hcode hfence htier),
      fun hcode => congrArg _ (runtimeWrite_refused hcode)⟩

end Sys2Proof.Machine
end

section
/-! SUPPORT. When a released step runs, what a matrix unit's step does in each of its branches, and the statement on them (R180,
R181, R190 to R201, R252 to R254, R649). -/

namespace Sys2Proof.Machine

/-! ### A released step (R252, R268) -/

theorem ctx_of_releasable {s : State} {n op : Nat} {v : Volume} {x : Ctx} {st : VStep}
    (h : releasable s n op = some (v, x, st)) : tget s.eng.ctxs n = some x := by
  unfold releasable at h
  repeat' split at h
  all_goals cases h
  assumption

theorem settleLate_of_released {s : State} {n op : Nat} {v : Volume} {x : Ctx} {st : VStep} (h : Released s n op v x st) :
    settleLate s n = s := by
  obtain ⟨hrel, hlate, -⟩ := h
  simp only [settleLate, ctx_of_releasable hrel, hlate, Bool.false_eq_true, if_false]

/-- A released step runs once the engine clocks do. -/
theorem runStep_released {s : State} {n op : Nat} {v : Volume} {x : Ctx} {st : VStep}
    (body : State → Volume → Ctx → VStep → State) (hclk : clocksRun s = true) (h : Released s n op v x st) :
    runStep s n op body = body s v x st := by
  have hsettle := settleLate_of_released h
  obtain ⟨hrel, -, hopen⟩ := h
  simp only [runStep, hsettle, hrel, hopen, hclk, Bool.not_true, Bool.false_eq_true, if_true, if_false]

section rows

variable {s : State} {n : Nat} {v : Volume} {x : Ctx} {st : VStep} (hclk : clocksRun s = true)
include hclk

theorem exec_matvec (remote : RemoteRead) (h : Released s n opMatvec v x st) :
    exec (.matvec n remote) s = .next (matvecBody n remote s v x st) :=
  congrArg _ (runStep_released _ hclk h)

theorem exec_attnScore (remote : RemoteRead) (h : Released s n opScore v x st) :
    exec (.attnScore n remote) s = .next (attnBody n remote s v x st) :=
  congrArg _ (runStep_released _ hclk h)

theorem exec_attnValue (remote : RemoteRead) (h : Released s n opValue v x st) :
    exec (.attnValue n remote) s = .next (attnBody n remote s v x st) :=
  congrArg _ (runStep_released _ hclk h)

theorem exec_kvAppend (h : Released s n opAppend v x st) : exec (.kvAppend n) s = .next (appendBody n s v x st) :=
  congrArg _ (runStep_released _ hclk h)

end rows

/-! ### MATVEC (R180, R252, R254) -/

section matvec

variable {s u w z : State} {n : Nat} {remote : RemoteRead} {v : Volume} {x : Ctx} {st : VStep} {sl : VSlot}
  (hsl : (stepSlot v.opers st).bind (fun i => v.slots[i]?) = some sl)
include hsl

theorem matvecBody_noActivation (hacts : actsFull v x [st.opb] = false) : matvecBody n remote s v x st = s := by
  simp only [matvecBody, hsl, hacts, Bool.not_false, Bool.true_or, if_true]

variable {t : Tensor} {list : List (Nat × Nat)} {keys : List (Nat × FolioId)} (hhomes : homesFree s v x st.opc = true)
  (hacts : actsFull v x [st.opb] = true) (ht : tget s.tensors sl.tensor = some t) (hlist : list = stepTileList s t.params st)
  (hkeys : keys = list.map (fun p => (p.1, FolioId.tile t.id p.2)))
  (hu : u = if copyUse s n x keys = .ready then keys.foldl copyWords s else s)
include hhomes hacts ht hlist hkeys hu

/-- Its folios are not yet there. -/
theorem matvecBody_waits (hok : slotSpoilt u sl = false) (huse : copyUse u n x keys = .wait) :
    matvecBody n remote s v x st = u := by
  simp only [matvecBody, hsl, hacts, hhomes, ht, ← hlist, ← hkeys, ← hu, hok, huse, Bool.not_true, Bool.or_self, Bool.false_eq_true,
    if_false]

variable (hw : w = noteTensor (((list.map (·.1)).eraseDups).foldl probeYield u) n t.id)
include hw

theorem matvecBody_spoilt (hspoilt : slotSpoilt u sl = true) : matvecBody n remote s v x st = stepSpoilt w n v x st := by
  simp only [matvecBody, hsl, hacts, hhomes, ht, ← hlist, ← hkeys, ← hu, ← hw, hspoilt, Bool.not_true, Bool.or_self,
    Bool.false_eq_true, if_true, if_false]

theorem matvecBody_doomed (hok : slotSpoilt u sl = false) (huse : copyUse u n x keys = .doomed) :
    matvecBody n remote s v x st = stepSpoilt w n v x st := by
  simp only [matvecBody, hsl, hacts, hhomes, ht, ← hlist, ← hkeys, ← hu, ← hw, hok, huse, Bool.not_true, Bool.or_self,
    Bool.false_eq_true, if_false]

/-- Folios RESIDENT, every tile expanded and the activation clean. -/
theorem matvecBody_multiplies {exp : List ((Nat × FolioId) × Option ExpTile)} {act : Bytes} (hok : slotSpoilt u sl = false)
    (huse : copyUse u n x keys = .ready) (haddr : refusedAddr w v x st = none)
    (hexp : exp = (list.zip keys).map (fun p => (p.2, expandTile t.params (st.flags.getLsbD 0) p.1.1
      (p.1.2 % (tileRows t.params * tileCols t.params) / tileCols t.params)
      (p.1.2 % (tileRows t.params * tileCols t.params) % tileCols t.params) (copyBytes w p.2))))
    (hall : exp.filter (fun e => e.2.isNone) = []) (hread : readOper w n v st.opb remote = (z, act, false))
    (hreset : resetNow (consumeAct z n st.opb) ((exp.filterMap (·.2)).map (·.unit)) = false) :
    matvecBody n remote s v x st =
      matvecRun (consumeAct z n st.opb) n v x st t (exp.filterMap (·.2)) act (actWiped x st.opb) := by
  simp only [matvecBody, hsl, hacts, hhomes, ht, ← hlist, ← hkeys, ← hu, ← hw, hok, huse, haddr, ← hexp, hall, hread, hreset,
    List.map_nil, List.isEmpty_nil, Bool.not_true, Bool.or_self, Bool.false_eq_true, if_false]

end matvec

/-! ### ATTN_SCORE and ATTN_VALUE (R190 to R194, R201) -/

/-- No page is refused where the master may read each. -/
theorem find?_pageRefused_eq_none {s : State} {mid r : Nat} {k : KvObj} {st : VStep} {pages : List (Nat × Nat)}
    (h : ∀ p ∈ pages, addrCode s mid (pageAddr (pageOf k st.opd r p.2)) (pageBytes k) false = rcDone) :
    (pages.map (fun p => pageAddr (pageOf k st.opd r p.2))).find?
      (fun a => addrCode s mid a (pageBytes k) false != rcDone) = none := by
  simpa only [List.find?_eq_none, List.forall_mem_map, bne_iff_ne, ne_eq, Decidable.not_not] using h

section attn

variable {s u w z : State} {n : Nat} {remote : RemoteRead} {v : Volume} {x : Ctx} {st : VStep} {k : KvObj}
  (hk : (stepObj s v x st).map (objSeen s.now n) = some k) (hlost : k.lost = false) (hacts : actsFull v x [st.opb] = true)
  (hhomes : homesFree s v x st.opc = true)
include hk hlost hacts hhomes

theorem attnBody_badHead (hhead : k.nh ≤ st.opd) :
    attnBody n remote s v x st = doneStep (consumeAct s n st.opb) n x rcBadField := by
  simp only [attnBody, hacts, hhomes, hk, hlost, hhead, Bool.not_true, Bool.or_self, Bool.false_eq_true, if_true, if_false]

variable {r l p0 : Nat} {pages : List (Nat × Nat)} (hhead : st.opd < k.nh) (hr : r = if st.opcode = opScore then 0 else 1)
  (hl : l = runLength k st.opd r) (hp0 : p0 = windowStart l st.param) (hpages : pages = stepPages s k st)
  (haddr : refusedAddr s v x st = none)
  (hcodes : ∀ p ∈ pages, addrCode s x.job.slip.mid (pageAddr (pageOf k st.opd r p.2)) (pageBytes k) false = rcDone)
include hhead hr hl hp0 hpages haddr hcodes

theorem attnBody_limit (hover : attnOver s v k st (l - p0) = true) :
    attnBody n remote s v x st = attnLimit (consumeAct s n st.opb) n x st k (l - p0) := by
  have hpage := find?_pageRefused_eq_none hcodes
  simp only [attnBody, hacts, hhomes, hk, hlost, Nat.not_le.mpr hhead, ← hr, ← hl, ← hp0, ← hpages, haddr, hpage, hover,
    Bool.not_true, Bool.or_self, Bool.false_eq_true, if_true, if_false]

variable {keys : List (Nat × FolioId)} (hover : attnOver s v k st (l - p0) = false)
  (hkeys : keys = pages.map (fun p => (p.1, FolioId.page k.idx st.opd r p.2)))
  (hu : u = if copyUse s n x keys = .ready then keys.foldl copyWords s else s)
  (hw : w = ((pages.map (·.1)).eraseDups).foldl probeYield u)
include hover hkeys hu hw

theorem attnBody_doomed (huse : copyUse u n x keys = .doomed) :
    attnBody n remote s v x st = poisonStep (consumeAct w n st.opb) n v x [st.opc] := by
  have hpage := find?_pageRefused_eq_none hcodes
  simp only [attnBody, hacts, hhomes, hk, hlost, Nat.not_le.mpr hhead, ← hr, ← hl, ← hp0, ← hpages, haddr, hpage, hover, ← hkeys,
    ← hu, ← hw, huse, Bool.not_true, Bool.or_self, Bool.false_eq_true, if_false]

/-- Pages RESIDENT and the activation clean. -/
theorem attnBody_runs {act : Bytes} {ins : List PageIn} (huse : copyUse u n x keys = .ready)
    (hread : readOper w n v st.opb remote = (z, act, false))
    (hins : ins = (pages.zip keys).map (fun p => { unit := p.1.1, entry := p.1.2, bytes := (copyBytes w p.2).toArray
                                                   tau := (pageOf k st.opd r p.1.2).tau }))
    (hreset : resetNow (consumeAct z n st.opb) (ins.map (·.unit)) = false) :
    attnBody n remote s v x st = attnRun (consumeAct z n st.opb) n v x st k ins p0 (l - p0) act (actWiped x st.opb) := by
  have hpage := find?_pageRefused_eq_none hcodes
  simp only [attnBody, hacts, hhomes, hk, hlost, Nat.not_le.mpr hhead, ← hr, ← hl, ← hp0, ← hpages, haddr, hpage, hover, ← hkeys,
    ← hu, ← hw, huse, hread, ← hins, hreset, Bool.not_true, Bool.or_self, Bool.false_eq_true, if_false]

end attn

/-! ### KV_APPEND (R197 to R199) -/

/-- Clean rows are appended head by head; a head without a place makes the step NO_SPACE. -/
theorem appendBody_appends {s t u : State} {n : Nat} {v : Volume} {x : Ctx} {st : VStep} {k : KvObj} {kb vb : Bytes}
    (hk : stepObj s v x st = some k) (hlost : k.lost = false)
    (hidle : s.eng.copies.any (fun c =>
      c.2.state == .arriving && (appendPages k).any (fun p => c.1.2 == .page k.idx p.1 p.2.1 p.2.2)) = false)
    (hcodes : ∀ p ∈ appendPages k, addrCode s x.job.slip.mid (pageOf k p.1 p.2.1 p.2.2).pda (pageBytes k) true = rcDone)
    (hkeys : readOper s n v st.opb .none = (t, kb, false)) (hvals : readOper t n v st.opc .none = (u, vb, false)) :
    appendBody n s v x st =
      let r := (List.range k.nh).foldl (fun r h => ((appendHead r.1 n x k h (fp32Words kb) (fp32Words vb) false).1,
        r.2 && (appendHead r.1 n x k h (fp32Words kb) (fp32Words vb) false).2)) (u, true)
      doneStep r.1 n x (if r.2 then rcDone else rcNoSpace) := by
  have hpage : (appendPages k).find? (fun p =>
      addrCode s x.job.slip.mid (pageOf k p.1 p.2.1 p.2.2).pda (pageBytes k) true != rcDone) = none := by
    simpa only [List.find?_eq_none, bne_iff_ne, ne_eq, Decidable.not_not] using hcodes
  simp only [appendBody, hk, hlost, hidle, hpage, hkeys, hvals, Bool.or_self, Bool.false_eq_true, if_false]

/-- Settles O38: a released step runs its body, and each clause is the rule above for the branch that its hypotheses name. -/
theorem matrixSteps : Obligations.MatrixSteps := by
  refine ⟨?matvec, ?attn, ?append⟩
  case matvec =>
    intro s u w z n remote v x st sl hclk hrel hsl hhomes
    rw [exec_matvec hclk remote hrel]
    refine ⟨fun hacts => congrArg _ (matvecBody_noActivation hsl hacts), fun t list keys hacts ht hlist hkeys hu hw => ?_⟩
    refine ⟨fun hspoilt => ?_, fun hok huse => ?_, fun hok huse => ?_,
      fun exp act hok huse haddr hexp hall hread hreset => ?_⟩
    · rw [matvecBody_spoilt hsl hhomes hacts ht hlist hkeys hu hw hspoilt]
    · rw [matvecBody_waits hsl hhomes hacts ht hlist hkeys hu hok huse]
    · rw [matvecBody_doomed hsl hhomes hacts ht hlist hkeys hu hw hok huse]
    · rw [matvecBody_multiplies hsl hhomes hacts ht hlist hkeys hu hw hok huse haddr hexp hall hread hreset]
  case attn =>
    intro s u w z n op remote v x st k run hclk hrel hrun hk hlost hacts hhomes
    have hbody : run = .next (attnBody n remote s v x st) := by
      obtain ⟨rfl, rfl⟩ | ⟨rfl, rfl⟩ := hrun
      · exact exec_attnScore hclk remote hrel
      · exact exec_attnValue hclk remote hrel
    rw [hbody]
    refine ⟨fun hhead => congrArg _ (attnBody_badHead hk hlost hacts hhomes hhead),
      fun r l p0 pages keys act hhead hr hl hp0 hpages haddr hcodes hkeys hu hw => ⟨fun hover => ?_, fun hover huse => ?_,
        fun hover huse hread ins hins hreset => ?_⟩⟩
    · rw [attnBody_limit hk hlost hacts hhomes hhead hr hl hp0 hpages haddr hcodes hover]
    · rw [attnBody_doomed hk hlost hacts hhomes hhead hr hl hp0 hpages haddr hcodes hover hkeys hu hw huse]
    · rw [attnBody_runs hk hlost hacts hhomes hhead hr hl hp0 hpages haddr hcodes hover hkeys hu hw huse hread hins hreset]
  case append =>
    intro s t u n v x st k kb vb hclk hrel hk hlost hidle hcodes hkeys hvals r
    rw [exec_kvAppend hclk hrel, appendBody_appends hk hlost hidle hcodes hkeys hvals]

end Sys2Proof.Machine
end

section
/-! SUPPORT. What probe runs and the stages of an investigation do, one rule for each branch, and the statement on them (R83,
R89 to R101). -/

namespace Sys2Proof.Machine

section

variable (s : State) (n : Nat) (remote : RemoteRead)

theorem exec_probeRun : exec (.probeRun n) s = .next (probeRun s n) := rfl
theorem exec_probeForce : exec (.probeForce n) s = execProbeForce n s := rfl
theorem exec_investigationRerun : exec (.investigationRerun n) s = execInvestigationRerun n s := rfl
theorem exec_investigationRefetch : exec (.investigationRefetch n remote) s = execInvestigationRefetch n remote s := rfl
theorem exec_investigationOtherMu : exec (.investigationOtherMu n remote) s = execInvestigationOtherMu n remote s := rfl
theorem exec_investigationTimeout : exec (.investigationTimeout n) s = execInvestigationTimeout n s := rfl

end

/-! ### A probe on a unit (R89 to R94) -/

/-- An output passes within TOL steps of its reference, and a NaN only against a NaN (R94). -/
theorem outPass_iff (tol w ref : Nat) : outPass tol w ref = true ↔ (isNanW w = true ∧ isNanW ref = true) ∨
    (isNanW w = false ∧ isNanW ref = false ∧ (orderKey w - orderKey ref).natAbs ≤ tol) := by
  simp only [outPass, Bool.or_eq_true, Bool.and_eq_true, Bool.not_eq_true', decide_eq_true_eq, and_assoc]

section probeOn

variable {s u : State} {m i : Nat} {p : Probe} {n : Tensor} {c : FolioCopy} (hu : u = copyWords s (m, .tile i p.tile))
  (hn : tget u.tensors i = some n) (hc : tget u.eng.copies (m, .tile i p.tile) = some c) (hres : c.state = .resident)
include hu hn hc hres

theorem probeOn_runs {r : ProbeRun} {acc : Tbl Nat AccEntry} (hrun : probeRunOf u.now n.params i p m c.bytes = some (r, acc)) :
    probeOn s m i p = (u, some (r, acc)) := by
  simp only [probeOn, ← hu, hn, hc, hres, hrun, ne_eq, not_true_eq_false, if_false]

theorem probeOn_bad (hrun : probeRunOf u.now n.params i p m c.bytes = none) :
    probeOn s m i p = (poisonCopy u m (.tile i p.tile) true, none) := by
  simp only [probeOn, ← hu, hn, hc, hres, hrun, ne_eq, not_true_eq_false, if_false]

end probeOn

theorem leastFrom_congr {p q : Nat → Bool} (h : ∀ k, p k = q k) (fuel n : Nat) : leastFrom p fuel n = leastFrom q fuel n := by
  rw [funext h]

section idleUnit

variable {s : State} {m : Nat} (hfree : (muOf s m).probe = none)
include hfree

theorem probeSettle_idle : probeSettle s m = s := by
  simp only [probeSettle, hfree]

/-- The first eligible probe at or after the unit's pointer starts, and the pointer advances one place (R92). -/
theorem probeRun_starts {k : Nat} {p : Nat × Probe}
    (hk : leastFrom (fun k => ((allProbes s)[((muOf s m).probePointer + k) % (allProbes s).length]?).any (probeEligible s m))
      (allProbes s).length 0 = some k)
    (hp : (allProbes s)[((muOf s m).probePointer + k) % (allProbes s).length]? = some p) :
    probeRun s m =
      probeStart (muMod s m (fun u => { u with probePointer := ((muOf s m).probePointer + 1) % (allProbes s).length })) m p.1 p.2 := by
  have hidle : ¬((muOf s m).probe.isSome = true) := by simp [hfree]
  refine (if_neg hidle).trans ?_
  dsimp only
  rw [(leastFrom_congr ?same _ _).trans hk]
  case same =>
    intro j
    cases (allProbes s)[((muOf s m).probePointer + j) % (allProbes s).length]? <;> rfl
  simp only [hp]

/-- A forced run on a unit whose probe accumulator is free completes in its command (R93). -/
theorem probeForced_runs {u : State} {i : Nat} {p : Probe} {n : Tensor} {c : FolioCopy} {r : ProbeRun} {acc : Tbl Nat AccEntry}
    (hu : u = copyWords s (m, .tile i p.tile)) (hn : tget u.tensors i = some n)
    (hc : tget u.eng.copies (m, .tile i p.tile) = some c) (hres : c.state = .resident)
    (hrun : probeRunOf u.now n.params i p m c.bytes = some (r, acc)) :
    probeForced s m i p =
      (probeCount (probeFree (muMod u m (fun x => { x with probeAcc := acc })) m) i r, some r.pass) := by
  simp only [probeForced, probeSettle_idle hfree, hfree, probeOn_runs hu hn hc hres hrun, Option.isSome_none, Bool.false_eq_true,
    if_false]

end idleUnit

section busyUnit

variable {s : State} {m : Nat} {r : ProbeRun} (hr : (muOf s m).probe = some r)
include hr

theorem probeRun_settles : probeRun s m = probeSettle s m := if_pos (by simp [hr])

theorem probeSettle_over (hends : r.ends ≤ s.now) : probeSettle s m = probeDone s m r := by
  simp only [probeSettle, hr, hends, if_true]

theorem probeSettle_running (hends : s.now < r.ends) : probeSettle s m = s := by
  simp only [probeSettle, hr, Nat.not_le.mpr hends, if_false]

/-- A step that needs the unit drops a run that is not over, uncounted (R91). -/
theorem probeYield_running (hends : s.now < r.ends) : probeYield s m = probeFree s m := by
  simp only [probeYield, probeSettle_running hr hends, hr, Option.isSome_some, if_true]

end busyUnit

/-! ### PROBE_FORCE (R93) -/

theorem probeDue_of_fetched {s : State} {t : Tensor} {f : Nat} (hf : t.lastFetch = some f) (hin : s.now ≤ f + 1600000000)
    (hold : ∀ g, t.lastProbe = some g → g + 1600000000 < s.now) : probeDue s t = true := by
  cases hg : t.lastProbe with
  | none => simp [probeDue, hf, hg, msT, hin]
  | some g => simp [probeDue, hf, hg, msT, hin, hold g hg]

section probeForce

variable {s : State} {i : Nat} {t : Tensor} (ht : tget s.tensors i = some t)
include ht

theorem execProbeForce_unfetched (hf : t.lastFetch = none) : execProbeForce i s = .next s := by
  have hdue : probeDue s t = false := by simp [probeDue, hf]
  simp only [execProbeForce, ht, hdue]

variable {w : State} {m : Nat} {p : Probe} {b : Bool} (hdue : probeDue s t = true) (hchoice : forceChoice s i = some (m, p))
  (hrun : probeForced s m i p = (w, some b))
include hdue hchoice hrun

theorem execProbeForce_forced : execProbeForce i s = .next (if b then w else openInvest w i m p) := by
  cases b <;> simp only [execProbeForce, ht, hdue, hchoice, hrun, Bool.false_eq_true, if_true, if_false]

end probeForce

/-! ### The stages of an investigation (R95 to R101) -/

theorem execInvestigationRerun_compared {s w : State} {i : Nat} {t : Tensor} {v : Investigation} {b : Bool}
    (ht : tget s.tensors i = some t) (hv : t.investigation = some v) (hstage : v.stage = 1)
    (helig : probeEligible s v.mu (i, v.probe) = true) (hrun : probeForced s v.mu i v.probe = (w, some b)) :
    execInvestigationRerun i s = .next (if b then closeInvest w i 1 else nextStage w i 2) := by
  cases b <;> simp only [execInvestigationRerun, ht, Option.bind_some, hv, hstage, helig, hrun, and_self, Bool.false_eq_true, if_true,
    if_false]

section investFolio

variable {s u : State} {n : Tensor} {v : Investigation} {m : Nat} {remote : RemoteRead} {b : Bytes} (hnew : v.fetched = none)
include hnew

theorem investFolio_bad (hfetch : investFetch s n v.probe.tile m remote = (u, b, true)) :
    investFolio s n v m remote = (u, b, true) := by
  simp only [investFolio, hnew, hfetch, if_true]

theorem investFolio_fetched (hfetch : investFetch s n v.probe.tile m remote = (u, b, false)) :
    investFolio s n v m remote = (tensorMod u n.id (fun t => { t with
      investigation := t.investigation.map (fun v => { v with fetched := some (m, b) }) }), b, false) := by
  simp only [investFolio, hnew, hfetch, Bool.false_eq_true, if_false]

end investFolio

section probeFetched

variable {s : State} {m i : Nat} {t : TParams} {p : Probe} {b : Bytes} (hfree : (muOf s m).probe = none)
include hfree

theorem probeFetched_waits (hclk : clocksRun s = false) : probeFetched s m i t p b = (s, none) := by
  simp only [probeFetched, probeSettle_idle hfree, hclk, Bool.not_false, Bool.true_or, if_true]

theorem probeFetched_runs {r : ProbeRun} {acc : Tbl Nat AccEntry} (hclk : clocksRun s = true)
    (hrun : probeRunOf s.now t i p m b = some (r, acc)) : probeFetched s m i t p b =
      (probeCount (probeFree (muMod s m (fun u => { u with probeAcc := acc })) m) i r, some (some r.pass)) := by
  simp only [probeFetched, probeSettle_idle hfree, hclk, hfree, hrun, Option.isSome_none, Bool.not_true, Bool.or_self,
    Bool.false_eq_true, if_false]

end probeFetched

section refetch

variable {s w : State} {i : Nat} {remote : RemoteRead} {n : Tensor} {v : Investigation} {b : Bytes}
  (hn : tget s.tensors i = some n) (hv : n.investigation = some v) (hstage : v.stage = 2) (hmay : investMay s = true)
  (hup : muUp s v.mu = true) (hroom : (findGranules s v.mu n.params.q).isSome = true) (hopen : investOpen s n v v.mu = true)
include hn hv hstage hmay hup hroom hopen

/-- A folio that comes back bad is POISONED, and the investigation is abandoned (R99). -/
theorem execInvestigationRefetch_bad (hfolio : investFolio s n v v.mu remote = (w, b, true)) :
    execInvestigationRefetch i remote s = .next (closeInvest (poisonCopy w v.mu (.tile i v.probe.tile) true) i 5) := by
  simp only [execInvestigationRefetch, hn, hv, hstage, hmay, hup, hroom, hopen, hfolio, ne_eq, not_true_eq_false, Bool.or_true,
    Bool.not_true, Bool.false_eq_true, or_self, if_true, if_false]

variable (hfolio : investFolio s n v v.mu remote = (w, b, false))
include hfolio

theorem execInvestigationRefetch_waits (hrun : probeFetched w v.mu i n.params v.probe b = (w, none)) :
    execInvestigationRefetch i remote s = .next w := by
  simp only [execInvestigationRefetch, hn, hv, hstage, hmay, hup, hroom, hopen, hfolio, hrun, ne_eq, not_true_eq_false, Bool.or_true,
    Bool.not_true, Bool.false_eq_true, or_self, if_false]

theorem execInvestigationRefetch_compared {y : State} {pass : Bool}
    (hrun : probeFetched w v.mu i n.params v.probe b = (y, some (some pass))) :
    execInvestigationRefetch i remote s =
      let kept := keepCopy y v.mu n.params.q (.tile i v.probe.tile) b
      .next (if pass then closeInvest kept i 2 else nextStage kept i 3) := by
  cases pass <;>
    simp only [execInvestigationRefetch, hn, hv, hstage, hmay, hup, hroom, hopen, hfolio, hrun, ne_eq, not_true_eq_false, Bool.or_true,
      Bool.not_true, Bool.false_eq_true, or_self, if_true, if_false]

end refetch

section otherMu

variable {s w : State} {i m : Nat} {remote : RemoteRead} {n : Tensor} {v : Investigation} {b : Bytes}
  (hn : tget s.tensors i = some n) (hv : n.investigation = some v) (hstage : v.stage = 3) (hmay : investMay s = true)
  (hmu : stageMu s n v = some m) (hopen : investOpen s n v m = true)
include hn hv hstage hmay hmu hopen

theorem execInvestigationOtherMu_bad (hfolio : investFolio s n v m remote = (w, b, true)) :
    execInvestigationOtherMu i remote s = .next (closeInvest w i 5) := by
  simp only [execInvestigationOtherMu, hn, hv, hstage, hmay, hmu, hopen, hfolio, ne_eq, not_true_eq_false, Bool.not_true,
    Bool.false_eq_true, or_self, if_true, if_false]

theorem execInvestigationOtherMu_compared {y : State} {pass : Bool} (hfolio : investFolio s n v m remote = (w, b, false))
    (hrun : probeFetched w m i n.params v.probe b = (y, some (some pass))) :
    execInvestigationOtherMu i remote s =
      .next (if pass then abandonOn (closeInvest y i 3) v.mu else closeInvest y i 4) := by
  cases pass <;>
    simp only [execInvestigationOtherMu, hn, hv, hstage, hmay, hmu, hopen, hfolio, hrun, ne_eq, not_true_eq_false, Bool.not_true,
      Bool.false_eq_true, or_self, if_true, if_false]

end otherMu

/-- Before stage 3 has fetched its folio, its unit is the next one in service with a free slot (R95). -/
theorem stageMu_unfetched {s : State} {n : Tensor} {v : Investigation} (hnew : v.fetched = none) :
    stageMu s n v = otherMu s v.mu n.params.q := by
  simp only [stageMu, hnew]

theorem execInvestigationTimeout_over {s : State} {i : Nat} {n : Tensor} {v : Investigation} (hn : tget s.tensors i = some n)
    (hv : n.investigation = some v) (hstage : v.stage = 3) (hover : v.stageAt + 32000000 ≤ s.now) (hmu : stageMu s n v = none) :
    execInvestigationTimeout i s = .next (closeInvest s i 4) := by
  have hdue : v.stage = 3 ∧ v.stageAt + msT 2 ≤ s.now ∧ (stageMu s n v).isNone = true := ⟨hstage, hover, by rw [hmu]; rfl⟩
  simp only [execInvestigationTimeout, hn, hv, hdue, and_self, if_true]

/-- Settles O41: each clause is the rule above for the branch that its hypotheses name. -/
theorem sentinelProbes : Obligations.SentinelProbes := by
  refine ⟨?start, ?running, ?force, outPass_iff, ?rerun, ?refetch, ?otherMu, ?timeout⟩
  case start =>
    intro s u m k p t c hfree hk hp hu ht hc hres
    rw [exec_probeRun, probeRun_starts hfree hk hp, probeStart]
    refine ⟨fun r acc hrun => ?_, fun hbad => ?_⟩
    · rw [probeOn_runs hu ht hc hres hrun]
    · rw [probeOn_bad hu ht hc hres hbad]
  case running =>
    rintro s _ m r hr rfl
    rw [exec_probeRun, probeRun_settles hr]
    refine ⟨fun hends hpass => ?_, fun hends hpass => ?_, fun hends => ⟨?_, probeYield_running hr hends⟩⟩
    · rw [probeSettle_over hr hends, probeDone, hpass]
      rfl
    · rw [probeSettle_over hr hends, probeDone, hpass]
      rfl
    · rw [probeSettle_running hr hends]
  case force =>
    rintro s u _ i m t n c p r acc ht
    rw [exec_probeForce]
    refine ⟨execProbeForce_unfetched ht, ?_⟩
    rintro f hf hin hold hchoice hfree hu hn hc hres hrun rfl
    rw [execProbeForce_forced ht (probeDue_of_fetched hf hin hold) hchoice (probeForced_runs hfree hu hn hc hres hrun)]
    exact ⟨fun hpass => congrArg _ (if_pos hpass), fun hpass => congrArg _ (if_neg (Bool.eq_false_iff.mp hpass))⟩
  case rerun =>
    rintro s u _ i t n v c r acc ht hv hstage helig hfree hu hn hc hres hrun rfl
    rw [exec_investigationRerun,
      execInvestigationRerun_compared ht hv hstage helig (probeForced_runs hfree hu hn hc hres hrun)]
    exact ⟨fun hpass => congrArg _ (if_pos hpass), fun hpass => congrArg _ (if_neg (Bool.eq_false_iff.mp hpass))⟩
  case refetch =>
    intro s u w y i remote n v b hn hv hstage hnew hmay hup hroom hopen
    rw [exec_investigationRefetch]
    refine ⟨fun hfetch => execInvestigationRefetch_bad hn hv hstage hmay hup hroom hopen (investFolio_bad hnew hfetch), ?_⟩
    rintro hfetch rfl hfree
    have hfolio := investFolio_fetched hnew hfetch
    refine ⟨fun hclk => execInvestigationRefetch_waits hn hv hstage hmay hup hroom hopen hfolio
      (probeFetched_waits hfree hclk), ?_⟩
    rintro r acc hclk hrun rfl
    rw [execInvestigationRefetch_compared hn hv hstage hmay hup hroom hopen hfolio (probeFetched_runs hfree hclk hrun)]
    exact ⟨fun hpass => congrArg _ (if_pos hpass), fun hpass => congrArg _ (if_neg (Bool.eq_false_iff.mp hpass))⟩
  case otherMu =>
    intro s u w y i m remote n v b hn hv hstage hnew hmu hmay hopen
    have hunit := (stageMu_unfetched hnew).trans hmu
    rw [exec_investigationOtherMu]
    refine ⟨fun hfetch => execInvestigationOtherMu_bad hn hv hstage hmay hunit hopen (investFolio_bad hnew hfetch), ?_⟩
    rintro r acc hfetch rfl hfree hclk hrun rfl
    rw [execInvestigationOtherMu_compared hn hv hstage hmay hunit hopen (investFolio_fetched hnew hfetch)
      (probeFetched_runs hfree hclk hrun)]
    exact ⟨fun hpass => congrArg _ (if_pos hpass), fun hpass => congrArg _ (if_neg (Bool.eq_false_iff.mp hpass))⟩
  case timeout =>
    intro s i n v hn hv hstage hover hnew hmu
    rw [exec_investigationTimeout,
      execInvestigationTimeout_over hn hv hstage hover ((stageMu_unfetched hnew).trans hmu)]

end Sys2Proof.Machine
end

section
/-! SUPPORT. What a fetch grant, an arrival, a recovery and its budget, and the release of a relay-reduce do in each of their
branches, and the statement on folio copies (R107, R112, R160, R219 to R221, R254 to R256, R260, R265, R301). -/

namespace Sys2Proof.Machine

/-! ### The commands' rows -/

section rows

variable {s : State} {m : Nat} {f : FolioId} {h : Half} {i tile : Nat} {tier mirror replica origin : RemoteRead}

theorem exec_fetchIssue : exec (.fetchIssue h) s = .next (fetchIssue s h) := rfl
theorem exec_folioDataArrive : exec (.folioDataArrive m f) s = execFolioDataArrive m f s := rfl
theorem exec_folioArriveComplete (remote : RemoteRead) : exec (.folioArriveComplete m f remote) s = .next (folioArrive s m f remote) := rfl
theorem exec_recoveryBudgetExpiry : exec (.recoveryBudgetExpiry m f) s = execRecoveryBudgetExpiry m f s := rfl

/-- A slice's copy is recovered by its slice (log 125). -/
theorem exec_folioRecovery_slice (hm : edgeOf m = none) :
    exec (.folioRecovery m f ⟨tier, mirror⟩ replica origin) s = .next (folioRecovery s m f tier mirror replica origin) := by
  change execFolioRecovery m f ⟨tier, mirror⟩ replica origin s = _
  simp only [execFolioRecovery, hm]

/-- The slice numbers 128 and 129 stand for the edge expanders (log 125). -/
theorem exec_folioRecovery_edge (hm : edgeOf m = some h) :
    exec (.folioRecovery m (.tile i tile) ⟨tier, mirror⟩ replica origin) s =
      .next (edgeRecovery s h (i, tile) tier mirror replica origin) := by
  change execFolioRecovery m (.tile i tile) ⟨tier, mirror⟩ replica origin s = _
  simp only [execFolioRecovery, hm]

theorem exec_relayReduce {n : Nat} {v : Volume} {x : Ctx} {st : VStep} (hclk : clocksRun s = true) (h : Released s n opRelay v x st) :
    exec (.relayReduce n) s = .next (relayBody n s v x st) :=
  congrArg _ (runStep_released _ hclk h)

end rows

/-! ### The fetch grant (R256, R260, R265) -/

/-- The grant goes to the first context from the half's pointer with a read to issue: the wants that a copy serves attach
to it, and the first of the others that lies in the half and may be issued is read. -/
theorem fetchIssue_issues {s t u : State} {h : Half} {k n : Nat} {x : Ctx} {g : Group} {w : Want}
    (hk : leastFrom (fun k => (fetchRequest s h ((s.eng.fetchPointer.get h + k) % 64)).isSome) 64 0 = some k)
    (hn : n = (s.eng.fetchPointer.get h + k) % 64) (hreq : fetchRequest s h n = some (x, g))
    (ht : t = { s with eng := { s.eng with
      ctxs := tset s.eng.ctxs n x, fetchPointer := s.eng.fetchPointer.set h ((s.eng.fetchPointer.get h + 1) % 64) } })
    (hu : u = attachAll t n g.wants) (hw : (missing t g).find? (fun w => sliceHalf w.slice == h && wantOpen u w) = some w) :
    fetchIssue s h = issueWant u n g.head w := by
  simp only [fetchIssue, hk, ← hn, hreq, ← ht, ← hu, hw]

/-! ### Arrival (R112, R160, R254) -/

section dataArrive

variable {s : State} {m : Nat} {f : FolioId} {c : FolioCopy} (hc : tget s.eng.copies (m, f) = some c) (hstate : c.state = .requested)
include hc hstate

theorem execFolioDataArrive_clean (hgood : c.bad = false) :
    execFolioDataArrive m f s = .next (copyMod s m f (fun c => { c with state := .arriving })) := by
  simp only [execFolioDataArrive, hc, hstate, hgood, ne_eq, not_true_eq_false, Bool.false_eq_true, if_false]

theorem execFolioDataArrive_bad (hbad : c.bad = true) : execFolioDataArrive m f s = .next (poisonCopy s m f false) := by
  simp only [execFolioDataArrive, hc, hstate, hbad, ne_eq, not_true_eq_false, if_true, if_false]

end dataArrive

/-- A tile of tier 1 or 2 is judged by the bytes that its request read (R107): marked bad, else by the entry checks. -/
theorem folioArrive_tile {s : State} {m i tile : Nat} {c : FolioCopy} {t : Tensor} {remote : RemoteRead}
    (hc : tget s.eng.copies (m, .tile i tile) = some c) (hstate : c.state = .arriving) (ht : tget s.tensors i = some t)
    (hbytes : c.bytes ≠ []) : folioArrive s m (.tile i tile) remote =
      if c.bad then poisonCopy s m (.tile i tile) false
      else if keptOk t.params tile c.bytes then settleCopy s m (.tile i tile) c.bytes
      else poisonCopy s m (.tile i tile) true := by
  have hkept : c.bytes.isEmpty = false := List.isEmpty_eq_false_iff.mpr hbytes
  simp only [folioArrive, hc, hstate, ht, hkept, ne_eq, not_true_eq_false, Bool.false_eq_true, Bool.false_or, if_false]

/-! ### Recovery of a slice's copy (R254, R255) -/

section recovery

variable {s u : State} {m i tile : Nat} {c : FolioCopy} (hc : tget s.eng.copies (m, .tile i tile) = some c)
  (hstate : c.state = .poisoned) (hopen : c.failed = false)
include hc hstate hopen

section read

variable {t : Tensor} {tier mirror replica origin : RemoteRead} (hin : s.now ≤ c.poisonedAt + msT 2) (ht : tget s.tensors i = some t)
include hin ht

theorem folioRecovery_replaces {code : Nat} {b : Bytes}
    (hread : recoverTile s t tile tier mirror replica origin = (u, some (code, b))) :
    folioRecovery s m (.tile i tile) tier mirror replica origin =
      copyMod (chargeRead (logRecovery (if code = 0 then u else rewriteTile u t tile b) t tile code c.poisonedAt) 0
        (masterTile t tile).1 (slotBytes t.params) (.compute (sliceHalf m))) m (.tile i tile) (fun c => { c with
          state := .arriving, bytes := b, bad := false, fromWc := false }) := by
  simp only [folioRecovery, hc, hstate, hopen, Nat.not_lt.mpr hin, ht, hread, ne_eq, not_true_eq_false, Bool.false_eq_true, or_self, if_false]

theorem folioRecovery_fails (hread : recoverTile s t tile tier mirror replica origin = (u, none)) :
    folioRecovery s m (.tile i tile) tier mirror replica origin = failRecovery u m (.tile i tile) c := by
  simp only [folioRecovery, hc, hstate, hopen, Nat.not_lt.mpr hin, ht, hread, ne_eq, not_true_eq_false, Bool.false_eq_true, or_self, if_false]

end read

theorem execRecoveryBudgetExpiry_slice (hm : edgeOf m = none) (hover : c.poisonedAt + msT 2 ≤ s.now) :
    execRecoveryBudgetExpiry m (.tile i tile) s = .next (failRecovery s m (.tile i tile) c) := by
  simp only [execRecoveryBudgetExpiry, hm, hc, hstate, hopen, hover, Bool.not_false, and_self, if_true]

end recovery

/-! ### Recovery of what an edge expander found malformed (R162, R255) -/

section edgeRecovery

variable {s u : State} {h : Half} {i tile : Nat} {e : EdgePoison}
  (he : tget (s.plain.edge.get h).poisoned (i, tile) = some e) (hopen : e.failed = false)
include he hopen

section read

variable {t : Tensor} {tier mirror replica origin : RemoteRead} (hin : s.now ≤ e.foundAt + msT 2) (ht : tget s.tensors i = some t)
include hin ht

theorem edgeRecovery_replaces {code : Nat} {b : Bytes}
    (hread : recoverTile s t tile tier mirror replica origin = (u, some (code, b))) :
    edgeRecovery s h (i, tile) tier mirror replica origin =
      edgePoisonMod (chargeRead (logRecovery (if code = 0 then u else rewriteTile u t tile b) t tile code e.foundAt) 0
        (masterTile t tile).1 (slotBytes t.params) (.compute h)) h (i, tile) none := by
  simp only [edgeRecovery, he, hopen, Nat.not_lt.mpr hin, ht, hread, Bool.false_eq_true, or_self, if_false]

theorem edgeRecovery_fails (hread : recoverTile s t tile tier mirror replica origin = (u, none)) :
    edgeRecovery s h (i, tile) tier mirror replica origin = failEdge u h (i, tile) e := by
  simp only [edgeRecovery, he, hopen, Nat.not_lt.mpr hin, ht, hread, Bool.false_eq_true, or_self, if_false]

end read

theorem execRecoveryBudgetExpiry_edge {m : Nat} (hm : edgeOf m = some h) (hover : e.foundAt + msT 2 ≤ s.now) :
    execRecoveryBudgetExpiry m (.tile i tile) s = .next (failEdge s h (i, tile) e) := by
  simp only [execRecoveryBudgetExpiry, hm, he, hopen, hover, Bool.not_false, and_self, if_true]

end edgeRecovery

/-! ### The release of a relay-reduce (R219 to R221) -/

/-- What a member sends to a slot: in ALLSUM the range that the slot owns, else all of its partials to the owner (R219). -/
def relayShare (st : VStep) (b : Bytes) (j : Nat) : Bytes :=
  if relayMode st = 1 then
    slice b (4 * (slotRange st (b.length / 4) j).1) (4 * ((slotRange st (b.length / 4) j).2 - (slotRange st (b.length / 4) j).1))
  else if j = relayOwner st then b else []

/-- The pending entry of a relay-reduce that waits for flits (R219, log 59). -/
def relayPend (s : State) (v : Volume) (x : Ctx) (st : VStep) (b : Bytes) : Pend :=
  { step := x.pc, iter := x.iter, due := (relayPeers s st).length + 1, at_ := s.now, data := b
    homes := if (operOf v st.opc).kind = kAct then actHomes s v x st.opc else [] }

section relay

variable {s t u : State} {n : Nat} {v : Volume} {x : Ctx} {st : VStep} {b : Bytes} (hhomes : homesFree s v x st.opc = true)
  (haddr : refusedAddr s v x st = none) (hread : readOper s n v st.opa .none = (t, b, false))
  (hu : u = (relayPeers t st).foldl (fun s j => redSend s j (redKey n x x.pc x.iter) (relayShare st b j)) t)
include hhomes haddr hread hu

theorem relayBody_completes (hwaits : relayWaits u st = false) : relayBody n s v x st = doneStep u n x rcDone := by
  subst hu
  simp only [relayBody, hhomes, haddr, hread, Bool.not_true, Bool.false_eq_true, if_false]
  exact if_neg (Bool.eq_false_iff.mp hwaits)

theorem relayBody_waits {p : Pend} {w : State} (hwaits : relayWaits u st = true) (hp : p = relayPend u v x st b)
    (hw : w = passStep (ctxMod (holdActs u p.homes) n (fun x => { x with pending := x.pending ++ [p] })) n) :
    relayBody n s v x st = if relayCut w n v x st p then relayAbsent w n p else relayTry w n p := by
  subst hw hp hu
  simp only [relayBody, hhomes, haddr, hread, Bool.not_true, Bool.false_eq_true, if_false]
  exact if_pos hwaits

end relay

/-- Settles O40: each clause is the rule above for the branch that its hypotheses name. -/
theorem folioCopies : Obligations.FolioCopies := by
  refine ⟨?issue, ?data, ?complete, ?recover, ?edge, ?expire, ?relay⟩
  case issue =>
    intro s t u h k n x g hk hn hreq ht hu w hw
    rw [exec_fetchIssue, fetchIssue_issues hk hn hreq ht hu hw]
  case data =>
    intro s m f c hc hstate
    rw [exec_folioDataArrive]
    exact ⟨execFolioDataArrive_clean hc hstate, execFolioDataArrive_bad hc hstate⟩
  case complete =>
    intro s m i tile c t remote hc hstate ht hbytes
    rw [exec_folioArriveComplete, folioArrive_tile hc hstate ht hbytes]
    refine ⟨fun hgood hok => ?_, fun hgood hmal => ?_, fun hbad => ?_⟩
    · rw [hgood, hok]; rfl
    · rw [hgood, hmal]; rfl
    · rw [hbad]; rfl
  case recover =>
    intro s u m i tile c t tier mirror replica origin hm hc hstate hopen hin ht
    rw [exec_folioRecovery_slice hm]
    exact ⟨fun code b hread => congrArg _ (folioRecovery_replaces hc hstate hopen hin ht hread),
      fun hread => congrArg _ (folioRecovery_fails hc hstate hopen hin ht hread)⟩
  case edge =>
    intro s u m i tile h e t tier mirror replica origin hm he hopen ht
    rw [exec_folioRecovery_edge hm, exec_recoveryBudgetExpiry]
    exact ⟨fun code b hin hread => congrArg _ (edgeRecovery_replaces he hopen hin ht hread),
      fun hin hread => congrArg _ (edgeRecovery_fails he hopen hin ht hread),
      fun hover => execRecoveryBudgetExpiry_edge he hopen hm hover⟩
  case expire =>
    intro s m i tile c hm hc hstate hopen hover
    rw [exec_recoveryBudgetExpiry, execRecoveryBudgetExpiry_slice hc hstate hopen hm hover]
  case relay =>
    intro s t u n v x st b hclk h hhomes haddr hread hu
    rw [exec_relayReduce hclk h]
    refine ⟨fun hwaits => congrArg _ (relayBody_completes hhomes haddr hread hu hwaits), ?_⟩
    intro p w hwaits hp hw
    exact congrArg _ (relayBody_waits hhomes haddr hread hu hwaits hp hw)

end Sys2Proof.Machine
end

section
/-! SUPPORT. What the desk commands on weight windows do, one rule for each branch, what a plain read that lies in one window
answers, and the statement on them (R167 to R174, R468, R568). -/

namespace Sys2Proof.Machine

/-! ### The rows of the commands -/

section windowCommands

variable {s : State} {src : DeskSrc} {c : RunCmd}

theorem exec_windowDeclare (h : Serves s src 0x0404 c) :
    exec (.windowDeclare src) s = .next (windowDeclareBody (leaveSleep s) c) :=
  congrArg _ (deskRun_leaveSleep _ h (by decide))

theorem exec_windowSeal (h : Serves s src 0x0405 c) :
    exec (.windowSeal src) s = .next (windowSealBody (leaveSleep s) c) :=
  congrArg _ (deskRun_leaveSleep _ h (by decide))

theorem exec_windowReopen (h : Serves s src 0x0406 c) :
    exec (.windowReopen src) s = .next (windowReopenBody (leaveSleep s) c) :=
  congrArg _ (deskRun_leaveSleep _ h (by decide))

theorem exec_windowClose (h : Serves s src 0x0407 c) :
    exec (.windowClose src) s = .next (windowCloseBody (leaveSleep s) c) :=
  congrArg _ (deskRun_leaveSleep _ h (by decide))

end windowCommands

/-! ### WINDOW_DECLARE (R167, R168, R568) -/

/-- A window that is long enough, on granules that its sender may use and none of which is protected, is turned away only by
another window or for want of a number. -/
theorem windowDeclareBody_admitted {w : State} {c : RunCmd} {x : WeightWin} (hx : windowOf w c = .ok x)
    (hlen : windowLen x.kind x.params ≤ x.count * gib) (hacc : windowAccess w c.mid x.g x.count x.kind = true)
    (hopen : ∀ i g, i < x.count → tget w.plain.granules (x.g + i) = some g → g.protect = false) : windowDeclareBody w c =
    if (List.range x.count).any (fun i => granInWindow w (x.g + i)) then failWith w c rcConflict
    else (leastFrom (fun n => !thas w.plain.windows n) 64 0).elim (failWith w c rcNoSpace) (fun n =>
      let v := runWaits (dropGranules w x.g x.count)
      complete { v with plain := { v.plain with windows := tset v.plain.windows n x } } c rcDone [.u 2 n]) := by
  simp only [windowDeclareBody, hx, Nat.not_lt.mpr hlen, hacc, Bool.not_true, Bool.false_eq_true, if_false]
  rw [if_neg]
  · cases leastFrom (fun n => !thas w.plain.windows n) 64 0 <;> rfl
  · rw [Bool.not_eq_true, List.any_eq_false]
    intro i hi
    cases hg : tget w.plain.granules (x.g + i) with
    | none => exact Bool.false_ne_true
    | some g => exact Bool.eq_false_iff.mp (hopen i g (List.mem_range.mp hi) hg)

/-! ### WINDOW_SEAL, WINDOW_REOPEN, WINDOW_CLOSE (R169, R568) -/

section windowBodies

variable {w : State} {c : RunCmd} {x : WeightWin} (hx : tget w.plain.windows (arg c 0) = some x) (hmid : x.master = c.mid)
include hx hmid

theorem windowFor_owned : windowFor w c = some x := by
  simp only [windowFor, hx, Option.bind_some, hmid, if_true]

theorem windowSealBody_eq : windowSealBody w c =
    if x.kind = .ingest ∧ x.state = .filling then complete (sealWindow w (arg c 0) x) c rcDone []
    else failWith w c rcConflict := by
  simp only [windowSealBody, windowFor_owned hx hmid]

theorem windowReopenBody_eq : windowReopenBody w c =
    if x.kind = .ingest ∧ (x.state = .ready ∨ x.state = .failed) then
      complete (winMod (emptyStaging w x) (arg c 0) (fun w => { w with state := .filling, covered := [], part := [] })) c
        rcDone []
    else failWith w c rcConflict := by
  simp only [windowReopenBody, windowFor_owned hx hmid]

theorem windowCloseBody_eq : windowCloseBody w c =
    if x.state = .encoding then failWith w c rcConflict else complete (closeWindow w (arg c 0) x) c rcDone [] := by
  simp only [windowCloseBody, windowFor_owned hx hmid]

end windowBodies

/-- A window that is closed is no longer in the table (R169). -/
theorem closeWindow_gone (s : State) (n : Nat) (x : WeightWin) : tget (closeWindow s n x).plain.windows n = none :=
  tget_tdel_self _ _

/-! ### Plain reads, and those that lie in one window (R171, R174, R313, R320, R468) -/

section plainReads

variable {s : State} {mid off n : Nat}

theorem exec_weightWindowRead {path : PlainPath} (hserved : tierServed s = true) (hwin : (windowAt s off).isSome = true)
    (hn : 0 < n) : exec (.weightWindowRead mid path off n) s =
      .next (plainRead s mid (pathTo path mid).1 (pathTo path mid).2 off n) :=
  if_pos ⟨hserved, hwin, hn⟩

section

variable {dest : ReplyTo} {path : Nat}

theorem plainRead_allowed (hallow : plainAllowed (leaveSleep s) mid off n false = true) :
    plainRead s mid dest path off n = serveRead (granTouch (leaveSleep s) off n)
      { mid := mid, dest := dest, die := replyDie (leaveSleep s) dest, off := off, len := n, write := none } :=
  if_pos hallow

theorem plainRead_refused (hdeny : plainAllowed (leaveSleep s) mid off n false = false) :
    plainRead s mid dest path off n = replyRead (logRefused (leaveSleep s) mid (daMk 8 off) path rcNotPermitted) dest off
      (List.replicate n 0xFF) (allLines off n) 0x20 :=
  if_neg (Bool.eq_false_iff.mp hdeny)

end

/-- A read that waits behind none and whose path is open answers what its lines hold, when none of them waits. -/
theorem serveRead_gets {r : CacheWait} {t : State} {b : Bytes} {bad : List Nat} (hbehind : behindWait s r.off r.len false = false)
    (hpath : plainOpen s r = true) (hget : plainGet r.die r.stalled r.forms r.len s r.off r.len = (t, some (b, bad))) :
    serveRead s r = replyRead (chargeHostTx t 2 r.mid r.len) r.dest r.off b (bad.map (· - r.off / 64)) 0 := by
  simp only [serveRead, hbehind, hpath, hget, Bool.not_true, Bool.or_self, Bool.false_eq_true, if_false]

/-- Nothing is left to read. -/
theorem plainGet_done {d : Die} {counted : Bool} {forms : List (Nat × Bytes × Bool)} (fuel : Nat) :
    plainGet d counted forms fuel s off 0 = (s, some ([], [])) := by
  cases fuel <;> rfl

/-- A read that ends in the window where it begins carries that window's bytes, in one piece. -/
theorem plainGet_window {d : Die} {counted : Bool} {i : Nat} {x : WeightWin} {t : State} {b : Bytes} {bad : Bool} (hn : 0 < n)
    (hwin : windowAt s off = some (i, x)) (hin : n ≤ (x.g + x.count) * gib - off) (hbytes : windowBytes s x off n = (t, b, bad)) :
    plainGet d counted [] n s off n = (charges t (tierCross x.half d) 2 (roundUp n 64),
      some (b, if bad then (allLines off n).map (· + off / 64) else [])) := by
  obtain ⟨fuel, rfl⟩ := Nat.exists_eq_add_one.mpr hn
  have hchunk : winChunk x off (fuel + 1) = fuel + 1 := Nat.min_eq_left hin
  simp only [plainGet, hwin, hchunk, List.find?_nil, hbytes, Nat.sub_self, plainGet_done, List.append_nil,
    Nat.add_one_ne_zero, if_false]

end plainReads

/-- A window without a coded form shows poison alone (R172, R174). -/
theorem windowBytes_uncoded {s : State} {x : WeightWin} {off n : Nat} (hform : windowForm s x = none) :
    windowBytes s x off n = (s, zeros n, true) := by
  simp only [windowBytes, hform]

/-- Settles O33: each clause is the rule above for the branch that its hypotheses name. -/
theorem weightWindows : Obligations.WeightWindows := by
  refine ⟨?declared, ?sealed, ?reopened, ?closed, ?read, fun s x off n => windowBytes_uncoded⟩
  case declared =>
    rintro s _ src c x n h rfl hx hlen hacc hopen
    rw [exec_windowDeclare h, windowDeclareBody_admitted hx hlen hacc hopen]
    refine ⟨fun hfree hnum => ?_, fun htaken => ?_⟩
    · rw [if_neg, hnum]
      · rfl
      · simpa using hfree
    · rw [if_pos]
      simpa using htaken
  case sealed =>
    rintro s _ src c x h rfl hx hmid hkind
    rw [exec_windowSeal h, windowSealBody_eq hx hmid]
    exact ⟨fun hfill => congrArg _ (if_pos ⟨hkind, hfill⟩), fun hother => congrArg _ (if_neg (fun hs => hother hs.2))⟩
  case reopened =>
    rintro s _ src c x h rfl hx hmid hkind
    rw [exec_windowReopen h, windowReopenBody_eq hx hmid]
    refine ⟨fun hover => congrArg _ (if_pos ⟨hkind, hover⟩), fun hbusy => congrArg _ (if_neg ?_)⟩
    rintro ⟨-, hover⟩
    rcases hbusy with hstate | hstate <;> simp [hstate] at hover
  case closed =>
    rintro s _ src c x h rfl hx hmid
    rw [exec_windowClose h, windowCloseBody_eq hx hmid]
    exact ⟨fun henc => congrArg _ (if_pos henc), fun hrest => congrArg _ (if_neg hrest), closeWindow_gone _ _ _⟩
  case read =>
    rintro s _ t mid path off n i x b bad hserved rfl hwin hn
    rw [exec_weightWindowRead hserved hwin hn]
    refine ⟨fun hallow hbehind hpath hat hin hbytes => congrArg _ ?_, fun hdeny => congrArg _ (plainRead_refused hdeny)⟩
    rw [plainRead_allowed hallow]
    exact serveRead_gets hbehind hpath (plainGet_window hn hat hin hbytes)

end Sys2Proof.Machine
end

section
/-! SUPPORT. What a vector unit's step does in each of its branches, NaN operands of sums and products, and the statement on them
(R202, R203, R208 to R213, R245, R252, R649, R668, R738). -/

namespace Sys2Proof.Machine

/-! ### A released step while the engine clocks do not run (R252, R668) -/

theorem runStep_wakes {s : State} {n op : Nat} {v : Volume} {x : Ctx} {st : VStep}
    (body : State → Volume → Ctx → VStep → State) (hclk : clocksRun s = false) (h : Released s n op v x st) :
    runStep s n op body = startWake s := by
  have hsettle := settleLate_of_released h
  obtain ⟨hrel, -, hopen⟩ := h
  simp only [runStep, hsettle, hrel, hopen, hclk, Bool.not_true, Bool.false_eq_true, if_false]

/-! ### The branches of a VU step (R208, R257, R649, R738) -/

section vuBody

variable {s t : State} {n : Nat} {v : Volume} {x : Ctx} {st : VStep} {ins : List VecIn} {outs : VStep → List Nat}
  {f : Volume → Ctx → VStep → List VecIn → List (Nat × List (List Nat))} (hhomes : ∀ i ∈ outs st, homesFree s v x i = true)

theorem any_not_homesFree {is : List Nat} (h : ∀ i ∈ is, homesFree s v x i = true) :
    is.any (fun i => !homesFree s v x i) = false := by
  simpa only [List.any_eq_false, Bool.not_eq_true', Bool.not_eq_false] using h

theorem homesFree_outC (h : homesFree s v x st.opc = true) : ∀ i ∈ outC st, homesFree s v x i = true :=
  List.forall_mem_singleton.mpr h

include hhomes

theorem vuBody_refused {a rc : Nat} (haddr : refusedAddr s v x st = some (a, rc)) :
    vuBody n outs f s v x st = refuseStep s n x a rc := by
  simp only [vuBody, any_not_homesFree hhomes, haddr, Bool.false_eq_true, if_false]

theorem vuBody_poisoned (haddr : refusedAddr s v x st = none) (hread : readVecs s n v (stepInputs st) = (t, ins, true)) :
    vuBody n outs f s v x st = poisonStep t n v x (outs st) := by
  simp only [vuBody, any_not_homesFree hhomes, haddr, hread, Bool.false_eq_true, if_true, if_false]

theorem vuBody_writes (haddr : refusedAddr s v x st = none) (hread : readVecs s n v (stepInputs st) = (t, ins, false)) :
    vuBody n outs f s v x st = doneStep (writeRows t n v x st (f v x st ins)) n x rcDone := by
  simp only [vuBody, any_not_homesFree hhomes, haddr, hread, Bool.false_eq_true, if_false]

/-- Inputs that are not poison: a released step writes what its function gives. -/
theorem runStep_vuBody_writes {op : Nat} (hclk : clocksRun s = true) (haddr : refusedAddr s v x st = none)
    (hread : readVecs s n v (stepInputs st) = (t, ins, false)) (hrel : Released s n op v x st) :
    runStep s n op (vuBody n outs f) = doneStep (writeRows t n v x st (f v x st ins)) n x rcDone :=
  (runStep_released _ hclk hrel).trans (vuBody_writes hhomes haddr hread)

end vuBody

/-- TOPK on a clean input writes the best pairs in rank order (R213). -/
theorem topkBody_writes {s t : State} {n : Nat} {v : Volume} {x : Ctx} {st : VStep} {ins : List VecIn}
    (haddr : refusedAddr s v x st = none) (hread : readVecs s n v (stepInputs st) = (t, ins, false)) :
    topkBody n s v x st =
      let pairs := ((vecAll (vin ins 0)).zipIdx).map (fun p => (if isNanW p.1 then nanWord else p.1, (st.param + p.2) % 2 ^ 32))
      doneStep (putOper t n v x st.opc [(0, candBytes ((topCands st.opd pairs).take (operOf v st.opc).length))]) n x rcDone := by
  simp only [topkBody, haddr, hread, Bool.false_eq_true, if_false]

/-! ### NaN operands (R203) -/

theorem fp32_of_isNanW {w : Nat} (h : isNanW w = true) : fp32 w = .nan := by
  have hw : 0x7F800000 < w % 2 ^ 31 := of_decide_eq_true h
  have hexp : w / 2 ^ 23 % 256 = 255 := by omega
  have hfrac : w % 2 ^ 23 ≠ 0 := by omega
  simp only [fp32, hexp, hfrac, if_true, if_false]

section nan

variable {a : Nat} (b : Nat) (h : fp32 a = .nan)
include h

theorem fpAdd_nan_left : fpAdd a b = nanWord := by simp only [fpAdd, h]

theorem fpMul_nan_left : fpMul a b = nanWord := by simp only [fpMul, h]

theorem fpAdd_nan_right : fpAdd b a = nanWord := by
  cases hb : fp32 b <;> simp only [fpAdd, h, hb]

theorem fpMul_nan_right : fpMul b a = nanWord := by
  cases hb : fp32 b <;> simp only [fpMul, h, hb]

end nan

/-- Settles O37: a released step runs its body, and each clause is the branch above that its hypotheses name. -/
theorem vectorSteps : Obligations.VectorSteps := by
  refine ⟨?clean, ?bad, ?asleep, ?nan⟩
  case clean =>
    intro s t n v x st ins hclk hread haddr hfree
    have hout := homesFree_outC hfree
    refine ⟨?elemwise, ?rmsnorm, ?layernorm, fun hrel hlse => ?softmax, ?rope, ?act, ?merge, fun hrel => ?topk⟩
    case softmax =>
      have houts : ∀ i ∈ [st.opc, st.opd], homesFree s v x i = true := by simp [hfree, hlse]
      exact congrArg _ (runStep_vuBody_writes houts hclk haddr hread hrel)
    case topk => exact congrArg _ ((runStep_released _ hclk hrel).trans (topkBody_writes haddr hread))
    all_goals exact fun hrel => congrArg _ (runStep_vuBody_writes hout hclk haddr hread hrel)
  case bad =>
    intro s t n v x st ins hclk hrel hfree
    have hout := homesFree_outC hfree
    have hrun := runStep_released (vuBody n outC (fun _ _ st ins => [(st.opc, [elemRows (stFunc st) st.param ins])])) hclk hrel
    exact ⟨fun haddr hread => congrArg _ (hrun.trans (vuBody_poisoned hout haddr hread)),
      fun a rc haddr => congrArg _ (hrun.trans (vuBody_refused hout haddr))⟩
  case asleep =>
    exact fun s n v x st hclk => ⟨fun hrel => congrArg _ (runStep_wakes _ hclk hrel),
      fun hrel => congrArg _ (runStep_wakes _ hclk hrel)⟩
  case nan =>
    intro a b ha
    have h := fp32_of_isNanW ha
    exact ⟨fpAdd_nan_left b h, fpAdd_nan_right b h, fpMul_nan_left b h, fpMul_nan_right b h⟩

end Sys2Proof.Machine
end

section
/-! SUPPORT. What the steps of a closed loop do in each of their branches, and the statement on them (R214 to R217, R236, R237, R253,
R263, R273 to R275, R483). -/

namespace Sys2Proof.Machine

/-- A released step that the scheduler executes itself runs (R252). -/
theorem schedStep_released {s : State} {n op : Nat} {v : Volume} {x : Ctx} {st : VStep}
    (body : State → Volume → Ctx → VStep → State) (h : Released s n op v x st) : schedStep s n op body = body s v x st := by
  have hsettle := settleLate_of_released h
  obtain ⟨hrel, -, hopen⟩ := h
  simp only [schedStep, hsettle, hrel, hopen, if_true]

/-! ### EMBED (R217) -/

section embed

variable {s t : State} {n : Nat} {remote : RemoteRead} {v : Volume} {x : Ctx} {st : VStep} {sl : VSlot} {m : Tensor} {b : Bytes}
  (haddr : refusedAddr s v x st = none) (hsl : (stepSlot v.opers st).bind (fun i => v.slots[i]?) = some sl)
  (hok : slotSpoilt s sl = false) (htok : x.embedTok = none) (hread : readOper s n v st.opb remote = (t, b, false))
  (hm : tget t.tensors sl.tensor = some m)
include haddr hsl hok htok hread hm

theorem embedBody_badToken (hrows : m.params.rows ≤ leVal (fit 4 b)) : embedBody n remote s v x st = doneStep t n x rcBadField := by
  simp only [embedBody, haddr, hsl, hok, htok, hread, hm, hrows, Bool.false_eq_true, if_true, if_false]

theorem embedBody_token (hrows : leVal (fit 4 b) < m.params.rows) :
    embedBody n remote s v x st =
      embedTiled n (ctxMod t n (fun x => { x with embedTok := some (leVal (fit 4 b)) })) v x st m (leVal (fit 4 b)) := by
  simp only [embedBody, haddr, hsl, hok, htok, hread, hm, Nat.not_le.mpr hrows, Bool.false_eq_true, if_false]

end embed

theorem filterMap_eq_of_map_eq_some {α β : Type} {l : List α} {g : α → Option β} {r : List β} (h : l.map g = r.map some) :
    l.filterMap g = r := by
  calc l.filterMap g = (l.map g).filterMap id := by rw [List.filterMap_map]; rfl
    _ = r := by rw [h, List.filterMap_map]; exact List.filterMap_some

/-- With every tile of the token RESIDENT and sound, EMBED writes the row (R217, R218). -/
theorem embedTiled_resident {s u w : State} {n tok : Nat} {v : Volume} {x : Ctx} {st : VStep} {t : Tensor}
    {keys : List (Nat × FolioId)} {got : List (List Nat × Nat × Nat)}
    (hkeys : (embedTiles t.params st.param tok).map
      (fun i => (embedHolder s (.tile t.id i)).map (fun m => (m, FolioId.tile t.id i))) = keys.map some)
    (hu : u = keys.foldl copyWords s) (hres : ∀ k ∈ keys, (tget u.eng.copies k).map (·.state) = some .resident)
    (hw : w = noteTensor u n t.id) (hgot : keys.map (fun k => embedRow t.params (tok % 128) (copyBytes w k)) = got.map some) :
    let words := ((got.map (·.1)).flatten).take t.params.cols
    let clamps := (got.map (·.2.1)).foldl (· + ·) 0
    let z := satCount (tensorEvents w t.id { wsat := clamps, wflush := (got.map (·.2.2)).foldl (· + ·) 0 }) n v (.tensor t.id) clamps
    embedTiled n s v x st t tok = doneStep (writeEncoded z n v x st st.opc
      { pieces := [(0, (words.take (operOf v st.opc).length).flatMap (leBytes 4))] } words.length false) n x rcDone := by
  have hlen : keys.length = (embedTiles t.params st.param tok).length := by
    simpa only [List.length_map] using (congrArg List.length hkeys).symm
  have hholders := filterMap_eq_of_map_eq_some hkeys
  have hwait : keys.any (fun k => (tget u.eng.copies k).map (·.state) != some .resident) = false := by
    simpa only [List.any_eq_false, bne_iff_ne, ne_eq, Decidable.not_not] using hres
  have hsound : (keys.map (fun k => (k, embedRow t.params (tok % 128) (copyBytes w k)))).filter (fun r => r.2.isNone) = [] := by
    simp only [List.filter_eq_nil_iff, List.forall_mem_map]
    intro k hk
    obtain ⟨r, -, hr⟩ := List.mem_map.mp (hgot ▸ List.mem_map_of_mem hk)
    simp only [← hr, Option.isNone_some, Bool.false_eq_true, not_false_eq_true]
  have hrows := filterMap_eq_of_map_eq_some hgot
  simp only [embedTiled, List.filterMap_map, List.length_map, Function.comp_def, id_eq, hholders, hlen,
    Nat.lt_irrefl, ← hu, ← hw, hwait, hsound, hrows, List.isEmpty_nil, Bool.not_true, Bool.false_eq_true, if_false]

/-! ### SAMPLE (R214 to R216, R275) -/

theorem exec_sample {s : State} {n : Nat} {v : Volume} {x : Ctx} {st : VStep} (remote : RemoteRead) (hclk : clocksRun s = true)
    (h : Released s n opSample v x st) (hhalt : haltComing s x = false) :
    exec (.sample n remote) s = .next (sampleBody n remote s v x st) := by
  have hx := ctx_of_releasable h.1
  have hrun := runStep_released (sampleBody n remote) hclk h
  show execSample n remote s = _
  simp only [execSample, hx, hhalt, hrun, Bool.false_eq_true, if_false]

section sample

variable {s t u : State} {n : Nat} {remote : RemoteRead} {v : Volume} {x : Ctx} {st : VStep} {cb rb : Bytes}
  (hlead : x.lead = none) (haddr : refusedAddr s v x st = none) (hcands : readOper s n v st.opa remote = (t, cb, false))
  (hrec : readOper t n v st.opb remote = (u, rb, false))
include hlead haddr hcands hrec

theorem sampleBody_badRecord (hsm : parseSampler rb = none) :
    sampleBody n remote s v x st = stopCtx (doneStep u n x rcBadField) n .fault := by
  simp only [sampleBody, noToken, hlead, haddr, hcands, hrec, hsm, Option.isSome_none, Bool.or_self, Bool.false_eq_true, if_false]

theorem sampleBody_allNan {sm : Sampler} (hsm : parseSampler rb = some sm)
    (hall : (topCands sm.topk (candsOf cb)).all (fun c => isNanW c.1) = true) :
    sampleBody n remote s v x st = stopCtx (doneStep u n x rcPoisoned) n .fault := by
  simp only [sampleBody, noToken, hlead, haddr, hcands, hrec, hsm, hall, Option.isSome_none, Bool.or_self, Bool.false_eq_true,
    if_true, if_false]

theorem sampleBody_draws {sm : Sampler} (hsm : parseSampler rb = some sm)
    (hall : (topCands sm.topk (candsOf cb)).all (fun c => isNanW c.1) = false) :
    sampleBody n remote s v x st = sampleDone (drawToken u sm x.job.slip.seq x.iter).1 n v x
      (pickCand sm (topCands sm.topk (candsOf cb)) (drawToken u sm x.job.slip.seq x.iter).2).2 := by
  simp only [sampleBody, hlead, haddr, hcands, hrec, hsm, hall, Option.isSome_none, Bool.or_self, Bool.false_eq_true, if_false]

end sample

section ring

variable {n tok : Nat} {v : Volume} {x : Ctx} (s : State)

/-- Its ring entry is taken: the token is held. -/
theorem sampleDone_holds (hloop : (loopOf v.steps).isSome = true) (hfull : x.job.slip.ringLen ≤ x.iter - x.consumed) :
    sampleDone s n v x tok = passStep (ctxMod s n (fun x => { x with
      pending := x.pending ++ [{ step := x.pc, iter := x.iter, due := 0, at_ := s.now }], held := some tok })) n := by
  have hfree : ringFree x x.iter = false := decide_eq_false (Nat.not_lt.mpr hfull)
  simp only [sampleDone, hloop, hfree, Bool.not_false, and_self, if_true]

theorem sampleDone_emits (hroom : x.iter - x.consumed < x.job.slip.ringLen) :
    sampleDone s n v x tok = passStep (emitToken s n v x.pc x.iter tok) n := by
  have hfree : ringFree x x.iter = true := decide_eq_true hroom
  simp only [sampleDone, hfree, Bool.not_true, Bool.false_eq_true, and_false, if_false]

end ring

/-! ### CONSUMED (R475, R483) -/

theorem exec_consumedRead {s : State} {n tok : Nat} {x : Ctx} (hx : tget s.eng.ctxs n = some x) (hheld : x.held = some tok)
    (hout : x.readOutstanding = false) (hsil : x.silenced = false) (hmay : readMay s x.job.poster = true)
    (hdue : ∀ t, x.consumedReadAt = some t → t + 16000 ≤ s.now) :
    exec (.consumedRead n) s = .next (ctxMod (ringReadStart s x.job.poster x.job.slip.ring) n (fun x => { x with
      consumedReadAt := some s.now, readOutstanding := true })) := by
  show execConsumedRead n s = _
  cases hat : x.consumedReadAt with
  | none => simp only [execConsumedRead, hx, hheld, hout, hsil, hmay, hat, Option.isSome_some, Bool.not_false, and_self, if_true]
  | some t =>
    have hgap : t + consumedGap ≤ s.now := hdue t hat
    simp only [execConsumedRead, hx, hheld, hout, hsil, hmay, hat, hgap, decide_true, Option.isSome_some, Bool.not_false, and_self,
      if_true]

section consumedReadReturn

variable {s : State} {n : Nat} {v : Volume} {x : Ctx} (hx : tget s.eng.ctxs n = some x) (hout : x.readOutstanding = true)
  (hvol : ctxVol s x = some v)
include hx hout hvol

theorem exec_consumedReadReturn_data (b : Bytes) :
    exec (.consumedReadReturn n (.data b)) s =
      .next (consumedValue (readEnd s x.job.poster x.job.slip.ring (.data b)) n v (leVal (fit 8 b))) := by
  show execConsumedReadReturn n (.data b) s = _
  simp only [execConsumedReadReturn, hx, hout, hvol]

theorem exec_consumedReadReturn_timeout :
    exec (.consumedReadReturn n .timeout) s = .next (consumedFail (readEnd s x.job.poster x.job.slip.ring .timeout) n) := by
  show execConsumedReadReturn n .timeout s = _
  simp only [execConsumedReadReturn, hx, hout, hvol]

end consumedReadReturn

/-! ### LOOP, ROUTE, a skipped conditional step (R236, R237, R253, R263, R273) -/

theorem loopBody_next {s : State} {n : Nat} {v : Volume} {x : Ctx} {st : VStep} (hheld : heldSample x = none) :
    loopBody n s v x st =
      let t := finishStep s n x.iter x.pc rcDone rcDone
      ctxMod { t with eng := { t.eng with releasePointer := (t.eng.releasePointer + 1) % 64 } } n (fun x => { x with
        iter := x.iter + 1, pc := st.param, routers := [], embedTok := none }) := by
  simp only [loopBody, hheld, Option.isSome_none, Bool.false_eq_true, if_false]

theorem loopBody_waits {s : State} {n : Nat} {v : Volume} {x : Ctx} {st : VStep} (hheld : heldSample x ≠ none) :
    loopBody n s v x st = s := if_pos (Option.isSome_iff_ne_none.mpr hheld)

section route

variable {s t : State} {n : Nat} {v : Volume} {x : Ctx} {st : VStep} {b : Bytes} (haddr : refusedAddr s v x st = none)
  (hread : readOper s n v st.opa .none = (t, b, false))
include haddr hread

theorem routeBody_selects (hids : ∀ i ∈ ((candsOf b).take st.batch).map (·.2), i < 4096) :
    routeBody n s v x st = doneStep (ctxMod t n (fun x => { x with
      routers := tset x.routers (st.param % 8) (((candsOf b).take st.batch).map (·.2)) })) n x rcDone := by
  have hany : (((candsOf b).take st.batch).map (·.2)).any (fun i => decide (4096 ≤ i)) = false := by
    simpa only [List.any_eq_false, decide_eq_true_eq, Nat.not_le] using hids
  simp only [routeBody, setRouter, haddr, hread, hany, Bool.false_eq_true, if_false]

theorem routeBody_badIndex (hids : ∃ i ∈ ((candsOf b).take st.batch).map (·.2), 4096 ≤ i) :
    routeBody n s v x st = doneStep (ctxMod t n (fun x => { x with routers := tset x.routers (st.param % 8) [] })) n x rcBadField := by
  have hany : (((candsOf b).take st.batch).map (·.2)).any (fun i => decide (4096 ≤ i)) = true := by
    simpa only [List.any_eq_true, decide_eq_true_eq] using hids
  simp only [routeBody, setRouter, haddr, hread, hany, Bool.false_eq_true, if_true, if_false]

end route

theorem exec_conditionalSkip {s : State} {n : Nat} {v : Volume} {x : Ctx} {st : VStep} (hx : tget s.eng.ctxs n = some x)
    (hvol : ctxVol s x = some v) (hst : v.steps[x.pc]? = some st) (hstop : x.stop = none) (hrun : s.ras.moduleFault = false)
    (hlate : isLate s x = false) (hwait : waitOk v x st = true) (hcond : condState v x x.iter x.pc st.cond = some false) :
    exec (.conditionalSkip n) s = .next (doneStep s n x rcDone) := by
  have hsettle : settleLate s n = s := by simp only [settleLate, hx, hlate, Bool.false_eq_true, if_false]
  show execConditionalSkip n s = _
  simp only [execConditionalSkip, hsettle, hx, hvol, hst, hstop, hrun, hwait, hcond, Option.bind_some, Option.map_some,
    Option.isNone_none, Bool.not_false, and_self, if_true]

/-- Settles O39: a released step runs its body, and each clause is the branch above that its hypotheses name. -/
theorem tokenSteps : Obligations.TokenSteps := by
  refine ⟨?embed, fun s u w n tok v x st t keys got => embedTiled_resident, ?sample, ?ring,
    fun s n tok x => exec_consumedRead, ?returned, ?loop, ?route, fun s n v x st => exec_conditionalSkip⟩
  case embed =>
    intro s t n remote v x st sl m b hclk hrel haddr hsl hok htok hread hm
    have hrun := runStep_released (embedBody n remote) hclk hrel
    exact ⟨fun hrows => congrArg _ (hrun.trans (embedBody_badToken haddr hsl hok htok hread hm hrows)),
      fun hrows => congrArg _ (hrun.trans (embedBody_token haddr hsl hok htok hread hm hrows))⟩
  case sample =>
    intro s t u n remote v x st cb rb hclk hrel hhalt hlead haddr hcands hrec
    rw [exec_sample remote hclk hrel hhalt]
    exact ⟨fun hsm => congrArg _ (sampleBody_badRecord hlead haddr hcands hrec hsm),
      fun sm hsm hall => congrArg _ (sampleBody_allNan hlead haddr hcands hrec hsm hall),
      fun sm hsm hall => congrArg _ (sampleBody_draws hlead haddr hcands hrec hsm hall)⟩
  case ring => exact fun s n tok v x hloop => ⟨sampleDone_holds s hloop, sampleDone_emits s⟩
  case returned =>
    exact fun s n v x hx hout hvol => ⟨exec_consumedReadReturn_data hx hout hvol, exec_consumedReadReturn_timeout hx hout hvol⟩
  case loop =>
    intro s n v x st hrel
    have hrun := schedStep_released (loopBody n) hrel
    exact ⟨fun hheld => congrArg _ (hrun.trans (loopBody_next hheld)), fun hheld => congrArg _ (hrun.trans (loopBody_waits hheld))⟩
  case route =>
    intro s t n v x st b hrel haddr hread
    have hrun := schedStep_released (routeBody n) hrel
    exact ⟨fun hids => congrArg _ (hrun.trans (routeBody_selects haddr hread hids)),
      fun hids => congrArg _ (hrun.trans (routeBody_badIndex haddr hread hids))⟩

end Sys2Proof.Machine
end

section
/-! SUPPORT. What a reduce flit, a message of a shared run and a forwarded desk command do in each of their branches, and the
statement on them (R219, R220, R277, R278, R450 to R452, R538, R539). -/

namespace Sys2Proof.Machine

/-! ### RED (R220, R451, R452) -/

/-- What a search finds passes its test. -/
theorem leastFrom_holds {q : Nat → Bool} {fuel i k : Nat} (h : leastFrom q fuel i = some k) : q k = true := by
  induction fuel generalizing i with
  | zero => cases h
  | succ fuel ih =>
    unfold leastFrom at h
    split at h
    · cases h
      assumption
    · exact ih h

/-- A grant is to a port that is ready. -/
theorem redReady_of_redGrant {s : State} {h : Half} {p : Nat} (hgrant : redGrant s h = some p) : redReady s h p = true := by
  obtain ⟨k, hk, rfl⟩ := Option.map_eq_some_iff.mp hgrant
  have hready := leastFrom_holds hk
  exact hready

section red

variable {s t : State} {p : Nat} {f : Flit} {a : RedArg} (hhead : inboxHead s p (fun f => f.type == 8) = some f)
  (ha : a = parseRed f.arg)
include hhead ha

/-- A flit of a step not yet awaited is not granted while the reduce buffer has no room for it. -/
theorem redGrant_ne_of_full (hawaited : redAwaited s a = false) (hfull : 2 ^ 21 < redHeld s (redHalf s p a) + f.len) :
    redGrant s (redHalf s p a) ≠ some p := by
  intro hgrant
  have hready := redReady_of_redGrant hgrant
  simp only [redReady, hhead, ← ha, hawaited, Bool.false_or, Bool.and_eq_true, decide_eq_true_eq] at hready
  exact absurd hready.2 (Nat.not_le.mpr hfull)

theorem exec_red_waits (hgrant : redGrant s (redHalf s p a) ≠ some p) : exec (.red p) s = .next s := by
  show execRed p s = _
  simp only [execRed, hhead, ← ha, hgrant, if_false]

theorem exec_red_granted (hgrant : redGrant s (redHalf s p a) = some p) : exec (.red p) s = .next (redJoin (inboxPop s p) p f a) := by
  show execRed p s = _
  simp only [execRed, hhead, ← ha, hgrant, if_true]

end red

/-- The flit of a sender that is no member, or has sent its share, is dropped. -/
theorem redJoin_dropped {t : State} {p n : Nat} {f : Flit} {a : RedArg}
    (hn : n = t.link.redSeen.countP (· == (f.src, a.ctx, a.step, a.iter, a.blk)))
    (hdrop : redTimes t a ≤ n ∨ redMember t a f.src = false) : redJoin t p f a = t := by
  subst hn
  exact if_pos (by simpa only [Bool.not_eq_true'] using hdrop)

/-- The flit of a member joins what is held, and its run, where it is known, is tried at once. -/
theorem redJoin_joins {t u : State} {p n : Nat} {f : Flit} {a : RedArg} {b : RedBlock}
    (hn : n = t.link.redSeen.countP (· == (f.src, a.ctx, a.step, a.iter, a.blk))) (htimes : n < redTimes t a)
    (hmember : redMember t a f.src = true)
    (hb : b = { node := f.src, ctx := a.ctx, step := a.step, iter := a.iter, blk := a.blk, nth := n, half := redHalf t p a,
                data := f.payload.take f.len })
    (hu : u = { t with
      link := { t.link with reduce := t.link.reduce ++ [b], redSeen := t.link.redSeen ++ [(f.src, a.ctx, a.step, a.iter, a.blk)] }
      eng := { t.eng with reducePointer := t.eng.reducePointer.mod (redHalf t p a) (fun x => (x + 1) % 8) } }) :
    redJoin t p f a = (redRun u a).elim u (fun e => relayTryAll u e.1) := by
  subst hn hb
  simp only [redJoin, Nat.not_le.mpr htimes, hmember, Bool.not_true, Bool.false_eq_true, or_self, if_false, ← hu]
  cases redRun u a <;> rfl

/-! ### START (R277, R278) -/

section start

variable {s t u w : State} {r : RemoteRead} {m : Message} {ctx : Nat} (htake : takeRunMsg s 1 = some (m, t))
  (hu : u = startWake (leaveSleep t)) (hctx : ctx = leAt m.body 4 1 % 64)
include htake hu hctx

theorem exec_msgStart_noVolume (hvol : memberVolume u (leAt m.body 6 2 % 4096) (leAt m.body 0 4) = none) :
    exec (.msgStart r) s = .next (memberRefuses u m.node ctx) := by
  show execMsgStart r s = _
  simp only [execMsgStart, htake, ← hu, ← hctx, hvol]

variable {v : Volume} (hvol : memberVolume u (leAt m.body 6 2 % 4096) (leAt m.body 0 4) = some v)
include hvol

theorem exec_msgStart_noBlock (hblock : takeBlock u v.master (leAt m.body 0x30 8) v true r = (w, none)) :
    exec (.msgStart r) s = .next (memberRefuses w m.node ctx) := by
  show execMsgStart r s = _
  simp only [execMsgStart, htake, ← hu, ← hctx, hvol, hblock]

variable {b : Bytes} {bad : Bool} {k : Taken} (hblock : takeBlock u v.master (leAt m.body 0x30 8) v true r = (w, some (b, bad)))
  (hk : k = memberTaken w v m.body b)
include hblock hk

theorem exec_msgStart_refuses
    (hno : bad = true ∨ anyFenced w = true ∨ memberBlockOk w v b k.slip.entry = false ∨ neverFits w k.reserve = true) :
    exec (.msgStart r) s = .next (memberRefuses w m.node ctx) := by
  have hno' : (bad || anyFenced w || !memberBlockOk w v b k.slip.entry || neverFits w k.reserve) = true := by
    simpa only [Bool.or_eq_true, Bool.not_eq_true', or_assoc] using hno
  show execMsgStart r s = _
  simp only [execMsgStart, htake, ← hu, ← hctx, hvol, hblock, ← hk, hno', if_true]

variable (hbad : bad = false) (hfence : anyFenced w = false) (hok : memberBlockOk w v b k.slip.entry = true)
  (hfits : neverFits w k.reserve = false)
include hbad hfence hok hfits

omit hctx in
theorem exec_msgStart_waits (hplace : placeRun w v k.reserve = none) : exec (.msgStart r) s = .next s := by
  show execMsgStart r s = _
  simp only [execMsgStart, htake, ← hu, hvol, hblock, ← hk, hbad, hfence, hok, hfits, hplace, Bool.not_true, Bool.or_self,
    Bool.false_eq_true, if_false]

theorem exec_msgStart_runs {n x y : Nat} (hplace : placeRun w v k.reserve = some (n, x, y)) :
    exec (.msgStart r) s = .next { w with
      eng := { w.eng with ctxs := tset w.eng.ctxs n { newCtx k x y with lead := some m.node, leadCtx := ctx } } } := by
  show execMsgStart r s = _
  simp only [execMsgStart, htake, ← hu, ← hctx, hvol, hblock, ← hk, hbad, hfence, hok, hfits, hplace, Bool.not_true, Bool.or_self,
    Bool.false_eq_true, if_false]

end start

/-! ### TOKEN and STOP (R277, R278) -/

section token

variable {s t : State} {m : Message} (htake : takeRunMsg s 2 = some (m, t))
include htake

theorem exec_msgToken_member {n : Nat} (hn : memberCtx t m.node (leAt m.body 0 1 % 64) = some n) :
    exec .msgToken s = .next (ctxMod t n (fun x => { x with tokIn := tset x.tokIn (leAt m.body 4 4) (leAt m.body 8 4) })) := by
  show execMsgToken s = _
  simp only [execMsgToken, htake, hn]

theorem exec_msgToken_stranger (hn : memberCtx t m.node (leAt m.body 0 1 % 64) = none) : exec .msgToken s = .next t := by
  show execMsgToken s = _
  simp only [execMsgToken, htake, hn]

end token

section stop

variable {s t : State} {m : Message} {e : EndCode} {ctx : Nat} (htake : takeRunMsg s 3 = some (m, t))
  (he : e = codeEnd (leAt m.body 8 1)) (hctx : ctx = leAt m.body 0 1 % 64)
include htake he hctx

theorem exec_msgStop_member {n : Nat} (hn : memberCtx t m.node ctx = some n) : exec .msgStop s = .next (stopCtx t n e) := by
  show execMsgStop s = _
  simp only [execMsgStop, htake, ← he, ← hctx, hn]

variable (hn : memberCtx t m.node ctx = none) {x : Ctx} {v : Volume} (hx : tget t.eng.ctxs ctx = some x)
include hn hx

/-- A member's refusal ends the lead's run. -/
theorem exec_msgStop_refusal (hvol : ctxVol t x = some v) (href : e = .refused) (hlead : x.lead = none)
    (hgroup : ∃ k ∈ groupOthers t v, slotNode t k = m.node) :
    exec .msgStop s =
      .next (stopCtx (ctxMod t ctx (fun x => { x with rc := if x.rc = 0 then rcPartnerAbsent else x.rc })) ctx .fault) := by
  have hany : (groupOthers t v).any (fun k => slotNode t k == m.node) = true := by
    simpa only [List.any_eq_true, beq_iff_eq] using hgroup
  show execMsgStop s = _
  simp only [execMsgStop, leadFault, htake, ← he, ← hctx, hn, hx, hvol, href, hlead, hany, Option.isNone_none, and_self, if_true]

theorem exec_msgStop_ignored (href : e ≠ .refused) : exec .msgStop s = .next t := by
  show execMsgStop s = _
  simp only [execMsgStop, htake, ← he, ← hctx, hn, hx, href, false_and, if_false]

end stop

/-! ### DESK, DESK_REPLY (R538, R539) -/

section desk

variable {s t : State} {m : Message}

section forward

variable {b : Bytes} {n : Nat} (hb : b = fit 256 (m.body.drop 4)) (hn : n = leAt m.body 0 2 % 4096)
  (htake : takeMsg s 0x20 = some (m, t))
include hb hn htake

theorem exec_desk_joins (hroom : t.cp.fwdQueue.length < 64) :
    exec .desk s = .next { t with cp := { t.cp with
      fwdQueue := t.cp.fwdQueue ++ [{ id := t.cp.nextFwd, node := n, mid := leAt m.body 2 2 % 4096, msg := b }]
      nextFwd := t.cp.nextFwd + 1 } } := by
  show execDesk s = _
  simp only [execDesk, msgDesk, htake, ← hb, ← hn, Nat.not_le.mpr hroom, if_false]

theorem exec_desk_full (hfull : 64 ≤ t.cp.fwdQueue.length) :
    exec .desk s = .next (msgSend t n 0x21 (replyBytes (msgOp b) rcNoSpace 0 0 (devNs t) [])) := by
  show execDesk s = _
  simp only [execDesk, msgDesk, msgDeskReply, htake, ← hb, ← hn, hfull, if_true]

end forward

theorem exec_deskReply (htake : takeMsg s 0x21 = some (m, t)) :
    exec .deskReply s = .next (answerForward t m.node (leAt m.body 0 2) (leAt m.body 4 2) (slice m.body 0x20 224)) := by
  show execDeskReply s = _
  simp only [execDeskReply, msgDeskReply, htake]

end desk

/-- Settles O57: each clause is the rule above for the branch that its hypotheses name. -/
theorem reduceFlitsAndRunMessages : Obligations.ReduceFlitsAndRunMessages := by
  refine ⟨?red, ?start, fun s t m => ⟨fun htake => ?token, ?stop⟩, fun s t m b n hb hn => ?desk⟩
  case red =>
    rintro s _ p n f a hhead ha rfl hn
    refine ⟨fun hawaited hfull => exec_red_waits hhead ha (redGrant_ne_of_full hhead ha hawaited hfull),
      exec_red_waits hhead ha, fun hgrant hdrop => ?dropped, fun u b hgrant htimes hmember hb hu => ?joined⟩
    case dropped => rw [exec_red_granted hhead ha hgrant, redJoin_dropped hn hdrop]
    case joined =>
      rw [exec_red_granted hhead ha hgrant, redJoin_joins hn htimes hmember hb hu]
      exact ⟨fun hrun => by rw [hrun]; rfl, fun e hrun => by rw [hrun]; rfl⟩
  case start =>
    intro s t u w r m ctx htake hu hctx
    refine ⟨exec_msgStart_noVolume htake hu hctx, fun v hvol => ⟨exec_msgStart_noBlock htake hu hctx hvol,
      fun b bad k hblock hk => ⟨exec_msgStart_refuses htake hu hctx hvol hblock hk, fun hbad hfence hok hfits => ?_⟩⟩⟩
    exact ⟨exec_msgStart_waits htake hu hvol hblock hk hbad hfence hok hfits,
      fun n x y => exec_msgStart_runs htake hu hctx hvol hblock hk hbad hfence hok hfits⟩
  case token => exact ⟨fun n => exec_msgToken_member htake, exec_msgToken_stranger htake⟩
  case stop =>
    intro e ctx htake he hctx
    exact ⟨fun n => exec_msgStop_member htake he hctx,
      fun x v hn hx hvol => ⟨exec_msgStop_refusal htake he hctx hn hx hvol, exec_msgStop_ignored htake he hctx hn hx⟩⟩
  case desk => exact ⟨exec_desk_joins hb hn, exec_desk_full hb hn, exec_deskReply⟩

end Sys2Proof.Machine
end

section
/-! SUPPORT. What a slot write, a doorbell, an admission, a deadline and the end of a call slip do in each of their branches, and
the statement on them (R247 to R249, R265, R268 to R272, R276, R478, R709, R710). -/

namespace Sys2Proof.Machine

/-! ### QUEUE_SLOT_WRITE, QUE_DOORBELL (R247, R709, R710) -/

theorem exec_queueSlotWrite_stored {s : State} {n slot off : Nat} {b : Bytes} (hslot : slot < 16) (hlen : off + b.length ≤ 64)
    (hb : b ≠ []) : exec (.queueSlotWrite n slot off b) s =
      .next (queMod s n (fun q => { q with slots := tset q.slots slot (place (tgetD q.slots slot []) off b) })) :=
  if_pos ⟨hslot, hlen, hb⟩

section doorbell

variable {s : State} {n : Nat} {value : BitVec 64} {consumed : HostRead} {input : RemoteRead} {q : Queue}
  (hq : tget s.queues n = some q)
include hq

theorem exec_queDoorbell_ignored {full : Bool} (hno : full = false ∨ value.toNat ≠ q.taken + 1) :
    exec (.queDoorbell n full value consumed input) s = .next (queIgnore s n false) := by
  have hno' : (!full || value.toNat != q.taken + 1) = true := by
    simpa only [Bool.or_eq_true, Bool.not_eq_true', bne_iff_ne] using hno
  show execQueDoorbell n full value consumed input s = _
  simp only [execQueDoorbell, hq, hno', if_true]

variable (hseq : value.toNat = q.taken + 1)
include hseq

theorem exec_queDoorbell_full (hfull : 16 ≤ q.waiting.length) :
    exec (.queDoorbell n true value consumed input) s = .next (queIgnore s n true) := by
  show execQueDoorbell n true value consumed input s = _
  simp only [execQueDoorbell, hq, hseq, hfull, Bool.not_true, bne_self_eq_false, Bool.or_self, Bool.false_eq_true, if_true,
    if_false]

/-- The call slip of the next sequence is taken, where its reads may be issued. -/
theorem exec_queDoorbell_taken {w : State} {raw : Bytes} {sl : Slip} (hroom : q.waiting.length < 16)
    (hmay : readMay s q.poster = true) (hfault : s.ras.moduleFault = false)
    (hraw : raw = fit 64 (tgetD q.slots (value.toNat % 16) [])) (hsl : sl = parseSlip raw)
    (hw : w = queMod s n (fun q => { q with taken := value.toNat })) :
    exec (.queDoorbell n true value consumed input) s =
      .next (if sl.halt then haltSlip w n q raw sl else takeSlip w n q raw sl consumed input) := by
  subst hw hsl hraw
  have hnext : (value.toNat != q.taken + 1) = false := bne_eq_false_iff_eq.mpr hseq
  show execQueDoorbell n true value consumed input s = _
  simp only [execQueDoorbell, hq, hnext, Nat.not_le.mpr hroom, hfault, hmay, Bool.not_true, Bool.or_self, Bool.false_eq_true,
    and_false, or_self, if_false]

end doorbell

/-! ### A call slip that is taken (R248, R270) -/

section takeSlip

variable {w t : State} {n : Nat} {q : Queue} {raw : Bytes} {sl : Slip} {consumed : HostRead} {input : RemoteRead}
  {v : Volume} {b : Bytes} {poison : Bool} (hvol : volumeOf w q.master sl.volumeId = some v)
  (hblock : takeBlock w q.master sl.input v false input = (t, some (b, poison)))
include hvol hblock

theorem takeSlip_refused (hrc : takeCode t q raw sl (some v) (some (b, poison)) ≠ rcDone) :
    takeSlip w n q raw sl consumed input =
      endUnrun t q sl (devNs t) { rc := takeCode t q raw sl (some v) (some (b, poison)), ending := .refused } := by
  simp only [takeSlip, hvol, hblock]
  exact if_pos hrc

variable (hrc : takeCode t q raw sl (some v) (some (b, poison)) = rcDone)
include hrc

/-- A call slip of HALT policy that is late when it is taken runs no step. -/
theorem takeSlip_late (hpol : v.haltPolicy = true) (hlate : lateAtTake t sl = true) :
    takeSlip w n q raw sl consumed input =
      endUnrun t q sl (devNs t) { rc := rcDone, ending := .deadline, late := true } := by
  simp only [takeSlip, hvol, hblock, hrc, hpol, hlate, ne_eq, not_true_eq_false, and_self, if_true, if_false]

/-- A call slip that is no closed loop waits for a context without a read of CONSUMED. -/
theorem takeSlip_waits (hpol : v.haltPolicy = false) (hloop : loopOf v.steps = none) :
    takeSlip w n q raw sl consumed input =
      queueSlip t n { slip := sl, block := parseInput v.nkv b, volume := v.key, queue := n, poster := q.poster,
                      takenAt := devNs t, consumed := 0, reserve := slipReserve t v (parseInput v.nkv b).kv } := by
  simp only [takeSlip, hvol, hblock, hrc, hpol, hloop, ne_eq, not_true_eq_false, Bool.false_eq_true, false_and,
    Option.isSome_none, if_false]

end takeSlip

/-- A HALT of a call slip that waits ends it HALTED, and completes DONE (R276). -/
theorem haltSlip_waiting {w u : State} {n : Nat} {q : Queue} {raw : Bytes} {h : Slip} {x : Taken} {y : Verdict}
    (hfence : anyFenced w = false) (hres : slipReservedOk raw = true) (hresult : h.result % 64 = 0) (hmid : h.mid = q.master)
    (hseq : h.targetSeq < h.seq) (hfind : q.waiting.find? (fun t => t.slip.seq == h.targetSeq) = some x)
    (hu : u = queMod w n (fun q => { q with waiting := q.waiting.filter (fun t => t.slip.seq != h.targetSeq) }))
    (hy : y = { rc := rcDone, ending := .halted, late := x.late || lateAtTake u x.slip }) :
    haltSlip w n q raw h =
      haltRecord (if x.late then recordWrite u q.poster x.slip.result x.slip.seq x.takenAt y else endUnrun u q x.slip x.takenAt y)
        q h rcDone := by
  subst hy hu
  simp only [haltSlip, hfence, hres, hresult, hmid, Nat.not_le.mpr hseq, hfind, Bool.not_true, bne_self_eq_false, Bool.or_self,
    Bool.false_eq_true, ne_eq, not_true_eq_false, if_false]

/-! ### CALL_SLIP_ADMIT (R249, R265) -/

theorem exec_callSlipAdmit_admits {s : State} {k m n a b : Nat} {q : Queue} {t : Taken} {r : List Taken} {v : Volume}
    (hfirst : leastFrom (fun k => canAdmit s ((s.eng.admitPointer + k) % 256)) 256 0 = some k)
    (hm : m = (s.eng.admitPointer + k) % 256) (hq : tget s.queues m = some q) (hhead : q.waiting = t :: r)
    (hvol : tget s.volumes t.volume = some v) (hplace : placeRun s v t.reserve = some (n, a, b)) :
    exec .callSlipAdmit s = .next (startWake (sendStarts { s with
      queues := tmod s.queues m (fun q => { q with waiting := q.waiting.drop 1 })
      eng := { s.eng with ctxs := tset s.eng.ctxs n (newCtx t a b)
                          admitPointer := (s.eng.admitPointer + 1) % 256 } } n t v)) := by
  subst hm
  have hslip : (tget s.queues ((s.eng.admitPointer + k) % 256)).bind (fun q => headSlip q s) = some (t, v) := by
    simp only [hq, Option.bind_some, headSlip, hhead, hvol, Option.map_some]
  show Host.Outcome.next (callSlipAdmit s) = _
  simp only [callSlipAdmit, hfirst, hslip, hplace, queMod]

/-! ### DEADLINE_PASS (R268 to R270) -/

@[simp] theorem logNow_volumes (s : State) (r : ErrRec) : (logNow s r).volumes = s.volumes := by
  unfold logNow logWrite
  split <;> rfl

theorem ctxVol_logLate (s : State) (mid volumeId seq deadline : Nat) (x : Ctx) :
    ctxVol (logLate s mid volumeId seq deadline) x = ctxVol s x := by
  rw [ctxVol, ctxVol, logLate, logNow_volumes]

theorem ctxVol_ctxMod (s : State) (n : Nat) (f : Ctx → Ctx) (x : Ctx) : ctxVol (ctxMod s n f) x = ctxVol s x := rfl

section settleLate

variable {s : State} {n : Nat} {x : Ctx} (hx : tget s.eng.ctxs n = some x)
include hx

theorem settleLate_of_not_late (hlate : isLate s x = false) : settleLate s n = s := by
  simp only [settleLate, hx, hlate, Bool.false_eq_true, if_false]

/-- A late context of CONTINUE policy runs on; its first lateness is logged. -/
theorem settleLate_continues {v : Volume} (hvol : ctxVol s x = some v) (hpol : v.haltPolicy = false) (hlate : isLate s x = true) :
    settleLate s n = ctxMod
      (if x.lateLogged then s else logLate s x.job.slip.mid x.job.slip.volumeId x.job.slip.seq (deadlineOf s x)) n
      (fun x => { x with late := true, lateLogged := true }) := by
  cases hlogged : x.lateLogged with
  | true =>
    simp only [settleLate, hx, hlate, lateCtx, hlogged, ctxVol_ctxMod, hvol, hpol, Bool.false_eq_true, if_true, if_false]
  | false =>
    simp only [settleLate, hx, hlate, lateCtx, hlogged, ctxVol_ctxMod, ctxVol_logLate, hvol, hpol, Bool.false_eq_true, if_true,
      if_false]

end settleLate

section lateTaken

variable {s w : State} {n : Nat} {t : Taken} {v : Volume} (hnew : t.late = false) (hlate : lateAtTake s t.slip = true)
  (hw : w = logLate s t.slip.mid t.slip.volumeId t.slip.seq t.slip.deadline) (hvol : tget w.volumes t.volume = some v)
include hnew hlate hw hvol

/-- A call slip of HALT policy that becomes late while it waits ends. -/
theorem lateTaken_halts (hpol : v.haltPolicy = true) :
    lateTaken n s t = recordWrite (queMod w n (fun q => { q with waiting := q.waiting.filter (· != t) }))
      t.poster t.slip.result t.slip.seq t.takenAt { rc := rcDone, ending := .deadline, late := true } := by
  subst hw
  simp only [lateTaken, hnew, hlate, hvol, hpol, Option.map_some, Bool.not_true, Bool.false_eq_true, or_self, if_true, if_false]

/-- One of CONTINUE policy waits on, and is late. -/
theorem lateTaken_waits (hpol : v.haltPolicy = false) :
    lateTaken n s t = queMod w n (fun q => { q with
      waiting := q.waiting.map (fun y => if y = t then { y with late := true } else y) }) := by
  subst hw
  simp only [lateTaken, hnew, hlate, hvol, hpol, Option.map_some, Option.some.injEq, Bool.not_true, Bool.false_eq_true, or_self,
    if_false]

end lateTaken

/-! ### CALL_SLIP_END (R272, R276, R478) -/

/-- A stopped context whose released steps have completed writes its record, where call-slip data is below its cap. -/
theorem exec_callSlipEnd_ends {s : State} {n : Nat} {x : Ctx} {e : EndCode} (hx : tget s.eng.ctxs n = some x)
    (hstop : x.stop = some e) (hidle : x.pending = []) (hfault : s.ras.moduleFault = false) (hlate : isLate s x = false)
    (hcap : capOpen s 1 (if x.lead.isSome then [] else hostRes s x.job.poster true) = true) :
    exec (.callSlipEnd n) s = .next (freeCtx (ctxRecord (endHalts s x (if e = .halted then rcDone else rcConflict)) x e) n) := by
  show Host.Outcome.next (callSlipEnd s n) = _
  simp only [callSlipEnd, hx, hstop, hidle, hfault, hcap, settleLate_of_not_late hx hlate, tgetD, List.isEmpty_nil, Bool.not_true,
    Bool.false_eq_true, or_self, if_false, Option.getD_some]

/-- Settles O36: each clause is the rule above for the branch that its hypotheses name. -/
theorem callSlips : Obligations.CallSlips := by
  refine ⟨fun s n slot off b => exec_queueSlotWrite_stored, fun s n full value consumed input q hq => ?doorbell, ?taken,
    fun t a b => rfl, fun t n x => rfl,
    fun s k m n a b q t r v => exec_callSlipAdmit_admits, ?deadline,
    fun s w n t v hnew hlate hw hvol => ⟨lateTaken_halts hnew hlate hw hvol, lateTaken_waits hnew hlate hw hvol⟩,
    fun s n x e => exec_callSlipEnd_ends⟩
  case doorbell =>
    refine ⟨exec_queDoorbell_ignored hq, ?_⟩
    rintro rfl hseq hfull
    exact exec_queDoorbell_full hq hseq hfull
  case taken =>
    intro s w n value consumed input q raw sl hq hseq hroom hmay hfault hraw hsl hw
    rw [exec_queDoorbell_taken hq hseq hroom hmay hfault hraw hsl hw]
    refine ⟨fun t v b poison hrun hvol hblock => ?_, fun x hhalt hfence hres hresult hmid htarget hfind => ?_⟩
    · rw [hrun]
      exact ⟨fun hrc => congrArg _ (takeSlip_refused hvol hblock hrc),
        fun hrc hpol hlate => congrArg _ (takeSlip_late hvol hblock hrc hpol hlate),
        fun hrc hpol hloop => congrArg _ (takeSlip_waits hvol hblock hrc hpol hloop)⟩
    · rw [hhalt]
      exact congrArg _ (haltSlip_waiting hfence hres hresult hmid htarget hfind rfl rfl)
  case deadline =>
    rintro s _ n x v rfl hx hvol hpol
    exact ⟨fun hlate => congrArg _ (settleLate_continues hx hvol hpol hlate),
      fun hlate => congrArg _ (settleLate_of_not_late hx hlate)⟩

end Sys2Proof.Machine
end

section
/-! SUPPORT. How the endpoint answers memory and configuration requests, how a function's reset begins and ends, and the
statement on them (R279, R460, R461, R485 to R487, R541, R686, R691). -/

namespace Sys2Proof.Machine

theorem leBytes_length (n v : Nat) : (leBytes n v).length = n := by
  induction n generalizing v with
  | zero => rfl
  | succ n ih => simp only [leBytes, List.length_cons, ih]

/-! ### Memory requests (R9, R460, R486, R686, R715) -/

/-- A link that carries bytes changes nothing of a function's reset. -/
theorem hostTouch_flr (s : State) (fn : Fn) (tx : Bool) (n : Nat) : (hostTouch s fn tx n).host.flr = s.host.flr := by
  unfold hostTouch hostLinkMod
  split <;> rfl

theorem fnServed_hostTouch (s : State) (fn : Fn) (tx : Bool) (n : Nat) : fnServed (hostTouch s fn tx n) = fnServed s := rfl

section regRead

variable {s : State} {fn : Fn} {off n : Nat}

/-- A read outside the locks has no side effect. -/
theorem regRead_bytes (hoff : off < 0x1800 ∨ 0x1A00 ≤ off ∨ isVf fn = true) : regRead s fn off n = (s, regBytes s fn off n) := by
  refine if_neg ?_
  rintro ⟨hlo, hhi, -, -, hvf, -⟩
  obtain h | h | h := hoff
  · omega
  · omega
  · simp [h] at hvf

/-- A read of the whole of a lock by PF0 or PF1. -/
theorem regRead_lock {k : Nat} (hvf : isVf fn = false) (hstage : s.boot.stage ≠ .recovery) (hk : k < 64) :
    regRead s fn (0x1800 + 8 * k) 8 = ((lockRead s fn k).1, leBytes 8 (lockRead s fn k).2) := by
  have hmod : (0x1800 + 8 * k) % 8 = 0 := by omega
  have hidx : (0x1800 + 8 * k - 0x1800) / 8 = k := by omega
  have hcond : 0x1800 ≤ 0x1800 + 8 * k ∧ 0x1800 + 8 * k < 0x1A00 ∧ accessAligned (0x1800 + 8 * k) 8 ∧ (0x1800 + 8 * k) % 8 = 0 ∧
      !isVf fn ∧ s.boot.stage ≠ .recovery :=
    ⟨by omega, by omega, accessAligned_eight hmod, hmod, by simp [hvf], hstage⟩
  have htake (v : Nat) : (leBytes 8 v).take 8 = leBytes 8 v := List.take_of_length_le (Nat.le_of_eq (leBytes_length 8 v))
  rw [regRead, if_pos hcond, hidx]
  simp only [htake]

end regRead

section request

variable {s u : State} {fn : Fn} {d w : Bool} {off n : Nat} {b : Bytes} {c : HostRead} {i : RemoteRead}

theorem exec_pcieMemoryRequest_absent (h : endpointUp s = false ∨ fnPresent s fn = false) :
    exec (.pcieMemoryRequest fn w ⟨d, off⟩ n b c i) s = .next s :=
  if_pos (by simpa only [Bool.or_eq_true, Bool.not_eq_true'] using h)

variable (hu : u = hostTouch s fn false (if w then b.length else 0)) (hup : endpointUp s = true) (hhas : fnPresent s fn = true)
include hu hup hhas

/-- A request that is not served is an Unsupported Request, which a posted write does not show. -/
theorem exec_pcieMemoryRequest_unsupported (hno : fnServed s = false ∨ thas s.host.flr fn = true ∨ barSize fn d < off + n) :
    exec (.pcieMemoryRequest fn w ⟨d, off⟩ n b c i) s = .next (if w then u else emit u (.completion fn none)) := by
  have hno' : (!fnServed s || thas s.host.flr fn || decide (barSize fn d < off + n)) = true := by
    simpa only [Bool.or_eq_true, Bool.not_eq_true', decide_eq_true_eq, or_assoc] using hno
  subst hu
  show pcieRequest fn d w off n b c i s = _
  simp only [pcieRequest, hup, hhas, fnServed_hostTouch, hostTouch_flr, hno', Bool.not_true, Bool.or_self,
    Bool.false_eq_true, if_true, if_false]

variable (hserved : fnServed s = true) (hflr : thas s.host.flr fn = false) (hin : off + n ≤ barSize fn d)
include hserved hflr hin

theorem exec_pcieMemoryRequest_served :
    exec (.pcieMemoryRequest fn w ⟨d, off⟩ n b c i) s =
      if d then .next (if w then u else emit u (.completion fn (some (bar2Bytes u off n))))
      else if w then regWrite u fn off b c i
      else .next (emit (regRead u fn off n).1 (.completion fn (some (regRead u fn off n).2))) := by
  have hserve : (!fnServed s || thas s.host.flr fn || decide (barSize fn d < off + n)) = false := by
    simp only [hserved, hflr, Nat.not_lt.mpr hin, decide_false, Bool.not_true, Bool.or_self]
  subst hu
  show pcieRequest fn d w off n b c i s = _
  simp only [pcieRequest, hup, hhas, fnServed_hostTouch, hostTouch_flr, hserve, Bool.not_true, Bool.or_self,
    Bool.false_eq_true, if_false]

end request

theorem barSize_bar2_absent {fn : Fn} (h : fn ≠ .pf0) : barSize fn true = 0 := if_neg h

/-! ### Configuration requests (R460, R486, R686) -/

section config

variable {s : State} {fn : Fn} {off : Nat} {v : BitVec 32} (hup : endpointUp s = true) (hhas : fnPresent s fn = true)
include hup hhas

/-- Before step 8, within 1 s of the rise of PERST_N. -/
theorem exec_configRequest_retry {w : Bool} {t : Nat} (hserved : fnServed s = false) (hrose : s.boot.perstRoseAt = some t)
    (hearly : s.now ≤ t + secT 1) : exec (.configRequest fn w off v) s = .next (emit s (.retryStatus fn)) := by
  show execConfigRequest fn w off v s = _
  simp only [execConfigRequest, hup, hhas, hserved, hrose, hearly, decide_true, Bool.not_true, Bool.not_false, Bool.or_self,
    Bool.and_self, Bool.false_eq_true, if_true, if_false]

theorem exec_configRequest_served {w : Bool} (hserved : fnServed s = true) :
    exec (.configRequest fn w off v) s =
      if w then .next (emit (cfgWrite s fn off v) (.completion fn (some [])))
      else .next (emit s (.completion fn (some (leBytes 4 (cfgRead s fn off).toNat)))) := by
  show execConfigRequest fn w off v s = _
  simp only [execConfigRequest, hup, hhas, hserved, Bool.not_true, Bool.or_self, Bool.false_and, Bool.false_eq_true, if_false]

end config

/-- The first word of configuration space is the Vendor ID and the Device ID. -/
theorem cfgRead_ids (s : State) {fn : Fn} {d : Nat} (hd : fnDevice fn = d) :
    cfgRead s fn 0 = BitVec.ofNat 32 (0x1F3E + d * 2 ^ 16) := by
  rw [← hd]
  rfl

/-- The class code stands above the Revision ID. -/
theorem cfgRead_class (s : State) (fn : Fn) : (cfgRead s fn 8).toNat / 256 = fnClass fn := by
  have hread : cfgRead s fn 8 =
      BitVec.ofNat 32 (fnClass fn * 2 ^ 8 + (Config.freeWord 12 (fnNum fn * 4096 + 8)).toNat % 256) := rfl
  have hclass : fnClass fn < 2 ^ 24 := by
    unfold fnClass
    split <;> decide
  rw [hread, BitVec.toNat_ofNat]
  omega

/-! ### Function-level reset and VF Enable (R461, R485 to R487) -/

section flr

variable {s : State} {fn : Fn}

theorem flrStart_absorbed (h : thas s.host.flr fn = true) : flrStart s fn = s := if_pos h

theorem flrStart_alone (h : thas s.host.flr fn = false) (hfn : fn ≠ .pf1) : flrStart s fn = flrBegin s fn := by
  simp only [flrStart, flrCovers, h, hfn, List.foldl_cons, List.foldl_nil, Bool.false_eq_true, if_false]

theorem flrStart_pf1 (h : thas s.host.flr .pf1 = false) : flrStart s .pf1 =
    (enabledVfs s ++ [Fn.pf1]).foldl (fun s f => if thas s.host.flr f then s else flrBegin s f) s := by
  simp only [flrStart, flrCovers, h, Bool.false_eq_true, if_true, if_false]

theorem exec_initiateFlr (hup : endpointUp s = true) (hhas : fnPresent s fn = true) (hserved : fnServed s = true) :
    exec (.initiateFlr fn) s = .next (flrStart s fn) :=
  if_pos (by simp only [hup, hhas, hserved, Bool.and_self])

theorem exec_flrComplete_idle (h : thas s.host.flr fn = false) : exec (.flrComplete fn) s = .next s :=
  if_pos (by simp only [h, Bool.not_false])

theorem exec_flrComplete_alone (h : thas s.host.flr fn = true) (hfn : fn ≠ .pf1) :
    exec (.flrComplete fn) s = .next (flrFinish s fn) := by
  show execFlrComplete fn s = _
  simp only [execFlrComplete, flrCovers, h, hfn, List.foldl_cons, List.foldl_nil, Bool.not_true, Bool.false_eq_true, if_false]

/-- The end of PF1's reset is that of its VFs too, and disables them. -/
theorem exec_flrComplete_pf1 {t : State} (h : thas s.host.flr .pf1 = true)
    (ht : t = (enabledVfs s ++ [Fn.pf1]).foldl flrFinish s) :
    exec (.flrComplete .pf1) s = .next { t with host := { t.host with vfEnable := false, numVfs := 0 } } := by
  show execFlrComplete .pf1 s = _
  simp only [execFlrComplete, flrCovers, h, ← ht, Bool.not_true, Bool.false_eq_true, if_true, if_false]

end flr

section vfEnable

variable {s : State} {on : Bool} {n : Nat} (hup : endpointUp s = true) (hhas : fnPresent s .pf1 = true)
  (hserved : fnServed s = true) (hflr : thas s.host.flr .pf1 = false)
include hup hhas hserved hflr

theorem exec_vfEnable_set (hn : n ≤ 63) :
    exec (.vfEnable on n) s = .next { s with host := { s.host with vfEnable := on, numVfs := if on then n else 0 } } :=
  if_pos (by simp only [hup, hhas, hserved, hflr, hn, decide_true, Bool.not_false, Bool.and_self])

end vfEnable

theorem exec_vfEnable_tooMany {s : State} {on : Bool} {n : Nat} (hn : 63 < n) : exec (.vfEnable on n) s = .next s :=
  if_neg (by simp only [Nat.not_le.mpr hn, decide_false, Bool.and_false, Bool.false_eq_true, not_false_eq_true])

/-- Settles O58: each clause is the rule above for the branch that its hypotheses name. -/
theorem hostRequestsAndFunctionReset : Obligations.HostRequestsAndFunctionReset := by
  refine ⟨?memory, fun fn => ⟨rfl, rfl, barSize_bar2_absent⟩, ?config,
    fun s k => ⟨cfgRead_ids s (d := 0x8400) rfl, cfgRead_ids s (d := 0x8401) rfl, cfgRead_ids s (d := 0x8402) rfl,
      cfgRead_class s .pf0, cfgRead_class s .pf1, cfgRead_class s (.vf k)⟩,
    ?resetBegins, ?resetEnds, fun s fn => exec_flrComplete_idle,
    fun s on n hup hhas hserved hflr => ⟨exec_vfEnable_set hup hhas hserved hflr, exec_vfEnable_tooMany⟩⟩
  case memory =>
    intro s u fn d w off n b c i hu
    refine ⟨exec_pcieMemoryRequest_absent, fun hup hhas => ⟨exec_pcieMemoryRequest_unsupported hu hup hhas,
      fun hserved hflr hin => ?_⟩⟩
    rw [exec_pcieMemoryRequest_served hu hup hhas hserved hflr hin]
    refine ⟨?read, ?lock, ?write, ?bar2⟩
    case read =>
      rintro rfl rfl hoff
      rw [regRead_bytes hoff]
      rfl
    case lock =>
      rintro k rfl rfl hvf hstage hk rfl rfl
      rw [regRead_lock hvf hstage hk]
      rfl
    case write =>
      rintro rfl rfl
      rfl
    case bar2 =>
      rintro rfl
      rfl
  case config =>
    intro s fn w off v hup hhas
    exact ⟨fun t hserved hrose hearly => exec_configRequest_retry hup hhas hserved hrose hearly,
      fun hserved => ⟨exec_configRequest_served hup hhas hserved, exec_configRequest_served hup hhas hserved⟩⟩
  case resetBegins =>
    intro s fn hup hhas hserved
    rw [exec_initiateFlr hup hhas hserved]
    refine ⟨fun h => congrArg _ (flrStart_absorbed h), fun h hfn => congrArg _ (flrStart_alone h hfn), ?_⟩
    rintro h rfl
    exact congrArg _ (flrStart_pf1 h)
  case resetEnds =>
    intro s t fn h
    refine ⟨exec_flrComplete_alone h, ?_⟩
    rintro rfl ht
    exact exec_flrComplete_pf1 h ht

end Sys2Proof.Machine
end

section
/-! SUPPORT. The statements on the canonical form of memory: the reset state has it, and every step keeps it (R284, R293, R295,
R611, R631, R633). -/

namespace Sys2Proof.Machine

/-- Settles O4: memory at reset lists no cell and no error pattern. -/
theorem memoryFormAtReset : Obligations.MemoryFormAtReset := by
  show (cellsWf [] && errsWf []) = true
  rfl

/-- Settles O5: what every step keeps, over all commands and the idle cycle, holds the canonical form of memory. -/
theorem stepKeepsMemoryForm : Obligations.StepKeepsMemoryForm := by
  intro s hmem
  obtain ⟨t, hstep, hkept⟩ := step_mem s
  exact ⟨t, hstep, hkept hmem⟩

end Sys2Proof.Machine
end

section
/-! SUPPORT. What the desk commands on regions and the end of a granule's zeroing do, one rule for each branch, and the statement on
them (R288 to R295, R308, R475, R501, R560, R561). -/

namespace Sys2Proof.Machine

/-! ### The rows of the commands -/

section regionCommands

variable {s : State} {src : DeskSrc} {c : RunCmd}

theorem exec_regionAlloc (h : Serves s src 0x0301 c) : exec (.regionAlloc src) s = .next (regionAllocBody (leaveSleep s) c) :=
  congrArg Host.Outcome.next (deskRun_leaveSleep _ h (by decide))

theorem exec_regionFree (h : Serves s src 0x0302 c) : exec (.regionFree src) s = .next (regionFreeBody (leaveSleep s) c) :=
  congrArg Host.Outcome.next (deskRun_leaveSleep _ h (by decide))

theorem exec_regionCopy (host : HostRead) (remote : RemoteRead) (h : Serves s src 0x0303 c) :
    exec (.regionCopy src host remote) s = .next (regionCopyBody host remote (leaveSleep s) c) :=
  congrArg Host.Outcome.next (deskRun_leaveSleep _ h (by decide))

end regionCommands

/-! ### REGION_ALLOC and REGION_FREE (R289 to R293, R308, R560) -/

section regionAlloc

variable {w : State} {c : RunCmd} {taken tenant : Nat}
  (htaken : taken = if natBit (arg c 2) 0 then arg c 3 + ceilDiv (arg c 3) 64 else arg c 3)
  (hopen : tierClosed w (arg c 0) (halfOf (arg c 1)) = false) (htenant : tenant = cmdTenant w c)
include htaken hopen

theorem regionAllocBody_full (hrun : findRun w (arg c 0) (halfOf (arg c 1)) taken true = none)
    (hnone : findRun w (arg c 0) (halfOf (arg c 1)) taken false = none) : regionAllocBody w c = failWith w c rcNoSpace := by
  subst htaken
  simp only [regionAllocBody, hopen, hrun, hnone, Option.isSome_none, Bool.false_eq_true, if_false, ite_self]

include htenant

theorem regionAllocBody_overQuota (hquota : tenantQuota w tenant (arg c 0) < tenantUsed w tenant (arg c 0) + taken) :
    regionAllocBody w c = failWith w c rcNoSpace := by
  subst htaken htenant
  simp only [regionAllocBody, hopen, if_pos hquota, Bool.false_eq_true, if_false]

/-- REGION_ALLOC within the quota, with a free run and room in class 5. -/
theorem regionAllocBody_placed {g : Nat} (hquota : tenantUsed w tenant (arg c 0) + taken ≤ tenantQuota w tenant (arg c 0))
    (hrun : findRun w (arg c 0) (halfOf (arg c 1)) taken true = some g) (hzero : zeroOpen w (g * mib2) = true) :
    regionAllocBody w c = complete (takeRegion w
      { base := g * mib2, granules := taken, dataGranules := arg c 3, tier := arg c 0, half := halfOf (arg c 1), master := c.mid
        tenant := tenant, protect := natBit (arg c 2) 0 }) c rcDone [.u 8 (g * mib2), .u 4 taken] := by
  subst htaken htenant
  simp only [regionAllocBody, hopen, if_neg (Nat.not_lt.mpr hquota), hrun, hzero, Bool.not_true, Bool.false_eq_true, if_false]

end regionAlloc

/-- REGION_FREE of a region of its sender. -/
theorem regionFreeBody_owned {w : State} {c : RunCmd} {r : Region} (hda : daRefused w c.mid (arg c 0) = false)
    (htier : daRange (arg c 0) = 1 ∨ daRange (arg c 0) = 2)
    (hr : w.regions.find? (fun r => r.base == arg c 0 && r.master == c.mid) = some r) : regionFreeBody w c =
    if rangeHolds w (r.base, r.granules * mib2) then failWith w c rcConflict else complete (dropRegion w r) c rcDone [] := by
  have hnear : ¬(daRange (arg c 0) = 3 ∨ daRange (arg c 0) = 4) := by omega
  simp only [regionFreeBody, hda, hr, if_neg hnear, Bool.false_eq_true, if_false]

/-! ### REGION_COPY (R21, R295, R475, R501, R561) -/

section regionCopy

variable {w : State} {c : RunCmd} {host : HostRead} {remote : RemoteRead}

section

variable (hrc : (copyCode w c (arg c 0) (arg c 3) (arg c 4) (arg c 1)).2 = rcDone)
include hrc

theorem regionCopyBody_fenced (hfence : anyFenced w = true) : regionCopyBody host remote w c = failWith w c rcPoisoned := by
  simp only [regionCopyBody, hrc, hfence, ne_eq, not_true_eq_false, if_true, if_false]

/-- A copy whose source is at a cap delays no other command and waits. -/
theorem regionCopyBody_held (hfence : anyFenced w = false) (hdir : arg c 0 ≠ 0)
    (hclosed : runtimeOpen w 1 c.mid (arg c 3) false = false) : regionCopyBody host remote w c = cmdHold w c := by
  simp only [regionCopyBody, hrc, hfence, hclosed, beq_eq_false_iff_ne.mpr hdir, ne_eq, not_true_eq_false, Bool.or_self,
    Bool.false_and, Bool.not_false, Bool.false_eq_true, if_true, if_false]

end

/-- From the host: the bytes that the host sent are written, charged in class 1 on both ways. -/
theorem regionCopyBody_fromHost {d : Bytes} (hdir : arg c 0 = 0) (hrc : deskCode w c.mid (arg c 4) (arg c 1) true = rcDone)
    (hfence : anyFenced w = false) (hdst : runtimeOpen w 1 c.mid (arg c 4) true = true) (hbuf : bufOpen w c = true) :
    regionCopyBody (.data d) remote w c =
      let t := chargeHostRx (readWhole w c.mid (arg c 2) (arg c 1) (.data d)) 1 c.mid (arg c 1)
      complete (chargeWrite (writeAny t 1 c.mid (arg c 4) (fit (arg c 1) d)) 1 (arg c 4) (arg c 1) (.tier .h0)) c rcDone [] := by
  obtain ⟨hmay, hcap⟩ := Bool.and_eq_true_iff.mp hbuf
  simp [regionCopyBody, copyCode, hdir, hrc, hfence, hdst, hmay, hcap]

/-- A copy to the host is judged by its source alone. -/
theorem copyCode_toHost (hdir : arg c 0 = 1) (hsrc : deskCode w c.mid (arg c 3) (arg c 1) false = rcDone) :
    (copyCode w c (arg c 0) (arg c 3) (arg c 4) (arg c 1)).2 = rcDone := by
  simp only [copyCode, hdir, hsrc, Nat.one_ne_zero, ne_eq, not_true_eq_false, if_true, if_false]

/-- A copy within the device is judged by both of its addresses. -/
theorem copyCode_within (hdir : arg c 0 = 2) (hsrc : deskCode w c.mid (arg c 3) (arg c 1) false = rcDone)
    (hdst : deskCode w c.mid (arg c 4) (arg c 1) true = rcDone) :
    (copyCode w c (arg c 0) (arg c 3) (arg c 4) (arg c 1)).2 = rcDone := by
  simp [copyCode, hdir, hsrc, hdst]

/-- A copy that no cap holds reads tier memory of this device, and goes on as its direction says. -/
theorem regionCopyBody_reads (hdir : arg c 0 ≠ 0)
    (hcode : (copyCode w c (arg c 0) (arg c 3) (arg c 4) (arg c 1)).2 = rcDone) (hnear : daRange (arg c 3) ≤ 2)
    (hfence : anyFenced w = false) (hsrc : runtimeOpen w 1 c.mid (arg c 3) false = true)
    (hdst : arg c 0 = 1 ∨ runtimeOpen w 1 c.mid (arg c 4) true = true)
    (hcap : arg c 0 ≠ 1 ∨ capOpen w 1 (hostRes w c.mid true) = true) : regionCopyBody host remote w c =
    let n := arg c 1
    let r := readAny (chargeRead w 1 (arg c 3) n (.tier .h0)) c.mid (arg c 3) n remote
    let rc := if rtPoison r.2.2 (arg c 3) n then rcPoisoned else rcDone
    let bad := if rtPoison r.2.2 (arg c 3) n then r.2.2 else []
    if arg c 0 = 1 then complete (chargeHostTx (emit r.1 (.hostWrite c.mid (arg c 2) r.2.1 (!bad.isEmpty) false)) 1 c.mid n) c rc []
    else complete (chargeWrite (copyPut r.1 c.mid (arg c 3) (arg c 4) r.2.1 bad) 1 (arg c 4) n (.tier .h0)) c rc [] := by
  have hopen : ((arg c 0 == 0 || runtimeOpen w 1 c.mid (arg c 3) false) && (arg c 0 == 1 || runtimeOpen w 1 c.mid (arg c 4) true)
      && capOpen w 1 (if arg c 0 = 1 then hostRes w c.mid true else [])) = true := by
    have hnone : capOpen w 1 [] = true := rfl
    by_cases hone : arg c 0 = 1
    · simp [hone, hsrc, hcap.resolve_left (not_not_intro hone)]
    · simp [hone, hsrc, hdst.resolve_left hone, hnone]
  simp only [regionCopyBody, hcode, hfence, hopen, hdir, hnear, ne_eq, not_true_eq_false, Bool.not_true, Bool.false_eq_true,
    if_true, if_false]
  cases rtPoison (readAny (chargeRead w 1 (arg c 3) (arg c 1) (.tier .h0)) c.mid (arg c 3) (arg c 1) remote).2.2 (arg c 3)
    (arg c 1) <;> rfl

end regionCopy

/-- Settles O28: each clause is the rule above for the branch that its hypotheses name. -/
theorem regionCommands : Obligations.RegionCommands := by
  refine ⟨?alloc, fun s r => rfl, ?free, ?fromHost, ?near, ?waits, ?zeroed⟩
  case alloc =>
    intro s w src c taken tenant h hw htaken htenant hopen
    rw [exec_regionAlloc h, ← hw]
    exact ⟨fun g hquota hrun hzero => congrArg _ (regionAllocBody_placed htaken hopen htenant hquota hrun hzero),
      fun hquota => congrArg _ (regionAllocBody_overQuota htaken hopen htenant hquota),
      fun hrun hnone => congrArg _ (regionAllocBody_full htaken hopen hrun hnone)⟩
  case free =>
    intro s src c r h w hda htier hr
    rw [exec_regionFree h, regionFreeBody_owned hda htier hr]
    exact ⟨fun hfree => congrArg _ (if_neg (Bool.eq_false_iff.mp hfree)), fun hheld => congrArg _ (if_pos hheld)⟩
  case fromHost =>
    intro s src c d remote h w hdir hrc hfence hdst hbuf t
    rw [exec_regionCopy _ _ h, regionCopyBody_fromHost hdir hrc hfence hdst hbuf]
  case near =>
    intro s src c host remote h w n hrc hnear hfence hsrc r bad
    rw [exec_regionCopy _ _ h]
    have htoHost (hdir : arg c 0 = 1) (hcap : capOpen w 1 (hostRes w c.mid true) = true) :=
      regionCopyBody_reads (host := host) (remote := remote) (by omega) (copyCode_toHost hdir hrc) hnear hfence hsrc (.inl hdir)
        (.inr hcap)
    refine ⟨fun hdir hcap hbad => congrArg _ ?_, fun hdir hcap hbad => congrArg _ ?_, fun hdir hcode hdst => congrArg _ ?_⟩
    · rw [htoHost hdir hcap, if_pos hdir, if_neg (Bool.eq_false_iff.mp hbad), if_neg (Bool.eq_false_iff.mp hbad)]
      rfl
    · rw [htoHost hdir hcap, if_pos hdir, if_pos hbad, if_pos hbad]
    · rw [regionCopyBody_reads (by omega) (copyCode_within hdir hrc hcode) hnear hfence hsrc (.inr hdst) (.inl (by omega)),
        if_neg (by omega)]
  case waits =>
    intro s src c host remote h w hrc
    rw [exec_regionCopy _ _ h]
    exact ⟨fun hfence => congrArg _ (regionCopyBody_fenced hrc hfence),
      fun hfence hdir hclosed => congrArg _ (regionCopyBody_held hrc hfence hdir hclosed)⟩
  case zeroed =>
    intro s addr hg
    exact ⟨fun hopen => if_pos ⟨hg, hopen⟩, fun hclosed => if_neg fun hall => Bool.eq_false_iff.mp hclosed hall.2⟩

end Sys2Proof.Machine
end

section
/-! SUPPORT. What WORKING_COPY and the end of a tile's copy do, one rule for each branch, and the statement on them (R296 to R299,
R301, R491, R501). -/

namespace Sys2Proof.Machine

/-! ### WORKING_COPY (R296 to R298) -/

section workingCopy

variable {w : State} {c : RunCmd} {remote : RemoteRead}

theorem exec_workingCopy {s : State} {src : DeskSrc} (remote : RemoteRead) (h : Serves s src 0x0304 c) :
    exec (.workingCopy src remote) s = .next (workingCopyBody remote (leaveSleep s) c) :=
  congrArg Host.Outcome.next (deskRun_leaveSleep _ h (by decide))

/-- The working copy that a WORKING_COPY of FULL or STAGED asks for. -/
def wcAsked (c : RunCmd) : WorkCopy :=
  { mode := if arg c 1 == 1 then .full else .staged, half := halfOf (arg c 2), hs := arg c 3, w0 := arg c 4, w1 := arg c 5
    present := [], copying := [], src := if arg c 1 == 1 then some c.src else none }

/-- WORKING_COPY NONE that has dropped its copy completes once no fetch from it is outstanding. -/
theorem workingCopyBody_dropped (hacc : c.acc ≠ []) (hf : wcFetching w (leVal c.acc) = false) :
    workingCopyBody remote w c = complete w c rcDone [] := by
  simp only [workingCopyBody, List.isEmpty_eq_false_iff.mpr hacc, hf, Bool.not_false, Bool.false_eq_true, if_true, if_false]

variable {t : Tensor} (hacc : c.acc = []) (ht : tensorByTag w c.mid (arg c 0) = some t) (htier : daRange t.pbase ≠ 1)
include hacc ht htier

theorem workingCopyBody_none (hop : arg c 1 = 0) : workingCopyBody remote w c =
    if wcFetching (wcEnd w t) t.id then runningSet (wcEnd w t) c (fun r => { r with acc := leBytes 8 t.id })
    else complete (wcEnd w t) c rcDone [] := by
  simp only [workingCopyBody, wcDropBody, hacc, ht, hop, if_neg htier, List.isEmpty_nil, Bool.not_true, Bool.false_eq_true,
    if_true, if_false]

theorem workingCopyBody_inForce (hop : arg c 1 ≠ 0) (hwc : t.wc.isSome = true) :
    workingCopyBody remote w c = failWith w c rcConflict := by
  simp only [workingCopyBody, hacc, ht, hop, hwc, if_neg htier, List.isEmpty_nil, Bool.not_true, Bool.false_eq_true, if_true,
    if_false]

/-- FULL and STAGED placed where R296 allows: the table images, then the copy without a tile. -/
theorem workingCopyBody_placed (hop : arg c 1 ≠ 0) (hwc : t.wc = none) (hrc0 : wcPartCode w c.mid t.params (wcAsked c) .h0 = rcDone)
    (hrc1 : wcPartCode w c.mid t.params (wcAsked c) .h1 = rcDone) : workingCopyBody remote w c =
    let u := wcTables (wcTables w remote t (wcAsked c) 5 .h0) remote t (wcAsked c) 5 .h1
    let v := tensorMod u t.id (fun t => { t with wc := some (wcAsked c) })
    if arg c 1 == 1 then cmdWait v c.src else complete v c rcDone [] := by
  simp only [wcAsked, beq_iff_eq] at *
  simp only [workingCopyBody, hacc, ht, hop, hwc, hrc0, hrc1, if_neg htier, List.isEmpty_nil, Option.isSome_none, ne_eq,
    not_true_eq_false, Bool.not_true, Bool.false_eq_true, if_false]

end workingCopy

/-- Dropping a working copy that no FULL still waits for changes the tensor's entry alone. -/
theorem wcEnd_settled {s : State} {t : Tensor} (ht : tget s.tensors t.id = some t) (hsrc : t.wc.bind (·.src) = none) :
    wcEnd s t = { s with tensors := tset s.tensors t.id { t with wc := none } } := by
  simp only [wcEnd, wcStop, hsrc, tensorMod, tmod, ht]

/-! ### TILE_PRESENCE_SET (R298, R299, R301) -/

section tilePresence

variable {s : State} {id tile cls : Nat} {t : Tensor} {w : WorkCopy} {remote : RemoteRead} (ht : tget s.tensors id = some t)
  (hw : t.wc = some w)
include ht hw

/-- A tile that no entry of a STAGED copy asked for is not due. -/
theorem execTilePresenceSet_unasked (hcls : wcClass w tile = none) : execTilePresenceSet id tile remote s = .next s := by
  simp only [execTilePresenceSet, ht, hw, hcls, Option.bind_some, Option.map_none]

/-- A tile of a damaged tensor, one beyond its tiles, and one already present are left alone. -/
theorem execTilePresenceSet_kept (hno : t.damaged = true ∨ nTiles t.params ≤ tile ∨ tile ∈ w.present) :
    execTilePresenceSet id tile remote s = .next s := by
  cases hcls : wcClass w tile with
  | none => exact execTilePresenceSet_unasked ht hw hcls
  | some cls =>
    simp only [execTilePresenceSet, ht, hw, hcls, Option.bind_some, Option.map_some]
    refine if_pos ?_
    rcases hno with hdam | htile | hin
    · exact .inl hdam
    · exact .inr (.inl htile)
    · exact .inr (.inr (.inl (List.contains_iff_mem.mpr hin)))

/-- A tile that is due and whose way is open is written payload first and colophon last, and then its presence bit is set. -/
theorem execTilePresenceSet_copies (hcls : wcClass w tile = some cls) (hdam : t.damaged = false) (htile : tile < nTiles t.params)
    (hin : tile ∉ w.present) (hnear : daRange (masterTile t tile).1 ≤ 2)
    (hpay : spanUsable s (wcTile t.params w tile).1 (slotBytes t.params) = true)
    (hcol : spanUsable s (wcTile t.params w tile).2 32 = true)
    (hcap : capOpen s cls (readPath (masterTile t tile).1 (.tier (wcHalf w tile))
      ++ writePath (wcTile t.params w tile).1 (.tier (wcHalf w tile))) = true)
    (hgood : (readFolio s t.master t.params (masterTile t tile).1 (masterTile t tile).2 t.tbase).2.2 = false) :
    execTilePresenceSet id tile remote s =
      let m := masterTile t tile
      let k := wcTile t.params w tile
      let n := slotBytes t.params
      let die := Die.tier (wcHalf w tile)
      let r := readFolio s t.master t.params m.1 m.2 t.tbase
      let u := wcTablesDue r.1 (.data (slice r.2.1 (32 + n) (16 * t.params.ntab)) false) t w cls tile
      let v := chargeRead (chargeRead u cls m.1 n die) cls m.2 32 die
      .next (wcComplete (tensorMod (chargeWrite (chargeWrite
        (rtWrite (rtWrite v t.master k.1 (slice r.2.1 32 n)) t.master k.2 (slice r.2.1 0 32)) cls k.1 n die) cls k.2 32 die) id
        (fun t => { t with wc := t.wc.map (fun w => { w with
          present := w.present ++ [tile], copying := tdel w.copying tile }) })) id) := by
  have hfree : ¬(t.damaged = true ∨ nTiles t.params ≤ tile ∨ w.present.contains tile = true
      ∨ (!spanUsable s (wcTile t.params w tile).1 (slotBytes t.params)) = true
      ∨ (!spanUsable s (wcTile t.params w tile).2 32) = true
      ∨ (!capOpen s cls (readPath (masterTile t tile).1 (.tier (wcHalf w tile))
        ++ writePath (wcTile t.params w tile).1 (.tier (wcHalf w tile)))) = true) := by
    simp [hdam, htile, hin, hpay, hcol, hcap]
  simp only [execTilePresenceSet, ht, hw, hcls, Option.bind_some, Option.map_some, if_neg hfree, if_pos hnear, hgood,
    Bool.false_eq_true, if_false]

end tilePresence

/-- The class of a tile that is due: 5 under FULL, else that of the entry that asked for it (R299, R491). -/
theorem wcClass_due {w : WorkCopy} {tile : Nat} (hdue : w.mode = .full ∨ thas w.copying tile = true) :
    wcClass w tile = some (if w.mode = .full then 5 else tgetD w.copying tile 0) := by
  unfold wcClass
  split
  · rfl
  · obtain ⟨cls, hcls⟩ := Option.isSome_iff_exists.mp (hdue.resolve_left ‹_›)
    simp only [tgetD, hcls, Option.getD_some]

theorem wcClass_unasked {w : WorkCopy} {tile : Nat} (hmode : w.mode ≠ .full) (hask : thas w.copying tile = false) :
    wcClass w tile = none :=
  (if_neg hmode).trans (Option.not_isSome_iff_eq_none.mp (Bool.eq_false_iff.mp hask))

/-- Settles O29: each clause is the rule above for the branch that its hypotheses name. -/
theorem workingCopies : Obligations.WorkingCopies := by
  refine ⟨?command, ?dropped, fun s t => wcEnd_settled, ?copied, ?kept⟩
  case command =>
    intro s src c t remote h hacc w ht htier
    rw [exec_workingCopy remote h]
    refine ⟨fun hop hidle => congrArg _ ?_, fun hop hbusy => congrArg _ ?_,
      fun hop hwc => congrArg _ (workingCopyBody_inForce hacc ht htier hop hwc),
      fun hop hwc hrc0 hrc1 => congrArg _ (workingCopyBody_placed hacc ht htier hop hwc hrc0 hrc1)⟩
    · exact (workingCopyBody_none hacc ht htier hop).trans (if_neg (Bool.eq_false_iff.mp hidle))
    · exact (workingCopyBody_none hacc ht htier hop).trans (if_pos hbusy)
  case dropped =>
    intro s src c remote h hacc hidle
    rw [exec_workingCopy remote h, workingCopyBody_dropped hacc hidle]
  case copied =>
    rintro s id tile t w remote _ ht hw hdam htile hin rfl hdue hnear m k n die hpay hcol hcap r hgood u v
    exact execTilePresenceSet_copies ht hw (wcClass_due hdue) hdam htile hin hnear hpay hcol hcap hgood
  case kept =>
    rintro s id tile t w remote ht hw (hdam | htile | hin | ⟨hmode, hask⟩)
    · exact execTilePresenceSet_kept ht hw (.inl hdam)
    · exact execTilePresenceSet_kept ht hw (.inr (.inl htile))
    · exact execTilePresenceSet_kept ht hw (.inr (.inr hin))
    · exact execTilePresenceSet_unasked ht hw (wcClass_unasked hmode hask)

end Sys2Proof.Machine
end

section
/-! SUPPORT. What each command of the CXL mailbox answers while the mailbox is served, that none does anything while it is not, and
the statement on them (R314, R465 to R467, R486, R686, R691). -/

namespace Sys2Proof.Machine

section mailServed

variable {s : State} (hup : mailUp s = true)
include hup

theorem not_mailDown : ¬(!mailUp s) = true := by simp [hup]

theorem exec_identifyMemoryDevice_served : exec .identifyMemoryDevice s = .next (mailAnswer s cxlSuccess
    (mailFree 1 16 ++ leBytes 8 0 ++ leBytes 8 0 ++ leBytes 8 0 ++ leBytes 8 0 ++ mailFree 2 21)) :=
  if_neg (not_mailDown hup)

theorem exec_getEventRecords_served : exec .getEventRecords s = .next (mailAnswer s cxlSuccess
    (zeros 20 ++ leBytes 2 s.host.events.length ++ zeros 10 ++ (s.host.events.map eventBytes).flatten)) :=
  if_neg (not_mailDown hup)

/-- CLEAR_EVENT_RECORDS of records that are all held. -/
theorem exec_clearEventRecords_held {hs : List Nat} (hheld : ∀ h ∈ hs, ∃ e ∈ s.host.events, e.1 = h) :
    exec (.clearEventRecords hs) s = .next (mailAnswer { s with
      host := { s.host with events := s.host.events.filter (fun e => !hs.contains e.1) } } cxlSuccess []) :=
  (if_neg (not_mailDown hup)).trans (if_pos (by simpa using hheld))

/-- CLEAR_EVENT_RECORDS that names a record which is not held. -/
theorem exec_clearEventRecords_unheld {hs : List Nat} {h : Nat} (hh : h ∈ hs) (hnone : ∀ e ∈ s.host.events, e.1 ≠ h) :
    exec (.clearEventRecords hs) s = .next (mailAnswer s cxlInvalidHandle []) := by
  refine (if_neg (not_mailDown hup)).trans (if_neg fun hall => ?_)
  obtain ⟨e, he, heq⟩ := List.any_eq_true.mp (List.all_eq_true.mp hall h hh)
  exact hnone e he (beq_iff_eq.mp heq)

theorem exec_getPoisonList_served (start len : Nat) : exec (.getPoisonList start len) s =
    let l := (((s.plain.granules.map (fun g => poisonIn s g.1 g.2)).flatten).filter
      (fun o => decide (start ≤ o) && decide (o < start + len))).mergeSort (· ≤ ·)
    .next (mailAnswer s cxlSuccess (zeros 10 ++ leBytes 2 l.length ++ zeros 20
      ++ (l.map (fun o => leBytes 8 o ++ leBytes 4 1 ++ zeros 4)).flatten)) :=
  if_neg (not_mailDown hup)

theorem exec_getHealthInfo_served : exec .getHealthInfo s = .next (mailAnswer s cxlSuccess (mailFree 4 18)) :=
  if_neg (not_mailDown hup)

theorem exec_getDynamicCapacityConfiguration_served : exec .getDynamicCapacityConfiguration s =
    .next (mailAnswer s cxlSuccess (leBytes 1 1 ++ leBytes 1 1 ++ zeros 6 ++ leBytes 8 0 ++ leBytes 8 (1920 * 4)
      ++ leBytes 8 (1920 * gib) ++ leBytes 8 gib ++ mailFree 5 8 ++ mailFree 6 16)) :=
  if_neg (not_mailDown hup)

theorem exec_getDynamicCapacityExtentList_served (start count : Nat) : exec (.getDynamicCapacityExtentList start count) s =
    let l := (s.host.dcExtents.drop start).take count
    .next (mailAnswer s cxlSuccess (leBytes 4 l.length ++ leBytes 4 s.host.dcExtents.length
      ++ mailFree (64 + s.host.nextEvent) 4 ++ zeros 4 ++ (l.map dcExtent).flatten)) :=
  if_neg (not_mailDown hup)

/-- An opcode that R467 does not list. -/
theorem exec_mailboxUnsupported_served {op : Nat}
    (hop : op ∉ [0x4000, 0x0100, 0x0101, 0x4300, 0x4200, 0x4800, 0x4801, 0x4802, 0x4803]) :
    exec (.mailboxUnsupported op) s = .next (mailAnswer s cxlUnsupported []) :=
  if_neg (by rw [hup, Bool.not_true, Bool.false_or, List.contains_iff_mem]; exact hop)

end mailServed

/-- While the mailbox is not served, a command whose meaning asks for it first does nothing. -/
theorem ite_mailDown {s : State} {o : Out} (hdown : mailUp s = false) : (if !mailUp s then .next s else o) = .next s :=
  if_pos (by simp [hdown])

/-- Settles O60: each clause is the rule above for the command that it names. -/
theorem mailboxAnswers : Obligations.MailboxAnswers := by
  intro s
  refine ⟨fun hup => ⟨exec_identifyMemoryDevice_served hup, exec_getEventRecords_served hup, fun hs => ⟨?cleared, ?unheld⟩, ?poison,
    exec_getHealthInfo_served hup, exec_getDynamicCapacityConfiguration_served hup, ?extents,
    fun op => exec_mailboxUnsupported_served hup⟩, fun hdown => ?down⟩
  case cleared => exact fun hheld => ⟨_, exec_clearEventRecords_held hup hheld, rfl, rfl, rfl⟩
  case unheld => exact fun h hh hnone => exec_clearEventRecords_unheld hup hh hnone
  case poison =>
    rintro start len _ rfl
    exact exec_getPoisonList_served hup start len
  case extents =>
    rintro start n _ rfl
    exact exec_getDynamicCapacityExtentList_served hup start n
  case down =>
    exact ⟨ite_mailDown hdown, ite_mailDown hdown, fun hs => ite_mailDown hdown,
      fun a n => ⟨ite_mailDown hdown, ite_mailDown hdown⟩, ite_mailDown hdown, ite_mailDown hdown,
      fun op => if_pos (by simp only [hdown, Bool.not_false, Bool.true_or])⟩

end Sys2Proof.Machine
end

section
/-! SUPPORT. What PLAIN_GRANULE, PLAIN_CACHE and PLAIN_FLUSH do, how the host's answers end a granule's change, one rule for each
branch, and the statement on them (R312, R314, R316, R323, R328, R466, R467, R562). -/

namespace Sys2Proof.Machine

/-! ### The rows of the commands -/

section plainCommands

variable {s : State} {src : DeskSrc} {c : RunCmd}

theorem exec_plainGranule (h : Serves s src 0x0309 c) :
    exec (.plainGranule src) s = .next (plainGranuleBody (leaveSleep s) c) :=
  congrArg Host.Outcome.next (deskRun_leaveSleep _ h (by decide))

theorem exec_plainCache (h : Serves s src 0x030A c) : exec (.plainCache src) s = .next (plainCacheBody (leaveSleep s) c) :=
  congrArg Host.Outcome.next (deskRun_leaveSleep _ h (by decide))

theorem exec_plainFlush (h : Serves s src 0x030B c) : exec (.plainFlush src) s = .next (plainFlushBody (leaveSleep s) c) :=
  congrArg Host.Outcome.next (deskRun_leaveSleep _ h (by decide))

end plainCommands

/-! ### PLAIN_GRANULE (R26, R312, R314, R466, R562) -/

section plainGranule

variable {w : State} {c : RunCmd}

/-- PLAIN_GRANULE ADD with a free home takes it, writes zeros over it and asks the host. -/
theorem plainGranuleBody_adds {b : Nat} (hop : arg c 0 = 0) (hfields : granFieldsOk w c = true)
    (hnew : tget w.plain.granules (arg c 3) = none) (hopen : tierClosed w 2 (halfOf (arg c 1)) = false)
    (hrun : findRun w 2 (halfOf (arg c 1)) 512 true = some b) (hzero : zeroOpen w (b * mib2) = true) : plainGranuleBody w c =
    let p : PlainGran := { half := halfOf (arg c 1), home := b * mib2, owner := arg c 4, tenant := (tenantOf w (arg c 4)).getD 0
                           access := ((accEntries c).take (arg c 5)).map (fun e => (e % 4096, natBit e 12, natBit e 13))
                           protect := natBit (arg c 2) 0, state := .adding c.src w.now }
    let z := chargeZero (dramZero w (b * mib2) gib) (b * mib2) gib
    cmdWait (postDcEvent { z with plain := { z.plain with granules := tset z.plain.granules (arg c 3) p } } (arg c 3) true)
      c.src := by
  simp only [plainGranuleBody, hop, hfields, thas, hnew, hopen, hrun, hzero, Option.isSome_none, Bool.not_true,
    Bool.false_eq_true, if_true, if_false]

variable {p : PlainGran} (hop : arg c 0 ≠ 0) (hp : tget w.plain.granules (arg c 3) = some p)
include hop hp

/-- PLAIN_GRANULE REMOVE, before its switch tick: a granule at rest is asked back from the host. -/
theorem plainGranuleBody_removes (hleave : leavingFor p c.src = false) : plainGranuleBody w c =
    if p.state ≠ .inService ∨ granInWindow w (arg c 3) = true ∨ p.accessedAt = some w.now then failWith w c rcConflict
    else cmdWait (postDcEvent { w with plain := { w.plain with
      granules := tset w.plain.granules (arg c 3) { p with state := .removing c.src w.now } } } (arg c 3) false) c.src := by
  simp only [plainGranuleBody, hp, hleave, if_neg hop, Bool.false_eq_true, if_false]

/-- PLAIN_GRANULE REMOVE, past its switch tick. -/
theorem plainGranuleBody_leaves (hleave : leavingFor p c.src = true) :
    plainGranuleBody w c = granuleLeave w c (arg c 3) p := by
  simp only [plainGranuleBody, hp, hleave, if_neg hop, if_true]

end plainGranule

theorem leavingFor_inService {p : PlainGran} {src : DeskSrc} (hp : p.state = .inService) : leavingFor p src = false := by
  simp only [leavingFor, hp]

/-- A granule past its switch tick leaves once no request of an earlier cycle waits on it. -/
theorem granuleLeave_gone {w : State} {c : RunCmd} {g : Nat} {p : PlainGran} (htick : p.state ≠ .leaving c.src w.now)
    (hwaits : w.plain.waits.any (fun x => decide (x.off / gib ≤ g) && decide (g ≤ (x.off + x.len - 1) / gib)) = false) :
    granuleLeave w c g p = complete (granuleGone (dropGranules w g 1) g p) c rcDone [] :=
  if_neg (not_or_intro htick (Bool.eq_false_iff.mp hwaits))

/-! ### The host's answers (R314, R466, R467) -/

/-- The ten seconds in which the host is to answer. -/
theorem secT_ten : secT 10 = 160000000000 := rfl

section answers

variable {s : State} {g : Nat}

theorem exec_addDynamicCapacityResponse (hup : mailUp s = true) (accepted : Bool) :
    exec (.addDynamicCapacityResponse g accepted) s =
      .next (mailAnswer (if accepted then granuleAccepted s g else granuleRejected s g) cxlSuccess []) :=
  if_neg (not_mailDown hup)

theorem exec_releaseDynamicCapacity (hup : mailUp s = true) :
    exec (.releaseDynamicCapacity g) s = .next (mailAnswer (granuleRemoved s g) cxlSuccess []) :=
  if_neg (not_mailDown hup)

variable {p : PlainGran} {src : DeskSrc} {since : Nat} (hp : tget s.plain.granules g = some p)
include hp

theorem granuleRejected_adding (hstate : p.state = .adding src since) :
    granuleRejected s g = completeSrc (granuleGone s g p) src rcConflict [] := by
  simp only [granuleRejected, hp, hstate]

theorem granuleAccepted_inTime (hstate : p.state = .adding src since) (htime : s.now ≤ since + secT 10) :
    granuleAccepted s g = completeSrc { s with
      plain := { s.plain with granules := tset s.plain.granules g { p with state := .inService, tick := some s.now } }
      host := { s.host with dcExtents := s.host.dcExtents ++ [g] } } src rcDone [] := by
  simp only [granuleAccepted, hp, hstate, if_neg (Nat.not_lt.mpr htime)]

theorem granuleRemoved_removing (hstate : p.state = .removing src since) : granuleRemoved s g = { s with
    plain := { s.plain with granules := tset s.plain.granules g { p with state := .leaving src s.now } }
    cp := { s.cp with running := s.cp.running.map (fun c => if c.src = src then { c with waiting := false } else c) } } := by
  simp only [granuleRemoved, hp, hstate]

variable (hlate : since + secT 10 ≤ s.now)
include hlate

theorem exec_dynamicCapacityTimeout_adding (hstate : p.state = .adding src since) :
    exec (.dynamicCapacityTimeout g) s = .next (granuleRejected s g) := by
  show execDynamicCapacityTimeout g s = _
  simp only [execDynamicCapacityTimeout, hp, hstate, if_pos hlate]

theorem exec_dynamicCapacityTimeout_removing (hstate : p.state = .removing src since) :
    exec (.dynamicCapacityTimeout g) s = .next (granuleRemoved s g) := by
  show execDynamicCapacityTimeout g s = _
  simp only [execDynamicCapacityTimeout, hp, hstate, if_pos hlate]

end answers

/-! ### PLAIN_CACHE and PLAIN_FLUSH (R316, R323, R328) -/

section plainCache

variable {w : State} {c : RunCmd}

theorem plainCacheBody_free (h0 : topFree w .h0 (arg c 0) = true) (h1 : topFree w .h1 (arg c 1) = true) : plainCacheBody w c =
    let t := runWaits (setShare (setShare w .h0 (arg c 0)) .h1 (arg c 1))
    complete { t with plain := { t.plain with period := arg c 2 } } c rcDone [] := by
  simp only [plainCacheBody, h0, h1, Bool.not_true, Bool.false_eq_true, or_self, if_false]

theorem plainCacheBody_taken (hno : topFree w .h0 (arg c 0) = false ∨ topFree w .h1 (arg c 1) = false) :
    plainCacheBody w c = failWith w c rcNoSpace :=
  if_pos (by simpa only [Bool.not_eq_true'] using hno)

end plainCache

/-- PLAIN_FLUSH of PF0, and of a master with access to each of its granules. -/
theorem plainFlushBody_allowed {w : State} {c : RunCmd} (hmay : c.mid = 1 ∨ ∀ i, i < arg c 1 → ∃ p,
      granAt w ((arg c 0 + i) * gib) = some p ∧ ((granAccess p c.mid).1 = true ∨ (granAccess p c.mid).2 = true)) :
    plainFlushBody w c = complete (flushGranules w (arg c 0) (arg c 1)) c rcDone [] := by
  refine if_neg ?_
  rintro ⟨hmid, hany⟩
  obtain ⟨i, hi, hno⟩ := List.any_eq_true.mp hany
  obtain ⟨p, hp, hacc⟩ := hmay.resolve_left hmid i (List.mem_range.mp hi)
  simp only [hp] at hno
  rcases hacc with h | h <;> simp [h] at hno

/-- Settles O31: each clause is the rule above for the branch that its hypotheses name. -/
theorem plainGranulesAndCache : Obligations.PlainGranulesAndCache := by
  refine ⟨?adds, ?removes, ?answered, ?released, ?late, ?cache, ?flush⟩
  case adds =>
    intro s src c b h w half g hop hfields hnew hopen hrun
    exact fun hzero => (exec_plainGranule h).trans (congrArg _ (plainGranuleBody_adds hop hfields hnew hopen hrun hzero))
  case removes =>
    intro s src c p h w g hop hp
    rw [exec_plainGranule h]
    refine ⟨fun hserves hwin hacc => congrArg _ ?_, fun hleave hbusy => congrArg _ ?_,
      fun hleave htick hwaits => congrArg _ ((plainGranuleBody_leaves hop hp hleave).trans (granuleLeave_gone htick hwaits))⟩
    · refine (plainGranuleBody_removes hop hp (leavingFor_inService hserves)).trans (if_neg ?_)
      rintro (hstate | hin | hnow)
      · exact hstate hserves
      · exact Bool.eq_false_iff.mp hwin hin
      · exact hacc hnow
    · exact (plainGranuleBody_removes hop hp hleave).trans (if_pos hbusy)
  case answered =>
    intro s g p src since hup hp hstate
    rw [← secT_ten]
    refine ⟨fun htime => ?_, ?_⟩
    · rw [exec_addDynamicCapacityResponse hup, if_pos rfl, granuleAccepted_inTime hp hstate htime]
    · rw [exec_addDynamicCapacityResponse hup, if_neg Bool.false_ne_true, granuleRejected_adding hp hstate]
  case released =>
    intro s g p src since hup hp hstate
    rw [exec_releaseDynamicCapacity hup, granuleRemoved_removing hp hstate]
  case late =>
    intro s g p src since hp hlate
    rw [← secT_ten] at hlate
    refine ⟨fun hstate => ?_, fun hstate => ?_⟩
    · rw [exec_dynamicCapacityTimeout_adding hp hlate hstate, granuleRejected_adding hp hstate]
    · rw [exec_dynamicCapacityTimeout_removing hp hlate hstate, granuleRemoved_removing hp hstate]
  case cache =>
    intro s src c h w
    rw [exec_plainCache h]
    exact ⟨fun h0 h1 => congrArg _ (plainCacheBody_free h0 h1), fun hno => congrArg _ (plainCacheBody_taken hno)⟩
  case flush =>
    intro s src c h w hmay
    rw [exec_plainFlush h, plainFlushBody_allowed hmay]

end Sys2Proof.Machine
end

section
/-! SUPPORT. What plain reads and writes, fills, evictions, sweeps and bindery timeouts do, one rule for each branch, and the statement
on them (R312, R313, R315, R320, R322 to R326, R332, R333, R468). -/

namespace Sys2Proof.Machine

/-! ### Plain reads (R313, R320, R326, R468) -/

section reads

variable {s : State}

theorem exec_plainRead {mid off n : Nat} {path : PlainPath} (hserved : tierServed s = true) (hn : 0 < n) :
    exec (.plainRead mid path off n) s = .next (plainRead s mid (pathTo path mid).1 (pathTo path mid).2 off n) :=
  if_pos ⟨hserved, hn⟩

variable {r : CacheWait} (hforms : r.forms = [])
include hforms

/-- A read that waits behind another request, or whose path is at a cap, is kept with what it has matched of weight windows. -/
theorem serveRead_waits {u : State} {l : List (Nat × Bytes × Bool)}
    (hwait : behindWait s r.off r.len false = true ∨ plainOpen s r = false) (hl : windowForms r.len s r.off r.len = (u, l)) :
    serveRead s r = parkWait u { r with forms := l } := by
  have hheld : (behindWait s r.off r.len false || !plainOpen s r) = true := by simpa using hwait
  simp only [serveRead, hheld, hforms, hl, List.isEmpty_nil, if_true]

/-- A read that meets a line which is not there yet is kept with what it has matched of weight windows. -/
theorem serveRead_stalls {t u : State} {l : List (Nat × Bytes × Bool)} (hbehind : behindWait s r.off r.len false = false)
    (hpath : plainOpen s r = true) (hget : plainGet r.die r.stalled r.forms r.len s r.off r.len = (t, none))
    (hl : windowForms r.len t r.off r.len = (u, l)) :
    serveRead s r = parkWait u { stalledNow s t r with forms := l } := by
  have hkept : (stalledNow s t r).forms = [] := hforms
  simp only [serveRead, hbehind, hpath, hget, hkept, List.isEmpty_nil, Bool.not_true, Bool.or_self, Bool.false_eq_true, if_true,
    if_false]
  simp only [stalledNow, hl]

end reads

/-- A line that is not cached comes from its home in class 2, under what the bindery holds of it (R14, R315, R320, R334). -/
theorem plainLineGet_uncached {s : State} {p : PlainGran} {off : Nat} {d : Die} {counted : Bool} (hline : off % 64 = 0)
    (hentry : entryOf s p.half (daMk 8 off) = none) (hcache : cacheable s p off = false)
    (hfence : (s.halves.get p.half).fenced = false) : plainLineGet s p off d counted =
    let r := plainLine (chargeRead s 2 (homeOf s off) 64 d) p off
    (r.1, some (lineOver r.1 p.half off r.2.1, r.2.2)) := by
  have hoff : lineOf off = off := by unfold lineOf; omega
  simp only [plainLineGet, hoff, hentry, hcache, hfence, Bool.false_eq_true, if_false]

/-- A read of one plain line outside weight windows is that line's. -/
theorem plainGet_line {s : State} {d : Die} {counted : Bool} {forms : List (Nat × Bytes × Bool)} {p : PlainGran} {off : Nat}
    {t : State} {b : Bytes} {bad : Bool} (fuel : Nat) (hgran : tget s.plain.granules (off / gib) = some p) (hline : off % 64 = 0)
    (hwin : windowAt s off = none) (hget : plainLineGet s p off d counted = (t, some (b, bad))) :
    plainGet d counted forms (fuel + 1) s off 64 = (t, some ((b.drop 0).take 64 ++ [], (if bad then [off / 64] else []) ++ [])) := by
  have hchunk : lineChunk off 64 = 64 := by
    rw [lineChunk, hline]
    rfl
  have hlen : ¬(64 = 0) := by decide
  simp only [plainGet, hwin, hgran, hchunk, hget, hline, Nat.sub_self, plainGet_done, if_neg hlen]

/-! ### Plain writes (R21, R313, R326, R332, R468) -/

section writes

variable {s : State} {mid off : Nat} {b : Bytes}

theorem exec_plainWrite {path : PlainPath} (hserved : tierServed s = true) (hb : b ≠ []) :
    exec (.plainWrite mid path off b) s =
      .next (plainWrite (chargeHostRx s 2 mid b.length) mid (pathTo path mid).1 (pathTo path mid).2 off b) :=
  if_pos ⟨hserved, hb⟩

section

variable {dest : ReplyTo} {path : Nat}

theorem plainWrite_allowed (hallow : plainAllowed (leaveSleep s) mid off b.length true = true) :
    plainWrite s mid dest path off b = serveWrite (granTouch (leaveSleep s) off b.length)
      { mid := mid, dest := dest, die := replyDie (leaveSleep s) dest, off := off, len := b.length, write := some b } b :=
  if_pos hallow

theorem plainWrite_refused (hdeny : plainAllowed (leaveSleep s) mid off b.length true = false) :
    plainWrite s mid dest path off b =
      replyWrite (logRefused (leaveSleep s) mid (daMk 8 off) path rcNotPermitted) dest 0x20 :=
  if_neg (Bool.eq_false_iff.mp hdeny)

end

variable {r : CacheWait}

theorem serveWrite_fenced (hfence : anyFenced s = true) : serveWrite s r b = replyWrite s r.dest rcPoisoned :=
  if_pos hfence

variable (hfence : anyFenced s = false)
include hfence

theorem serveWrite_waits (hwait : behindWait s r.off r.len true = true ∨ plainOpen s r = false) :
    serveWrite s r b = parkWait s r :=
  (if_neg (Bool.eq_false_iff.mp hfence)).trans (if_pos (by simpa using hwait))

variable (hbehind : behindWait s r.off r.len true = false) (hpath : plainOpen s r = true)
include hbehind hpath

theorem serveWrite_takes {t : State} (hset : plainSet r.die r.stalled b.length s r.mid r.off b = (t, none)) :
    serveWrite s r b = replyWrite t r.dest 0 := by
  simp only [serveWrite, hfence, hbehind, hpath, hset, Bool.not_true, Bool.or_self, Bool.false_eq_true, if_false]

/-- A write that meets a line which cannot be taken yet waits with what is left of it. -/
theorem serveWrite_stalls {t : State} {o : Nat} {l : Bytes}
    (hset : plainSet r.die r.stalled b.length s r.mid r.off b = (t, some (o, l))) :
    serveWrite s r b = parkWait t { stalledNow s t r with off := o, len := l.length, write := some l } := by
  simp only [serveWrite, hfence, hbehind, hpath, hset, Bool.not_true, Bool.or_self, Bool.false_eq_true, if_false]

end writes

/-! ### Fills, evictions, sweeps, bindery timeouts (R315, R320, R323, R324, R333) -/

section sweep

variable {s : State} {h : Half} {k : Nat × Nat} {w : Way} (hw : wayAt s h k = w) (hvalid : w.state = .valid)
include hw hvalid

/-- A young block ages by one. -/
theorem sweepWay_young (hage : w.age < 7) : sweepWay s h k = putWay s h k { w with age := w.age + 1 } := by
  have hone : min 15 (w.age + 1) = w.age + 1 := by omega
  have hclean : ¬(8 ≤ w.age + 1 ∧ w.dirty ≠ 0 ∧ evictOpen (putWay s h k { w with age := w.age + 1 }) h w = true) := by omega
  have hstays : w.age + 1 ≠ 15 := by omega
  simp only [sweepWay, hw, if_pos hvalid, hone, if_neg hclean, if_neg hstays]

/-- A dirty block that has reached the age of 8 is written back where class 5 has room. -/
theorem sweepWay_dirty (hold : 7 ≤ w.age) (hage : w.age < 14) (hdirty : w.dirty ≠ 0)
    (hopen : evictOpen (putWay s h k { w with age := w.age + 1 }) h w = true) :
    sweepWay s h k = writeBackWay (putWay s h k { w with age := w.age + 1 }) h k := by
  have hone : min 15 (w.age + 1) = w.age + 1 := by omega
  have hback : 8 ≤ w.age + 1 ∧ w.dirty ≠ 0 ∧ evictOpen (putWay s h k { w with age := w.age + 1 }) h w = true :=
    ⟨by omega, hdirty, hopen⟩
  have hstays : w.age + 1 ≠ 15 := by omega
  simp only [sweepWay, hw, if_pos hvalid, hone, if_pos hback, if_neg hstays]

end sweep

theorem exec_weedingSweep_due {s : State} (hserved : tierServed s = true)
    (hdue : s.plain.lastSweep + usT (64 * 2 ^ s.plain.period) ≤ s.now) : exec .weedingSweep s =
    let t := (waysInOrder s .h0).foldl (fun s k => sweepWay s .h0 k) s
    let u := (waysInOrder t .h1).foldl (fun s k => sweepWay s .h1 k) t
    .next { u with plain := { u.plain with lastSweep := u.now } } :=
  if_pos ⟨hserved, hdue⟩

/-- The 2 us of a bindery entry. -/
theorem usT_two : usT 2 = 32000 := rfl

theorem exec_binderyTimeout_due {s : State} {h : Half} {line : Nat} {e : BinderyEntry} (he : entryOf s h line = some e)
    (hdue : e.since + usT 2 ≤ s.now) : exec (.binderyTimeout h line) s = .next (retireEntry s h e) := by
  show execBinderyTimeout h line s = _
  simp only [execBinderyTimeout, he, if_pos hdue]

/-- Settles O34: each clause is the rule above for the branch that its hypotheses name. -/
theorem plainRequests : Obligations.PlainRequests := by
  refine ⟨?reads, ?writes, ?line, ?fill, fun s h set way hstate hopen => if_pos ⟨hstate, hopen⟩,
    fun s => exec_weedingSweep_due, fun s h k w hw hvalid => ⟨sweepWay_young hw hvalid, sweepWay_dirty hw hvalid⟩, ?timeout⟩
  case reads =>
    rintro s _ mid path off n hserved hn rfl v r
    rw [exec_plainRead hserved hn]
    refine ⟨fun t b bad hallow hbehind hpath hget => congrArg _ ?_, fun t u l hallow hbehind hpath hget hl => congrArg _ ?_,
      fun u l hallow hwait hl => congrArg _ ?_, fun hdeny => congrArg _ (plainRead_refused hdeny)⟩
    · exact (plainRead_allowed hallow).trans (serveRead_gets hbehind hpath hget)
    · exact (plainRead_allowed hallow).trans (serveRead_stalls rfl hbehind hpath hget hl)
    · exact (plainRead_allowed hallow).trans (serveRead_waits rfl hwait hl)
  case writes =>
    rintro s _ mid path off b hserved hb rfl v r
    rw [exec_plainWrite hserved hb]
    refine ⟨fun t hallow hfence hbehind hpath hset => congrArg _ ?_, fun t o l hallow hfence hbehind hpath hset => congrArg _ ?_,
      fun hallow hfence hwait => congrArg _ ?_, fun hallow hfence => congrArg _ ?_,
      fun hdeny => congrArg _ (plainWrite_refused hdeny)⟩
    · exact (plainWrite_allowed hallow).trans (serveWrite_takes (r := r) hfence hbehind hpath hset)
    · exact (plainWrite_allowed hallow).trans (serveWrite_stalls (r := r) hfence hbehind hpath hset)
    · exact (plainWrite_allowed hallow).trans (serveWrite_waits hfence hwait)
    · exact (plainWrite_allowed hallow).trans (serveWrite_fenced hfence)
  case line =>
    intro s d p off hgran hline hwin hentry hcache hfence
    exact plainGet_line 63 hgran hline hwin (plainLineGet_uncached hline hentry hcache hfence)
  case fill =>
    intro s h set way line hstate hline hempty hopen
    exact if_pos ⟨hstate, hline, by simp [hempty], hopen⟩
  case timeout =>
    intro s h line e he hdue
    rw [← usT_two] at hdue
    exact exec_binderyTimeout_due he hdue

end Sys2Proof.Machine
end

section
/-! SUPPORT. What the tenant commands, MASTER_BIND and VOLUME_KEY do, one rule for each branch, and the statement on them (R390,
R554 to R558, R601, R616, R625). -/

namespace Sys2Proof.Machine

/-! ### The rows of the commands -/

section tenantCommands

variable {s : State} {src : DeskSrc} {c : RunCmd}

theorem exec_tenantCreate (h : Serves s src 0x0201 c) : exec (.tenantCreate src) s = .next (tenantCreateBody (leaveSleep s) c) :=
  congrArg Host.Outcome.next (deskRun_leaveSleep _ h (by decide))

theorem exec_tenantSet (h : Serves s src 0x0202 c) : exec (.tenantSet src) s = .next (tenantSetBody (leaveSleep s) c) :=
  congrArg Host.Outcome.next (deskRun_leaveSleep _ h (by decide))

theorem exec_tenantDestroy (h : Serves s src 0x0203 c) :
    exec (.tenantDestroy src) s = .next (tenantDestroyBody (leaveSleep s) c) :=
  congrArg Host.Outcome.next (deskRun_leaveSleep _ h (by decide))

theorem exec_tenantStatus (h : Serves s src 0x0206 c) : exec (.tenantStatus src) s = .next (tenantStatusBody (leaveSleep s) c) :=
  congrArg Host.Outcome.next (deskRun_leaveSleep _ h (by decide))

theorem exec_masterBind (h : Serves s src 0x0204 c) : exec (.masterBind src) s = .next (masterBindBody (leaveSleep s) c) :=
  congrArg Host.Outcome.next (deskRun_leaveSleep _ h (by decide))

theorem exec_volumeKey (h : Serves s src 0x0205 c) : exec (.volumeKey src) s = .next (volumeKeyBody (leaveSleep s) c) :=
  congrArg Host.Outcome.next (deskRun_leaveSleep _ h (by decide))

end tenantCommands

section tenantBodies

variable {w : State} {c : RunCmd}

/-! ### TENANT_CREATE, TENANT_SET, TENANT_DESTROY, TENANT_STATUS (R390, R554 to R556, R601, R625) -/

theorem tenantCreateBody_unlocked (hdebug : w.sec.debugUnlocked = true) : tenantCreateBody w c = failWith w c rcNotPermitted :=
  if_pos hdebug

/-- TENANT_CREATE with a free number, and with one of the eight depositories free where it asks for that privilege. -/
theorem tenantCreateBody_created {t : Nat} (hdebug : w.sec.debugUnlocked = false) (hcount : w.tenants.length < 1024)
    (hdepot : arg c 0 = 1 → depositories w < 8) (hfree : leastFrom (fun t => !thas w.tenants t) 1023 1 = some t) :
    tenantCreateBody w c = complete (drew 32 { w with
      tenants := tset w.tenants t { depository := arg c 0 == 1, pool := arg c 1, t1 := arg c 2, t2 := arg c 3 }
      sec := { w.sec with tenantKeys := tset w.sec.tenantKeys t (trngBytes w.free 32) } }) c rcDone [.u 2 t] := by
  have hroom : ¬(1024 ≤ w.tenants.length ∨ ((arg c 0 == 1) = true ∧ 8 ≤ depositories w)) := by
    rintro (hfull | ⟨hask, hfull⟩)
    · omega
    · exact absurd (hdepot (beq_iff_eq.mp hask)) (Nat.not_lt.mpr hfull)
  simp only [tenantCreateBody, hdebug, if_neg hroom, hfree, Bool.false_eq_true, if_false]

section tenantSet

variable {x : Tenant} (hx : tget w.tenants (arg c 0) = some x) (ht : arg c 0 ≠ 0)
include hx ht

/-- TENANT_SET of a listed tenant other than 0 refuses quotas below what the tenant holds, and a ninth depository. -/
theorem tenantSetBody_listed : tenantSetBody w c =
    if arg c 2 < poolHeld w (arg c 0) ∨ 512 * arg c 3 < tenantUsed w (arg c 0) 1 ∨ 512 * arg c 4 < tenantUsed w (arg c 0) 2
        ∨ (x.depository = true ∧ arg c 1 ≠ 1 ∧ holdsGrant w (arg c 0) = true) then failWith w c rcConflict
    else if arg c 1 = 1 ∧ x.depository = false ∧ 8 ≤ depositories w then failWith w c rcNoSpace
    else complete { w with
      tenants := tset w.tenants (arg c 0) { x with depository := arg c 1 == 1, pool := arg c 2, t1 := arg c 3, t2 := arg c 4 } }
      c rcDone [] := by
  simp only [tenantSetBody, hx, if_neg ht, Bool.not_eq_true', beq_iff_eq, beq_eq_false_iff_ne, ne_eq]

end tenantSet

theorem tenantDestroyBody_unused (ht : arg c 0 ≠ 0) (hlisted : thas w.tenants (arg c 0) = true)
    (hmasters : ∀ m ∈ w.masters, m.2 ≠ arg c 0) (hgranules : ∀ g ∈ w.plain.granules, g.2.tenant ≠ arg c 0) :
    tenantDestroyBody w c = complete (tenantDrop w (arg c 0)) c rcDone [] := by
  have hm : w.masters.any (fun m => m.2 == arg c 0) = false :=
    List.any_eq_false.mpr fun m hin => by simpa using hmasters m hin
  have hg : w.plain.granules.any (fun g => g.2.tenant == arg c 0) = false :=
    List.any_eq_false.mpr fun g hin => by simpa using hgranules g hin
  simp only [tenantDestroyBody, if_neg ht, hlisted, hm, hg, Bool.not_true, Bool.or_self, Bool.false_eq_true, if_false]

theorem tenantStatusBody_allowed {x : Tenant} (hx : tget w.tenants (arg c 0) = some x)
    (hmay : c.mid = 1 ∨ tenantOf w c.mid = some (arg c 0)) : tenantStatusBody w c = complete w c rcDone
      [.u 2 (bitN x.depository), .u 2 (w.masters.countP (fun m => m.2 == arg c 0)), .u 2 x.pool, .u 2 (poolHeld w (arg c 0)),
       .u 2 x.t1, .u 2 x.t2, .u 4 (tenantUsed w (arg c 0) 1), .u 4 (tenantUsed w (arg c 0) 2), .u 1 (bitN x.vkey.isSome)] := by
  have hno : ¬(c.mid ≠ 1 ∧ tenantOf w c.mid ≠ some (arg c 0)) := fun h => hmay.elim h.1 h.2
  simp only [tenantStatusBody, hx, if_neg hno]

/-! ### MASTER_BIND (R557) -/

section masterBind

variable (hmid : bindable (arg c 1) = true)
include hmid

theorem masterBindBody_bind (hop : arg c 0 = 0) (ht : thas w.tenants (arg c 2) = true) : masterBindBody w c =
    if thas w.masters (arg c 1) then failWith w c rcConflict
    else complete { w with masters := tset w.masters (arg c 1) (arg c 2) } c rcDone [] := by
  simp only [masterBindBody, hmid, hop, ht, Bool.not_true, Bool.false_eq_true, if_true, if_false]

variable (hbound : tenantOf w (arg c 1) = some (arg c 2))
include hbound

theorem masterBindBody_unbind (hop : arg c 0 = 1) : masterBindBody w c =
    if ownsObject w (arg c 1) then failWith w c rcConflict else complete (unbindMaster w (arg c 1)) c rcDone [] := by
  simp only [masterBindBody, hmid, hop, hbound, Bool.not_true, Bool.false_eq_true, Nat.one_ne_zero, ne_eq, not_true_eq_false,
    if_true, if_false]

theorem masterBindBody_force (hop : arg c 0 = 2) : masterBindBody w c =
    if slipOf w (arg c 1) then failWith w c rcConflict
    else complete (unbindMaster (destroyObjects w (arg c 1)) (arg c 1)) c rcDone [] := by
  have hbind : arg c 0 ≠ 0 := by omega
  have hunbind : arg c 0 ≠ 1 := by omega
  simp only [masterBindBody, hmid, if_neg hbind, if_neg hunbind, hbound, Bool.not_true, Bool.false_eq_true, ne_eq,
    not_true_eq_false, if_false]

end masterBind

/-! ### VOLUME_KEY (R558, R616) -/

/-- A tenant's volume key replaced, which counts as an event of its key. -/
def volumeKeyEnrol (w : State) (c : RunCmd) (x : Tenant) : State :=
  complete { w with
    tenants := tset w.tenants (cmdTenant w c) { x with vkey := some (argBytes c 1), vkeyEvents := x.vkeyEvents + 1 } } c rcDone []

section volumeKey

variable {x : Tenant} (hx : tget w.tenants (cmdTenant w c) = some x)
include hx

theorem volumeKeyBody_first (hkey : x.vkey = none) (hop : arg c 0 = 0) : volumeKeyBody w c = volumeKeyEnrol w c x := by
  simp only [volumeKeyBody, hx, hkey, hop, Nat.zero_ne_one, if_false, volumeKeyEnrol]

variable {old : Bytes} (hkey : x.vkey = some old)
include hkey

theorem volumeKeyBody_second (hop : arg c 0 = 0) : volumeKeyBody w c = failWith w c rcConflict := by
  simp only [volumeKeyBody, hx, hkey, hop, if_true]

/-- VOLUME_KEY with another key is held to the signature by the key in force. -/
theorem volumeKeyBody_replace (hop : arg c 0 = 1) (hnew : old ≠ argBytes c 1) : volumeKeyBody w c =
    if Config.sm2Verify (ascii "1234567812345678") old (vbytes (Config.sm3 (argBytes c 1))) (argBytes c 2) then volumeKeyEnrol w c x
    else failWith w c rcSignatureFail := by
  simp only [volumeKeyBody, hx, hkey, hop, if_neg hnew, Nat.one_ne_zero, if_false, volumeKeyEnrol]

end volumeKey

end tenantBodies

/-- Settles O23: each clause is the rule above for the branch that its hypotheses name. -/
theorem tenantsAndMasters : Obligations.TenantsAndMasters := by
  refine ⟨?create, ?unlocked, ?set, ?destroy, ?status, ?bind, ?key⟩
  case create =>
    intro s src c t h hdebug hcount hdepot hfree
    rw [exec_tenantCreate h, tenantCreateBody_created (w := leaveSleep s) hdebug hcount hdepot hfree]
    rfl
  case unlocked =>
    intro s src c h hdebug
    rw [exec_tenantCreate h, tenantCreateBody_unlocked (w := leaveSleep s) hdebug]
  case set =>
    intro s src c x h hx ht low
    rw [exec_tenantSet h, tenantSetBody_listed (w := leaveSleep s) hx ht]
    refine ⟨fun hlow => congrArg _ (if_pos hlow), fun hlow hdepot => congrArg _ ((if_neg hlow).trans (if_neg ?_))⟩
    rintro ⟨hask, hnot, hfull⟩
    exact absurd (hdepot hask hnot) (Nat.not_lt.mpr hfull)
  case destroy =>
    intro s src c h ht hlisted hmasters hgranules
    rw [exec_tenantDestroy h, tenantDestroyBody_unused (w := leaveSleep s) ht hlisted hmasters hgranules]
    rfl
  case status =>
    intro s src c x h hx hmay
    rw [exec_tenantStatus h, tenantStatusBody_allowed (w := leaveSleep s) hx hmay]
    rfl
  case bind =>
    intro s src c h hmid
    rw [exec_masterBind h]
    refine ⟨fun hop ht hfree => congrArg _ ?_, fun hop ht hbound => congrArg _ ?_, fun hop hbound hnone => congrArg _ ?_,
      fun hop hbound howns => congrArg _ ?_, fun hop hbound hidle => congrArg _ ?_⟩
    · exact (masterBindBody_bind (w := leaveSleep s) hmid hop ht).trans (if_neg (by simp [thas, hfree]))
    · exact (masterBindBody_bind (w := leaveSleep s) hmid hop ht).trans (if_pos (Option.isSome_iff_ne_none.mpr hbound))
    · exact (masterBindBody_unbind (w := leaveSleep s) hmid hbound hop).trans (if_neg (Bool.eq_false_iff.mp hnone))
    · exact (masterBindBody_unbind (w := leaveSleep s) hmid hbound hop).trans (if_pos howns)
    · exact (masterBindBody_force (w := leaveSleep s) hmid hbound hop).trans (if_neg (Bool.eq_false_iff.mp hidle))
  case key =>
    intro s src c x h hx new
    rw [exec_volumeKey h]
    exact ⟨fun hkey hop => congrArg _ (volumeKeyBody_first (w := leaveSleep s) hx hkey hop),
      fun old hkey hop => congrArg _ (volumeKeyBody_second (w := leaveSleep s) hx hkey hop),
      fun old hkey hop hnew => congrArg _ (volumeKeyBody_replace (w := leaveSleep s) hx hkey hop hnew)⟩

end Sys2Proof.Machine
end

section
/-! SUPPORT. What a lender's extents, its pool engine, resynchronisation and verification do at each event, one rule for each branch,
and the statement on them (R345, R350, R353, R354, R374, R375, R380, R384, R385). -/

namespace Sys2Proof.Machine

/-! ### The lease of an extent (R345, R350, R353, R354) -/

section lease

variable {s : State} {h : Half} {x : Nat} {e : Extent} (he : extOf s (h, x) = some e)
include he

theorem exec_dueDateExpiry : exec (.dueDateExpiry h x) s =
    if e.state = .leased ∧ e.due < s.now then
      .next (logNow (extMod s (h, x) (fun e => { e with state := .grace }))
        { kind := 0x0401, severity := 0, location := extCode (h, x), detail0 := e.borrower, detail1 := e.due / 16 })
    else .next s := by
  show execDueDateExpiry h x s = _
  simp only [execDueDateExpiry, he]

theorem exec_graceEnd : exec (.graceEnd h x) s =
    if e.state = .grace ∧ e.due + secT 5 ≤ s.now then
      .next (sendNotice (enterDraining s (h, x) rcLeaseExpired) e (h, x) rcLeaseExpired)
    else .next s := by
  show execGraceEnd h x s = _
  simp only [execGraceEnd, he]

/-- A draining extent is erased once no job, no request of before it and no completion needs it, or after 100 µs. -/
theorem exec_drainEnd (hstate : e.state = .draining)
    (hover : (((jobsOf s .h0 ++ jobsOf s .h1).any (fun j => jobTouches s j (h, x)) || inboxNames s (h, x) e.since
      || s.pool.waits.any (fun w => w.on.any (fun p => p.1 == (h, x)))) = false) ∨ e.since + usT 100 ≤ s.now) :
    exec (.drainEnd h x) s = .next (enterErasing s (h, x)) := by
  show execDrainEnd h x s = _
  simp only [execDrainEnd, he, hstate, Bool.not_eq_true', if_pos hover, true_and]

section eraseEnd

variable (hstate : e.state = .erasing)
include hstate

theorem exec_eraseEnd_plain (hregion : e.region = none) : exec (.eraseEnd h x) s =
    if e.withdraw then .next (withdrawExtent s (h, x))
    else .next (extMod s (h, x) (fun e => { base := e.base, key := e.key })) := by
  show execEraseEnd h x s = _
  simp only [execEraseEnd, he, hstate, hregion, if_true]

theorem exec_eraseEnd_shared {r : Nat} (hregion : e.region = some r) : exec (.eraseEnd h x) s =
    if e.withdraw then .next (withdrawExtent (dropShared s r) (h, x))
    else .next (extMod (dropShared s r) (h, x) (fun e => { base := e.base, key := e.key })) := by
  show execEraseEnd h x s = _
  simp only [execEraseEnd, he, hstate, hregion, if_true]

end eraseEnd

theorem exec_grantTimeout {src : DeskSrc} (hstate : e.state = .granting) (hlate : e.since + msT 1 ≤ s.now)
    (hsrc : e.src = some src) : exec (.grantTimeout h x) s =
      .next (completeSrc (enterErasing s (h, x)) src rcPartnerAbsent []) := by
  show execGrantTimeout h x s = _
  simp only [execGrantTimeout, he, hstate, hlate, hsrc, and_self, if_true]

end lease

/-- An extent under a new key, with nothing left of its lease. -/
def rekeyed (t : State) (k : Half × Nat) : State :=
  extMod (drew 32 t) k (fun e => { e with
    state := .erasing, key := trngBytes t.free 32, since := t.now, stamps := [], diverged := [], single := false, marks := [], src := none
    sent := 0, taken := 0, ahead := [] })

/-- Entry to ERASING: jobs and completions end with the extent's code, and the extent is zeroed under its new key. -/
theorem enterErasing_eq {s : State} {k : Half × Nat} {e : Extent} (he : extOf s k = some e) : enterErasing s k =
    let u := rekeyed (waitsEnd (stopJobs s k e.code) k e.code) k
    dramZero (entriesDrop (chargeWrite u 5 e.base gib (.tier k.1)) k.1 e.base (e.base + gib)) e.base gib := by
  simp only [enterErasing, he, rekeyed]

/-! ### The pool engine (R381, R384, R385) -/

section poolEngine

variable {s : State} {h : Half} {j : NearJob} {r : List NearJob}

section nextJob

variable (hq : s.pool.engine.get h = (none, j :: r))
include hq

theorem exec_nearOpStart_waits (hwait : nearEarlier s j = true ∨ capOpen s 3 [22 + halfNum h] = false) :
    exec (.nearOpStart h) s = .next s := by
  show execNearOpStart h s = _
  cases hearlier : nearEarlier s j with
  | true => simp only [execNearOpStart, hq, hearlier, if_true]
  | false =>
    have hcap : capOpen s 3 [22 + halfNum h] = false := hwait.resolve_left (Bool.eq_false_iff.mp hearlier)
    simp only [execNearOpStart, hq, hearlier, hcap, Bool.not_false, Bool.false_eq_true, if_true, if_false]

theorem exec_nearOpStart_runs {t : State} {k : NearJob} (hearlier : nearEarlier s j = false)
    (hcap : capOpen s 3 [22 + halfNum h] = true)
    (hrun : runJob (charge (engineMod s h (fun _ => (none, r))) (22 + halfNum h) 3 (jobBytes j)) j = (t, k)) :
    exec (.nearOpStart h) s = .next (engineMod t h (fun q => (some k, q.2))) := by
  show execNearOpStart h s = _
  simp only [execNearOpStart, hq, hearlier, hcap, hrun, Bool.not_true, Bool.false_eq_true, if_false]

end nextJob

section runningJob

variable (hq : s.pool.engine.get h = (some j, r))
include hq

theorem exec_nearOpStart_busy : exec (.nearOpStart h) s = .next s := by
  show execNearOpStart h s = _
  simp only [execNearOpStart, hq]

theorem exec_nearOpEnd : exec (.nearOpEnd h) s = .next (completeSrc (engineMod s h (fun _ => (none, r))) j.src j.rc
    (if j.rc = 0 then [.u 1 j.outcome, .u 8 j.diffAt] else [])) := by
  show execNearOpEnd h s = _
  simp only [execNearOpEnd, hq]

end runningJob

end poolEngine

/-! ### Resynchronisation and verification (R374, R375, R380) -/

/-- The SINGLE handles of a mirrored extent that have a secondary again are LIVE. -/
def handlesMirrored (s : State) (h : Half) (x : Nat) : State :=
  { s with pool := { s.pool with handles := tmap s.pool.handles (fun _ g =>
    if g.protect = 1 ∧ g.state = .single ∧ g.secondary.isSome ∧ g.half = h ∧ g.ext = x then { g with state := .live } else g) } }

section verify

variable {s : State} {h : Half} {x : Nat} {e : Extent} (he : extOf s (h, x) = some e)
include he

theorem exec_mirrorResyncEnd (hrole : e.role = 1) : exec (.mirrorResyncEnd h x) s =
    let w := handlesMirrored s h x
    if e.single then .next (extMod ((resyncBlocks w e).foldl (fun s b => blockSend s (h, x) e 3 b) (bump w)) (h, x)
      (fun e => { e with single := false, marks := [] }))
    else .next w := by
  have hw : extOf (handlesMirrored s h x) (h, x) = some e := he
  show execMirrorResyncEnd h x s = _
  simp only [handlesMirrored] at hw
  simp only [execMirrorResyncEnd, handlesMirrored, hw, hrole, true_and]

theorem exec_mirrorVerify {b : Nat} {d : Bytes} {stamp : BitVec 64} (hrole : e.role = 1) (hsingle : e.single = false)
    (hleased : leasedNow e = true) (hb : b < blocksPerExt) :
    exec (.mirrorVerify h x b (.data d false) stamp) s = .next (verifyBlock s (h, x) e b (fit blockLen d) stamp) := by
  show execMirrorVerify h x b (.data d false) stamp s = _
  simp only [execMirrorVerify, he, hrole, hsingle, hleased, hb, Bool.not_false, and_self, if_true]

theorem exec_parityVerify {line : Nat} {l : List RemoteRead} {ls : List Bytes} (hls : cleanLines l = some ls)
    (hfour : ls.length = 4) (hrole : e.role = 4) (hleased : leasedNow e = true) (hline : line < gib / 64) :
    exec (.parityVerify h x line l) s = .next (parityCheck s (h, x) e (64 * line) (ls.foldl xorBytes (zeros 64))) := by
  show execParityVerify h x line l s = _
  simp only [execParityVerify, he, hls, hfour, hrole, hleased, hline, and_self, if_true]

end verify

/-- Settles O48: each clause is the rule above for the branch that its hypotheses name. -/
theorem lenderEvents : Obligations.LenderEvents := by
  refine ⟨?lease, ?erasing, ?start, ?finish, ?mirror, ?parity⟩
  case lease =>
    intro s h x e he
    refine ⟨fun hstate hdue => ?_, fun hstate hnot => ?_, fun hstate hdue => ?_, fun hstate hjobs hinbox hwaits => ?_,
      fun hstate hlate => ?_, fun hstate hregion hout => ?_, fun hstate hregion hstay => ?_, fun r hstate hregion hstay => ?_,
      fun src hstate hlate hsrc => ?_⟩
    · exact (exec_dueDateExpiry he).trans (if_pos ⟨hstate, hdue⟩)
    · exact (exec_dueDateExpiry he).trans (if_neg fun hall => Nat.not_lt.mpr hnot hall.2)
    · exact (exec_graceEnd he).trans (if_pos ⟨hstate, hdue⟩)
    · exact exec_drainEnd he hstate (.inl (by rw [hjobs, hinbox, hwaits]; rfl))
    · exact exec_drainEnd he hstate (.inr hlate)
    · exact (exec_eraseEnd_plain he hstate hregion).trans (if_pos hout)
    · exact (exec_eraseEnd_plain he hstate hregion).trans (if_neg (Bool.eq_false_iff.mp hstay))
    · exact (exec_eraseEnd_shared he hstate hregion).trans (if_neg (Bool.eq_false_iff.mp hstay))
    · exact exec_grantTimeout he hstate hlate hsrc
  case erasing =>
    intro s t h x e he ht
    exact ⟨rekeyed t (h, x), rfl, ht ▸ enterErasing_eq he⟩
  case start =>
    intro s t h j k r hq
    exact ⟨fun hearlier hcap hrun => exec_nearOpStart_runs hq hearlier hcap hrun, fun hwait => exec_nearOpStart_waits hq hwait⟩
  case finish =>
    intro s h j r hq
    refine ⟨exec_nearOpStart_busy hq, fun hdone => ?_, fun hfailed => ?_⟩
    · rw [exec_nearOpEnd hq, if_pos hdone, hdone]
    · rw [exec_nearOpEnd hq, if_neg hfailed]
  case mirror =>
    intro s u h x e he hrole
    refine ⟨fun w hw => ⟨fun hsingle hu => ?_, fun hmirrored => ?_⟩, fun b d stamp hmirrored hleased hb => ?_⟩
    · subst hw hu
      exact (exec_mirrorResyncEnd he hrole).trans (if_pos hsingle)
    · subst hw
      exact (exec_mirrorResyncEnd he hrole).trans (if_neg (Bool.eq_false_iff.mp hmirrored))
    · exact exec_mirrorVerify he hrole hmirrored hleased hb
  case parity =>
    intro s h x line e a b c d he hrole hleased hline
    exact exec_parityVerify he (ls := [fit 64 a, fit 64 b, fit 64 c, fit 64 d]) rfl rfl hrole hleased hline

end Sys2Proof.Machine
end

section
/-! SUPPORT. What a borrowing module does at the messages of a lender, at the end of a request's time, at a notice and at the loss of a
component, and how its request window moves, one rule for each branch, and the statement on them (R344 to R347, R350, R355, R374, R379,
R389, R654). -/

namespace Sys2Proof.Machine

/-! ### GRANT at the borrower (R344, R345) -/

section grantMessage

variable {s t : State} {m : Message} (hm : takeMsg s 0x10 = some (m, t))
include hm

theorem exec_grantMessage_replaces {n : Nat} {h : Handle} (hrep : replaceFor t m.node (parseGrant m.body) = some (n, h)) :
    exec .grantMessage s = .next (acceptReplacement t m.node (parseGrant m.body) n h) := by
  show execGrantMessage s = _
  simp only [execGrantMessage, hm, hrep]

section newComponent

variable (hrep : replaceFor t m.node (parseGrant m.body) = none)
include hrep

theorem exec_grantMessage_unknown (hr : tget t.pool.requests (parseGrant m.body).request = none) :
    exec .grantMessage s = .next (msgSend t m.node 0x12 (leBytes 4 (parseGrant m.body).request ++ leBytes 2 rcConflict)) := by
  show execGrantMessage s = _
  simp only [execGrantMessage, hm, hrep, hr]

variable {r : PoolReq} (hr : tget t.pool.requests (parseGrant m.body).request = some r)
include hr

theorem exec_grantMessage_accepts {h : Nat} (hopen : roleOpen r m.node (parseGrant m.body) = true)
    (hh : compHandle t r (parseGrant m.body) = some h) :
    exec .grantMessage s = .next (acceptComp t m.node r (parseGrant m.body) h) := by
  show execGrantMessage s = _
  simp only [execGrantMessage, hm, hrep, hr, hopen, hh, if_true]

/-- A grant for a role that is not open, or for which no handle is free, is refused. -/
theorem exec_grantMessage_refuses
    (hno : roleOpen r m.node (parseGrant m.body) = true → compHandle t r (parseGrant m.body) = none) :
    exec .grantMessage s = .next (msgSend t m.node 0x12 (leBytes 4 (parseGrant m.body).request ++ leBytes 2 rcConflict)) := by
  show execGrantMessage s = _
  cases hopen : roleOpen r m.node (parseGrant m.body) with
  | true => simp only [execGrantMessage, hm, hrep, hr, hopen, hno hopen, if_true]
  | false => simp only [execGrantMessage, hm, hrep, hr, hopen, Bool.false_eq_true, if_false]

end newComponent

end grantMessage

/-! ### ACCEPT and REFUSE at the lender (R344, R345, R350, R654) -/

/-- An extent leased to the holder and for the duration that ACCEPT names. -/
def leaseAccepted (t : State) (m : Message) (k : Half × Nat) : State :=
  extMod t k (fun e => { e with
    state := .leased, holder := leAt m.body 8 2 % 4096, duration := leAt m.body 12 4, due := t.now + msT (leAt m.body 12 4), src := none })

section grantAnswer

variable {s t : State} {m : Message} {k : Half × Nat} {e : Extent} {src : DeskSrc}
  (hk : grantingFor t m.node (leAt m.body 0 4) = some (k, e)) (hsrc : e.src = some src)
include hk hsrc

theorem exec_grantAccept (hm : takeMsg s 0x11 = some (m, t)) : exec .grantAccept s = .next (completeSrc
    (if e.withdraw = true ∧ (t.halves.get k.1).t2Failing = true then
      sendNotice (enterDraining (leaseAccepted t m k) k rcRecalled) { e with state := .leased } k rcRecalled
    else leaseAccepted t m k) src rcDone [.u 2 (extCode k)]) := by
  show execGrantAccept s = _
  simp only [execGrantAccept, hm, hk, hsrc]
  rfl

theorem exec_grantRefuse (hm : takeMsg s 0x12 = some (m, t)) :
    exec .grantRefuse s = .next (completeSrc (enterErasing t k) src (leAt m.body 4 2) []) := by
  show execGrantRefuse s = _
  simp only [execGrantRefuse, hm, hk, hsrc]

end grantAnswer

/-! ### The end of a request's time, and notices (R346, R347, R355) -/

theorem exec_requestTimeout {s : State} {n : Nat} {r : PoolReq} (hr : tget s.pool.requests n = some r) (hpending : r.state = 0)
    (hlate : r.timeoutAt ≤ s.now) : exec (.requestTimeout n) s = .next (requestEnd s n r) := by
  show execRequestTimeout n s = _
  simp only [execRequestTimeout, hr, hpending, hlate, and_self, if_true]

theorem exec_noticeReceive {s t : State} {m : Message} (hm : takeMsg s 0x13 = some (m, t)) : exec .noticeReceive s = .next
    ((t.pool.handles.filter (fun p => p.2.view.isNone)).foldl
      (fun s p => noticeHandle s m.node (codeExt (leAt m.body 0 2)) (leAt m.body 2 2) p.1 p.2) t) := by
  show execNoticeReceive s = _
  simp only [execNoticeReceive, hm]

theorem noticeHandle_unprotected {s : State} {node : Nat} {k : Half × Nat} {code n : Nat} {h : Handle} (hprot : h.protect = 0)
    (hnode : h.node = node) (hk : (h.half, h.ext) = k) : noticeHandle s node k code n h = handleMod s n (fun h => { h with
      state := if code = rcLeaseExpired then .expired else .recalled, noticeAt := some s.now }) := by
  simp only [noticeHandle, hprot, hnode, hk, beq_self_eq_true, Bool.and_self, if_true]

theorem exec_handleFreeTimeout {s : State} {n t : Nat} {h : Handle} (hh : tget s.pool.handles n = some h) (ht : h.noticeAt = some t)
    (hstate : h.state = .recalled ∨ h.state = .expired) :
    exec (.handleFreeTimeout n) s = if t + secT 65 ≤ s.now then .next (freeHandle s n) else .next s := by
  show execHandleFreeTimeout n s = _
  simp only [execHandleFreeTimeout, hh, ht, hstate, true_and]

/-! ### Loss of a component (R374, R379) -/

section mirrorLoss

variable {s : State} {n : Nat} {h : Handle} (hh : tget s.pool.handles n = some h) (hprot : h.protect = 1)
include hh hprot

theorem mirrorLoss_primary_last (hsec : h.secondary = none) :
    mirrorLoss s n .primary = handleMod s n (fun h => { h with state := .failed, lost := true }) := by
  simp only [mirrorLoss, hh, hprot, hsec, ne_eq, not_true_eq_false, if_false]

variable {p : Nat × Half × Nat} (hsec : h.secondary = some p)
include hsec

theorem mirrorLoss_secondary :
    mirrorLoss s n .secondary = handleMod s n (fun h => { h with secondary := none, state := .single }) := by
  simp only [mirrorLoss, hh, hprot, hsec, ne_eq, not_true_eq_false, if_false]

theorem mirrorLoss_primary : mirrorLoss s n .primary = reissue (handleMod s n (fun h => { h with
    node := p.1, half := p.2.1, ext := p.2.2, secondary := none, state := .single })) n := by
  simp only [mirrorLoss, hh, hprot, hsec, ne_eq, not_true_eq_false, if_false]

end mirrorLoss

section parityLoss

variable {s : State} {set i : Nat}

theorem exec_parityComponentLoss (hi : i < 5) : exec (.parityComponentLoss set i) s = .next (parityLoss s set i) := if_pos hi

section dataExtent

variable {n : Nat} (hdata : i < 4) (hn : (setHandles s set)[i]? = some n)
include hdata hn

theorem parityLoss_normal_data (hset : tget s.pool.parity set = some .normal) :
    parityLoss s set i = paritySet (handleMod s n (fun h => { h with lost := true })) set (.degraded i) := by
  simp only [parityLoss, hset, hdata, hn, if_true]

theorem parityLoss_degraded_data {j : Nat} (hset : tget s.pool.parity set = some (.degraded j)) (hother : j ≠ i) :
    parityLoss s set i = paritySet (handleMod s n (fun h => { h with lost := true })) set .failed := by
  simp only [parityLoss, hset, hdata, hn, if_neg hother, if_true]

end dataExtent

theorem parityLoss_normal_parity (hset : tget s.pool.parity set = some .normal) (hparity : i = 4) :
    parityLoss s set i = paritySet { s with pool := { s.pool with handles := tmap s.pool.handles (fun _ h =>
      if h.protect = 2 ∧ h.set = some set then { h with secondary := none } else h) } } set (.degraded i) := by
  simp only [parityLoss, hset, hparity, Nat.lt_irrefl, if_false]

theorem exec_parityRebuildEnd {n : Nat} (hset : tget (rebuildHere s set i).pool.parity set = some (.degraded i))
    (hn : (setHandles (rebuildHere s set i) set)[i]? = some n) : exec (.parityRebuildEnd set i) s =
      .next (paritySet (handleMod (rebuildHere s set i) n (fun h => { h with lost := false })) set .normal) := by
  show execParityRebuildEnd set i s = _
  simp only [execParityRebuildEnd, hset, hn, if_true]

end parityLoss

/-! ### The request window (R389) -/

/-- The request window of a lender after the LOAD last received from it, with none received as it was. -/
def windowAfter (w : Nat) (load : Option Nat) : Nat :=
  load.elim w fun l => if l = 3 then max 64 (w / 2) else if l = 2 then w else min 4096 (w + 128)

theorem windowAfter_bounds {w : Nat} (load : Option Nat) (hlow : 64 ≤ w) (hhigh : w ≤ 4096) :
    64 ≤ windowAfter w load ∧ windowAfter w load ≤ 4096 := by
  cases load with
  | none => exact ⟨hlow, hhigh⟩
  | some l =>
    simp only [windowAfter, Option.elim_some]
    split
    · omega
    · split <;> omega

/-- A value that each case of the latest LOAD names is the window after it. -/
theorem eq_windowAfter {w x : Nat} {load : Option Nat} (hhalve : load = some 3 → x = max 64 (w / 2))
    (hkeep : load = some 2 ∨ load = none → x = w) (hgrow : ∀ l, load = some l → l ≠ 2 → l ≠ 3 → x = min 4096 (w + 128)) :
    x = windowAfter w load := by
  cases load with
  | none => exact hkeep (.inr rfl)
  | some l =>
    by_cases h3 : l = 3
    · exact (hhalve (congrArg some h3)).trans (if_pos h3).symm
    · by_cases h2 : l = 2
      · exact (hkeep (.inl (congrArg some h2))).trans ((if_neg h3).trans (if_pos h2)).symm
      · exact (hgrow l rfl h2 h3).trans ((if_neg h3).trans (if_neg h2)).symm

theorem exec_poolWindowAdjust (s : State) (lender : Nat) : exec (.poolWindowAdjust lender) s =
    if tgetD s.pool.adjusted lender 0 < s.now / usT 1 then .next (lenderGo { s with pool := { s.pool with
      window := tset s.pool.window lender (windowAfter (tgetD s.pool.window lender 1024) (tget s.pool.load lender))
      adjusted := tset s.pool.adjusted lender (s.now / usT 1) } } lender)
    else .next s := by
  show execPoolWindowAdjust lender s = _
  simp only [execPoolWindowAdjust, windowAfter]
  cases tget s.pool.load lender <;> rfl

/-- Settles O49: each clause is the rule above for the branch that its hypotheses name. -/
theorem borrowerEvents : Obligations.BorrowerEvents := by
  refine ⟨?grant, ?accept, ?refuse, ?late, ?notice, ?noticed, ?freed, ?mirror, ?parity, ?window⟩
  case grant =>
    intro s t m g hm hg
    subst hg
    exact ⟨fun n h hrep => exec_grantMessage_replaces hm hrep,
      fun r h hrep hr hopen hh => exec_grantMessage_accepts hm hrep hr hopen hh,
      fun r hrep hr _ hnone => exec_grantMessage_refuses hm hrep hr fun _ => hnone,
      fun r hrep hr hclosed => exec_grantMessage_refuses hm hrep hr fun hopen => absurd hopen (Bool.eq_false_iff.mp hclosed),
      fun hrep hr => exec_grantMessage_unknown hm hrep hr⟩
  case accept =>
    intro s t u m k e src hm hk hsrc hu
    subst hu
    refine ⟨fun hkeep => ?_, fun hfailing => ?_⟩
    · rw [exec_grantAccept hk hsrc hm, if_neg hkeep]
      rfl
    · rw [exec_grantAccept hk hsrc hm, if_pos hfailing]
      rfl
  case refuse => exact fun s t m k e src hm hk hsrc => exec_grantRefuse hk hsrc hm
  case late =>
    intro s n r q hr hpending hlate hq
    subst hq
    rw [exec_requestTimeout hr hpending hlate]
    rfl
  case notice => exact fun s t m hm => exec_noticeReceive hm
  case noticed => exact fun s node k code n h hprot hnode hk => noticeHandle_unprotected hprot hnode hk
  case freed =>
    intro s n t h hh ht hstate
    rw [exec_handleFreeTimeout hh ht hstate]
    exact ⟨fun hdue => if_pos hdue, fun hearly => if_neg (Nat.not_le.mpr hearly)⟩
  case mirror =>
    intro s n h hh hprot
    exact ⟨fun p hsec => ⟨congrArg _ (mirrorLoss_secondary hh hprot hsec), congrArg _ (mirrorLoss_primary hh hprot hsec)⟩,
      fun hsec => congrArg _ (mirrorLoss_primary_last hh hprot hsec)⟩
  case parity =>
    intro s set i hi
    rw [exec_parityComponentLoss hi]
    refine ⟨fun n hset hdata hn => congrArg _ (parityLoss_normal_data hdata hn hset),
      fun n j hset hother hdata hn => congrArg _ (parityLoss_degraded_data hdata hn hset hother), fun u hset hparity hu => ?_,
      fun n u hu hset hn => ?_⟩
    · rw [parityLoss_normal_parity hset hparity, hu]
    · subst hu
      exact exec_parityRebuildEnd hset hn
  case window =>
    intro s lender w x hw hhalve hkeep hgrow
    obtain rfl := eq_windowAfter hhalve hkeep hgrow
    subst hw
    rw [exec_poolWindowAdjust]
    exact ⟨fun hdue => if_pos hdue, fun hearly => if_neg (Nat.not_lt.mpr hearly), windowAfter_bounds _⟩

end Sys2Proof.Machine
end

section
/-! SUPPORT. What the pool's desk commands of the fabric manager, of PF0 and of other modules do at a lender, and how depository grants
begin, end and answer, one rule for each branch, and the statement on them (R338, R340, R341, R350, R351, R357, R376, R387, R390 to
R395, R572, R573, R577, R578). -/

namespace Sys2Proof.Machine

/-! ### The rows of the commands -/

section poolCommands

variable {s : State} {src : DeskSrc} {c : RunCmd}

theorem exec_poolOffer (h : Serves s src 0x0601 c) : exec (.poolOffer src) s = .next (poolOfferBody (leaveSleep s) c) :=
  congrArg Host.Outcome.next (deskRun_leaveSleep _ h (by decide))

theorem exec_extentGrant (h : Serves s src 0x0603 c) : exec (.extentGrant src) s = .next (extentGrantBody (leaveSleep s) c) :=
  congrArg Host.Outcome.next (deskRun_leaveSleep _ h (by decide))

theorem exec_leaseRenew (buf : HostRead) (h : Serves s src 0x0604 c) :
    exec (.leaseRenew src buf) s = .next (leaseRenewBody buf (leaveSleep s) c) :=
  congrArg Host.Outcome.next (deskRun_leaveSleep _ h (by decide))

theorem exec_extentRecall (h : Serves s src 0x0605 c) : exec (.extentRecall src) s = .next (extentRecallBody (leaveSleep s) c) :=
  congrArg Host.Outcome.next (deskRun_leaveSleep _ h (by decide))

theorem exec_extentReturn (h : Serves s src 0x0606 c) : exec (.extentReturn src) s = .next (extentReturnBody (leaveSleep s) c) :=
  congrArg Host.Outcome.next (deskRun_leaveSleep _ h (by decide))

theorem exec_mirrorResolve (h : Serves s src 0x060D c) :
    exec (.mirrorResolve src) s = .next (mirrorResolveBody (leaveSleep s) c) :=
  congrArg Host.Outcome.next (deskRun_leaveSleep _ h (by decide))

theorem exec_poolLimit (h : Serves s src 0x060E c) : exec (.poolLimit src) s = .next (poolLimitBody (leaveSleep s) c) :=
  congrArg Host.Outcome.next (deskRun_leaveSleep _ h (by decide))

theorem exec_poolStatus (h : Serves s src 0x060F c) : exec (.poolStatus src) s = .next (poolStatusBody (leaveSleep s) c) :=
  congrArg Host.Outcome.next (deskRun_leaveSleep _ h (by decide))

theorem exec_depotGrant (h : Serves s src 0x0610 c) : exec (.depotGrant src) s = .next (depotGrantBody (leaveSleep s) c) :=
  congrArg Host.Outcome.next (deskRun_leaveSleep _ h (by decide))

theorem exec_depotRevoke (h : Serves s src 0x0611 c) : exec (.depotRevoke src) s = .next (depotRevokeBody (leaveSleep s) c) :=
  congrArg Host.Outcome.next (deskRun_leaveSleep _ h (by decide))

end poolCommands

section lenderBodies

variable {w : State} {c : RunCmd}

/-! ### POOL_OFFER (R340) -/

theorem poolOfferBody_closed (hop : arg c 0 = 0) (hclosed : tierClosed w 2 (halfOf (arg c 1)) = true) :
    poolOfferBody w c = failWith w c rcNoSpace := by
  simp only [poolOfferBody, hop, hclosed, if_true]

theorem poolOfferBody_full (hop : arg c 0 = 0) (hnone : offerAll (arg c 2) w (halfOf (arg c 1)) = none) :
    poolOfferBody w c = failWith w c rcNoSpace := by
  simp only [poolOfferBody, hop, hnone, if_true, ite_self]

theorem poolOfferBody_offered {t : State} (hop : arg c 0 = 0) (hopen : tierClosed w 2 (halfOf (arg c 1)) = false)
    (hall : offerAll (arg c 2) w (halfOf (arg c 1)) = some t) :
    poolOfferBody w c = complete t c rcDone [.u 2 (arg c 2), .u 2 0] := by
  simp only [poolOfferBody, hop, hopen, hall, Bool.false_eq_true, if_true, if_false]

/-- POOL_OFFER that withdraws: IDLE extents leave at once, and further ones are marked to leave when they are erased. -/
theorem poolOfferBody_withdrawn {idle rest : List ((Half × Nat) × Extent)} (hop : arg c 0 ≠ 0)
    (hidle : idle = ((extsOf w (halfOf (arg c 1))).filter (fun p => p.2.state == .idle)).take (arg c 2))
    (hrest : rest = ((extsOf w (halfOf (arg c 1))).filter (fun p => p.2.state != .idle && !p.2.withdraw)).take
      (arg c 2 - idle.length)) : poolOfferBody w c = complete
        (rest.foldl (fun s p => extMod s p.1 (fun e => { e with withdraw := true })) (idle.foldl (fun s p => withdrawExtent s p.1) w))
        c rcDone [.u 2 idle.length, .u 2 rest.length] := by
  subst hrest hidle
  simp only [poolOfferBody, if_neg hop]

/-! ### EXTENT_GRANT (R338, R341, R344, R350) -/

section extentGrant

variable {node : Nat} (hnode : node = boardNode w (arg c 0))
include hnode

theorem extentGrantBody_own (hown : node = nodeId w) : extentGrantBody w c = failWith w c rcBadField :=
  if_pos (hnode.symm.trans hown)

variable (hother : node ≠ nodeId w)
include hother

theorem extentGrantBody_noPath (hpath : hasPath w node = false) : extentGrantBody w c = failWith w c rcPartnerAbsent := by
  subst hnode
  simp only [extentGrantBody, if_neg hother, hpath, Bool.not_false, if_true]

variable (hpath : hasPath w node = true)
include hpath

theorem extentGrantBody_noSession (hsession : systemOpen w node = false) :
    extentGrantBody w c = failWith w c rcPartnerUntrusted := by
  subst hnode
  simp only [extentGrantBody, if_neg hother, hpath, hsession, Bool.not_true, Bool.not_false, Bool.false_eq_true, if_true, if_false]

variable (hsession : systemOpen w node = true)
include hsession

theorem extentGrantBody_noExtent
    (hnone : (extsOf w (halfOf (arg c 3))).find? (fun p => p.2.state == .idle && !p.2.withdraw) = none) :
    extentGrantBody w c = failWith w c rcNoSpace := by
  subst hnode
  simp only [extentGrantBody, if_neg hother, hpath, hsession, hnone, Bool.not_true, Bool.false_eq_true, if_false]

theorem extentGrantBody_granting {k : Half × Nat} {e : Extent}
    (hk : (extsOf w (halfOf (arg c 3))).find? (fun p => p.2.state == .idle && !p.2.withdraw) = some (k, e)) :
    extentGrantBody w c = cmdWait (msgSend (extMod w k (fun e => { e with
      state := .granting, code := 0, borrower := node, request := arg c 5, role := arg c 1, index := arg c 2, set := arg c 4
      since := w.now, src := some c.src })) node 0x10 (grantBody (arg c 5) (arg c 1) (arg c 2) (arg c 4) (extCode k))) c.src := by
  subst hnode
  simp only [extentGrantBody, if_neg hother, hpath, hsession, hk, Bool.not_true, Bool.false_eq_true, if_false]

end extentGrant

/-! ### LEASE_RENEW at the lender (R350, R351, R357, R573) -/

theorem leaseRenewBody_here {t : State} {buf : HostRead} {st : Bytes} (hmay : c.mid = 4 ∨ isForward c.src = true)
    (hall : renewAll w c (arg c 1) ((List.range (arg c 0)).map (argElem c 2 2)) = (t, st)) :
    leaseRenewBody buf w c = complete t c (statusCode st) [.b st] := by
  simp only [leaseRenewBody, if_pos hmay, hall]

section renewOne

variable {ext ms : Nat} {e : Extent} (he : extOf w (codeExt ext) = some e) (hown : isForward c.src = false)
include he hown

theorem renewOne_leased (hstate : e.state = .leased ∨ e.state = .grace) (hleased : leasedNow e = true) :
    renewOne w c ext ms =
      if recallComing w (codeExt ext) then (w, rcRecalled) else (renewExtent w (codeExt ext) ms, 0) := by
  rcases hstate with hstate | hstate <;> simp [renewOne, he, hown, hstate, hleased]

theorem renewOne_leaving (hstate : e.state = .draining ∨ e.state = .erasing) (hleased : leasedNow e = false) :
    renewOne w c ext ms = (w, if e.code = 0 then rcRecalled else e.code) := by
  rcases hstate with hstate | hstate <;> simp [renewOne, he, hown, hstate, hleased]

end renewOne

/-! ### EXTENT_RECALL, and EXTENT_RETURN at the lender (R350, R357) -/

theorem extentRecallBody_unlisted (hnone : extOf w (codeExt (arg c 0)) = none) :
    extentRecallBody w c = failWith w c rcNotPermitted := by
  simp only [extentRecallBody, hnone]

section extent

variable {e : Extent} (he : extOf w (codeExt (arg c 0)) = some e)
include he

theorem extentRecallBody_leased (hleased : leasedNow e = true) : extentRecallBody w c =
    complete (sendNotice (enterDraining w (codeExt (arg c 0)) rcRecalled) e (codeExt (arg c 0)) rcRecalled) c rcDone [] := by
  simp only [extentRecallBody, he, hleased, if_true]

section returned

variable (hforward : isForward c.src = true)
include hforward

theorem extentReturnBody_notHeld (hheld : heldBy e c.node c.mid = false) :
    extentReturnBody w c = failWith w c rcNotPermitted := by
  simp only [extentReturnBody, returnHere, hforward, he, hheld, Bool.not_false, if_true]

theorem extentReturnBody_held (hheld : heldBy e c.node c.mid = true) (hleased : leasedNow e = true) :
    extentReturnBody w c = complete (enterDraining w (codeExt (arg c 0)) rcRecalled) c rcDone [] := by
  simp only [extentReturnBody, returnHere, hforward, he, hheld, hleased, Bool.not_true, Bool.false_eq_true, if_true, if_false]

end returned

/-! ### MIRROR_RESOLVE (R376) -/

theorem mirrorResolveBody_whole (hwhole : e.role ≠ 1 ∨ e.diverged = []) : mirrorResolveBody w c = failWith w c rcConflict := by
  simp only [mirrorResolveBody, he, List.isEmpty_iff, if_pos hwhole]

/-- MIRROR_RESOLVE copies every diverged block one way, and the extent is whole. -/
theorem mirrorResolveBody_diverged (hrole : e.role = 1) (hdiverged : e.diverged ≠ []) : mirrorResolveBody w c =
    complete (extMod (if arg c 1 = 0 then e.diverged.foldl (fun s b => blockSend s (codeExt (arg c 0)) e 3 b) w
      else e.diverged.foldl (fun s b => takeSecondary s (codeExt (arg c 0)) e b) w) (codeExt (arg c 0))
      (fun e => { e with diverged := [] })) c rcDone [] := by
  have hno : ¬(e.role ≠ 1 ∨ e.diverged = []) := not_or_intro (not_not_intro hrole) hdiverged
  simp only [mirrorResolveBody, he, List.isEmpty_iff, if_neg hno]

end extent

/-! ### POOL_LIMIT (R387) -/

section poolLimit

variable {k : Nat × Nat} (hk : k = (boardNode w (arg c 0), arg c 1))
include hk

theorem poolLimitBody_removed (hcap : arg c 2 = 0) :
    poolLimitBody w c = complete { w with pool := { w.pool with caps := tdel w.pool.caps k } } c rcDone [] := by
  subst hk
  simp only [poolLimitBody, hcap, if_true]

theorem poolLimitBody_new (hcap : arg c 2 ≠ 0) (hnew : tget w.pool.caps k = none) : poolLimitBody w c =
    complete { w with pool := { w.pool with caps := tset w.pool.caps k { gbps := arg c 2, used := 0 } } } c rcDone [] := by
  subst hk
  simp only [poolLimitBody, if_neg hcap, hnew, Option.map_none, Option.getD_none]

end poolLimit

/-! ### Depository grants (R390 to R395, R578) -/

section depotGrant

variable {t : Tenant}
  (hfar : (List.range 8).any (fun p => (BitVec.ofNat 8 (arg c 2)).getLsbD p && (portOf w p).kind != .far) = false)
  (ht : (tenantOf w (arg c 0)).bind (fun t => tget w.tenants t) = some t)
include hfar ht

theorem depotGrantBody_unprivileged (hpriv : t.depository = false) : depotGrantBody w c = failWith w c rcNotPermitted := by
  simp only [depotGrantBody, hfar, ht, hpriv, Bool.not_false, Bool.false_eq_true, if_true, if_false]

theorem depotGrantBody_granted {n : Nat} {g : Grant} (hpriv : t.depository = true)
    (hn : leastFrom (fun n => !thas (reapGrants w).pool.grants n) 4095 1 = some n)
    (hg : g = { holder := arg c 0, tray := arg c 1, far := BitVec.ofNat 8 (arg c 2), base := arg c 5, gib := arg c 4
                protect := natBit (arg c 3) 0, nonce := trngBytes w.free 16 }) : depotGrantBody w c =
    complete (poolOpen (grantPut (drew 16 (reapGrants w)) n g) (arg c 1) (arg c 0)) c rcDone [.u 2 n] := by
  subst hg
  simp only [depotGrantBody, hfar, ht, hpriv, hn, Bool.not_true, Bool.false_eq_true, if_false]
  rfl

end depotGrant

theorem depotRevokeBody_unlisted (hnone : tget w.pool.grants (arg c 0) = none) :
    depotRevokeBody w c = failWith w c rcNotPermitted := by
  simp only [depotRevokeBody, hnone, Option.filter_none]

theorem depotRevokeBody_revoked {g : Grant} (hg : tget w.pool.grants (arg c 0) = some g) (hstate : g.state ≠ 2) :
    depotRevokeBody w c =
      complete (grantMod w (arg c 0) (fun g => { g with state := 2, nonce := [], endedAt := some w.now })) c rcDone [] := by
  simp only [depotRevokeBody, hg, Option.filter_some, bne_iff_ne.mpr hstate, if_true]

end lenderBodies

section tray

variable {s : State} {n : Nat} {g : Grant} (hg : tget s.pool.grants n = some g)
include hg

theorem exec_trayTimeout (hstate : g.state = 0) : exec (.trayTimeout n) s = .next (trayUnanswered s n) := by
  show execTrayTimeout n s = _
  simp only [execTrayTimeout, hg, hstate, if_true]

theorem exec_trayProbe {answered : Bool} {u : State} (hstate : g.state = 1) (hdue : g.lastProbe + msT 10 ≤ s.now)
    (hu : u = emit s (.trayRead g.tray g.far (trayAddr g 0) 64)) : exec (.trayProbe n answered) s =
      .next (grantMod u n (fun g => { g with
        lastProbe := u.now, state := if answered then 0 else 1, unanswered := if answered then 0 else g.unanswered })) := by
  subst hu
  show execTrayProbe n answered s = _
  simp only [execTrayProbe, hg, hstate, hdue, and_self, if_true]

end tray

/-- Settles O46: each clause is the rule above for the branch that its hypotheses name. -/
theorem poolCommandsAtLender : Obligations.PoolCommandsAtLender := by
  refine ⟨?offer, ?grant, ?renew, ?renewed, ?recalled, ?returned, ?resolve, ?limit, ?status, ?depot, ?revoke, ?tray⟩
  case offer =>
    intro s w t src c h hw
    rw [exec_poolOffer h, ← hw]
    exact ⟨fun hop hopen hall => congrArg _ (poolOfferBody_offered hop hopen hall),
      fun hop hclosed => congrArg _ (poolOfferBody_closed hop hclosed), fun hop hnone => congrArg _ (poolOfferBody_full hop hnone),
      fun idle rest hop hidle hrest => congrArg _ (poolOfferBody_withdrawn hop hidle hrest)⟩
  case grant =>
    intro s w src c node h hw hnode
    rw [exec_extentGrant h, ← hw]
    exact ⟨fun hown => congrArg _ (extentGrantBody_own hnode hown),
      fun hother hpath => congrArg _ (extentGrantBody_noPath hnode hother hpath),
      fun hother hpath hsession => congrArg _ (extentGrantBody_noSession hnode hother hpath hsession),
      fun hother hpath hsession hnone => congrArg _ (extentGrantBody_noExtent hnode hother hpath hsession hnone),
      fun k e hother hpath hsession hk => congrArg _ (extentGrantBody_granting hnode hother hpath hsession hk)⟩
  case renew =>
    intro s w t src c buf st h hw hmay hall
    rw [exec_leaseRenew buf h, ← hw, leaseRenewBody_here hmay hall]
  case renewed =>
    intro s c ext ms e he hown
    refine ⟨fun hstate hleased => ?_, fun hstate hleased => renewOne_leaving he hown hstate hleased⟩
    rw [renewOne_leased he hown hstate hleased]
    exact ⟨fun hno => if_neg (Bool.eq_false_iff.mp hno), fun hcoming => if_pos hcoming⟩
  case recalled =>
    intro s w src c h hw
    rw [exec_extentRecall h, ← hw]
    exact ⟨fun hnone => congrArg _ (extentRecallBody_unlisted hnone),
      fun e he hleased => congrArg _ (extentRecallBody_leased he hleased)⟩
  case returned =>
    intro s w src c e h hw hforward he
    rw [exec_extentReturn h, ← hw]
    exact ⟨fun hheld => congrArg _ (extentReturnBody_notHeld he hforward hheld),
      fun hheld hleased => congrArg _ (extentReturnBody_held he hforward hheld hleased)⟩
  case resolve =>
    intro s w u src c k e h hw hk he
    subst hk
    rw [exec_mirrorResolve h, ← hw]
    refine ⟨fun hwhole => congrArg _ (mirrorResolveBody_whole he hwhole), fun hrole hdiverged hway hu => congrArg _ ?_,
      fun hrole hdiverged hway hu => congrArg _ ?_⟩
    · rw [mirrorResolveBody_diverged he hrole hdiverged, if_pos hway, hu]
    · rw [mirrorResolveBody_diverged he hrole hdiverged, if_neg hway, hu]
  case limit =>
    intro s w src c k h hw hk
    rw [exec_poolLimit h, ← hw]
    exact ⟨fun hcap => congrArg _ (poolLimitBody_removed hk hcap), fun hcap hnew => congrArg _ (poolLimitBody_new hk hcap hnew)⟩
  case status =>
    intro s w src c l r h hw hl hr
    subst hr hl
    rw [exec_poolStatus h, ← hw]
    rfl
  case depot =>
    intro s w src c t n h hw hfar ht
    rw [exec_depotGrant h, ← hw]
    exact ⟨fun hpriv => congrArg _ (depotGrantBody_unprivileged hfar ht hpriv),
      fun hpriv hn g hg => congrArg _ (depotGrantBody_granted hfar ht hpriv hn hg)⟩
  case revoke =>
    intro s w src c h hw
    rw [exec_depotRevoke h, ← hw]
    exact ⟨fun hnone => congrArg _ (depotRevokeBody_unlisted hnone),
      fun g hg hstate => congrArg _ (depotRevokeBody_revoked hg hstate)⟩
  case tray =>
    intro s n g hg
    exact ⟨fun hstate => exec_trayTimeout hg hstate,
      fun u hstate hdue hu => ⟨exec_trayProbe hg hstate hdue hu, exec_trayProbe hg hstate hdue hu⟩⟩

end Sys2Proof.Machine
end

section
/-! SUPPORT. What a holder's pool commands do at its module, and at the lender to which they are forwarded, one rule for each branch,
and the statement on them (R339, R343, R346, R350, R355, R356, R362 to R370, R381, R382, R384, R410, R475, R501, R573 to R576). -/

namespace Sys2Proof.Machine

/-! ### The rows of the commands -/

section holderCommands

variable {s : State} {src : DeskSrc} {c : RunCmd}

theorem exec_extentRequest (h : Serves s src 0x0602 c) :
    exec (.extentRequest src) s = .next (extentRequestBody (leaveSleep s) c) :=
  congrArg Host.Outcome.next (deskRun_leaveSleep _ h (by decide))

theorem exec_extentFlush (buf : HostRead) (h : Serves s src 0x0607 c) :
    exec (.extentFlush src buf) s = .next (extentFlushBody buf (leaveSleep s) c) :=
  congrArg Host.Outcome.next (deskRun_leaveSleep _ h (by decide))

theorem exec_shareCreate (buf : HostRead) (h : Serves s src 0x0608 c) :
    exec (.shareCreate src buf) s = .next (shareCreateBody buf (leaveSleep s) c) :=
  congrArg Host.Outcome.next (deskRun_leaveSleep _ h (by decide))

theorem exec_editionOpen (h : Serves s src 0x0609 c) : exec (.editionOpen src) s = .next (editionOpenBody (leaveSleep s) c) :=
  congrArg Host.Outcome.next (deskRun_leaveSleep _ h (by decide))

theorem exec_editionPublish (h : Serves s src 0x060A c) :
    exec (.editionPublish src) s = .next (editionPublishBody (leaveSleep s) c) :=
  congrArg Host.Outcome.next (deskRun_leaveSleep _ h (by decide))

theorem exec_editionClose (h : Serves s src 0x060B c) : exec (.editionClose src) s = .next (editionCloseBody (leaveSleep s) c) :=
  congrArg Host.Outcome.next (deskRun_leaveSleep _ h (by decide))

theorem exec_nearOp (h : Serves s src 0x060C c) : exec (.nearOp src) s = .next (nearOpBody (leaveSleep s) c) :=
  congrArg Host.Outcome.next (deskRun_leaveSleep _ h (by decide))

end holderCommands

section holderBodies

variable {w : State} {c : RunCmd}

/-! ### EXTENT_REQUEST (R343) -/

section extentRequest

variable {quota held asked pend : Nat} {mine : Nat → Bool} (hmine : ∀ m, mine m = (tenantOf w m == some (cmdTenant w c)))
  (hquota : quota = ((tget w.tenants (cmdTenant w c)).map (·.pool)).getD 0)
  (hheld : held = w.pool.handles.countP (fun p => mine p.2.master && p.2.view.isNone))
  (hasked : asked = ((w.pool.requests.filter (fun r => r.2.state == 0 && mine r.2.master)).map (fun r =>
    r.2.count - w.pool.handles.countP (fun p => p.2.request == r.1))).foldl (· + ·) 0)
  (hpend : pend = w.pool.requests.countP (fun r => r.2.state == 0))
include hmine hquota hheld hasked hpend

/-- EXTENT_REQUEST is held to the tenant's quota and to 64 pending requests, and else enters a request under the next number. -/
theorem extentRequestBody_eq : extentRequestBody w c =
    if quota = 0 then failWith w c rcNotPermitted
    else if quota < held + asked + arg c 0 ∨ 64 ≤ pend then failWith w c rcNoSpace
    else complete { w with pool := { w.pool with
      requests := tset w.pool.requests w.pool.nextRequest
        { master := c.mid, count := arg c 0, protect := arg c 1, duration := arg c 2, timeoutAt := w.now + msT (arg c 3) }
      nextRequest := (w.pool.nextRequest + 1) % 2 ^ 32 } } c rcAccepted [.u 4 w.pool.nextRequest] := by
  obtain rfl : mine = fun m => tenantOf w m == some (cmdTenant w c) := funext hmine
  subst hquota hheld hasked hpend
  rfl

end extentRequest

/-! ### Commands that read a buffer (R362, R475, R501, R573, R575) -/

theorem withBuf_data {d : Bytes} (hbuf : bufOpen w c = true) (f : State → Bytes → State) :
    withBuf w c (.data d) f = f (bufRead w c d) (fit (msgInLen c.msg) d) := by
  obtain ⟨hmay, hcap⟩ := Bool.and_eq_true_iff.mp hbuf
  simp only [withBuf, hmay, hcap, Bool.not_true, Bool.or_self, Bool.false_eq_true, if_false, bufRead]

section buffered

variable {d : Bytes} (hown : isForward c.src = false)
include hown

theorem leaseRenewBody_holder (hbuf : bufOpen w c = true) (hmid : c.mid ≠ 4) (hlen : 4 * arg c 0 ≤ msgInLen c.msg) :
    leaseRenewBody (.data d) w c =
      renewForward (bufRead w c d) c (bufWords (fit (msgInLen c.msg) d) (arg c 0)) (arg c 1) := by
  have hno : ¬(c.mid = 4 ∨ isForward c.src = true) := not_or_intro hmid (Bool.eq_false_iff.mp hown)
  simp only [leaseRenewBody, if_neg hno, if_neg (Nat.not_lt.mpr hlen), withBuf_data hbuf]

theorem shareCreateBody_holder (hbuf : bufOpen w c = true) (hlen : 4 * (arg c 0 + arg c 1 + arg c 2) ≤ msgInLen c.msg) :
    shareCreateBody (.data d) w c = shareForward (bufRead w c d) c (arg c 0) (arg c 1)
      (bufWords (fit (msgInLen c.msg) d) (arg c 0 + arg c 1 + arg c 2)) := by
  simp only [shareCreateBody, hown, if_neg (Nat.not_lt.mpr hlen), withBuf_data hbuf, Bool.false_eq_true, if_false]

section extentFlush

variable {hs : List (Nat × Handle)} (hlen : 4 * arg c 0 ≤ msgInLen c.msg)
  (hhs : hs = (bufWords d (arg c 0)).filterMap (fun x =>
    ((tget w.pool.handles x).filter (fun h => h.master == c.mid)).map (fun h => (x, h))))
  (hcount : hs.length = arg c 0)
include hlen hhs hcount

theorem extentFlushBody_waits (hout : hs.any (fun p => writesOut w c.mid p.1 p.2) = true) :
    extentFlushBody (.data d) w c = cmdHold w c := by
  have hall : hs.length = (bufWords d (arg c 0)).length := by simp [hcount, bufWords]
  subst hhs
  simp only [extentFlushBody, hown, if_neg (Nat.not_lt.mpr hlen), hall, hout, Bool.false_eq_true, and_self, if_true, if_false]

/-- EXTENT_FLUSH with every write applied reports the refusal that came first, and clears those of its handles. -/
theorem extentFlushBody_applied (hbuf : bufOpen w c = true) (happlied : hs.any (fun p => writesOut w c.mid p.1 p.2) = false) :
    extentFlushBody (.data d) w c =
      complete (hs.foldl (fun s p => handleMod s p.1 (fun h => { h with refused := none })) (bufRead w c d)) c
        ((((hs.filterMap (fun p => p.2.refused.map (fun rc => (p.2.refusedAt, rc)))).mergeSort (fun a b => decide (a.1 ≤ b.1))).head?.map
          (·.2)).getD rcDone) [] := by
  have hall : hs.length = (bufWords d (arg c 0)).length := by simp [hcount, bufWords]
  subst hhs
  simp only [extentFlushBody, hown, if_neg (Nat.not_lt.mpr hlen), hall, happlied, withBuf_data hbuf, Bool.false_eq_true, and_false,
    ne_eq, not_true_eq_false, if_false]

end extentFlush

end buffered

/-! ### EXTENT_RETURN at the holder (R346, R355) -/

section extentReturn

variable {h : Handle} (hown : isForward c.src = false) (hh : heldHandle w c.mid (arg c 0) = some h)
include hown hh

theorem extentReturnBody_ended (hstate : h.state = .recalled ∨ h.state = .expired) :
    extentReturnBody w c = complete (freeHandle w (arg c 0)) c rcDone [] := by
  simp only [extentReturnBody, hown, hh, if_pos hstate, Bool.false_eq_true, if_false]

variable {parts : List (Nat × Half × Nat)}
  (hparts : parts = (if h.lost then [] else handleParts h) ++ parityParts w (arg c 0) h) (hlive : h.state = .live)
include hparts hlive

/-- EXTENT_RETURN of a live handle is forwarded to every lender of its parts, where all are reached. -/
theorem extentReturnBody_live : extentReturnBody w c =
    if parts.any (fun p => !systemOpen w p.1) then failWith w c rcPartnerAbsent
    else forwardDone (parts.foldl (fun s p => forwardPart s c p.1 [] 0x0606 [.u 4 (extCode p.2)]) (freeHandle w (arg c 0)))
      c.src (fun _ => []) := by
  subst hparts
  simp only [extentReturnBody, hown, hh, hlive, reduceCtorEq, or_self, Bool.false_eq_true, if_false]

end extentReturn

/-! ### SHARE_CREATE at the lender (R363, R575, R576) -/

theorem shareCreateBody_firstPart {buf : HostRead} {words : List Nat} (hforward : isForward c.src = true) (hfirst : arg c 3 = 0)
    (hwords : words = (List.range (shareWords (arg c 0 + arg c 1 + arg c 2) 0)).map (argElem c 4 4)) : shareCreateBody buf w c =
    if words.length = arg c 0 + arg c 1 + arg c 2 then shareMake w c (arg c 0) (arg c 1) words
    else complete { w with pool := { w.pool with shareParts := tset w.pool.shareParts (c.node, c.mid) words } } c rcDone
      [.u 4 0] := by
  subst hwords
  simp only [shareCreateBody, shareHere, hforward, hfirst, List.length_nil, List.nil_append, ne_eq, not_true_eq_false, if_true,
    if_false]

/-! ### EDITION_OPEN (R365, R369, R370, R410) -/

/-- EDITION_OPEN of the current edition: in the cycle of a publish's switch tick the one before it, while it is live. -/
theorem openWhat_current {q : Shared} {now key edition : Nat} {owner : Nat × Nat}
    (hbefore : ∀ k, q.before = some (now, k) → thas q.editions k = true → key = k)
    (hcurrent : (∀ k, q.before = some (now, k) → thas q.editions k = false) → key = q.current) :
    openWhat q now owner 0 edition = .ok (q, key) := by
  cases hb : q.before with
  | none =>
    have hkey : key = q.current := hcurrent fun k hk => nomatch hb.symm.trans hk
    simp only [openWhat, hb, hkey]
  | some p =>
    obtain ⟨t, k⟩ := p
    by_cases hlive : t = now ∧ thas q.editions k = true
    · have hkey : key = k := hbefore k (hlive.1 ▸ hb) hlive.2
      simp only [openWhat, hb, if_pos hlive, hkey]
    · have hkey : key = q.current := hcurrent fun j hj => by
        obtain ⟨rfl, rfl⟩ := Prod.mk.inj (Option.some.inj (hb.symm.trans hj))
        exact Bool.eq_false_iff.mpr fun hin => hlive ⟨rfl, hin⟩
      simp only [openWhat, hb, if_neg hlive, hkey]

theorem editionOpenBody_holder (hown : isForward c.src = false) (hnode : arg c 0 / 2 ^ 20 ≠ nodeId w) : editionOpenBody w c =
    if systemOpen w (arg c 0 / 2 ^ 20) then
      forwardPart w c (arg c 0 / 2 ^ 20) [] 0x0609 [.u 4 (arg c 0), .u 1 (arg c 1), .u 4 (arg c 2)]
    else failWith w c rcPartnerAbsent := by
  cases hopen : systemOpen w (arg c 0 / 2 ^ 20) <;>
    simp [-Nat.reducePow, editionOpenBody, hown, hnode, hopen]

section editionOpen

variable {num key x : Nat} {r q : Shared} {m : Nat × Nat × Bool} {h : Half}

/-- EDITION_OPEN at the lender of the current edition, by a member of a region that is served: the edition is opened, and its views
take the lowest free run of extent indices. -/
theorem editionOpenHere_current (hnum : num = arg c 0 % 2 ^ 20) (hr : tget w.pool.shared num = some r)
    (hm : r.members.filter (fun m => m.1 == c.node && m.2.1 == c.mid) = [m]) (hmode : arg c 1 = 0)
    (hstatus : regionStatus w r w.now = 0) (hq : q = reapEditions r w.now)
    (hwhat : openWhat q w.now (c.node, c.mid) 0 (arg c 2) = .ok (q, key)) (hh : h = ((q.dataExts.head?).map (·.1)).getD .h0)
    (hx : extRun w h q.dataExts.length = some x) : editionOpenHere w c = complete { w with pool := { w.pool with
      shared := tset w.pool.shared num { q with editions := tmod q.editions key (fun e => { e with opens := e.opens + 1 }) }
      views := (List.range q.dataExts.length).foldl (fun t i =>
        tset t (h, x + i) { region := num, key := key, index := i, node := c.node, mid := c.mid }) w.pool.views } } c rcDone
      [.u 4 (q.dataExts.length * 2 ^ 16 + extCode (h, x)), .u 4 (((tget q.editions key).map (·.number)).getD 0)] := by
  subst hnum hq hh
  have hread : ¬(0 = 2) := by decide
  simp only [-Nat.reducePow, editionOpenHere, hr, hm, hmode, hstatus, hwhat, hx, hread, List.isEmpty_cons, Bool.false_eq_true,
    false_and, or_self, ne_eq, not_true_eq_false, if_false]

end editionOpen

/-! ### EDITION_PUBLISH (R362, R367, R370) -/

section publishHolder

variable {h : Handle} {x n : Nat} (hown : isForward c.src = false) (hh : ownView w c.mid (arg c 0) = some h)
  (hdraft : h.view = some (x, n, true))
include hown hh hdraft

theorem editionPublishBody_waits (hout : writesOut w c.mid (arg c 0) h = true) : editionPublishBody w c = cmdHold w c := by
  simp [editionPublishBody, hown, hh, hdraft, hout]

variable (happlied : writesOut w c.mid (arg c 0) h = false)
include happlied

theorem editionPublishBody_refused (hrefused : 0 < h.refusedCount) : editionPublishBody w c = failWith w c rcNoSpace := by
  simp [editionPublishBody, hown, hh, hdraft, happlied, hrefused]

theorem editionPublishBody_forwarded (hnone : h.refusedCount = 0) (hopen : systemOpen w h.node = true) :
    editionPublishBody w c = forwardPart w c h.node [] 0x060A [.u 4 (extCode (h.half, h.ext)), .u 4 (arg c 1)] := by
  simp [editionPublishBody, hown, hh, hdraft, happlied, hnone, hopen]

end publishHolder

section publishLender

variable {v : ViewExt} {r : Shared} {e : Edition} {cur : Nat} (hforward : isForward c.src = true) (hv : viewFor w c = some v)
  (hr : tget w.pool.shared v.region = some r) (he : tget r.editions v.key = some e)
  (hcur : cur = ((tget r.editions r.current).map (·.number)).getD 0) (hdraft : e.draft = true)
  (hstatus : regionStatus w r w.now = 0) (hlast : arg c 1 ≠ 0xFFFFFFFF)
include hforward hv hr he hcur hdraft hstatus hlast

theorem editionPublishBody_stale (hstale : arg c 1 ≠ cur) : editionPublishBody w c = failWith w c rcConflict := by
  subst hcur
  simp only [editionPublishBody, publishHere, hforward, hv, hr, he, hdraft, hstatus, if_neg hlast, hstale, Bool.not_true,
    Bool.false_eq_true, ne_eq, not_true_eq_false, not_false_eq_true, true_or, if_true, if_false]

/-- EDITION_PUBLISH of a draft on the current edition: it is the current edition from this switch tick on. -/
theorem editionPublishBody_published (hbase : arg c 1 = cur) (hnumber : e.number = cur) : editionPublishBody w c =
    complete (sharedMod w v.region (fun _ => reapEditions { r with
      before := some (w.now, r.current), current := v.key
      editions := tset r.editions v.key { e with number := cur + 1, draft := false, own := [] } } w.now)) c rcDone
      [.u 4 (cur + 1)] := by
  subst hcur
  rw [hbase] at hlast
  simp only [editionPublishBody, publishHere, hforward, hv, hr, he, hdraft, hstatus, hbase, if_neg hlast, hnumber, Bool.not_true,
    Bool.false_eq_true, ne_eq, not_true_eq_false, or_self, if_true, if_false]

end publishLender

/-! ### EDITION_CLOSE (R368) -/

theorem editionCloseBody_holder {h : Handle} (hown : isForward c.src = false) (hh : ownView w c.mid (arg c 0) = some h)
    (hopen : systemOpen w h.node = true) : editionCloseBody w c =
      forwardPart (freeHandle w (arg c 0)) c h.node [] 0x060B [.u 4 (extCode (h.half, h.ext))] := by
  simp only [editionCloseBody, hown, hh, hopen, Bool.not_true, Bool.false_eq_true, if_false]

theorem editionCloseBody_lender {v : ViewExt} {r : Shared} {k : Half × Nat} {views : Tbl (Half × Nat) ViewExt}
    (hforward : isForward c.src = true) (hv : viewFor w c = some v) (hr : tget w.pool.shared v.region = some r)
    (hk : k = codeExt (arg c 0))
    (hviews : views = (List.range r.dataExts.length).foldl (fun t i => tdel t (k.1, k.2 + i)) w.pool.views) :
    editionCloseBody w c = complete (sharedMod { w with pool := { w.pool with views := views } } v.region (fun r => reapEditions { r with
      editions := tfilter (tmod r.editions v.key (fun e => { e with opens := e.opens - 1 })) (fun key e => !(key == v.key && e.draft)) }
      w.now)) c rcDone [] := by
  subst hk hviews
  simp only [editionCloseBody, closeHere, hforward, hv, hr, Option.map_some, Option.getD_some, if_true]

/-! ### NEAR_OP (R355, R381, R382) -/

/-- NEAR_OP at its sender's module is judged by the codes of its ranges, which lie at one lender that is reached. -/
theorem nearOpBody_holder {srcs : List Nat} {dst : Option Nat} {rc node : Nat} {places : List Nat}
    (hown : isForward c.src = false) (hnear : nearAddrs c = (srcs, dst))
    (hrc : rc = firstCode (srcs.map (fun a => nearCode w c.mid a (arg c 4) false)
      ++ (dst.map (fun a => nearCode w c.mid a (arg c 4) true)).toList))
    (hplaces : places = (srcs ++ dst.toList).map (fun a => (nearAt w c.mid a (arg c 4)).1)) (hnode : node = places.getD 0 0) :
    nearOpBody w c =
      if rc ≠ rcDone then failWith w c rc
      else if places.any (· != node) then failWith w c rcBadField
      else if !systemOpen w node then failWith w c rcPartnerAbsent
      else forwardPart w c node [] 0x060C
        [.u 1 (arg c 0), .u 1 (arg c 1), .u 1 (arg c 2), .u 1 (arg c 3), .u 4 (arg c 4), .u 8 (arg c 5)
        , .u 8 ((dst.map (fun a => (nearAt w c.mid a (arg c 4)).2)).getD 0)
        , .a 8 (srcs.map (fun a => (nearAt w c.mid a (arg c 4)).2) ++ List.replicate (7 - srcs.length) 0)] := by
  subst hnode hplaces hrc
  simp only [nearOpBody, hown, hnear, Bool.false_eq_true, if_false]

end holderBodies

/-- Settles O47: each clause is the rule above for the branch that its hypotheses name. -/
theorem poolCommandsAtHolder : Obligations.PoolCommandsAtHolder := by
  refine ⟨?request, ?buffered, ?returned, ?share, ?opened, ?published, ?closed, ?near⟩
  case request =>
    intro s w src c quota held asked pend mine h hw hmine hquota hheld hasked hpend
    rw [exec_extentRequest h, ← hw, extentRequestBody_eq hmine hquota hheld hasked hpend]
    refine ⟨fun hnone => congrArg _ (if_pos hnone), fun hsome hfull => congrArg _ ((if_neg hsome).trans (if_pos hfull)),
      fun hroom hsome hfew => congrArg _ ((if_neg hsome).trans (if_neg ?_))⟩
    omega
  case buffered =>
    intro s w src c d hmid hown hbuf hw
    subst hw
    refine ⟨fun h hlen => ?_, fun h hlen => ?_, fun hs h hlen hhs hcount => ⟨fun hout => ?_, fun happlied => ?_⟩⟩
    · rw [exec_leaseRenew _ h, leaseRenewBody_holder hown hbuf hmid hlen]
    · rw [exec_shareCreate _ h, shareCreateBody_holder hown hbuf hlen]
    · rw [exec_extentFlush _ h, extentFlushBody_waits hown hlen hhs hcount hout]
    · rw [exec_extentFlush _ h, extentFlushBody_applied hown hlen hhs hcount hbuf happlied]
  case returned =>
    intro s w u src c h parts hserves hw hown hh hparts
    rw [exec_extentReturn hserves, ← hw]
    refine ⟨fun hstate => congrArg _ (extentReturnBody_ended hown hh hstate), fun hlive habsent => congrArg _ ?_,
      fun hlive hopen hu => congrArg _ ?_⟩
    · exact (extentReturnBody_live hown hh hparts hlive).trans (if_pos habsent)
    · rw [extentReturnBody_live hown hh hparts hlive, if_neg (Bool.eq_false_iff.mp hopen), hu]
  case share =>
    intro s w src c buf words h hw hforward hfirst hwords
    rw [exec_shareCreate buf h, ← hw, shareCreateBody_firstPart hforward hfirst hwords]
    exact ⟨fun hall => congrArg _ (if_pos hall), fun hpart => congrArg _ (if_neg hpart)⟩
  case opened =>
    intro s w src c h hw
    rw [exec_editionOpen h, ← hw]
    refine ⟨fun node hown hnode hother => ?_, fun num n number key x r q m half views hforward hnum hr hm hmode hstatus hq hbefore
      hcurrent hn hhalf hx hnumber hviews => congrArg _ ?_⟩
    · subst hnode
      rw [editionOpenBody_holder hown hother]
      exact ⟨fun habsent => congrArg _ (if_neg (Bool.eq_false_iff.mp habsent)), fun hopen => congrArg _ (if_pos hopen)⟩
    · subst hn hnumber hviews
      exact (if_pos hforward).trans
        (editionOpenHere_current hnum hr hm hmode hstatus hq (openWhat_current hbefore hcurrent) hhalf hx)
  case published =>
    intro s w src c h hw
    rw [exec_editionPublish h, ← hw]
    refine ⟨fun g x n hown hg hdraft => ⟨fun hout => congrArg _ (editionPublishBody_waits hown hg hdraft hout),
        fun happlied hnone hopen => congrArg _ (editionPublishBody_forwarded hown hg hdraft happlied hnone hopen),
        fun happlied hrefused => congrArg _ (editionPublishBody_refused hown hg hdraft happlied hrefused)⟩,
      fun v r e cur hforward hv hr he hcur hdraft hstatus => ⟨fun hlast hstale => congrArg _ ?_,
        fun hlast hbase hnumber => congrArg _ ?_⟩⟩
    · exact editionPublishBody_stale hforward hv hr he hcur hdraft hstatus hlast hstale
    · exact editionPublishBody_published hforward hv hr he hcur hdraft hstatus hlast hbase hnumber
  case closed =>
    intro s w src c h hw
    rw [exec_editionClose h, ← hw]
    exact ⟨fun g hown hg hopen => congrArg _ (editionCloseBody_holder hown hg hopen),
      fun v r k views hforward hv hr hk hviews => congrArg _ (editionCloseBody_lender hforward hv hr hk hviews)⟩
  case near =>
    intro s w src c srcs dst h hw hnear
    rw [exec_nearOp h, ← hw]
    refine ⟨fun rc node places hown hrc hplaces hnode => ?_, fun hforward => congrArg _ (if_pos hforward)⟩
    rw [nearOpBody_holder hown hnear hrc hplaces hnode]
    refine ⟨fun hbad => congrArg _ (if_pos hbad), fun hdone happart => congrArg _ ?_, fun hdone hone hopen => congrArg _ ?_⟩
    · exact (if_neg (not_not_intro hdone)).trans (if_pos happart)
    · exact (if_neg (not_not_intro hdone)).trans ((if_neg (Bool.eq_false_iff.mp hone)).trans (if_neg (by simp [hopen])))

end Sys2Proof.Machine
end

section
/-! SUPPORT. How requests that come by a peer link are answered, how a window refuses, and how this module's own requests complete, one
rule for each branch, and the statement on them (R348, R356, R385, R387 to R389, R411, R413 to R415, R428, R435, R436, R456). -/

namespace Sys2Proof.Machine

/-! ### RD_REQ (R348, R385, R387, R411, R428) -/

theorem exec_rdReq_headless {s : State} {p : Nat} (rs : List RemoteRead) (hhead : requestHead s p 4 = none) :
    exec (.rdReq p rs) s = .next (dropOrphan s p 4) := by
  show execRdReq p rs s = _
  simp only [execRdReq, hhead]

section readRequest

variable {s : State} {p : Nat} (rs : List RemoteRead) {f : Flit} {x : Session} {k : Nat × Nat} {ds : List (Nat × Nat × Nat)}
  (hhead : requestHead s p 4 = some (f, x)) (hk : k = (f.src, f.sid)) (hds : ds = descsOf f)
include hhead hk hds

theorem exec_rdReq_wrongForm (hform : formOk x f = false) : exec (.rdReq p rs) s = .next (ds.foldl (fun s d =>
    replyRead (outsideCount s p k 0x20) (.read k.1 k.2 d.1) 0 (zeros d.2.1) (allLines 0 d.2.1) 0x20) (inboxPop s p)) := by
  obtain rfl : k = flitKey f := hk
  subst hds
  show execRdReq p rs s = _
  simp only [execRdReq, hhead, hform, Bool.not_false, if_true]
  rfl

variable (hform : formOk x f = true)
include hform

/-- A pool-form read waits for a near-memory operation that it meets, for its class and for its cap, and is then served. -/
theorem exec_rdReq_pool (hpool : f.pool = true) : exec (.rdReq p rs) s =
    if ds.any (fun d => poolWaits s k.1 x.remoteMid d.2.2 d.2.1 f.arrived || portHolds s k 3 (poolAddr s d.2.2) false)
        || !capAllows s k.1 x.remoteMid ((ds.map (fun d => d.2.1)).foldl (· + ·) 0) then .next s
    else .next (ds.foldl (fun s d => poolServe s k x f.arrived d) (leaveSleep (inboxPop s p))) := by
  obtain rfl : k = flitKey f := hk
  subst hds
  show execRdReq p rs s = _
  simp only [execRdReq, hhead, hform, hpool, Bool.not_true, Bool.false_eq_true, if_true, if_false]

theorem exec_rdReq_window (hwindow : f.pool = false) : exec (.rdReq p rs) s =
    if ds.any (fun d => portHolds s k 2 (winAddr s x d.2.2) false) then .next s
    else .next (windowReads (inboxPop s p) k x ds rs) := by
  obtain rfl : k = flitKey f := hk
  subst hds
  show execRdReq p rs s = _
  simp only [execRdReq, hhead, hform, hwindow, Bool.not_true, Bool.false_eq_true, if_false]

end readRequest

/-! ### WR (R348, R385, R387, R414, R428) -/

theorem exec_wr_headless {s : State} {p : Nat} (c : HostRead) (i : RemoteRead) (hhead : requestHead s p 5 = none) :
    exec (.wr p c i) s = .next (dropOrphan s p 5) := by
  show execWr p c i s = _
  simp only [execWr, hhead]

section write

variable {s : State} {p : Nat} (c : HostRead) (i : RemoteRead) {f : Flit} {x : Session} {k : Nat × Nat}
  (hhead : requestHead s p 5 = some (f, x)) (hk : k = (f.src, f.sid))
include hhead hk

theorem exec_wr_waits (hwaits : writeWaits s k = true) : exec (.wr p c i) s = .next s := by
  obtain rfl : k = flitKey f := hk
  show execWr p c i s = _
  simp only [execWr, hhead, hwaits, if_true]

variable (hfree : writeWaits s k = false)
include hfree

theorem exec_wr_wrongForm (hform : formOk x f = false) : exec (.wr p c i) s =
    .next (replyWrite (outsideCount (inboxPop s p) p k 0x20) (.write k.1 k.2 f.sseq) 0x20) := by
  obtain rfl : k = flitKey f := hk
  show execWr p c i s = _
  simp only [execWr, hhead, hfree, hform, Bool.not_false, Bool.false_eq_true, if_true, if_false]
  rfl

variable (hform : formOk x f = true)
include hform

section poolWrite

variable (hpool : f.pool = true)
include hpool

theorem exec_wr_pool_held (hheld : poolWaits s k.1 x.remoteMid f.arg f.len f.arrived = true ∨
    capAllows s k.1 x.remoteMid f.len = false ∨ portHolds s k 3 (poolAddr s f.arg) true = true) :
    exec (.wr p c i) s = .next s := by
  obtain rfl : k = flitKey f := hk
  have hhold : (poolWaits s (flitKey f).1 x.remoteMid f.arg f.len f.arrived || !capAllows s (flitKey f).1 x.remoteMid f.len
      || portHolds s (flitKey f) 3 (poolAddr s f.arg) true) = true := by
    rcases hheld with h | h | h <;> simp [h]
  show execWr p c i s = _
  simp only [execWr, hhead, hfree, hform, hpool, hhold, Bool.not_true, Bool.false_eq_true, if_true, if_false]

theorem exec_wr_pool_served {h : Half} {e o st : Nat} {t : State} (hspot : locSpot f.arg = (h, e, o))
    (hnear : poolWaits s k.1 x.remoteMid f.arg f.len f.arrived = false) (hcap : capAllows s k.1 x.remoteMid f.len = true)
    (hclass : portHolds s k 3 (poolAddr s f.arg) true = false)
    (hput : poolPut (leaveSleep (inboxPop s p)) k.1 x.remoteMid h e o (f.payload.take f.len) f.arrived = (t, st)) :
    exec (.wr p c i) s = .next (peerReply (capUse t k.1 x.remoteMid f.len) k h f.sseq st (spotExts t h e)) := by
  obtain rfl : k = flitKey f := hk
  show execWr p c i s = _
  simp only [execWr, hhead, hfree, hform, hpool, hspot, hnear, hcap, hclass, hput, Bool.not_true, Bool.or_self,
    Bool.false_eq_true, if_true, if_false]

end poolWrite

theorem exec_wr_window (hwindow : f.pool = false) : exec (.wr p c i) s =
    if portHolds s k 2 (winAddr s x f.arg) true then .next s
    else .next (windowPut (inboxPop s p) k x (winOf s x.port (f.arg % 16)) (f.arg / 16) (f.payload.take f.len) f.sseq c i) := by
  obtain rfl : k = flitKey f := hk
  show execWr p c i s = _
  simp only [execWr, hhead, hfree, hform, hwindow, Bool.not_true, Bool.false_eq_true, if_false]

end write

/-! ### What a window refuses (R435, R436) -/

theorem winStatus_disabled {x : Session} {w : InWin} (off n : Nat) (write : Bool) (hw : w.enable = false) :
    winStatus x w off n write = 0xE0 := by
  simp only [winStatus, hw, Bool.not_false, if_true, stNoWindow]

/-- A window that is enabled refuses a session that is not one of its own, a direction without its right, and bytes beyond its end. -/
theorem winStatus_outside {x : Session} {w : InWin} {off n : Nat} {write : Bool} (hw : w.enable = true)
    (hout : w.sessions.getLsbD ((x.localMid - 0x80) % 64) = false ∨ w.rights.getLsbD (if write then 1 else 0) = false ∨
      winBytes w < off + n) : winStatus x w off n write = 0x20 := by
  have hno : (!w.sessions.getLsbD ((x.localMid - 0x80) % 64) || !w.rights.getLsbD (if write then 1 else 0)
      || decide (winBytes w < off + n)) = true := by
    rcases hout with h | h | h <;> simp [h]
  simp only [winStatus, hw, hno, Bool.not_true, Bool.false_eq_true, if_true, if_false, stNotPermitted]

section refused

variable {s : State} {k : Nat × Nat} {x : Session} {w : InWin} {off st : Nat} (hst : st ≠ 0)
include hst

theorem windowGet_refused {n tag : Nat} {r : RemoteRead} (hrefused : winStatus x w off n false = st) :
    windowGet s k x w off n tag r =
      replyRead (outsideCount s x.port k st) (.read k.1 k.2 tag) 0 (zeros n) (allLines 0 n) st := by
  subst hrefused
  exact if_pos hst

theorem windowPut_refused {b : Bytes} {q : Nat} {c : HostRead} {r : RemoteRead} (hrefused : winStatus x w off b.length true = st) :
    windowPut s k x w off b q c r = replyWrite (outsideCount s x.port k st) (.write k.1 k.2 q) st := by
  subst hrefused
  exact if_pos hst

end refused

/-! ### Answers to this module's requests (R356, R388, R389, R413, R414, R456) -/

theorem sessOf_sessMod_self (s : State) (k : Nat × Nat) (f : Session → Session) : sessOf (sessMod s k f) k = (sessOf s k).map f :=
  tget_tmod_self s.link.sessions k f

theorem loadKeep_pool (s : State) (k : Nat × Nat) {f : Flit} (lo : Nat) (hpool : f.pool = true) :
    tget (loadKeep s k f lo).pool.load k.1 = some (natField f.arg lo 2) := by
  rw [loadKeep, if_pos hpool]
  exact tget_tset_self _ _ _

/-- RD_RSP for a read that is outstanding: the part joins it, and the last part completes it. -/
theorem exec_rdRsp {s t : State} {p : Nat} {f : Flit} {k : Nat × Nat} {x : Session} {o : Outst}
    (hhead : inboxHead s p (fun f => f.type == 6) = some f) (ht : t = loadKeep (inboxPop s p) k f 37) (hk : k = (f.src, f.sid))
    (hx : sessOf t k = some x) (ho : x.outstanding.find? (fun o => !o.write && o.tag == natField f.arg 0 12) = some o) :
    exec (.rdRsp p) s =
      if 64 * o.lines ≤ natField f.arg 12 12 + f.len then
        .next (lenderGo (readDone (sessMod (handleSeen t o (readJoin o f).status) k
          (fun x => { x with outstanding := x.outstanding.erase o })) (readJoin o f)) k.1)
      else .next (sessMod t k (fun x => { x with outstanding := x.outstanding.map (fun y => if y = o then readJoin o f else y) })) := by
  obtain rfl : k = flitKey f := hk
  subst ht
  show execRdRsp p s = _
  simp only [execRdRsp, hhead, hx, ho, Option.bind_some]

section cmpl

variable {s t : State} {p n : Nat} {f : Flit} {k : Nat × Nat} {x : Session} (hhead : inboxHead s p (fun f => f.type == 7) = some f)
  (ht : t = loadKeep (inboxPop s p) k f 40) (hk : k = (f.src, f.sid)) (hx : sessOf t k = some x) (hn : n = natField f.arg 0 32)
include hhead ht hk hx hn

theorem exec_cmpl_applied (hdone : natField f.arg 32 8 = 0) : exec (.cmpl p) s = .next (lenderGo (sessMod t k (fun x => { x with
    outstanding := if x.outstanding.any (fun o => o.write && o.tag == n) then cmplLeaves x.outstanding n else x.outstanding })) k.1) := by
  obtain rfl : k = flitKey f := hk
  subst hn ht
  show execCmpl p s = _
  simp only [execCmpl, hhead, hx, hdone, if_true]

variable (hrefused : natField f.arg 32 8 ≠ 0)
include hrefused

theorem exec_cmpl_unknown (hnone : x.outstanding.find? (fun o => o.write && o.tag == n) = none) : exec (.cmpl p) s = .next t := by
  obtain rfl : k = flitKey f := hk
  subst hn ht
  show execCmpl p s = _
  simp only [execCmpl, hhead, hx, if_neg hrefused, hnone]

theorem exec_cmpl_refused {o : Outst} (ho : x.outstanding.find? (fun o => o.write && o.tag == n) = some o) :
    exec (.cmpl p) s = .next (lenderGo (writeRefused (sessMod t k (fun x => { x with outstanding := x.outstanding.erase o })) o
      (natField f.arg 32 8)) k.1) := by
  obtain rfl : k = flitKey f := hk
  subst hn ht
  show execCmpl p s = _
  simp only [execCmpl, hhead, hx, if_neg hrefused, ho]

end cmpl

section writeRefused

variable {s v : State} {o : Outst} {st : Nat} (hv : v = handleSeen s o st)
include hv

theorem writeRefused_counted {m : Nat} {h : Handle} (hm : masterHandle v o.mid o.addr o.data.length = some (m, h)) :
    writeRefused s o st = poolRefused v m h st := by
  subst hv
  simp only [writeRefused, hm]

theorem writeRefused_dropped (hnone : masterHandle v o.mid o.addr o.data.length = none) : writeRefused s o st = v := by
  subst hv
  simp only [writeRefused, hnone]

end writeRefused

theorem exec_linkReadTimeout {s t : State} {k : Nat × Nat} {x : Session} {o : Outst} (hx : sessOf s k = some x)
    (ho : x.outstanding.find? (fun y => !y.write && y.tag == o.tag) = some o)
    (ht : t = sessMod s k (fun x => { x with outstanding := x.outstanding.erase o })) : exec (.linkReadTimeout k.1 k.2 o.tag) s =
      if o.sentAt + msT 1 ≤ s.now then
        .next (lenderGo (emit (linkLog t ((sessPort t k x).getD x.port) 7 rcPartnerAbsent)
          (.runtimeData o.mid o.addr (zeros (64 * o.lines)) true rcPartnerAbsent)) k.1)
      else .next s := by
  subst ht
  show execLinkReadTimeout k.1 k.2 o.tag s = _
  simp only [execLinkReadTimeout, hx, ho, Option.bind_some, Option.map_some]

/-- Settles O56: each clause is the rule above for the branch that its hypotheses name. -/
theorem peerAccess : Obligations.PeerAccess := by
  refine ⟨?read, ?headless, ?write, ?windows, ?answer, ?cmpl, fun s k f lo hpool => loadKeep_pool s k lo hpool, ?timeout⟩
  case read =>
    intro s p rs f x k ds hhead hk hds
    refine ⟨fun hform => exec_rdReq_wrongForm rs hhead hk hds hform, fun hform hpool hheld => ?_, fun hform hpool hcap => ?_,
      fun hform hpool hfree hcap => ?_, fun hform hwindow hheld => ?_, fun hform hwindow hfree => ?_⟩
    · refine (exec_rdReq_pool rs hhead hk hds hform hpool).trans (if_pos ?_)
      rw [List.any_eq_true.mpr (by simpa only [Bool.or_eq_true] using hheld), Bool.true_or]
    · exact (exec_rdReq_pool rs hhead hk hds hform hpool).trans (if_pos (by rw [hcap, Bool.not_false, Bool.or_true]))
    · refine (exec_rdReq_pool rs hhead hk hds hform hpool).trans (if_neg (Bool.eq_false_iff.mp ?_))
      rw [List.any_eq_false.mpr fun d hd => by simp [hfree d hd], hcap, Bool.not_true, Bool.or_self]
    · exact (exec_rdReq_window rs hhead hk hds hform hwindow).trans (if_pos (List.any_eq_true.mpr hheld))
    · refine (exec_rdReq_window rs hhead hk hds hform hwindow).trans (if_neg (Bool.eq_false_iff.mp ?_))
      exact List.any_eq_false.mpr fun d hd => Bool.eq_false_iff.mp (hfree d hd)
  case headless => exact fun s p rs c i => ⟨exec_rdReq_headless rs, exec_wr_headless c i⟩
  case write =>
    intro s p c i f x k h e o hhead hk hspot
    refine ⟨fun hwaits => exec_wr_waits c i hhead hk hwaits, fun hfree hform => exec_wr_wrongForm c i hhead hk hfree hform,
      fun hfree hform hpool hheld => exec_wr_pool_held c i hhead hk hfree hform hpool hheld,
      fun t st hfree hform hpool hnear hcap hclass hput =>
        exec_wr_pool_served c i hhead hk hfree hform hpool hspot hnear hcap hclass hput,
      fun hfree hform hwindow hheld => ?_, fun hfree hform hwindow hopen => ?_⟩
    · exact (exec_wr_window c i hhead hk hfree hform hwindow).trans (if_pos hheld)
    · exact (exec_wr_window c i hhead hk hfree hform hwindow).trans (if_neg (Bool.eq_false_iff.mp hopen))
  case windows =>
    intro s k x w off n tag r b q c
    exact ⟨fun hw => ⟨windowGet_refused (by decide) (winStatus_disabled off n false hw),
        windowPut_refused (by decide) (winStatus_disabled off b.length true hw)⟩,
      fun hw hout => windowGet_refused (by decide) (winStatus_outside hw hout),
      fun hw hout => windowPut_refused (by decide) (winStatus_outside hw hout)⟩
  case answer =>
    intro s t p at' f k x o o2 hhead ht hk hx ho hat ho2
    subst hat
    obtain rfl : o2 = readJoin o f := ho2
    rw [exec_rdRsp hhead ht hk hx ho]
    exact ⟨fun hlast => if_pos hlast, fun hpart => if_neg (Nat.not_le.mpr hpart)⟩
  case cmpl =>
    intro s t p n f k x hhead ht hk hx hn
    refine ⟨fun hdone hany => ⟨_, ?_, exec_cmpl_applied hhead ht hk hx hn hdone⟩,
      fun o u v hrefused ho hu hv => ⟨fun m h hm => ?_, fun hnone => ?_⟩,
      fun hrefused hnone => exec_cmpl_unknown hhead ht hk hx hn hrefused hnone⟩
    · rw [sessOf_sessMod_self, hx, Option.map_some, if_pos hany]
    · rw [exec_cmpl_refused hhead ht hk hx hn hrefused ho, ← hu, writeRefused_counted hv hm]
    · rw [exec_cmpl_refused hhead ht hk hx hn hrefused ho, ← hu, writeRefused_dropped hv hnone]
  case timeout =>
    intro s t k x o hx ho ht
    rw [exec_linkReadTimeout hx ho ht]
    exact ⟨fun hlate => if_pos hlate, fun hearly => if_neg (Nat.not_le.mpr hearly)⟩

end Sys2Proof.Machine
end

section
/-! SUPPORT. Device time over all commands, and the statement on it (R446, R663). -/

namespace Sys2Proof.Machine

/-- AUX that comes to a device without it starts device time at 0. -/
theorem exec_auxPowerOn_now (slot : BitVec 3) (puf : Bool) {s : State} (haux : s.pins.aux = false) :
    ∃ t, exec (.auxPowerOn slot puf) s = .next t ∧ t.now = 0 := by
  have hcomes : (!s.pins.aux) = true ∨ s.boot.stage = .auxOnly ∧ (!s.boot.recordRead) = true := .inl (by rw [haux, Bool.not_false])
  refine ⟨_, if_pos hcomes, (railsUp_now _).trans ?_⟩
  rw [if_neg (Bool.eq_false_iff.mp haux)]
  rfl

/-- Settles O8: that time never runs back is among what every command but AUX_POWER_ON keeps. -/
theorem deviceTimeNeverDecreases : Obligations.DeviceTimeNeverDecreases := by
  refine ⟨fun c s hother => ?_, fun slot puf s haux => exec_auxPowerOn_now slot puf haux⟩
  obtain ⟨t, heq, hkept⟩ := exec_lasting c s hother
  exact ⟨t, heq, hkept.clock⟩

end Sys2Proof.Machine
end

section
/-! SUPPORT. What the peer-link desk commands do, one rule for each branch, and the statement on them (R397, R405, R421, R429, R434,
R435, R438, R443, R579 to R581, R608). -/

namespace Sys2Proof.Machine

/-! ### The rows of the commands -/

section linkCommands

variable {s : State} {src : DeskSrc} {c : RunCmd}

/-- LINK_STATUS wakes nothing: it reads registers and not the tiers. -/
theorem exec_linkStatus (h : Serves s src 0x0701 c) : exec (.linkStatus src) s = .next (linkStatusBody (quietNow s) c) := by
  have hasleep : awake s 0x0701 = quietNow s := if_pos (by decide)
  exact congrArg Host.Outcome.next ((deskRun_serves _ h).trans (by rw [hasleep]))

theorem exec_linkConfig (h : Serves s src 0x0702 c) : exec (.linkConfig src) s = .next (linkConfigBody (leaveSleep s) c) :=
  congrArg Host.Outcome.next (deskRun_leaveSleep _ h (by decide))

theorem exec_linkAnchor (buf : HostRead) (h : Serves s src 0x0703 c) :
    exec (.linkAnchor src buf) s = .next (linkAnchorBody buf (leaveSleep s) c) :=
  congrArg Host.Outcome.next (deskRun_leaveSleep _ h (by decide))

theorem exec_sessionBind (h : Serves s src 0x0704 c) : exec (.sessionBind src) s = .next (sessionBindBody (leaveSleep s) c) :=
  congrArg Host.Outcome.next (deskRun_leaveSleep _ h (by decide))

theorem exec_sessionClose (h : Serves s src 0x0705 c) : exec (.sessionClose src) s = .next (sessionCloseBody (leaveSleep s) c) :=
  congrArg Host.Outcome.next (deskRun_leaveSleep _ h (by decide))

theorem exec_windowSet (h : Serves s src 0x0706 c) : exec (.windowSet src) s = .next (windowSetBody (leaveSleep s) c) :=
  congrArg Host.Outcome.next (deskRun_leaveSleep _ h (by decide))

theorem exec_routeSet (h : Serves s src 0x0707 c) : exec (.routeSet src) s = .next (routeSetBody (leaveSleep s) c) :=
  congrArg Host.Outcome.next (deskRun_leaveSleep _ h (by decide))

theorem exec_portReset (h : Serves s src 0x0708 c) : exec (.portReset src) s = .next (portResetBody (leaveSleep s) c) :=
  congrArg Host.Outcome.next (deskRun_leaveSleep _ h (by decide))

end linkCommands

section linkBodies

variable {w : State} {c : RunCmd}

/-! ### LINK_CONFIG (R397, R405, R579) -/

/-- LINK_CONFIG of one port: the port restarts, or all of them with the new board number. -/
theorem linkConfigBody_port {u : State} (hport : arg c 0 ≠ 0xFF) (hu : u = portMod w (arg c 0) (fun q => { q with
    kind := codePortKind (arg c 1), lpPermit := BitVec.ofNat 2 (arg c 2), partnerCfg := arg c 5 })) :
    linkConfigBody w c =
      complete (if natBit (arg c 3) 0 then boardSet u (arg c 4) else portStart u (arg c 0)) c rcDone [] := by
  subst hu
  simp only [linkConfigBody, if_neg hport]

theorem linkConfigBody_board (hall : arg c 0 = 0xFF) (hboard : natBit (arg c 3) 0 = true) :
    linkConfigBody w c = complete (boardSet w (arg c 4)) c rcDone [] := by
  simp only [linkConfigBody, hall, hboard, if_true]

/-! ### LINK_ANCHOR (R421, R580, R608) -/

theorem linkAnchorBody_remove (buf : HostRead) (hremove : arg c 0 = 1) : linkAnchorBody buf w c =
    if thas w.sec.anchors (arg c 1) then complete (anchorsSet w (tdel w.sec.anchors (arg c 1))) c rcDone []
    else failWith w c rcNotPermitted := by
  rw [linkAnchorBody, if_pos hremove]

/-- LINK_ANCHOR that adds reads its certificate from the buffer, and then looks at the index before the certificate. -/
theorem linkAnchorBody_add {u : State} {d : Bytes} (hadd : arg c 0 ≠ 1) (hlen : msgInLen c.msg ≤ 2048) (hbuf : bufOpen w c = true)
    (hu : u = bufRead w c d) : linkAnchorBody (.data d) w c =
      if thas u.sec.anchors (arg c 1) then failWith u c rcConflict
      else if Config.anchorOk (fit (msgInLen c.msg) d) then
        complete (anchorsSet u (tset u.sec.anchors (arg c 1) (fit (msgInLen c.msg) d))) c rcDone []
      else failWith u c rcSignatureFail := by
  subst hu
  simp only [linkAnchorBody, if_neg hadd, if_neg (Nat.not_lt.mpr hlen), withBuf_data hbuf]
  cases Config.anchorOk (fit (msgInLen c.msg) d) <;> rfl

/-! ### SESSION_BIND and SESSION_CLOSE (R429, R434, R581) -/

section sessionBind

variable {b : Binding} (hb : b = { tenant := cmdTenant w c, port := arg c 1, node := arg c 2, mid := arg c 3 })
include hb

theorem sessionBindBody_add (hadd : arg c 0 = 0) : sessionBindBody w c =
    if w.link.bindings.contains b then failWith w c rcConflict
    else if 64 ≤ w.link.bindings.countP (fun y => y.port == b.port) then failWith w c rcNoSpace
    else complete { w with link := { w.link with bindings := w.link.bindings ++ [b] } } c rcDone [] := by
  subst hb
  simp only [sessionBindBody, if_pos hadd]

/-- SESSION_BIND that removes a binding closes the sessions that it carries. -/
theorem sessionBindBody_remove (hremove : arg c 0 ≠ 0) : sessionBindBody w c =
    if w.link.bindings.contains b then
      complete ((boundSessions w b).foldl sessionClose { w with link := { w.link with bindings := w.link.bindings.erase b } }) c rcDone []
    else failWith w c rcNotPermitted := by
  subst hb
  simp only [sessionBindBody, if_neg hremove]

end sessionBind

section sessionClose

variable {k : Nat × Nat} {x : Session} (hx : sessOf w k = some x)
include hx

theorem sessionCloseBody_eq (hk : k = (arg c 0, arg c 1)) : sessionCloseBody w c =
    if c.mid = 1 ∨ (x.kind ≠ .system ∧ tenantOf w x.localMid = some (cmdTenant w c)) then complete (sessionClose w k) c rcDone []
    else failWith w c rcNotPermitted := by
  subst hk
  simp only [sessionCloseBody, hx]

/-- An open session in which nothing waits says CLOSE and ends. -/
theorem sessionClose_settled (hopened : x.state = .opened) (hacked : x.unacked = []) (hsent : x.unsent = []) :
    sessionClose w k = sessionLost (sctlSend w k 12 []) k := by
  simp [sessionClose, hx, hopened, awaitsSack, hacked, hsent]

/-- An open session with flits to send closes later. -/
theorem sessionClose_unsent (hopened : x.state = .opened) (hwaiting : x.unsent ≠ []) :
    sessionClose w k = sessMod w k (fun x => { x with state := .closing }) := by
  simp [sessionClose, hx, hopened, hwaiting]

end sessionClose

/-! ### WINDOW_SET (R435, R438) -/

/-- A window as WINDOW_SET enters it, with what it was before the cycle. -/
def windowEntered (w : State) (p n : Nat) (x : InWin) : State := { w with link := { w.link with
  windows := tset w.link.windows (p, n) x
  windowsBefore := tset w.link.windowsBefore (p, n) (w.now, winOf w p n) } }

/-- WINDOW_SET once the window is entered: it waits while the port has requests, and then completes. -/
def windowAwaits (u : State) (c : RunCmd) : State :=
  if portRequests u (arg c 0) then runningSet u c (fun r => { r with acc := [1] }) else complete u c rcDone []

theorem windowAwaits_free (h : portRequests w (arg c 0) = false) : windowAwaits w c = complete w c rcDone [] :=
  if_neg (Bool.eq_false_iff.mp h)

theorem windowAwaits_busy (h : portRequests w (arg c 0) = true) : windowAwaits w c = runningSet w c (fun r => { r with acc := [1] }) :=
  if_pos h

theorem windowSetBody_waiting (hacc : c.acc ≠ []) :
    windowSetBody w c = if portRequests w (arg c 0) then w else complete w c rcDone [] :=
  if_pos (by simpa using hacc)

section entering

variable (hacc : c.acc = [])
include hacc

theorem windowSetBody_badField (hon : arg c 2 = 1) (hbad : windowFieldsOk w c = false) :
    windowSetBody w c = failAddrs w c (if arg c 3 = 0 then [arg c 5] else []) rcBadField := by
  simp [windowSetBody, hacc, hon, hbad]

theorem windowSetBody_on {x : InWin} (hon : arg c 2 = 1) (hok : windowFieldsOk w c = true) (htenant : tenantOf w c.mid ≠ none)
    (howner : (tgetD w.link.windows (arg c 0, arg c 1) {}).enable = true →
      some (tgetD w.link.windows (arg c 0, arg c 1) {}).tenant = tenantOf w c.mid)
    (hx : x = { enable := true, queue := arg c 3 == 1, rights := BitVec.ofNat 2 (arg c 4), base := arg c 5, size := arg c 6
                sessions := BitVec.ofNat 64 (arg c 7), tenant := cmdTenant w c }) :
    windowSetBody w c = windowAwaits (windowEntered w (arg c 0) (arg c 1) x) c := by
  have hmine : ¬((tgetD w.link.windows (arg c 0, arg c 1) {}).enable = true ∧
      some (tgetD w.link.windows (arg c 0, arg c 1) {}).tenant ≠ tenantOf w c.mid ∧ ¬False) :=
    fun ⟨hold, hother, _⟩ => hother (howner hold)
  have hon' : (arg c 2 == 1) = true := beq_iff_eq.mpr hon
  subst hx
  simp only [windowSetBody, hacc, hon', hok, htenant, if_neg hmine, List.isEmpty_nil, Bool.not_true,
    Bool.false_eq_true, and_false, false_and, if_true, if_false]
  rfl

theorem windowSetBody_off {old : InWin} (hoff : arg c 2 ≠ 1) (hold : old = tgetD w.link.windows (arg c 0, arg c 1) {})
    (howner : c.mid = 1 ∨ old.enable = false ∨ some old.tenant = tenantOf w c.mid) :
    windowSetBody w c = windowAwaits (windowEntered w (arg c 0) (arg c 1) { old with enable := false }) c := by
  subst hold
  have hmine : ¬((tgetD w.link.windows (arg c 0, arg c 1) {}).enable = true ∧
      some (tgetD w.link.windows (arg c 0, arg c 1) {}).tenant ≠ tenantOf w c.mid ∧ ¬(c.mid = 1 ∧ (!false) = true)) := by
    rintro ⟨hon, hother, hmid⟩
    rcases howner with hfm | hdisabled | htenant
    · exact hmid ⟨hfm, rfl⟩
    · exact Bool.eq_false_iff.mp hdisabled hon
    · exact hother htenant
  have hno : (arg c 2 == 1) = false := beq_eq_false_iff_ne.mpr hoff
  simp only [windowSetBody, hacc, hno, if_neg hmine, List.isEmpty_nil, Bool.not_true, Bool.false_eq_true, and_false, false_and, if_false]
  rfl

end entering

end linkBodies

/-- Settles O50: each clause is the rule above for the branch that its hypotheses name. -/
theorem linkCommands : Obligations.LinkCommands := by
  refine ⟨?status, ?port, ?board, ?anchorGone, ?anchorNew, ?bind, ?close, ?windowOn, ?windowOff, ?windowWaits, ?route, ?reset⟩
  case status =>
    intro s w src c q h hw hq
    subst hw hq
    exact exec_linkStatus h
  case port =>
    intro s w u src c h hw hport hu
    rw [exec_linkConfig h, ← hw, linkConfigBody_port hport hu]
    exact ⟨fun hno => by rw [hno]; rfl, fun hboard => by rw [hboard]; rfl⟩
  case board =>
    intro s w src c h hw hall hboard
    rw [exec_linkConfig h, ← hw, linkConfigBody_board hall hboard]
  case anchorGone =>
    intro s w src c buf h hw hremove
    rw [exec_linkAnchor buf h, ← hw, linkAnchorBody_remove buf hremove]
    refine ⟨fun hnone => by rw [hnone]; rfl, fun u hin hu => ?_⟩
    rw [if_pos hin, hu]
    rfl
  case anchorNew =>
    intro s w src c d b h hadd hlen hbuf hw hb
    rw [exec_linkAnchor _ h, linkAnchorBody_add hadd hlen hbuf hw, ← hb]
    exact ⟨fun hin => congrArg _ (if_pos hin), fun hfree => congrArg _ (if_neg (Bool.eq_false_iff.mp hfree))⟩
  case bind =>
    intro s w src c b h hw hb
    rw [exec_sessionBind h, ← hw]
    refine ⟨fun hadd hin => ?_, fun hadd hnew hfull => ?_, fun hadd hnew hroom => ?_, fun hremove hnone => ?_, fun hremove hin => ?_⟩
    · rw [sessionBindBody_add hb hadd, if_pos hin]
    · rw [sessionBindBody_add hb hadd, if_neg (Bool.eq_false_iff.mp hnew), if_pos hfull]
    · rw [sessionBindBody_add hb hadd, if_neg (Bool.eq_false_iff.mp hnew), if_neg (Nat.not_le.mpr hroom)]
    · rw [sessionBindBody_remove hb hremove, if_neg (Bool.eq_false_iff.mp hnone)]
    · rw [sessionBindBody_remove hb hremove, if_pos hin]
  case close =>
    intro s w src c k x h hw hk hx
    rw [exec_sessionClose h, ← hw, sessionCloseBody_eq hx hk]
    refine ⟨fun hnot => congrArg _ (if_neg hnot), fun hmay hopened hacked hsent => ?_, fun hmay hopened hwaiting => ?_⟩
    · rw [if_pos hmay, sessionClose_settled hx hopened hacked hsent]
    · rw [if_pos hmay, sessionClose_unsent hx hopened hwaiting]
  case windowOn =>
    intro s w u src c h hw hon hacc
    rw [exec_windowSet h, ← hw]
    refine ⟨fun hbad => congrArg _ (windowSetBody_badField hacc hon hbad), fun hok htenant howner x hx hu => ?_⟩
    obtain rfl : u = windowEntered w (arg c 0) (arg c 1) x := hu
    rw [windowSetBody_on hacc hon hok htenant howner hx]
    exact ⟨fun hfree => congrArg _ (windowAwaits_free hfree), fun hbusy => congrArg _ (windowAwaits_busy hbusy)⟩
  case windowOff =>
    intro s w u src c old h hw hoff hacc hold howner hu
    obtain rfl : u = windowEntered w (arg c 0) (arg c 1) { old with enable := false } := hu
    rw [exec_windowSet h, ← hw, windowSetBody_off hacc hoff hold howner]
    exact ⟨fun hfree => congrArg _ (windowAwaits_free hfree), fun hbusy => congrArg _ (windowAwaits_busy hbusy)⟩
  case windowWaits =>
    intro s w src c h hw hacc
    rw [exec_windowSet h, ← hw, windowSetBody_waiting hacc]
    exact ⟨fun hfree => congrArg _ (if_neg (Bool.eq_false_iff.mp hfree)), fun hbusy => congrArg _ (if_pos hbusy)⟩
  case route =>
    intro s w u src c h hw hu
    rw [exec_routeSet h, ← hw, hu]
    rfl
  case reset =>
    intro s w src c h hw
    rw [exec_portReset h, ← hw]
    rfl

end Sys2Proof.Machine
end

section
/-! SUPPORT. How a peer port starts, trains and authenticates its partner, one rule for each branch, and the statement on it (R397,
R403, R405, R406, R420, R421, R456). -/

namespace Sys2Proof.Machine

/-! ### Start-up, training and its time limits (R397, R405, R406) -/

section training

variable {s : State} {p : Nat}

theorem exec_portEnable (hp : p < 8) (hstage : s.boot.stage = .served) (hkind : (portOf s p).kind ≠ .off)
    (hdown : (portOf s p).state = .down) (hstep : (portOf s p).step = 0) (hretry : (portOf s p).retryAt = none) :
    exec (.portEnable p) s = .next (portStart (portMod s p (fun q => { q with downSince := s.now })) p) :=
  if_pos ⟨hp, hstage, hkind, hdown, hstep, hretry⟩

theorem exec_portRetryTimer {t : Nat} (hretry : (portOf s p).retryAt = some t) :
    exec (.portRetryTimer p) s = if t ≤ s.now then .next (portStart s p) else .next s := by
  show execPortRetryTimer p s = _
  simp only [execPortRetryTimer, hretry]

section equalisation

variable {lanes : LaneMask} (hstate : (portOf s p).state = .training) (hstep : (portOf s p).step ≤ 2)
include hstate hstep

theorem exec_equalisationDone_trained {l : BitVec 8} (hl : lanesUsed lanes = some l) : exec (.equalisationDone p lanes) s =
    .next (portMod s p (fun q => { q with lanes := l, step := 3, stepSince := s.now })) := by
  show execEqualisationDone p lanes s = _
  simp only [execEqualisationDone, hstate, hstep, hl, and_self, if_true]

theorem exec_equalisationDone_lanesLost (hl : lanesUsed lanes = none) :
    exec (.equalisationDone p lanes) s = .next (portDown s p .down (some (s.now + secT 1))) := by
  show execEqualisationDone p lanes s = _
  simp only [execEqualisationDone, hstate, hstep, hl, and_self, if_true]

end equalisation

/-- Flit lock sends the flits that were kept, as if never sent again, and then HELLO. -/
theorem exec_flitLock {u : State} (hstate : (portOf s p).state = .training) (hstep : (portOf s p).step = 3)
    (hu : u = flowMod (portMod s p (fun q => { q with step := 4, stepSince := s.now })) p (fun f => { f with
      replay := f.replay.map (fun x => { x with resends := 0 }) })) : exec (.flitLock p) s =
    .next (portSettle (lctlSend (replayFrom u p (firstKept (portOf s p))) p 1 (helloBody u p)) p) := by
  subst hu
  exact if_pos ⟨hstate, hstep⟩

theorem exec_trainingTimeout {t : Nat} (hstate : (portOf s p).state = .training ∨ (portOf s p).state = .authenticating)
    (hlimit : stepLimit (portOf s p).step = some t) (hlate : (portOf s p).stepSince + t ≤ s.now) : exec (.trainingTimeout p) s =
      if (portOf s p).step = 5 then .next (portUntrusted s p)
      else if (portOf s p).step = 4 then .next (portDown (linkLog s p 1 0) p .down (some (s.now + secT 10)))
      else .next (portDown (linkLog s p 1 0) p .down (some (s.now + secT 1))) := by
  have hstep : (portOf s p).state = .training ∨ (portOf s p).state = .authenticating ∨ (portOf s p).state = .inService :=
    hstate.imp_right .inl
  show execTrainingTimeout p s = _
  simp only [execTrainingTimeout, hlimit, hstep, hlate, and_self, if_true]

end training

/-! ### HELLO (R403, R405, R406) -/

section hello

variable {s t : State} {p : Nat} {f : Flit} {b : Bytes} (hhead : inboxHead s p (isLctl 1) = some f) (ht : t = inboxPop s p)
  (hstate : (portOf s p).state = .training) (hstep : (portOf s p).step = 4) (hb : b = ctlOne f)
include hhead ht hstate hstep hb

section fair

variable {v : State} (hcheck : helloCheck t p b = (true, true)) (hv : v = portMod t p (fun q => { q with partner := leAt b 2 2 }))
include hcheck hv

/-- A HELLO that follows the wiring and the kind, at a port without a link key, begins authentication. -/
theorem exec_hello_new {u : State} (hkey : (portOf s p).key = none)
    (hu : u = portMod v p (fun q => { q with state := .authenticating, step := 5, stepSince := v.now })) :
    exec (.hello p) s = .next (if nodeId u < leAt b 2 2 then authStart u p else u) := by
  subst ht hb hv hu
  show execHello p s = _
  simp only [execHello, hhead, hstate, hstep, hcheck, hkey, ne_eq, not_true_eq_false, or_self, Bool.and_self,
    Option.isSome_none, Bool.false_eq_true, if_true, if_false]

/-- With a link key from before the link was lost, no authentication is needed. -/
theorem exec_hello_keyed {k : Bytes × Bytes} (hkey : (portOf s p).key = some k) : exec (.hello p) s = .next (awaitTime v p) := by
  subst ht hb hv
  show execHello p s = _
  simp only [execHello, hhead, hstate, hstep, hcheck, hkey, ne_eq, not_true_eq_false, or_self, Bool.and_self,
    Option.isSome_some, if_true, if_false]

end fair

theorem exec_hello_miswired {k : Bool} (hcheck : helloCheck t p b = (false, k)) : exec (.hello p) s =
    .next (portDown (linkLog (portMod t p (fun q => { q with mismatch := stickySet t.now })) p 1 0) p .down
      (some (t.now + secT 10))) := by
  subst ht hb
  show execHello p s = _
  simp only [execHello, hhead, hstate, hstep, hcheck, ne_eq, not_true_eq_false, or_self, Bool.false_and, Bool.false_eq_true, if_false]
  rfl

theorem exec_hello_wrongKind (hcheck : helloCheck t p b = (true, false)) :
    exec (.hello p) s = .next (portDown (linkLog t p 1 0) p .down (some (t.now + secT 10))) := by
  subst ht hb
  show execHello p s = _
  simp only [execHello, hhead, hstate, hstep, hcheck, ne_eq, not_true_eq_false, or_self, Bool.and_false, Bool.false_eq_true,
    if_true, if_false]

end hello

/-! ### Certificates, key exchange and confirmation (R420, R421, R456) -/

/-- A port in step 5 authenticates, while the module's root key is sound and its debug port locked. -/
theorem inAuth_of {t : State} {q : Port} (hstate : q.state = .authenticating) (hstep : q.step = 5) (hroot : t.sec.krOk = true)
    (hlocked : t.sec.debugUnlocked = false) : inAuth t q = true := by
  simp [inAuth, hstate, hstep, hroot, hlocked]

section authentication

variable {s t : State} {p : Nat} {f : Flit} {q : Port} (ht : t = inboxPop s p) (hq : q = portOf t p) (hauth : inAuth t q = true)
include ht hq hauth

/-- A certificate in one part: the whole one, trusted, is answered by this module's own or by its point. -/
theorem exec_authCert {u : State} {total : Nat} {b : Bytes} (hhead : inboxHead s p (isLctl 2) = some f)
    (hstate : q.state = .authenticating) (hbody : ctlBody f = (0, total, b))
    (hu : u = portMod t p (fun _ => { q with certIn := b, stepSince := t.now })) : exec (.authCert p) s =
      if b.length < total then .next u
      else if Config.chainTrusted (anchorList u) b (kindNum q.kind) then
        if q.partner < nodeId u then .next (lctlSend u p 2 (certChain u))
        else .next (lctlSend (portMod (drawEph u).1 p (fun q => { q with eph := (drawEph u).2 })) p 3
          (vbytes (Config.ecPoint (drawEph u).2)))
      else .next (portUntrusted u p) := by
  subst ht hq hu
  show execAuthCert p s = _
  simp only [execAuthCert, hhead, hbody, hstate, hauth, reduceCtorEq, false_and, Bool.not_true, Bool.false_eq_true, if_true, if_false,
    List.nil_append]
  cases Config.chainTrusted _ _ _ <;> rfl

theorem exec_keyxA {v : State} {e : Bytes} {x : Port} (hhead : inboxHead s p (isLctl 3) = some f) (hcert : q.certIn ≠ [])
    (hnode : q.partner ≤ nodeId t) (hdraw : drawEph t = (v, e)) (hx : x = { q with pointIn := slice (ctlOne f) 0 64, eph := e }) :
    exec (.keyxA p) s = .next (lctlSend (portMod v p (fun _ => x)) p 4
      (vbytes (Config.ecPoint e) ++ vbytes (Config.confirmMake (ownSeed (portMod v p (fun _ => x))) (peerOf x) e false))) := by
  subst ht hq hx
  show execKeyxA p s = _
  simp [execKeyxA, hhead, hauth, hcert, Nat.not_lt.mpr hnode, hdraw]

/-- KEYX_B is checked with its point; where the confirmation holds, the port has its key and says CONF_A. -/
theorem exec_keyxB {u : State} {x : Port} (hhead : inboxHead s p (isLctl 4) = some f) (heph : q.eph ≠ [])
    (hnode : nodeId t ≤ q.partner) (hx : x = { q with pointIn := slice (ctlOne f) 0 64 }) (hu : u = portMod t p (fun _ => x)) :
    exec (.keyxB p) s = .next (if Config.confirmOk (ownSeed u) (peerOf x) x.eph (slice (ctlOne f) 64 32) then
      portKeyed (lctlSend u p 5 (vbytes (Config.confirmMake (ownSeed u) (peerOf x) x.eph true))) p else portUntrusted u p) := by
  subst ht hq hx hu
  show execKeyxB p s = _
  simp [execKeyxB, hhead, hauth, heph, Nat.not_lt.mpr hnode, apply_ite Host.Outcome.next]

theorem exec_confA (hhead : inboxHead s p (isLctl 5) = some f) (hpoint : q.pointIn ≠ []) (hnode : q.partner ≤ nodeId t) :
    exec (.confA p) s = .next (if Config.confirmOk (ownSeed t) (peerOf q) q.eph (slice (ctlOne f) 0 32) then
      lctlSend (portKeyed t p) p 6 [] else portUntrusted t p) := by
  subst ht hq
  show execConfA p s = _
  simp [execConfA, hhead, hauth, hpoint, Nat.not_lt.mpr hnode, apply_ite Host.Outcome.next]

theorem exec_authDone {k : Bytes × Bytes} (hhead : inboxHead s p (isLctl 6) = some f) (hkey : q.key = some k) :
    exec (.authDone p) s = .next (awaitTime (if nodeId t < q.partner then lctlSend t p 6 [] else t) p) := by
  subst ht hq
  show execAuthDone p s = _
  simp only [execAuthDone, hhead, hauth, hkey, Option.isNone_some, Bool.not_true, Bool.or_self, Bool.false_eq_true, if_false]

end authentication

/-- Settles O51: each clause is the rule above for the branch that its hypotheses name. -/
theorem portEntry : Obligations.PortEntry := by
  refine ⟨?training, ?hello, ?auth⟩
  case training =>
    rintro s p _ rfl
    refine ⟨exec_portEnable, fun lanes hstate hstep => ⟨fun l hl => exec_equalisationDone_trained hstate hstep hl,
      exec_equalisationDone_lanesLost hstate hstep⟩, fun t hretry => ⟨fun hdue => ?_, fun hearly => ?_⟩,
      fun u hstate hstep hu => exec_flitLock hstate hstep hu, fun hstate t hlimit hlate => ?_⟩
    · exact (exec_portRetryTimer hretry).trans (if_pos hdue)
    · exact (exec_portRetryTimer hretry).trans (if_neg (Nat.not_le.mpr hearly))
    · rw [exec_trainingTimeout hstate hlimit hlate]
      refine ⟨fun hfive => if_pos hfive, fun hfour => ?_, fun hbefore => ?_⟩
      · rw [if_neg (by omega), if_pos hfour]
      · rw [if_neg (by omega), if_neg (by omega)]
  case hello =>
    intro s t p f b hhead ht hstate hstep hb
    refine ⟨fun v u hcheck hkey hv hu => ?_, fun k hcheck hkey => exec_hello_keyed hhead ht hstate hstep hb hcheck rfl hkey,
      fun k hcheck => exec_hello_miswired hhead ht hstate hstep hb hcheck, exec_hello_wrongKind hhead ht hstate hstep hb⟩
    rw [exec_hello_new hhead ht hstate hstep hb hcheck hv hkey hu]
    exact ⟨fun hlower => congrArg _ (if_pos hlower), fun hupper => congrArg _ (if_neg (Nat.not_lt.mpr hupper))⟩
  case auth =>
    intro s t u p f q ht hq hstate hstep hroot hlocked
    have hauth : inAuth t q = true := inAuth_of hstate hstep hroot hlocked
    refine ⟨fun total b cert hhead hbody hcert hu => ?_,
      fun e x v hhead hcert hnode hdraw hx => exec_keyxA ht hq hauth hhead hcert hnode hdraw hx,
      fun x hhead heph hnode hx hu => exec_keyxB ht hq hauth hhead heph hnode hx hu, exec_confA ht hq hauth,
      fun k hhead hkey => ?_⟩
    · subst hcert
      rw [exec_authCert ht hq hauth hhead hstate hbody hu]
      refine ⟨fun hpart => if_pos hpart, fun hwhole hupper => ?_, fun hwhole hlower => ?_⟩
      · rw [if_neg (Nat.not_lt.mpr hwhole), if_pos hupper, ← apply_ite Host.Outcome.next]
      · rw [if_neg (Nat.not_lt.mpr hwhole), if_neg (Nat.not_lt.mpr hlower), ← apply_ite Host.Outcome.next]
    · rw [exec_authDone ht hq hauth hhead hkey]
      exact ⟨fun hlower => by rw [if_pos hlower], fun hupper => by rw [if_neg (Nat.not_lt.mpr hupper)]⟩

end Sys2Proof.Machine
end

section
/-! SUPPORT. How a peer port takes and discards flits, sends kept ones again, and leaves and returns to service, one rule for each
branch, and the statement on it (R404, R406, R412, R416 to R418, R441, R456, R652). -/

namespace Sys2Proof.Machine

/-! ### Flits that arrive (R412, R416, R417) -/

section receive

variable {s : State} {p : Nat} {raw : Bytes} {bad : Bool}

theorem exec_flitReceive_down (hdown : portUp (portOf s p) = false) : exec (.flitReceive p raw bad) s = .next s := by
  show execFlitReceive p raw bad s = _
  simp only [execFlitReceive, hdown, Bool.not_false, Bool.false_eq_true, and_false, if_true, if_false]

variable (hup : portUp (portOf s p) = true)
include hup

/-- A flit that fails a check is discarded; one with symbols beyond correction is counted first. -/
theorem exec_flitReceive_discarded {t : State}
    (ht : t = if bad then countPort s p (fun c => { c with uncorr := sat32 (c.uncorr + 1) }) else s)
    (hfails : bad = true ∨ raw.length ≠ 256 ∨ leAt raw 0xFC 4 ≠ (crc32c (slice raw 0 252)).toNat
      ∨ leAt raw 0xF8 4 % 4096 ≠ (portOf s p).flow.rxLseq) : exec (.flitReceive p raw bad) s = .next (flitDiscard t p) := by
  subst ht
  show execFlitReceive p raw bad s = _
  simp only [execFlitReceive, hup, Bool.not_true, Bool.false_eq_true, and_true, if_false]
  exact if_pos hfails

theorem exec_flitReceive_accepted {u : State} (hgood : bad = false) (hlen : raw.length = 256)
    (hcrc : leAt raw 0xFC 4 = (crc32c (slice raw 0 252)).toNat) (hseq : leAt raw 0xF8 4 % 4096 = (portOf s p).flow.rxLseq)
    (hfree : ctlWaits s p = false) (hu : u = flowMod s p (fun f => { f with
      nakSent := false, rxLseq := if byteAt raw 0 &&& 0x0F == 0 then f.rxLseq else (f.rxLseq + 1) % 4096 })) :
    exec (.flitReceive p raw bad) s = .next (flitTake (flitAck (symbolsCorrected u p) p (leAt raw 0xF8 4)) p raw) := by
  subst hgood hu
  show execFlitReceive p raw false s = _
  simp only [execFlitReceive, hup, hlen, hcrc, hseq, hfree, Bool.not_true, Bool.false_eq_true, false_and, ne_eq, not_true_eq_false,
    or_self, if_false]

end receive

/-! ### Replay (R416 to R418) -/

theorem exec_linkNak {s t : State} {p n : Nat} {f : Flit} {x : Sent} (hhead : inboxHead s p (isLctl 7) = some f)
    (ht : t = inboxPop s p) (hn : n = leAt (ctlOne f) 0 2 % 4096)
    (hx : (portOf t p).flow.replay.find? (fun x => x.lseq == n) = some x) :
    exec (.linkNak p) s = .next (if 8 ≤ x.resends then portRetrain t p else replayFrom t p n) := by
  subst ht hn
  show execLinkNak p s = _
  simp only [execLinkNak, hhead, hx]

section service

variable {s : State} {p : Nat}

theorem exec_replayTimeout (hup : portUp (portOf s p) = true) (hkept : (portOf s p).flow.replay ≠ [])
    (hlate : (portOf s p).flow.lackAt + usT 2 ≤ s.now) :
    exec (.replayTimeout p) s = .next (replayFrom s p (firstKept (portOf s p))) :=
  if_pos ⟨hup, by simpa using hkept, hlate⟩

/-- A flit sent again eight times without success retrains the port. -/
theorem exec_portRetrain (hin : (portOf s p).state = .inService)
    (hout : (portOf s p).flow.replay.any (fun x => decide (8 ≤ x.resends)) = true) :
    exec (.portRetrain p) s = .next (portRetrain s p) :=
  if_pos ⟨hin, hout⟩

/-! ### Out of service and back (R404, R406, R441, R652) -/

theorem exec_portLeaveService (hin : (portOf s p).state = .inService) :
    exec (.portLeaveService p) s = .next (portDown s p .down (some (s.now + secT 1))) :=
  if_pos (by simp [inService, hin])

theorem exec_pathReturnTimer {t : Nat} (hsince : (portOf s p).inServiceSince = some t) (hout : (portOf s p).returned = false)
    (hdue : t + secT 1 ≤ s.now) :
    exec (.pathReturnTimer p) s = .next (repath s (portMod s p (fun q => { q with returned := true }))) := by
  show execPathReturnTimer p s = _
  simp only [execPathReturnTimer, hsince, hout, hdue, Bool.not_false, and_self, if_true]

theorem exec_portFailureTimeout (hkind : (portOf s p).kind ≠ .off) (hdown : (portOf s p).state = .down)
    (hnew : (portOf s p).failed = false) (hstage : s.boot.stage = .served) (hlate : (portOf s p).downSince + secT 60 ≤ s.now) :
    exec (.portFailureTimeout p) s = .next (portMod s p (fun q => { q with failed := true })) :=
  if_pos ⟨hkind, by simp [hdown], by simp [hdown], by simp [hnew], hstage, hlate⟩

/-! ### Withheld credit (R412, R456) -/

theorem exec_creditWithheldTimeout {ch t : Nat} (hsince : tget (portOf s p).flow.withheldSince ch = some t)
    (hin : (portOf s p).state = .inService) (hempty : (portOf s p).flow.credits.getD ch 0 = 0) :
    exec (.creditWithheldTimeout p ch) s =
      if t + msT 100 ≤ s.now then .next (portHold s p 6)
      else if t + msT 1 ≤ s.now ∧ (!(portOf s p).flow.withheldLogged.contains ch) = true then
        .next (flowMod (linkLog s p 5 0) p (fun f => { f with withheldLogged := f.withheldLogged ++ [ch] }))
      else .next s := by
  show execCreditWithheldTimeout p ch s = _
  simp only [execCreditWithheldTimeout, hsince, hin, hempty, ne_eq, not_true_eq_false, or_self, if_false]

end service

/-- Settles O52: each clause is the rule above for the branch that its hypotheses name. -/
theorem portService : Obligations.PortService := by
  refine ⟨?receive, fun s p raw bad hdown => exec_flitReceive_down hdown, ?nak, ?service⟩
  case receive =>
    intro s t p raw bad hup ht
    exact ⟨exec_flitReceive_discarded hup ht, fun u hgood hlen hcrc hseq hfree hu =>
      exec_flitReceive_accepted hup hgood hlen hcrc hseq hfree hu⟩
  case nak =>
    intro s t p f n x hhead ht hn hx
    rw [exec_linkNak hhead ht hn hx]
    exact ⟨fun hfew => congrArg _ (if_neg (Nat.not_le.mpr hfew)), fun hmany => congrArg _ (if_pos hmany)⟩
  case service =>
    rintro s p _ rfl
    refine ⟨exec_replayTimeout, exec_portRetrain, exec_portLeaveService,
      fun t hsince hout hdue => ⟨_, rfl, exec_pathReturnTimer hsince hout hdue⟩, exec_portFailureTimeout,
      fun ch t hsince hin hempty => ?_⟩
    rw [exec_creditWithheldTimeout hsince hin hempty]
    refine ⟨fun hlong => if_pos hlong, fun hshort hms hnew => ?_, fun hearly => ?_⟩
    · rw [if_neg (Nat.not_le.mpr hshort), if_pos ⟨hms, by rw [hnew, Bool.not_false]⟩]
    · have hms : msT 1 ≤ msT 100 := by decide
      rw [if_neg (by omega), if_neg fun h => Nat.not_le.mpr hearly h.1]

end Sys2Proof.Machine
end

section
/-! SUPPORT. How a board's time is kept by its master and followed by the others, and how a peer port enters and leaves low power, one
rule for each branch, and the statement on it (R444 to R448, R453 to R455, R722, R727). -/

namespace Sys2Proof.Machine

@[simp] theorem syncMod_sync (s : State) (f : SyncState → SyncState) : (syncMod s f).link.sync = f s.link.sync := rfl

/-! ### Pulses and the offset that is followed (R444 to R446) -/

section pulses

variable {s : State}

theorem exec_syncPulse (hmaster : s.link.sync.master = true) (hpwr : s.pins.pwrOk = true) (hperst : s.pins.perstN = true) :
    exec .syncPulse s = if s.link.sync.lastPulse.getD 0 < s.now / syncPeriod then
        .next { syncMod s (fun y => { y with lastPulse := some (s.now / syncPeriod) }) with
          pins := { s.pins with syncOutLowUntil := some (s.now + nsT 20) } }
      else .next s := by
  show execSyncPulse s = _
  simp only [execSyncPulse, hmaster, hpwr, hperst, true_and]

theorem exec_syncInEdge {t d : Int} (hperst : s.pins.perstN = true) (hon : s.power.state ≠ .auxOnly)
    (hslave : s.link.sync.master = false) (ht : t = (s.now : Int) - s.link.sync.skew.getD s.ident.slot.toNat 0)
    (hd : d = nearestPulse (t + masterTheta s) - t) : exec .syncInEdge s =
      .next (follow (syncMod s (fun y => { y with heardMasterAt := s.now, pulseAt := some s.now })) d) := by
  subst hd ht
  exact if_pos ⟨hperst, hon, by rw [hslave, Bool.not_false]⟩

section follow

variable {d : Int}

/-- The first offset, where it is forward and no context runs, moves device time by one step. -/
theorem follow_steps {u : State} (hfirst : s.link.sync.stepped = false) (hfree : s.link.sync.locked = false) (hidle : s.eng.ctxs = [])
    (hforward : 0 ≤ d) (hu : u = syncMod s (fun y => { y with stepped := true, phase := 0 })) :
    follow s d = offsetSeen { u with now := ((s.now : Int) + d).toNat } 0 := by
  subst hu
  exact if_pos ⟨by rw [hfirst, Bool.not_false], by rw [hfree, Bool.not_false], by rw [hidle, List.isEmpty_nil], hforward⟩

/-- Every other offset is taken up by slewing. -/
theorem follow_slews (hlater : s.link.sync.stepped = true ∨ s.link.sync.locked = true ∨ d < 0) :
    follow s d = offsetSeen (syncMod s (fun y => { y with stepped := true, phase := d })) d := by
  refine if_neg ?_
  rintro ⟨hstep, hlock, -, hforward⟩
  rcases hlater with h | h | h
  · rw [h] at hstep
    cases hstep
  · rw [h] at hlock
    cases hlock
  · omega

end follow

theorem exec_syncErrTimeout {t : Nat} (haway : s.link.sync.awaySince = some t) (hclear : s.link.sync.syncErr.val = false)
    (hslave : s.link.sync.master = false) : exec .syncErrTimeout s =
      if t + msT 1 ≤ s.now then .next (logNow (syncMod s (fun y => { y with syncErr := stickySet s.now }))
        { kind := 0x0502, severity := 2, detail0 := signedIn 64 (s.link.sync.offset / 16) })
      else .next s := by
  show execSyncErrTimeout s = _
  simp only [execSyncErrTimeout, haway, hclear, hslave, Bool.not_false, and_true]

end pulses

/-! ### The choice of a master (R447, R448) -/

/-- The slots of the board that were heard within the last millisecond. -/
def slotsHeardNow (s : State) : List Nat :=
  (s.link.sync.heardSlots.filter (fun h => decide (s.now ≤ h.2.1 + msT 1))).map (·.1)

theorem mem_slotsHeardNow {s : State} {k : Nat} :
    k ∈ slotsHeardNow s ↔ ∃ h ∈ s.link.sync.heardSlots, s.now ≤ h.2.1 + msT 1 ∧ h.1 = k := by
  simp [slotsHeardNow, and_assoc]

theorem exec_masterElection {s : State} (hstage : s.boot.stage = .served) (hslave : s.link.sync.master = false)
    (hsilent : s.link.sync.heardMasterAt + msT 1 ≤ s.now) (hsome : slotsHeardNow s ≠ [])
    (hlowest : ∀ k ∈ slotsHeardNow s, s.ident.slot.toNat < k) : exec .masterElection s = .next (syncMod s (fun y => { y with
      master := true, masterSince := s.now, phase := 0, awaySince := none, lastPulse := some (s.now / syncPeriod) })) :=
  if_pos ⟨hstage, by rw [hslave, Bool.not_false], hsilent, hsome, List.all_eq_true.mpr fun k hk => decide_eq_true (hlowest k hk)⟩

/-! ### TIME flits (R446 to R448, R454) -/

theorem exec_timeFlitSend {s t : State} {p : Nat} {b : Bytes} (hin : (portOf s p).state = .inService) (hawake : (portOf s p).lp ≠ .ls)
    (hdue : (portOf s p).time.lastSent + usT 10 ≤ s.now)
    (hseal : portSeal s p true (ownFlit 2 3 25 (fit 224 (timePayload s (portOf s p)))) = (t, b)) : exec (.timeFlitSend p) s =
      .next (keyRenew (portEnterIf (portPut (portMod t p (fun q => { q with time := { q.time with lastSent := t.now } })) p (some 3) b)
        p) p) := by
  show execTimeFlitSend p s = _
  simp only [execTimeFlitSend, hin, hawake, hdue, hseal, beq_self_eq_true, Bool.true_or, or_true, ne_eq, not_false_eq_true, and_self,
    if_true]

section masterHeard

variable {s w : State} (hw : w = masterYields s)
include hw

theorem masterHeard_master (known : Bool) (th : Int) (hstill : w.link.sync.master = true) : masterHeard s known th = w := by
  subst hw
  exact if_pos hstill

variable {z : State} (th : Int) (hslave : w.link.sync.master = false) (hz : z = syncMod w (fun y => { y with heardMasterAt := w.now }))
include hslave hz

/-- Where no pulse comes, a master's TIME flit gives the offset. -/
theorem masterHeard_pulseless (habsent : ∀ k, w.link.sync.pulseAt = some k → k + 2 * syncPeriod < w.now) :
    masterHeard s true th = follow z th := by
  subst hw hz
  cases hpulse : (masterYields s).link.sync.pulseAt with
  | none => simp [masterHeard, hslave, hpulse]
  | some k => simp [masterHeard, hslave, hpulse, habsent k hpulse]

theorem masterHeard_pulsed (known : Bool) {k : Nat} (hpulse : w.link.sync.pulseAt = some k) (hrecent : w.now ≤ k + 2 * syncPeriod) :
    masterHeard s known th = z := by
  subst hw hz
  simp [masterHeard, hslave, hpulse, Nat.not_lt.mpr hrecent]

end masterHeard

section timeFlit

variable {s t u : State} {p rx tx : Nat} {f : Flit} {q : Port} (hhead : inboxHead s p (fun f => f.type == 2) = some f)
  (ht : t = inboxPop s p) (htx : tx = leAt f.payload 0 8) (hecho : leAt f.payload 8 8 ≠ 0)
  (hu : u = portMod t p (fun q => { q with time := { q.time with
    echoTx := tx, echoRx := rx, theta := theta (leAt f.payload 8 8) (leAt f.payload 0x10 8) tx rx, heard := true } }))
  (hq : q = portOf u p)
include hhead ht htx hecho hu hq

theorem exec_timeFlitReceive_alone (hkind : q.kind ≠ .mesh) : exec (.timeFlitReceive p rx) s = .next (portEnterIf u p) := by
  have hno : (q.kind == .mesh) = false := beq_eq_false_iff_ne.mpr hkind
  show execTimeFlitReceive p rx s = _
  simp only [execTimeFlitReceive, hhead, ← ht, ← htx, if_neg hecho, ← hu, ← hq, hno, Bool.false_and, Bool.false_eq_true,
    false_and, if_false]

section board

variable {v : State} (hkind : q.kind = .mesh) (hboard : q.partner / 8 = u.ident.board)
  (hv : v = slotHeard u (q.partner % 8) (natBit (leAt f.payload 0x18 1) 0))
include hkind hboard hv

theorem exec_timeFlitReceive_slave (hslave : natBit (leAt f.payload 0x18 1) 0 = false) :
    exec (.timeFlitReceive p rx) s = .next (portEnterIf v p) := by
  subst hv
  show execTimeFlitReceive p rx s = _
  simp only [execTimeFlitReceive, hhead, ← ht, ← htx, if_neg hecho, ← hu, ← hq, hkind, hboard, hslave,
    beq_self_eq_true, Bool.and_self, Bool.false_eq_true, and_false, if_true, if_false]

theorem exec_timeFlitReceive_master (hmaster : natBit (leAt f.payload 0x18 1) 0 = true) : exec (.timeFlitReceive p rx) s =
    .next (portEnterIf (masterHeard v true (theta (leAt f.payload 8 8) (leAt f.payload 0x10 8) tx rx)) p) := by
  subst hv
  show execTimeFlitReceive p rx s = _
  simp only [execTimeFlitReceive, hhead, ← ht, ← htx, hecho, ← hu, ← hq, hkind, hboard, hmaster, ne_eq,
    not_false_eq_true, decide_true, beq_self_eq_true, Bool.and_self, and_self, if_true, if_false]

end board

end timeFlit

/-! ### Low power (R453 to R455, R722, R727) -/

theorem exec_lpIdleTimer {s t : State} {p : Nat} {l : LpState} (hl : l = lpDeepest s p) (hdeeper : lpCode (portOf s p).lp < lpCode l)
    (hfree : (portOf s p).lpAsked = none) (ht : t = lctlSend s p 8 (leBytes 1 (lpCode l))) : exec (.lpIdleTimer p) s =
      .next (portMod t p (fun q => { q with lpAsked := some l, lpIdleSince := (portOf s p).lpIdleSince })) := by
  subst hl ht
  exact if_pos ⟨hdeeper, hfree⟩

section lpReq

variable {s t : State} {p : Nat} {f : Flit} {l : LpState} (hhead : inboxHead s p (isLctl 8) = some f) (ht : t = inboxPop s p)
  (hl : l = codeLp (leAt (ctlOne f) 0 1))
include hhead ht hl

/-- Two requests that cross give the shallower of the two states. -/
theorem exec_lpReq_crossed {mine : LpState} (hasked : (portOf t p).lpAsked = some mine) :
    exec (.lpReq p) s = .next (portMod t p (fun q => { q with lp := lpShallow mine l, lpAsked := none })) := by
  subst ht hl
  show execLpReq p s = _
  simp only [execLpReq, hhead, hasked]

variable (hfree : (portOf t p).lpAsked = none)
include hfree

theorem exec_lpReq_taken (hholds : lpHolds t p l = true) (hlow : l ≠ .l0) : exec (.lpReq p) s =
    .next (portMod (lctlSend t p 9 (leBytes 1 (lpCode l))) p (fun q => { q with
      lp := l, lpAsked := none, lpIdleSince := (portOf t p).lpIdleSince })) := by
  subst ht hl
  show execLpReq p s = _
  simp only [execLpReq, hhead, hfree, hholds, hlow, ne_eq, not_false_eq_true, and_self, if_true]

theorem exec_lpReq_refused (hnot : lpHolds t p l = false) : exec (.lpReq p) s =
    .next (portMod (lctlSend t p 10 []) p (fun q => { q with lpIdleSince := (portOf t p).lpIdleSince })) := by
  subst ht hl
  show execLpReq p s = _
  simp only [execLpReq, hhead, hfree, hnot, Bool.false_eq_true, false_and, if_false]

end lpReq

section lpAnswers

variable {s t : State} {p : Nat} {f : Flit}

theorem exec_lpAck {l : LpState} (ht : t = inboxPop s p) (hhead : inboxHead s p (isLctl 9) = some f)
    (hasked : (portOf t p).lpAsked = some l) :
    exec (.lpAck p) s = .next (portMod t p (fun q => { q with lp := l, lpAsked := none })) := by
  subst ht
  show execLpAck p s = _
  simp only [execLpAck, hhead, hasked]

theorem exec_lpNak (ht : t = inboxPop s p) (hhead : inboxHead s p (isLctl 10) = some f) :
    exec (.lpNak p) s = .next (portMod t p (fun q => { q with lpAsked := none })) := by
  subst ht
  show execLpNak p s = _
  simp only [execLpNak, hhead]

theorem exec_wake_partner (ht : t = inboxPop s p) (hhead : inboxHead s p (isLctl 11) = some f) :
    exec (.wake p) s = .next (portMod t p (fun q => { q with lp := .l0, lpAsked := none })) := by
  subst ht
  show execWake p s = _
  simp only [execWake, hhead]

theorem exec_wake_own (hhead : inboxHead s p (isLctl 11) = none) (hlow : (portOf s p).lp = .ls) :
    exec (.wake p) s = .next (portMod s p (fun q => { q with lp := .l0, lpAsked := none })) := by
  show execWake p s = _
  simp only [execWake, hhead, hlow, if_true]

end lpAnswers

/-- Settles O53: each clause is the rule above for the branch that its hypotheses name. -/
theorem boardTimeAndLowPower : Obligations.BoardTimeAndLowPower := by
  refine ⟨?pulse, fun s t d hperst hon hslave ht hd => exec_syncInEdge hperst hon hslave ht hd, ?follow, ?away, ?election, ?send,
    ?receive, fun s t p l hl hdeeper hfree ht => exec_lpIdleTimer hl hdeeper hfree ht, ?request, ?answers⟩
  case pulse =>
    intro s u hmaster hpwr hperst
    rw [exec_syncPulse hmaster hpwr hperst]
    exact ⟨fun hdue hu => hu ▸ if_pos hdue, fun hdone => if_neg (Nat.not_lt.mpr hdone)⟩
  case follow =>
    intro s u d hu
    exact ⟨fun hfirst hfree hidle hforward => follow_steps hfirst hfree hidle hforward hu, follow_slews⟩
  case away =>
    intro s t haway hclear hslave
    rw [exec_syncErrTimeout haway hclear hslave]
    exact ⟨fun hlong => if_pos hlong, fun hshort => if_neg (Nat.not_le.mpr hshort)⟩
  case election =>
    intro s hstage hslave hsilent hlowest hsome
    obtain ⟨h, hmem, hrecent⟩ := hsome
    refine exec_masterElection hstage hslave hsilent (List.ne_nil_of_mem (mem_slotsHeardNow.mpr ⟨h, hmem, hrecent, rfl⟩))
      fun k hk => ?_
    obtain ⟨h, hmem, hrecent, rfl⟩ := mem_slotsHeardNow.mp hk
    exact hlowest h hmem hrecent
  case send =>
    rintro s t p _ b rfl hin hawake hdue hseal
    exact exec_timeFlitSend hin hawake hdue hseal
  case receive =>
    intro s t u v p rx tx f q hhead ht htx hecho hu hq
    refine ⟨exec_timeFlitReceive_alone hhead ht htx hecho hu hq, fun hkind hboard hv =>
      ⟨exec_timeFlitReceive_slave hhead ht htx hecho hu hq hkind hboard hv, fun w z hmaster hw hz => ?_⟩⟩
    rw [exec_timeFlitReceive_master hhead ht htx hecho hu hq hkind hboard hv hmaster]
    refine ⟨fun hstill => ?_, fun hslave habsent => ?_, fun k hslave hpulse hrecent => ?_⟩
    · rw [masterHeard_master hw _ _ hstill]
    · rw [masterHeard_pulseless hw _ hslave hz habsent]
    · rw [masterHeard_pulsed hw _ hslave hz _ hpulse hrecent]
  case request =>
    intro s t p f l hhead ht hl
    exact ⟨fun mine hasked => exec_lpReq_crossed hhead ht hl hasked,
      fun hfree hholds hlow => exec_lpReq_taken hhead ht hl hfree hholds hlow,
      fun hfree hnot => exec_lpReq_refused hhead ht hl hfree hnot⟩
  case answers =>
    intro s t p f ht
    exact ⟨fun l hhead hasked => exec_lpAck ht hhead hasked, exec_lpNak ht, exec_wake_partner ht, exec_wake_own⟩

end Sys2Proof.Machine
end

section
/-! SUPPORT. How two nodes agree a pair secret and how sessions open or are refused, one rule for each branch, and the statement on it
(R420 to R423, R427 to R430, R510). -/

namespace Sys2Proof.Machine

/-! ### The pair secret (R420 to R423, R427) -/

section pairing

variable {s t u : State} {p : Nat} {f : Flit}

/-- PAIR_CERT: a whole chain that is trusted is answered by this module's own, and by its point where its node ID is the lower. -/
theorem exec_pairCert {v w : State} {part total : Nat} {b cert : Bytes} (hhead : inboxHead s p (isSctl 1) = some f)
    (ht : t = inboxPop s p) (hbody : ctlBody f = (part, total, b))
    (hcert : cert = (if part = 0 then [] else (pairOf t f.src).certIn) ++ b)
    (hu : u = pairMod t f.src (fun x => { x with certIn := cert }))
    (hv : v = if thas t.link.pairStage f.src = true ∧ (pairOf u f.src).step ≠ 0 then u
      else pairPart (pairMod u f.src (fun x => { x with step := 1 })) f.src 1 (certChain u)) (hw : w = drew 32 v) :
    exec (.pairCert p) s =
      if cert.length < total then .next u
      else .next (if Config.chainTrusted (anchorList u) cert (nodeKind u p f.src) then
          if nodeId v < f.src then
            pairPart (pairMod w f.src (fun x => { x with eph := trngBytes v.free 32, step := 2 })) f.src 2
              (vbytes (Config.ecPoint (trngBytes v.free 32)))
          else v
        else pairFail u f.src) := by
  subst ht hw
  show execPairCert p s = _
  simp only [execPairCert, hhead, hbody, ← hcert, ← hu, ← hv, drawEph, apply_ite Host.Outcome.next]
  cases Config.chainTrusted (anchorList u) cert (nodeKind u p f.src) <;> rfl

/-- PAIR_XA at the higher node is answered by its own point and S_B. -/
theorem exec_pairXA {x y : PairExch} {e : Bytes} (hhead : inboxHead s p (isSctl 2) = some f) (ht : t = inboxPop s p)
    (hx : x = pairOf t f.src) (hcert : x.certIn ≠ []) (hnode : f.src ≤ nodeId t) (hu : u = drew 32 t) (he : e = trngBytes t.free 32)
    (hy : y = { x with pointIn := slice (ctlOne f) 0 64, eph := e, step := 3 }) :
    exec (.pairXA p) s = .next (pairPart (pairMod u f.src (fun _ => y)) f.src 3
      (vbytes (Config.ecPoint e) ++ vbytes (Config.confirmMake (ownSeed u) (x.certIn ++ slice (ctlOne f) 0 64) e false))) := by
  subst ht hx hu he hy
  have hno : ¬((pairOf (inboxPop s p) f.src).certIn.isEmpty = true ∨ nodeId (inboxPop s p) < f.src) :=
    not_or_intro (by simpa using hcert) (Nat.not_lt.mpr hnode)
  show execPairXA p s = _
  simp only [execPairXA, hhead, if_neg hno, drawEph, pairPeer]

section check

variable {x : PairExch} (ht : t = inboxPop s p) (hx : x = pairOf t f.src)
include ht hx

/-- PAIR_XB at the lower node: where S_B holds, it answers S_A and the secret is there. -/
theorem exec_pairXB {peer : Bytes} (hhead : inboxHead s p (isSctl 3) = some f) (heph : x.eph ≠ []) (hnode : nodeId t ≤ f.src)
    (hpeer : peer = x.certIn ++ slice (ctlOne f) 0 64)
    (hu : u = pairMod t f.src (fun _ => { x with pointIn := slice (ctlOne f) 0 64 })) : exec (.pairXB p) s = .next (
      if Config.confirmOk (ownSeed u) peer x.eph (slice (ctlOne f) 64 32) then
        pairDone (pairPart u f.src 4 (vbytes (Config.confirmMake (ownSeed u) peer x.eph true))) f.src
      else pairFail u f.src) := by
  subst ht hx hpeer hu
  have hno : ¬((pairOf (inboxPop s p) f.src).eph.isEmpty = true ∨ f.src < nodeId (inboxPop s p)) :=
    not_or_intro (by simpa using heph) (Nat.not_lt.mpr hnode)
  show execPairXB p s = _
  simp only [execPairXB, hhead, if_neg hno, pairPeer, apply_ite Host.Outcome.next]
  rfl

theorem exec_pairConf (hhead : inboxHead s p (isSctl 4) = some f) (hpoint : x.pointIn ≠ []) (hnode : f.src ≤ nodeId t) :
    exec (.pairConf p) s = .next (
      if Config.confirmOk (ownSeed t) (x.certIn ++ x.pointIn) x.eph (slice (ctlOne f) 0 32) then pairDone t f.src
      else pairFail t f.src) := by
  subst ht hx
  have hno : ¬((pairOf (inboxPop s p) f.src).pointIn.isEmpty = true ∨ nodeId (inboxPop s p) < f.src) :=
    not_or_intro (by simpa using hpoint) (Nat.not_lt.mpr hnode)
  show execPairConf p s = _
  simp only [execPairConf, hhead, if_neg hno, pairPeer, apply_ite Host.Outcome.next]
  rfl

end check

end pairing

/-! ### What an OPEN is held to (R428, R429, R510) -/

/-- What leastFrom finds has the property and lies in the range searched. -/
theorem leastFrom_some {ok : Nat → Bool} {n lo m : Nat} (h : leastFrom ok n lo = some m) : ok m = true ∧ lo ≤ m ∧ m < lo + n := by
  induction n generalizing lo with
  | zero => cases h
  | succ n ih =>
    by_cases hlo : ok lo = true
    · obtain rfl : lo = m := Option.some.inj ((if_pos hlo).symm.trans h)
      exact ⟨hlo, Nat.le_refl lo, by omega⟩
    · obtain ⟨hok, hle, hlt⟩ := ih ((if_neg hlo).symm.trans h)
      exact ⟨hok, by omega, by omega⟩

/-- A free master ID of a port is one of the port's 64, and in no use. -/
theorem freeMid_some {s : State} {home m : Nat} (h : freeMid s home = some m) :
    0x80 + 64 * home ≤ m ∧ m < 0x80 + 64 * home + 64 ∧ thas s.link.mids m = false := by
  obtain ⟨hfree, hlo, hhi⟩ := leastFrom_some h
  exact ⟨hlo, hhi, by simpa using hfree⟩

section openCheck

variable {s : State} {p node sid mid : Nat}

theorem openCheck_unbound (hnone : s.link.bindings.any (fun b => b.node == node && b.mid == mid) = false) :
    openCheck s p node sid mid .bound = (rcNotBound, none) := by
  have hfind : s.link.bindings.find? (fun b => b.node == node && b.mid == mid && b.port == homePort s p node) = none := by
    refine List.find?_eq_none.mpr fun b hb hall => ?_
    exact List.any_eq_false.mp hnone b hb (Bool.and_eq_true_iff.mp hall).1
  simp only [openCheck, hfind, hnone, Bool.false_eq_true, if_false]

/-- A binding of the pair at another port than its home port. -/
theorem openCheck_otherPort {b : Binding} (hb : b ∈ s.link.bindings) (hnode : b.node = node) (hmid : b.mid = mid)
    (hfind : s.link.bindings.find? (fun b => b.node == node && b.mid == mid && b.port == homePort s p node) = none) :
    openCheck s p node sid mid .bound = (rcNotPermitted, none) := by
  have hany : s.link.bindings.any (fun b => b.node == node && b.mid == mid) = true :=
    List.any_eq_true.mpr ⟨b, hb, by simp [hnode, hmid]⟩
  simp only [openCheck, hfind, hany, if_true]

theorem openCheck_pool_crowded (hcrowd : 64 < (recentOpens s node).length) :
    openCheck s p node sid mid .pool = (rcNoSpace, none) := by
  simp only [openCheck, hcrowd, decide_true, if_true]

theorem openCheck_pool_full (hnone : freeMid s (homePort s p node) = none) :
    openCheck s p node sid mid .pool = (rcNoSpace, none) := by
  simp only [openCheck, hnone, ite_self]

theorem openCheck_pool_free {m : Nat} (hfew : (recentOpens s node).length ≤ 64) (hm : freeMid s (homePort s p node) = some m) :
    openCheck s p node sid mid .pool = (rcDone, some (homePort s p node, m, none)) := by
  simp only [openCheck, Nat.not_lt.mpr hfew, hm, decide_false, Bool.false_eq_true, if_false]

end openCheck

/-! ### OPEN, ACCEPT and REFUSE (R428 to R430) -/

/-- No OPEN is accepted for a session that exists, nor of another kind than SYSTEM for a session ID below 8. -/
def openBarred (t : State) (f : Flit) (k : SessKind) : Bool :=
  thas t.link.sessions (f.src, f.sid) || (decide (f.sid < 8) && k != .system)

theorem openBarred_iff {t : State} {f : Flit} {k : SessKind} :
    openBarred t f k = true ↔ thas t.link.sessions (f.src, f.sid) = true ∨ (f.sid < 8 ∧ k ≠ .system) := by
  simp [openBarred]

theorem openBarred_eq_false {t : State} {f : Flit} {k : SessKind} (hnew : thas t.link.sessions (f.src, f.sid) = false)
    (hlow : f.sid < 8 → k = .system) : openBarred t f k = false := by
  refine Bool.eq_false_iff.mpr fun hbarred => ?_
  rcases openBarred_iff.mp hbarred with hold | ⟨hsid, hkind⟩
  · exact Bool.eq_false_iff.mp hnew hold
  · exact hkind (hlow hsid)

section sessionOpen

variable {s t u : State} {p rc : Nat} {f : Flit} {k : SessKind} {got : Option (Nat × Nat × Option Nat)}
  (hhead : inboxHead s p (isSctl 5) = some f) (ht : t = inboxPop s p) (hk : k = codeKind (leAt (ctlOne f) 1 1))
  (hcheck : openCheck t p f.src f.sid (leAt (ctlOne f) 2 2 % 4096) k = (rc, got))
  (hu : u = { t with link := { t.link with openTimes := tset t.link.openTimes f.src (recentOpens t f.src) } })
include hhead ht hk hcheck hu

theorem exec_sessionOpen_barred (hbarred : openBarred t f k = true) : exec (.sessionOpen p) s =
    .next (portMod (pairSend u f.src f.sid p (k == .system) true 7 (leBytes 2 rcNotPermitted)) p
      (fun q => { q with refusal := rcNotPermitted })) := by
  have hrc : ¬rcNotPermitted = rcDone := by decide
  rw [openBarred] at hbarred
  subst ht hk hu
  show execSessionOpen p s = _
  cases got <;> simp only [execSessionOpen, hhead, hcheck, hbarred, ne_eq, hrc, not_false_eq_true, if_true]

section allowed

variable (hallowed : openBarred t f k = false)
include hallowed

theorem exec_sessionOpen_refused (hgot : got = none) : exec (.sessionOpen p) s =
    .next (portMod (pairSend u f.src f.sid p (k == .system) true 7 (leBytes 2 rc)) p (fun q => { q with refusal := rc })) := by
  rw [openBarred] at hallowed
  subst ht hk hu hgot
  show execSessionOpen p s = _
  simp only [execSessionOpen, hhead, hcheck, hallowed, Bool.false_eq_true, if_false]

/-- An accepted session that carries no tenant of its own: it takes a free master ID, and both ends have its keys. -/
theorem exec_sessionOpen_accepted {v : State} {home m : Nat} {x : Session} (hrc : rc = rcDone) (hkind : k ≠ .system)
    (hgot : got = some (home, m, none)) (hv : v = drew 16 u)
    (hx : x = { kind := k, state := .opened, initiator := false, remoteMid := leAt (ctlOne f) 2 2 % 4096, localMid := m, port := home
                nonceI := slice (ctlOne f) 4 16, nonceT := trngBytes t.free 16 }) : exec (.sessionOpen p) s =
      .next (sessionKeyed (pairSend { v with link := { v.link with mids := tset v.link.mids m (f.src, f.sid) } }
        f.src f.sid home false true 6 (leBytes 2 m ++ trngBytes t.free 16)) (f.src, f.sid) x) := by
  rw [openBarred] at hallowed
  have hno : (k == SessKind.system) = false := beq_eq_false_iff_ne.mpr hkind
  subst ht hk hu hgot hrc hv hx
  show execSessionOpen p s = _
  simp only [execSessionOpen, hhead, hcheck, hallowed, hno, hkind, ne_eq, not_true_eq_false, Bool.false_eq_true, if_false]

end allowed

end sessionOpen

section answers

variable {s t : State} {p : Nat} {f : Flit} {x : Session} (ht : t = inboxPop s p) (hx : sessOf t (f.src, f.sid) = some x)
  (hstate : x.state = .opening) (hmine : x.initiator = true)
include ht hx hstate hmine

theorem exec_sessionAccept (hhead : inboxHead s p (isSctl 6) = some f) : exec (.sessionAccept p) s =
    .next (sessionKeyed t (f.src, f.sid) { x with remoteMid := leAt (ctlOne f) 0 2, nonceT := slice (ctlOne f) 2 16 }) := by
  subst ht
  show execSessionAccept p s = _
  simp only [execSessionAccept, hhead, flitKey, hx, hstate, hmine, ne_eq, not_true_eq_false, Bool.not_true, Bool.false_eq_true,
    or_self, if_false]

theorem exec_sessionRefuse (hhead : inboxHead s p (isSctl 7) = some f) : exec (.sessionRefuse p) s =
    .next (portMod (outstandingFail { t with link := { t.link with sessions := tdel t.link.sessions (f.src, f.sid) } } x.outstanding) p
      (fun q => { q with refusal := leAt (ctlOne f) 0 2 })) := by
  subst ht
  show execSessionRefuse p s = _
  simp only [execSessionRefuse, hhead, flitKey, hx, hstate, hmine, ne_eq, not_true_eq_false, Bool.not_true, Bool.false_eq_true,
    or_self, if_false]

end answers

/-- Settles O54: each clause is the rule above for the branch that its hypotheses name. -/
theorem pairAndSessionOpening : Obligations.PairAndSessionOpening := by
  refine ⟨?cert, fun s t u p f x y e hhead ht hx hcert hnode hu he hy => exec_pairXA hhead ht hx hcert hnode hu he hy, ?check, ?held,
    ?opened, fun s t p f x ht hx hstate hmine =>
      ⟨exec_sessionAccept ht hx hstate hmine, exec_sessionRefuse ht hx hstate hmine⟩⟩
  case cert =>
    intro s t u v w p f part total b cert hhead ht hbody hcert hu hv hw
    rw [exec_pairCert hhead ht hbody hcert hu hv hw]
    exact ⟨fun hpart => if_pos hpart, fun hwhole => if_neg (Nat.not_lt.mpr hwhole)⟩
  case check =>
    intro s t u p f x peer ht hx
    exact ⟨fun hhead heph hnode hpeer hu => exec_pairXB ht hx hhead heph hnode hpeer hu, exec_pairConf ht hx⟩
  case held =>
    intro s p node sid mid
    exact ⟨openCheck_unbound, fun b hb hnode hmid hfind => openCheck_otherPort hb hnode hmid hfind, openCheck_pool_crowded,
      openCheck_pool_full, fun m hfew hm => ⟨openCheck_pool_free hfew hm, freeMid_some hm⟩⟩
  case opened =>
    intro s t u p rc f k got hhead ht hk hcheck hu
    exact ⟨fun hbarred => exec_sessionOpen_barred hhead ht hk hcheck hu (openBarred_iff.mpr hbarred),
      fun hnew hlow hgot => exec_sessionOpen_refused hhead ht hk hcheck hu (openBarred_eq_false hnew hlow) hgot,
      fun v home m x hnew hlow hrc hkind hgot hv hx =>
        exec_sessionOpen_accepted hhead ht hk hcheck hu (openBarred_eq_false hnew hlow) hrc hkind hgot hv hx⟩

end Sys2Proof.Machine
end

section
/-! SUPPORT. How sessions acknowledge, send again, are kept alive, renew their keys and are lost, one rule for each branch, and the
statement on it (R426, R431 to R434, R571). -/

namespace Sys2Proof.Machine

/-! ### SACK (R431) -/

/-- The state after a SACK has freed what it covers of a session's kept flits. -/
def sacked (t : State) (k : Nat × Nat) (x : Session) (left : List (Nat × Bool × Bytes)) : State :=
  if left.length < x.unacked.length then sessMod t k (fun x => { x with unacked := left, lastSack := t.now }) else t

section sack

variable {t : State} {k : Nat × Nat} {x : Session} {left : List (Nat × Bool × Bytes)} (hx : sessOf t k = some x)
include hx

theorem sessOf_sacked (hfreed : left.length < x.unacked.length) :
    sessOf (sacked t k x left) k = some { x with unacked := left, lastSack := t.now } := by
  rw [sacked, if_pos hfreed, sessOf_sessMod_self, hx, Option.map_some]

/-- A SACK changes no session's wish to close. -/
theorem sessOf_sacked_state : ∃ y, sessOf (sacked t k x left) k = some y ∧ y.state = x.state := by
  by_cases hfreed : left.length < x.unacked.length
  · exact ⟨_, sessOf_sacked hx hfreed, rfl⟩
  · exact ⟨x, by rw [sacked, if_neg hfreed, hx], rfl⟩

variable {n : Nat} (hsent : x.unsent = []) (hleft : left = sackLeaves x.unacked n)
include hsent hleft

/-- SACK where the session has nothing to send: it frees what it covers. -/
theorem sackUpTo_open (hopen : x.state ≠ .closing) : sackUpTo t k n = sacked t k x left := by
  subst hleft
  obtain ⟨y, hy, hstate⟩ := sessOf_sacked_state (left := sackLeaves x.unacked n) hx
  rw [sacked] at hy
  simp only [sackUpTo, hx, hsent, List.length_nil, sessDrain, hy, hstate, hopen, false_and, if_false]
  rfl

/-- A SACK that leaves only control flits of a session that waits to close lets it say CLOSE and end. -/
theorem sackUpTo_closing (hclosing : x.state = .closing) (hfreed : left.length < x.unacked.length)
    (hcontrol : left.all (·.2.1) = true) : sackUpTo t k n = sessionLost (sctlSend (sacked t k x left) k 12 []) k := by
  have hy := sessOf_sacked hx hfreed
  have hquiet : awaitsSack { x with unacked := left, lastSack := t.now } = false := by
    simpa [awaitsSack] using hcontrol
  have hends : x.state = .closing ∧ (!awaitsSack { x with unacked := left, lastSack := t.now }) = true ∧ x.unsent.isEmpty = true :=
    ⟨hclosing, by rw [hquiet, Bool.not_false], by rw [hsent, List.isEmpty_nil]⟩
  subst hleft
  rw [sacked] at hy
  have hnone : x.unsent.length = 0 := by rw [hsent, List.length_nil]
  simp only [sackUpTo, hx, hnone, sessDrain, hy, if_pos hends]
  rfl

end sack

theorem exec_sack {s t : State} {p n : Nat} {f : Flit} (hhead : inboxHead s p (isSctl 8) = some f) (ht : t = inboxPop s p)
    (hn : n = leAt (ctlOne f) 0 4) : exec (.sack p) s = .next (sackUpTo t (f.src, f.sid) n) := by
  subst ht hn
  show execSack p s = _
  simp only [execSack, hhead, flitKey]

/-! ### The timers of a session (R431 to R434) -/

/-- When a session is lost by a timer: 10 ms without a SACK or without a path, or 100 ms without PONG. -/
def lossDue (s : State) (x : Session) : Prop :=
  (x.unacked.any (fun u => !u.2.1) = true ∧ x.lastSack + msT 10 ≤ s.now) ∨ (∃ t, x.noPathSince = some t ∧ t + msT 10 ≤ s.now) ∨
    (∃ t, x.pingAt = some t ∧ t + msT 100 ≤ s.now)

section timers

variable {s : State} {k : Nat × Nat} {x : Session} (hx : sessOf s k = some x)
include hx

theorem exec_sessionResendTimeout : exec (.sessionResendTimeout k.1 k.2) s =
    if awaitsSack x = true ∧ max x.lastSack x.resentAt + usT 20 ≤ s.now then
      .next (sessResend (sessMod s k (fun x => { x with resentAt := s.now })) k)
    else .next s := by
  show execSessionResendTimeout k.1 k.2 s = _
  simp only [execSessionResendTimeout, hx]

theorem exec_sessionSilencePing : exec (.sessionSilencePing k.1 k.2) s =
    if x.state = .opened ∧ x.pingAt = none ∧ x.heardAt + msT 10 ≤ s.now then
      .next (sctlSend (sessMod s k (fun x => { x with pingAt := some s.now })) k 9 [])
    else .next s := by
  show execSessionSilencePing k.1 k.2 s = _
  simp only [execSessionSilencePing, hx]

theorem exec_sessionLossTimeout_lost (hstate : x.state ≠ .opening) (hdue : lossDue s x) :
    exec (.sessionLossTimeout k.1 k.2) s = .next (sessionLost s k) := by
  show execSessionLossTimeout k.1 k.2 s = _
  rw [execSessionLossTimeout, hx]
  refine if_pos ⟨hstate, ?_⟩
  obtain ⟨hwaits, hsack⟩ | ⟨t, hpath, hlate⟩ | ⟨t, hping, hlate⟩ := hdue
  · simp [awaitsSack, hwaits, hsack]
  · simp [hpath, hlate]
  · simp [hping, hlate]

theorem exec_sessionLossTimeout_quiet (hacked : x.unacked = []) (hpath : x.noPathSince = none) (hping : x.pingAt = none) :
    exec (.sessionLossTimeout k.1 k.2) s = .next s := by
  show execSessionLossTimeout k.1 k.2 s = _
  simp [execSessionLossTimeout, hx, awaitsSack, hacked, hpath, hping]

/-- REKEY goes out when it is due and the session may send, and the next epoch's keys begin at SSEQ 1. -/
theorem exec_rekeyDue {t : State} (hopened : x.state = .opened) (hdue : 0x80000000 ≤ x.txSseq ∨ x.keySince + secT 3600 ≤ s.now)
    (hsent : x.unsent = []) (hmay : sessMay s k x (mkFlit 3 3 0 0 false []) = true)
    (ht : t = sctlSend s k 11 (leBytes 4 (x.epochTx + 1))) :
    exec (.rekeyDue k.1 k.2) s = .next (sessMod t k (fun x => { x with
      epochTx := x.epochTx + 1, keyTx := (sessKeys t k.1 k.2 x (x.epochTx + 1)).1, txSseq := 1, keySince := t.now })) := by
  subst ht
  have hall : x.state = .opened ∧ (0x80000000 ≤ x.txSseq ∨ x.keySince + secT 3600 ≤ s.now) ∧ x.unsent.isEmpty = true ∧
      sessMay s k x (mkFlit 3 3 0 0 false []) = true := ⟨hopened, hdue, by rw [hsent, List.isEmpty_nil], hmay⟩
  show execRekeyDue k.1 k.2 s = _
  simp only [execRekeyDue, hx, if_pos hall]

end timers

/-! ### PING, PONG, CLOSE and REKEY (R426, R432 to R434) -/

section control

variable {s : State} {p : Nat} {f : Flit}

theorem exec_ping (hhead : inboxHead s p (isSctl 9) = some f) :
    exec (.ping p) s = .next (sctlSend (inboxPop s p) (f.src, f.sid) 10 []) := by
  show execPing p s = _
  simp only [execPing, hhead, flitKey]

theorem exec_pong (hhead : inboxHead s p (isSctl 10) = some f) :
    exec (.pong p) s = .next (sessMod (inboxPop s p) (f.src, f.sid) (fun x => { x with pingAt := none })) := by
  show execPong p s = _
  simp only [execPong, hhead, flitKey]

theorem exec_close (hhead : inboxHead s p (isSctl 12) = some f) :
    exec (.close p) s = .next (sessionLost (inboxPop s p) (f.src, f.sid)) := by
  show execClose p s = _
  simp only [execClose, hhead, flitKey]

theorem exec_rekey {t : State} (hhead : inboxHead s p (isSctl 11) = some f) (ht : t = inboxPop s p) :
    exec (.rekey p) s = .next (sessMod t (f.src, f.sid) (fun x => { x with
      epochRx := x.epochRx + 1, keyRx := (sessKeys t f.src f.sid x (x.epochRx + 1)).2, rxSseq := 1 })) := by
  subst ht
  show execRekey p s = _
  simp only [execRekey, hhead, flitKey]

end control

/-! ### A master ID that becomes free (R434, R571) -/

theorem exec_masterIdFreeTimeout {s : State} {m t : Nat} (hm : tget s.link.midFreeing m = some t) :
    exec (.masterIdFreeTimeout m) s =
      if t ≤ s.now then .next (postedQueuesEnd { s with
        masters := tdel s.masters m
        link := { s.link with midFreeing := tdel s.link.midFreeing m, mids := tdel s.link.mids m } } m)
      else .next s := by
  show execMasterIdFreeTimeout m s = _
  simp only [execMasterIdFreeTimeout, hm]

/-- Settles O55: each clause is the rule above for the branch that its hypotheses name. -/
theorem sessionLife : Obligations.SessionLife := by
  refine ⟨?sack, ?timers, fun s p f => ⟨exec_ping, exec_pong, exec_close⟩, ?free, ?rekeyDue, fun s t p f => exec_rekey⟩
  case sack =>
    intro s t u p n f x left hhead ht hn hx hsent hleft hu
    obtain rfl : u = sacked t (f.src, f.sid) x left := hu
    rw [exec_sack hhead ht hn]
    exact ⟨fun hopen => congrArg _ (sackUpTo_open hx hsent hleft hopen),
      fun hclosing hfreed hcontrol => congrArg _ (sackUpTo_closing hx hsent hleft hclosing hfreed hcontrol)⟩
  case timers =>
    intro s k x hx
    rw [exec_sessionResendTimeout hx, exec_sessionSilencePing hx]
    exact ⟨fun hwaits hlate => if_pos ⟨hwaits, hlate⟩, fun hearly => if_neg fun h => Nat.not_le.mpr hearly h.2,
      fun hopened hping hlate => if_pos ⟨hopened, hping, hlate⟩, fun hearly => if_neg fun h => Nat.not_le.mpr hearly h.2.2,
      exec_sessionLossTimeout_lost hx, exec_sessionLossTimeout_quiet hx⟩
  case free =>
    intro s m t hm
    rw [exec_masterIdFreeTimeout hm]
    exact ⟨fun hdue => ⟨_, if_pos hdue, rfl, rfl, rfl, rfl, rfl⟩, fun hearly => if_neg (Nat.not_le.mpr hearly)⟩
  case rekeyDue =>
    intro s k x hx hopened hdue hsent hmay
    exact ⟨_, rfl, exec_rekeyDue hx hopened hdue hsent hmay rfl⟩

end Sys2Proof.Machine
end

section
/-! SUPPORT. How the device's host reads end, and how a host link trains and saves power, one rule for each branch, and the statement
on it (R457, R458, R470, R471, R474 to R476, R483, R486). -/

namespace Sys2Proof.Machine

/-! ### What a read's answer reaches (R475, R481, R483) -/

section answer

variable {s : State} {fn : Fn} {addr : Nat}

theorem readAnswer_plain (answer : HostRead) (h : consumedCtx s fn addr = none) :
    readAnswer s fn addr answer = .next (readEnd s (fnMid fn) addr answer) := by
  simp only [readAnswer, h]

theorem readAnswer_consumed {n : Nat} (answer : HostRead) (h : consumedCtx s fn addr = some n) :
    readAnswer s fn addr answer = exec (.consumedReadReturn n answer) s := by
  simp only [readAnswer, h]
  rfl

end answer

/-! ### Completions, timeouts and quarantined tags (R474 to R476, R486) -/

section tag

variable {s : State} {fn : Fn} {tag : Nat}

/-- The completion of a quarantined tag is dropped and counted (R476). -/
theorem exec_hostReadCompletion_quarantined {d : Nat} (answer : HostRead)
    (h : tget s.host.tags (fn, tag) = some (.quarantined d)) : exec (.hostReadCompletion fn tag answer) s =
      .next { s with host := { s.host with lateCpl := sat32 (s.host.lateCpl + 1) } } := by
  show execHostReadCompletion fn tag answer s = _
  simp only [execHostReadCompletion, h]

theorem exec_tagQuarantineEnd {d : Nat} (h : tget s.host.tags (fn, tag) = some (.quarantined d)) :
    exec (.tagQuarantineEnd fn tag) s =
      if d ≤ s.now then .next { s with host := { s.host with tags := tdel s.host.tags (fn, tag) } } else .next s := by
  show execTagQuarantineEnd fn tag s = _
  simp only [execTagQuarantineEnd, h]

/-- The completion of a read of before the function's reset frees its tag and does no more (R486). -/
theorem exec_hostReadCompletion_beforeReset {since addr : Nat} (answer : HostRead)
    (h : tget s.host.tags (fn, tag) = some (.outstanding since addr true)) : exec (.hostReadCompletion fn tag answer) s =
      .next { s with host := { s.host with tags := tdel s.host.tags (fn, tag) } } := by
  show execHostReadCompletion fn tag answer s = _
  simp only [execHostReadCompletion, h, if_true]

section outstanding

variable {since addr : Nat} (h : tget s.host.tags (fn, tag) = some (.outstanding since addr false))
include h

theorem exec_hostReadCompletion_outstanding (answer : HostRead) :
    exec (.hostReadCompletion fn tag answer) s = readAnswer s fn addr answer := by
  show execHostReadCompletion fn tag answer s = _
  simp only [execHostReadCompletion, h, Bool.false_eq_true, if_false]

theorem exec_hostReadTimeout_outstanding : exec (.hostReadTimeout fn tag) s =
    if since + nsT (fnTimeout s fn) ≤ s.now then readAnswer s fn addr .timeout else .next s := by
  show execHostReadTimeout fn tag s = _
  simp only [execHostReadTimeout, h]

end outstanding

end tag

/-- A function whose completion timeout the host has not set waits 10 ms (R474). -/
theorem fnTimeout_unset {s : State} {fn : Fn} (h : tget s.host.timeoutNs fn = none) : nsT (fnTimeout s fn) = msT 10 := by
  simp only [fnTimeout, tgetD, h]
  rfl

/-! ### Training (R457, R458) -/

section training

variable {s : State} {l r w : Nat}

theorem exec_hostLinkTraining_trains (hup : endpointUp s = true) (hl : l < 2) (hr : r ∈ [25, 50, 80, 160, 320, 640])
    (hw : w ∈ [1, 2, 4, 8, 16]) (hfits : w ≤ modeWidth s l) : exec (.hostLinkTraining l r w) s =
      .next (hostLinkMod s l (fun x => { x with
        rate := r, width := w, lowWidth := 0, inL1 := false, lowSince := s.now, idleSince := s.now })) :=
  if_pos ⟨hup, hl, List.contains_iff_mem.mpr hr, List.contains_iff_mem.mpr hw, hfits⟩

theorem exec_hostLinkTraining_tooWide (hwide : modeWidth s l < w) : exec (.hostLinkTraining l r w) s = .next s :=
  if_neg fun ⟨_, _, _, _, hfits⟩ => Nat.not_le.mpr hwide hfits

end training

/-! ### Half width and full width (R470) -/

section width

variable {s : State} {l : Nat}

theorem exec_l0pRequest_disabled {demand : Bool} (hoff : (hostLinkOf s l).l0pEnable = false) :
    exec (.l0pRequest l demand) s = .next s :=
  if_pos (by simp only [hoff, Bool.not_false, Bool.or_true, Bool.true_or])

variable (hup : endpointUp s = true) (hl : l < 2) (hon : (hostLinkOf s l).l0pEnable = true)
include hup hl hon

theorem exec_l0pRequest_full : exec (.l0pRequest l true) s =
    if (hostLinkOf s l).lowWidth = 0 then .next s
    else .next (emit (hostLinkMod s l (fun x => { x with lowWidth := 0, lowSince := s.now })) (.linkPower l (hostLinkOf s l).width)) := by
  show execL0pRequest l true s = _
  simp only [execL0pRequest, hup, hon, Nat.not_le.mpr hl, decide_false, Bool.not_true, Bool.or_self, Bool.false_eq_true, if_true, if_false]

theorem exec_l0pRequest_half : exec (.l0pRequest l false) s =
    if underLoad s (hostLinkOf s l) = true ∧ 8 ≤ widthNow (hostLinkOf s l) then
      .next (emit (hostLinkMod s l (fun x => { x with lowWidth := widthNow (hostLinkOf s l) / 2, lowSince := s.now }))
        (.linkPower l (widthNow (hostLinkOf s l) / 2)))
    else .next s := by
  show execL0pRequest l false s = _
  simp only [execL0pRequest, hup, hon, Nat.not_le.mpr hl, decide_false, Bool.not_true, Bool.or_self, Bool.false_eq_true, if_false]

end width

/-! ### L1 (R471) -/

/-- What a link and the device must be for the link to ask for L1. -/
def l1May (s : State) (l : Nat) (q : HostLink) : Prop :=
  endpointUp s = true ∧ l < 2 ∧ q.l1Enable = true ∧ q.inL1 = false ∧ q.width ≠ 0 ∧ q.idleSince + usT 200 ≤ s.now ∧
    linkOutstanding s l = false ∧ s.eng.ctxs = []

section l1

variable {s : State} {l : Nat}

theorem exec_aspmL1Entry_enters (h : l1May s l (hostLinkOf s l)) :
    exec (.aspmL1Entry l) s = .next (emit (hostLinkMod s l (fun x => { x with inL1 := true })) (.linkPower l 0)) :=
  if_pos (by simpa only [l1May, Bool.not_eq_true', List.isEmpty_iff] using h)

theorem exec_aspmL1Entry_stays (h : ¬ l1May s l (hostLinkOf s l)) : exec (.aspmL1Entry l) s = .next s :=
  if_neg (by simpa only [l1May, Bool.not_eq_true', List.isEmpty_iff] using h)

/-- A link that may not enter, is busy, or stands beside a call slip that runs. -/
theorem not_l1May {q : HostLink} (h : q.l1Enable = false ∨ s.now < q.idleSince + usT 200 ∨ linkOutstanding s l = true ∨ s.eng.ctxs ≠ []) :
    ¬ l1May s l q := by
  rintro ⟨-, -, hon, -, -, hidle, hquiet, hctxs⟩
  obtain hoff | hbusy | hout | hslip := h
  · exact Bool.false_ne_true (hoff.symm.trans hon)
  · exact Nat.not_le.mpr hbusy hidle
  · exact Bool.false_ne_true (hquiet.symm.trans hout)
  · exact hslip hctxs

end l1

/-- Settles O59: each clause is the rule above for the branch that its hypotheses name. -/
theorem hostReadsAndLinkPower : Obligations.HostReadsAndLinkPower := by
  refine ⟨?reads, fun s fn => fnTimeout_unset,
    fun s l r w hup hl => ⟨exec_hostLinkTraining_trains hup hl, exec_hostLinkTraining_tooWide⟩, ?power⟩
  case reads =>
    intro s fn tag a
    refine ⟨fun d hd => ?quarantined, fun since addr => exec_hostReadCompletion_beforeReset a, fun since addr hread => ?outstanding⟩
    case quarantined =>
      rw [exec_tagQuarantineEnd hd]
      exact ⟨exec_hostReadCompletion_quarantined a hd, fun hdue => if_pos hdue, fun hearly => if_neg (Nat.not_le.mpr hearly)⟩
    case outstanding =>
      rw [exec_hostReadCompletion_outstanding hread a, exec_hostReadTimeout_outstanding hread]
      exact ⟨fun hplain => ⟨readAnswer_plain a hplain, fun hlate => (if_pos hlate).trans (readAnswer_plain .timeout hplain)⟩,
        fun n hctx => ⟨readAnswer_consumed a hctx, fun hlate => (if_pos hlate).trans (readAnswer_consumed .timeout hctx)⟩,
        fun hearly => if_neg (Nat.not_le.mpr hearly)⟩
  case power =>
    rintro s l q hup hl rfl
    refine ⟨fun hon => ?width, fun hoff => ⟨exec_l0pRequest_disabled hoff, exec_l0pRequest_disabled hoff⟩,
      fun hon hawake hwidth hidle hquiet hctxs =>
        exec_aspmL1Entry_enters ⟨hup, hl, hon, hawake, hwidth, hidle, hquiet, hctxs⟩,
      fun hno => exec_aspmL1Entry_stays (not_l1May hno)⟩
    rw [exec_l0pRequest_full hup hl hon, exec_l0pRequest_half hup hl hon]
    exact ⟨fun hlow => if_neg hlow, fun hload hwide => if_pos ⟨hload, hwide⟩, fun hnarrow => if_neg fun h => Nat.not_le.mpr hnarrow h.2⟩

end Sys2Proof.Machine
end

section
/-! SUPPORT. The statements on all commands and on every step: the queue, what resets alone may change, what no step loses, and what
the state holds right after reset (00_scope, R514, R519, R545, R619, R626, R641, R655, R656, R674, R675). -/

namespace Sys2Proof.Machine

/-! ### The queue -/

theorem step_front {c : Instr} {rest : List Instr} {s : State} (h : s.pending = c :: rest) :
    step s = exec c { s with pending := rest } := by
  simp only [step, h]

/-- Every command answers a next state with the same queue and the same serial number. -/
theorem exec_completes (c : Instr) (s : State) :
    ∃ t, exec c s = .next t ∧ t.pending = s.pending ∧ t.ident.serial = s.ident.serial := by
  obtain ⟨t, heq, hkept | ⟨-, hkept⟩⟩ := exec_lasting' c s
  · exact ⟨t, heq, hkept.pending, hkept.serial⟩
  · exact ⟨t, heq, hkept.pending, hkept.serial⟩

/-- A step with a command in the queue takes it off and leaves the rest. -/
theorem step_takesFront {c : Instr} {rest : List Instr} {s : State} (h : s.pending = c :: rest) :
    ∃ t, step s = .next t ∧ t.pending = rest := by
  rw [step_front h]
  exact exec_queue c { s with pending := rest }

theorem runSteps_succ {s t : State} (k : Nat) (h : step s = .next t) : runSteps (k + 1) s = runSteps k t := by
  simp only [runSteps, h]

/-- Settles O1: a step looks at the front of the queue alone. -/
theorem stepRunsFrontCommand : Obligations.StepRunsFrontCommand :=
  fun _ _ _ h => step_front h

/-- Settles O7: the queue and the serial number are among what every command keeps. -/
theorem everyCommandCompletes : Obligations.EveryCommandCompletes :=
  exec_completes

/-- Settles O6, by induction on the number of steps: each takes one command off the front. -/
theorem queueDrains : Obligations.QueueDrains := by
  intro s k hk
  induction k generalizing s with
  | zero => exact ⟨s, rfl, rfl⟩
  | succ k ih =>
    cases hq : s.pending with
    | nil => simp [hq] at hk
    | cons c rest =>
      obtain ⟨t, hstep, hrest⟩ := step_takesFront hq
      have hlen : k ≤ t.pending.length := by simpa [hq, hrest] using hk
      obtain ⟨u, hrun, hleft⟩ := ih t hlen
      exact ⟨u, (runSteps_succ k hstep).trans hrun, by rw [hleft, hrest, List.drop_succ_cons]⟩

/-! ### What no step loses -/

/-- Settles O9: MIN_SVN is among what every step keeps. -/
theorem minSvnNeverFalls : Obligations.MinSvnNeverFalls := by
  intro s htag
  obtain ⟨t, hstep, hkept⟩ := step_svn s
  exact ⟨t, hstep, hkept htag⟩

/-- Settles O10: the retired granules are among what every step keeps. -/
theorem retiredGranulesStay : Obligations.RetiredGranulesStay := by
  intro s g hg
  obtain ⟨t, hstep, hkept⟩ := step_retired s
  exact ⟨t, hstep, hkept g hg⟩

/-- Settles O15: tenant 0 is among what every step keeps. -/
theorem tenantZeroStays : Obligations.TenantZeroStays := by
  intro s htenant
  obtain ⟨t, hstep, hkept⟩ := step_tenant s
  exact ⟨t, hstep, hkept htenant⟩

/-! ### What only some commands change -/

/-- The response to a challenge may open the debug port, and opens nothing that is open already. -/
theorem exec_debugResponse_unlocked {s : State} (sig : Bytes) (h : s.sec.debugUnlocked = true) :
    ∃ t, exec (.debugResponse sig) s = .next t ∧ t.sec.debugUnlocked = true := by
  obtain ⟨_, u, heq, hkept, rfl | rfl⟩ := debugResponse_kept sig s
  · exact ⟨_, heq, hkept.unlocked.trans h⟩
  · exact ⟨_, heq, rfl⟩

/-- Settles O11: the port's lock is among what every command keeps that is no cold reset and no response. -/
theorem onlyColdResetLocksDebugPort : Obligations.OnlyColdResetLocksDebugPort := by
  refine ⟨fun c s hcold hresponse => ?_, fun sig s h => exec_debugResponse_unlocked sig h⟩
  obtain ⟨t, heq, hkept⟩ := exec_warm c s hcold hresponse
  exact ⟨t, heq, hkept.unlocked⟩

/-- Settles O12: the binding table is among what every command keeps that is no reset. -/
theorem bindingTableLocked : Obligations.BindingTableLocked := by
  intro c s hreset
  obtain ⟨t, heq, hkept, -⟩ := exec_safe c s hreset
  exact ⟨t, heq, hkept⟩

/-- Settles O14: the next SEQ is among what every command keeps or raises that is no cold reset and no response. -/
theorem logSequenceRises : Obligations.LogSequenceRises := by
  intro c s hcold hresponse
  obtain ⟨t, heq, hkept⟩ := exec_warm c s hcold hresponse
  exact ⟨t, heq, hkept.seq⟩

/-- Settles O16: the throttle values are among what every other command keeps, and the update makes new power registers alone. -/
theorem throttleOnlyByUpdate : Obligations.ThrottleOnlyByUpdate := by
  refine ⟨fun c s hreset hupdate hresponse => ?_, throttleUpdate_power⟩
  obtain ⟨t, heq, hkept⟩ := exec_kept c s hreset hresponse hupdate
  exact ⟨t, heq, hkept.throttle⟩

/-! ### The state after reset -/

/-- What holds of the default and of every listed value holds of whatever a table reads. -/
theorem tgetD_of_forall {κ α : Type} [DecidableEq κ] {P : α → Prop} {t : Tbl κ α} {d : α} (hd : P d)
    (h : ∀ p ∈ t, P p.2) (k : κ) : P (tgetD t k d) := by
  induction t with
  | nil => exact hd
  | cons p r ih =>
    by_cases hk : p.1 = k
    · simpa [tgetD, tget, hk] using h p List.mem_cons_self
    · simpa [tgetD, tget, hk] using ih fun q hq => h q (List.mem_cons_of_mem _ hq)

theorem reset_portOf_state (p : Nat) : (portOf State.reset p).state = .down ∨ (portOf State.reset p).state = .off :=
  tgetD_of_forall (P := fun q : Port => q.state = .down ∨ q.state = .off) (.inl rfl) (by decide) p

theorem tget_singleton {κ α : Type} [DecidableEq κ] (k j : κ) (v : α) : tget [(k, v)] j = if j = k then some v else none := by
  by_cases h : j = k <;> simp [tget, h, Ne.symm]

theorem reset_tenants (t : Nat) : thas State.reset.tenants t = decide (t = 0) := by
  show (tget [(0, _)] t).isSome = _
  rw [tget_singleton]
  by_cases h : t = 0 <;> simp [h]

theorem reset_carrelRegs (n : Nat) : carrelAck State.reset n = 0 ∧ carrelStatus State.reset n = 0 ∧ carrelId State.reset n = 0 := by
  have hfresh : carrelOf State.reset n = {} := rfl
  have hready : State.reset.cp.ready = false := rfl
  refine ⟨?_, ?_, rfl⟩
  · simp [carrelAck, hfresh, carrelCode]
  · simp [carrelStatus, hfresh, hready, bitN]

/-- Settles O3: the tables that reset leaves empty or with one entry read as they list. -/
theorem resetValues : Obligations.ResetValues := by
  refine ⟨rfl, rfl, rfl, rfl, rfl, rfl, rfl, rfl, reset_tenants, fun m => tget_singleton 1 m 0, rfl, rfl, rfl,
    reset_carrelRegs, fun h => ?halves, reset_portOf_state, rfl, fun a => rfl, rfl, rfl, rfl, rfl, rfl, rfl, rfl, rfl, rfl,
    rfl, rfl, rfl, rfl, rfl, rfl, rfl⟩
  cases h <;> exact ⟨rfl, rfl, rfl⟩

end Sys2Proof.Machine
end

section
/-! SUPPORT. What the carrels' registers, the taking and completing of messages and the lock registers do, one rule for each branch, and
the statements on them (R521, R524, R526 to R531, R534, R535, R538, R540 to R543). -/

namespace Sys2Proof.Machine

/-! ### Doorbells and message writes (R521, R524, R534) -/

theorem doorbellOk_iff {s : State} {c : Carrel} {full : Bool} {v : BitVec 64} : doorbellOk s c full v = true ↔
    full = true ∧ s.cp.ready = true ∧ (c.state = .idle ∨ c.state = .lost) ∧ v.toNat = seqSucc c.completed := by
  simp [doorbellOk, and_assoc]

theorem doorbellLost_iff {s : State} {c : Carrel} {full : Bool} {v : BitVec 64} : doorbellLost s c full v = true ↔
    full = true ∧ s.cp.restarting = some s.now ∧ c.state = .restarting ∧ (c.before = .idle ∨ c.before = .lost) ∧
      v.toNat = seqSucc c.completed := by
  simp [doorbellLost, and_assoc]

/-- A doorbell that a carrel takes finds it IDLE or LOST, and one that a restart discards finds it RESTARTING. -/
theorem doorbellLost_of_ok {s : State} {c : Carrel} {full : Bool} {v : BitVec 64} (h : doorbellOk s c full v = true) :
    doorbellLost s c full v = false := by
  obtain ⟨-, -, hstate, -⟩ := doorbellOk_iff.mp h
  refine Bool.eq_false_iff.mpr fun hlost => ?_
  obtain ⟨-, -, hrestarting, -, -⟩ := doorbellLost_iff.mp hlost
  obtain hidle | hlost := hstate
  · cases hidle.symm.trans hrestarting
  · cases hlost.symm.trans hrestarting

theorem carrelIgnore_eq (c : Carrel) : carrelIgnore c = { c with ignored := min 0xFFFF (c.ignored + 1) } := by
  rw [carrelIgnore, sat16_eq_min]

theorem seqSucc_below {n : Nat} (h : n < 0xFFFF) : seqSucc n = n + 1 := if_neg (Nat.ne_of_lt h)

section bound

variable {s : State} {n : Nat} {b : BindEntry} (hb : tget s.cp.binding n = some b)
include hb

theorem execCarrelDoorbell_lost {full : Bool} {v : BitVec 64} (h : doorbellLost s (carrelOf s n) full v = true) :
    execCarrelDoorbell n full v s = .next (carrelMod s n (fun c => { c with before := .posted })) := by
  simp only [execCarrelDoorbell, hb, h, if_true]

theorem execCarrelMessageWrite_taken {off : Nat} {bytes : Bytes} (hbytes : bytes ≠ []) (hin : off + bytes.length ≤ 256)
    (h : (carrelOf s n).state = .idle ∨ (carrelOf s n).state = .running ∨ (carrelOf s n).state = .lost) :
    execCarrelMessageWrite n off bytes s = .next (carrelMod s n (fun c => { c with msg := place c.msg off bytes })) := by
  have hopen : ¬((carrelOf s n).state = .posted ∨ (carrelOf s n).state = .restarting) := by
    rcases h with h | h | h <;> simp [h]
  simp only [execCarrelMessageWrite, hb, if_pos (And.intro hin hbytes), if_neg hopen]

theorem execCarrelMessageWrite_ignored {off : Nat} {bytes : Bytes} (hbytes : bytes ≠ []) (hin : off + bytes.length ≤ 256)
    (h : (carrelOf s n).state = .posted ∨ (carrelOf s n).state = .restarting) :
    execCarrelMessageWrite n off bytes s =
      .next (carrelMod s n (fun c => { c with ignored := min 0xFFFF (c.ignored + 1) })) := by
  rw [← funext carrelIgnore_eq]
  simp only [execCarrelMessageWrite, hb, if_pos (And.intro hin hbytes), if_pos h]

end bound

/-- Settles O17: a doorbell is taken, discarded by a restart or ignored, and the state decides on a message write. -/
theorem doorbellAndMessageWrite : Obligations.DoorbellAndMessageWrite := by
  refine ⟨?doorbell, fun n hn => seqSucc_below hn, rfl, ?write⟩
  case doorbell =>
    intro s n full v b hb c ok
    refine ⟨fun hok => ?_, fun hlost => execCarrelDoorbell_lost hb (doorbellLost_iff.mpr hlost), fun hno hkept => ?_⟩
    · have htaken : doorbellOk s c full v = true := doorbellOk_iff.mpr hok
      exact execCarrelDoorbell_accepted hb (doorbellLost_of_ok htaken) htaken
    · have hignored := execCarrelDoorbell_ignored hb (Bool.eq_false_iff.mpr (mt doorbellLost_iff.mp hkept))
        (Bool.eq_false_iff.mpr (mt doorbellOk_iff.mp hno))
      simp only [carrelIgnore_eq] at hignored
      exact hignored
  case write =>
    intro s n off bytes b hb hbytes hin c
    exact ⟨execCarrelMessageWrite_taken hb hbytes hin, execCarrelMessageWrite_ignored hb hbytes hin⟩

/-! ### Taking a message (R527, R531) -/

section messageTake

variable {s : State} (hready : s.cp.ready = true) (hroom : s.cp.running.length < 64)
include hready hroom

theorem messageTake_carrel {n : Nat} {b : BindEntry} (hnext : nextPosted s = some n) (hn : n < 1024)
    (hb : tget s.cp.binding n = some b) : messageTake s =
    takeCmd (carrelMod { s with cp := { s.cp with pointer := (s.cp.pointer + 1) % 1025 } } n
        (fun c => { c with state := .running, taken := seqSucc (carrelOf s n).completed }))
      { src := .carrel n, mid := b.sender, node := nodeId s, seq := seqSucc (carrelOf s n).completed
        msg := fit 256 (carrelOf s n).msg } false := by
  have hfull : decide (64 ≤ s.cp.running.length) = false := decide_eq_false (Nat.not_le.mpr hroom)
  simp only [messageTake, hready, hfull, hnext, if_neg (Nat.ne_of_lt hn), hb, Bool.not_true, Bool.or_self, Bool.false_eq_true,
    if_false]
  rfl

theorem messageTake_forward {f : FwdMsg} {r : List FwdMsg} (hnext : nextPosted s = some 1024) (hq : s.cp.fwdQueue = f :: r) :
    messageTake s = takeCmd { s with cp := { s.cp with pointer := (s.cp.pointer + 1) % 1025, fwdQueue := r } }
      { src := .forward f.id, mid := f.mid, node := f.node, seq := 0, msg := f.msg } true := by
  have hfull : decide (64 ≤ s.cp.running.length) = false := decide_eq_false (Nat.not_le.mpr hroom)
  simp only [messageTake, hready, hfull, hnext, hq, Bool.not_true, Bool.or_self, Bool.false_eq_true, if_false, if_true]

end messageTake

/-! ### Completion (R526, R529, R535, R538) -/

/-- OUT, where there is one, goes to the host and is charged in class 1 (R528, R491). -/
def outSent (s : State) (c : RunCmd) (out : Bytes) : State :=
  if out.isEmpty then s else chargeHostTx (emit s (.hostWrite c.mid (msgOut c.msg) out false false)) 1 c.mid out.length

theorem charge_frame (s : State) (r c n : Nat) : charge s r c n = { s with bw := (charge s r c n).bw } := by
  unfold charge
  split <;> rfl

theorem chargeHostTx_frame (s : State) (c mid n : Nat) :
    chargeHostTx s c mid n = { s with bw := (chargeHostTx s c mid n).bw, host := (chargeHostTx s c mid n).host } := by
  unfold chargeHostTx
  split
  · rfl
  · rw [charge_frame]
    rfl

theorem outSent_nil (s : State) (c : RunCmd) : outSent s c [] = s := rfl

theorem outSent_frame (s : State) (c : RunCmd) (out : Bytes) :
    outSent s c out = { s with
      out := s.out ++ (if out = [] then [] else [.hostWrite c.mid (msgOut c.msg) out false false])
      bw := (outSent s c out).bw, host := (outSent s c out).host } := by
  cases out with
  | nil => simp [outSent_nil]
  | cons b l =>
    rw [outSent, if_neg (by simp), chargeHostTx_frame]
    rfl

theorem outSent_cp (s : State) (c : RunCmd) (out : Bytes) : (outSent s c out).cp = s.cp :=
  (congrArg State.cp (outSent_frame s c out) :)

section completion

variable {s : State} {c : RunCmd} {n rc : Nat} {result out : Bytes} (hsrc : c.src = .carrel n)
include hsrc

theorem completeOut_silent (h : c.suppressed = true ∨ flrComes s c.mid = true) :
    completeOut s c rc result out = cmdDrop s (.carrel n) := by
  by_cases hsup : c.suppressed = true
  · simp only [completeOut, hsup, hsrc, if_true]
  · have hflr : flrComes (cmdDrop s (.carrel n)) c.mid = true := h.resolve_left hsup
    simp only [completeOut, if_neg hsup, hsrc, hflr, if_true]

theorem completeOut_carrel (hsup : c.suppressed = false) (hflr : flrComes s c.mid = false) :
    completeOut s c rc result out = carrelMod (outSent (cmdDrop s (.carrel n)) c out) n (fun k => { k with
      reply := replyBytes (msgOp c.msg) rc c.seq out.length (devNs s) result, completed := k.taken, rc := rc, state := .idle }) := by
  have hflr' : flrComes (cmdDrop s (.carrel n)) c.mid = false := hflr
  simp only [completeOut, hsup, hsrc, hflr', Bool.false_eq_true, if_false]
  rfl

end completion

theorem carrelOf_carrelMod_self (s : State) (n : Nat) (f : Carrel → Carrel) : carrelOf (carrelMod s n f) n = f (carrelOf s n) := by
  simp only [carrelOf, carrelMod, tgetD, tget_tset_self, Option.getD_some]

theorem carrelOf_carrelMod_ne (s : State) {n m : Nat} (f : Carrel → Carrel) (h : m ≠ n) :
    carrelOf (carrelMod s n f) m = carrelOf s m := by
  simp only [carrelOf, carrelMod, tgetD, tget_tset_ne _ _ h]

/-- Settles O18: the taken message is checked, and its completion sends OUT and writes the reply and CARREL_ACK. -/
theorem messageTakeAndCompletion : Obligations.MessageTakeAndCompletion := by
  refine ⟨?carrel, ?forward, fun s c n rc result out hsrc h => completeOut_silent hsrc h, ?done⟩
  case carrel =>
    intro s n b hready hroom hnext hn hb seq c t u
    exact congrArg _ (messageTake_carrel hready hroom hnext hn hb)
  case forward =>
    intro s f r hready hroom hnext hq c u
    exact congrArg _ (messageTake_forward hready hroom hnext hq)
  case done =>
    intro s c n rc result out hsrc hsup hflr t k
    have ht : t = _ := completeOut_carrel hsrc hsup hflr
    have hsent := outSent_frame (cmdDrop s (.carrel n)) c out
    have hcp := outSent_cp (cmdDrop s (.carrel n)) c out
    have hcarrel : ∀ m, carrelOf (outSent (cmdDrop s (.carrel n)) c out) m = carrelOf s m := fun m => by
      rw [carrelOf, hcp]
      rfl
    refine ⟨?_, fun m hm => ?_, ?_, ?_, ?_, ?_⟩
    · rw [ht, carrelOf_carrelMod_self, hcarrel]
    · rw [ht, carrelOf_carrelMod_ne _ _ hm, hcarrel]
    · rw [ht, carrelMod_out]
      exact (congrArg State.out hsent :)
    · rw [ht]
      exact (congrArg Cp.running hcp :)
    · rw [ht, hsent]
      rfl
    · rintro rfl
      rw [ht, outSent_nil]
      exact ⟨rfl, rfl⟩

/-! ### Lock registers (R540 to R543) -/

theorem exec_glbRelease (fn : Fn) (full : Bool) (v : BitVec 64) (s : State) :
    exec (.glbRelease fn full v) s = execGlbRelease fn full v s := rfl

theorem execGlbRelease_owner {s : State} {fn : Fn} {v : BitVec 64} (hfn : fn = .pf0 ∨ fn = .pf1)
    (howns : fn = .pf0 ∨ tget s.cp.locks (v.toNat % 64) = some (fnMid fn)) (hfault : s.ras.moduleFault = false) :
    execGlbRelease fn true v s = .next { s with cp := { s.cp with locks := tdel s.cp.locks (v.toNat % 64), lockWon := none } } :=
  if_pos ⟨rfl, hfn, howns, by rw [hfault, Bool.not_false]⟩

theorem execGlbRelease_refused {s : State} {fn : Fn} {full : Bool} {v : BitVec 64}
    (h : full = false ∨ ¬(fn = .pf0 ∨ tget s.cp.locks (v.toNat % 64) = some (fnMid fn)) ∨ s.ras.moduleFault = true) :
    execGlbRelease fn full v s = .next s := by
  refine if_neg ?_
  rintro ⟨hfull, -, howns, hsound⟩
  obtain hpart | hother | hfault := h
  · cases hpart.symm.trans hfull
  · exact hother howns
  · simp [hfault] at hsound

/-- Settles O19: the release of a lock takes it out of the table, and what may not release changes nothing. -/
theorem lockRelease : Obligations.LockRelease := by
  refine ⟨fun s fn v hfn howns hfault => ?_, fun s fn full v h => (exec_glbRelease fn full v s).trans (execGlbRelease_refused h)⟩
  exact ⟨(exec_glbRelease fn true v s).trans (execGlbRelease_owner hfn howns hfault), tget_tdel_self _ _,
    fun m hm => tget_tdel_ne _ hm⟩

/-- The function that the rotating pointer names. -/
def lockFirst (s : State) : Fn := if s.cp.lockPointer = 0 then .pf0 else .pf1

section lockRead

variable {s : State} {fn : Fn} {n : Nat}

section free

variable (hfree : tget s.cp.locks n = none)
include hfree

theorem lockRead_free (h : lockFirst s = fn ∨ lockReadComes s (lockFirst s) n = false) : lockRead s fn n = (lockGive s fn n, 0) := by
  have hno : ¬(lockFirst s ≠ fn ∧ lockReadComes s (lockFirst s) n = true) := fun ⟨hother, hcomes⟩ =>
    h.elim hother fun hquiet => Bool.false_ne_true (hquiet.symm.trans hcomes)
  simp only [lockRead, hfree]
  exact if_neg hno

/-- Of two reads in one cycle the pointer's function gets the lock, and the other reads its name. -/
theorem lockRead_outrun (hother : lockFirst s ≠ fn) (hcomes : lockReadComes s (lockFirst s) n = true) : lockRead s fn n =
    ({ lockGive s (lockFirst s) n with cp := { (lockGive s (lockFirst s) n).cp with lockWon := some (n, fnMid (lockFirst s), s.now) } },
      2 ^ 31 + fnMid (lockFirst s)) := by
  simp only [lockRead, hfree]
  exact if_pos ⟨hother, hcomes⟩

end free

theorem lockRead_held {mid : Nat} (hheld : tget s.cp.locks n = some mid)
    (h : s.cp.lockWon ≠ some (n, fnMid fn, s.now) ∨ mid ≠ fnMid fn) : lockRead s fn n = (s, 2 ^ 31 + mid) := by
  simp only [lockRead, hheld]
  exact if_neg fun ⟨hwon, hown⟩ => h.elim (· hwon) (· hown)

theorem lockRead_won (hheld : tget s.cp.locks n = some (fnMid fn)) (hwon : s.cp.lockWon = some (n, fnMid fn, s.now)) :
    lockRead s fn n = ({ s with cp := { s.cp with lockWon := none } }, 0) := by
  simp only [lockRead, hheld]
  exact if_pos ⟨hwon, trivial⟩

theorem exec_glbLockRead_low (hfn : fn = .pf0 ∨ fn = .pf1) (hn : n < 64) (hfault : s.ras.moduleFault = false) {t : State} {v : Nat}
    (hread : lockRead s fn n = (t, v)) :
    exec (.glbLockRead fn n true) s = .next (emit t (.completion fn (some (leBytes 8 v)))) := by
  show execGlbLockRead fn n true s = _
  rw [execGlbLockRead, if_pos ⟨hfn, hn, by rw [hfault, Bool.not_false]⟩, if_pos rfl, hread]

theorem exec_glbLockRead_high (hfn : fn = .pf0 ∨ fn = .pf1) (hn : n < 64) (hfault : s.ras.moduleFault = false) :
    exec (.glbLockRead fn n false) s = .next (emit s (.completion fn (some (zeros 4)))) := by
  show execGlbLockRead fn n false s = _
  rw [execGlbLockRead, if_pos ⟨hfn, hn, by rw [hfault, Bool.not_false]⟩, if_neg Bool.false_ne_true]

theorem exec_glbLockRead_fault (low : Bool) (hfault : s.ras.moduleFault = true) : exec (.glbLockRead fn n low) s = .next s :=
  if_neg fun ⟨_, _, hsound⟩ => by simp [hfault] at hsound

end lockRead

theorem leBytes_eight_zero : leBytes 8 0 = zeros 8 := rfl

/-- Settles O20: a read of the low half answers what `lockRead` gives, which the table and the pointer decide. -/
theorem lockReadAnswers : Obligations.LockRead := by
  intro s fn n hfn hn first give
  refine ⟨fun hfault => ⟨fun hfree h => ?_, fun hfree hother hcomes => ?_, fun mid hheld h => ?_, fun hheld hwon => ?_, ?_⟩,
    fun hfault low => exec_glbLockRead_fault low hfault⟩
  · rw [exec_glbLockRead_low hfn hn hfault (lockRead_free hfree h), leBytes_eight_zero]
    rfl
  · exact exec_glbLockRead_low hfn hn hfault (lockRead_outrun hfree hother hcomes)
  · exact exec_glbLockRead_low hfn hn hfault (lockRead_held hheld h)
  · rw [exec_glbLockRead_low hfn hn hfault (lockRead_won hheld hwon), leBytes_eight_zero]
  · exact exec_glbLockRead_high hfn hn hfault

end Sys2Proof.Machine
end

section
/-! SUPPORT. What the power commands, the moves between power states, the sensors and the throttle do, one rule for each branch, and
the statements on them (R587, R664 to R677). -/

namespace Sys2Proof.Machine

theorem satTo_eq_min (limit n : Nat) : satTo limit n = min limit n := by
  unfold satTo
  split <;> omega

/-- What a command answers by a condition, where the condition is said in other words. -/
theorem ite_branches {α : Sort _} {p q : Prop} [Decidable p] {a b : α} (h : p ↔ q) :
    (q → (if p then a else b) = a) ∧ (¬q → (if p then a else b) = b) :=
  ⟨fun hq => if_pos (h.mpr hq), fun hq => if_neg (mt h.mp hq)⟩

/-- A desk command that is served in SLEEP acts on the device in the power state that it has (R667). -/
theorem deskRun_quietNow {s : State} {src : DeskSrc} {op : Nat} {c : RunCmd} (f : State → RunCmd → State)
    (h : Serves s src op c) (hop : sleepOps.contains op = true) : deskRun op f s src = f (quietNow s) c := by
  rw [deskRun_serves f h, awake, if_pos hop]

/-! ### POWER_FLOOR and POWER_LIMIT (R587, R668, R670) -/

section powerCommands

variable {s : State} {src : DeskSrc} {c : RunCmd}

theorem exec_powerFloor (h : Serves s src 0x0A01 c) : exec (.powerFloor src) s = .next (powerFloorBody (quietNow s) c) :=
  congrArg Host.Outcome.next (deskRun_quietNow _ h (by decide))

theorem exec_powerLimit (h : Serves s src 0x0A02 c) : exec (.powerLimit src) s = .next (powerLimitBody (quietNow s) c) :=
  congrArg Host.Outcome.next (deskRun_quietNow _ h (by decide))

end powerCommands

section wakeToFloor

variable {s : State}

theorem wakeToFloor_within (h : powerCode s.power.state ≤ powerCode s.power.floor) : wakeToFloor s = s := if_pos h

section deeper

variable (h : powerCode s.power.floor < powerCode s.power.state)
include h

theorem wakeToFloor_clocksOff (hf : s.power.floor ≠ .active) :
    wakeToFloor s = powerMod s (fun p => { p with state := p.floor }) := by
  rw [wakeToFloor, if_neg (Nat.not_le.mpr h), if_neg hf]

/-- A device that must be ACTIVE, and is not waking yet, begins to wake. -/
theorem wakeToFloor_active (hf : s.power.floor = .active) (hw : s.power.wake = none) :
    wakeToFloor s = powerMod s (fun p => { p with wake := some { source := s.power.state, startedAt := s.now } }) := by
  have hstate : s.power.state ≠ .active := fun hactive => by simp [hf, hactive] at h
  have hno : ¬(s.power.state = .active ∨ s.power.wake.isSome = true) := by simp [hstate, hw]
  rw [wakeToFloor, if_neg (Nat.not_le.mpr h), if_pos hf, startWake, if_neg hno, powerMod]

end deeper

end wakeToFloor

/-! ### Moves between the states (R666 to R672) -/

section moves

variable (s : State)

theorem exec_idleToReady : exec .idleToReady s = execIdleToReady s := rfl
theorem exec_readyToDoze : exec .readyToDoze s = execReadyToDoze s := rfl
theorem exec_dozeToSleep : exec .dozeToSleep s = execDozeToSleep s := rfl

end moves

theorem leaveSleep_asleep {s : State} (h : s.power.state = .sleep) :
    leaveSleep s = powerMod s (fun p => { p with state := .doze, quietSince := s.now }) := by
  simp only [leaveSleep, powerMod, h, if_true]

theorem secT_sixty : secT 60 = 960000000000 := rfl

theorem exec_sleepScrubVisit {s : State} (hs : s.power.state = .sleep) (ht : tierServed s = true)
    (hdue : s.power.lastScrubVisit + 960000000000 ≤ s.now) :
    exec .sleepScrubVisit s = .next (powerMod s (fun p => { p with lastScrubVisit := s.now })) := by
  show execSleepScrubVisit s = _
  rw [execSleepScrubVisit, secT_sixty, if_pos ⟨hs, ht, hdue⟩]

/-- Settles O24: each move is made under its own condition, and a floor acts as the device stands to it. -/
theorem powerStateMoves : Obligations.PowerStateMoves := by
  refine ⟨?floor, fun s src c h => exec_powerLimit h, ?ready, ?doze, ?sleep, ?woken, ?leaves,
    fun s hs ht hdue => exec_sleepScrubVisit hs ht hdue⟩
  case floor =>
    intro s src c h f t
    have heq : exec (.powerFloor src) s = .next (complete (wakeToFloor t) c rcDone [.u 1 (powerCode (wakeToFloor t).power.state)]) :=
      exec_powerFloor h
    clear_value f
    refine ⟨fun hwithin => ?_, fun hdeeper hf => ?_, fun hdeeper hf hw => ?_⟩
    · rw [heq, wakeToFloor_within (s := t) hwithin]
      rfl
    · rw [heq, wakeToFloor_clocksOff (s := t) hdeeper hf]
      rfl
    · rw [heq, wakeToFloor_active (s := t) hdeeper hf hw]
      rfl
  case ready =>
    intro s go
    rw [exec_idleToReady, execIdleToReady]
    exact ite_branches (by simp only [go, usT, Bool.not_eq_true'])
  case doze =>
    intro s go
    rw [exec_readyToDoze, execReadyToDoze]
    exact ite_branches (by simp only [go, msT, Bool.not_eq_true', Option.isNone_iff_eq_none])
  case sleep =>
    intro s go
    rw [exec_dozeToSleep, execDozeToSleep]
    exact ite_branches (by simp only [go, msT, Bool.not_eq_true', Option.isNone_iff_eq_none])
  case woken =>
    intro s w h
    show execWakeComplete s = _
    simp only [execWakeComplete, h, powerMod, sat32, satTo_eq_min]
  case leaves =>
    intro s hs ht
    exact (if_pos ⟨hs, ht⟩).trans (congrArg _ (leaveSleep_asleep hs))

/-! ### The throttle (R673 to R675) -/

/-- The reduction of R675 that applies to a half. -/
def throttleCut (p : Power) (h : Half) : Nat := max (thermalCut (halfTj p h)) (powerCut p)

section throttleNew

variable (p : Power) (h : Half)

theorem throttleNew_lowered (hc : 0 < throttleCut p h) : throttleNew p h = max 128 (p.throttle.get h - throttleCut p h) :=
  if_pos (Nat.ne_of_gt hc)

theorem throttleNew_raised (hc : throttleCut p h = 0) (htj : halfTj p h ≤ 97) (hw : p.watts * 100 ≤ 95 * p.limit) :
    throttleNew p h = min 1024 (p.throttle.get h + 64) :=
  (if_neg (not_not_intro hc)).trans (if_pos ⟨htj, hw⟩)

theorem throttleNew_kept (hc : throttleCut p h = 0) (hwarm : ¬(halfTj p h ≤ 97 ∧ p.watts * 100 ≤ 95 * p.limit)) :
    throttleNew p h = p.throttle.get h :=
  (if_neg (not_not_intro hc)).trans (if_neg hwarm)

theorem throttleNew_within (hlow : 128 ≤ p.throttle.get h) (hhigh : p.throttle.get h ≤ 1024) :
    128 ≤ throttleNew p h ∧ throttleNew p h ≤ 1024 := by
  obtain hzero | hcut := Nat.eq_zero_or_pos (throttleCut p h)
  · by_cases hcool : halfTj p h ≤ 97 ∧ p.watts * 100 ≤ 95 * p.limit
    · rw [throttleNew_raised p h hzero hcool.1 hcool.2]
      omega
    · rw [throttleNew_kept p h hzero hcool]
      exact ⟨hlow, hhigh⟩
  · rw [throttleNew_lowered p h hcut]
    omega

/-- The rows of R675 for a half. -/
theorem throttleNew_rows :
    (0 < throttleCut p h → throttleNew p h = max 128 (p.throttle.get h - throttleCut p h)) ∧
    (throttleCut p h = 0 → halfTj p h ≤ 97 → p.watts * 100 ≤ 95 * p.limit →
      throttleNew p h = min 1024 (p.throttle.get h + 64)) ∧
    (throttleCut p h = 0 → ¬(halfTj p h ≤ 97 ∧ p.watts * 100 ≤ 95 * p.limit) → throttleNew p h = p.throttle.get h) ∧
    (128 ≤ p.throttle.get h → p.throttle.get h ≤ 1024 → 128 ≤ throttleNew p h ∧ throttleNew p h ≤ 1024) :=
  ⟨throttleNew_lowered p h, throttleNew_raised p h, throttleNew_kept p h, throttleNew_within p h⟩

/-- What a half's new value is made from: its temperature, the input power and its limit, and its old value. -/
theorem throttleNew_congr {p q : Power} {h : Half} (htj : halfTj q h = halfTj p h) (hwatts : q.watts = p.watts)
    (hlimit : q.limit = p.limit) (hold : q.throttle.get h = p.throttle.get h) : throttleNew q h = throttleNew p h := by
  have hcut : powerCut q = powerCut p := by rw [powerCut, powerCut, hwatts, hlimit]
  rw [throttleNew, throttleNew, htj, hwatts, hlimit, hold, hcut]

end throttleNew

section throttleHalf

variable (p : Power) (h : Half)

theorem throttleHalf_frame : ∃ (v : PerHalf Nat) (thermal power : PerHalf Bool),
    throttleHalf p h = { p with throttle := v, causeThermal := thermal, causePower := power } := by
  unfold throttleHalf
  dsimp only
  split
  · exact ⟨p.throttle, p.causeThermal, p.causePower, rfl⟩
  · exact ⟨_, _, _, rfl⟩

theorem throttleHalf_watts : (throttleHalf p h).watts = p.watts := by
  obtain ⟨v, thermal, power, heq⟩ := throttleHalf_frame p h
  rw [heq]

theorem throttleHalf_get_self : (throttleHalf p h).throttle.get h = throttleNew p h := by
  unfold throttleHalf
  dsimp only
  split
  case isTrue heq => exact heq.symm
  case isFalse => exact PerHalf.get_set_self _ _ _

theorem throttleHalf_get_ne {g : Half} (hg : g ≠ h) : (throttleHalf p h).throttle.get g = p.throttle.get g := by
  unfold throttleHalf
  dsimp only
  split
  · rfl
  · exact PerHalf.get_set_ne _ _ hg

/-- A half's new value does not depend on the other's. -/
theorem throttleNew_throttleHalf_ne {g : Half} (hg : g ≠ h) : throttleNew (throttleHalf p h) g = throttleNew p g := by
  have hold := throttleHalf_get_ne p h hg
  obtain ⟨v, thermal, power, heq⟩ := throttleHalf_frame p h
  rw [heq] at hold ⊢
  exact throttleNew_congr rfl rfl rfl hold

end throttleHalf

/-- The power registers after an update with an input power. -/
def throttled (now watts : Nat) (p : Power) : Power :=
  hotMarks now (throttleHalf (throttleHalf { p with watts := watts } .h0) .h1)

theorem exec_throttleUpdate {s : State} (watts : Nat) (h : s.power.state ≠ .auxOnly) :
    exec (.throttleUpdate watts) s = .next (powerMod s (throttled s.now watts)) := by
  show execThrottleUpdate watts s = _
  rw [execThrottleUpdate, if_pos h]
  rfl

theorem throttled_watts (now watts : Nat) (p : Power) : (throttled now watts p).watts = watts := by
  rw [throttled, hotMarks, throttleHalf_watts, throttleHalf_watts]

theorem throttled_get (now watts : Nat) (p : Power) (h : Half) :
    (throttled now watts p).throttle.get h = throttleNew { p with watts := watts } h := by
  rw [throttled, hotMarks]
  cases h with
  | h0 => rw [throttleHalf_get_ne _ _ (by decide), throttleHalf_get_self]
  | h1 => rw [throttleHalf_get_self, throttleNew_throttleHalf_ne _ _ (by decide)]

/-- Settles O25: an update makes each half's value the one that R675 gives it. -/
theorem thermalAndThrottle : Obligations.ThermalAndThrottle := by
  refine ⟨fun s watts hon => ⟨_, exec_throttleUpdate watts hon, throttled_watts _ watts _, fun h => ?half⟩,
    fun s c0 t0 c1 t1 haux => ⟨_, if_pos haux⟩⟩
  case half =>
    dsimp only
    rw [throttled_get]
    cases h with
    | h0 => exact throttleNew_rows { s.power with watts := watts } .h0
    | h1 => exact throttleNew_rows { s.power with watts := watts } .h1

end Sys2Proof.Machine
end

section
/-! SUPPORT. What the power inputs, a thermal trip, PERST_N and the boot ROM do, one rule for each branch, and the statement on them
(R596, R599, R620, R676, R678, R680, R681, R685, R691, R692, R729 to R731). -/

namespace Sys2Proof.Machine

/-! ### AUX and the 48 V input (R596, R685, R729 to R731) -/

section powerInputs

variable {s : State}

/-- Step 1 of a cold start on a device to which AUX has just been applied. -/
theorem exec_auxPowerOn_first (slot : BitVec 3) (puf : Bool) (haux : s.pins.aux = true) (hstage : s.boot.stage = .auxOnly)
    (hread : s.boot.recordRead = false) : exec (.auxPowerOn slot puf) s =
    .next (railsUp (rootKeys { s with ident := { s.ident with slot := slot }, boot := { s.boot with recordRead := true } } puf)) := by
  show execAuxPowerOn slot puf s = _
  have hfirst : (!s.pins.aux) = true ∨ s.boot.stage = .auxOnly ∧ (!s.boot.recordRead) = true :=
    .inr ⟨hstage, by rw [hread, Bool.not_false]⟩
  rw [execAuxPowerOn, if_pos hfirst]
  simp only [haux, if_true]

theorem exec_auxPowerOff_on (haux : s.pins.aux = true) : exec .auxPowerOff s = .next { coldState { s with boot := {} } with
    pins := { s.pins with aux := false, pwrOk := false, faultN := true, alertN := true, thermtripN := true, syncOutLowUntil := none }
    power := {}, boot := { stage := .off } } :=
  if_pos haux

theorem exec_mainInputInRange_comes (h : s.pins.main = .outOfRange) : exec .mainInputInRange s =
    .next (railsUp { s with pins := { s.pins with main := .inRange }, boot := { s.boot with inRangeSince := s.now } }) :=
  if_neg (by simp [h])

theorem railsUp_ready (haux : s.pins.aux = true) (hread : s.boot.recordRead = true) (hmain : s.pins.main = .inRange)
    (htrip : s.pins.thermtripN = true) (hback : s.boot.departed = false) (hstage : s.boot.stage = .auxOnly) : railsUp s =
    powerMod { s with boot := { s.boot with stage := .railsGood }, pins := { s.pins with pwrOk := true } }
      (fun p => { p with state := .sleep }) :=
  if_pos ⟨haux, hread, hmain, htrip, by rw [hback, Bool.not_false], hstage⟩

theorem mainsOff_on (cause : Nat) (h : railsOn s = true) :
    mainsOff s cause = powerMod (coldState s) (fun p => { p with lossCause := cause }) := if_pos h

/-- A departure while the rails are on loses them, and is remembered. -/
theorem exec_mainInputDeparture_on (hmain : s.pins.main = .inRange) (h : railsOn s = true) {t : State}
    (ht : t = powerMod (coldState { s with pins := { s.pins with main := .outOfRange } }) (fun p => { p with lossCause := 1 })) :
    exec .mainInputDeparture s = .next { t with boot := { t.boot with departed := true } } := by
  show execMainInputDeparture s = _
  have hin : ¬s.pins.main = .outOfRange := by simp [hmain]
  have hon : railsOn { s with pins := { s.pins with main := .outOfRange } } = true := h
  rw [execMainInputDeparture, if_neg hin, mainsOff_on 1 hon, ← ht, h]
  simp only [Bool.or_true]

theorem msT_ten : msT 10 = 160000000 := rfl

/-- The return after 10 ms is a cold reset. -/
theorem exec_mainInputReturn_due (puf : Bool) (haux : s.pins.aux = true) (htrip : s.pins.thermtripN = true)
    (hgone : s.boot.departed = true) (hmain : s.pins.main = .inRange) (hdue : s.boot.inRangeSince + 160000000 ≤ s.now) :
    exec (.mainInputReturn puf) s =
      .next (railsUp (rootKeys (coldState { s with boot := { s.boot with departed := false } }) puf)) := by
  show execMainInputReturn puf s = _
  rw [execMainInputReturn, msT_ten, if_pos ⟨haux, htrip, hgone, hmain, hdue⟩]

theorem exec_thermtrip_due (haux : s.pins.aux = true) (htrip : s.pins.thermtripN = true) (hdue : tripDue s = true)
    (h : railsOn s = true) {t : State} (ht : t = powerMod (coldState s) (fun p => { p with lossCause := 2 })) :
    exec .thermtrip s = .next { t with pins := { t.pins with thermtripN := false } } := by
  show execThermtrip s = _
  rw [execThermtrip, if_pos ⟨haux, htrip, hdue⟩, mainsOff_on 2 h, ← ht]

end powerInputs

/-! ### PERST_N and the boot ROM (R620, R680, R681, R685) -/

section perst

variable {s : State}

theorem exec_perstFall_served (hhigh : s.pins.perstN = true) (haux : s.pins.aux = true) (htrip : s.pins.thermtripN = true)
    (hstage : s.boot.stage = .served ∨ s.boot.stage = .recovery) : exec .perstFall s = .next (perstReset s) := by
  show execPerstFall s = _
  rw [execPerstFall, if_neg (by simp [hhigh]), if_pos ⟨haux, htrip, hstage⟩]

theorem exec_perstRise_live (slot : BitVec 3) (hlow : s.pins.perstN = false) (haux : s.pins.aux = true)
    (htrip : s.pins.thermtripN = true) {t : State} (ht : t = { s with
      pins := { s.pins with perstN := true }, ident := { s.ident with slot := slot }
      boot := { s.boot with perstRoseAt := some s.now } }) :
    exec (.perstRise slot) s = .next (if s.boot.stage = .romWaiting then startUp t else t) := by
  subst ht
  show execPerstRise slot s = _
  rw [execPerstRise, if_neg (by simp [hlow]), if_neg (by simp [haux, htrip])]

theorem exec_bootRomStart_railsGood (hstage : s.boot.stage = .railsGood) {t : State} (ht : t = { s with
      boot := { s.boot with stage := .romWaiting }
      sec := { s.sec with meas := tset s.sec.meas 0 { digest := vbytes (Config.sm3 Config.romImage) } } }) :
    exec .bootRomStart s = .next (if s.pins.perstN then startUp t else t) := by
  subst ht
  exact if_pos hstage

theorem recoveryPath_stage : (recoveryPath s).boot.stage = .recovery := rfl

/-- A device on the recovery path holds ALERT_N low (R691). -/
theorem recoveryPath_alert : (recoveryPath s).pins.alertN = false := by
  show (_ && (recoveryPath s).boot.stage != .recovery) = false
  rw [recoveryPath_stage, bne_self_eq_false, Bool.and_false]

end perst

/-- Settles O26: under its hypotheses each input takes one branch of its meaning, and what a cold or PERST_N reset leaves is in the
state that it makes. -/
theorem powerInputsAndResets : Obligations.PowerInputsAndResets := by
  refine ⟨fun s slot puf haux hstage hread => exec_auxPowerOn_first slot puf haux hstage hread,
    fun s haux => ⟨_, exec_auxPowerOff_on haux, rfl, rfl, rfl, rfl, rfl, rfl, rfl, rfl, rfl, rfl, rfl⟩,
    fun s h => exec_mainInputInRange_comes h,
    fun s haux hread hmain htrip hback hstage => railsUp_ready haux hread hmain htrip hback hstage,
    fun s hmain hon => ⟨_, exec_mainInputDeparture_on hmain hon rfl, rfl, rfl, rfl, rfl, rfl, rfl, rfl, rfl⟩,
    fun s puf haux htrip hgone hmain hdue => exec_mainInputReturn_due puf haux htrip hgone hmain hdue,
    fun s haux htrip hdue hon => ⟨_, exec_thermtrip_due haux htrip hdue hon rfl, rfl, rfl, rfl, rfl, rfl, rfl⟩,
    fun s hhigh haux htrip hstage => ⟨exec_perstFall_served hhigh haux htrip hstage, rfl, rfl, rfl, rfl, rfl, rfl, rfl, rfl⟩,
    fun s slot hlow haux htrip => exec_perstRise_live slot hlow haux htrip rfl,
    fun s hstage => exec_bootRomStart_railsGood hstage rfl, fun s => rfl,
    fun s => ⟨recoveryPath_stage, rfl, recoveryPath_alert⟩⟩

end Sys2Proof.Machine
end

section
/-! SUPPORT. What the commands and ports that only answer do, one rule for each branch, and the statement on them (R552, R553, R587,
R589, R603, R607, R609, R623, R692). -/

namespace Sys2Proof.Machine

/-! ### The rows of the commands -/

section informationCommands

variable {s : State} {src : DeskSrc} {c : RunCmd}

theorem exec_deviceInfo (h : Serves s src 0x0101 c) : exec (.deviceInfo src) s = .next (deviceInfoBody (quietNow s) c) :=
  congrArg Host.Outcome.next (deskRun_quietNow _ h (by decide))

theorem exec_configStatus (h : Serves s src 0x0A05 c) : exec (.configStatus src) s = .next (configStatusBody (quietNow s) c) :=
  congrArg Host.Outcome.next (deskRun_quietNow _ h (by decide))

theorem exec_powerStatus (h : Serves s src 0x0A03 c) : exec (.powerStatus src) s = .next (powerStatusBody (quietNow s) c) :=
  congrArg Host.Outcome.next (deskRun_quietNow _ h (by decide))

theorem exec_fwInfo (h : Serves s src 0x0B01 c) : exec (.fwInfo src) s = .next (fwInfoBody (quietNow s) c) :=
  congrArg Host.Outcome.next (deskRun_quietNow _ h (by decide))

theorem exec_certChain (h : Serves s src 0x0103 c) : exec (.certChain src) s = .next (certChainBody (quietNow s) c) :=
  congrArg Host.Outcome.next (deskRun_quietNow _ h (by decide))

theorem exec_attestReport (h : Serves s src 0x0102 c) : exec (.attestReport src) s = .next (attestReportBody (leaveSleep s) c) :=
  congrArg Host.Outcome.next (deskRun_leaveSleep _ h (by decide))

end informationCommands

/-! ### Firmware, certificates and reports (R553, R589, R607, R609) -/

section bodies

variable {w : State} {c : RunCmd}

/-- FW_INFO where an image runs. -/
theorem fwInfoBody_image (h : w.boot.stage ≠ .recovery) : fwInfoBody w c =
    complete w c rcDone [.u 4 w.fw.version, .u 4 w.fw.stagedLen, .u 1 w.fw.commit, .b w.fw.digest] := by
  simp only [fwInfoBody, beq_eq_false_iff_ne.mpr h, Bool.false_eq_true, if_false]

section krOk

variable (hkr : w.sec.krOk = true)
include hkr

theorem certChainBody_piece (h : arg c 0 < (certChain w).length) :
    certChainBody w c = complete w c rcDone (pieceVals (certChain w) (arg c 0)) := by
  simp only [certChainBody, hkr, if_neg (Nat.not_le.mpr h), Bool.not_true, Bool.false_eq_true, if_false]

theorem certChainBody_pastEnd (h : (certChain w).length ≤ arg c 0) : certChainBody w c = failWith w c rcBadField := by
  simp only [certChainBody, hkr, if_pos h, Bool.not_true, Bool.false_eq_true, if_false]

variable {n : Nat} (hsrc : c.src = .carrel n)
include hsrc

section first

variable {r : Bytes} (hoff : arg c 1 = 0) (hr : r = reportOf w c n (argBytes c 0))
include hoff hr

theorem attestReportBody_first (hout : msgHasOut c.msg = false) : attestReportBody w c =
    complete (carrelMod w n (fun k => { k with report := some r })) c rcDone (pieceVals r 0) := by
  simp only [attestReportBody, hkr, hsrc, hoff, hout, hr, Bool.not_true, Bool.false_eq_true, if_false, if_true]

/-- The whole report goes to OUT. -/
theorem attestReportBody_whole (hout : msgHasOut c.msg = true) (hlen : r.length ≤ msgOutLen c.msg) : attestReportBody w c =
    completeOut (carrelMod w n (fun k => { k with report := some r })) c rcDone
      (packVals [.u 4 r.length, .u 4 0, .b (zeros 192)]) r := by
  subst hr
  simp only [attestReportBody, hkr, hsrc, hoff, hout, if_neg (Nat.not_lt.mpr hlen), Bool.not_true, Bool.false_eq_true, if_false, if_true]

end first

section kept

variable {old : Bytes} (hoff : arg c 1 ≠ 0) (hkept : (carrelOf w n).report = some old)
include hoff hkept

theorem attestReportBody_later (hnonce : slice old 0x20 32 = argBytes c 0) (hin : arg c 1 < old.length) :
    attestReportBody w c = complete w c rcDone (pieceVals old (arg c 1)) := by
  simp only [attestReportBody, hkr, hsrc, if_neg hoff, hkept, hnonce, ne_eq, not_true_eq_false, if_neg (Nat.not_le.mpr hin),
    Bool.not_true, Bool.false_eq_true, if_false]

theorem attestReportBody_otherNonce (hnonce : slice old 0x20 32 ≠ argBytes c 0) :
    attestReportBody w c = failWith w c rcConflict := by
  simp only [attestReportBody, hkr, hsrc, if_neg hoff, hkept, if_pos hnonce, Bool.not_true, Bool.false_eq_true, if_false]

end kept

end krOk

end bodies

/-! ### The debug port and the status area (R623, R692) -/

theorem exec_debugIdentityRead_on {s : State} (h : railsOn s = true) :
    exec .debugIdentityRead s = .next (emit s (.debugPort (deviceIdentity s ++ leBytes 8 (idDevice s)))) := if_pos h

theorem exec_auxStatusRead_answers {s : State} {addr len : Nat} (target : I3cTarget) (haux : s.pins.aux = true)
    (hstate : s.power.state = .auxOnly) (hlo : 0xF000 ≤ addr) (hhi : addr + len ≤ 0xF020) : exec (.auxStatusRead target addr len) s =
    .next (emit s (.i3c target (slice (auxArea s) (addr - 0xF000) len))) := by
  show execAuxStatusRead target addr len s = _
  rw [execAuxStatusRead, if_pos ⟨haux, hstate, hlo, hhi⟩]

/-- Settles O22: each clause is the rule above for the branch that its hypotheses name. -/
theorem informationReplies : Obligations.InformationReplies := by
  refine ⟨fun s src c h => exec_deviceInfo h, fun s src c h => exec_configStatus h, fun s src c h => exec_powerStatus h, ?firmware,
    ?chain, ?report, fun s h => exec_debugIdentityRead_on h,
    fun s target addr len haux hstate hlo hhi => exec_auxStatusRead_answers target haux hstate hlo hhi⟩
  case firmware =>
    intro s src c h hstage
    exact (exec_fwInfo h).trans (congrArg _ (fwInfoBody_image (w := quietNow s) hstage))
  case chain =>
    intro s src c h hkr
    rw [exec_certChain h]
    exact ⟨fun hin => congrArg _ (certChainBody_piece (w := quietNow s) hkr hin),
      fun hpast => congrArg _ (certChainBody_pastEnd (w := quietNow s) hkr hpast)⟩
  case report =>
    intro s n c h hsrc hkr r kept
    rw [exec_attestReport h]
    exact ⟨fun hoff hout => congrArg _ (attestReportBody_first (w := leaveSleep s) hkr hsrc hoff rfl hout),
      fun hoff hout hlen => congrArg _ (attestReportBody_whole (w := leaveSleep s) hkr hsrc hoff rfl hout hlen),
      fun old hoff hkept hnonce hin => congrArg _ (attestReportBody_later (w := leaveSleep s) hkr hsrc hoff hkept hnonce hin),
      fun old hoff hkept hnonce => congrArg _ (attestReportBody_otherNonce (w := leaveSleep s) hkr hsrc hoff hkept hnonce)⟩

end Sys2Proof.Machine
end

section
/-! SUPPORT. What the configuration, firmware and diagnostics commands and the debug port do, one rule for each branch, and the
statement on them (R475, R501, R588 to R591, R601, R617, R618, R623 to R625). -/

namespace Sys2Proof.Machine

/-! ### The rows of the commands -/

section firmwareCommands

variable {s : State} {src : DeskSrc} {c : RunCmd}

theorem exec_configWrite (buf : HostRead) (h : Serves s src 0x0A04 c) :
    exec (.configWrite src buf) s = .next (configWriteBody buf (leaveSleep s) c) :=
  congrArg Host.Outcome.next (deskRun_leaveSleep _ h (by decide))

theorem exec_fwStage (buf : HostRead) (h : Serves s src 0x0B02 c) :
    exec (.fwStage src buf) s = .next (fwStageBody buf (leaveSleep s) c) :=
  congrArg Host.Outcome.next (deskRun_leaveSleep _ h (by decide))

theorem exec_fwCommit (h : Serves s src 0x0B03 c) : exec (.fwCommit src) s = .next (fwCommitBody (leaveSleep s) c) :=
  congrArg Host.Outcome.next (deskRun_leaveSleep _ h (by decide))

theorem exec_diagMode (h : Serves s src 0x0B04 c) : exec (.diagMode src) s = .next (diagModeBody (leaveSleep s) c) :=
  congrArg Host.Outcome.next (deskRun_leaveSleep _ h (by decide))

end firmwareCommands

/-! ### Buffers, configuration blocks and images (R475, R501, R588 to R590, R617, R618) -/

section bodies

variable {w : State} {c : RunCmd}

/-- A command whose buffer cannot be read yet keeps its place. -/
theorem withBuf_waits (hbuf : bufOpen w c = false) (r : HostRead) (f : State → Bytes → State) : withBuf w c r f = cmdHold w c := by
  refine if_pos ?_
  rwa [Bool.or_eq_true, Bool.not_eq_true', Bool.not_eq_true', ← Bool.and_eq_false_iff]

theorem bufOpen_leaveSleep (s : State) (c : RunCmd) : bufOpen (leaveSleep s) c = bufOpen s c := rfl

section configWrite

variable (hlen : arg c 1 ≤ msgInLen c.msg)
include hlen

theorem configWriteBody_waits (hbuf : bufOpen w c = false) (r : HostRead) : configWriteBody r w c = cmdHold w c := by
  simp only [configWriteBody, if_neg (Nat.not_lt.mpr hlen), withBuf_waits hbuf]

variable (hbuf : bufOpen w c = true) {d b : Bytes} (hb : b = fit (arg c 1) (fit (msgInLen c.msg) d)) (hblock : leAt b 0 1 = arg c 0)
include hbuf hb hblock

theorem configWriteBody_stored {t : State} (ht : t = bufRead w c d) (hcheck : blockCheck b = true) : configWriteBody (.data d) w c =
    complete { t with flash := { t.flash with blocks := tset t.flash.blocks (arg c 0) b } } c rcDone [] := by
  simp only [configWriteBody, if_neg (Nat.not_lt.mpr hlen), withBuf_data hbuf, ← hb, hblock, hcheck, ← ht, ne_eq, not_true_eq_false,
    Bool.not_true, Bool.false_eq_true, if_false]

theorem configWriteBody_mismatch (hcheck : blockCheck b = false) :
    configWriteBody (.data d) w c = failWith (bufRead w c d) c rcHashMismatch := by
  simp only [configWriteBody, if_neg (Nat.not_lt.mpr hlen), withBuf_data hbuf, ← hb, hblock, hcheck, ne_eq, not_true_eq_false,
    Bool.not_false, if_false, if_true]

end configWrite

theorem fwStageBody_placed {t : State} {d : Bytes} (hroom : arg c 0 + arg c 1 ≤ 2 ^ 24) (hlen : arg c 1 ≤ msgInLen c.msg)
    (hbuf : bufOpen w c = true) (ht : t = bufRead w c d) : fwStageBody (.data d) w c =
    complete { t with fw := { t.fw with
      staged := place (t.fw.staged ++ zeros (arg c 0 + arg c 1 - t.fw.staged.length)) (arg c 0) (fit (arg c 1) (fit (msgInLen c.msg) d))
      stagedLen := max t.fw.stagedLen (arg c 0 + arg c 1) } } c rcDone [] := by
  simp only [fwStageBody, if_neg (Nat.not_lt.mpr hroom), if_neg (Nat.not_lt.mpr hlen), withBuf_data hbuf, ← ht]

theorem fwCommitBody_idle {b : Bytes} (hidle : w.fw.commit ≠ 1) (hb : b = fit (min (arg c 0) (2 ^ 24)) w.fw.staged) :
    fwCommitBody w c = if imageOk w b (arg c 0) = true
      then complete { w with fw := { w.fw with commit := 1, writing := b } } c rcAccepted [] else failWith w c rcSignatureFail := by
  cases hok : imageOk w b (arg c 0) with
  | false => simp only [fwCommitBody, ← hb, hok, Bool.not_false, Bool.false_eq_true, if_true, if_false]
  | true => simp only [fwCommitBody, ← hb, hok, if_neg hidle, Bool.not_true, Bool.false_eq_true, if_true, if_false]

theorem imageOk_leaveSleep (s : State) (b : Bytes) (n : Nat) : imageOk (leaveSleep s) b n = imageOk s b n := rfl

/-! ### DIAG_MODE (R591) -/

/-- What keeps the device out of diagnostics mode. -/
def diagBusy (s : State) : Prop := (∃ t ∈ s.tenants, t.1 ≠ 0) ∨ slipWaits s = true ∨ s.eng.ctxs ≠ []

theorem diagBusy_iff (s : State) :
    (s.tenants.any (fun t => t.1 != 0) = true ∨ slipWaits s = true ∨ (!s.eng.ctxs.isEmpty) = true) ↔ diagBusy s := by
  simp only [diagBusy, List.any_eq_true, bne_iff_ne, Bool.not_eq_true', List.isEmpty_eq_false_iff, ne_eq]

theorem diagModeBody_off (h : arg c 0 = 0) :
    diagModeBody w c = complete { w with diag := { w.diag with mode := false } } c rcDone [] := if_pos h

theorem diagModeBody_on (h : arg c 0 ≠ 0) (hidle : ¬diagBusy w) :
    diagModeBody w c = complete { w with diag := { w.diag with mode := true } } c rcDone [] := by
  rw [diagModeBody, if_neg h, if_neg (mt (diagBusy_iff w).mp hidle)]

theorem diagModeBody_busy (h : arg c 0 ≠ 0) (hbusy : diagBusy w) : diagModeBody w c = failWith w c rcConflict := by
  rw [diagModeBody, if_neg h, if_pos ((diagBusy_iff w).mpr hbusy)]

end bodies

/-! ### The end of an image's writing (R590) -/

section writeEnd

variable {s : State} (h : s.fw.commit = 1)
include h

theorem exec_fwCommitWriteEnd_written (hstage : s.boot.stage ≠ .recovery) : exec (.fwCommitWriteEnd true) s = .next { s with
    fw := { s.fw with commit := 2, writing := [] }, flash := { s.flash with image := s.fw.writing, commitFailed := false } } := by
  show execFwCommitWriteEnd true s = _
  rw [execFwCommitWriteEnd, if_neg (not_not_intro h), if_pos rfl]
  exact congrArg _ (if_neg hstage)

theorem exec_fwCommitWriteEnd_failed : exec (.fwCommitWriteEnd false) s = .next { s with
    fw := { s.fw with commit := 3, writing := [] }, flash := { s.flash with commitFailed := true } } := by
  show execFwCommitWriteEnd false s = _
  rw [execFwCommitWriteEnd, if_neg (not_not_intro h), if_neg Bool.false_ne_true]

end writeEnd

/-! ### The debug port (R601, R624, R625) -/

section debug

variable {s : State}

/-- When a challenge is issued. -/
def challengeMay (s : State) : Prop := railsOn s = true ∧ s.sec.debugUnlocked = false ∧ s.sec.debugFails < 3

theorem challengeMay_iff (s : State) :
    (railsOn s = true ∧ (!s.sec.debugUnlocked) = true ∧ s.sec.debugFails < 3) ↔ challengeMay s := by
  rw [challengeMay, Bool.not_eq_true']

theorem exec_debugChallenge_issued (h : challengeMay s) : exec .debugChallenge s =
    .next (emit (drew 32 { s with sec := { s.sec with debugChallenge := some (debugChallenge s) } }) (.debugPort (debugChallenge s))) :=
  if_pos ((challengeMay_iff s).mpr h)

theorem exec_debugChallenge_refused (h : ¬challengeMay s) : exec .debugChallenge s = .next s :=
  if_neg (mt (challengeMay_iff s).mp h)

theorem exec_debugResponse_challenged {ch : Bytes} (sig : Bytes) (h : s.sec.debugChallenge = some ch) {t : State}
    (ht : t = { s with sec := { s.sec with debugChallenge := none } }) : exec (.debugResponse sig) s = .next (
      if Config.sm2Verify (ascii "1234567812345678") (Config.romKey 1) (vbytes (Config.sm3 ch)) sig = true
      then { keysErased t with sec := { (keysErased t).sec with debugUnlocked := true } }
      else { t with sec := { t.sec with debugFails := t.sec.debugFails + 1 } }) := by
  subst ht
  show execDebugResponse sig s = _
  simp only [execDebugResponse, h]
  split <;> rfl

theorem keysErased_tenants : ∀ t ∈ (keysErased s).tenants, t.1 = 0 := by
  intro t ht
  simp only [keysErased, drew_tenants, List.mem_filter, beq_iff_eq] at ht
  exact ht.2

end debug

/-- Settles O27: each clause is the rule above for the branch that its hypotheses name. -/
theorem configurationFirmwareAndDebug : Obligations.ConfigurationFirmwareAndDebug := by
  refine ⟨?write, ?stage, ?commit, fun s h hstage => exec_fwCommitWriteEnd_written h hstage, fun s h => exec_fwCommitWriteEnd_failed h,
    ?diag, fun s hon hlocked hfails => exec_debugChallenge_issued ⟨hon, hlocked, hfails⟩, fun s h => exec_debugChallenge_refused h,
    fun s sig ch h => exec_debugResponse_challenged sig h rfl,
    fun s => ⟨rfl, rfl, rfl, rfl, rfl, rfl, rfl, rfl, keysErased_tenants⟩⟩
  case write =>
    intro s src c d h hlen b t
    rw [← bufOpen_leaveSleep s c]
    refine ⟨fun hwaits r => (exec_configWrite r h).trans (congrArg _ (configWriteBody_waits hlen hwaits r)),
      fun hbuf hblock => ?_⟩
    rw [exec_configWrite (.data d) h]
    exact ⟨fun hcheck => congrArg _ (configWriteBody_stored hlen hbuf rfl hblock rfl hcheck),
      fun hcheck => congrArg _ (configWriteBody_mismatch hlen hbuf rfl hblock hcheck)⟩
  case stage =>
    intro s src c d h hroom hlen hbuf t
    rw [exec_fwStage (.data d) h]
    exact congrArg _ (fwStageBody_placed hroom hlen ((bufOpen_leaveSleep s c).trans hbuf) rfl)
  case commit =>
    intro s src c h hidle b
    rw [exec_fwCommit h, fwCommitBody_idle (w := leaveSleep s) hidle rfl, imageOk_leaveSleep]
    rfl
  case diag =>
    intro s src c h busy
    rw [exec_diagMode h]
    exact ⟨fun hoff => congrArg _ (diagModeBody_off hoff), fun hon hidle => congrArg _ (diagModeBody_on hon hidle),
      fun hon hbusy => congrArg _ (diagModeBody_busy hon hbusy)⟩

end Sys2Proof.Machine
end

section
/-! SUPPORT. What the reliability desk commands do, one rule for each branch, and the statement on them (R584 to R586, R646 to R648,
R655, R661). -/

namespace Sys2Proof.Machine

/-! ### The rows of the commands -/

section rasCommands

variable {s : State} {src : DeskSrc} {c : RunCmd}

theorem exec_errataRead (h : Serves s src 0x0901 c) : exec (.errataRead src) s = .next (errataReadBody (leaveSleep s) c) :=
  congrArg Host.Outcome.next (deskRun_leaveSleep _ h (by decide))

theorem exec_rasStatus (h : Serves s src 0x0902 c) : exec (.rasStatus src) s = .next (rasStatusBody (quietNow s) c) :=
  congrArg Host.Outcome.next (deskRun_quietNow _ h (by decide))

theorem exec_unitService (h : Serves s src 0x0903 c) : exec (.unitService src) s = .next (unitServiceBody (leaveSleep s) c) :=
  congrArg Host.Outcome.next (deskRun_leaveSleep _ h (by decide))

theorem exec_scrubSet (h : Serves s src 0x0904 c) : exec (.scrubSet src) s = .next (scrubSetBody (leaveSleep s) c) :=
  congrArg Host.Outcome.next (deskRun_leaveSleep _ h (by decide))

end rasCommands

/-! ### ERRATA_READ (R585, R655, R661) -/

section errataRead

/-- The senders who are shown every record. -/
theorem staff_eq (mid : Nat) : (mid == 1 || mid == 3) = decide (mid = 1 ∨ mid = 3) :=
  (Bool.decide_or _ _).symm

variable {w u : State} {c : RunCmd} {first : Nat} {got : List ErrRec} {next : Nat}
  (hfirst : first = ((logView w).head?.map (·.seq)).getD 0)
  (hwalk : logWalk (fun r => decide (c.mid = 1 ∨ c.mid = 3) || r.tenant == some (cmdTenant w c))
    ((logView w).filter (fun r => decide (max (arg c 0) first ≤ r.seq)))
    (if msgHasOut c.msg = true then min 16384 (msgOutLen c.msg / 64) else 3) (max (arg c 0) first) = (got, next))
  (hu : u = if c.mid = 1 ∨ c.mid = 3 then markReturned w (got.map (·.seq)) else w)
include hfirst hwalk hu

/-- What ERRATA_READ answers, in its reply or in the buffer. -/
theorem errataReadBody_eq : errataReadBody w c =
    if msgHasOut c.msg = true then
      completeOut u c rcDone (packVals [.u 8 first, .u 8 next, .u 2 got.length, .b (zeros 192)]) (got.map recBytes).flatten
    else complete u c rcDone [.u 8 first, .u 8 next, .u 2 got.length, .b (fit 192 (got.map recBytes).flatten)] := by
  subst hu
  simp only [errataReadBody, staff_eq, ← hfirst, hwalk, decide_eq_true_eq]

theorem errataReadBody_inPlace (hout : msgHasOut c.msg = false) : errataReadBody w c =
    complete u c rcDone [.u 8 first, .u 8 next, .u 2 got.length, .b (fit 192 (got.map recBytes).flatten)] :=
  (errataReadBody_eq hfirst hwalk hu).trans (if_neg (Bool.eq_false_iff.mp hout))

theorem errataReadBody_buffer (hout : msgHasOut c.msg = true) : errataReadBody w c =
    completeOut u c rcDone (packVals [.u 8 first, .u 8 next, .u 2 got.length, .b (zeros 192)]) (got.map recBytes).flatten :=
  (errataReadBody_eq hfirst hwalk hu).trans (if_pos hout)

end errataRead

/-! ### UNIT_SERVICE (R586) -/

section unitService

/-- UNIT_SERVICE of a unit of either kind: the units that stay, whether it is retired, and the states with it on the way out and
back in. -/
def unitServed (w : State) (c : RunCmd) (left : List Nat) (retired : Bool) (leaves returns : State) : State :=
  if arg c 2 = 0 then
    if left = [arg c 1] then failWith w c rcConflict
    else if !left.contains (arg c 1) then complete w c rcDone []
    else complete leaves c rcDone []
  else if retired then failWith w c rcConflict
  else complete returns c rcDone []

variable {w : State} {c : RunCmd}

theorem unitServed_rules (left : List Nat) (retired : Bool) (leaves returns : State) :
    (arg c 2 = 0 → left = [arg c 1] → unitServed w c left retired leaves returns = failWith w c rcConflict) ∧
    (arg c 2 = 0 → left.contains (arg c 1) = false → unitServed w c left retired leaves returns = complete w c rcDone []) ∧
    (arg c 2 = 0 → left ≠ [arg c 1] → left.contains (arg c 1) = true →
      unitServed w c left retired leaves returns = complete leaves c rcDone []) ∧
    (arg c 2 ≠ 0 → retired = true → unitServed w c left retired leaves returns = failWith w c rcConflict) ∧
    (arg c 2 ≠ 0 → retired = false → unitServed w c left retired leaves returns = complete returns c rcDone []) := by
  refine ⟨fun hout hlast => ?_, fun hout hgone => ?_, fun hout hmore hin => ?_, fun hback hretired => ?_, fun hback hsound => ?_⟩
  · rw [unitServed, if_pos hout, if_pos hlast]
  · have hmore : left ≠ [arg c 1] := by
      rintro rfl
      simp at hgone
    rw [unitServed, if_pos hout, if_neg hmore, hgone, Bool.not_false, if_pos rfl]
  · rw [unitServed, if_pos hout, if_neg hmore, hin, Bool.not_true, if_neg Bool.false_ne_true]
  · rw [unitServed, if_neg hback, if_pos hretired]
  · rw [unitServed, if_neg hback, if_neg (Bool.eq_false_iff.mp hsound)]

theorem unitServiceBody_mu (h : arg c 0 = 0) : unitServiceBody w c =
    unitServed w c (unitsLeft w true (halfOf (arg c 1 / 64))) (muOf w (arg c 1)).retired
      (muMod w (arg c 1) (fun m => { m with remapDue := true, cause := 3 }))
      (muMod w (arg c 1) (fun m => { m with inService := true, remapDue := false, cause := 0 })) := by
  simp only [unitServiceBody, unitServed, h, beq_self_eq_true, if_true]

theorem unitServiceBody_vu (h : arg c 0 ≠ 0) : unitServiceBody w c =
    unitServed w c (unitsLeft w false (halfOf (arg c 1 / 16))) (vuOf w (arg c 1)).retired
      (vuMod w (arg c 1) (fun v => { v with remapDue := true, cause := 3 }))
      (vuMod w (arg c 1) (fun v => { v with inService := true, remapDue := false, cause := 0 })) := by
  simp only [unitServiceBody, unitServed, beq_eq_false_iff_ne.mpr h, Bool.false_eq_true, if_false]

end unitService

/-! ### SCRUB_SET (R584) -/

section scrubSet

variable {w : State} {c : RunCmd}

theorem scrubSetBody_sram (h : arg c 0 = 0) :
    scrubSetBody w c = complete { w with ras := { w.ras with scrubSram := arg c 1 } } c rcDone [] := by
  simp only [scrubSetBody, h]

theorem scrubSetBody_tier1 (h : arg c 0 = 1) :
    scrubSetBody w c = complete { w with ras := { w.ras with scrubT1 := arg c 1 } } c rcDone [] := by
  simp only [scrubSetBody, h]

theorem scrubSetBody_tier2 (h : arg c 0 = 2) :
    scrubSetBody w c = complete { w with ras := { w.ras with scrubT2 := arg c 1 } } c rcDone [] := by
  simp only [scrubSetBody, h]

end scrubSet

/-- Settles O43: each clause is the rule above for the branch that its hypotheses name. -/
theorem rasDeskCommands : Obligations.RasDeskCommands := by
  refine ⟨?errata, ?status, ?mu, ?vu, ?scrub⟩
  case errata =>
    intro s w u src c first got next h hw hfirst hwalk hu
    rw [exec_errataRead h, ← hw]
    exact ⟨fun hout => congrArg _ (errataReadBody_inPlace hfirst hwalk hu hout),
      fun hout => congrArg _ (errataReadBody_buffer hfirst hwalk hu hout)⟩
  case status =>
    intro s w src c h hw
    rw [exec_rasStatus h, ← hw]
    rfl
  case mu =>
    intro s w src c h hw hmu left
    rw [exec_unitService h, ← hw, unitServiceBody_mu hmu]
    simp only [Host.Outcome.next.injEq]
    exact unitServed_rules _ _ _ _
  case vu =>
    intro s w src c h hw hvu left
    rw [exec_unitService h, ← hw, unitServiceBody_vu hvu]
    simp only [Host.Outcome.next.injEq]
    exact unitServed_rules _ _ _ _
  case scrub =>
    intro s w src c h hw
    rw [exec_scrubSet h, ← hw]
    exact ⟨fun hsram => congrArg _ (scrubSetBody_sram hsram), fun hone => congrArg _ (scrubSetBody_tier1 hone),
      fun htwo => congrArg _ (scrubSetBody_tier2 htwo)⟩

end Sys2Proof.Machine
end

section
/-! SUPPORT. What the bandwidth commands, the ledger's windows and the urgency pins do, one rule for each branch, and the statement on
them (R455, R493, R497 to R499, R503 to R506, R582, R583). -/

namespace Sys2Proof.Machine

/-! ### The rows of the commands -/

section bandwidthCommands

variable {s : State} {src : DeskSrc} {c : RunCmd}

theorem exec_bwSet (buf : HostRead) (h : Serves s src 0x0801 c) : exec (.bwSet src buf) s = .next (bwSetBody buf (leaveSleep s) c) :=
  congrArg Host.Outcome.next (deskRun_leaveSleep _ h (by decide))

theorem exec_bwStatus (h : Serves s src 0x0802 c) : exec (.bwStatus src) s = .next (bwStatusBody (leaveSleep s) c) :=
  congrArg Host.Outcome.next (deskRun_leaveSleep _ h (by decide))

theorem exec_bwUrgency (h : Serves s src 0x0803 c) : exec (.bwUrgency src) s = .next (bwUrgencyBody (leaveSleep s) c) :=
  congrArg Host.Outcome.next (deskRun_leaveSleep _ h (by decide))

end bandwidthCommands

/-! ### BW_SET (R497 to R499, R583) -/

section bwSet

variable {w : State} {c : RunCmd}

theorem bwSetBody_short (buf : HostRead) (hlen : msgInLen c.msg < 8 * arg c 0) : bwSetBody buf w c = failWith w c rcBadField := by
  rw [bwSetBody, if_pos hlen]

variable {t : State} {d b : Bytes} (hlen : 8 * arg c 0 ≤ msgInLen c.msg) (hbuf : bufOpen w c = true) (ht : t = bufRead w c d)
  (hb : b = fit (msgInLen c.msg) d)
include hlen hbuf ht hb

theorem bwSetBody_badEntries (hbad : bwEntriesOk b (bwEntries b (arg c 0)) = false) :
    bwSetBody (.data d) w c = failWith t c rcBadField := by
  simp only [bwSetBody, if_neg (Nat.not_lt.mpr hlen), withBuf_data hbuf, ← ht, ← hb, hbad, Bool.not_false, if_true]

section legal

variable (hok : bwEntriesOk b (bwEntries b (arg c 0)) = true)
include hok

theorem bwSetBody_over (hover : (bwEntries b (arg c 0)).all (fun e => bwAdmits t (bwEntries b (arg c 0)) (nextUrg t) e.r) = false) :
    bwSetBody (.data d) w c = failWith t c rcOverGuarantee := by
  simp only [bwSetBody, if_neg (Nat.not_lt.mpr hlen), withBuf_data hbuf, ← ht, ← hb, hok, hover, Bool.not_true, Bool.not_false,
    Bool.false_eq_true, if_false, if_true]

theorem bwSetBody_admitted
    (hfits : (bwEntries b (arg c 0)).all (fun e => bwAdmits t (bwEntries b (arg c 0)) (nextUrg t) e.r) = true) :
    bwSetBody (.data d) w c = complete { t with bw := { t.bw with
      pending := t.bw.pending ++ (bwEntries b (arg c 0)).map (fun e => (e.r, e.c, e.guar, e.cap)) } } c rcDone [] := by
  simp only [bwSetBody, if_neg (Nat.not_lt.mpr hlen), withBuf_data hbuf, ← ht, ← hb, hok, hfits, Bool.not_true, Bool.false_eq_true,
    if_false]

end legal

end bwSet

/-! ### BW_STATUS and BW_URGENCY (R498, R503, R582, R583) -/

section bodies

variable {w : State} {c : RunCmd}

theorem bwStatusBody_short (h : msgOutLen c.msg < 272 * arg c 1) : bwStatusBody w c = failWith w c rcBadField := by
  rw [bwStatusBody, if_pos h]

theorem bwStatusBody_fits (h : 272 * arg c 1 ≤ msgOutLen c.msg) : bwStatusBody w c =
    completeOut w c rcDone [] (((List.range (arg c 1)).map (fun i => bwStatusBytes w (arg c 0 + i))).flatten) := by
  rw [bwStatusBody, if_neg (Nat.not_lt.mpr h)]

variable {u : PortUrg} {urg : Tbl Nat PortUrg}
  (hu : u = { tgetD (nextUrg w) (arg c 0) {} with
    pins := natBit (arg c 1) 0, inBand := natBit (arg c 1) 1, boost := arg c 2, mask := BitVec.ofNat 32 (arg c 3) })
  (hurg : urg = tset (nextUrg w) (arg c 0) u)
include hu hurg

theorem bwUrgencyBody_eq : bwUrgencyBody w c =
    if (List.range 26).all (fun r => !natBit (arg c 3) r || bwAdmits w [] urg r) = true then
      complete { w with bw := { w.bw with pendingUrg := tset w.bw.pendingUrg (arg c 0) u } } c rcDone []
    else failWith w c rcOverGuarantee := by
  subst hu hurg
  rw [bwUrgencyBody]

theorem bwUrgencyBody_admitted (h : ∀ r, r < 26 → natBit (arg c 3) r = true → bwAdmits w [] urg r = true) : bwUrgencyBody w c =
    complete { w with bw := { w.bw with pendingUrg := tset w.bw.pendingUrg (arg c 0) u } } c rcDone [] := by
  refine (bwUrgencyBody_eq hu hurg).trans (if_pos (List.all_eq_true.mpr fun r hr => ?_))
  cases hbit : natBit (arg c 3) r with
  | false => rw [Bool.not_false, Bool.true_or]
  | true => rw [h r (List.mem_range.mp hr) hbit, Bool.or_true]

theorem bwUrgencyBody_over {r : Nat} (hr : r < 26) (hbit : natBit (arg c 3) r = true) (hover : bwAdmits w [] urg r = false) :
    bwUrgencyBody w c = failWith w c rcOverGuarantee := by
  refine (bwUrgencyBody_eq hu hurg).trans (if_neg fun hall => ?_)
  have hin := List.all_eq_true.mp hall r (List.mem_range.mpr hr)
  rw [hbit, hover, Bool.not_true, Bool.or_false] at hin
  exact Bool.false_ne_true hin

end bodies

/-! ### Windows (R493, R499, R505, R506) -/

section window

variable {s : State}

/-- A window of the ledger ends: the counts pass on, what was admitted takes effect, and the relays and sessions go on. -/
theorem exec_ledgerWindow_ends {u v : State} (h : s.bw.lastWindow < s.now / 16000) (hu : u = { s with
      bw := { s.bw with lastWindow := s.now / 16000, cells := tmap s.bw.cells (fun _ x => cellClose x) }
      pool := { s.pool with caps := tmap s.pool.caps (fun _ c => { c with used := 0 }) } })
    (hv : v = (List.range 8).foldl relayGo ((List.range 26).foldl bwScale (bwApply u))) :
    exec .ledgerWindow s = .next (v.link.sessions.foldl (fun s e => sessDrain e.2.unsent.length s e.1) v) := by
  show execLedgerWindow s = _
  simp only [execLedgerWindow, if_pos h, hv, hu]

theorem exec_ledgerWindow_early (h : s.now / 16000 ≤ s.bw.lastWindow) : exec .ledgerWindow s = .next s := by
  show execLedgerWindow s = _
  simp only [execLedgerWindow, if_neg (Nat.not_lt.mpr h)]

/-- The effective guarantees of a resource's classes while its guarantees are above its capacity (R505). -/
def scaledCells (s : State) (r : Nat) : State :=
  (List.range 8).foldl (fun s' c =>
    bwMod s' r c (fun y => { y with
      effGuar := guarOf s' r c * (1000 * derated s r) / guarSum s r
      scaled := decide (guarOf s' r c ≠ 0)
      degraded := if guarOf s' r c ≠ 0 ∧ (!y.scaled) = true then stickySet s'.now else y.degraded })) s

/-- A resource that begins to be scaled is listed, and a record of it is written (R505). -/
theorem bwScale_begins {r : Nat} (hover : 1000 * derated s r < guarSum s r) (hnew : s.bw.scaledRes.contains r = false) :
    bwScale s r = logNow { scaledCells s r with bw := { (scaledCells s r).bw with scaledRes := (scaledCells s r).bw.scaledRes ++ [r] } }
      { kind := 0x0701, severity := 2, location := r, detail0 := derated s r, detail1 := guarSum s r / 1000 } := by
  simp only [bwScale, decide_eq_true hover, hnew, Bool.true_eq_false, Bool.true_and, true_and, if_true, if_false]
  rfl

end window

/-! ### Urgency pins (R455, R503, R504) -/

theorem exec_urgLevelChange_sampled {s u : State} {port : Nat} {level : BitVec 2} {x : PortUrg} (haux : s.pins.aux = true)
    (hx : x = tgetD s.link.urg port {}) (hu : u = { s with link := { s.link with
      urg := tset s.link.urg port (if x.sample = level then { x with level := level } else { x with sample := level }) } }) :
    exec (.urgLevelChange port level) s = .next (if 2 ≤ urgLevel u port then portWake u port else u) := by
  subst hx hu
  exact if_pos haux

/-- Settles O45: each clause is the rule above for the branch that its hypotheses name. -/
theorem bandwidthRegulation : Obligations.BandwidthRegulation := by
  refine ⟨?set, ?short, ?status, ?urgency, fun s u h hu v hv => exec_ledgerWindow_ends h hu hv, fun s h => exec_ledgerWindow_early h,
    fun s r hover hnew => ⟨_, bwScale_begins hover hnew⟩, ?pins⟩
  case set =>
    intro s w src c d b h hlen hbuf hw hb l
    rw [exec_bwSet (.data d) h]
    exact ⟨fun hbad => congrArg _ (bwSetBody_badEntries hlen hbuf hw hb hbad),
      fun hok hover => congrArg _ (bwSetBody_over hlen hbuf hw hb hok hover),
      fun hok hfits => congrArg _ (bwSetBody_admitted hlen hbuf hw hb hok hfits)⟩
  case short =>
    intro s w src c buf h hw hlen
    rw [exec_bwSet buf h, ← hw, bwSetBody_short buf hlen]
  case status =>
    intro s w src c h hw
    rw [exec_bwStatus h, ← hw]
    exact ⟨fun hshort => congrArg _ (bwStatusBody_short hshort), fun hfits => congrArg _ (bwStatusBody_fits hfits)⟩
  case urgency =>
    intro s w src c u urg h hw hu hurg
    rw [exec_bwUrgency h, ← hw]
    exact ⟨fun hall => congrArg _ (bwUrgencyBody_admitted hu hurg hall),
      fun r hr hbit hover => congrArg _ (bwUrgencyBody_over hu hurg hr hbit hover)⟩
  case pins =>
    intro s u port level x haux hx hu
    rw [exec_urgLevelChange_sampled haux hx hu]
    exact ⟨fun hurgent => congrArg _ (if_pos hurgent), fun hcalm => congrArg _ (if_neg (Nat.not_le.mpr hcalm))⟩

end Sys2Proof.Machine
end
